-- ==== Sys2Proof/Word.lean ====
section
/-!
DEFINITION. The machine's word types and the one table type of the model: a list of (key, value) pairs with
strictly rising keys, which holds memory, register files and every table of entries as plain data.
-/

namespace Sys2Proof

abbrev Byte := BitVec 8
abbrev Half := BitVec 16
/-- A 32-bit instruction word or register (R85, R97). -/
abbrev Word := BitVec 32
/-- A 64-bit address or register pair (R29, R97). -/
abbrev Dword := BitVec 64

/-- A table: keys strictly rising, at most one entry a key. -/
abbrev Tab (α : Type) := List (Nat × α)

namespace Tab

variable {α : Type}

/-- The entry under a key. -/
def get? : Tab α → Nat → Option α
  | [], _ => none
  | (k', v) :: t, k => if k = k' then some v else if k < k' then none else get? t k

/-- Puts an entry under a key, in its place. -/
def put : Tab α → Nat → α → Tab α
  | [], k, v => [(k, v)]
  | (k', v') :: t, k, v =>
    if k = k' then (k, v) :: t
    else if k < k' then (k, v) :: (k', v') :: t
    else (k', v') :: put t k v

/-- Removes the entry under a key. -/
def del : Tab α → Nat → Tab α
  | [], _ => []
  | (k', v') :: t, k =>
    if k = k' then t else if k < k' then (k', v') :: t else (k', v') :: del t k

/-- The entry under a key, or a default where the table lists none. -/
def getD (t : Tab α) (k : Nat) (d : α) : α := (t.get? k).getD d

/-- Every key of the table lies above `lo`. -/
def above (lo : Nat) : Tab α → Bool
  | [] => true
  | (k, _) :: t => decide (lo < k) && above k t

/-- The canonical form of the keys: strictly rising. -/
def rising : Tab α → Bool
  | [] => true
  | (k, _) :: t => above k t

/-- Stores a value in a table whose unlisted keys read as `d`: the value `d` itself is not listed. -/
def store [DecidableEq α] (t : Tab α) (d : α) (k : Nat) (v : α) : Tab α :=
  if v = d then t.del k else t.put k v

/-- No listed value equals what an unlisted key reads as. -/
def tight [DecidableEq α] (t : Tab α) (d : α) : Bool := t.all (fun e => decide (e.2 ≠ d))

end Tab

end Sys2Proof
end

