-- ==== Sys2Proof/Syntax.lean ====
section
/-!
DEFINITION. The instruction set as syntax: one constructor of `Instr` for each row of spec/opcode_table.json. Rows with
words carry their operand fields (R88 to R92); rows without words are the events of the hardware, and carry the names
of what they act on.
-/

namespace Sys2Proof

/-- The comparisons of UCMP and ICMP, in the order of their codes (R238). -/
inductive CC where
  | eq | ne | lt | le | gt | ge | ltu | leu | gtu | geu
  deriving DecidableEq, Repr

/-- The comparisons of FCMP and VPCMP, in the order of their codes (R258). -/
inductive FCmp where
  | eq | ne | lt | le | gt | ge | un | ord
  deriving DecidableEq, Repr

/-- The lane path's floating formats: binary32, or binary16 and bfloat16 (packed where the entry says so; R130, R256). -/
inductive LFmt where
  | f32 | f16 | bf16
  deriving DecidableEq, Repr

/-- The packed formats of FDP2 (R261). -/
inductive PFmt where
  | f16 | bf16
  deriving DecidableEq, Repr

/-- The narrow widths of ICVT (R251). -/
inductive NarrowW where
  | w8 | w16
  deriving DecidableEq, Repr

/-- The sizes of LD and ULD, in the order of SUB (R300). -/
inductive LdSz where
  | b32 | b64 | b128 | u8 | s8 | u16 | s16
  deriving DecidableEq, Repr

/-- The sizes of ST, in the order of SUB (R300). -/
inductive StSz where
  | b32 | b64 | b128 | b8 | b16
  deriving DecidableEq, Repr

/-- The sizes of an atomic operation (R302). -/
inductive ASz where
  | s32 | s64 | s128
  deriving DecidableEq, Repr

/-- The sizes of the atomic operations that have no 128-bit form (R302, R305). -/
inductive XSz where
  | s32 | s64
  deriving DecidableEq, Repr

/-- The atomic operations, in the order of their codes (R302). -/
inductive AtomOp where
  | add | min | max | minu | maxu | band | bor | bxor | exch | cas | fadd | fmin | fmax
  deriving DecidableEq, Repr

/-- The fields of the extended form (R92); `lit` is the literal of LEN 0b11. -/
structure EOps where
  d : BitVec 10 := 0
  a : BitVec 10 := 0
  b : BitVec 10 := 0
  c : BitVec 10 := 0
  qs : BitVec 3 := 0
  qn : Bool := false
  hint : BitVec 4 := 0
  x : BitVec 32 := 0
  lit : Option (BitVec 64) := none
  deriving DecidableEq, Repr

/-- The fields of the three-register base form (R89); `lit` is the literal of LEN 0b01. -/
structure B3Ops where
  d : BitVec 7 := 0
  a : BitVec 7 := 0
  b : BitVec 7 := 0
  lit : Option (BitVec 64) := none
  deriving DecidableEq, Repr

/-- The fields of a clause header (R88). `n` is the number of instructions minus 1. -/
structure Header where
  wait : BitVec 12 := 0
  seta : BitVec 4 := 15
  setb : BitVec 4 := 15
  n : BitVec 3 := 0
  deriving DecidableEq, Repr

/-- A Torfen image as it is offered to a complex (R203, R466): its bytes, its version, its signature and the public key
that it comes with (modulus and exponent), the version of the state table that its converter starts at, and the verdict of the
conversion. -/
structure Image where
  bytes : List (BitVec 8) := []
  version : Nat := 0
  sig : Nat := 0
  modulus : Nat := 0
  exponent : Nat := 0
  starts : Nat := 0
  converts : Bool := true
  deriving DecidableEq, Repr

/-- The fuse map (R15, R469): core numbers of the package that are fused off, and, by core, the working macros and channels. -/
structure Fuses where
  off : List Nat := []
  macros : List (Nat × BitVec 16) := []
  chans : List (Nat × BitVec 8) := []
  deriving DecidableEq, Repr

/-- What a package finds and is told at bring-up (R203, R468): the images of the two complexes, whether the memories and the ports
train, the fuses with the digest of the firmware key, the serial number, the attestation key (modulus and private exponent), the
strap of the PCI Express port, the ports' peers, the domain, the mirror partner, the fabric mode, the gang that firmware names, the
blocks of R211 that firmware makes non-secure, and the system mapping that firmware writes: the root of the control range's table
and words of physical memory. -/
structure Boot where
  images : Image × Image := ({}, {})
  memory : Bool := true
  fusesRead : Bool := true
  ports : Bool := true
  fuses : Fuses := {}
  keyDigest : BitVec 256 := 0
  serial : BitVec 64 := 0
  attKey : Nat × Nat := (0, 0)
  rootPort : Bool := false
  peers : List (Nat × Nat) := []
  domain : Nat := 1
  partner : Option Nat := none
  modeB : Bool := false
  gang : List Nat := []
  open_ : List Nat := []
  root : BitVec 64 := 0
  tables : List (Nat × BitVec 64) := []
  regions : List (Nat × BitVec 64 × BitVec 64 × BitVec 64) := []
  deriving DecidableEq, Repr

/-- A copy channel: of a core, or a copy on a hub-die channel (R351, R444). -/
inductive CopyChan where
  | core (core chan : Nat)
  | hub (pkg n : Nat)
  deriving DecidableEq, Repr

/-- A core entry that an uncorrectable error is found in (R518): in the burrow, a write queue, the pending-launch queue or the
stash. -/
inductive CoreEntry where
  | burrow (n : Nat)
  | write
  | launch (n : Nat)
  | stash (n : Nat)
  deriving DecidableEq, Repr

/-- Who presents a request to a translating die (R483): package, die, core and slot, or an engine's numbers. -/
structure Requester where
  pkg : Nat := 0
  die : Nat := 0
  core : Nat := 0
  slot : Nat := 0
  eng : Bool := false
  deriving DecidableEq, Repr

/-- A request for a translation (R101, R473, R479, R490): what is wanted of which address, for whom. `ty` is the TYPE code of
R483. -/
structure TransReq where
  va : BitVec 64
  asid : Nat := 0
  gen : Nat := 0
  world : Bool := false
  privileged : Bool := false
  read : Bool := true
  write : Bool := false
  fetch : Bool := false
  spec : Bool := false
  ty : Nat := 0
  who : Requester := {}
  /-- the queue whose generation the request carries (R186, R462): 0 none, else 1 + (package × 4096 + context) × 64 + queue -/
  root : Nat := 0
  qgen : Nat := 0
  deriving DecidableEq, Repr

/-- A flit as it arrives (R534): bytes 0, 1, 6 and 7, SEQ, ACK and payload; `good`: its CRC matches. -/
structure Flit where
  vc : BitVec 8
  ty : BitVec 8
  seq : BitVec 16
  ack : BitVec 16
  xoff : BitVec 8
  last : BitVec 8
  payload : List (BitVec 8) := []
  good : Bool := true
  deriving DecidableEq, Repr

/-- A soft error of a group (R515, R518): a register code word with one bad symbol or more, which its next reader meets, or data
that pending instruction `n` returns in the lanes of a mask. -/
inductive EccBad where
  | unit (u : Nat) (uncorrectable : Bool)
  | data (n : Nat) (lanes : BitVec 16)
  deriving DecidableEq, Repr
/-- The instructions and events of the hardware, in the order of spec/opcode_table.json. -/
inductive Instr where
  /-- R88. Short clause header: the clause starts when every flag in its WAIT mask is clear, and its SETA and SETB flags are assigned. -/
  | clause (h : Header)
  /-- R88. Clause header with a literal that carries TMASK, marking some instructions transient. -/
  | clauseTmask (h : Header) (lit : BitVec 64)
  /-- R88. Extended clause header, with TMASK in word 1 and the same effect as the literal header. -/
  | clauseExtended (h : Header) (w1 w2 : Word)
  /-- R91. Branch to PC plus 4 times OFF when condition CND holds. -/
  | braBj (cnd : BitVec 4) (off : BitVec 19)
  /-- R91. Branch to the absolute 64-bit literal target when condition CND holds. -/
  | braBjLiteral (cnd : BitVec 4) (off : BitVec 19) (lit : BitVec 64)
  /-- R230. E-form branch to PC plus 4 times the offset in X, or to a literal target. -/
  | bra (o : EOps)
  /-- R231. Call with a word offset: writes the return address to s510 and transfers control. -/
  | callBj (cnd : BitVec 4) (off : BitVec 19)
  /-- R231. Call to an absolute literal target, writing s510. -/
  | callBjLiteral (cnd : BitVec 4) (off : BitVec 19) (lit : BitVec 64)
  /-- R231. E-form call, writing s510, with ALIGN or ACCESS_VIOLATION when the target is misaligned or lies in another 4 GiB half. -/
  | call (o : EOps)
  /-- R230. Indirect branch to the address held in an s pair. -/
  | brx (o : EOps)
  /-- R230. Indirect branch to an s pair plus 4 times an index. -/
  | brxIdx (o : EOps)
  /-- R230. Return to (PC[63:32], s510). -/
  | retB3 (o : B3Ops)
  /-- R230. E-form return to (PC[63:32], s510). -/
  | ret (o : EOps)
  /-- R232. Waits for every long-latency instruction, copy, RATOM and burrow entry of the group, then ends the group. -/
  | exitB3 (o : B3Ops)
  /-- R232. E-form EXIT, which may be predicated. -/
  | exit (o : EOps)
  /-- R232. Ends the clause and marks the group as yielding. -/
  | yieldB3 (o : B3Ops)
  /-- R232. E-form YIELD. -/
  | yield (o : EOps)
  /-- R232. Raises SOFTWARE with the code from X in the subcode. -/
  | trap (o : EOps)
  /-- R223. Ends the handler: delivers a pending cause, or resumes the saved clause, or jumps to %tpc. -/
  | tretB3 (o : B3Ops)
  /-- R223. E-form TRET. -/
  | tret (o : EOps)
  /-- R233. Writes %em from an s register or a literal. -/
  | maskSet (o : EOps)
  /-- R233. Reads %em into an s register. -/
  | maskGet (o : EOps)
  /-- R233. Narrows %em to the lanes where a predicate holds, saves both halves and may set a k predicate. -/
  | maskIf (o : EOps)
  /-- R233. Sets %em to the saved else lanes and may set a k predicate. -/
  | maskElse (o : EOps)
  /-- R233. Restores %em from the saved value. -/
  | maskEnd (o : EOps)
  /-- R234. Sets a k predicate to the OR of a lane predicate over the active lanes. -/
  | voteAny (o : EOps)
  /-- R234. Sets a k predicate to the AND of a lane predicate over the active lanes. -/
  | voteAll (o : EOps)
  /-- R234. Writes the ballot of a lane predicate to an s register. -/
  | voteBal (o : EOps)
  /-- R234. Writes the count of lanes in the ballot to an s register. -/
  | voteCnt (o : EOps)
  /-- R234. Sets a k predicate when a lane register is equal in every active lane. -/
  | voteUni (o : EOps)
  /-- R235. Reads a special register into a lane or uniform register. -/
  | sysr (o : EOps)
  /-- R236. Writes a special register, with W1C clearing for %err and an ALIGN check for %tpc and %tba. -/
  | sysw (o : EOps)
  /-- R237. Returns the declared count of a role class. -/
  | roleCnt (o : EOps)
  /-- R237. Returns the physical unit bound to a role index. -/
  | rolePhys (o : EOps)
  /-- R237. Sets a k predicate when a role index is below the class count. -/
  | roleTest (o : EOps)
  /-- R520. Opens an idempotent region, saving the entry PC, %em and k1-k7. -/
  | regnB (o : EOps)
  /-- R533. Waits for the region's long-latency instructions, then closes the region. -/
  | regnE (o : EOps)
  /-- R533. Reads RB and OPEN into an s register. -/
  | regnStat (o : EOps)
  /-- R209. Pulls the owl line with a tag when SNAPEN is 1. -/
  | snap (o : EOps)
  /-- R209. Pulls the owl line and forwards the trigger to the gang slice. -/
  | snapGang (o : EOps)
  /-- R238. Uniform 32-bit add in the base form. -/
  | uaddB3 (o : B3Ops)
  /-- R238. Uniform 32-bit subtract in the base form. -/
  | uaddSubB3 (o : B3Ops)
  /-- R238. Uniform add modulo 2^32. -/
  | uadd (o : EOps)
  /-- R238. Uniform subtract modulo 2^32. -/
  | uaddSub (o : EOps)
  /-- R238. Uniform signed saturating add. -/
  | uaddSat (o : EOps)
  /-- R238. Uniform signed saturating subtract. -/
  | uaddSubSat (o : EOps)
  /-- R238. Uniform 64-bit add on pairs. -/
  | uadd64 (o : EOps)
  /-- R238. Uniform 64-bit subtract on pairs. -/
  | uaddSub64 (o : EOps)
  /-- R238. Uniform low product in the base form. -/
  | umulLoB3 (o : B3Ops)
  /-- R238. Uniform signed high product in the base form. -/
  | umulHiB3 (o : B3Ops)
  /-- R238. Uniform unsigned high product in the base form. -/
  | umulHiuB3 (o : B3Ops)
  /-- R238. Uniform product, bits [31:0]. -/
  | umulLo (o : EOps)
  /-- R238. Uniform signed product, bits [63:32]. -/
  | umulHi (o : EOps)
  /-- R238. Uniform unsigned product, bits [63:32]. -/
  | umulHiu (o : EOps)
  /-- R238. Uniform AND in the base form. -/
  | ulogAndB3 (o : B3Ops)
  /-- R238. Uniform OR in the base form. -/
  | ulogOrB3 (o : B3Ops)
  /-- R238. Uniform XOR in the base form. -/
  | ulogXorB3 (o : B3Ops)
  /-- R238. Uniform AND-NOT in the base form. -/
  | ulogAndnB3 (o : B3Ops)
  /-- R238. Uniform bitwise AND. -/
  | ulogAnd (o : EOps)
  /-- R238. Uniform bitwise OR. -/
  | ulogOr (o : EOps)
  /-- R238. Uniform bitwise XOR. -/
  | ulogXor (o : EOps)
  /-- R238. Uniform bitwise AND-NOT. -/
  | ulogAndn (o : EOps)
  /-- R238. AND of two k predicates. -/
  | ulogKand (o : EOps)
  /-- R238. OR of two k predicates. -/
  | ulogKor (o : EOps)
  /-- R238. XOR of two k predicates. -/
  | ulogKxor (o : EOps)
  /-- R238. AND-NOT of two k predicates. -/
  | ulogKandn (o : EOps)
  /-- R238. Uniform shift left in the base form. -/
  | ushfShlB3 (o : B3Ops)
  /-- R238. Uniform logical shift right in the base form. -/
  | ushfShrB3 (o : B3Ops)
  /-- R238. Uniform arithmetic shift right in the base form. -/
  | ushfSarB3 (o : B3Ops)
  /-- R238. Uniform rotate left in the base form. -/
  | ushfRotB3 (o : B3Ops)
  /-- R238. Uniform shift left, giving 0 for counts of 32 or more. -/
  | ushfShl (o : EOps)
  /-- R238. Uniform logical shift right. -/
  | ushfShr (o : EOps)
  /-- R238. Uniform arithmetic shift right. -/
  | ushfSar (o : EOps)
  /-- R238. Uniform rotate left by n mod 32. -/
  | ushfRot (o : EOps)
  /-- R238. Uniform comparison under condition cc, written to a k predicate. -/
  | ucmp (cc : CC) (o : EOps)
  /-- R238. Uniform move in the base form. -/
  | umovB3 (o : B3Ops)
  /-- R238. Uniform move from an s register or a 32-bit literal. -/
  | umov (o : EOps)
  /-- R238. Uniform move of a pair or a 64-bit literal. -/
  | umov64 (o : EOps)
  /-- R238. Moves the lane value of the lowest active lane to an s register. -/
  | umovFirst (o : EOps)
  /-- R238. Uniform select by a k predicate. -/
  | usel (o : EOps)
  /-- R238. Uniform signed minimum. -/
  | uminmaxMin (o : EOps)
  /-- R238. Uniform signed maximum. -/
  | uminmaxMax (o : EOps)
  /-- R238. Uniform unsigned minimum. -/
  | uminmaxMinu (o : EOps)
  /-- R238. Uniform unsigned maximum. -/
  | uminmaxMaxu (o : EOps)
  /-- R238. Uniform population count. -/
  | ubitPopc (o : EOps)
  /-- R238. Uniform count of leading zeros. -/
  | ubitClz (o : EOps)
  /-- R238. Uniform count of trailing zeros. -/
  | ubitCtz (o : EOps)
  /-- R238. Uniform bit reverse. -/
  | ubitBrev (o : EOps)
  /-- R238. Uniform unsigned bit-field extract. -/
  | ubitExtr (o : EOps)
  /-- R238. Uniform signed bit-field extract. -/
  | ubitExtrs (o : EOps)
  /-- R238. Uniform 64-bit address plus a zero-extended index shifted left. -/
  | ulea (o : EOps)
  /-- R238. Uniform 64-bit address plus a sign-extended index shifted left. -/
  | uleaS (o : EOps)
  /-- R250. Lane add in the base form. -/
  | iaddB3 (o : B3Ops)
  /-- R250. Lane subtract in the base form. -/
  | iaddSubB3 (o : B3Ops)
  /-- R250. Lane signed saturating add in the base form. -/
  | iaddSatB3 (o : B3Ops)
  /-- R250. Lane signed saturating subtract in the base form. -/
  | iaddSubSatB3 (o : B3Ops)
  /-- R250. Lane add modulo 2^32. -/
  | iadd (o : EOps)
  /-- R250. Lane subtract modulo 2^32. -/
  | iaddSub (o : EOps)
  /-- R250. Lane signed saturating add. -/
  | iaddSat (o : EOps)
  /-- R250. Lane signed saturating subtract. -/
  | iaddSubSat (o : EOps)
  /-- R250. Lane 64-bit add. -/
  | iadd64 (o : EOps)
  /-- R250. Lane 64-bit subtract. -/
  | iaddSub64 (o : EOps)
  /-- R250. Lane unsigned saturating add. -/
  | iaddSatu (o : EOps)
  /-- R250. Lane unsigned saturating subtract. -/
  | iaddSubSatu (o : EOps)
  /-- R250. Lane low product in the base form. -/
  | imulLoB3 (o : B3Ops)
  /-- R250. Lane signed high product in the base form. -/
  | imulHiB3 (o : B3Ops)
  /-- R250. Lane unsigned high product in the base form. -/
  | imulHiuB3 (o : B3Ops)
  /-- R250. Lane product, bits [31:0]. -/
  | imulLo (o : EOps)
  /-- R250. Lane signed product, bits [63:32]. -/
  | imulHi (o : EOps)
  /-- R250. Lane unsigned product, bits [63:32]. -/
  | imulHiu (o : EOps)
  /-- R250. Lane full 64-bit signed product. -/
  | imulWide (o : EOps)
  /-- R250. Lane full 64-bit unsigned product. -/
  | imulWideu (o : EOps)
  /-- R250. Lane multiply-add modulo 2^32. -/
  | imadLo (o : EOps)
  /-- R250. Lane signed widening multiply-add into a pair. -/
  | imadWide (o : EOps)
  /-- R250. Lane unsigned widening multiply-add into a pair. -/
  | imadWideu (o : EOps)
  /-- R250. Lane AND in the base form. -/
  | ilogAndB3 (o : B3Ops)
  /-- R250. Lane OR in the base form. -/
  | ilogOrB3 (o : B3Ops)
  /-- R250. Lane XOR in the base form. -/
  | ilogXorB3 (o : B3Ops)
  /-- R250. Lane AND-NOT in the base form. -/
  | ilogAndnB3 (o : B3Ops)
  /-- R250. Lane bitwise AND. -/
  | ilogAnd (o : EOps)
  /-- R250. Lane bitwise OR. -/
  | ilogOr (o : EOps)
  /-- R250. Lane bitwise XOR. -/
  | ilogXor (o : EOps)
  /-- R250. Lane bitwise AND-NOT. -/
  | ilogAndn (o : EOps)
  /-- R250. Lane three-input lookup table from X[7:0]. -/
  | ilogLut (o : EOps)
  /-- R250. Lane shift left in the base form. -/
  | ishfShlB3 (o : B3Ops)
  /-- R250. Lane logical shift right in the base form. -/
  | ishfShrB3 (o : B3Ops)
  /-- R250. Lane arithmetic shift right in the base form. -/
  | ishfSarB3 (o : B3Ops)
  /-- R250. Lane rotate in the base form. -/
  | ishfRotB3 (o : B3Ops)
  /-- R250. Lane shift left. -/
  | ishfShl (o : EOps)
  /-- R250. Lane logical shift right. -/
  | ishfShr (o : EOps)
  /-- R250. Lane arithmetic shift right. -/
  | ishfSar (o : EOps)
  /-- R250. Lane rotate left. -/
  | ishfRot (o : EOps)
  /-- R250. Lane 64-bit shift left. -/
  | ishfShl64 (o : EOps)
  /-- R250. Lane 64-bit logical shift right. -/
  | ishfShr64 (o : EOps)
  /-- R250. Lane 64-bit arithmetic shift right. -/
  | ishfSar64 (o : EOps)
  /-- R250. Lane signed minimum. -/
  | iminmaxMin (o : EOps)
  /-- R250. Lane signed maximum. -/
  | iminmaxMax (o : EOps)
  /-- R250. Lane unsigned minimum. -/
  | iminmaxMinu (o : EOps)
  /-- R250. Lane unsigned maximum. -/
  | iminmaxMaxu (o : EOps)
  /-- R250. Lane absolute value modulo 2^32. -/
  | iminmaxAbs (o : EOps)
  /-- R250. Lane saturating absolute value. -/
  | iminmaxAbsSat (o : EOps)
  /-- R250. Lane 32-bit comparison under condition cc, written to a q predicate. -/
  | icmp (cc : CC) (o : EOps)
  /-- R250. Lane 64-bit comparison under condition cc, written to a q predicate. -/
  | icmp64 (cc : CC) (o : EOps)
  /-- R250. Lane select by a q predicate. -/
  | isel (o : EOps)
  /-- R250. Lane 64-bit select by a q predicate. -/
  | isel64 (o : EOps)
  /-- R250. Lane population count. -/
  | ibitPopc (o : EOps)
  /-- R250. Lane count of leading zeros. -/
  | ibitClz (o : EOps)
  /-- R250. Lane count of trailing zeros. -/
  | ibitCtz (o : EOps)
  /-- R250. Lane bit reverse. -/
  | ibitBrev (o : EOps)
  /-- R250. Lane unsigned bit-field extract. -/
  | ibitExtr (o : EOps)
  /-- R250. Lane signed bit-field extract. -/
  | ibitExtrs (o : EOps)
  /-- R250. Lane bit-field insert. -/
  | ibitIns (o : EOps)
  /-- R250. Lane 64-bit address plus a zero-extended shifted index. -/
  | lea (o : EOps)
  /-- R250. Lane 64-bit address plus a sign-extended shifted index. -/
  | leaS (o : EOps)
  /-- R251. Sign-extends an 8- or 16-bit value. -/
  | icvtSext (w : NarrowW) (o : EOps)
  /-- R251. Zero-extends an 8- or 16-bit value. -/
  | icvtZext (w : NarrowW) (o : EOps)
  /-- R251. Saturates to signed 8 or 16 bits. -/
  | icvtSatS (w : NarrowW) (o : EOps)
  /-- R251. Saturates to unsigned 8 or 16 bits. -/
  | icvtSatU (w : NarrowW) (o : EOps)
  /-- R251. Sign-extends a 32-bit value to 64 bits. -/
  | icvtSext64 (o : EOps)
  /-- R251. Zero-extends a 32-bit value to 64 bits. -/
  | icvtZext64 (o : EOps)
  /-- R251. Saturates a signed 64-bit value to signed 32 bits. -/
  | icvtSatS32 (o : EOps)
  /-- R251. Saturates a signed 64-bit value to unsigned 32 bits. -/
  | icvtSatU32 (o : EOps)
  /-- R252. Lane move in the base form. -/
  | movB3 (o : B3Ops)
  /-- R252. Lane move of bits from a register or a literal. -/
  | mov (o : EOps)
  /-- R252. Lane move of a pair or a 64-bit literal. -/
  | mov64 (o : EOps)
  /-- R253. Reads a lane register chosen per lane by an x register plus a base. -/
  | movxLd (o : EOps)
  /-- R253. Writes a lane register chosen per lane by an x register plus a base. -/
  | movxSt (o : EOps)
  /-- R254. Sets an x register. -/
  | xset (o : EOps)
  /-- R254. Adds to an x register modulo 2^16. -/
  | xsetAdd (o : EOps)
  /-- R254. Reads an x register into a lane register. -/
  | xget (o : EOps)
  /-- R255. Reads register A of an indexed lane. -/
  | shflIdx (o : EOps)
  /-- R255. Reads register A of lane l minus B. -/
  | shflUp (o : EOps)
  /-- R255. Reads register A of lane l plus B. -/
  | shflDown (o : EOps)
  /-- R255. Reads register A of lane l XOR B. -/
  | shflXor (o : EOps)
  /-- R256. FP32 add with RNE in the base form. -/
  | faddF32B3 (o : B3Ops)
  /-- R256. FP32 subtract with RNE in the base form. -/
  | faddSubF32B3 (o : B3Ops)
  /-- R256. Packed FP16 add in the base form. -/
  | faddF16x2B3 (o : B3Ops)
  /-- R256. Packed FP16 subtract in the base form. -/
  | faddSubF16x2B3 (o : B3Ops)
  /-- R256. Floating add in FP32, F16X2 or BF16X2 with the rounding mode of HINT. -/
  | fadd (fmt : LFmt) (o : EOps)
  /-- R256. Floating subtract in FP32, F16X2 or BF16X2. -/
  | faddSub (fmt : LFmt) (o : EOps)
  /-- R256. FP32 multiply in the base form. -/
  | fmulF32B3 (o : B3Ops)
  /-- R256. Packed FP16 multiply in the base form. -/
  | fmulF16x2B3 (o : B3Ops)
  /-- R256. Floating multiply in FP32, F16X2 or BF16X2. -/
  | fmul (fmt : LFmt) (o : EOps)
  /-- R256. FP32 fused multiply-add into D with RNE in the base form. -/
  | ffmaF32B3 (o : B3Ops)
  /-- R256. Packed FP16 fused multiply-add into D in the base form. -/
  | ffmaF16x2B3 (o : B3Ops)
  /-- R256. Fused multiply-add A times B plus C with one rounding. -/
  | ffma (fmt : LFmt) (o : EOps)
  /-- R257. IEEE minimumNumber in FP32, F16X2 or BF16X2. -/
  | fminmaxMin (fmt : LFmt) (o : EOps)
  /-- R257. IEEE maximumNumber in FP32, F16X2 or BF16X2. -/
  | fminmaxMax (fmt : LFmt) (o : EOps)
  /-- R258. Floating comparison under condition cc, written to a q predicate. -/
  | fcmp (cc : FCmp) (fmt : LFmt) (o : EOps)
  /-- R259. Rounds to an integral value in the same format. -/
  | frnd (fmt : LFmt) (o : EOps)
  /-- R260. Computes A times 2^B with one rounding. -/
  | fscale (fmt : LFmt) (o : EOps)
  /-- R261. Two-term dot product of packed 16-bit elements plus an FP32 addend. -/
  | fdp2 (fmt : PFmt) (o : EOps)
  /-- R262. Writes the class mask of a floating value to a lane register. -/
  | fclass (fmt : LFmt) (o : EOps)
  /-- R262. Sets a q predicate when the class of A is in the mask from X. -/
  | fclassPred (fmt : LFmt) (o : EOps)
  /-- R263. Converts FP32 to FP16. -/
  | fcvtF16F32 (o : EOps)
  /-- R263. Converts FP32 to BF16. -/
  | fcvtBf16F32 (o : EOps)
  /-- R263. Converts FP16 to FP32 exactly. -/
  | fcvtF32F16 (o : EOps)
  /-- R263. Converts BF16 to FP32 exactly. -/
  | fcvtF32Bf16 (o : EOps)
  /-- R263. Converts FP32 to signed int32 with saturation and NV. -/
  | fcvtS32F32 (o : EOps)
  /-- R263. Converts FP32 to unsigned int32 with saturation and NV. -/
  | fcvtU32F32 (o : EOps)
  /-- R263. Converts signed int32 to FP32. -/
  | fcvtF32S32 (o : EOps)
  /-- R263. Converts unsigned int32 to FP32. -/
  | fcvtF32U32 (o : EOps)
  /-- R263. Converts two FP32 values to packed FP16. -/
  | fcvtF16x2F32 (o : EOps)
  /-- R263. Converts two FP32 values to packed BF16. -/
  | fcvtBf16x2F32 (o : EOps)
  /-- R263. Converts FP32 to a T6 or T8 tapered format with TaperedEncode. -/
  | fcvtTpF32 (o : EOps)
  /-- R263. Converts a T6 or T8 tapered value to FP32 exactly. -/
  | fcvtF32Tp (o : EOps)
  /-- R264. Long-latency reciprocal of FP32. -/
  | fspecRcp (o : EOps)
  /-- R264. Long-latency reciprocal square root. -/
  | fspecRsq (o : EOps)
  /-- R264. Long-latency correctly rounded square root. -/
  | fspecSqrt (o : EOps)
  /-- R264. Long-latency 2^A. -/
  | fspecExp2 (o : EOps)
  /-- R264. Long-latency base-2 logarithm. -/
  | fspecLog2 (o : EOps)
  /-- R264. Long-latency sin of pi times A. -/
  | fspecSin (o : EOps)
  /-- R264. Long-latency cos of pi times A. -/
  | fspecCos (o : EOps)
  /-- R264. Long-latency hyperbolic tangent. -/
  | fspecTanh (o : EOps)
  /-- R104. A long-latency instruction completes: its result is written, its flag count falls by 1, and any asynchronous cause goes to a pending-trap register. -/
  | longLatencyCompletion (grp n : Nat)
  /-- R278. Writes P, MODE, SAT and GUARD of %prec in each active lane. -/
  | vprecSet (o : EOps)
  /-- R278. Writes only P of %prec. -/
  | vprecP (o : EOps)
  /-- R278. Writes MODE, SAT and GUARD of %prec. -/
  | vprecMode (o : EOps)
  /-- R279. Copies the head slice of a VP register to a lane register. -/
  | vpgetHead (o : EOps)
  /-- R279. Copies body slice j of a VP register to a lane register. -/
  | vpgetSlice (o : EOps)
  /-- R280. VP add rounded once with RoundVP, with the significance guard. -/
  | vpadd (o : EOps)
  /-- R280. VP subtract rounded once, with the significance guard. -/
  | vpaddSub (o : EOps)
  /-- R280. VP multiply rounded once. -/
  | vpmul (o : EOps)
  /-- R280. VP fused multiply-add with one rounding and the guard. -/
  | vpfma (o : EOps)
  /-- R280. VP negated-product fused multiply-add. -/
  | vpfmaNeg (o : EOps)
  /-- R280. VP divide rounded once. -/
  | vpdiv (o : EOps)
  /-- R280. VP square root rounded once. -/
  | vpsqrt (o : EOps)
  /-- R280. VP comparison under condition cc, written to a q predicate. -/
  | vpcmp (cc : FCmp) (o : EOps)
  /-- R281. Rounds a VP value to an integer at P bits. -/
  | vprndInt (o : EOps)
  /-- R281. Rounds a VP value to min(n, P) fraction bits. -/
  | vprndLen (o : EOps)
  /-- R282. Converts binary32 to VP. -/
  | vpcvtVpF32 (o : EOps)
  /-- R282. Converts VP to binary32. -/
  | vpcvtF32Vp (o : EOps)
  /-- R282. Converts binary64 to VP. -/
  | vpcvtVpF64 (o : EOps)
  /-- R282. Converts VP to binary64. -/
  | vpcvtF64Vp (o : EOps)
  /-- R282. Converts int64 to VP. -/
  | vpcvtVpS64 (o : EOps)
  /-- R282. Converts VP to int64 with saturation. -/
  | vpcvtS64Vp (o : EOps)
  /-- R282. Converts T16e1 to VP. -/
  | vpcvtVpT16 (o : EOps)
  /-- R282. Converts VP to T16e1. -/
  | vpcvtT16Vp (o : EOps)
  /-- R283. Copies a VP register unchanged. -/
  | vpmov (o : EOps)
  /-- R283. Copies a VP register with the sign inverted. -/
  | vpmovNeg (o : EOps)
  /-- R283. Copies a VP register with the sign cleared. -/
  | vpmovAbs (o : EOps)
  /-- R285. Loads one VP element per lane from the lane's base address. -/
  | vpld (o : EOps)
  /-- R285. Loads VP elements at a uniform base plus lane times a stride. -/
  | vpldStr (o : EOps)
  /-- R285. Loads VP elements at a base plus a per-lane byte index. -/
  | vpldIdx (o : EOps)
  /-- R285. Loads VP elements packed one after another across the active lanes. -/
  | vpldPack (o : EOps)
  /-- R286. Stores one VP element per lane, rounded to the store length. -/
  | vpst (o : EOps)
  /-- R286. Stores VP elements at a base plus lane times a stride. -/
  | vpstStr (o : EOps)
  /-- R286. Stores VP elements at a base plus a per-lane index. -/
  | vpstIdx (o : EOps)
  /-- R286. Stores VP elements packed one after another. -/
  | vpstPack (o : EOps)
  /-- R301. Uniform load of 8 to 128 bits into s registers, once for the group. -/
  | uld (sz : LdSz) (o : EOps)
  /-- R301. 32-bit lane load in the base form. -/
  | ld32B3 (o : B3Ops)
  /-- R301. 64-bit lane load in the base form. -/
  | ld64B3 (o : B3Ops)
  /-- R301. 128-bit lane load in the base form. -/
  | ld128B3 (o : B3Ops)
  /-- R301. Per-lane load of a size from R300, with offset, ordering and cache hint. -/
  | ld (sz : LdSz) (o : EOps)
  /-- R301. 32-bit lane store in the base form. -/
  | st32B3 (o : B3Ops)
  /-- R301. 64-bit lane store in the base form. -/
  | st64B3 (o : B3Ops)
  /-- R301. 128-bit lane store in the base form. -/
  | st128B3 (o : B3Ops)
  /-- R301. Per-lane store of a size from R300, optionally a release. -/
  | st (sz : StSz) (o : EOps)
  /-- R303. Atomic add returning the old value. -/
  | atomAdd (sz : XSz) (o : EOps)
  /-- R303. Atomic signed minimum. -/
  | atomMin (sz : XSz) (o : EOps)
  /-- R303. Atomic signed maximum. -/
  | atomMax (sz : XSz) (o : EOps)
  /-- R303. Atomic unsigned minimum. -/
  | atomMinu (sz : XSz) (o : EOps)
  /-- R303. Atomic unsigned maximum. -/
  | atomMaxu (sz : XSz) (o : EOps)
  /-- R303. Atomic AND. -/
  | atomAnd (sz : XSz) (o : EOps)
  /-- R303. Atomic OR. -/
  | atomOr (sz : XSz) (o : EOps)
  /-- R303. Atomic XOR. -/
  | atomXor (sz : XSz) (o : EOps)
  /-- R303. Atomic exchange. -/
  | atomExch (sz : XSz) (o : EOps)
  /-- R303. Atomic compare-and-swap of 32, 64 or 128 bits. -/
  | atomCas (sz : ASz) (o : EOps)
  /-- R303. Atomic FP32 add with RNE. -/
  | atomFadd (o : EOps)
  /-- R303. Atomic FP32 minimumNumber. -/
  | atomFmin (o : EOps)
  /-- R303. Atomic FP32 maximumNumber. -/
  | atomFmax (o : EOps)
  /-- R304. Reduction add with no result, optionally .comm. -/
  | redAdd (sz : XSz) (o : EOps)
  /-- R304. Reduction signed minimum. -/
  | redMin (sz : XSz) (o : EOps)
  /-- R304. Reduction signed maximum. -/
  | redMax (sz : XSz) (o : EOps)
  /-- R304. Reduction unsigned minimum. -/
  | redMinu (sz : XSz) (o : EOps)
  /-- R304. Reduction unsigned maximum. -/
  | redMaxu (sz : XSz) (o : EOps)
  /-- R304. Reduction AND. -/
  | redAnd (sz : XSz) (o : EOps)
  /-- R304. Reduction OR. -/
  | redOr (sz : XSz) (o : EOps)
  /-- R304. Reduction XOR. -/
  | redXor (sz : XSz) (o : EOps)
  /-- R304. Reduction FP32 add. -/
  | redFadd (o : EOps)
  /-- R304. Reduction FP32 minimum. -/
  | redFmin (o : EOps)
  /-- R304. Reduction FP32 maximum. -/
  | redFmax (o : EOps)
  /-- R305. Locked load that sets the lane's reservation on the line. -/
  | ldx (sz : XSz) (o : EOps)
  /-- R305. Conditional store that succeeds only while the reservation holds, and writes a status. -/
  | stx (sz : XSz) (o : EOps)
  /-- R308. Acquire fence at a scope, optionally .t. -/
  | fenceAcq (o : EOps)
  /-- R308. Release fence at a scope, optionally .t with write-back. -/
  | fenceRel (o : EOps)
  /-- R308. Full fence at a scope. -/
  | fenceAr (o : EOps)
  /-- R309. Writes back the dirty tensor lines of a range in the cluster. -/
  | cmaintWb (o : EOps)
  /-- R309. Writes back, then invalidates, the tensor lines of a range. -/
  | cmaintInv (o : EOps)
  /-- R309. Clears the EL mark of lines in a range. -/
  | cmaintDemote (o : EOps)
  /-- R310. Prefetches into L1 and the levels below. -/
  | prefL1 (o : EOps)
  /-- R310. Prefetches into the CLC and the levels below. -/
  | prefClc (o : EOps)
  /-- R311. Adds a stash binding of a window range to a global range. -/
  | stashMap (o : EOps)
  /-- R311. Writes back and removes a stash binding. -/
  | stashUnmap (o : EOps)
  /-- R311. Writes back the dirty entries of a stash binding. -/
  | stashFlush (o : EOps)
  /-- R314. Initialises a barrier object with an expected arrival count. -/
  | barInit (o : EOps)
  /-- R314. Adds arrivals to a barrier object as a release, possibly passing the phase. -/
  | barArrive (o : EOps)
  /-- R314. Adds expected bytes to a barrier object. -/
  | barExpect (o : EOps)
  /-- R315. Blocks the group until the barrier phase passes p, optionally allowing a swap-out. -/
  | barWait (o : EOps)
  /-- R314. Sets a k predicate to whether the phase has passed p. -/
  | barTest (o : EOps)
  /-- R295. A request arrives at a memory-side port and joins its write queue, or is refused with hint 8 when the queue is full. -/
  | mscRequest (die n : Nat)
  /-- R23. A refused request's hint expires, and the initiator re-sends it. -/
  | retryHintExpiry (n : Nat)
  /-- R341. Loads a B sub-tile into a macro role. -/
  | tldb (o : EOps)
  /-- R341. Loads an A block into a row buffer. -/
  | tlda (o : EOps)
  /-- R343. Plain pass of a buffer through cnt macros, accumulating into tiles. -/
  | tmma (o : EOps)
  /-- R343. Block-mode pass that writes four partial tiles per macro. -/
  | tmmaBlock (o : EOps)
  /-- R343. Triangular plain pass with masking and fill. -/
  | tmmaTri (o : EOps)
  /-- R343. Triangular block-mode pass that skips wholly masked sub-tiles. -/
  | tmmaBlockTri (o : EOps)
  /-- R344. Scales four partial tiles by row and column scales and accumulates them into a tile. -/
  | tsca (o : EOps)
  /-- R344. Triangular scale-and-accumulate with fill. -/
  | tscaTri (o : EOps)
  /-- R345. Zeroes the masked tiles. -/
  | taccZero (o : EOps)
  /-- R345. Reads accumulator pairs of a row into lane register pairs. -/
  | taccRdPair (o : EOps)
  /-- R345. Reads collapsed accumulator values of a row into lane registers. -/
  | taccRdVal (o : EOps)
  /-- R345. Stores a tile to memory as pairs, FP32 or INT32. -/
  | taccSt (o : EOps)
  /-- R345. Sets the accumulator mode and zeroes every tile. -/
  | taccMode (o : EOps)
  /-- R345. Loads the triangle register. -/
  | taccTri (o : EOps)
  /-- R346. Starts a whole M by N by K product from a descriptor in s registers. -/
  | tgemm (o : EOps)
  /-- R347. The tile sequencer performs one chunk or store step and reaches an interruption point. -/
  | tgemmStep (core : Nat)
  /-- R349. Saves the tile engine state to an area. -/
  | tctxSave (o : EOps)
  /-- R349. Restores the tile engine state from an area. -/
  | tctxRestore (o : EOps)
  /-- R350. Reads STEP of the running or last TGEMM. -/
  | tprogStep (o : EOps)
  /-- R350. Reads TOTAL of the running or last TGEMM. -/
  | tprogTotal (o : EOps)
  /-- R336. An accepted tile instruction starts once every earlier instruction sharing its resources has completed. -/
  | tileInstructionStart (core n : Nat)
  /-- R194. The arbiter grants the head request when INUSE plus its units fit BUDGET, or when INUSE is 0. -/
  | powerGrant (die : Nat)
  /-- R195. An operation ends and returns its units to the arbiter. -/
  | powerRelease (die op : Nat)
  /-- R196. A write to BUDGET changes the arbiter limit without revoking grants. -/
  | budgetWrite (die : Nat) (value : Word)
  /-- R369. Queues a linear copy on a channel role, joining the open batch. -/
  | cpy (o : EOps)
  /-- R369. Queues a two-dimensional strided copy. -/
  | cpy2 (o : EOps)
  /-- R369. Queues an indexed gather copy. -/
  | cpygGather (o : EOps)
  /-- R369. Queues an indexed scatter copy. -/
  | cpygScatter (o : EOps)
  /-- R365. A piece lands: WPTR, LCNT and any barrier count advance, and the copy completes after its last piece. -/
  | copyPieceLand (ch : CopyChan)
  /-- R360. A piece is refused, REF rises and the channel enters HOLD. -/
  | copyPieceRefused (ch : CopyChan) (hint : Byte)
  /-- R359. An error answer records the error in the copy's batch and stops further pieces. -/
  | copyErrorAnswer (ch : CopyChan) (sub : Byte)
  /-- R370. Seals the open batch and returns its number. -/
  | cseal (o : EOps)
  /-- R371. Waits until the targeted batches complete, then reports and clears their errors. -/
  | cwait (o : EOps)
  /-- R371. Sets a k predicate when the targeted batches are complete. -/
  | cwaitTest (o : EOps)
  /-- R372. Reads a channel's WPTR. -/
  | cwptrAddr (o : EOps)
  /-- R372. Reads a channel's LCNT. -/
  | cwptrCnt (o : EOps)
  /-- R372. Reads PROG of the head copy. -/
  | cwptrProg (o : EOps)
  /-- R372. Reads a channel's refusal count. -/
  | cwptrRef (o : EOps)
  /-- R374. Non-returning atomic operation on tensor space at the owning MSC, with op and size as ATOM. -/
  | ratom (op : AtomOp) (sz : ASz) (o : EOps)
  /-- R374. Returning remote atomic operation, long-latency. -/
  | ratomRet (op : AtomOp) (sz : ASz) (o : EOps)
  /-- R375. A RATOM acknowledgement returns, completing its batch entry and releasing the next request to the line. -/
  | ratomAck (grp n : Nat)
  /-- R376. Waits for the group's tensor write-backs, copies and RATOMs before later control-space stores. -/
  | tfence (o : EOps)
  /-- R396. Creates or re-creates a squirrel counter at its home. -/
  | acrtNew (o : EOps)
  /-- R396. Gathers and frees a counter. -/
  | acrtFree (o : EOps)
  /-- R397. Takes n from the cluster's allowance, or requests from the home. -/
  | atake (o : EOps)
  /-- R398. Gives n to the slot allowance, returning the excess to the home. -/
  | agive (o : EOps)
  /-- R399. Reads the exact counter value after a full recall. -/
  | areadExact (o : EOps)
  /-- R399. Reads RESERVE at the home without recall. -/
  | areadApprox (o : EOps)
  /-- R387. The home serves the head request of a counter queue: grant, recall round or refusal. -/
  | allowanceServe (obj : Nat)
  /-- R385. A grant arrives at a waiting slot, which applies the take and becomes HELD. -/
  | allowanceGrant (n : Nat)
  /-- R385. A refusal arrives at a waiting slot, and status 1 is written. -/
  | allowanceRefusal (n : Nat)
  /-- R385. An exact-read reply arrives at the slot, which becomes BOUND. -/
  | exactReadReply (n : Nat)
  /-- R385. A recall arrives at a slot, which answers with its allowance. -/
  | allowanceRecall (n : Nat)
  /-- R387. A recall answer arrives at the home and is added to RESERVE. -/
  | recallAnswer (n : Nat)
  /-- R387. A return arrives at the home and is added, possibly setting BROKEN. -/
  | allowanceReturn (n : Nat)
  /-- R387. A give-up arrives at the home, is added, and clears the holder bit. -/
  | giveUp (n : Nat)
  /-- R418. Configures a solver batch from a descriptor. -/
  | sconf (o : EOps)
  /-- R419. Starts a configured solver batch. -/
  | sstart (o : EOps)
  /-- R420. Reads a sample slot's record fields. -/
  | sstatSamp (o : EOps)
  /-- R420. Reads a batch's state, ECODE and round. -/
  | sstatBatch (o : EOps)
  /-- R421. Pauses a running batch. -/
  | sctlPause (o : EOps)
  /-- R421. Resumes a paused batch. -/
  | sctlResume (o : EOps)
  /-- R421. Stops a batch through action 4. -/
  | sctlStop (o : EOps)
  /-- R421. Frees a batch. -/
  | sctlFree (o : EOps)
  /-- R409. Action 1: writes the stage inputs and list, then arrives on READY. -/
  | solverStageInput (die batch : Nat)
  /-- R409. Action 2: when DONEEV passes, copies the derivatives into the work areas. -/
  | solverStageCollect (die batch : Nat)
  /-- R408. Action 3: decides each sample, resizes h and writes its record. -/
  | solverDecide (die batch : Nat)
  /-- R409. Action 4: writes the end header and arrives on READY and BDONE. -/
  | solverEnd (die batch : Nat)
  /-- R414. A solver access is declared invalid or meets a fault, and the sample or the batch is ended. -/
  | solverAccessFault (die batch sample : Nat)
  /-- R434. Issues a collective from a descriptor and returns a handle. -/
  | coll (o : EOps)
  /-- R435. Waits for a collective and writes its status. -/
  | collw (o : EOps)
  /-- R435. Writes the status of a collective if it is complete. -/
  | collwTest (o : EOps)
  /-- R436. Writes the arbitration weights of a Spewlink port. -/
  | carbSet (o : EOps)
  /-- R436. Reads a port's arbitration register. -/
  | carbGet (o : EOps)
  /-- R425. A member joins at the collective directory; the collective starts when all ranks have joined, or completes with mismatch. -/
  | collJoin (die rec : Nat)
  /-- R427. The engine observes the SIGNAL word and marks buckets ready. -/
  | bucketReady (die rec : Nat)
  /-- R430. A collective segment lands at its receiver and its power units are released. -/
  | segmentReceive (die rec n : Nat)
  /-- R429. When every DST byte is written, the engine arrives on DONE and completes the handle. -/
  | collComplete (die rec : Nat)
  /-- R432. A collective ends on peer loss or fault with status 1 or 2. -/
  | collAbort (die rec status : Nat)
  /-- R459. Queues a device-side launch record, returning a handle and a status. -/
  | launch (o : EOps)
  /-- R459. Queues a device-side launch and releases the pending queue. -/
  | launchGo (o : EOps)
  /-- R460. Reads the status entry of a launch handle. -/
  | lstatState (o : EOps)
  /-- R460. Returns the group's own launch handle. -/
  | lstatSelf (o : EOps)
  /-- R457. At a release, the CP takes every pending and spilled launch record of the core. -/
  | pendingQueueTake (core : Nat)
  /-- R450. The CP reads and checks a launch record and enters it in the dispatcher list, or rejects it. -/
  | launchAccept (pkg n : Nat)
  /-- R441. The CP observes a new WIDX of a queue and starts consuming its packets. -/
  | widxAdvance (pkg ctx queue : Nat)
  /-- R443. NOP packet, consumed at once. -/
  | packetNop (pkg ctx queue : Nat)
  /-- R443. LAUNCH packet: accepts or rejects a launch record and writes the handle. -/
  | packetLaunch (pkg ctx queue : Nat)
  /-- R444. COPY packet: starts a copy on a hub-die channel. -/
  | packetCopy (pkg ctx queue : Nat)
  /-- R443. SIGNAL packet: performs a store or add as a release at .dom. -/
  | packetSignal (pkg ctx queue : Nat)
  /-- R443. WAIT packet: blocks the queue until a masked comparison holds. -/
  | packetWait (pkg ctx queue : Nat)
  /-- R443. BARRIER-AND packet: blocks until up to three barrier phases pass. -/
  | packetBarrierAnd (pkg ctx queue : Nat)
  /-- R443. QRESET packet: resets another queue of the context. -/
  | packetQreset (pkg ctx queue : Nat)
  /-- R464. Switches the gang slice through the PROPOSE, ACK and COMMIT protocol. -/
  | gangctlSwitch (pkg ctx queue : Nat)
  /-- R205. Triggers the owl line as source 2 with a tag. -/
  | gangctlSnap (pkg ctx queue : Nat)
  /-- R446. A watched line changes so that a blocked head packet's condition holds, and the packet is consumed. -/
  | waitConditionMet (pkg ctx queue : Nat)
  /-- R447. The CP sees a TICKET that differs from DONE, serves the request and writes STATUS, RESULT and DONE. -/
  | registrationTicket (pkg slot : Nat)
  /-- R448. Registers a context from a descriptor. -/
  | ctxreg (pkg slot : Nat)
  /-- R448. Removes a context. -/
  | ctxdereg (pkg slot : Nat)
  /-- R448. Starts a queue. -/
  | qstart (pkg slot : Nat)
  /-- R448. Resets a queue through the registration window. -/
  | qresetCommand (pkg slot : Nat)
  /-- R448. An unlisted OPC returns status 7. -/
  | invalidCommand (pkg slot : Nat)
  /-- R462. A queue enters RESETTING, its generation advances, and its launches and engine work are ended. -/
  | queueReset (pkg ctx queue : Nat)
  /-- R462. When the old generation's acknowledgements are in, RIDX is set to WIDX and the queue becomes STOPPED. -/
  | queueResetComplete (pkg ctx queue : Nat)
  /-- R198. A ramp step boundary: the CP starts and stops cohorts within the limits and places waiting units. -/
  | rampStep (pkg : Nat)
  /-- R73. The CP pre-empts a cohort at its pre-emption points and saves its context. -/
  | preempt (cohort : Nat)
  /-- R76. The CP restores a saved cohort on a core that fits and reloads the binding table. -/
  | cohortRestore (cohort core : Nat)
  /-- R456. A double fault, unhandled trap or escalation ends the whole launch as FAULTED. -/
  | launchFaultEnd (grp : Nat)
  /-- R465. A member receives PROPOSE and drains its current slice. -/
  | gangPropose (n : Nat)
  /-- R465. A member's cohorts of the old slice are saved, and it sends ACK. -/
  | gangSliceSaved (pkg : Nat)
  /-- R464. The leader receives an ACK and sends COMMIT when every ACK is in. -/
  | gangAck (n : Nat)
  /-- R465. A member receives COMMIT and starts the new slice. -/
  | gangCommit (n : Nat)
  /-- R466. The den verifies a new image, and at a quiescent boundary imports the state table and takes over. -/
  | liveUpdate (pkg : Nat) (img : Image)
  /-- R467. After 1 ms without a heartbeat from the active complex, the den takes over from the last exported table. -/
  | heartbeatTakeover (pkg : Nat)
  /-- R468. Package reset runs bring-up: image verification, training, fuses, links and the DIB. -/
  | packageReset (pkg : Nat) (boot : Boot)
  /-- R494. Writes a page-table entry at a tier, invalidating the old mapping. -/
  | tlbopMap (o : EOps)
  /-- R494. Removes a page's lines and translations. -/
  | tlbopInv (o : EOps)
  /-- R493. Removes every page's lines and translations for an ASID. -/
  | tlbopInvAsid (o : EOps)
  /-- R493. Removes every translation and stale-generation line and clears NCNT. -/
  | tlbopAll (o : EOps)
  /-- R488. Frees the die's fault buffer and retries every held access of the die. -/
  | tlbopReplay (o : EOps)
  /-- R488. Replays every die of the package, die 0 first. -/
  | tlbopReplayAll (o : EOps)
  /-- R489. Declares every access on a fault entry's wait list invalid. -/
  | tlbopDeny (o : EOps)
  /-- R483. Reads a fault buffer entry as four words. -/
  | tlbopFread (o : EOps)
  /-- R485. Reads a die's fault buffer status, WAITERS and SPEC_DROP. -/
  | tlbopFstat (o : EOps)
  /-- R491. Marks a tensor page MOVING and drains its lines and accesses. -/
  | tlbopMove (o : EOps)
  /-- R480. Advances an ASID's generation on every package after writing back its old dirty lines. -/
  | tlbopNewgen (o : EOps)
  /-- R471. A request arrives at the translating die's MTLB and is translated, walked, refused or faulted. -/
  | mtlbRequest (die : Nat) (req : TransReq)
  /-- R472. A page-table walk ends, filling the MTLBs or recording a fault for the waiting request. -/
  | walkComplete (die : Nat) (req : TransReq)
  /-- R512. Reports a control page's class and owner. -/
  | pclassQuery (o : EOps)
  /-- R513. Sets a page's class after gathering its tokens. -/
  | pclassSet (o : EOps)
  /-- R513. Asks for a class change, which may be applied or ignored. -/
  | pclassHint (o : EOps)
  /-- R512. Reports the issuing cluster's tokens and state for a line. -/
  | pclassLine (o : EOps)
  /-- R513. Clears a poisoned line to zero. -/
  | pclassClear (o : EOps)
  /-- R499. A READ request reaches a holder or the home, which answers with data and a token or forwards it. -/
  | cohReadRequest (cluster line : Nat)
  /-- R499. A WRITE request gathers every token from holders and the home. -/
  | cohWriteRequest (cluster line : Nat)
  /-- R501. A recall from the home reaches holders through the directories and filters. -/
  | cohRecall (cluster line : Nat)
  /-- R503. Tokens and data arrive at a requester, which retries or goes persistent after three failed attempts. -/
  | cohTokenAnswer (n : Nat)
  /-- R499. A holder evicts a line, sending its tokens and dirty data to the home. -/
  | cohEviction (cluster tag : Nat)
  /-- R500. The home sets DIRTY at the primary and the mirror and acknowledges. -/
  | dirtyNotice (cluster line : Nat)
  /-- R507. The home records PDIRTY of a PRIVATE page at the primary and the mirror. -/
  | pdirtyNotice (cluster frame : Nat)
  /-- R500. A dirty owner's write-back updates control memory and its mirror and clears DIRTY. -/
  | dirtyWriteback (cluster line : Nat)
  /-- R504. A persistent request enters the home's table and is activated in arrival order. -/
  | persistentRequest (cluster line : Nat) (write : Bool)
  /-- R506. A conflicting access holds the page while it is reclassified to SHARED. -/
  | classConflict (cluster : Nat) (va : BitVec 64) (write : Bool)
  /-- R510. Survivors report tokens to the home, which rebuilds the count or poisons the line. -/
  | censusReport (line : Nat)
  /-- R518. An instruction consumes an uncorrectable error of group scope. -/
  | eccUncorrectedConsume (grp : Nat) (bad : EccBad)
  /-- R527. An uncorrectable tile-engine word discards pending tile instructions and rolls back or escalates their groups. -/
  | tileEngineError (core : Nat)
  /-- R528. An uncorrectable core entry is discarded, and the core's groups roll back or escalate. -/
  | coreEntryError (core : Nat) (entry : CoreEntry)
  /-- R534. A flit arrives: it is checked, acknowledged, and its XOFF and payload are applied, or it is dropped. -/
  | flitReceive (pkg port : Nat) (flit : Flit)
  /-- R538. A NAK makes the sender resend from the flit after the last good sequence. -/
  | nakReceive (pkg port : Nat) (seq : Nat)
  /-- R541. Sixteen NAKs within 1 µs send the port to RETRAIN. -/
  | nakBurst (pkg port : Nat)
  /-- R541. A lane fails, and the port remaps it to the spare or retrains. -/
  | laneFail (pkg port lane : Nat)
  /-- R541. Port training completes, and the port is UP with flits resuming. -/
  | trainingComplete (pkg port : Nat)
  /-- R541. After 100 µs in RETRAIN, the port goes DOWN. -/
  | retrainTimeout (pkg port : Nat)
  /-- R541. The presence contact opens, and the port goes DOWN and is removed from the routes. -/
  | presentFall (pkg port : Nat)
  /-- R541. The presence contact closes, and the port starts training on MGMT only. -/
  | presentRise (pkg port : Nat)
  /-- R542. A peer sends no heartbeat for 100 µs, or no route reaches it, and it is declared lost. -/
  | peerHeartbeatTimeout (pkg peer : Nat)
  /-- R543. A survivor applies a loss declaration and settles every outstanding access to the lost package. -/
  | lossDeclaration (pkg peer : Nat)
  /-- R205. The external trigger pin pulls the owl line when PINEN is 1. -/
  | owlPinTrigger (pkg : Nat)
  /-- R207. A trigger forwarded by a gang peer arrives and latches as source 5. -/
  | owlForwardReceive (n : Nat)
  /-- R208. Writing 1 to BUSY re-arms the owl line and clears DROPS. -/
  | snapshotRearm (pkg : Nat)
  /-- R210. A write of key material to a slot is taken while EN is 0 and ignored otherwise. -/
  | keyMaterialWrite (pkg slot word : Nat) (value : Word)
  /-- R532. Writing 1 to VALID clears the containment log. -/
  | ctnlogClear (core : Nat)
  /-- R546. An inbound write TLP is performed when received whole. -/
  | pcieInboundWrite (pkg bar off : Nat) (data : List Byte)
  /-- R545. An inbound read TLP is served through a BAR and completed. -/
  | pcieInboundRead (pkg bar off len : Nat)
  /-- R546. The PCI Express link goes down: partial writes are dropped and outstanding requests are completed or discarded. -/
  | pcieLinkDown (pkg : Nat)
  /-- R210. A firmware write to a register that has no row of its own. -/
  | registerWrite (pkg : Nat) (den : Bool) (off width : Nat) (value : BitVec 64)
  /-- R204. On request, the active complex returns an attestation report that holds the measurement registers, the requester's nonce, the fuse map, the image version and the serial number, signed with the attestation key. -/
  | attestationRequest (pkg : Nat) (nonce : List Byte)
  /-- R542. Firmware admits an inserted blade's peer, assigning it a free package number and a mirror partner, and the port stops being limited to MGMT traffic. -/
  | bladeAdmission (pkg port peer partner : Nat)
  /-- R545. The PCI Express link trains and comes up in FLIT mode at the best supported rate and width, including after firmware releases a DPC hold. -/
  | pcieLinkUp (pkg : Nat) (rate width : Nat)
  deriving DecidableEq, Repr

end Sys2Proof
end

