-- ==== Sys2Proof/Machine/Operands.lean ====
section
/-!
DEFINITION. The operand forms of every instruction, as one `Shape` an instruction: what each field names (R89, R92, R97),
which literal it takes (R96), what HINT and X hold (R94, R95, R296), which predicates QS names (R93), whether it is
long-latency (R115) and privileged. `Form` says how an instruction is laid out in words.
-/

namespace Sys2Proof.Machine

/-- What an operand field names. `n` is 1, 2 (an even pair) or 4 (a group of four at a multiple of 4). -/
inductive OpK where
  /-- unused: the field is 0 (R99) -/
  | zero
  /-- a lane register -/
  | lane (n : Nat)
  /-- a lane register, or a uniform one when the field's X bit is set (R95) -/
  | laneU (n : Nat)
  /-- a uniform register -/
  | uni (n : Nat)
  /-- a uniform pair that D names as a source (the destination address of a copy, R369) -/
  | uniSrc
  /-- sixteen uniform registers from an even one (TGEMM, R346) -/
  | uni16
  /-- the column scales of TSCA: 32 lane registers, or four uniform ones (R344) -/
  | cols
  /-- a VP register -/
  | vp
  /-- a lane predicate read (0 to 7) or written (1 to 7) -/
  | qs | qd
  /-- a uniform predicate read (0 to 7) or written (1 to 7) -/
  | ks | kd
  /-- an index register, 0 to 3 -/
  | xi
  /-- a number (the base of MOVX, R253) -/
  | num
  /-- an accumulator tile, 0 to 15 -/
  | tile
  deriving DecidableEq, Repr

/-- How a literal is checked and read (R96). -/
inductive LitV where
  /-- [63:32] zero -/
  | zext
  /-- sign-extended from bit 31 -/
  | sext
  /-- the whole literal -/
  | dword
  /-- [63:16] zero (R233, R254) -/
  | half
  deriving DecidableEq, Repr

/-- Whether an instruction takes a literal, and whether the literal stands for B or (with A = 0) for A. -/
inductive LitK where
  | none
  | inB (v : LitV)
  | inA (v : LitV)
  deriving DecidableEq, Repr

/-- The meaning of HINT (R94). -/
inductive HintK where
  | zero | rnd | cache
  /-- BAR.WAIT: the cache hint, and .swap in HINT[2] (R296) -/
  | swap
  /-- HINT[0] is SAT (R339) -/
  | sat
  /-- HINT[0] negates (R233, R234) -/
  | neg
  deriving DecidableEq, Repr

/-- Which predicates QS names (R93, R298). -/
inductive QsK where
  | none | q | k
  deriving DecidableEq, Repr

/-- A check of X or of several fields together that an entry states. -/
inductive Extra where
  | none
  /-- E-form BRA and CALL: X is 0 with a literal (R230) -/
  | branch
  /-- the qualifiers of a memory access: .acq, .rel and .ar allowed (R296, R297) -/
  | mem (acq rel ar : Bool)
  /-- RED: .rel, or .comm alone (R297, R304) -/
  | red
  /-- FENCE and BAR: a scope without ORD (R296) -/
  | scoped
  /-- RATOM: an operation and size that R302 allows -/
  | ratom (op : AtomOp) (sz : ASz)
  /-- the number of a special register that the instruction may read or write (R113) -/
  | sysr | sysw
  /-- a tapered format code 4 to 8 in X[3:0] (R263) -/
  | taper
  /-- FSPEC: B names the operand, in place of A, when A is 0 (R264) -/
  | alt
  /-- a slice number of at least 1 (R279) -/
  | slice
  /-- a length 1 to 224 (R281); a length of at most 224 (R286) -/
  | len1 | len0
  /-- .STR: B is uniform or a literal; with a store length (R284) -/
  | strB | strB0
  /-- .PACK: A is uniform; with a store length (R284) -/
  | pack | pack0
  /-- a format code in X[7:4]: TLDB takes 0 to 12, TLDA 0 to 13 (R341) -/
  | tldb | tlda
  /-- TMMA: the roles and the tiles lie inside the file (R343) -/
  | tmma (block : Bool)
  /-- TSCA: p a multiple of 4, D outside p to p + 3 (R344) -/
  | tsca
  /-- TACC.ST: form 0 to 2; TACC.TRI.OFF has A and B 0 (R345) -/
  | taccSt | taccTri
  /-- CARB: port 0 to 23, or 31 in SET (R436) -/
  | carbSet | carbGet
  /-- PCLASS.SET and .HINT: class 0 to 2 (R512) -/
  | pageClass
  deriving DecidableEq, Repr

/-- The operand form of an instruction. `xm` is the bits of X that its entry gives a meaning, the uniform-class bits
apart. -/
structure Shape where
  d : OpK
  a : OpK
  b : OpK
  c : OpK
  lit : LitK
  hint : HintK
  xm : BitVec 32
  extra : Extra
  qs : QsK
  ll : Bool
  priv : Bool
  deriving DecidableEq, Repr

/-- The special registers of R112: number, whether it is held per lane, whether it is 64 bits wide, whether SYSW may
write it (and privileged). -/
inductive SpecReg where
  | laneid | grp | cohort | lvl (n : BitVec 3) | core | die | pkg | prec | vpstat
  | tpc | tcause | taddr | tmask | tba | trapen | err | cyc
  deriving DecidableEq, Repr

/-- The register of a number; every other number is reserved (R112, R113). -/
def SpecReg.ofNum (n : Nat) : Option SpecReg :=
  if n = 0x000 then some .laneid
  else if n = 0x001 then some .grp
  else if n = 0x002 then some .cohort
  else if 0x010 ≤ n ∧ n ≤ 0x017 then some (.lvl (BitVec.ofNat 3 (n - 0x010)))
  else if n = 0x020 then some .core
  else if n = 0x021 then some .die
  else if n = 0x022 then some .pkg
  else if n = 0x030 then some .prec
  else if n = 0x031 then some .vpstat
  else if n = 0x040 then some .tpc
  else if n = 0x041 then some .tcause
  else if n = 0x042 then some .taddr
  else if n = 0x043 then some .tmask
  else if n = 0x044 then some .tba
  else if n = 0x045 then some .trapen
  else if n = 0x050 then some .err
  else if n = 0x060 then some .cyc
  else none

/-- Held per lane (R112). -/
def SpecReg.perLane : SpecReg → Bool
  | .laneid => true
  | .lvl n => n == 0
  | .prec => true
  | .vpstat => true
  | _ => false

/-- 64 bits wide (R112). -/
def SpecReg.wide : SpecReg → Bool
  | .tpc => true
  | .taddr => true
  | .tba => true
  | .cyc => true
  | _ => false

/-- SYSW may write it (R112). -/
def SpecReg.writable : SpecReg → Bool
  | .prec => true
  | .vpstat => true
  | .tpc => true
  | .tba => true
  | .trapen => true
  | .err => true
  | _ => false

/-- SYSW of it is privileged (R112). -/
def SpecReg.privileged : SpecReg → Bool
  | .tba => true
  | .trapen => true
  | _ => false

/-- The operand kind of a special register's datum (R113, R235). -/
def sysK (x : BitVec 32) : OpK :=
  match SpecReg.ofNum (x.toNat % 4096) with
  | none => .zero
  | some r => if r.perLane then .lane 1 else if r.wide then .uni 2 else .uni 1

/-- The literal of SYSW: the whole literal for a 64-bit register (R235). -/
def sysLit (x : BitVec 32) : LitV :=
  match SpecReg.ofNum (x.toNat % 4096) with
  | none => .zext
  | some r => if r.wide then .dword else .zext

def ldKind (u : Bool) : LdSz → OpK
  | .b64 => if u then .uni 2 else .lane 2
  | .b128 => if u then .uni 4 else .lane 4
  | _ => if u then .uni 1 else .lane 1

def stKind : StSz → OpK
  | .b64 => .laneU 2
  | .b128 => .laneU 4
  | _ => .laneU 1

def stLit : StSz → LitK
  | .b64 => .inB .dword
  | .b128 => .none
  | _ => .inB .sext

def xDst : XSz → OpK
  | .s32 => .lane 1
  | .s64 => .lane 2

def xSrc : XSz → OpK
  | .s32 => .laneU 1
  | .s64 => .laneU 2

def xLit : XSz → LitK
  | .s32 => .inB .sext
  | .s64 => .inB .dword

def aDst : ASz → OpK
  | .s32 => .lane 1
  | .s64 => .lane 2
  | .s128 => .lane 4

def aSrc : ASz → OpK
  | .s32 => .laneU 1
  | .s64 => .laneU 2
  | .s128 => .laneU 4

def aLit : ASz → LitK
  | .s32 => .inB .sext
  | .s64 => .inB .dword
  | .s128 => .none

/-- The literal of RATOM: binary32 for the floating operations (R303, R373). -/
def ratomLit (op : AtomOp) (sz : ASz) : LitK :=
  match op with
  | .fadd => .inB .zext
  | .fmin => .inB .zext
  | .fmax => .inB .zext
  | _ => aLit sz

/-- RATOM has a third operand for CAS only (R373). -/
def ratomC (op : AtomOp) (sz : ASz) : OpK :=
  match op with
  | .cas => aSrc sz
  | _ => .zero

/-- C of TLDB and TLDA: a count register when CNT is 1 (R341). -/
def cntK (x : BitVec 32) : OpK := if x.getLsbD 9 then .uni 1 else .zero

/-- C of a copy: a barrier object's pair when BAR is 1 (R366). -/
def barK (x : BitVec 32) : OpK := if x.getLsbD 3 then .uni 2 else .zero

/-! ### Shapes shared by many instructions -/

/-- A uniform instruction with kinds D, A, B and C and a literal kind. -/
def shU (d a b c : OpK) (lit : LitK) (xm : BitVec 32 := 0) (hint : HintK := .zero) (extra : Extra := .none) : Shape :=
  ⟨d, a, b, c, lit, hint, xm, extra, .k, false, false⟩

/-- A lane instruction. -/
def shL (d a b c : OpK) (lit : LitK) (hint : HintK := .zero) (xm : BitVec 32 := 0) (extra : Extra := .none) : Shape :=
  ⟨d, a, b, c, lit, hint, xm, extra, .q, false, false⟩

/-! ### The shape of every opcode (each named after the first row that has it) -/

def shBra : Shape :=
  ⟨.zero, .zero, .zero, .zero, (.inB .dword), .zero, 0xFFFFFFFF#32, .branch, .k, false, false⟩
def shBrx : Shape :=
  ⟨.zero, (.uni 2), .zero, .zero, .none, .zero, 0, .none, .k, false, false⟩
def shBrxIdx : Shape :=
  ⟨.zero, (.uni 2), (.uni 1), .zero, (.inB .zext), .zero, 0, .none, .k, false, false⟩
def shRet : Shape :=
  ⟨.zero, .zero, .zero, .zero, .none, .zero, 0, .none, .k, false, false⟩
def shTrap : Shape :=
  ⟨.zero, .zero, .zero, .zero, .none, .zero, 0xFF#32, .none, .k, false, false⟩
def shMaskSet : Shape :=
  ⟨.zero, (.uni 1), .zero, .zero, (.inA .half), .zero, 0, .none, .k, false, false⟩
def shMaskGet : Shape :=
  ⟨(.uni 1), .zero, .zero, .zero, .none, .zero, 0, .none, .k, false, false⟩
def shMaskIf : Shape :=
  ⟨(.uni 1), .qs, .zero, .zero, .none, .neg, 0x7#32, .none, .k, false, false⟩
def shMaskElse : Shape :=
  ⟨.zero, (.uni 1), .zero, .zero, .none, .zero, 0x7#32, .none, .k, false, false⟩
def shMaskEnd : Shape :=
  ⟨.zero, (.uni 1), .zero, .zero, .none, .zero, 0, .none, .k, false, false⟩
def shVoteAny : Shape :=
  ⟨.kd, .qs, .zero, .zero, .none, .neg, 0, .none, .k, false, false⟩
def shVoteBal : Shape :=
  ⟨(.uni 1), .qs, .zero, .zero, .none, .neg, 0, .none, .k, false, false⟩
def shVoteUni : Shape :=
  ⟨.kd, (.lane 1), .zero, .zero, .none, .zero, 0, .none, .k, false, false⟩
def shSysr (o : EOps) : Shape :=
  ⟨(sysK o.x), .zero, .zero, .zero, .none, .zero, 0xFFF#32, .sysr, .k, false, false⟩
def shSysw (o : EOps) : Shape :=
  ⟨.zero, (sysK o.x), .zero, .zero, (.inA (sysLit o.x)), .zero, 0xFFF#32, .sysw, .k, false, false⟩
def shRoleCnt : Shape :=
  ⟨(.uni 1), .zero, .zero, .zero, .none, .zero, 0x3#32, .none, .k, false, false⟩
def shRolePhys : Shape :=
  ⟨(.uni 1), .zero, (.uni 1), .zero, (.inB .zext), .zero, 0x3#32, .none, .k, false, false⟩
def shRoleTest : Shape :=
  ⟨.kd, .zero, (.uni 1), .zero, (.inB .zext), .zero, 0x3#32, .none, .k, false, false⟩
def shSnap : Shape :=
  ⟨.zero, .zero, .zero, .zero, .none, .zero, 0xFFFF#32, .none, .k, false, false⟩
def shUadd : Shape :=
  ⟨(.uni 1), (.uni 1), (.uni 1), .zero, (.inB .sext), .zero, 0, .none, .k, false, false⟩
def shUadd64 : Shape :=
  ⟨(.uni 2), (.uni 2), (.uni 2), .zero, (.inB .dword), .zero, 0, .none, .k, false, false⟩
def shUlogKand : Shape :=
  ⟨.kd, .ks, .ks, .zero, .none, .zero, 0, .none, .k, false, false⟩
def shUcmp : Shape :=
  ⟨.kd, (.uni 1), (.uni 1), .zero, (.inB .sext), .zero, 0, .none, .k, false, false⟩
def shUmov : Shape :=
  ⟨(.uni 1), (.uni 1), .zero, .zero, (.inA .sext), .zero, 0, .none, .k, false, false⟩
def shUmov64 : Shape :=
  ⟨(.uni 2), (.uni 2), .zero, .zero, (.inA .dword), .zero, 0, .none, .k, false, false⟩
def shUmovFirst : Shape :=
  ⟨(.uni 1), (.lane 1), .zero, .zero, .none, .zero, 0, .none, .k, false, false⟩
def shUsel : Shape :=
  ⟨(.uni 1), (.uni 1), (.uni 1), .ks, (.inB .sext), .zero, 0, .none, .k, false, false⟩
def shUbitPopc : Shape :=
  ⟨(.uni 1), (.uni 1), .zero, .zero, .none, .zero, 0, .none, .k, false, false⟩
def shUlea : Shape :=
  ⟨(.uni 2), (.uni 2), (.uni 1), .zero, (.inB .zext), .zero, 0x7#32, .none, .k, false, false⟩
def shUleaS : Shape :=
  ⟨(.uni 2), (.uni 2), (.uni 1), .zero, (.inB .sext), .zero, 0x7#32, .none, .k, false, false⟩
def shIadd : Shape :=
  ⟨(.lane 1), (.laneU 1), (.laneU 1), .zero, (.inB .sext), .zero, 0, .none, .q, false, false⟩
def shIadd64 : Shape :=
  ⟨(.lane 2), (.laneU 2), (.laneU 2), .zero, (.inB .dword), .zero, 0, .none, .q, false, false⟩
def shImulWide : Shape :=
  ⟨(.lane 2), (.laneU 1), (.laneU 1), .zero, (.inB .sext), .zero, 0, .none, .q, false, false⟩
def shImadLo : Shape :=
  ⟨(.lane 1), (.laneU 1), (.laneU 1), (.laneU 1), (.inB .sext), .zero, 0, .none, .q, false, false⟩
def shImadWide : Shape :=
  ⟨(.lane 2), (.laneU 1), (.laneU 1), (.laneU 2), (.inB .sext), .zero, 0, .none, .q, false, false⟩
def shIlogLut : Shape :=
  ⟨(.lane 1), (.lane 1), (.lane 1), (.lane 1), (.inB .sext), .zero, 0xFF#32, .none, .q, false, false⟩
def shIshfShl64 : Shape :=
  ⟨(.lane 2), (.laneU 2), (.laneU 1), .zero, (.inB .sext), .zero, 0, .none, .q, false, false⟩
def shIminmaxAbs : Shape :=
  ⟨(.lane 1), (.laneU 1), .zero, .zero, .none, .zero, 0, .none, .q, false, false⟩
def shIcmp : Shape :=
  ⟨.qd, (.laneU 1), (.laneU 1), .zero, (.inB .sext), .zero, 0, .none, .q, false, false⟩
def shIcmp64 : Shape :=
  ⟨.qd, (.laneU 2), (.laneU 2), .zero, (.inB .dword), .zero, 0, .none, .q, false, false⟩
def shIsel : Shape :=
  ⟨(.lane 1), (.laneU 1), (.laneU 1), .qs, (.inB .sext), .zero, 0, .none, .q, false, false⟩
def shIsel64 : Shape :=
  ⟨(.lane 2), (.laneU 2), (.laneU 2), .qs, (.inB .dword), .zero, 0, .none, .q, false, false⟩
def shLea : Shape :=
  ⟨(.lane 2), (.laneU 2), (.laneU 1), .zero, (.inB .sext), .zero, 0x7#32, .none, .q, false, false⟩
def shIcvtSext64 : Shape :=
  ⟨(.lane 2), (.laneU 1), .zero, .zero, .none, .zero, 0, .none, .q, false, false⟩
def shIcvtSatS32 : Shape :=
  ⟨(.lane 1), (.laneU 2), .zero, .zero, .none, .zero, 0, .none, .q, false, false⟩
def shMov : Shape :=
  ⟨(.lane 1), (.laneU 1), .zero, .zero, (.inA .sext), .zero, 0, .none, .q, false, false⟩
def shMov64 : Shape :=
  ⟨(.lane 2), (.laneU 2), .zero, .zero, (.inA .dword), .zero, 0, .none, .q, false, false⟩
def shMovxLd : Shape :=
  ⟨(.lane 1), .num, .zero, .zero, .none, .zero, 0x3#32, .none, .q, false, false⟩
def shMovxSt : Shape :=
  ⟨.num, (.lane 1), .zero, .zero, .none, .zero, 0x3#32, .none, .q, false, false⟩
def shXset : Shape :=
  ⟨.xi, (.lane 1), .zero, .zero, (.inA .half), .zero, 0, .none, .q, false, false⟩
def shXget : Shape :=
  ⟨(.lane 1), .xi, .zero, .zero, .none, .zero, 0, .none, .q, false, false⟩
def shShflIdx : Shape :=
  ⟨(.lane 1), (.lane 1), (.laneU 1), .zero, (.inB .sext), .zero, 0, .none, .q, false, false⟩
def shFadd : Shape :=
  ⟨(.lane 1), (.laneU 1), (.laneU 1), .zero, (.inB .zext), .rnd, 0, .none, .q, false, false⟩
def shFfma : Shape :=
  ⟨(.lane 1), (.laneU 1), (.laneU 1), (.laneU 1), (.inB .zext), .rnd, 0, .none, .q, false, false⟩
def shFminmaxMin : Shape :=
  ⟨(.lane 1), (.laneU 1), (.laneU 1), .zero, .none, .zero, 0, .none, .q, false, false⟩
def shFcmp : Shape :=
  ⟨.qd, (.laneU 1), (.laneU 1), .zero, (.inB .zext), .zero, 0, .none, .q, false, false⟩
def shFrnd : Shape :=
  ⟨(.lane 1), (.laneU 1), .zero, .zero, .none, .rnd, 0, .none, .q, false, false⟩
def shFscale : Shape :=
  ⟨(.lane 1), (.laneU 1), (.laneU 1), .zero, (.inB .sext), .rnd, 0, .none, .q, false, false⟩
def shFclass : Shape :=
  ⟨(.lane 1), (.lane 1), .zero, .zero, .none, .zero, 0, .none, .q, false, false⟩
def shFclassPred : Shape :=
  ⟨.qd, (.lane 1), .zero, .zero, .none, .zero, 0x3FF#32, .none, .q, false, false⟩
def shFcvtF16F32 : Shape :=
  ⟨(.lane 1), (.laneU 1), .zero, .zero, (.inA .zext), .rnd, 0, .none, .q, false, false⟩
def shFcvtF32S32 : Shape :=
  ⟨(.lane 1), (.laneU 1), .zero, .zero, (.inA .sext), .rnd, 0, .none, .q, false, false⟩
def shFcvtTpF32 : Shape :=
  ⟨(.lane 1), (.lane 1), .zero, .zero, (.inA .zext), .zero, 0xF#32, .taper, .q, false, false⟩
def shFcvtF32Tp : Shape :=
  ⟨(.lane 1), (.lane 1), .zero, .zero, .none, .zero, 0xF#32, .taper, .q, false, false⟩
def shFspecRcp : Shape :=
  ⟨(.lane 1), (.lane 1), (.lane 1), .zero, (.inA .zext), .zero, 0, .alt, .q, true, false⟩
def shVprecSet : Shape :=
  ⟨.zero, .zero, (.laneU 1), .zero, (.inB .zext), .zero, 0xFFF#32, .none, .q, false, false⟩
def shVprecP : Shape :=
  ⟨.zero, .zero, (.laneU 1), .zero, (.inB .zext), .zero, 0, .none, .q, false, false⟩
def shVprecMode : Shape :=
  ⟨.zero, .zero, .zero, .zero, .none, .zero, 0xFFF#32, .none, .q, false, false⟩
def shVpgetHead : Shape :=
  ⟨(.lane 1), .vp, .zero, .zero, .none, .zero, 0, .none, .q, false, false⟩
def shVpgetSlice : Shape :=
  ⟨(.lane 1), .vp, .zero, .zero, .none, .zero, 0x7#32, .slice, .q, false, false⟩
def shVpadd : Shape :=
  ⟨.vp, .vp, .vp, .zero, .none, .rnd, 0, .none, .q, true, false⟩
def shVpfma : Shape :=
  ⟨.vp, .vp, .vp, .vp, .none, .rnd, 0, .none, .q, true, false⟩
def shVpsqrt : Shape :=
  ⟨.vp, .vp, .zero, .zero, .none, .rnd, 0, .none, .q, true, false⟩
def shVpcmp : Shape :=
  ⟨.qd, .vp, .vp, .zero, .none, .zero, 0, .none, .q, true, false⟩
def shVprndLen : Shape :=
  ⟨.vp, .vp, .zero, .zero, .none, .rnd, 0xFF#32, .len1, .q, true, false⟩
def shVpcvtVpF32 : Shape :=
  ⟨.vp, (.laneU 1), .zero, .zero, .none, .rnd, 0, .none, .q, true, false⟩
def shVpcvtF32Vp : Shape :=
  ⟨(.lane 1), .vp, .zero, .zero, .none, .rnd, 0, .none, .q, true, false⟩
def shVpcvtVpF64 : Shape :=
  ⟨.vp, (.laneU 2), .zero, .zero, .none, .rnd, 0, .none, .q, true, false⟩
def shVpcvtF64Vp : Shape :=
  ⟨(.lane 2), .vp, .zero, .zero, .none, .rnd, 0, .none, .q, true, false⟩
def shVpcvtT16Vp : Shape :=
  ⟨(.lane 1), .vp, .zero, .zero, .none, .zero, 0, .none, .q, true, false⟩
def shVpmov : Shape :=
  ⟨.vp, .vp, .zero, .zero, .none, .zero, 0, .none, .q, true, false⟩
def shVpld : Shape :=
  ⟨.vp, (.laneU 2), .zero, .zero, .none, .cache, 0, .none, .q, true, false⟩
def shVpldStr : Shape :=
  ⟨.vp, (.laneU 2), (.laneU 1), .zero, (.inB .sext), .cache, 0, .strB, .q, true, false⟩
def shVpldIdx : Shape :=
  ⟨.vp, (.laneU 2), (.laneU 1), .zero, .none, .cache, 0, .none, .q, true, false⟩
def shVpldPack : Shape :=
  ⟨.vp, (.laneU 2), .zero, .zero, .none, .cache, 0, .pack, .q, true, false⟩
def shVpst : Shape :=
  ⟨.zero, (.laneU 2), .zero, .vp, .none, .cache, 0xFF#32, .len0, .q, false, false⟩
def shVpstStr : Shape :=
  ⟨.zero, (.laneU 2), (.laneU 1), .vp, (.inB .sext), .cache, 0xFF#32, .strB0, .q, false, false⟩
def shVpstIdx : Shape :=
  ⟨.zero, (.laneU 2), (.laneU 1), .vp, .none, .cache, 0xFF#32, .len0, .q, false, false⟩
def shVpstPack : Shape :=
  ⟨.zero, (.laneU 2), .zero, .vp, .none, .cache, 0xFF#32, .pack0, .q, false, false⟩
def shUld (sz : LdSz) : Shape :=
  ⟨(ldKind true sz), (.uni 2), .zero, .zero, .none, .cache, 0x1F8FFFFF#32, (.mem true false false), .none, true, false⟩
def shLd (sz : LdSz) : Shape :=
  ⟨(ldKind false sz), (.laneU 2), .zero, .zero, .none, .cache, 0x1F8FFFFF#32, (.mem true false false), .q, true, false⟩
def shSt (sz : StSz) : Shape :=
  ⟨.zero, (.laneU 2), (stKind sz), .zero, (stLit sz), .cache, 0x1F8FFFFF#32, (.mem false true false), .q, false, false⟩
def shAtomAdd (sz : XSz) : Shape :=
  ⟨(xDst sz), (.laneU 2), (xSrc sz), .zero, (xLit sz), .cache, 0x1F8FFFFF#32, (.mem true true true), .q, true, false⟩
def shAtomCas (sz : ASz) : Shape :=
  ⟨(aDst sz), (.laneU 2), (aSrc sz), (aSrc sz), (aLit sz), .cache, 0x1F8FFFFF#32, (.mem true true true), .q, true, false⟩
def shAtomFadd : Shape :=
  ⟨(.lane 1), (.laneU 2), (.laneU 1), .zero, (.inB .zext), .cache, 0x1F8FFFFF#32, (.mem true true true), .q, true, false⟩
def shRedAdd (sz : XSz) : Shape :=
  ⟨.zero, (.laneU 2), (xSrc sz), .zero, (xLit sz), .cache, 0x1FCFFFFF#32, .red, .q, false, false⟩
def shRedFadd : Shape :=
  ⟨.zero, (.laneU 2), (.laneU 1), .zero, (.inB .zext), .cache, 0x1FCFFFFF#32, .red, .q, false, false⟩
def shLdx (sz : XSz) : Shape :=
  ⟨(xDst sz), (.laneU 2), .zero, .zero, .none, .cache, 0x1F8FFFFF#32, (.mem true false false), .q, true, false⟩
def shStx (sz : XSz) : Shape :=
  ⟨(.lane 1), (.laneU 2), (xSrc sz), .zero, (xLit sz), .cache, 0x1F8FFFFF#32, (.mem false true false), .q, true, false⟩
def shFenceAcq : Shape :=
  ⟨.zero, .zero, .zero, .zero, .none, .zero, 0x1E400000#32, .scoped, .none, true, false⟩
def shCmaintWb : Shape :=
  ⟨.zero, (.uni 2), (.uni 1), .zero, (.inB .zext), .cache, 0, .none, .none, true, false⟩
def shPrefL1 : Shape :=
  ⟨.zero, (.laneU 2), .zero, .zero, .none, .cache, 0xFFFFF#32, .none, .q, false, false⟩
def shStashMap : Shape :=
  ⟨.zero, (.uni 2), (.uni 1), (.uni 1), (.inB .zext), .cache, 0, .none, .none, false, false⟩
def shStashUnmap : Shape :=
  ⟨.zero, .zero, .zero, (.uni 1), .none, .cache, 0, .none, .none, false, false⟩
def shBarInit : Shape :=
  ⟨.zero, (.uni 2), (.uni 1), .zero, (.inB .zext), .cache, 0, .none, .none, false, false⟩
def shBarArrive : Shape :=
  ⟨.zero, (.uni 2), (.uni 1), .zero, (.inB .zext), .cache, 0x1E000000#32, .scoped, .none, false, false⟩
def shBarWait : Shape :=
  ⟨.zero, (.uni 2), (.uni 1), .zero, (.inB .zext), .swap, 0x1E000000#32, .scoped, .none, false, false⟩
def shBarTest : Shape :=
  ⟨.kd, (.uni 2), (.uni 1), .zero, (.inB .zext), .cache, 0x1E000000#32, .scoped, .none, false, false⟩
def shTldb (o : EOps) : Shape :=
  ⟨.zero, (.uni 2), (.uni 1), (cntK o.x), (.inB .zext), .zero, 0x3FF#32, .tldb, .none, true, false⟩
def shTlda (o : EOps) : Shape :=
  ⟨.zero, (.uni 2), (.uni 1), (cntK o.x), (.inB .zext), .zero, 0x2F1#32, .tlda, .none, true, false⟩
def shTmma : Shape :=
  ⟨.tile, .zero, .zero, .zero, .none, .sat, 0x1FF#32, (.tmma false), .none, true, false⟩
def shTmmaBlock : Shape :=
  ⟨.tile, .zero, .zero, .zero, .none, .sat, 0x1FF#32, (.tmma true), .none, true, false⟩
def shTmmaTri : Shape :=
  ⟨.tile, (.uni 2), .zero, .zero, .none, .sat, 0x1FF#32, (.tmma false), .none, true, false⟩
def shTmmaBlockTri : Shape :=
  ⟨.tile, (.uni 2), .zero, .zero, .none, .sat, 0x1FF#32, (.tmma true), .none, true, false⟩
def shTsca : Shape :=
  ⟨.tile, (.laneU 4), .cols, .zero, .none, .zero, 0xF#32, .tsca, .none, true, false⟩
def shTscaTri : Shape :=
  ⟨.tile, (.laneU 4), .cols, (.uni 2), .none, .zero, 0xF#32, .tsca, .none, true, false⟩
def shTaccZero : Shape :=
  ⟨.zero, .zero, .zero, .zero, .none, .zero, 0xFFFF#32, .none, .none, true, false⟩
def shTaccRdPair : Shape :=
  ⟨(.lane 2), .zero, .zero, .zero, .none, .zero, 0xFFF#32, .none, .q, true, false⟩
def shTaccRdVal : Shape :=
  ⟨(.lane 1), .zero, .zero, .zero, .none, .zero, 0xFFF#32, .none, .q, true, false⟩
def shTaccSt : Shape :=
  ⟨.zero, (.uni 2), (.uni 1), .zero, (.inB .zext), .zero, 0x3F#32, .taccSt, .none, true, false⟩
def shTaccMode : Shape :=
  ⟨.zero, .zero, .zero, .zero, .none, .zero, 0x1#32, .none, .none, true, false⟩
def shTaccTri : Shape :=
  ⟨.zero, (.uni 1), (.uni 1), .zero, (.inB .zext), .zero, 0x3#32, .taccTri, .none, true, false⟩
def shTgemm : Shape :=
  ⟨.zero, .uni16, .zero, .zero, .none, .sat, 0, .none, .none, true, false⟩
def shTctxSave : Shape :=
  ⟨.zero, (.uni 2), .zero, .zero, .none, .zero, 0xFFFFFFFF#32, .none, .none, true, false⟩
def shTprogStep : Shape :=
  ⟨(.uni 1), .zero, .zero, .zero, .none, .zero, 0, .none, .none, false, false⟩
def shCpy (o : EOps) : Shape :=
  ⟨.uniSrc, (.uni 2), (.uni 1), (barK o.x), (.inB .zext), .cache, 0xF#32, .none, .none, false, false⟩
def shCpy2 (o : EOps) : Shape :=
  ⟨.uniSrc, (.uni 2), (.uni 4), (barK o.x), .none, .cache, 0xF#32, .none, .none, false, false⟩
def shCseal : Shape :=
  ⟨(.uni 1), .zero, .zero, .zero, .none, .cache, 0, .none, .none, false, false⟩
def shCwait : Shape :=
  ⟨.zero, .zero, (.uni 1), .zero, (.inB .zext), .cache, 0, .none, .none, false, false⟩
def shCwaitTest : Shape :=
  ⟨.kd, .zero, (.uni 1), .zero, (.inB .zext), .cache, 0, .none, .none, false, false⟩
def shCwptrAddr : Shape :=
  ⟨(.uni 2), .zero, .zero, .zero, .none, .cache, 0x7#32, .none, .none, false, false⟩
def shCwptrProg : Shape :=
  ⟨(.uni 1), .zero, .zero, .zero, .none, .cache, 0x7#32, .none, .none, false, false⟩
def shRatom (op : AtomOp) (sz : ASz) : Shape :=
  ⟨.zero, (.laneU 2), (aSrc sz), (ratomC op sz), (ratomLit op sz), .cache, 0xFFFFF#32, (.ratom op sz), .q, false, false⟩
def shRatomRet (op : AtomOp) (sz : ASz) : Shape :=
  ⟨(aDst sz), (.laneU 2), (aSrc sz), (ratomC op sz), (ratomLit op sz), .cache, 0xFFFFF#32, (.ratom op sz), .q, true, false⟩
def shTfence : Shape :=
  ⟨.zero, .zero, .zero, .zero, .none, .zero, 0, .none, .none, true, false⟩
def shAcrtNew : Shape :=
  ⟨(.uni 1), (.uni 2), (.uni 4), .zero, .none, .zero, 0, .none, .k, true, false⟩
def shAcrtFree : Shape :=
  ⟨(.uni 1), (.uni 2), .zero, .zero, .none, .zero, 0, .none, .k, true, false⟩
def shAtake : Shape :=
  ⟨(.uni 1), (.uni 2), (.uni 1), .zero, (.inB .zext), .zero, 0, .none, .k, true, false⟩
def shAreadExact : Shape :=
  ⟨(.uni 2), (.uni 2), .zero, .zero, .none, .zero, 0, .none, .k, true, false⟩
def shSconf : Shape :=
  ⟨(.uni 1), (.uni 2), .zero, .zero, .none, .zero, 0x7#32, .none, .k, true, false⟩
def shSstart : Shape :=
  ⟨.zero, .zero, .zero, .zero, .none, .zero, 0x7#32, .none, .k, false, false⟩
def shSstatSamp : Shape :=
  ⟨(.uni 4), .zero, (.uni 1), .zero, (.inB .zext), .zero, 0, .none, .k, true, false⟩
def shSstatBatch : Shape :=
  ⟨(.uni 2), .zero, .zero, .zero, .none, .zero, 0x7#32, .none, .k, true, false⟩
def shColl : Shape :=
  ⟨(.uni 1), (.uni 2), .zero, .zero, .none, .zero, 0, .none, .k, false, false⟩
def shCollw : Shape :=
  ⟨(.uni 1), .zero, (.uni 1), .zero, (.inB .zext), .zero, 0, .none, .k, true, false⟩
def shCarbSet : Shape :=
  ⟨.zero, .zero, .zero, .zero, .none, .zero, 0xFF1F#32, .carbSet, .k, false, true⟩
def shCarbGet : Shape :=
  ⟨(.uni 1), .zero, .zero, .zero, .none, .zero, 0x1F#32, .carbGet, .k, false, true⟩
def shLstatState : Shape :=
  ⟨(.uni 1), .zero, (.uni 1), .zero, (.inB .zext), .zero, 0, .none, .k, false, false⟩
def shTlbopMap : Shape :=
  ⟨(.uni 1), (.uni 2), (.uni 2), (.uni 1), .none, .zero, 0x3F#32, .none, .k, true, true⟩
def shTlbopInv : Shape :=
  ⟨.zero, (.uni 2), .zero, (.uni 1), .none, .zero, 0, .none, .k, true, true⟩
def shTlbopInvAsid : Shape :=
  ⟨.zero, .zero, .zero, (.uni 1), .none, .zero, 0, .none, .k, true, true⟩
def shTlbopAll : Shape :=
  ⟨.zero, .zero, .zero, .zero, .none, .zero, 0, .none, .k, true, true⟩
def shTlbopReplay : Shape :=
  ⟨.zero, .zero, (.uni 1), .zero, (.inB .zext), .zero, 0, .none, .k, true, true⟩
def shTlbopDeny : Shape :=
  ⟨(.uni 1), .zero, (.uni 1), .zero, (.inB .zext), .zero, 0, .none, .k, true, true⟩
def shTlbopFread : Shape :=
  ⟨(.uni 4), .zero, (.uni 1), .zero, (.inB .zext), .zero, 0, .none, .k, true, true⟩
def shTlbopNewgen : Shape :=
  ⟨(.uni 1), .zero, .zero, (.uni 1), .none, .zero, 0, .none, .k, true, true⟩
def shPclassSet : Shape :=
  ⟨(.uni 1), (.uni 2), .zero, .zero, .none, .zero, 0x3#32, .pageClass, .k, true, true⟩
def shPclassHint : Shape :=
  ⟨(.uni 1), (.uni 2), .zero, .zero, .none, .zero, 0x3#32, .pageClass, .k, true, false⟩
def shPclassClear : Shape :=
  ⟨(.uni 1), (.uni 2), .zero, .zero, .none, .zero, 0, .none, .k, true, true⟩

/-- How an instruction is laid out in words: a clause header (R88), a branch (R91), a base form with the extended form it
equals (R89), an extended form (R92), or no words at all. -/
inductive Form where
  | event
  | clause (h : Header)
  | clauseLit (h : Header) (lit : BitVec 64)
  | clauseExt (h : Header) (w1 w2 : Word)
  | bj (op : Nat) (cnd : BitVec 4) (off : BitVec 19) (lit : Option (BitVec 64))
  | b3 (op m : Nat) (o : B3Ops) (sh : Shape)
  | e (op sub : Nat) (o : EOps) (sh : Shape)
  deriving DecidableEq, Repr

/-- The extended form's fields that a base form stands for (R89). -/
def toE (o : B3Ops) : EOps := { d := o.d.setWidth 10, a := o.a.setWidth 10, b := o.b.setWidth 10, lit := o.lit }

/-- The same, with C = D (B3 FFMA, R89). -/
def toEAcc (o : B3Ops) : EOps := { toE o with c := o.d.setWidth 10 }

/-- SUB of UCMP. -/
def subUcmp (cc : CC) : Nat :=
  match cc with
  | .eq => 0
  | .ne => 1
  | .lt => 2
  | .le => 3
  | .gt => 4
  | .ge => 5
  | .ltu => 6
  | .leu => 7
  | .gtu => 8
  | .geu => 9

/-- SUB of ICMP. -/
def subIcmp (cc : CC) : Nat :=
  match cc with
  | .eq => 0
  | .ne => 1
  | .lt => 2
  | .le => 3
  | .gt => 4
  | .ge => 5
  | .ltu => 6
  | .leu => 7
  | .gtu => 8
  | .geu => 9

/-- SUB of ICMP.64. -/
def subIcmp64 (cc : CC) : Nat :=
  match cc with
  | .eq => 16
  | .ne => 17
  | .lt => 18
  | .le => 19
  | .gt => 20
  | .ge => 21
  | .ltu => 22
  | .leu => 23
  | .gtu => 24
  | .geu => 25

/-- SUB of ICVT.SEXT. -/
def subIcvtSext (w : NarrowW) : Nat :=
  match w with
  | .w8 => 0
  | .w16 => 1

/-- SUB of ICVT.ZEXT. -/
def subIcvtZext (w : NarrowW) : Nat :=
  match w with
  | .w8 => 2
  | .w16 => 3

/-- SUB of ICVT.SAT.S. -/
def subIcvtSatS (w : NarrowW) : Nat :=
  match w with
  | .w8 => 4
  | .w16 => 5

/-- SUB of ICVT.SAT.U. -/
def subIcvtSatU (w : NarrowW) : Nat :=
  match w with
  | .w8 => 6
  | .w16 => 7

/-- SUB of FADD. -/
def subFadd (fmt : LFmt) : Nat :=
  match fmt with
  | .f32 => 0
  | .f16 => 2
  | .bf16 => 4

/-- SUB of FADD.SUB. -/
def subFaddSub (fmt : LFmt) : Nat :=
  match fmt with
  | .f32 => 1
  | .f16 => 3
  | .bf16 => 5

/-- SUB of FMUL. -/
def subFmul (fmt : LFmt) : Nat :=
  match fmt with
  | .f32 => 0
  | .f16 => 1
  | .bf16 => 2

/-- SUB of FFMA. -/
def subFfma (fmt : LFmt) : Nat :=
  match fmt with
  | .f32 => 0
  | .f16 => 1
  | .bf16 => 2

/-- SUB of FMINMAX.MIN. -/
def subFminmaxMin (fmt : LFmt) : Nat :=
  match fmt with
  | .f32 => 0
  | .f16 => 2
  | .bf16 => 4

/-- SUB of FMINMAX.MAX. -/
def subFminmaxMax (fmt : LFmt) : Nat :=
  match fmt with
  | .f32 => 1
  | .f16 => 3
  | .bf16 => 5

/-- SUB of FCMP. -/
def subFcmp (cc : FCmp) (fmt : LFmt) : Nat :=
  match cc, fmt with
  | .eq, .f32 => 0
  | .ne, .f32 => 1
  | .lt, .f32 => 2
  | .le, .f32 => 3
  | .gt, .f32 => 4
  | .ge, .f32 => 5
  | .un, .f32 => 6
  | .ord, .f32 => 7
  | .eq, .f16 => 8
  | .ne, .f16 => 9
  | .lt, .f16 => 10
  | .le, .f16 => 11
  | .gt, .f16 => 12
  | .ge, .f16 => 13
  | .un, .f16 => 14
  | .ord, .f16 => 15
  | .eq, .bf16 => 16
  | .ne, .bf16 => 17
  | .lt, .bf16 => 18
  | .le, .bf16 => 19
  | .gt, .bf16 => 20
  | .ge, .bf16 => 21
  | .un, .bf16 => 22
  | .ord, .bf16 => 23

/-- SUB of FRND. -/
def subFrnd (fmt : LFmt) : Nat :=
  match fmt with
  | .f32 => 0
  | .f16 => 1
  | .bf16 => 2

/-- SUB of FSCALE. -/
def subFscale (fmt : LFmt) : Nat :=
  match fmt with
  | .f32 => 0
  | .f16 => 1
  | .bf16 => 2

/-- SUB of FDP2. -/
def subFdp2 (fmt : PFmt) : Nat :=
  match fmt with
  | .f16 => 0
  | .bf16 => 1

/-- SUB of FCLASS. -/
def subFclass (fmt : LFmt) : Nat :=
  match fmt with
  | .f32 => 0
  | .f16 => 1
  | .bf16 => 2

/-- SUB of FCLASS.PRED. -/
def subFclassPred (fmt : LFmt) : Nat :=
  match fmt with
  | .f32 => 3
  | .f16 => 4
  | .bf16 => 5

/-- SUB of VPCMP. -/
def subVpcmp (cc : FCmp) : Nat :=
  match cc with
  | .eq => 0
  | .ne => 1
  | .lt => 2
  | .le => 3
  | .gt => 4
  | .ge => 5
  | .un => 6
  | .ord => 7

/-- SUB of ULD. -/
def subUld (sz : LdSz) : Nat :=
  match sz with
  | .b32 => 0
  | .b64 => 1
  | .b128 => 2
  | .u8 => 3
  | .s8 => 4
  | .u16 => 5
  | .s16 => 6

/-- SUB of LD. -/
def subLd (sz : LdSz) : Nat :=
  match sz with
  | .b32 => 0
  | .b64 => 1
  | .b128 => 2
  | .u8 => 3
  | .s8 => 4
  | .u16 => 5
  | .s16 => 6

/-- SUB of ST. -/
def subSt (sz : StSz) : Nat :=
  match sz with
  | .b32 => 0
  | .b64 => 1
  | .b128 => 2
  | .b8 => 3
  | .b16 => 4

/-- SUB of ATOM.ADD. -/
def subAtomAdd (sz : XSz) : Nat :=
  match sz with
  | .s32 => 0
  | .s64 => 1

/-- SUB of ATOM.MIN. -/
def subAtomMin (sz : XSz) : Nat :=
  match sz with
  | .s32 => 4
  | .s64 => 5

/-- SUB of ATOM.MAX. -/
def subAtomMax (sz : XSz) : Nat :=
  match sz with
  | .s32 => 8
  | .s64 => 9

/-- SUB of ATOM.MINU. -/
def subAtomMinu (sz : XSz) : Nat :=
  match sz with
  | .s32 => 12
  | .s64 => 13

/-- SUB of ATOM.MAXU. -/
def subAtomMaxu (sz : XSz) : Nat :=
  match sz with
  | .s32 => 16
  | .s64 => 17

/-- SUB of ATOM.AND. -/
def subAtomAnd (sz : XSz) : Nat :=
  match sz with
  | .s32 => 20
  | .s64 => 21

/-- SUB of ATOM.OR. -/
def subAtomOr (sz : XSz) : Nat :=
  match sz with
  | .s32 => 24
  | .s64 => 25

/-- SUB of ATOM.XOR. -/
def subAtomXor (sz : XSz) : Nat :=
  match sz with
  | .s32 => 28
  | .s64 => 29

/-- SUB of ATOM.EXCH. -/
def subAtomExch (sz : XSz) : Nat :=
  match sz with
  | .s32 => 32
  | .s64 => 33

/-- SUB of ATOM.CAS. -/
def subAtomCas (sz : ASz) : Nat :=
  match sz with
  | .s32 => 36
  | .s64 => 37
  | .s128 => 38

/-- SUB of RED.ADD. -/
def subRedAdd (sz : XSz) : Nat :=
  match sz with
  | .s32 => 0
  | .s64 => 1

/-- SUB of RED.MIN. -/
def subRedMin (sz : XSz) : Nat :=
  match sz with
  | .s32 => 4
  | .s64 => 5

/-- SUB of RED.MAX. -/
def subRedMax (sz : XSz) : Nat :=
  match sz with
  | .s32 => 8
  | .s64 => 9

/-- SUB of RED.MINU. -/
def subRedMinu (sz : XSz) : Nat :=
  match sz with
  | .s32 => 12
  | .s64 => 13

/-- SUB of RED.MAXU. -/
def subRedMaxu (sz : XSz) : Nat :=
  match sz with
  | .s32 => 16
  | .s64 => 17

/-- SUB of RED.AND. -/
def subRedAnd (sz : XSz) : Nat :=
  match sz with
  | .s32 => 20
  | .s64 => 21

/-- SUB of RED.OR. -/
def subRedOr (sz : XSz) : Nat :=
  match sz with
  | .s32 => 24
  | .s64 => 25

/-- SUB of RED.XOR. -/
def subRedXor (sz : XSz) : Nat :=
  match sz with
  | .s32 => 28
  | .s64 => 29

/-- SUB of LDX. -/
def subLdx (sz : XSz) : Nat :=
  match sz with
  | .s32 => 0
  | .s64 => 1

/-- SUB of STX. -/
def subStx (sz : XSz) : Nat :=
  match sz with
  | .s32 => 0
  | .s64 => 1

/-- SUB of RATOM. -/
def subRatom (op : AtomOp) (sz : ASz) : Nat :=
  match op, sz with
  | .add, .s32 => 0
  | .add, .s64 => 1
  | .min, .s32 => 4
  | .min, .s64 => 5
  | .max, .s32 => 8
  | .max, .s64 => 9
  | .minu, .s32 => 12
  | .minu, .s64 => 13
  | .maxu, .s32 => 16
  | .maxu, .s64 => 17
  | .band, .s32 => 20
  | .band, .s64 => 21
  | .bor, .s32 => 24
  | .bor, .s64 => 25
  | .bxor, .s32 => 28
  | .bxor, .s64 => 29
  | .exch, .s32 => 32
  | .exch, .s64 => 33
  | .cas, .s32 => 36
  | .cas, .s64 => 37
  | .cas, .s128 => 38
  | .fadd, .s32 => 40
  | .fmin, .s32 => 44
  | .fmax, .s32 => 48
  | _, _ => 127

/-- SUB of RATOM.RET. -/
def subRatomRet (op : AtomOp) (sz : ASz) : Nat :=
  match op, sz with
  | .add, .s32 => 64
  | .add, .s64 => 65
  | .min, .s32 => 68
  | .min, .s64 => 69
  | .max, .s32 => 72
  | .max, .s64 => 73
  | .minu, .s32 => 76
  | .minu, .s64 => 77
  | .maxu, .s32 => 80
  | .maxu, .s64 => 81
  | .band, .s32 => 84
  | .band, .s64 => 85
  | .bor, .s32 => 88
  | .bor, .s64 => 89
  | .bxor, .s32 => 92
  | .bxor, .s64 => 93
  | .exch, .s32 => 96
  | .exch, .s64 => 97
  | .cas, .s32 => 100
  | .cas, .s64 => 101
  | .cas, .s128 => 102
  | .fadd, .s32 => 104
  | .fmin, .s32 => 108
  | .fmax, .s32 => 112
  | _, _ => 127

/-- The layout of every instruction. -/
def form : Instr → Form
  | .clause h => .clause h
  | .clauseTmask h lit => .clauseLit h lit
  | .clauseExtended h w1 w2 => .clauseExt h w1 w2
  | .braBj cnd off => .bj 1 cnd off none
  | .braBjLiteral cnd off lit => .bj 1 cnd off (some lit)
  | .bra o => .e 0x01 0 o shBra
  | .callBj cnd off => .bj 3 cnd off none
  | .callBjLiteral cnd off lit => .bj 3 cnd off (some lit)
  | .call o => .e 0x03 0 o shBra
  | .brx o => .e 0x02 0 o shBrx
  | .brxIdx o => .e 0x02 1 o shBrxIdx
  | .retB3 o => .b3 0x04 0 o shRet
  | .ret o => .e 0x04 0 o shRet
  | .exitB3 o => .b3 0x05 0 o shRet
  | .exit o => .e 0x05 0 o shRet
  | .yieldB3 o => .b3 0x0C 0 o shRet
  | .yield o => .e 0x0C 0 o shRet
  | .trap o => .e 0x0A 0 o shTrap
  | .tretB3 o => .b3 0x0B 0 o shRet
  | .tret o => .e 0x0B 0 o shRet
  | .maskSet o => .e 0x06 0 o shMaskSet
  | .maskGet o => .e 0x06 1 o shMaskGet
  | .maskIf o => .e 0x06 2 o shMaskIf
  | .maskElse o => .e 0x06 3 o shMaskElse
  | .maskEnd o => .e 0x06 4 o shMaskEnd
  | .voteAny o => .e 0x07 0 o shVoteAny
  | .voteAll o => .e 0x07 1 o shVoteAny
  | .voteBal o => .e 0x07 2 o shVoteBal
  | .voteCnt o => .e 0x07 3 o shVoteBal
  | .voteUni o => .e 0x07 4 o shVoteUni
  | .sysr o => .e 0x08 0 o (shSysr o)
  | .sysw o => .e 0x09 0 o (shSysw o)
  | .roleCnt o => .e 0x0D 0 o shRoleCnt
  | .rolePhys o => .e 0x0D 1 o shRolePhys
  | .roleTest o => .e 0x0D 2 o shRoleTest
  | .regnB o => .e 0x0E 0 o shRet
  | .regnE o => .e 0x0E 1 o shRet
  | .regnStat o => .e 0x0E 2 o shMaskGet
  | .snap o => .e 0x0F 0 o shSnap
  | .snapGang o => .e 0x0F 1 o shSnap
  | .uaddB3 o => .b3 0x10 0 o shUadd
  | .uaddSubB3 o => .b3 0x10 1 o shUadd
  | .uadd o => .e 0x10 0 o shUadd
  | .uaddSub o => .e 0x10 1 o shUadd
  | .uaddSat o => .e 0x10 2 o shUadd
  | .uaddSubSat o => .e 0x10 3 o shUadd
  | .uadd64 o => .e 0x10 4 o shUadd64
  | .uaddSub64 o => .e 0x10 5 o shUadd64
  | .umulLoB3 o => .b3 0x11 0 o shUadd
  | .umulHiB3 o => .b3 0x11 1 o shUadd
  | .umulHiuB3 o => .b3 0x11 2 o shUadd
  | .umulLo o => .e 0x11 0 o shUadd
  | .umulHi o => .e 0x11 1 o shUadd
  | .umulHiu o => .e 0x11 2 o shUadd
  | .ulogAndB3 o => .b3 0x12 0 o shUadd
  | .ulogOrB3 o => .b3 0x12 1 o shUadd
  | .ulogXorB3 o => .b3 0x12 2 o shUadd
  | .ulogAndnB3 o => .b3 0x12 3 o shUadd
  | .ulogAnd o => .e 0x12 0 o shUadd
  | .ulogOr o => .e 0x12 1 o shUadd
  | .ulogXor o => .e 0x12 2 o shUadd
  | .ulogAndn o => .e 0x12 3 o shUadd
  | .ulogKand o => .e 0x12 4 o shUlogKand
  | .ulogKor o => .e 0x12 5 o shUlogKand
  | .ulogKxor o => .e 0x12 6 o shUlogKand
  | .ulogKandn o => .e 0x12 7 o shUlogKand
  | .ushfShlB3 o => .b3 0x13 0 o shUadd
  | .ushfShrB3 o => .b3 0x13 1 o shUadd
  | .ushfSarB3 o => .b3 0x13 2 o shUadd
  | .ushfRotB3 o => .b3 0x13 3 o shUadd
  | .ushfShl o => .e 0x13 0 o shUadd
  | .ushfShr o => .e 0x13 1 o shUadd
  | .ushfSar o => .e 0x13 2 o shUadd
  | .ushfRot o => .e 0x13 3 o shUadd
  | .ucmp cc o => .e 0x14 (subUcmp cc) o shUcmp
  | .umovB3 o => .b3 0x15 0 o shUmov
  | .umov o => .e 0x15 0 o shUmov
  | .umov64 o => .e 0x15 1 o shUmov64
  | .umovFirst o => .e 0x15 2 o shUmovFirst
  | .usel o => .e 0x16 0 o shUsel
  | .uminmaxMin o => .e 0x17 0 o shUadd
  | .uminmaxMax o => .e 0x17 1 o shUadd
  | .uminmaxMinu o => .e 0x17 2 o shUadd
  | .uminmaxMaxu o => .e 0x17 3 o shUadd
  | .ubitPopc o => .e 0x18 0 o shUbitPopc
  | .ubitClz o => .e 0x18 1 o shUbitPopc
  | .ubitCtz o => .e 0x18 2 o shUbitPopc
  | .ubitBrev o => .e 0x18 3 o shUbitPopc
  | .ubitExtr o => .e 0x18 4 o shUadd
  | .ubitExtrs o => .e 0x18 5 o shUadd
  | .ulea o => .e 0x19 0 o shUlea
  | .uleaS o => .e 0x19 1 o shUleaS
  | .iaddB3 o => .b3 0x20 0 o shIadd
  | .iaddSubB3 o => .b3 0x20 1 o shIadd
  | .iaddSatB3 o => .b3 0x20 2 o shIadd
  | .iaddSubSatB3 o => .b3 0x20 3 o shIadd
  | .iadd o => .e 0x20 0 o shIadd
  | .iaddSub o => .e 0x20 1 o shIadd
  | .iaddSat o => .e 0x20 2 o shIadd
  | .iaddSubSat o => .e 0x20 3 o shIadd
  | .iadd64 o => .e 0x20 4 o shIadd64
  | .iaddSub64 o => .e 0x20 5 o shIadd64
  | .iaddSatu o => .e 0x20 6 o shIadd
  | .iaddSubSatu o => .e 0x20 7 o shIadd
  | .imulLoB3 o => .b3 0x21 0 o shIadd
  | .imulHiB3 o => .b3 0x21 1 o shIadd
  | .imulHiuB3 o => .b3 0x21 2 o shIadd
  | .imulLo o => .e 0x21 0 o shIadd
  | .imulHi o => .e 0x21 1 o shIadd
  | .imulHiu o => .e 0x21 2 o shIadd
  | .imulWide o => .e 0x21 3 o shImulWide
  | .imulWideu o => .e 0x21 4 o shImulWide
  | .imadLo o => .e 0x22 0 o shImadLo
  | .imadWide o => .e 0x22 1 o shImadWide
  | .imadWideu o => .e 0x22 2 o shImadWide
  | .ilogAndB3 o => .b3 0x23 0 o shIadd
  | .ilogOrB3 o => .b3 0x23 1 o shIadd
  | .ilogXorB3 o => .b3 0x23 2 o shIadd
  | .ilogAndnB3 o => .b3 0x23 3 o shIadd
  | .ilogAnd o => .e 0x23 0 o shIadd
  | .ilogOr o => .e 0x23 1 o shIadd
  | .ilogXor o => .e 0x23 2 o shIadd
  | .ilogAndn o => .e 0x23 3 o shIadd
  | .ilogLut o => .e 0x23 4 o shIlogLut
  | .ishfShlB3 o => .b3 0x24 0 o shIadd
  | .ishfShrB3 o => .b3 0x24 1 o shIadd
  | .ishfSarB3 o => .b3 0x24 2 o shIadd
  | .ishfRotB3 o => .b3 0x24 3 o shIadd
  | .ishfShl o => .e 0x24 0 o shIadd
  | .ishfShr o => .e 0x24 1 o shIadd
  | .ishfSar o => .e 0x24 2 o shIadd
  | .ishfRot o => .e 0x24 3 o shIadd
  | .ishfShl64 o => .e 0x24 4 o shIshfShl64
  | .ishfShr64 o => .e 0x24 5 o shIshfShl64
  | .ishfSar64 o => .e 0x24 6 o shIshfShl64
  | .iminmaxMin o => .e 0x25 0 o shIadd
  | .iminmaxMax o => .e 0x25 1 o shIadd
  | .iminmaxMinu o => .e 0x25 2 o shIadd
  | .iminmaxMaxu o => .e 0x25 3 o shIadd
  | .iminmaxAbs o => .e 0x25 4 o shIminmaxAbs
  | .iminmaxAbsSat o => .e 0x25 5 o shIminmaxAbs
  | .icmp cc o => .e 0x26 (subIcmp cc) o shIcmp
  | .icmp64 cc o => .e 0x26 (subIcmp64 cc) o shIcmp64
  | .isel o => .e 0x27 0 o shIsel
  | .isel64 o => .e 0x27 1 o shIsel64
  | .ibitPopc o => .e 0x28 0 o shIminmaxAbs
  | .ibitClz o => .e 0x28 1 o shIminmaxAbs
  | .ibitCtz o => .e 0x28 2 o shIminmaxAbs
  | .ibitBrev o => .e 0x28 3 o shIminmaxAbs
  | .ibitExtr o => .e 0x28 4 o shIadd
  | .ibitExtrs o => .e 0x28 5 o shIadd
  | .ibitIns o => .e 0x28 6 o shImadLo
  | .lea o => .e 0x29 0 o shLea
  | .leaS o => .e 0x29 1 o shLea
  | .icvtSext w o => .e 0x2A (subIcvtSext w) o shIminmaxAbs
  | .icvtZext w o => .e 0x2A (subIcvtZext w) o shIminmaxAbs
  | .icvtSatS w o => .e 0x2A (subIcvtSatS w) o shIminmaxAbs
  | .icvtSatU w o => .e 0x2A (subIcvtSatU w) o shIminmaxAbs
  | .icvtSext64 o => .e 0x2A 8 o shIcvtSext64
  | .icvtZext64 o => .e 0x2A 9 o shIcvtSext64
  | .icvtSatS32 o => .e 0x2A 10 o shIcvtSatS32
  | .icvtSatU32 o => .e 0x2A 11 o shIcvtSatS32
  | .movB3 o => .b3 0x2B 0 o shMov
  | .mov o => .e 0x2B 0 o shMov
  | .mov64 o => .e 0x2B 1 o shMov64
  | .movxLd o => .e 0x2C 0 o shMovxLd
  | .movxSt o => .e 0x2C 1 o shMovxSt
  | .xset o => .e 0x2D 0 o shXset
  | .xsetAdd o => .e 0x2D 1 o shXset
  | .xget o => .e 0x2D 2 o shXget
  | .shflIdx o => .e 0x2E 0 o shShflIdx
  | .shflUp o => .e 0x2E 1 o shShflIdx
  | .shflDown o => .e 0x2E 2 o shShflIdx
  | .shflXor o => .e 0x2E 3 o shShflIdx
  | .faddF32B3 o => .b3 0x30 0 o shFadd
  | .faddSubF32B3 o => .b3 0x30 1 o shFadd
  | .faddF16x2B3 o => .b3 0x30 2 o shFadd
  | .faddSubF16x2B3 o => .b3 0x30 3 o shFadd
  | .fadd fmt o => .e 0x30 (subFadd fmt) o shFadd
  | .faddSub fmt o => .e 0x30 (subFaddSub fmt) o shFadd
  | .fmulF32B3 o => .b3 0x31 0 o shFadd
  | .fmulF16x2B3 o => .b3 0x31 1 o shFadd
  | .fmul fmt o => .e 0x31 (subFmul fmt) o shFadd
  | .ffmaF32B3 o => .b3 0x32 0 o shFfma
  | .ffmaF16x2B3 o => .b3 0x32 1 o shFfma
  | .ffma fmt o => .e 0x32 (subFfma fmt) o shFfma
  | .fminmaxMin fmt o => .e 0x33 (subFminmaxMin fmt) o shFminmaxMin
  | .fminmaxMax fmt o => .e 0x33 (subFminmaxMax fmt) o shFminmaxMin
  | .fcmp cc fmt o => .e 0x34 (subFcmp cc fmt) o shFcmp
  | .frnd fmt o => .e 0x35 (subFrnd fmt) o shFrnd
  | .fscale fmt o => .e 0x39 (subFscale fmt) o shFscale
  | .fdp2 fmt o => .e 0x3A (subFdp2 fmt) o shFfma
  | .fclass fmt o => .e 0x38 (subFclass fmt) o shFclass
  | .fclassPred fmt o => .e 0x38 (subFclassPred fmt) o shFclassPred
  | .fcvtF16F32 o => .e 0x37 0 o shFcvtF16F32
  | .fcvtBf16F32 o => .e 0x37 1 o shFcvtF16F32
  | .fcvtF32F16 o => .e 0x37 2 o shFrnd
  | .fcvtF32Bf16 o => .e 0x37 3 o shFrnd
  | .fcvtS32F32 o => .e 0x37 4 o shFcvtF16F32
  | .fcvtU32F32 o => .e 0x37 5 o shFcvtF16F32
  | .fcvtF32S32 o => .e 0x37 6 o shFcvtF32S32
  | .fcvtF32U32 o => .e 0x37 7 o shFcvtF32S32
  | .fcvtF16x2F32 o => .e 0x37 8 o shFadd
  | .fcvtBf16x2F32 o => .e 0x37 9 o shFadd
  | .fcvtTpF32 o => .e 0x37 10 o shFcvtTpF32
  | .fcvtF32Tp o => .e 0x37 11 o shFcvtF32Tp
  | .fspecRcp o => .e 0x36 0 o shFspecRcp
  | .fspecRsq o => .e 0x36 1 o shFspecRcp
  | .fspecSqrt o => .e 0x36 2 o shFspecRcp
  | .fspecExp2 o => .e 0x36 3 o shFspecRcp
  | .fspecLog2 o => .e 0x36 4 o shFspecRcp
  | .fspecSin o => .e 0x36 5 o shFspecRcp
  | .fspecCos o => .e 0x36 6 o shFspecRcp
  | .fspecTanh o => .e 0x36 7 o shFspecRcp
  | .longLatencyCompletion _ _ => .event
  | .vprecSet o => .e 0x40 0 o shVprecSet
  | .vprecP o => .e 0x40 1 o shVprecP
  | .vprecMode o => .e 0x40 2 o shVprecMode
  | .vpgetHead o => .e 0x41 0 o shVpgetHead
  | .vpgetSlice o => .e 0x41 1 o shVpgetSlice
  | .vpadd o => .e 0x42 0 o shVpadd
  | .vpaddSub o => .e 0x42 1 o shVpadd
  | .vpmul o => .e 0x43 0 o shVpadd
  | .vpfma o => .e 0x44 0 o shVpfma
  | .vpfmaNeg o => .e 0x44 1 o shVpfma
  | .vpdiv o => .e 0x45 0 o shVpadd
  | .vpsqrt o => .e 0x46 0 o shVpsqrt
  | .vpcmp cc o => .e 0x47 (subVpcmp cc) o shVpcmp
  | .vprndInt o => .e 0x49 0 o shVpsqrt
  | .vprndLen o => .e 0x49 1 o shVprndLen
  | .vpcvtVpF32 o => .e 0x48 0 o shVpcvtVpF32
  | .vpcvtF32Vp o => .e 0x48 1 o shVpcvtF32Vp
  | .vpcvtVpF64 o => .e 0x48 2 o shVpcvtVpF64
  | .vpcvtF64Vp o => .e 0x48 3 o shVpcvtF64Vp
  | .vpcvtVpS64 o => .e 0x48 4 o shVpcvtVpF64
  | .vpcvtS64Vp o => .e 0x48 5 o shVpcvtF64Vp
  | .vpcvtVpT16 o => .e 0x48 6 o shVpcvtVpF32
  | .vpcvtT16Vp o => .e 0x48 7 o shVpcvtT16Vp
  | .vpmov o => .e 0x4C 0 o shVpmov
  | .vpmovNeg o => .e 0x4C 1 o shVpmov
  | .vpmovAbs o => .e 0x4C 2 o shVpmov
  | .vpld o => .e 0x4A 0 o shVpld
  | .vpldStr o => .e 0x4A 1 o shVpldStr
  | .vpldIdx o => .e 0x4A 2 o shVpldIdx
  | .vpldPack o => .e 0x4A 3 o shVpldPack
  | .vpst o => .e 0x4B 0 o shVpst
  | .vpstStr o => .e 0x4B 1 o shVpstStr
  | .vpstIdx o => .e 0x4B 2 o shVpstIdx
  | .vpstPack o => .e 0x4B 3 o shVpstPack
  | .uld sz o => .e 0x1A (subUld sz) o (shUld sz)
  | .ld32B3 o => .b3 0x50 0 o (shLd .b32)
  | .ld64B3 o => .b3 0x50 1 o (shLd .b64)
  | .ld128B3 o => .b3 0x50 2 o (shLd .b128)
  | .ld sz o => .e 0x50 (subLd sz) o (shLd sz)
  | .st32B3 o => .b3 0x51 0 o (shSt .b32)
  | .st64B3 o => .b3 0x51 1 o (shSt .b64)
  | .st128B3 o => .b3 0x51 2 o (shSt .b128)
  | .st sz o => .e 0x51 (subSt sz) o (shSt sz)
  | .atomAdd sz o => .e 0x52 (subAtomAdd sz) o (shAtomAdd sz)
  | .atomMin sz o => .e 0x52 (subAtomMin sz) o (shAtomAdd sz)
  | .atomMax sz o => .e 0x52 (subAtomMax sz) o (shAtomAdd sz)
  | .atomMinu sz o => .e 0x52 (subAtomMinu sz) o (shAtomAdd sz)
  | .atomMaxu sz o => .e 0x52 (subAtomMaxu sz) o (shAtomAdd sz)
  | .atomAnd sz o => .e 0x52 (subAtomAnd sz) o (shAtomAdd sz)
  | .atomOr sz o => .e 0x52 (subAtomOr sz) o (shAtomAdd sz)
  | .atomXor sz o => .e 0x52 (subAtomXor sz) o (shAtomAdd sz)
  | .atomExch sz o => .e 0x52 (subAtomExch sz) o (shAtomAdd sz)
  | .atomCas sz o => .e 0x52 (subAtomCas sz) o (shAtomCas sz)
  | .atomFadd o => .e 0x52 40 o shAtomFadd
  | .atomFmin o => .e 0x52 44 o shAtomFadd
  | .atomFmax o => .e 0x52 48 o shAtomFadd
  | .redAdd sz o => .e 0x53 (subRedAdd sz) o (shRedAdd sz)
  | .redMin sz o => .e 0x53 (subRedMin sz) o (shRedAdd sz)
  | .redMax sz o => .e 0x53 (subRedMax sz) o (shRedAdd sz)
  | .redMinu sz o => .e 0x53 (subRedMinu sz) o (shRedAdd sz)
  | .redMaxu sz o => .e 0x53 (subRedMaxu sz) o (shRedAdd sz)
  | .redAnd sz o => .e 0x53 (subRedAnd sz) o (shRedAdd sz)
  | .redOr sz o => .e 0x53 (subRedOr sz) o (shRedAdd sz)
  | .redXor sz o => .e 0x53 (subRedXor sz) o (shRedAdd sz)
  | .redFadd o => .e 0x53 40 o shRedFadd
  | .redFmin o => .e 0x53 44 o shRedFadd
  | .redFmax o => .e 0x53 48 o shRedFadd
  | .ldx sz o => .e 0x54 (subLdx sz) o (shLdx sz)
  | .stx sz o => .e 0x55 (subStx sz) o (shStx sz)
  | .fenceAcq o => .e 0x56 0 o shFenceAcq
  | .fenceRel o => .e 0x56 1 o shFenceAcq
  | .fenceAr o => .e 0x56 2 o shFenceAcq
  | .cmaintWb o => .e 0x57 0 o shCmaintWb
  | .cmaintInv o => .e 0x57 1 o shCmaintWb
  | .cmaintDemote o => .e 0x57 2 o shCmaintWb
  | .prefL1 o => .e 0x58 0 o shPrefL1
  | .prefClc o => .e 0x58 1 o shPrefL1
  | .stashMap o => .e 0x59 0 o shStashMap
  | .stashUnmap o => .e 0x59 1 o shStashUnmap
  | .stashFlush o => .e 0x59 2 o shStashUnmap
  | .barInit o => .e 0x5A 0 o shBarInit
  | .barArrive o => .e 0x5A 1 o shBarArrive
  | .barExpect o => .e 0x5A 2 o shBarInit
  | .barWait o => .e 0x5A 3 o shBarWait
  | .barTest o => .e 0x5A 4 o shBarTest
  | .mscRequest _ _ => .event
  | .retryHintExpiry _ => .event
  | .tldb o => .e 0x60 0 o (shTldb o)
  | .tlda o => .e 0x61 0 o (shTlda o)
  | .tmma o => .e 0x62 0 o shTmma
  | .tmmaBlock o => .e 0x62 1 o shTmmaBlock
  | .tmmaTri o => .e 0x62 2 o shTmmaTri
  | .tmmaBlockTri o => .e 0x62 3 o shTmmaBlockTri
  | .tsca o => .e 0x64 0 o shTsca
  | .tscaTri o => .e 0x64 1 o shTscaTri
  | .taccZero o => .e 0x65 0 o shTaccZero
  | .taccRdPair o => .e 0x65 1 o shTaccRdPair
  | .taccRdVal o => .e 0x65 2 o shTaccRdVal
  | .taccSt o => .e 0x65 3 o shTaccSt
  | .taccMode o => .e 0x65 4 o shTaccMode
  | .taccTri o => .e 0x65 5 o shTaccTri
  | .tgemm o => .e 0x63 0 o shTgemm
  | .tgemmStep _ => .event
  | .tctxSave o => .e 0x66 0 o shTctxSave
  | .tctxRestore o => .e 0x66 1 o shTctxSave
  | .tprogStep o => .e 0x67 0 o shTprogStep
  | .tprogTotal o => .e 0x67 1 o shTprogStep
  | .tileInstructionStart _ _ => .event
  | .powerGrant _ => .event
  | .powerRelease _ _ => .event
  | .budgetWrite _ _ => .event
  | .cpy o => .e 0x68 0 o (shCpy o)
  | .cpy2 o => .e 0x69 0 o (shCpy2 o)
  | .cpygGather o => .e 0x6A 0 o (shCpy2 o)
  | .cpygScatter o => .e 0x6A 1 o (shCpy2 o)
  | .copyPieceLand _ => .event
  | .copyPieceRefused _ _ => .event
  | .copyErrorAnswer _ _ => .event
  | .cseal o => .e 0x6B 0 o shCseal
  | .cwait o => .e 0x6C 0 o shCwait
  | .cwaitTest o => .e 0x6C 1 o shCwaitTest
  | .cwptrAddr o => .e 0x6D 0 o shCwptrAddr
  | .cwptrCnt o => .e 0x6D 1 o shCwptrAddr
  | .cwptrProg o => .e 0x6D 2 o shCwptrProg
  | .cwptrRef o => .e 0x6D 3 o shCwptrProg
  | .ratom op sz o => .e 0x6E (subRatom op sz) o (shRatom op sz)
  | .ratomRet op sz o => .e 0x6E (subRatomRet op sz) o (shRatomRet op sz)
  | .ratomAck _ _ => .event
  | .tfence o => .e 0x6F 0 o shTfence
  | .acrtNew o => .e 0x70 0 o shAcrtNew
  | .acrtFree o => .e 0x70 1 o shAcrtFree
  | .atake o => .e 0x71 0 o shAtake
  | .agive o => .e 0x72 0 o shBrxIdx
  | .areadExact o => .e 0x73 0 o shAreadExact
  | .areadApprox o => .e 0x73 1 o shAreadExact
  | .allowanceServe _ => .event
  | .allowanceGrant _ => .event
  | .allowanceRefusal _ => .event
  | .exactReadReply _ => .event
  | .allowanceRecall _ => .event
  | .recallAnswer _ => .event
  | .allowanceReturn _ => .event
  | .giveUp _ => .event
  | .sconf o => .e 0x74 0 o shSconf
  | .sstart o => .e 0x75 0 o shSstart
  | .sstatSamp o => .e 0x76 0 o shSstatSamp
  | .sstatBatch o => .e 0x76 1 o shSstatBatch
  | .sctlPause o => .e 0x77 0 o shSstart
  | .sctlResume o => .e 0x77 1 o shSstart
  | .sctlStop o => .e 0x77 2 o shSstart
  | .sctlFree o => .e 0x77 3 o shSstart
  | .solverStageInput _ _ => .event
  | .solverStageCollect _ _ => .event
  | .solverDecide _ _ => .event
  | .solverEnd _ _ => .event
  | .solverAccessFault _ _ _ => .event
  | .coll o => .e 0x78 0 o shColl
  | .collw o => .e 0x79 0 o shCollw
  | .collwTest o => .e 0x79 1 o shCollw
  | .carbSet o => .e 0x7A 0 o shCarbSet
  | .carbGet o => .e 0x7A 1 o shCarbGet
  | .collJoin _ _ => .event
  | .bucketReady _ _ => .event
  | .segmentReceive _ _ _ => .event
  | .collComplete _ _ => .event
  | .collAbort _ _ _ => .event
  | .launch o => .e 0x7B 0 o shAreadExact
  | .launchGo o => .e 0x7B 1 o shAreadExact
  | .lstatState o => .e 0x7C 0 o shLstatState
  | .lstatSelf o => .e 0x7C 1 o shMaskGet
  | .pendingQueueTake _ => .event
  | .launchAccept _ _ => .event
  | .widxAdvance _ _ _ => .event
  | .packetNop _ _ _ => .event
  | .packetLaunch _ _ _ => .event
  | .packetCopy _ _ _ => .event
  | .packetSignal _ _ _ => .event
  | .packetWait _ _ _ => .event
  | .packetBarrierAnd _ _ _ => .event
  | .packetQreset _ _ _ => .event
  | .gangctlSwitch _ _ _ => .event
  | .gangctlSnap _ _ _ => .event
  | .waitConditionMet _ _ _ => .event
  | .registrationTicket _ _ => .event
  | .ctxreg _ _ => .event
  | .ctxdereg _ _ => .event
  | .qstart _ _ => .event
  | .qresetCommand _ _ => .event
  | .invalidCommand _ _ => .event
  | .queueReset _ _ _ => .event
  | .queueResetComplete _ _ _ => .event
  | .rampStep _ => .event
  | .preempt _ => .event
  | .cohortRestore _ _ => .event
  | .launchFaultEnd _ => .event
  | .gangPropose _ => .event
  | .gangSliceSaved _ => .event
  | .gangAck _ => .event
  | .gangCommit _ => .event
  | .liveUpdate _ _ => .event
  | .heartbeatTakeover _ => .event
  | .packageReset _ _ => .event
  | .tlbopMap o => .e 0x7D 0 o shTlbopMap
  | .tlbopInv o => .e 0x7D 1 o shTlbopInv
  | .tlbopInvAsid o => .e 0x7D 2 o shTlbopInvAsid
  | .tlbopAll o => .e 0x7D 3 o shTlbopAll
  | .tlbopReplay o => .e 0x7D 4 o shTlbopReplay
  | .tlbopReplayAll o => .e 0x7D 5 o shTlbopAll
  | .tlbopDeny o => .e 0x7D 6 o shTlbopDeny
  | .tlbopFread o => .e 0x7D 7 o shTlbopFread
  | .tlbopFstat o => .e 0x7D 8 o shTlbopFread
  | .tlbopMove o => .e 0x7D 9 o shTlbopInv
  | .tlbopNewgen o => .e 0x7D 10 o shTlbopNewgen
  | .mtlbRequest _ _ => .event
  | .walkComplete _ _ => .event
  | .pclassQuery o => .e 0x7E 0 o shAcrtFree
  | .pclassSet o => .e 0x7E 1 o shPclassSet
  | .pclassHint o => .e 0x7E 2 o shPclassHint
  | .pclassLine o => .e 0x7E 3 o shAcrtFree
  | .pclassClear o => .e 0x7E 4 o shPclassClear
  | .cohReadRequest _ _ => .event
  | .cohWriteRequest _ _ => .event
  | .cohRecall _ _ => .event
  | .cohTokenAnswer _ => .event
  | .cohEviction _ _ => .event
  | .dirtyNotice _ _ => .event
  | .pdirtyNotice _ _ => .event
  | .dirtyWriteback _ _ => .event
  | .persistentRequest _ _ _ => .event
  | .classConflict _ _ _ => .event
  | .censusReport _ => .event
  | .eccUncorrectedConsume _ _ => .event
  | .tileEngineError _ => .event
  | .coreEntryError _ _ => .event
  | .flitReceive _ _ _ => .event
  | .nakReceive _ _ _ => .event
  | .nakBurst _ _ => .event
  | .laneFail _ _ _ => .event
  | .trainingComplete _ _ => .event
  | .retrainTimeout _ _ => .event
  | .presentFall _ _ => .event
  | .presentRise _ _ => .event
  | .peerHeartbeatTimeout _ _ => .event
  | .lossDeclaration _ _ => .event
  | .owlPinTrigger _ => .event
  | .owlForwardReceive _ => .event
  | .snapshotRearm _ => .event
  | .keyMaterialWrite _ _ _ _ => .event
  | .ctnlogClear _ => .event
  | .pcieInboundWrite _ _ _ _ => .event
  | .pcieInboundRead _ _ _ _ => .event
  | .pcieLinkDown _ => .event
  | .registerWrite _ _ _ _ _ => .event
  | .attestationRequest _ _ => .event
  | .bladeAdmission _ _ _ _ => .event
  | .pcieLinkUp _ _ _ => .event

/-! ### The checks that make an encoding an instruction (R93 to R99) -/

/-- The literal replaces B, or A. -/
def litInB (sh : Shape) (o : EOps) : Bool :=
  match sh.lit with
  | .inB _ => o.lit.isSome
  | _ => false

def litInA (sh : Shape) (o : EOps) : Bool :=
  match sh.lit with
  | .inA _ => o.lit.isSome
  | _ => false

/-- The literal keeps the rule of its kind (R96). -/
def litValOk (v : LitV) (w : BitVec 64) : Bool :=
  match v with
  | .zext => w.toNat / 2 ^ 32 == 0
  | .sext => (w.setWidth 32).signExtend 64 == w
  | .dword => true
  | .half => w.toNat / 2 ^ 16 == 0

/-- The literal rules of R96: B (and for a literal in place of A, A too) is 0; a zero literal on an opcode that takes none
is ignored. -/
def litOk (sh : Shape) (o : EOps) : Bool :=
  match o.lit with
  | none => true
  | some w =>
    o.b == 0 &&
    match sh.lit with
    | .none => w == 0
    | .inB v => litValOk v w
    | .inA v => litValOk v w && o.a == 0

/-- A field that the entry gives a meaning, and that this instruction does not read: the other operand of FSPEC (R264), and A and B of
a TACC.TRI with EN 0 (R345). -/
def unreadA (sh : Shape) (o : EOps) : Bool :=
  match sh.extra with
  | .alt => o.lit.isNone && o.a == 0 && o.b != 0
  | .taccTri => !o.x.getLsbD 1
  | _ => false
def unreadB (sh : Shape) (o : EOps) : Bool :=
  match sh.extra with
  | .alt => o.lit.isNone && o.b == 0
  | .taccTri => !o.x.getLsbD 1
  | _ => false

/-- A field that names `k`, with its uniform-class bit `u`, breaks no rule that raises ILLEGAL_OP (R98, R99, R339). -/
def fieldOk (k : OpK) (u : Bool) (f : BitVec 10) : Bool :=
  match k with
  | .zero => f == 0
  | .lane n => f.toNat % n == 0
  | .laneU n => f.toNat % n == 0
  | .uni n => f.toNat % n == 0
  | .uniSrc => f.toNat % 2 == 0
  | .uni16 => f.toNat % 2 == 0
  | .cols => !u || f.toNat % 4 == 0
  | .vp => true
  | .qs => decide (f.toNat < 8)
  | .qd => decide (1 ≤ f.toNat ∧ f.toNat < 8)
  | .ks => decide (f.toNat < 8)
  | .kd => decide (1 ≤ f.toNat ∧ f.toNat < 8)
  | .xi => decide (f.toNat < 4)
  | .num => true
  | .tile => decide (f.toNat < 16)

/-- The kind may be given in uniform class by an X bit (R95). -/
def OpK.mayUni : OpK → Bool
  | .laneU _ => true
  | .cols => true
  | _ => false

/-- The uniform-class bits of A, B and C (R95). -/
def uA (o : EOps) : Bool := o.x.getLsbD 31
def uB (o : EOps) : Bool := o.x.getLsbD 30
def uC (o : EOps) : Bool := o.x.getLsbD 29

/-- The bits of X that the entry gives a meaning; a source that a literal replaces has no class bit. -/
def xAllowed (sh : Shape) (o : EOps) : BitVec 32 :=
  sh.xm ||| (if sh.a.mayUni && !litInA sh o then 0x80000000#32 else 0)
    ||| (if sh.b.mayUni && !litInB sh o then 0x40000000#32 else 0)
    ||| (if sh.c.mayUni then 0x20000000#32 else 0)

/-- HINT (R94). -/
def hintOk (k : HintK) (h : BitVec 4) : Bool :=
  match k with
  | .zero => h == 0
  | .rnd => decide (h.toNat ≤ 4)
  | .cache => decide (h.toNat ≤ 2)
  | .swap => decide (h.toNat % 4 ≤ 2 ∧ h.toNat < 8)
  | .sat => decide (h.toNat ≤ 1)
  | .neg => decide (h.toNat ≤ 1)

/-- The fields of word 2 of a memory instruction (R296). -/
def memSce (o : EOps) : Bool := o.x.getLsbD 28
def memScope (o : EOps) : Nat := (o.x.extractLsb' 25 3).toNat
def memOrd (o : EOps) : Nat := (o.x.extractLsb' 23 2).toNat
def memFlag (o : EOps) : Bool := o.x.getLsbD 22
/-- OFF, sign-extended (R296). -/
def memOff (o : EOps) : BitVec 64 := (o.x.extractLsb' 0 20).signExtend 64

/-- SCOPE is a scope code, and 0 without SCE (R296). -/
def scopeOk (o : EOps) : Bool := decide (memScope o < 7) && (memSce o || memScope o == 0)

/-- A size that R302 allows for an atomic operation. -/
def atomSizeOk (op : AtomOp) (sz : ASz) : Bool :=
  match op with
  | .cas => true
  | .fadd => sz == .s32
  | .fmin => sz == .s32
  | .fmax => sz == .s32
  | _ => sz != .s128

/-- A field of X. -/
def xField (o : EOps) (lo len : Nat) : Nat := (o.x.extractLsb' lo len).toNat

/-- The further checks an entry states. -/
def extraOk (e : Extra) (o : EOps) : Bool :=
  match e with
  | .none => true
  | .branch => o.lit.isNone || o.x == 0
  | .mem acq rel ar =>
    scopeOk o && (!memSce o || memOrd o != 0) &&
      (match memOrd o with
       | 0 => true
       | 1 => acq
       | 2 => rel
       | _ => ar)
  | .red =>
    scopeOk o && (!memSce o || memOrd o != 0) && (memOrd o == 0 || (memOrd o == 2 && !memFlag o))
  | .scoped => scopeOk o
  | .ratom op sz => atomSizeOk op sz
  | .sysr => (SpecReg.ofNum (xField o 0 12)).isSome
  | .sysw =>
    match SpecReg.ofNum (xField o 0 12) with
    | none => false
    | some r => r.writable
  | .taper => decide (4 ≤ xField o 0 4 ∧ xField o 0 4 ≤ 8)
  | .alt => o.lit.isSome || o.b == 0 || o.a == 0
  | .slice => decide (1 ≤ xField o 0 3)
  | .len1 => decide (1 ≤ xField o 0 8 ∧ xField o 0 8 ≤ 224)
  | .len0 => decide (xField o 0 8 ≤ 224)
  | .strB => o.lit.isSome || uB o
  | .strB0 => (o.lit.isSome || uB o) && decide (xField o 0 8 ≤ 224)
  | .pack => uA o
  | .pack0 => uA o && decide (xField o 0 8 ≤ 224)
  | .tldb => decide (xField o 4 4 ≤ 12)
  | .tlda => decide (xField o 4 4 ≤ 13)
  | .tmma block =>
    decide (xField o 0 4 + xField o 4 4 + 1 ≤ 16) &&
      (if block then o.d.toNat % 4 == 0 && decide (o.d.toNat + 4 * (xField o 4 4 + 1) ≤ 16)
       else decide (o.d.toNat + xField o 4 4 + 1 ≤ 16))
  | .tsca =>
    xField o 0 4 % 4 == 0 && !(decide (xField o 0 4 ≤ o.d.toNat ∧ o.d.toNat < xField o 0 4 + 4))
  | .taccSt => decide (xField o 4 2 ≤ 2)
  | .taccTri => o.x.getLsbD 1 || (o.a == 0 && o.b == 0 && (o.lit == none || o.lit == some 0))
  | .carbSet => decide (xField o 0 5 < 24 ∨ xField o 0 5 = 31)
  | .carbGet => decide (xField o 0 5 < 24)
  | .pageClass => decide (xField o 0 2 ≤ 2)

/-- The predicate field (R93, R298). -/
def predOk (p : QsK) (o : EOps) : Bool :=
  match p with
  | .none => o.qs == 0 && !o.qn
  | _ => o.qs != 0 || !o.qn

/-- No rule of R93 to R99 that raises ILLEGAL_OP is broken by the extended form. -/
def shapeOk (sh : Shape) (o : EOps) : Bool :=
  litOk sh o && fieldOk sh.d false o.d && (litInA sh o || fieldOk sh.a (uA o) o.a) &&
    (litInB sh o || fieldOk sh.b (uB o) o.b) && fieldOk sh.c (uC o) o.c &&
    (o.x &&& ~~~(xAllowed sh o) == 0) && hintOk sh.hint o.hint && predOk sh.qs o && extraOk sh.extra o

/-- The extended form that a base form acts as: a uniform base form takes no literal, and ignores one of zero (R89, R96,
R238). -/
def b3AsE (op : Nat) (sh : Shape) (o : B3Ops) : EOps :=
  let e := if op = 0x32 then toEAcc o else toE o
  match sh.qs with
  | .k => { e with lit := none }
  | _ => e

/-- A base form is an instruction (R89, R90, R238). -/
def b3Ok (op : Nat) (sh : Shape) (o : B3Ops) : Bool :=
  (match sh.qs with
   | .k => (match o.lit with
     | none => true
     | some w => w == 0 && o.b == 0)
   | _ => true) && shapeOk sh (b3AsE op sh o)

/-- An instruction's fields break no rule that makes its encoding an illegal one (R88 to R99). -/
def formOk : Form → Bool
  | .event => true
  | .clause _ => true
  | .clauseLit _ lit => lit.toNat / 256 == 0
  | .clauseExt _ w1 w2 => w1.toNat / 256 == 0 && w2 == 0
  | .bj _ cnd off lit => cnd != 8 && (lit.isNone || off == 0)
  | .b3 op _ o sh => b3Ok op sh o
  | .e _ _ o sh => shapeOk sh o

/-- Long-latency (R115). -/
def longLatency (i : Instr) : Bool :=
  match form i with
  | .e _ _ _ sh => sh.ll
  | .b3 _ _ _ sh => sh.ll
  | _ => false

/-! ### The words of an instruction (R85, R88 to R92) -/

def litWords : Option (BitVec 64) → List Word
  | none => []
  | some w => [w.extractLsb' 0 32, w.extractLsb' 32 32]

/-- The LEN field of a base form, and of an extended form. -/
def lenBase (lit : Option (BitVec 64)) : BitVec 2 := if lit.isSome then 1 else 0
def lenExt (lit : Option (BitVec 64)) : BitVec 2 := if lit.isSome then 3 else 2

def headerWord (len : BitVec 2) (h : Header) : Word := len ++ (0#7) ++ h.wait ++ h.seta ++ h.setb ++ h.n

def bjWord (len : BitVec 2) (op : BitVec 7) (cnd : BitVec 4) (off : BitVec 19) : Word := len ++ op ++ cnd ++ off

def b3Word (op : BitVec 7) (m : BitVec 2) (o : B3Ops) : Word := lenBase o.lit ++ op ++ o.d ++ o.a ++ o.b ++ m

def eWord0 (op : BitVec 7) (o : EOps) : Word := lenExt o.lit ++ op ++ o.d ++ o.a ++ o.qs
def eWord1 (sub : BitVec 7) (o : EOps) : Word := o.b ++ o.c ++ BitVec.ofBool o.qn ++ sub ++ o.hint

/-- The words of a layout. -/
def formWords : Form → List Word
  | .event => []
  | .clause h => [headerWord 0 h]
  | .clauseLit h lit => headerWord 1 h :: litWords (some lit)
  | .clauseExt h w1 w2 => [headerWord 2 h, w1, w2]
  | .bj op cnd off lit => bjWord (lenBase lit) (BitVec.ofNat 7 op) cnd off :: litWords lit
  | .b3 op m o _ => b3Word (BitVec.ofNat 7 op) (BitVec.ofNat 2 m) o :: litWords o.lit
  | .e op sub o _ => eWord0 (BitVec.ofNat 7 op) o :: eWord1 (BitVec.ofNat 7 sub) o :: o.x :: litWords o.lit

/-- The number of words that LEN gives (R85). -/
def lenWords (len : Nat) : Nat :=
  match len with
  | 0 => 1
  | 1 => 3
  | 2 => 3
  | _ => 5

end Sys2Proof.Machine
end

