-- ==== Sys2Proof/WellFormed.lean ====
section
/-!
DEFINITION. Well-formed instructions: those whose fields break no rule of R88 to R99 that makes an encoding illegal. The
check itself is written over the operand forms of Machine/Operands.lean.
-/

namespace Sys2Proof

/-- The instruction is an encoding that the spec gives a meaning. An event row is always well-formed. -/
def wellFormed (i : Instr) : Bool := Machine.formOk (Machine.form i)

end Sys2Proof
end

