-- ==== Sys2Proof/Decode.lean ====
section
/-!
DEFINITION. Decoding: from words or bytes to an instruction, or a refusal with a name (R85 to R100); and the encoder, from
an instruction to its words.
-/

namespace Sys2Proof

/-- Why some bytes are not an instruction. -/
inductive DecErr where
  /-- fewer bytes than LEN asks for -/
  | truncated
  /-- OP 0x00 with LEN 0b11 (R88) -/
  | headerLen
  /-- a reserved OP (R100) -/
  | reservedOp
  /-- a defined OP without a base form, with LEN 0b00 or 0b01 (R90) -/
  | noBaseForm
  /-- a reserved SUB or M (R100) -/
  | reservedSub
  /-- a reserved CND, a non-zero reserved or unused field, a literal that breaks R96, a bad operand number (R91 to R99) -/
  | badField
  deriving DecidableEq, Repr

/-! ### The fields of the formats -/

def fLen (w : Word) : Nat := (w.extractLsb' 30 2).toNat
def fOp (w : Word) : Nat := (w.extractLsb' 23 7).toNat

def headerOf (w : Word) : Header :=
  { wait := w.extractLsb' 11 12, seta := w.extractLsb' 7 4, setb := w.extractLsb' 3 4, n := w.extractLsb' 0 3 }

def litOf (lo hi : Word) : BitVec 64 := hi ++ lo

def b3Of (w : Word) (lit : Option (BitVec 64)) : B3Ops :=
  { d := w.extractLsb' 16 7, a := w.extractLsb' 9 7, b := w.extractLsb' 2 7, lit := lit }

def eOf (w0 w1 w2 : Word) (lit : Option (BitVec 64)) : EOps :=
  { d := w0.extractLsb' 13 10, a := w0.extractLsb' 3 10, qs := w0.extractLsb' 0 3, b := w1.extractLsb' 22 10,
    c := w1.extractLsb' 12 10, qn := w1.getLsbD 11, hint := w1.extractLsb' 0 4, x := w2, lit := lit }

/-! ### The opcode map (R90, R114): one definition an OP, by SUB. `Instr` has more constructors with fields than the
runtime can tag, so what builds any of them is left to the kernel (noncomputable). -/

noncomputable def e01 (sub : Nat) (o : EOps) : Option Instr :=
  match sub with
  | 0 => some (.bra o)
  | _ => none

noncomputable def e02 (sub : Nat) (o : EOps) : Option Instr :=
  match sub with
  | 0 => some (.brx o)
  | 1 => some (.brxIdx o)
  | _ => none

noncomputable def e03 (sub : Nat) (o : EOps) : Option Instr :=
  match sub with
  | 0 => some (.call o)
  | _ => none

noncomputable def e04 (sub : Nat) (o : EOps) : Option Instr :=
  match sub with
  | 0 => some (.ret o)
  | _ => none

noncomputable def e05 (sub : Nat) (o : EOps) : Option Instr :=
  match sub with
  | 0 => some (.exit o)
  | _ => none

noncomputable def e06 (sub : Nat) (o : EOps) : Option Instr :=
  match sub with
  | 0 => some (.maskSet o)
  | 1 => some (.maskGet o)
  | 2 => some (.maskIf o)
  | 3 => some (.maskElse o)
  | 4 => some (.maskEnd o)
  | _ => none

noncomputable def e07 (sub : Nat) (o : EOps) : Option Instr :=
  match sub with
  | 0 => some (.voteAny o)
  | 1 => some (.voteAll o)
  | 2 => some (.voteBal o)
  | 3 => some (.voteCnt o)
  | 4 => some (.voteUni o)
  | _ => none

noncomputable def e08 (sub : Nat) (o : EOps) : Option Instr :=
  match sub with
  | 0 => some (.sysr o)
  | _ => none

noncomputable def e09 (sub : Nat) (o : EOps) : Option Instr :=
  match sub with
  | 0 => some (.sysw o)
  | _ => none

noncomputable def e0A (sub : Nat) (o : EOps) : Option Instr :=
  match sub with
  | 0 => some (.trap o)
  | _ => none

noncomputable def e0B (sub : Nat) (o : EOps) : Option Instr :=
  match sub with
  | 0 => some (.tret o)
  | _ => none

noncomputable def e0C (sub : Nat) (o : EOps) : Option Instr :=
  match sub with
  | 0 => some (.yield o)
  | _ => none

noncomputable def e0D (sub : Nat) (o : EOps) : Option Instr :=
  match sub with
  | 0 => some (.roleCnt o)
  | 1 => some (.rolePhys o)
  | 2 => some (.roleTest o)
  | _ => none

noncomputable def e0E (sub : Nat) (o : EOps) : Option Instr :=
  match sub with
  | 0 => some (.regnB o)
  | 1 => some (.regnE o)
  | 2 => some (.regnStat o)
  | _ => none

noncomputable def e0F (sub : Nat) (o : EOps) : Option Instr :=
  match sub with
  | 0 => some (.snap o)
  | 1 => some (.snapGang o)
  | _ => none

noncomputable def e10 (sub : Nat) (o : EOps) : Option Instr :=
  match sub with
  | 0 => some (.uadd o)
  | 1 => some (.uaddSub o)
  | 2 => some (.uaddSat o)
  | 3 => some (.uaddSubSat o)
  | 4 => some (.uadd64 o)
  | 5 => some (.uaddSub64 o)
  | _ => none

noncomputable def e11 (sub : Nat) (o : EOps) : Option Instr :=
  match sub with
  | 0 => some (.umulLo o)
  | 1 => some (.umulHi o)
  | 2 => some (.umulHiu o)
  | _ => none

noncomputable def e12 (sub : Nat) (o : EOps) : Option Instr :=
  match sub with
  | 0 => some (.ulogAnd o)
  | 1 => some (.ulogOr o)
  | 2 => some (.ulogXor o)
  | 3 => some (.ulogAndn o)
  | 4 => some (.ulogKand o)
  | 5 => some (.ulogKor o)
  | 6 => some (.ulogKxor o)
  | 7 => some (.ulogKandn o)
  | _ => none

noncomputable def e13 (sub : Nat) (o : EOps) : Option Instr :=
  match sub with
  | 0 => some (.ushfShl o)
  | 1 => some (.ushfShr o)
  | 2 => some (.ushfSar o)
  | 3 => some (.ushfRot o)
  | _ => none

noncomputable def e14 (sub : Nat) (o : EOps) : Option Instr :=
  match sub with
  | 0 => some (.ucmp .eq o)
  | 1 => some (.ucmp .ne o)
  | 2 => some (.ucmp .lt o)
  | 3 => some (.ucmp .le o)
  | 4 => some (.ucmp .gt o)
  | 5 => some (.ucmp .ge o)
  | 6 => some (.ucmp .ltu o)
  | 7 => some (.ucmp .leu o)
  | 8 => some (.ucmp .gtu o)
  | 9 => some (.ucmp .geu o)
  | _ => none

noncomputable def e15 (sub : Nat) (o : EOps) : Option Instr :=
  match sub with
  | 0 => some (.umov o)
  | 1 => some (.umov64 o)
  | 2 => some (.umovFirst o)
  | _ => none

noncomputable def e16 (sub : Nat) (o : EOps) : Option Instr :=
  match sub with
  | 0 => some (.usel o)
  | _ => none

noncomputable def e17 (sub : Nat) (o : EOps) : Option Instr :=
  match sub with
  | 0 => some (.uminmaxMin o)
  | 1 => some (.uminmaxMax o)
  | 2 => some (.uminmaxMinu o)
  | 3 => some (.uminmaxMaxu o)
  | _ => none

noncomputable def e18 (sub : Nat) (o : EOps) : Option Instr :=
  match sub with
  | 0 => some (.ubitPopc o)
  | 1 => some (.ubitClz o)
  | 2 => some (.ubitCtz o)
  | 3 => some (.ubitBrev o)
  | 4 => some (.ubitExtr o)
  | 5 => some (.ubitExtrs o)
  | _ => none

noncomputable def e19 (sub : Nat) (o : EOps) : Option Instr :=
  match sub with
  | 0 => some (.ulea o)
  | 1 => some (.uleaS o)
  | _ => none

noncomputable def e1A (sub : Nat) (o : EOps) : Option Instr :=
  match sub with
  | 0 => some (.uld .b32 o)
  | 1 => some (.uld .b64 o)
  | 2 => some (.uld .b128 o)
  | 3 => some (.uld .u8 o)
  | 4 => some (.uld .s8 o)
  | 5 => some (.uld .u16 o)
  | 6 => some (.uld .s16 o)
  | _ => none

noncomputable def e20 (sub : Nat) (o : EOps) : Option Instr :=
  match sub with
  | 0 => some (.iadd o)
  | 1 => some (.iaddSub o)
  | 2 => some (.iaddSat o)
  | 3 => some (.iaddSubSat o)
  | 4 => some (.iadd64 o)
  | 5 => some (.iaddSub64 o)
  | 6 => some (.iaddSatu o)
  | 7 => some (.iaddSubSatu o)
  | _ => none

noncomputable def e21 (sub : Nat) (o : EOps) : Option Instr :=
  match sub with
  | 0 => some (.imulLo o)
  | 1 => some (.imulHi o)
  | 2 => some (.imulHiu o)
  | 3 => some (.imulWide o)
  | 4 => some (.imulWideu o)
  | _ => none

noncomputable def e22 (sub : Nat) (o : EOps) : Option Instr :=
  match sub with
  | 0 => some (.imadLo o)
  | 1 => some (.imadWide o)
  | 2 => some (.imadWideu o)
  | _ => none

noncomputable def e23 (sub : Nat) (o : EOps) : Option Instr :=
  match sub with
  | 0 => some (.ilogAnd o)
  | 1 => some (.ilogOr o)
  | 2 => some (.ilogXor o)
  | 3 => some (.ilogAndn o)
  | 4 => some (.ilogLut o)
  | _ => none

noncomputable def e24 (sub : Nat) (o : EOps) : Option Instr :=
  match sub with
  | 0 => some (.ishfShl o)
  | 1 => some (.ishfShr o)
  | 2 => some (.ishfSar o)
  | 3 => some (.ishfRot o)
  | 4 => some (.ishfShl64 o)
  | 5 => some (.ishfShr64 o)
  | 6 => some (.ishfSar64 o)
  | _ => none

noncomputable def e25 (sub : Nat) (o : EOps) : Option Instr :=
  match sub with
  | 0 => some (.iminmaxMin o)
  | 1 => some (.iminmaxMax o)
  | 2 => some (.iminmaxMinu o)
  | 3 => some (.iminmaxMaxu o)
  | 4 => some (.iminmaxAbs o)
  | 5 => some (.iminmaxAbsSat o)
  | _ => none

noncomputable def e26 (sub : Nat) (o : EOps) : Option Instr :=
  match sub with
  | 0 => some (.icmp .eq o)
  | 1 => some (.icmp .ne o)
  | 2 => some (.icmp .lt o)
  | 3 => some (.icmp .le o)
  | 4 => some (.icmp .gt o)
  | 5 => some (.icmp .ge o)
  | 6 => some (.icmp .ltu o)
  | 7 => some (.icmp .leu o)
  | 8 => some (.icmp .gtu o)
  | 9 => some (.icmp .geu o)
  | 16 => some (.icmp64 .eq o)
  | 17 => some (.icmp64 .ne o)
  | 18 => some (.icmp64 .lt o)
  | 19 => some (.icmp64 .le o)
  | 20 => some (.icmp64 .gt o)
  | 21 => some (.icmp64 .ge o)
  | 22 => some (.icmp64 .ltu o)
  | 23 => some (.icmp64 .leu o)
  | 24 => some (.icmp64 .gtu o)
  | 25 => some (.icmp64 .geu o)
  | _ => none

noncomputable def e27 (sub : Nat) (o : EOps) : Option Instr :=
  match sub with
  | 0 => some (.isel o)
  | 1 => some (.isel64 o)
  | _ => none

noncomputable def e28 (sub : Nat) (o : EOps) : Option Instr :=
  match sub with
  | 0 => some (.ibitPopc o)
  | 1 => some (.ibitClz o)
  | 2 => some (.ibitCtz o)
  | 3 => some (.ibitBrev o)
  | 4 => some (.ibitExtr o)
  | 5 => some (.ibitExtrs o)
  | 6 => some (.ibitIns o)
  | _ => none

noncomputable def e29 (sub : Nat) (o : EOps) : Option Instr :=
  match sub with
  | 0 => some (.lea o)
  | 1 => some (.leaS o)
  | _ => none

noncomputable def e2A (sub : Nat) (o : EOps) : Option Instr :=
  match sub with
  | 0 => some (.icvtSext .w8 o)
  | 1 => some (.icvtSext .w16 o)
  | 2 => some (.icvtZext .w8 o)
  | 3 => some (.icvtZext .w16 o)
  | 4 => some (.icvtSatS .w8 o)
  | 5 => some (.icvtSatS .w16 o)
  | 6 => some (.icvtSatU .w8 o)
  | 7 => some (.icvtSatU .w16 o)
  | 8 => some (.icvtSext64 o)
  | 9 => some (.icvtZext64 o)
  | 10 => some (.icvtSatS32 o)
  | 11 => some (.icvtSatU32 o)
  | _ => none

noncomputable def e2B (sub : Nat) (o : EOps) : Option Instr :=
  match sub with
  | 0 => some (.mov o)
  | 1 => some (.mov64 o)
  | _ => none

noncomputable def e2C (sub : Nat) (o : EOps) : Option Instr :=
  match sub with
  | 0 => some (.movxLd o)
  | 1 => some (.movxSt o)
  | _ => none

noncomputable def e2D (sub : Nat) (o : EOps) : Option Instr :=
  match sub with
  | 0 => some (.xset o)
  | 1 => some (.xsetAdd o)
  | 2 => some (.xget o)
  | _ => none

noncomputable def e2E (sub : Nat) (o : EOps) : Option Instr :=
  match sub with
  | 0 => some (.shflIdx o)
  | 1 => some (.shflUp o)
  | 2 => some (.shflDown o)
  | 3 => some (.shflXor o)
  | _ => none

noncomputable def e30 (sub : Nat) (o : EOps) : Option Instr :=
  match sub with
  | 0 => some (.fadd .f32 o)
  | 2 => some (.fadd .f16 o)
  | 4 => some (.fadd .bf16 o)
  | 1 => some (.faddSub .f32 o)
  | 3 => some (.faddSub .f16 o)
  | 5 => some (.faddSub .bf16 o)
  | _ => none

noncomputable def e31 (sub : Nat) (o : EOps) : Option Instr :=
  match sub with
  | 0 => some (.fmul .f32 o)
  | 1 => some (.fmul .f16 o)
  | 2 => some (.fmul .bf16 o)
  | _ => none

noncomputable def e32 (sub : Nat) (o : EOps) : Option Instr :=
  match sub with
  | 0 => some (.ffma .f32 o)
  | 1 => some (.ffma .f16 o)
  | 2 => some (.ffma .bf16 o)
  | _ => none

noncomputable def e33 (sub : Nat) (o : EOps) : Option Instr :=
  match sub with
  | 0 => some (.fminmaxMin .f32 o)
  | 2 => some (.fminmaxMin .f16 o)
  | 4 => some (.fminmaxMin .bf16 o)
  | 1 => some (.fminmaxMax .f32 o)
  | 3 => some (.fminmaxMax .f16 o)
  | 5 => some (.fminmaxMax .bf16 o)
  | _ => none

noncomputable def e34 (sub : Nat) (o : EOps) : Option Instr :=
  match sub with
  | 0 => some (.fcmp .eq .f32 o)
  | 1 => some (.fcmp .ne .f32 o)
  | 2 => some (.fcmp .lt .f32 o)
  | 3 => some (.fcmp .le .f32 o)
  | 4 => some (.fcmp .gt .f32 o)
  | 5 => some (.fcmp .ge .f32 o)
  | 6 => some (.fcmp .un .f32 o)
  | 7 => some (.fcmp .ord .f32 o)
  | 8 => some (.fcmp .eq .f16 o)
  | 9 => some (.fcmp .ne .f16 o)
  | 10 => some (.fcmp .lt .f16 o)
  | 11 => some (.fcmp .le .f16 o)
  | 12 => some (.fcmp .gt .f16 o)
  | 13 => some (.fcmp .ge .f16 o)
  | 14 => some (.fcmp .un .f16 o)
  | 15 => some (.fcmp .ord .f16 o)
  | 16 => some (.fcmp .eq .bf16 o)
  | 17 => some (.fcmp .ne .bf16 o)
  | 18 => some (.fcmp .lt .bf16 o)
  | 19 => some (.fcmp .le .bf16 o)
  | 20 => some (.fcmp .gt .bf16 o)
  | 21 => some (.fcmp .ge .bf16 o)
  | 22 => some (.fcmp .un .bf16 o)
  | 23 => some (.fcmp .ord .bf16 o)
  | _ => none

noncomputable def e35 (sub : Nat) (o : EOps) : Option Instr :=
  match sub with
  | 0 => some (.frnd .f32 o)
  | 1 => some (.frnd .f16 o)
  | 2 => some (.frnd .bf16 o)
  | _ => none

noncomputable def e36 (sub : Nat) (o : EOps) : Option Instr :=
  match sub with
  | 0 => some (.fspecRcp o)
  | 1 => some (.fspecRsq o)
  | 2 => some (.fspecSqrt o)
  | 3 => some (.fspecExp2 o)
  | 4 => some (.fspecLog2 o)
  | 5 => some (.fspecSin o)
  | 6 => some (.fspecCos o)
  | 7 => some (.fspecTanh o)
  | _ => none

noncomputable def e37 (sub : Nat) (o : EOps) : Option Instr :=
  match sub with
  | 0 => some (.fcvtF16F32 o)
  | 1 => some (.fcvtBf16F32 o)
  | 2 => some (.fcvtF32F16 o)
  | 3 => some (.fcvtF32Bf16 o)
  | 4 => some (.fcvtS32F32 o)
  | 5 => some (.fcvtU32F32 o)
  | 6 => some (.fcvtF32S32 o)
  | 7 => some (.fcvtF32U32 o)
  | 8 => some (.fcvtF16x2F32 o)
  | 9 => some (.fcvtBf16x2F32 o)
  | 10 => some (.fcvtTpF32 o)
  | 11 => some (.fcvtF32Tp o)
  | _ => none

noncomputable def e38 (sub : Nat) (o : EOps) : Option Instr :=
  match sub with
  | 0 => some (.fclass .f32 o)
  | 1 => some (.fclass .f16 o)
  | 2 => some (.fclass .bf16 o)
  | 3 => some (.fclassPred .f32 o)
  | 4 => some (.fclassPred .f16 o)
  | 5 => some (.fclassPred .bf16 o)
  | _ => none

noncomputable def e39 (sub : Nat) (o : EOps) : Option Instr :=
  match sub with
  | 0 => some (.fscale .f32 o)
  | 1 => some (.fscale .f16 o)
  | 2 => some (.fscale .bf16 o)
  | _ => none

noncomputable def e3A (sub : Nat) (o : EOps) : Option Instr :=
  match sub with
  | 0 => some (.fdp2 .f16 o)
  | 1 => some (.fdp2 .bf16 o)
  | _ => none

noncomputable def e40 (sub : Nat) (o : EOps) : Option Instr :=
  match sub with
  | 0 => some (.vprecSet o)
  | 1 => some (.vprecP o)
  | 2 => some (.vprecMode o)
  | _ => none

noncomputable def e41 (sub : Nat) (o : EOps) : Option Instr :=
  match sub with
  | 0 => some (.vpgetHead o)
  | 1 => some (.vpgetSlice o)
  | _ => none

noncomputable def e42 (sub : Nat) (o : EOps) : Option Instr :=
  match sub with
  | 0 => some (.vpadd o)
  | 1 => some (.vpaddSub o)
  | _ => none

noncomputable def e43 (sub : Nat) (o : EOps) : Option Instr :=
  match sub with
  | 0 => some (.vpmul o)
  | _ => none

noncomputable def e44 (sub : Nat) (o : EOps) : Option Instr :=
  match sub with
  | 0 => some (.vpfma o)
  | 1 => some (.vpfmaNeg o)
  | _ => none

noncomputable def e45 (sub : Nat) (o : EOps) : Option Instr :=
  match sub with
  | 0 => some (.vpdiv o)
  | _ => none

noncomputable def e46 (sub : Nat) (o : EOps) : Option Instr :=
  match sub with
  | 0 => some (.vpsqrt o)
  | _ => none

noncomputable def e47 (sub : Nat) (o : EOps) : Option Instr :=
  match sub with
  | 0 => some (.vpcmp .eq o)
  | 1 => some (.vpcmp .ne o)
  | 2 => some (.vpcmp .lt o)
  | 3 => some (.vpcmp .le o)
  | 4 => some (.vpcmp .gt o)
  | 5 => some (.vpcmp .ge o)
  | 6 => some (.vpcmp .un o)
  | 7 => some (.vpcmp .ord o)
  | _ => none

noncomputable def e48 (sub : Nat) (o : EOps) : Option Instr :=
  match sub with
  | 0 => some (.vpcvtVpF32 o)
  | 1 => some (.vpcvtF32Vp o)
  | 2 => some (.vpcvtVpF64 o)
  | 3 => some (.vpcvtF64Vp o)
  | 4 => some (.vpcvtVpS64 o)
  | 5 => some (.vpcvtS64Vp o)
  | 6 => some (.vpcvtVpT16 o)
  | 7 => some (.vpcvtT16Vp o)
  | _ => none

noncomputable def e49 (sub : Nat) (o : EOps) : Option Instr :=
  match sub with
  | 0 => some (.vprndInt o)
  | 1 => some (.vprndLen o)
  | _ => none

noncomputable def e4A (sub : Nat) (o : EOps) : Option Instr :=
  match sub with
  | 0 => some (.vpld o)
  | 1 => some (.vpldStr o)
  | 2 => some (.vpldIdx o)
  | 3 => some (.vpldPack o)
  | _ => none

noncomputable def e4B (sub : Nat) (o : EOps) : Option Instr :=
  match sub with
  | 0 => some (.vpst o)
  | 1 => some (.vpstStr o)
  | 2 => some (.vpstIdx o)
  | 3 => some (.vpstPack o)
  | _ => none

noncomputable def e4C (sub : Nat) (o : EOps) : Option Instr :=
  match sub with
  | 0 => some (.vpmov o)
  | 1 => some (.vpmovNeg o)
  | 2 => some (.vpmovAbs o)
  | _ => none

noncomputable def e50 (sub : Nat) (o : EOps) : Option Instr :=
  match sub with
  | 0 => some (.ld .b32 o)
  | 1 => some (.ld .b64 o)
  | 2 => some (.ld .b128 o)
  | 3 => some (.ld .u8 o)
  | 4 => some (.ld .s8 o)
  | 5 => some (.ld .u16 o)
  | 6 => some (.ld .s16 o)
  | _ => none

noncomputable def e51 (sub : Nat) (o : EOps) : Option Instr :=
  match sub with
  | 0 => some (.st .b32 o)
  | 1 => some (.st .b64 o)
  | 2 => some (.st .b128 o)
  | 3 => some (.st .b8 o)
  | 4 => some (.st .b16 o)
  | _ => none

noncomputable def e52 (sub : Nat) (o : EOps) : Option Instr :=
  match sub with
  | 0 => some (.atomAdd .s32 o)
  | 1 => some (.atomAdd .s64 o)
  | 4 => some (.atomMin .s32 o)
  | 5 => some (.atomMin .s64 o)
  | 8 => some (.atomMax .s32 o)
  | 9 => some (.atomMax .s64 o)
  | 12 => some (.atomMinu .s32 o)
  | 13 => some (.atomMinu .s64 o)
  | 16 => some (.atomMaxu .s32 o)
  | 17 => some (.atomMaxu .s64 o)
  | 20 => some (.atomAnd .s32 o)
  | 21 => some (.atomAnd .s64 o)
  | 24 => some (.atomOr .s32 o)
  | 25 => some (.atomOr .s64 o)
  | 28 => some (.atomXor .s32 o)
  | 29 => some (.atomXor .s64 o)
  | 32 => some (.atomExch .s32 o)
  | 33 => some (.atomExch .s64 o)
  | 36 => some (.atomCas .s32 o)
  | 37 => some (.atomCas .s64 o)
  | 38 => some (.atomCas .s128 o)
  | 40 => some (.atomFadd o)
  | 44 => some (.atomFmin o)
  | 48 => some (.atomFmax o)
  | _ => none

noncomputable def e53 (sub : Nat) (o : EOps) : Option Instr :=
  match sub with
  | 0 => some (.redAdd .s32 o)
  | 1 => some (.redAdd .s64 o)
  | 4 => some (.redMin .s32 o)
  | 5 => some (.redMin .s64 o)
  | 8 => some (.redMax .s32 o)
  | 9 => some (.redMax .s64 o)
  | 12 => some (.redMinu .s32 o)
  | 13 => some (.redMinu .s64 o)
  | 16 => some (.redMaxu .s32 o)
  | 17 => some (.redMaxu .s64 o)
  | 20 => some (.redAnd .s32 o)
  | 21 => some (.redAnd .s64 o)
  | 24 => some (.redOr .s32 o)
  | 25 => some (.redOr .s64 o)
  | 28 => some (.redXor .s32 o)
  | 29 => some (.redXor .s64 o)
  | 40 => some (.redFadd o)
  | 44 => some (.redFmin o)
  | 48 => some (.redFmax o)
  | _ => none

noncomputable def e54 (sub : Nat) (o : EOps) : Option Instr :=
  match sub with
  | 0 => some (.ldx .s32 o)
  | 1 => some (.ldx .s64 o)
  | _ => none

noncomputable def e55 (sub : Nat) (o : EOps) : Option Instr :=
  match sub with
  | 0 => some (.stx .s32 o)
  | 1 => some (.stx .s64 o)
  | _ => none

noncomputable def e56 (sub : Nat) (o : EOps) : Option Instr :=
  match sub with
  | 0 => some (.fenceAcq o)
  | 1 => some (.fenceRel o)
  | 2 => some (.fenceAr o)
  | _ => none

noncomputable def e57 (sub : Nat) (o : EOps) : Option Instr :=
  match sub with
  | 0 => some (.cmaintWb o)
  | 1 => some (.cmaintInv o)
  | 2 => some (.cmaintDemote o)
  | _ => none

noncomputable def e58 (sub : Nat) (o : EOps) : Option Instr :=
  match sub with
  | 0 => some (.prefL1 o)
  | 1 => some (.prefClc o)
  | _ => none

noncomputable def e59 (sub : Nat) (o : EOps) : Option Instr :=
  match sub with
  | 0 => some (.stashMap o)
  | 1 => some (.stashUnmap o)
  | 2 => some (.stashFlush o)
  | _ => none

noncomputable def e5A (sub : Nat) (o : EOps) : Option Instr :=
  match sub with
  | 0 => some (.barInit o)
  | 1 => some (.barArrive o)
  | 2 => some (.barExpect o)
  | 3 => some (.barWait o)
  | 4 => some (.barTest o)
  | _ => none

noncomputable def e60 (sub : Nat) (o : EOps) : Option Instr :=
  match sub with
  | 0 => some (.tldb o)
  | _ => none

noncomputable def e61 (sub : Nat) (o : EOps) : Option Instr :=
  match sub with
  | 0 => some (.tlda o)
  | _ => none

noncomputable def e62 (sub : Nat) (o : EOps) : Option Instr :=
  match sub with
  | 0 => some (.tmma o)
  | 1 => some (.tmmaBlock o)
  | 2 => some (.tmmaTri o)
  | 3 => some (.tmmaBlockTri o)
  | _ => none

noncomputable def e63 (sub : Nat) (o : EOps) : Option Instr :=
  match sub with
  | 0 => some (.tgemm o)
  | _ => none

noncomputable def e64 (sub : Nat) (o : EOps) : Option Instr :=
  match sub with
  | 0 => some (.tsca o)
  | 1 => some (.tscaTri o)
  | _ => none

noncomputable def e65 (sub : Nat) (o : EOps) : Option Instr :=
  match sub with
  | 0 => some (.taccZero o)
  | 1 => some (.taccRdPair o)
  | 2 => some (.taccRdVal o)
  | 3 => some (.taccSt o)
  | 4 => some (.taccMode o)
  | 5 => some (.taccTri o)
  | _ => none

noncomputable def e66 (sub : Nat) (o : EOps) : Option Instr :=
  match sub with
  | 0 => some (.tctxSave o)
  | 1 => some (.tctxRestore o)
  | _ => none

noncomputable def e67 (sub : Nat) (o : EOps) : Option Instr :=
  match sub with
  | 0 => some (.tprogStep o)
  | 1 => some (.tprogTotal o)
  | _ => none

noncomputable def e68 (sub : Nat) (o : EOps) : Option Instr :=
  match sub with
  | 0 => some (.cpy o)
  | _ => none

noncomputable def e69 (sub : Nat) (o : EOps) : Option Instr :=
  match sub with
  | 0 => some (.cpy2 o)
  | _ => none

noncomputable def e6A (sub : Nat) (o : EOps) : Option Instr :=
  match sub with
  | 0 => some (.cpygGather o)
  | 1 => some (.cpygScatter o)
  | _ => none

noncomputable def e6B (sub : Nat) (o : EOps) : Option Instr :=
  match sub with
  | 0 => some (.cseal o)
  | _ => none

noncomputable def e6C (sub : Nat) (o : EOps) : Option Instr :=
  match sub with
  | 0 => some (.cwait o)
  | 1 => some (.cwaitTest o)
  | _ => none

noncomputable def e6D (sub : Nat) (o : EOps) : Option Instr :=
  match sub with
  | 0 => some (.cwptrAddr o)
  | 1 => some (.cwptrCnt o)
  | 2 => some (.cwptrProg o)
  | 3 => some (.cwptrRef o)
  | _ => none

noncomputable def e6E (sub : Nat) (o : EOps) : Option Instr :=
  match sub with
  | 0 => some (.ratom .add .s32 o)
  | 1 => some (.ratom .add .s64 o)
  | 4 => some (.ratom .min .s32 o)
  | 5 => some (.ratom .min .s64 o)
  | 8 => some (.ratom .max .s32 o)
  | 9 => some (.ratom .max .s64 o)
  | 12 => some (.ratom .minu .s32 o)
  | 13 => some (.ratom .minu .s64 o)
  | 16 => some (.ratom .maxu .s32 o)
  | 17 => some (.ratom .maxu .s64 o)
  | 20 => some (.ratom .band .s32 o)
  | 21 => some (.ratom .band .s64 o)
  | 24 => some (.ratom .bor .s32 o)
  | 25 => some (.ratom .bor .s64 o)
  | 28 => some (.ratom .bxor .s32 o)
  | 29 => some (.ratom .bxor .s64 o)
  | 32 => some (.ratom .exch .s32 o)
  | 33 => some (.ratom .exch .s64 o)
  | 36 => some (.ratom .cas .s32 o)
  | 37 => some (.ratom .cas .s64 o)
  | 38 => some (.ratom .cas .s128 o)
  | 40 => some (.ratom .fadd .s32 o)
  | 44 => some (.ratom .fmin .s32 o)
  | 48 => some (.ratom .fmax .s32 o)
  | 64 => some (.ratomRet .add .s32 o)
  | 65 => some (.ratomRet .add .s64 o)
  | 68 => some (.ratomRet .min .s32 o)
  | 69 => some (.ratomRet .min .s64 o)
  | 72 => some (.ratomRet .max .s32 o)
  | 73 => some (.ratomRet .max .s64 o)
  | 76 => some (.ratomRet .minu .s32 o)
  | 77 => some (.ratomRet .minu .s64 o)
  | 80 => some (.ratomRet .maxu .s32 o)
  | 81 => some (.ratomRet .maxu .s64 o)
  | 84 => some (.ratomRet .band .s32 o)
  | 85 => some (.ratomRet .band .s64 o)
  | 88 => some (.ratomRet .bor .s32 o)
  | 89 => some (.ratomRet .bor .s64 o)
  | 92 => some (.ratomRet .bxor .s32 o)
  | 93 => some (.ratomRet .bxor .s64 o)
  | 96 => some (.ratomRet .exch .s32 o)
  | 97 => some (.ratomRet .exch .s64 o)
  | 100 => some (.ratomRet .cas .s32 o)
  | 101 => some (.ratomRet .cas .s64 o)
  | 102 => some (.ratomRet .cas .s128 o)
  | 104 => some (.ratomRet .fadd .s32 o)
  | 108 => some (.ratomRet .fmin .s32 o)
  | 112 => some (.ratomRet .fmax .s32 o)
  | _ => none

noncomputable def e6F (sub : Nat) (o : EOps) : Option Instr :=
  match sub with
  | 0 => some (.tfence o)
  | _ => none

noncomputable def e70 (sub : Nat) (o : EOps) : Option Instr :=
  match sub with
  | 0 => some (.acrtNew o)
  | 1 => some (.acrtFree o)
  | _ => none

noncomputable def e71 (sub : Nat) (o : EOps) : Option Instr :=
  match sub with
  | 0 => some (.atake o)
  | _ => none

noncomputable def e72 (sub : Nat) (o : EOps) : Option Instr :=
  match sub with
  | 0 => some (.agive o)
  | _ => none

noncomputable def e73 (sub : Nat) (o : EOps) : Option Instr :=
  match sub with
  | 0 => some (.areadExact o)
  | 1 => some (.areadApprox o)
  | _ => none

noncomputable def e74 (sub : Nat) (o : EOps) : Option Instr :=
  match sub with
  | 0 => some (.sconf o)
  | _ => none

noncomputable def e75 (sub : Nat) (o : EOps) : Option Instr :=
  match sub with
  | 0 => some (.sstart o)
  | _ => none

noncomputable def e76 (sub : Nat) (o : EOps) : Option Instr :=
  match sub with
  | 0 => some (.sstatSamp o)
  | 1 => some (.sstatBatch o)
  | _ => none

noncomputable def e77 (sub : Nat) (o : EOps) : Option Instr :=
  match sub with
  | 0 => some (.sctlPause o)
  | 1 => some (.sctlResume o)
  | 2 => some (.sctlStop o)
  | 3 => some (.sctlFree o)
  | _ => none

noncomputable def e78 (sub : Nat) (o : EOps) : Option Instr :=
  match sub with
  | 0 => some (.coll o)
  | _ => none

noncomputable def e79 (sub : Nat) (o : EOps) : Option Instr :=
  match sub with
  | 0 => some (.collw o)
  | 1 => some (.collwTest o)
  | _ => none

noncomputable def e7A (sub : Nat) (o : EOps) : Option Instr :=
  match sub with
  | 0 => some (.carbSet o)
  | 1 => some (.carbGet o)
  | _ => none

noncomputable def e7B (sub : Nat) (o : EOps) : Option Instr :=
  match sub with
  | 0 => some (.launch o)
  | 1 => some (.launchGo o)
  | _ => none

noncomputable def e7C (sub : Nat) (o : EOps) : Option Instr :=
  match sub with
  | 0 => some (.lstatState o)
  | 1 => some (.lstatSelf o)
  | _ => none

noncomputable def e7D (sub : Nat) (o : EOps) : Option Instr :=
  match sub with
  | 0 => some (.tlbopMap o)
  | 1 => some (.tlbopInv o)
  | 2 => some (.tlbopInvAsid o)
  | 3 => some (.tlbopAll o)
  | 4 => some (.tlbopReplay o)
  | 5 => some (.tlbopReplayAll o)
  | 6 => some (.tlbopDeny o)
  | 7 => some (.tlbopFread o)
  | 8 => some (.tlbopFstat o)
  | 9 => some (.tlbopMove o)
  | 10 => some (.tlbopNewgen o)
  | _ => none

noncomputable def e7E (sub : Nat) (o : EOps) : Option Instr :=
  match sub with
  | 0 => some (.pclassQuery o)
  | 1 => some (.pclassSet o)
  | 2 => some (.pclassHint o)
  | 3 => some (.pclassLine o)
  | 4 => some (.pclassClear o)
  | _ => none

/-- The extended forms: OP, then SUB. `none`: a reserved OP; `some none`: a reserved SUB. -/
noncomputable def eInstr (op sub : Nat) (o : EOps) : Option (Option Instr) :=
  match op with
  | 0x01 => some (e01 sub o)
  | 0x02 => some (e02 sub o)
  | 0x03 => some (e03 sub o)
  | 0x04 => some (e04 sub o)
  | 0x05 => some (e05 sub o)
  | 0x06 => some (e06 sub o)
  | 0x07 => some (e07 sub o)
  | 0x08 => some (e08 sub o)
  | 0x09 => some (e09 sub o)
  | 0x0A => some (e0A sub o)
  | 0x0B => some (e0B sub o)
  | 0x0C => some (e0C sub o)
  | 0x0D => some (e0D sub o)
  | 0x0E => some (e0E sub o)
  | 0x0F => some (e0F sub o)
  | 0x10 => some (e10 sub o)
  | 0x11 => some (e11 sub o)
  | 0x12 => some (e12 sub o)
  | 0x13 => some (e13 sub o)
  | 0x14 => some (e14 sub o)
  | 0x15 => some (e15 sub o)
  | 0x16 => some (e16 sub o)
  | 0x17 => some (e17 sub o)
  | 0x18 => some (e18 sub o)
  | 0x19 => some (e19 sub o)
  | 0x1A => some (e1A sub o)
  | 0x20 => some (e20 sub o)
  | 0x21 => some (e21 sub o)
  | 0x22 => some (e22 sub o)
  | 0x23 => some (e23 sub o)
  | 0x24 => some (e24 sub o)
  | 0x25 => some (e25 sub o)
  | 0x26 => some (e26 sub o)
  | 0x27 => some (e27 sub o)
  | 0x28 => some (e28 sub o)
  | 0x29 => some (e29 sub o)
  | 0x2A => some (e2A sub o)
  | 0x2B => some (e2B sub o)
  | 0x2C => some (e2C sub o)
  | 0x2D => some (e2D sub o)
  | 0x2E => some (e2E sub o)
  | 0x30 => some (e30 sub o)
  | 0x31 => some (e31 sub o)
  | 0x32 => some (e32 sub o)
  | 0x33 => some (e33 sub o)
  | 0x34 => some (e34 sub o)
  | 0x35 => some (e35 sub o)
  | 0x36 => some (e36 sub o)
  | 0x37 => some (e37 sub o)
  | 0x38 => some (e38 sub o)
  | 0x39 => some (e39 sub o)
  | 0x3A => some (e3A sub o)
  | 0x40 => some (e40 sub o)
  | 0x41 => some (e41 sub o)
  | 0x42 => some (e42 sub o)
  | 0x43 => some (e43 sub o)
  | 0x44 => some (e44 sub o)
  | 0x45 => some (e45 sub o)
  | 0x46 => some (e46 sub o)
  | 0x47 => some (e47 sub o)
  | 0x48 => some (e48 sub o)
  | 0x49 => some (e49 sub o)
  | 0x4A => some (e4A sub o)
  | 0x4B => some (e4B sub o)
  | 0x4C => some (e4C sub o)
  | 0x50 => some (e50 sub o)
  | 0x51 => some (e51 sub o)
  | 0x52 => some (e52 sub o)
  | 0x53 => some (e53 sub o)
  | 0x54 => some (e54 sub o)
  | 0x55 => some (e55 sub o)
  | 0x56 => some (e56 sub o)
  | 0x57 => some (e57 sub o)
  | 0x58 => some (e58 sub o)
  | 0x59 => some (e59 sub o)
  | 0x5A => some (e5A sub o)
  | 0x60 => some (e60 sub o)
  | 0x61 => some (e61 sub o)
  | 0x62 => some (e62 sub o)
  | 0x63 => some (e63 sub o)
  | 0x64 => some (e64 sub o)
  | 0x65 => some (e65 sub o)
  | 0x66 => some (e66 sub o)
  | 0x67 => some (e67 sub o)
  | 0x68 => some (e68 sub o)
  | 0x69 => some (e69 sub o)
  | 0x6A => some (e6A sub o)
  | 0x6B => some (e6B sub o)
  | 0x6C => some (e6C sub o)
  | 0x6D => some (e6D sub o)
  | 0x6E => some (e6E sub o)
  | 0x6F => some (e6F sub o)
  | 0x70 => some (e70 sub o)
  | 0x71 => some (e71 sub o)
  | 0x72 => some (e72 sub o)
  | 0x73 => some (e73 sub o)
  | 0x74 => some (e74 sub o)
  | 0x75 => some (e75 sub o)
  | 0x76 => some (e76 sub o)
  | 0x77 => some (e77 sub o)
  | 0x78 => some (e78 sub o)
  | 0x79 => some (e79 sub o)
  | 0x7A => some (e7A sub o)
  | 0x7B => some (e7B sub o)
  | 0x7C => some (e7C sub o)
  | 0x7D => some (e7D sub o)
  | 0x7E => some (e7E sub o)
  | _ => none

/-- The base forms: OP, then M (R90). -/
noncomputable def b3Instr (op m : Nat) (o : B3Ops) : Option (Option Instr) :=
  match op with
  | 0x04 =>
    match m with
    | 0 => some (some (.retB3 o))
    | _ => some none
  | 0x05 =>
    match m with
    | 0 => some (some (.exitB3 o))
    | _ => some none
  | 0x0B =>
    match m with
    | 0 => some (some (.tretB3 o))
    | _ => some none
  | 0x0C =>
    match m with
    | 0 => some (some (.yieldB3 o))
    | _ => some none
  | 0x10 =>
    match m with
    | 0 => some (some (.uaddB3 o))
    | 1 => some (some (.uaddSubB3 o))
    | _ => some none
  | 0x11 =>
    match m with
    | 0 => some (some (.umulLoB3 o))
    | 1 => some (some (.umulHiB3 o))
    | 2 => some (some (.umulHiuB3 o))
    | _ => some none
  | 0x12 =>
    match m with
    | 0 => some (some (.ulogAndB3 o))
    | 1 => some (some (.ulogOrB3 o))
    | 2 => some (some (.ulogXorB3 o))
    | 3 => some (some (.ulogAndnB3 o))
    | _ => some none
  | 0x13 =>
    match m with
    | 0 => some (some (.ushfShlB3 o))
    | 1 => some (some (.ushfShrB3 o))
    | 2 => some (some (.ushfSarB3 o))
    | 3 => some (some (.ushfRotB3 o))
    | _ => some none
  | 0x15 =>
    match m with
    | 0 => some (some (.umovB3 o))
    | _ => some none
  | 0x20 =>
    match m with
    | 0 => some (some (.iaddB3 o))
    | 1 => some (some (.iaddSubB3 o))
    | 2 => some (some (.iaddSatB3 o))
    | 3 => some (some (.iaddSubSatB3 o))
    | _ => some none
  | 0x21 =>
    match m with
    | 0 => some (some (.imulLoB3 o))
    | 1 => some (some (.imulHiB3 o))
    | 2 => some (some (.imulHiuB3 o))
    | _ => some none
  | 0x23 =>
    match m with
    | 0 => some (some (.ilogAndB3 o))
    | 1 => some (some (.ilogOrB3 o))
    | 2 => some (some (.ilogXorB3 o))
    | 3 => some (some (.ilogAndnB3 o))
    | _ => some none
  | 0x24 =>
    match m with
    | 0 => some (some (.ishfShlB3 o))
    | 1 => some (some (.ishfShrB3 o))
    | 2 => some (some (.ishfSarB3 o))
    | 3 => some (some (.ishfRotB3 o))
    | _ => some none
  | 0x2B =>
    match m with
    | 0 => some (some (.movB3 o))
    | _ => some none
  | 0x30 =>
    match m with
    | 0 => some (some (.faddF32B3 o))
    | 1 => some (some (.faddSubF32B3 o))
    | 2 => some (some (.faddF16x2B3 o))
    | 3 => some (some (.faddSubF16x2B3 o))
    | _ => some none
  | 0x31 =>
    match m with
    | 0 => some (some (.fmulF32B3 o))
    | 1 => some (some (.fmulF16x2B3 o))
    | _ => some none
  | 0x32 =>
    match m with
    | 0 => some (some (.ffmaF32B3 o))
    | 1 => some (some (.ffmaF16x2B3 o))
    | _ => some none
  | 0x50 =>
    match m with
    | 0 => some (some (.ld32B3 o))
    | 1 => some (some (.ld64B3 o))
    | 2 => some (some (.ld128B3 o))
    | _ => some none
  | 0x51 =>
    match m with
    | 0 => some (some (.st32B3 o))
    | 1 => some (some (.st64B3 o))
    | 2 => some (some (.st128B3 o))
    | _ => some none
  | _ => none

/-- Whether a defined OP has this number (R114); 0x00 is CLAUSE. -/
noncomputable def definedOp (op : Nat) : Bool := op == 0 || (eInstr op 0 {}).isSome

/-- The instruction that a base form's fields name, before its fields are checked (R90, R91). -/
noncomputable def baseInstr (w : Word) (lit : Option (BitVec 64)) : Except DecErr Instr :=
  let cnd := w.extractLsb' 19 4
  let off := w.extractLsb' 0 19
  match fOp w, lit with
  | 0, none => .ok (.clause (headerOf w))
  | 0, some l => .ok (.clauseTmask (headerOf w) l)
  | 1, none => .ok (.braBj cnd off)
  | 1, some l => .ok (.braBjLiteral cnd off l)
  | 3, none => .ok (.callBj cnd off)
  | 3, some l => .ok (.callBjLiteral cnd off l)
  | op, lit =>
    match b3Instr op (w.extractLsb' 0 2).toNat (b3Of w lit) with
    | some (some i) => .ok i
    | some none => .error .reservedSub
    | none => if definedOp op then .error .noBaseForm else .error .reservedOp

/-- The instruction that an extended form's fields name, before its fields are checked (R92). -/
noncomputable def extInstr (w0 w1 w2 : Word) (lit : Option (BitVec 64)) : Except DecErr Instr :=
  if fOp w0 = 0 then
    match lit with
    | none => .ok (.clauseExtended (headerOf w0) w1 w2)
    | some _ => .error .headerLen
  else
    match eInstr (fOp w0) (w1.extractLsb' 4 7).toNat (eOf w0 w1 w2 lit) with
    | some (some i) => .ok i
    | some none => .error .reservedSub
    | none => .error .reservedOp

/-- Refuses an instruction whose fields break a rule of R88 to R99. -/
def checkFields (i : Instr) : Except DecErr Instr :=
  if wellFormed i then .ok i else .error .badField

/-- The instruction of a list of words that begins with it, and the words after it (R85). -/
noncomputable def decodeWords (ws : List Word) : Except DecErr (Instr × List Word) :=
  match ws with
  | [] => .error .truncated
  | w :: t =>
    match fLen w, t with
    | 0, t => do let i ← baseInstr w none; let i ← checkFields i; .ok (i, t)
    | 1, lo :: hi :: t => do let i ← baseInstr w (some (litOf lo hi)); let i ← checkFields i; .ok (i, t)
    | 2, w1 :: w2 :: t => do let i ← extInstr w w1 w2 none; let i ← checkFields i; .ok (i, t)
    | 3, w1 :: w2 :: lo :: hi :: t => do
      let i ← extInstr w w1 w2 (some (litOf lo hi)); let i ← checkFields i; .ok (i, t)
    | _, _ => .error .truncated

/-- Four bytes as a little-endian word (R5, R85). -/
def wordOf (b0 b1 b2 b3 : Byte) : Word := b3 ++ b2 ++ b1 ++ b0

/-- The whole words of a list of bytes. -/
def wordsOf : List Byte → List Word
  | b0 :: b1 :: b2 :: b3 :: t => wordOf b0 b1 b2 b3 :: wordsOf t
  | _ => []

/-- The instruction at the start of some bytes and the bytes after it; total, with every refusal named. -/
noncomputable def decode (bs : List Byte) : Except DecErr (Instr × List Byte) :=
  match decodeWords (wordsOf bs) with
  | .ok (i, ws) => .ok (i, bs.drop (4 * ((wordsOf bs).length - ws.length)))
  | .error e => .error e

/-- The words of an instruction, from the same tables (R85, R88 to R92); an event has none. -/
def encode (i : Instr) : List Word := Machine.formWords (Machine.form i)

/-- A word as its four bytes, little-endian (R85). -/
def bytesOfWord (w : Word) : List Byte :=
  [w.extractLsb' 0 8, w.extractLsb' 8 8, w.extractLsb' 16 8, w.extractLsb' 24 8]

/-- The `n` words of a number, the first in its low bits. -/
def wordsOfNat : Nat → Nat → List Word
  | 0, _ => []
  | n + 1, w => BitVec.ofNat 32 w :: wordsOfNat n (w / 2 ^ 32)

/-- The words of an instruction given as a number of `nbits` bits; every bit above is 0, up to the longest instruction. -/
def tableWords (nbits w : Nat) : List Word :=
  let v := w % 2 ^ nbits
  wordsOfNat (Machine.lenWords (fLen (BitVec.ofNat 32 v))) v

/-- The instruction that the decoder reads from an instruction whose bits are `w`, numbered from the first word up. -/
noncomputable def decodeTableWord (nbits w : Nat) : Option Instr :=
  match decode ((tableWords nbits w).flatMap bytesOfWord) with
  | .ok (i, _) => some i
  | .error _ => none

end Sys2Proof
end

