-- ==== Sys2Proof/Machine/Num.lean ====
section
/-!
DEFINITION. Exact numbers and their one rounding: the reals of the pseudocode (dyadic, with infinities, signed zeros
and NaNs), RoundTo and Sat of R9, division and square root carried far enough to be rounded once.
-/

namespace Sys2Proof.Machine

/-- The rounding modes, in the order of their codes (R94, R265). -/
inductive RMode where
  | rne | rtz | rup | rdn | rna
  deriving DecidableEq, Repr

/-- The mode of a code 0 to 4; a reserved code reads as RNE (decoding refuses it, R94; %prec corrects it, R265). -/
def RMode.ofCode (n : Nat) : RMode :=
  match n with
  | 1 => .rtz
  | 2 => .rup
  | 3 => .rdn
  | 4 => .rna
  | _ => .rne

/-- An exact value: `fin s m e` is (−1)^s × m × 2^e with m > 0. -/
inductive XReal where
  | nan (signalling : Bool)
  | inf (neg : Bool)
  | zero (neg : Bool)
  | fin (neg : Bool) (m : Nat) (e : Int)
  deriving DecidableEq, Repr

/-- 2^k for an integer k ≥ 0; 1 below. -/
def pow2 (k : Int) : Nat := 2 ^ k.toNat

/-- floor(log2 m × 2^e). -/
def flog2 (m : Nat) (e : Int) : Int := (m.log2 : Int) + e

namespace XReal

def isNan : XReal → Bool
  | .nan _ => true
  | _ => false

def isSnan : XReal → Bool
  | .nan s => s
  | _ => false

def isInf : XReal → Bool
  | .inf _ => true
  | _ => false

def isZero : XReal → Bool
  | .zero _ => true
  | _ => false

def isFin : XReal → Bool
  | .zero _ => true
  | .fin _ _ _ => true
  | _ => false

/-- The sign; a NaN counts as positive. -/
def neg? : XReal → Bool
  | .nan _ => false
  | .inf s => s
  | .zero s => s
  | .fin s _ _ => s

def negate : XReal → XReal
  | .nan s => .nan s
  | .inf s => .inf (!s)
  | .zero s => .zero (!s)
  | .fin s m e => .fin (!s) m e

def abs : XReal → XReal
  | .nan s => .nan s
  | .inf _ => .inf false
  | .zero _ => .zero false
  | .fin _ m e => .fin false m e

/-- The value n × 2^e of an integer n; zero takes the sign given. -/
def ofInt (n : Int) (e : Int) (zeroNeg : Bool) : XReal :=
  if n = 0 then .zero zeroNeg else .fin (decide (n < 0)) n.natAbs e

/-- The signed numerator over 2^e, for an e at or below the value's own exponent. -/
def scaled (x : XReal) (e : Int) : Int :=
  match x with
  | .fin s m e' => (if s then -1 else 1) * ((m * pow2 (e' - e) : Nat) : Int)
  | _ => 0

/-- The exponent of the last unit. -/
def unit : XReal → Int
  | .fin _ _ e => e
  | _ => 0

/-- The exact sum; an exact zero from opposite signs is +0, or −0 in RDN (R9, R247). -/
def add (mode : RMode) (x y : XReal) : XReal :=
  match x, y with
  | .nan a, .nan b => .nan (a || b)
  | .nan a, _ => .nan a
  | _, .nan b => .nan b
  | .inf a, .inf b => if a = b then .inf a else .nan false
  | .inf a, _ => .inf a
  | _, .inf b => .inf b
  | .zero a, .zero b => .zero (if a = b then a else decide (mode = .rdn))
  | .zero _, y => y
  | x, .zero _ => x
  | .fin a m e, .fin b n f =>
    let u := min e f
    ofInt ((XReal.fin a m e).scaled u + (XReal.fin b n f).scaled u) u (decide (mode = .rdn))

/-- The exact product. -/
def mul (x y : XReal) : XReal :=
  match x, y with
  | .nan a, .nan b => .nan (a || b)
  | .nan a, _ => .nan a
  | _, .nan b => .nan b
  | .inf _, .zero _ => .nan false
  | .zero _, .inf _ => .nan false
  | .inf a, y => .inf (a != y.neg?)
  | x, .inf b => .inf (x.neg? != b)
  | .zero a, y => .zero (a != y.neg?)
  | x, .zero b => .zero (x.neg? != b)
  | .fin a m e, .fin b n f => .fin (a != b) (m * n) (e + f)

/-- 0 × ∞, the invalid product of R248. -/
def mulInvalid (x y : XReal) : Bool := (x.isZero && y.isInf) || (x.isInf && y.isZero)

/-- ∞ − ∞ in a sum, the invalid sum of R248. -/
def addInvalid (x y : XReal) : Bool := x.isInf && y.isInf && (x.neg? != y.neg?)

/-- The exact value times 2^k. -/
def scale2 (x : XReal) (k : Int) : XReal :=
  match x with
  | .fin s m e => .fin s m (e + k)
  | x => x

/-- Three-way exact comparison of numbers (NaN excluded by the caller): −0 equals +0. -/
def cmp (x y : XReal) : Ordering :=
  match x, y with
  | .inf a, .inf b => if a = b then .eq else if a then .lt else .gt
  | .inf a, _ => if a then .lt else .gt
  | _, .inf b => if b then .gt else .lt
  | x, y =>
    let u := min x.unit y.unit
    compare (x.scaled u) (y.scaled u)

def lt (x y : XReal) : Bool := !x.isNan && !y.isNan && (cmp x y == .lt)
def eq (x y : XReal) : Bool := !x.isNan && !y.isNan && (cmp x y == .eq)
def le (x y : XReal) : Bool := !x.isNan && !y.isNan && (cmp x y != .gt)

end XReal

/-- m / 2^k rounded to an integer, with whether anything was cut off (R9). -/
def roundShift (neg : Bool) (m k : Nat) (mode : RMode) : Nat × Bool :=
  let q := m >>> k
  let r := m % 2 ^ k
  if r = 0 then (q, false)
  else
    let half := 2 ^ (k - 1)
    let up :=
      match mode with
      | .rne => decide (r > half) || (decide (r = half) && decide (q % 2 = 1))
      | .rtz => false
      | .rup => !neg
      | .rdn => neg
      | .rna => decide (r ≥ half)
    (if up then q + 1 else q, true)

/-- x rounded in `mode` to a multiple of 2^u. -/
def roundUnit (x : XReal) (u : Int) (mode : RMode) : XReal :=
  match x with
  | .fin s m e =>
    if u ≤ e then .fin s m e
    else
      let q := (roundShift s m (u - e).toNat mode).1
      if q = 0 then .zero s else .fin s q u
  | x => x

/-- RoundTo of R9: one leading 1 and `len` fraction bits, unbounded exponent. -/
def roundTo (x : XReal) (len : Nat) (mode : RMode) : XReal :=
  match x with
  | .fin s m e => roundUnit (.fin s m e) (flog2 m e - len) mode
  | x => x

/-- Rounded to an integer (FRND, conversions). -/
def roundInt (x : XReal) (mode : RMode) : XReal := roundUnit x 0 mode

/-- The integer value of a number whose unit is at or above 1 (after roundInt). -/
def XReal.toInt (x : XReal) : Int := x.scaled 0

/-- The signed clamp of R9 to w bits. -/
def sat (x : Int) (w : Nat) : Int := max (-(2 ^ (w - 1) : Int)) (min (2 ^ (w - 1) - 1) x)

/-- The unsigned clamp of R9 to w bits. -/
def satU (x : Int) (w : Nat) : Int := max 0 (min (2 ^ w - 1) x)

/-- The integer square root, found a bit at a time from bit `k` down. -/
def isqrtFrom (n : Nat) : Nat → Nat → Nat
  | 0, r => r
  | k + 1, r =>
    let t := r + 2 ^ k
    isqrtFrom n k (if t * t ≤ n then t else r)

def isqrt (n : Nat) : Nat := isqrtFrom n (n.log2 / 2 + 1) 0

/-- A quotient of numbers with `len + 3` bits and a last bit that says whether more follows: rounding it once to at
most `len` fraction bits rounds the exact quotient (R280, R264). -/
def divX (x y : XReal) (len : Nat) : XReal :=
  match x, y with
  | .nan a, .nan b => .nan (a || b)
  | .nan a, _ => .nan a
  | _, .nan b => .nan b
  | .inf _, .inf _ => .nan false
  | .zero _, .zero _ => .nan false
  | .inf a, y => .inf (a != y.neg?)
  | x, .inf b => .zero (x.neg? != b)
  | .zero a, y => .zero (a != y.neg?)
  | x, .zero b => .inf (x.neg? != b)
  | .fin a m e, .fin b n f =>
    let k := len + 4 + n.log2
    let num := m * 2 ^ k
    let q := num / n
    .fin (a != b) (2 * q + (if num % n = 0 then 0 else 1)) (e - f - k - 1)

/-- A square root carried in the same way. -/
def sqrtX (x : XReal) (len : Nat) : XReal :=
  match x with
  | .fin false m e =>
    let k : Nat := 2 * (len + 4)
    let e' := e - k
    let odd := e' % 2 ≠ 0
    let n := if odd then m * 2 ^ (k + 1) else m * 2 ^ k
    let e'' := if odd then e' - 1 else e'
    let r := isqrt n
    .fin false (2 * r + (if r * r = n then 0 else 1)) (e'' / 2 - 1)
  | .fin true _ _ => .nan false
  | .inf true => .nan false
  | x => x

end Sys2Proof.Machine
end

