-- ==== Sys2Proof/Machine/Float.lean ====
section
/-!
DEFINITION. The number formats of 05_number_formats.md: binary32, binary16, bfloat16, binary64, the tapered family,
the accumulator pair; RoundF of R247, TwoSum of R9, BlockPair of R329, Collapse of R140, minimum and maximum of R257.
-/

namespace Sys2Proof.Machine

/-- An IEEE-style format (R129): exponent bits and fraction bits. -/
structure FFmt where
  eb : Nat
  fb : Nat
  deriving DecidableEq, Repr

def fp32 : FFmt := ⟨8, 23⟩
def fp16 : FFmt := ⟨5, 10⟩
def bf16 : FFmt := ⟨8, 7⟩
def fp64 : FFmt := ⟨11, 52⟩

namespace FFmt

def bias (f : FFmt) : Nat := 2 ^ (f.eb - 1) - 1
def emax (f : FFmt) : Int := f.bias
/-- The exponent of the smallest normal: −126, −14, −126, −1022 (R247, R282). -/
def emin (f : FFmt) : Int := 1 - (f.bias : Int)
def width (f : FFmt) : Nat := 1 + f.eb + f.fb
/-- The canonical NaN, sign 0 (R129, R131). -/
def cnan (f : FFmt) : Nat := (2 ^ f.eb - 1) * 2 ^ f.fb + 2 ^ (f.fb - 1)
def infBits (f : FFmt) (neg : Bool) : Nat := (if neg then 2 ^ (f.width - 1) else 0) + (2 ^ f.eb - 1) * 2 ^ f.fb
def zeroBits (f : FFmt) (neg : Bool) : Nat := if neg then 2 ^ (f.width - 1) else 0

/-- The largest finite value of a sign. -/
def maxFin (f : FFmt) (neg : Bool) : XReal := .fin neg (2 ^ (f.fb + 1) - 1) (f.emax - f.fb)

/-- The exact value of a pattern; its bits above the width are ignored (R130). -/
def decode (f : FFmt) (bits : Nat) : XReal :=
  let neg := bits.testBit (f.width - 1)
  let ex := bits / 2 ^ f.fb % 2 ^ f.eb
  let fr := bits % 2 ^ f.fb
  if ex = 2 ^ f.eb - 1 then
    if fr = 0 then .inf neg else .nan (!fr.testBit (f.fb - 1))
  else if ex = 0 then
    if fr = 0 then .zero neg else .fin neg fr (f.emin - f.fb)
  else .fin neg (2 ^ f.fb + fr) ((ex : Int) - f.bias - f.fb)

/-- The pattern of a value that the format holds exactly (a NaN gives the canonical NaN). -/
def encode (f : FFmt) (x : XReal) : Nat :=
  match x with
  | .nan _ => f.cnan
  | .inf s => f.infBits s
  | .zero s => f.zeroBits s
  | .fin s m e =>
    let l := flog2 m e
    let sb := f.zeroBits s
    if l < f.emin then sb + ((XReal.fin false m e).scaled (f.emin - f.fb)).toNat
    else
      let u := l - f.fb
      let sig := if u ≤ e then m * pow2 (e - u) else m >>> (u - e).toNat
      sb + (l + f.bias).toNat * 2 ^ f.fb + sig % 2 ^ f.fb

end FFmt

/-- The five conditions, in the bit order of %err[12:8] from NV up (R226, R227). -/
structure Conds where
  nv : Bool := false
  dz : Bool := false
  oflow : Bool := false
  uf : Bool := false
  nx : Bool := false
  deriving DecidableEq, Repr

namespace Conds

def none : Conds := {}
def or (a b : Conds) : Conds :=
  ⟨a.nv || b.nv, a.dz || b.dz, a.oflow || b.oflow, a.uf || b.uf, a.nx || b.nx⟩
/-- Bit 0 NV, 1 DZ, 2 OF, 3 UF, 4 NX (R249). -/
def bits (c : Conds) : BitVec 5 :=
  BitVec.ofNat 5 (c.nv.toNat + 2 * c.dz.toNat + 4 * c.oflow.toNat + 8 * c.uf.toNat + 16 * c.nx.toNat)
def any (c : Conds) : Bool := c.nv || c.dz || c.oflow || c.uf || c.nx

end Conds

/-- RoundF of R247: the value rounded once into a format, with its conditions. -/
def roundF (x : XReal) (f : FFmt) (mode : RMode) : XReal × Conds :=
  match x with
  | .fin s m e =>
    let u := roundTo x f.fb mode
    let lu := match u with
      | .fin _ m' e' => flog2 m' e'
      | _ => 0
    let y := if flog2 m e < f.emin then roundUnit x (f.emin - f.fb) mode else u
    let big := decide (lu > f.emax)
    let y :=
      if big then
        match mode with
        | .rne | .rna => XReal.inf s
        | .rtz => f.maxFin s
        | .rup => if s then f.maxFin true else .inf false
        | .rdn => if s then .inf true else f.maxFin false
      else y
    let nx := !(XReal.eq y x)
    (y, { oflow := big, nx := nx, uf := nx && decide (lu < f.emin) })
  | .nan _ => (.nan false, {})
  | x => (x, {})

/-- RoundF to the format's pattern. -/
def roundFBits (x : XReal) (f : FFmt) (mode : RMode) : Nat × Conds :=
  let r := roundF x f mode
  (f.encode r.1, r.2)

/-- The value rounded to binary32, to nearest even. -/
def rne32 (x : XReal) : XReal := (roundF x fp32 .rne).1

/-- The pattern of RoundF(x, FP32, RNE). -/
def bits32 (x : XReal) : Word := BitVec.ofNat 32 (fp32.encode (rne32 x))

/-- The exact value of a binary32 pattern. -/
def val32 (w : Word) : XReal := fp32.decode w.toNat

/-- An accumulator element (R138, R141): the sum word s and the compensation word c, or an INT32 value in s. -/
structure Pair where
  s : Word := 0
  c : Word := 0
  deriving DecidableEq, Repr

namespace Pair

def zero : Pair := ⟨0, 0⟩
def nan : Pair := ⟨0x7FC00000#32, 0⟩
/-- The exact value s + c of a pair; an infinite or NaN s stands alone (R138, R139). -/
def value (p : Pair) : XReal :=
  match val32 p.s with
  | .nan _ => .nan false
  | .inf b => .inf b
  | x => x.add .rne (val32 p.c)

end Pair

/-- TwoSum of R9 on a pair, with the special values of R139; a compensation that rounds to an infinity takes the
pair to that infinity (R138). -/
def twoSum (q : Pair) (p : XReal) : Pair :=
  let s := val32 q.s
  let s1 := rne32 (s.add .rne p)
  match s1 with
  | .nan _ => .nan
  | .inf b => ⟨BitVec.ofNat 32 (fp32.infBits b), 0⟩
  | s1 =>
    let e := (s.add .rne p).add .rne s1.negate
    let c1 := rne32 ((val32 q.c).add .rne e)
    match c1 with
    | .inf b => ⟨BitVec.ofNat 32 (fp32.infBits b), 0⟩
    | .nan _ => .nan
    | c1 => ⟨BitVec.ofNat 32 (fp32.encode s1), BitVec.ofNat 32 (fp32.encode c1)⟩

/-- PairAdd of R407. -/
def pairAdd (x y : Pair) : Pair := twoSum (twoSum x (val32 y.s)) (val32 y.c)

/-- BlockPair of R329. -/
def blockPair (x : XReal) : Pair :=
  match x with
  | .nan _ => .nan
  | .inf b => ⟨BitVec.ofNat 32 (fp32.infBits b), 0⟩
  | x =>
    match rne32 x with
    | .inf b => ⟨BitVec.ofNat 32 (fp32.infBits b), 0⟩
    | s => ⟨BitVec.ofNat 32 (fp32.encode s), bits32 (x.add .rne s.negate)⟩

/-- Collapsing of R140: one rounding of s + c; an exact zero is +0 unless both words are −0. -/
def collapse (p : Pair) : Word :=
  match val32 p.s with
  | .nan _ => p.s
  | .inf _ => p.s
  | s =>
    match s.add .rne (val32 p.c) with
    | .zero _ => if p.s = 0x80000000#32 && p.c = 0x80000000#32 then 0x80000000#32 else 0
    | x => bits32 x

/-- minimumNumber and maximumNumber on patterns of a format (R257): the bits of an operand, −0 below +0; NV for a
signalling NaN. -/
def fMinMax (f : FFmt) (isMax : Bool) (a b : Nat) : Nat × Conds :=
  let a := a % 2 ^ f.width
  let b := b % 2 ^ f.width
  let x := f.decode a
  let y := f.decode b
  let nv : Conds := { nv := x.isSnan || y.isSnan }
  if x.isNan && y.isNan then (f.cnan, nv)
  else if x.isNan then (b, nv)
  else if y.isNan then (a, nv)
  else
    let aFirst :=
      match XReal.cmp x y with
      | .lt => true
      | .gt => false
      | .eq => x.neg?
    (if aFirst != isMax then a else b, nv)

/-- Truth value and NV of a comparison (R258). -/
def fCompare (cc : FCmp) (x y : XReal) : Bool × Bool :=
  let un := x.isNan || y.isNan
  let sn := x.isSnan || y.isSnan
  match cc with
  | .eq => (XReal.eq x y, sn)
  | .ne => (!(XReal.eq x y), sn)
  | .lt => (XReal.lt x y, un)
  | .le => (XReal.le x y, un)
  | .gt => (XReal.lt y x, un)
  | .ge => (XReal.le y x, un)
  | .un => (un, sn)
  | .ord => (!un, sn)

/-- The class mask of R262: 0 −∞, 1 −normal, 2 −subnormal, 3 −0, 4 +0, 5 +subnormal, 6 +normal, 7 +∞, 8 sNaN, 9 qNaN. -/
def fClass (f : FFmt) (bits : Nat) : Nat :=
  match f.decode bits with
  | .nan true => 2 ^ 8
  | .nan false => 2 ^ 9
  | .inf s => if s then 2 ^ 0 else 2 ^ 7
  | .zero s => if s then 2 ^ 3 else 2 ^ 4
  | .fin s m e =>
    if flog2 m e < f.emin then (if s then 2 ^ 2 else 2 ^ 5) else (if s then 2 ^ 1 else 2 ^ 6)

/-- A number format for conversions to an integer (R263, R282): the rounded value clamped to [lo, hi], NaN gives 0.
DESIGN CHOICE: beyond the range NV is set and NX is not (log 104). -/
def toIntClamp (x : XReal) (mode : RMode) (lo hi : Int) : Int × Conds :=
  match x with
  | .nan _ => (0, { nv := true })
  | .inf s => (if s then lo else hi, { nv := true })
  | x =>
    let r := roundInt x mode
    let i := r.toInt
    if i < lo then (lo, { nv := true })
    else if i > hi then (hi, { nv := true })
    else (i, { nx := !(XReal.eq r x) })

/-! ### The tapered family (R132 to R135) -/

/-- The length of the run of bits equal to `b` at the top of a body of `n` bits. -/
def runLen (p : Nat) (b : Bool) : Nat → Nat
  | 0 => 0
  | n + 1 => if p.testBit n = b then runLen p b n + 1 else 0

/-- TaperedDecode of R133: n bits with es exponent bits. -/
def taperedDecode (p0 n es : Nat) : XReal :=
  let p := p0 % 2 ^ n
  if p = 0 then .zero false
  else if p = 2 ^ (n - 1) then .nan false
  else
    let s := p.testBit (n - 1)
    let b := (if s then 2 ^ n - p else p) % 2 ^ (n - 1)
    let top := b.testBit (n - 2)
    let m := runLen b top (n - 1)
    let k : Int := if top then (m : Int) - 1 else -(m : Int)
    let left := n - 1 - m - 1
    let nex := min es left
    let ex := (b % 2 ^ left) / 2 ^ (left - nex) * 2 ^ (es - nex)
    let fbits := left - nex
    let fr := b % 2 ^ fbits
    .fin s (2 ^ fbits + fr) (k * 2 ^ es + ex - fbits)

/-- TaperedEncode of R135. -/
def taperedEncode (x : XReal) (n es : Nat) : Nat :=
  match x with
  | .nan _ => 2 ^ (n - 1)
  | .inf _ => 2 ^ (n - 1)
  | .zero _ => 0
  | .fin s m e =>
    let sc := flog2 m e
    let lim : Int := (n - 2) * 2 ^ es
    let body :=
      if sc ≥ lim then 2 ^ (n - 1) - 1
      else if sc < -lim ∨ XReal.le (.fin false m e) (.fin false 1 (-lim)) then 1
      else
        let k := sc / 2 ^ es
        let ex := (sc - k * 2 ^ es).toNat
        let fb := m.log2
        let rb := if k ≥ 0 then (2 ^ (k.toNat + 1) - 1) * 2 else 1
        let rl := if k ≥ 0 then k.toNat + 2 else (-k).toNat + 1
        let str := (rb * 2 ^ es + ex) * 2 ^ fb + m % 2 ^ fb
        let len := rl + es + fb
        if len ≤ n - 1 then str * 2 ^ (n - 1 - len)
        else (roundShift false str (len - (n - 1)) .rne).1
    if s then (2 ^ n - body) % 2 ^ n else body

/-- The tapered formats by format code 4 to 9 (R137): width and exponent bits. -/
def taperedOf (code : Nat) : Nat × Nat :=
  match code with
  | 4 => (6, 0)
  | 5 => (6, 1)
  | 6 => (8, 0)
  | 7 => (8, 1)
  | 8 => (8, 2)
  | _ => (16, 1)

end Sys2Proof.Machine
end

