-- ==== Sys2Proof/Machine/State.lean ====
section
/-!
DEFINITION. The state of the machine as plain data: lane groups, cores, clusters, lattice dies, packages and memory, with
every register, queue and status bit the spec names; `State.reset`; the reasons a step can stop.
-/

namespace Sys2Proof.Machine

/-! ### A launch and its record -/

/-- A level descriptor of a launch record, levels 2 to 7 (R60, R80). Extents are stored minus 1. -/
structure Level where
  ex : Nat := 0
  ey : Nat := 0
  ez : Nat := 0
  dom : Nat := 0
  scope : Nat := 0
  deriving DecidableEq, Repr

/-- The fields of a launch record (R80). -/
structure Record where
  entry : Dword := 0
  args : Dword := 0
  done : Dword := 0
  parent : Word := 0
  check : Bool := false
  gang : Bool := false
  prot : Bool := false
  world : Bool := false
  pri : Nat := 0
  nlvl : Nat := 2
  nu : Nat := 2
  n32 : Nat := 1
  prec0 : Nat := 24
  vpc : Nat := 0
  vpn : Nat := 0
  scr : Nat := 0
  priv : Nat := 0
  memch : Nat := 0
  chan : Nat := 0
  neigh : Nat := 0
  macros : Nat := 0
  nh : Nat := 0
  nw : Nat := 0
  levels : List Level := []
  deriving DecidableEq, Repr

/-- Whose launch it is: its handle, the context and queue it descends from, and what its requests carry (R53, R101, R449,
R450, R479). -/
structure LaunchId where
  handle : Word := 0
  pkg : Nat := 0
  ctx : Nat := 0
  queue : Nat := 0
  qgen : Nat := 0
  asid : Nat := 0
  gen : Nat := 0
  world : Bool := false
  privileged : Bool := false
  deriving DecidableEq, Repr

/-- The queue that a launch descends from, as its requests name it: 1 + (package × 4096 + context) × 64 + queue (R186, R462). -/
def LaunchId.root (i : LaunchId) : Nat := 1 + (i.pkg * 4096 + i.ctx) * 64 + i.queue

/-- The same launch: the handle, in its context. -/
def LaunchId.same (a b : LaunchId) : Bool := a.handle == b.handle && a.pkg == b.pkg && a.ctx == b.ctx

/-! ### Traps, clauses and the operand window -/

/-- A cause with what the trap registers take from it (R116, R117), and the issue number of the instruction whose completion
carried it (R523). -/
structure Trap where
  cause : Nat
  sub : Nat := 0
  addr : Dword := 0
  lanes : Half := 0
  seq : Nat := 0
  deriving DecidableEq, Repr

/-- One instruction of a fetched clause: its address, its words, and whether its OP and SUB are long-latency (R87, R115). -/
structure Item where
  addr : Dword
  words : List Word
  ll : Bool := false
  deriving DecidableEq, Repr

/-- A clause context (08, state table): the header's address and fields, the clause as fetched, the index of the next
instruction and the address after the clause. -/
structure Clause where
  head : Dword
  seta : Nat
  setb : Nat
  tmask : Nat
  body : List Item
  idx : Nat
  after : Dword
  deriving DecidableEq, Repr

/-- What the operand window holds of one issued short-latency instruction (R109, R110): the registers it wrote, by bank
key, and whether its result is transient. -/
structure WinEntry where
  outs : List (Nat × Word)
  transient : Bool
  deriving DecidableEq, Repr

/-- A register that an instruction names (R97). -/
inductive RegId where
  | v (n : Nat)
  | s (n : Nat)
  | w (n : Nat)
  | q (n : Nat)
  | k (n : Nat)
  deriving DecidableEq, Repr

/-- The trap state of a group (R112, R218 to R228). -/
structure TrapRegs where
  h : Bool := false
  saved : Option Clause := none
  /-- the four pending-trap registers, by class -/
  pending : Tab Trap := []
  tpc : Dword := 0
  tcause : Word := 0
  taddr : Dword := 0
  tmask : Half := 0
  tba : Dword := 0
  trapen : Word := 0
  err : Word := 0
  deriving DecidableEq, Repr

/-- The region state of a group (R519, R520): OPEN, RB, the entry PC, the saved %em and k1-k7, and the number of the issue
after which the region opened. -/
structure Region where
  opened : Bool := false
  rb : Nat := 0
  entry : Dword := 0
  em : Half := 0
  k : Byte := 0
  since : Nat := 0
  /-- a rollback waits for the group's long-latency instructions (R523) -/
  due : Bool := false
  deriving DecidableEq, Repr

/-! ### Memory operations in flight -/

/-- One lane's access of a memory operation: address, the operands b and c, and the address that a translation fault was reported at. -/
structure LaneAcc where
  lane : Nat
  va : Dword
  b : BitVec 128 := 0
  c : BitVec 128 := 0
  fva : Dword := 0
  deriving DecidableEq, Repr

/-- What a memory operation does at its execution point. -/
inductive MemAct where
  /-- a load of `n` bytes, sign-extended from its size or not, into lane registers -/
  | load (n : Nat) (signed : Bool)
  /-- the same once for the group, into uniform registers -/
  | uload (n : Nat) (signed : Bool)
  /-- a load that sets the lane's reservation (R305) -/
  | loadLocked (n : Nat)
  /-- a conditional store (R305) -/
  | storeCond (n : Nat)
  /-- an atomic returning the old value (R303) -/
  | atomic (op : AtomOp) (n : Nat)
  /-- a load of VP elements (R285) -/
  | vpLoad
  deriving DecidableEq, Repr

/-- A load-like memory operation: its action, destination register, accesses and cache hint. -/
structure MemOp where
  act : MemAct
  dst : Nat
  accs : List LaneAcc
  hint : Nat := 0
  deriving DecidableEq, Repr

/-- A fence whose condition is not met (R163, R177): an acquire, a release or a full fence, or a TFENCE. -/
inductive FenceKind where
  | acq
  | rel
  | full
  | tfence
  deriving DecidableEq, Repr

/-- What a pending long-latency instruction still waits for. -/
inductive PendWait where
  /-- nothing: its completion event may come (R104) -/
  | ready
  /-- a replay or denial of its translation fault, reported by the die (R321) -/
  | fault (die : Nat)
  /-- the tile engine, by the accepted instruction's number (R336) -/
  | tile (n : Nat)
  /-- the allowance slot or home (R385, R387) -/
  | allowance
  /-- a collective of this handle (R435) -/
  | coll (handle : Word)
  /-- what a fence covers of the group's accesses issued up to a number: those of tile instructions (R337), at .dom RATOM requests
  (R182), for a TFENCE copies too (R177); with `t` the cache actions of R170 are made then -/
  | fence (kind : FenceKind) (dom t : Bool) (upTo : Nat)
  /-- acknowledgements of its own RATOM requests (R375) -/
  | ratom (left : Nat)
  /-- the solver engine: an SCONF of a batch of a die, its descriptor's address, and the address that is held (R418) -/
  | solver (die batch : Nat) (addr va : Dword)
  deriving DecidableEq, Repr

/-- A burrow lane (R317): where it stores, the bytes, whether it has been performed, and the die and address of its translation fault. -/
structure BurrowLane where
  lane : Nat
  va : Dword
  bytes : List Byte
  done : Bool := false
  die : Nat := 0
  fva : Dword := 0
  deriving DecidableEq, Repr

/-- A long-latency instruction that has issued and not completed (R103, R104): its flag (15: untracked), address and issue
number, the registers it will write, its results once they exist, and the conditions and cause its completion carries. -/
structure Pend where
  id : Nat
  flag : Nat := 15
  addr : Dword := 0
  seq : Nat := 0
  dests : List RegId := []
  lanes : Half := 0
  outs : List (Nat × Word) := []
  qouts : List (Nat × Half) := []
  /-- bits of %vpstat to set, by lane -/
  vpbits : List (Nat × Word) := []
  /-- floating conditions raised, by lane (FSPEC) -/
  fp : List (Nat × Nat) := []
  cause : Option (Nat × Trap) := none
  vp : Bool := false
  wait : PendWait := .ready
  /-- lanes denied so far, with their causes (R299, R320, R321) -/
  denied : List (Nat × LaneAcc) := []
  mop : Option MemOp := none
  /-- the addresses of the lanes whose returned data it carries (R525) -/
  vas : List (Nat × Dword) := []
  deriving DecidableEq, Repr

/-! ### Batches of copies (R357, R358) -/

structure Batch where
  num : Nat
  left : Nat := 0
  peer : Bool := false
  other : Bool := false
  sub : Nat := 0
  peerAddr : Dword := 0
  otherAddr : Dword := 0
  deriving DecidableEq, Repr

structure Batches where
  cur : Batch := { num := 0 }
  newest : Nat := 0
  recs : List Batch := []
  deriving DecidableEq, Repr

/-- A byte that a group stored while a copy or a tile instruction of it was under way (R173, R337): its place, what it held before,
and the storing instruction's number. -/
structure Wrote where
  place : Nat × Nat
  old : Byte
  seq : Nat
  deriving DecidableEq, Repr

/-- What landed bytes: a copy of a batch on a channel, or a tile instruction. -/
inductive Lander where
  | copy (batch chan : Nat)
  | tile (num : Nat)
  deriving DecidableEq, Repr

/-- Bytes that a copy not yet waited for, or an incomplete tile instruction, has landed (R173, R337, R356), from a place on. -/
structure Landed where
  place : Nat × Nat
  n : Nat
  by_ : Lander
  deriving DecidableEq, Repr

/-- A .comm reduction that has been accepted and not applied (R179): its lane's access, its operation and size, its cache hint and its
instruction's number. -/
structure CommRed where
  lane : Nat
  va : Dword
  op : AtomOp
  n : Nat
  val : Nat
  hint : Nat := 0
  seq : Nat := 0
  deriving DecidableEq, Repr

/-- A RATOM request to one line (R374, R375): its number, the operation, its lanes, the destination and the instruction that
waits for it, its batch, whether it has been performed, with the old values, and its place in the order of requests to the fabric
(R539); `held`: a translation fault holds it. -/
structure RatomReq where
  num : Nat
  seq : Nat
  op : AtomOp
  n : Nat
  accs : List LaneAcc
  batch : Nat
  dst : Nat := 0
  pend : Option Nat := none
  cluster : Nat := 0
  held : Bool := false
  done : Bool := false
  order : Nat := 0
  outs : List (Nat × Word) := []
  deriving DecidableEq, Repr

/-- Why a group does not issue (R215). -/
inductive Wait where
  | none
  /-- suspended: its next instruction is tried again after the next event -/
  | suspended
  /-- blocked in BAR.WAIT on an object, for a phase, with .swap or not (R315) -/
  | bar (obj : Dword) (phase : Nat) (swap : Bool)
  /-- blocked in CWAIT for the batches up to a number (R371) -/
  | cwait (n : Nat)
  /-- held until its faulting access is replayed or denied (R321) -/
  | held (die : Nat)
  deriving DecidableEq, Repr

/-- Whether a group runs, has been halted with a cause and a subcode (R221, R222), or has ended (R232). -/
inductive Run where
  | running
  | halted (code sub : Nat)
  | exited
  deriving DecidableEq, Repr

/-- A code word of the lane or uniform file that is not clean (R240, R241, R515): one bad symbol, an uncorrectable error, or the
poison syndrome that a merge or a save has left (R517). -/
inductive EccMark where
  | correctable
  | uncorrectable
  | poison
  deriving DecidableEq, Repr

/-- Register errors that writes have met and that CTNCNT does not show yet (R516, R517): corrected code words of the lane file and
of the uniform file, and uncorrectable ones. -/
structure Tally where
  lane : Nat := 0
  other : Nat := 0
  ue : Nat := 0
  deriving DecidableEq, Repr

/-- The lines of a group's next clause that have been fetched (R87, R213): the clause's address, and their words by line address. -/
structure Ahead where
  pc : Dword := 0
  lines : Tab (List Word) := []
  deriving DecidableEq, Repr

/-- A resident lane group. `regs` holds the lane-file slices and the uniform file by bank key; unlisted registers hold
their launch value. -/
structure Group where
  info : Record := {}
  id : LaunchId := {}
  cohort : Nat := 0
  cohortNum : Nat := 0
  num : Nat := 0
  coords : List Word := []
  core : Nat := 0
  /-- the group slot of the core, 0 to 255: quarter × 64 + its place there (R14, R64) -/
  slot : Nat := 0
  pc : Dword := 0
  em : Half := 0xFFFF
  regs : Tab Word := []
  q : Tab Half := []
  k : Byte := 0
  x : Tab Half := []
  flags : Tab Nat := []
  clause : Option Clause := none
  ahead : Ahead := {}
  window : List WinEntry := []
  pend : List Pend := []
  seq : Nat := 0
  trap : TrapRegs := {}
  prec : Tab Word := []
  vpstat : Tab Word := []
  region : Region := {}
  resv : Tab Nat := []
  batches : Batches := {}
  ratoms : List RatomReq := []
  /-- the group's stores since its copies and tile instructions under way (R173, R337) -/
  stores : List Wrote := []
  /-- what those copies and tile instructions have landed, newest first (R173, R337, R356) -/
  landed : List Landed := []
  /-- the group's .comm reductions that have not been applied (R179) -/
  comm : List CommRed := []
  /-- a covered write went to this lost package, which no fence has reported yet (R544) -/
  lostPkg : Option Nat := none
  /-- AGIVEs of the group that have not been applied (R390) -/
  gives : Nat := 0
  /-- the private block's address, and its lines that the command processor has still to clear (R43, R547) -/
  privBase : Dword := 0
  uncleared : List Nat := []
  ecc : Tab EccMark := []
  tally : Tally := {}
  wait : Wait := .none
  /-- granules of 64 KiB that a denial declared invalid for the held instruction, which is issued again (R321, R489) -/
  deny : List Nat := []
  run : Run := .running
  deriving DecidableEq, Repr

/-! ### Quarters and cores -/

/-- A kept instruction-cache line (R212): the leaf and physical line it was fetched through, the bytes of the leaf's page, and its
words. -/
structure ILine where
  leaf : Dword := 0
  span : Nat := 65536
  phys : Nat := 0
  words : List Word := []
  deriving DecidableEq, Repr

/-- A quarter's issue state (R212, R215, R216): AGE and yielding by slot, NEXT, the slot whose clause is running, and the
instruction cache by line address. -/
structure Quarter where
  age : Tab Nat := []
  yielding : Tab Bool := []
  next : Nat := 0
  running : Option Nat := none
  icache : Tab ILine := []
  deriving DecidableEq, Repr

/-- What a store-like instruction does at its execution point: plain bytes, a reduction, or a .comm reduction (R304, R317). -/
inductive StoreAct where
  | bytes
  | reduce (op : AtomOp) (n : Nat)
  | comm (op : AtomOp) (n : Nat)
  deriving DecidableEq, Repr

/-- A burrow entry: one store-like instruction of one group (R317), with its number. -/
structure BurrowEntry where
  grp : Nat
  act : StoreAct
  hint : Nat := 0
  seq : Nat := 0
  lanes : List BurrowLane
  deriving DecidableEq, Repr

/-! ### The tile engine (R322 to R350) -/

/-- The triangle register (R325, R345). -/
structure TriReg where
  en : Bool := false
  side : Bool := false
  d : Word := 0
  fill : Word := 0
  deriving DecidableEq, Repr

/-- An A row buffer (R323): recorded format and P, and the exact values, by row × 96 + K index; unlisted: zero. -/
structure TBuf where
  fmt : Nat := 2
  p : Nat := 0
  el : Tab XReal := []
  deriving DecidableEq, Repr

/-- A macro (R322): recorded format, and the element patterns, by K row × 128 + N column; unlisted: zero. -/
structure TMac where
  fmt : Nat := 2
  el : Tab Nat := []
  deriving DecidableEq, Repr

/-- What a VP row buffer is loaded with (R342): P and the rounding mode. -/
structure VpIn where
  p : Nat := 0
  mode : RMode := .rne
  deriving DecidableEq, Repr

/-- An accepted tile instruction with everything it took at issue (R336, R548). -/
inductive TileOp where
  | ldb (role fmt : Nat) (nmaj : Bool) (addr : Dword) (stride k n : Nat)
  | lda (buf fmt : Nat) (vp : VpIn) (addr : Dword) (stride rows k : Nat)
  | mma (first cnt buf dst : Nat) (block sat int : Bool) (tri : Option TriReg) (row0 col0 : Nat) (bfmt p : Nat) (mfmts : List Nat)
  | sca (dst src : Nat) (tri : Option TriReg) (row0 col0 : Nat) (rows cols : List Word)
  | zero (mask : Half)
  | rd (val int : Bool) (tile row g dst : Nat) (lanes : Half)
  | st (form tile : Nat) (addr : Dword) (stride : Nat)
  | mode
  | tri
  | gemm (desc : List Word) (sat int : Bool) (vp : VpIn)
  | save (addr : Dword) (tmask mmask : Half) (int : Bool) (tri : TriReg) (bfmt : List (Nat × Nat)) (mfmt : List Nat)
  | restore (addr : Dword) (tmask mmask : Half)
  deriving DecidableEq, Repr

/-- A tile instruction's place in the engine: number, group, its pending instruction, how far its accesses have come, whether a
translation fault holds it and at what address, whether the sequencer runs it, and the ranges that it stores to (R337). -/
structure TileJob where
  num : Nat
  grp : Nat
  pend : Nat
  op : TileOp
  pos : Nat := 0
  held : Bool := false
  va : Dword := 0
  running : Bool := false
  dest : List (Dword × Nat) := []
  deriving DecidableEq, Repr

/-- A core's tile engine. Recorded formats, mode and triangle register stand as the latest issued instruction leaves them
(R548); tiles are listed by tile × 2048 + row × 128 + column; unlisted: zero of the mode. -/
structure TileEng where
  int : Bool := false
  tri : TriReg := {}
  bufs : Tab TBuf := []
  macs : Tab TMac := []
  tiles : Tab Pair := []
  step : Nat := 0
  total : Nat := 0
  desc : List Word := []
  /-- RUN as TCTX.RESTORE loaded it (R349) -/
  run : Bool := false
  jobs : List TileJob := []
  next : Nat := 0
  deriving DecidableEq, Repr

/-! ### Copy channels (R351 to R372) -/

inductive CopyKind where
  | line
  | rect
  | gather
  | scatter
  deriving DecidableEq, Repr

/-- A sent piece (R360, R361, R365): on its way, refused (with the address that missed, at another package), or held on a fault. -/
inductive PieceSt where
  | go
  | refused (fva : Option Dword)
  | held (fva : Dword)
  deriving DecidableEq, Repr

/-- A piece that has been sent and has not landed (R353, R354): the offset before and after it in delivery order, its bytes; where they go
and come from, once that is known; the bytes still to be read; those read and not written, by offset; its place in the order of requests to
the fabric (R539); and whether it has been sent before (R486). -/
structure Piece where
  lo : Nat
  hi : Nat
  n : Nat
  ends : Option (Dword × Dword) := none
  unread : List Nat := []
  got : Tab Byte := []
  order : Nat := 0
  st : PieceSt := .go
  again : Bool := false
  deriving DecidableEq, Repr

/-- How far a copy has come (R354, R359, R364): PROG, the offset of the first piece not sent, the pieces in flight in delivery order, and
the first error other than PEER. -/
structure Flow where
  prog : Nat := 0
  sent : Nat := 0
  fly : List Piece := []
  err : Option (Nat × Dword) := none
  deriving DecidableEq, Repr

/-- A copy (R367 to R369): its group, batch and power, its ranges, its barrier object, and its pieces. For CPY: `n` bytes, one row;
for CPY2: `rows` rows of `n` bytes; for CPYG: `rows` elements of `n` bytes and the index list at `idx`. -/
structure CopyJob where
  grp : Nat
  seq : Nat := 0
  batch : Nat
  kind : CopyKind
  dst : Dword
  src : Dword
  n : Nat
  rows : Nat := 1
  sstr : Nat := 0
  dstr : Nat := 0
  idx : Dword := 0
  bar : Option Dword := none
  hint : Nat := 0
  id : LaunchId := {}
  flow : Flow := {}
  deriving DecidableEq, Repr

/-- The state of a channel (R365). -/
inductive ChanSt where
  | idle
  | grant
  | run
  | hold
  | stop
  deriving DecidableEq, Repr

/-- A copy channel: state, queue with the head first, WPTR, LCNT and REF (R355, R360). -/
structure Chan where
  st : ChanSt := .idle
  queue : List CopyJob := []
  wptr : Dword := 0
  lcnt : Dword := 0
  ref : Word := 0
  deriving DecidableEq, Repr


/-! ### The allowance engine (R377 to R399) -/

inductive AKind where
  | take
  | give
  | exact
  | approx
  | create (q m : Nat)
  | free
  deriving DecidableEq, Repr

/-- An allowance operation: its kind and n (the initial value of ACRT.NEW), the group and core, its pending instruction, and the
context it carries. -/
structure AOp where
  kind : AKind
  n : Nat := 0
  grp : Nat
  core : Nat
  pend : Nat := 0
  id : LaunchId := {}
  deriving DecidableEq, Repr

/-- A request at a home (R386): the operation, the cluster of the slot that sent it (none: a remote requester), and loc. -/
structure AReq where
  op : AOp
  cl : Option Nat := none
  loc : Nat := 0
  deriving DecidableEq, Repr

inductive SlotSt where
  | bound
  | held
  | wait
  deriving DecidableEq, Repr

/-- An allowance slot (R381, R385): state, allowance, the operation whose request is at the home with its loc, operations behind
it, and last use. -/
structure Slot where
  st : SlotSt := .bound
  a : Nat := 0
  loc : Nat := 0
  op : Option AOp := none
  queue : List AOp := []
  last : Nat := 0
  deriving DecidableEq, Repr

/-- A counter at its home (R377, R386, R387): the fields, where the object stands, the request queue, the recall answers that are
awaited, and whether the head's recall round has been run. -/
structure Counter where
  home : Nat := 0
  reserve : Nat := 0
  q : Nat := 0
  m : Nat := 0
  hold : BitVec 96 := 0
  broken : Bool := false
  loss : Bool := false
  live : Bool := true
  recalls : Nat := 0
  refused : Nat := 0
  phys : Nat := 0
  leaf : Dword := 0
  queue : List AReq := []
  awaited : Nat := 0
  round : Bool := false
  deriving DecidableEq, Repr

/-- What a message between a slot, or a core, and a home says (R385, R387). -/
inductive AWord where
  | grant (n loc g : Nat)
  | refusal (held : Bool)
  | reply (value : Nat)
  | recall
  | answer (x : Nat)
  | giveBack (x : Nat) (op : AOp)
  | giveUp (x : Nat) (op : AOp)
  deriving DecidableEq, Repr

/-- A message of the allowance engine: the counter's address, the cluster at the slot's end (none: a core), what it says. -/
structure AMsg where
  va : Nat
  cl : Option Nat
  word : AWord
  deriving DecidableEq, Repr


/-! ### The solver engine (R400 to R421) -/

inductive BatchSt where
  | free
  | conf
  | run
  | paused
  | ended
  deriving DecidableEq, Repr

/-- The action a batch takes next (R409); `start` is what SSTART does before the first. -/
inductive SolvAct where
  | idle
  | start
  | input
  | collect
  | decide
  | finish
  deriving DecidableEq, Repr

/-- A sample slot (R403, R412); `faulted`: its vectors have faulted in this attempt (R414). -/
structure Sample where
  t : Word := 0
  h : Word := 0
  tend : Word := 0
  err : Word := 0
  acc : Nat := 0
  rej : Nat := 0
  nrej : Nat := 0
  status : Nat := 1
  xaddr : Dword := 0
  waddr : Dword := 0
  faulted : Bool := false
  deriving DecidableEq, Repr

inductive SolvCtl where
  | start
  | pause
  | resume
  | stop
  | free
  deriving DecidableEq, Repr

/-- A batch entry (R400): state, owner, the descriptor's words, samples by slot, the loop's counters (R409), the slots that
the action has still to do, whether a translation fault holds it, at what address, what was denied, and the controls
that wait for the action to end, with the group that sent each (R413). -/
structure SolverBatch where
  st : BatchSt := .free
  id : LaunchId := {}
  desc : List Word := []
  samples : Tab Sample := []
  r : Nat := 0
  pr : Nat := 0
  pd : Nat := 0
  ecode : Nat := 0
  stage : Nat := 0
  act : SolvAct := .idle
  list : List Nat := []
  todo : List Nat := []
  held : Bool := false
  va : Dword := 0
  deny : List Nat := []
  ctls : List (SolvCtl × Option Nat) := []
  deriving DecidableEq, Repr

/-! ### The collective engine (R422 to R438) -/

inductive CollSt where
  /-- the descriptor has not been read -/
  | issued
  | joined
  | running
  | done
  deriving DecidableEq, Repr

/-- A segment of a member's source: the block, its first element, its elements (R427, R430). -/
structure CollSeg where
  block : Nat
  lo : Nat
  n : Nat
  deriving DecidableEq, Repr

/-- A handle record (R426, R434): the group that holds it, its issue sequence, the descriptor's address and words, the dies
of the members and, once started, the die and record of each rank; the buckets found ready and the segments of them that
have not been sent; what has landed, by DST element: partial sums, values, and contributions; segments to be written, and
elements not written; and what holds it. -/
structure CollRec where
  grp : Nat
  seq : Nat
  id : LaunchId := {}
  addr : Dword
  words : List Word := []
  mates : List (Nat × Nat) := []
  /-- the packages of the member table -/
  pkgs : List Nat := []
  st : CollSt := .issued
  status : Nat := 0
  freed : Bool := false
  ready : Nat := 0
  sendq : List CollSeg := []
  pairs : Tab (List Pair) := []
  vals : Tab Nat := []
  got : Tab Nat := []
  writes : List CollSeg := []
  left : Nat := 0
  held : Bool := false
  va : Dword := 0
  deny : List Nat := []
  deriving DecidableEq, Repr

/-- A collective whose members are joining (R425): TAG, member-table address, the fields that must agree, and the ranks that
have joined, with die and record. -/
structure CollDir where
  tag : Word
  table : Dword
  key : List Nat
  joined : List (Nat × Nat × Nat) := []
  deriving DecidableEq, Repr

/-! ### Spewlink ports (R534 to R542) -/

inductive PortSt where
  | up
  | spare
  | retrain
  | down
  | train
  deriving DecidableEq, Repr

/-- The state codes of R540. -/
def PortSt.code : PortSt → Nat
  | .up => 0
  | .spare => 1
  | .retrain => 2
  | .down => 3
  | .train => 4

/-- A port: the fields of R540; its peer, and whether the peer has been admitted; the next SEQ it sends and its replay buffer, each flit with the
package that its message goes to, with how many of them are to be sent again; the newest XOFF received; the SEQ expected next, whether flits are dropped until
that one comes, a NAK to be sent; the flits that each virtual channel's buffer holds (R536, R538); the flits that wait to be sent, by
virtual channel; and the flits that the channels of each weight have sent in this round (R438). -/
structure Port where
  present : Bool := false
  st : PortSt := .train
  badlane : Nat := 7
  retrains : Nat := 0
  replays : Nat := 0
  peer : Option Nat := none
  mgmtOnly : Bool := false
  removed : Bool := false
  txSeq : Nat := 0
  replay : List (Nat × Flit) := []
  resend : Nat := 0
  xoffRx : Byte := 0
  rxSeq : Nat := 0
  dropping : Bool := false
  nak : Option Nat := none
  xoffTx : Byte := 0
  occ : Tab Nat := []
  txq : Tab (List (Nat × Flit)) := []
  used : Tab Nat := []
  deriving DecidableEq, Repr
/-! ### Device-side launches (R457, R459) -/

/-- A record that a group has launched and the command processor has not taken or accepted (R457 to R459): its address and handle,
the launch of the group, whose context, queue and privilege it inherits (R450), the group by key and number, whether its
entry lies in the overflow area, whether a release has let it go, and the bytes that the record had when it was submitted (R83). -/
structure PendLaunch where
  addr : Dword
  handle : Word
  parent : LaunchId := {}
  grp : Nat := 0
  num : Nat := 0
  spilled : Bool := false
  released : Bool := false
  seen : List Byte := []
  deriving DecidableEq, Repr

/-! ### Caches, tokens and homes (R287 to R292, R473, R496 to R510) -/

/-- The mark of a cached line (R289). -/
inductive Mark where
  | el
  | ef
  | normal
  deriving DecidableEq, Repr

/-- A line's place in a set of a cache (R287, R289): its mark, when it was last touched, and, in an MSC, whether HBM is older. -/
structure Way where
  mark : Mark := .normal
  last : Nat := 0
  dirty : Bool := false
  deriving DecidableEq, Repr

/-- A thread (R148) with dirty bytes in a line or a stash entry: its group and lane (16: all lanes), and the numbers of its first and
last instructions that wrote them (R159). -/
structure Writer where
  grp : Nat
  lane : Nat
  first : Nat
  last : Nat
  deriving DecidableEq, Repr

/-- A line in a CLC (R155, R287, R473): the leaf it was filled through, its physical line (package × 2^33 + PA / 128), the
mark and last touch, and for a tensor line the bytes, the byte dirty mask and who wrote the dirty bytes. A control line's bytes stay
at the home (log 4). -/
structure Line where
  phys : Nat
  leaf : Dword
  mark : Mark := .normal
  last : Nat := 0
  data : BitVec 1024 := 0
  dirty : BitVec 128 := 0
  by_ : List Writer := []
  deriving DecidableEq, Repr

/-- The tokens that a holder has of one control line (R496, R497): count, owner token, owner token's dirty bit. -/
structure Tok where
  count : Nat := 0
  owner : Bool := false
  dirty : Bool := false
  deriving DecidableEq, Repr

/-- A stash binding of a cohort (R290): offset, global address and length. -/
structure Binding where
  so : Nat
  g : Dword
  len : Nat
  deriving DecidableEq, Repr

/-- A filled stash entry (R291): its line's tag, physical line and leaf, the bytes, the dirty ones, and who wrote these. -/
structure StashEnt where
  tag : Nat
  phys : Nat
  leaf : Dword
  data : BitVec 1024
  dirty : BitVec 128 := 0
  by_ : List Writer := []
  deriving DecidableEq, Repr

/-- A cluster: the CLC's lines by tag with a count of their touches, the entries of the cluster port's write queue (R293), and the tokens
held, by physical line. -/
structure Cluster where
  lines : Tab Line := []
  touches : Nat := 0
  wq : List Nat := []
  toks : Tab Tok := []
  /-- allowance slots by object address, and the count of uses that orders them (R381, R382) -/
  slots : Tab Slot := []
  uses : Nat := 0
  deriving DecidableEq, Repr

/-- The home's record of a control line (R496, R499, R500, R511): tokens at the home, the vector of packages that may hold
tokens, the package of the owner token, DIRTY, and whether the line is poisoned. -/
structure HomeLine where
  count : Nat := 4096
  owner : Bool := true
  vec : Word := 0
  own : Option Nat := none
  dirty : Bool := false
  poisoned : Bool := false
  census : Bool := false
  deriving DecidableEq, Repr

/-- Tokens in flight (R496, R499): to a cluster, or to the home. -/
structure TokMsg where
  line : Nat
  dest : Option Nat
  tok : Tok
  deriving DecidableEq, Repr

/-- A coherence request that has not been satisfied (R503, R504): requester, line, READ or WRITE, failed tries, and whether it
is in the persistent table. -/
structure Attempt where
  cluster : Nat
  line : Nat
  write : Bool
  fails : Nat := 0
  persistent : Bool := false
  deriving DecidableEq, Repr

/-- The owner of a PRIVATE page, by cluster, PDIRTY, and the page's bytes (R505, R507). -/
structure PageOwner where
  cluster : Option Nat := none
  pdirty : Bool := false
  size : Nat := 65536
  deriving DecidableEq, Repr

/-! ### Translation (R471 to R491) -/

/-- An entry of MTLB-1 or MTLB-2 (R471): ASID, tier, the VA bits above the tier's span, whether it comes from a backing table,
the table entry, where that entry stands and the key slot of its table. -/
structure TlbEnt where
  asid : Nat
  tier : Nat
  base : Nat
  back : Bool
  word : Dword
  ent : Nat
  slot : Nat := 0
  deriving DecidableEq, Repr

/-- An entry of the fault buffer (R483). -/
structure FaultEnt where
  va : Dword
  asid : Nat
  gen : Nat
  wr : Bool
  ty : Nat
  count : Nat := 1
  who : Requester
  deriving DecidableEq, Repr

/-- A piece of work of the command processor, or of the firmware, that accesses memory (R441 to R467, R545): a packet of a kind at the head
of a queue, the look at WIDX, the look of a BLOCKED queue, a slot of the registration window and a command in it, the two parts of a
queue reset, pending launches taken and accepted, a cohort's restore, a takeover, and inbound TLPs. -/
inductive CpWork where
  | packet (kind ctx queue : Nat)
  | widx (ctx queue : Nat)
  | met (ctx queue : Nat)
  | ticket (slot : Nat)
  | command (kind slot : Nat)
  | reset (ctx queue : Nat)
  | resetEnd (ctx queue : Nat)
  | take (core : Nat)
  | accept (n : Nat)
  | restore (cohort core : Nat)
  | takeover
  | pcieWrite (bar off : Nat) (data : List Byte)
  | pcieRead (bar off n : Nat)
  deriving DecidableEq, Repr

/-- Who waits for a replay, or waits out a refusal (R23, R481, R488). -/
inductive Waiter where
  /-- pending instruction `n` of a group: a load-like instruction (R321) -/
  | load (grp n : Nat)
  /-- the burrow entries of a group (R320) -/
  | burrow (grp : Nat)
  /-- the fetch of a group's next clause (R87) -/
  | fetch (grp : Nat)
  /-- a PCLASS of a group (R514) -/
  | group (grp : Nat)
  | copy (core chan : Nat)
  | tile (core : Nat)
  | solver (die batch : Nat)
  /-- an SCONF whose descriptor or records are being read (R418) -/
  | conf (grp n : Nat)
  | coll (die rec : Nat)
  | ratom (grp n : Nat)
  /-- a copy on a hub-die channel (R444) -/
  | hub (pkg n : Nat)
  /-- the command processor or the firmware of a package, in a piece of work -/
  | cp (pkg : Nat) (work : CpWork)
  /-- the command processor of a package, at the end of a launch (R455, R456) -/
  | launch (pkg key : Nat)
  deriving DecidableEq, Repr

/-- An initiator of requests that counts its refusals in no register that the spec gives (R24). -/
inductive Initiator where
  | group (k : Nat)
  | tile (core : Nat)
  | solver (die : Nat)
  | coll (die : Nat)
  | hub (pkg : Nat)
  deriving DecidableEq, Repr

/-- A held requester with the fault entry whose list it is on; none: its fault was dropped (R481). -/
structure Held where
  who : Waiter
  entry : Option Nat
  deriving DecidableEq, Repr

/-- A request for power units (R193 to R195). -/
inductive PowerUser where
  | tile (core n : Nat)
  | copy (core chan : Nat)
  | seg (rec : Nat)
  deriving DecidableEq, Repr

/-- A request for power units; `ended`: a granted one whose operation has ended (R193, R195). -/
structure PowerReq where
  who : PowerUser
  units : Nat
  ended : Bool := false
  deriving DecidableEq, Repr

/-- A lattice die: translation (R471, R481, R487), the power arbiter (R194, R197), the marks and write queues of its two
MSCs (R289, R293), and the directory of its clusters (R501, R502). -/
structure Die where
  mtlb1a : List TlbEnt := []
  mtlb1b : List TlbEnt := []
  mtlb2 : List TlbEnt := []
  walks : List TransReq := []
  faults : Tab FaultEnt := []
  held : List Held := []
  dropped : Bool := false
  dcnt : Nat := 0
  specDrop : Dword := 0
  mhint : Byte := 4
  fhint : Byte := 16
  msie : Bool := false
  msiAddr : Dword := 0
  msiData : Word := 0
  budget : Nat := 2047
  inuse : Nat := 0
  powerq : List PowerReq := []
  granted : List PowerReq := []
  grants : Nat := 0
  /-- the lines of its two MSCs by physical line, and the counts of their touches -/
  msca : Tab Way := []
  mscb : Tab Way := []
  mscTouches : Nat := 0
  wqa : List Nat := []
  wqb : List Nat := []
  dir : Tab Word := []
  /-- the solver engine's batches (R400) -/
  solver : Tab SolverBatch := []
  /-- the collective engine's records, and its issue sequence (R426, R434) -/
  colls : Tab CollRec := []
  collSeq : Nat := 0
  deriving DecidableEq, Repr

/-- An entry of the ASID table (R478). -/
structure AsidEnt where
  en : Bool := false
  gen : Nat := 0
  ncnt : Nat := 0
  root : Tab Dword := []
  broot : Tab Dword := []
  deriving DecidableEq, Repr

/-- A physical region descriptor (R210, R477): base, limit, and the word that holds kind in bit 0 and WORLD in bit 1. -/
structure RegionDesc where
  base : Dword := 0
  limit : Dword := 0
  attr : Dword := 0
  deriving DecidableEq, Repr

/-! ### Cohorts (R68, R69, R78) -/

/-- A cohort: its launch, its core, the group keys by group number, the scratchpad bytes (an unlisted byte is 0, R547), the
world of its scratchpad, the group binding table, and its stash table; the launch's key, the number of its unit's first cohort,
the order of its start, whether its first issue after dispatch or restore has come (R198), and whether it is being pre-empted or
discarded: its groups start no clause (R73, R456, R462); and the areas that TCTX.SAVE has written, with their masks (R349). -/
structure Cohort where
  id : LaunchId := {}
  launch : Nat := 0
  unit : Nat := 0
  seq : Nat := 0
  begun : Bool := false
  stop : Bool := false
  core : Nat := 0
  num : Nat := 0
  groups : List Nat := []
  scrLimit : Nat := 0
  scr : Tab Byte := []
  macros : List Nat := []
  neigh : List Nat := []
  neighCores : List Nat := []
  chans : List Nat := []
  memch : List Nat := []
  stash : List Binding := []
  areas : List (Dword × Half × Half) := []
  deriving DecidableEq, Repr

/-- A key slot (R201): EN, WORLD and the key-material words; no word listed: the key that the slot was loaded with at boot. -/
structure KeySlot where
  en : Bool := false
  world : Bool := false
  words : Tab Word := []
  deriving DecidableEq, Repr

/-- A message-signalled interrupt sent (R446, R487): package, address and data. -/
structure Msi where
  pkg : Nat
  addr : Dword
  data : Word
  deriving DecidableEq, Repr

/-- A refused request waiting out its hint (R23). -/
structure Refused where
  who : Waiter
  hint : Nat
  deriving DecidableEq, Repr

/-! ### The command processor (R439 to R469) -/

/-- The states of a queue, in the order of their codes (R440). -/
inductive QSt where
  | stopped
  | idle
  | run
  | blocked
  | error
  | resetting
  deriving DecidableEq, Repr

def QSt.code : QSt → Nat
  | .stopped => 0
  | .idle => 1
  | .run => 2
  | .blocked => 3
  | .error => 4
  | .resetting => 5

/-- Who waits for the reset of a queue: the QRESET packet at the head of a queue of the context, or a request of the registration
window (R446, R448, R462). -/
inductive ResetWaiter where
  | packet (queue : Nat)
  | slot (n : Nat)
  deriving DecidableEq, Repr

/-- A queue as the command processor holds it (R440, R441, R446): GEN, STATE, RIDX, ECODE, EIDX, the newest WIDX that it has read,
a START that waits for the reset to complete, and who waits for that. -/
structure Queue where
  st : QSt := .stopped
  gen : Nat := 0
  ridx : Nat := 0
  ecode : Nat := 0
  eidx : Nat := 0
  widx : Nat := 0
  /-- while RESETTING: steps 2 and 3 of R462 have been taken -/
  struck : Bool := false
  startDue : Bool := false
  waiters : List ResetWaiter := []
  deriving DecidableEq, Repr

/-- A registered context (R439): the address of its descriptor, where NEXT stands, the other fields, and its queues. -/
structure CtxReg where
  desc : Dword := 0
  qtab : Dword := 0
  priv : Bool := false
  world : Bool := false
  nq : Nat := 0
  stlog : Nat := 6
  stab : Dword := 0
  ovf : Dword := 0
  ovn : Nat := 1
  save : Dword := 0
  queues : Tab Queue := []
  deriving DecidableEq, Repr

/-- A request of the registration window that is being served (R447). -/
structure WinReq where
  ticket : Word
  opc : Nat
  arg0 : Dword
  arg1 : Dword
  world : Bool
  deriving DecidableEq, Repr

/-- A slot of the window: the world of the store that wrote TICKET, and the request being served; `begun`: it waits for a reset. -/
structure WinSlot where
  world : Bool := false
  req : Option WinReq := none
  begun : Bool := false
  deriving DecidableEq, Repr

/-- How a launch stands: it runs, or it is being ended as FAULTED (R456) or ABORTED (R462). -/
inductive LaunchSt where
  | running
  | faulted (cause sub : Nat)
  | aborted
  deriving DecidableEq, Repr

/-- An accepted launch of the dispatcher list (R452): identity, record, acceptance order, its packages in rank order (R464), those of
them that can hold its units and take them (R63), the gang slice; by package, the next cohort to place and the ramp steps that it has waited; the cohorts that have
been placed and not ended; the cluster and the die that a unit is bound to (R63), and the first causes held at an EXIT (R225). -/
structure Launch where
  id : LaunchId := {}
  info : Record := {}
  order : Nat := 0
  members : List Nat := []
  takers : List Nat := []
  slice : Nat := 0
  next : Tab Nat := []
  waited : Tab Nat := []
  live : Nat := 0
  pins : Tab Nat := []
  st : LaunchSt := .running
  held : Option (Nat × Nat) := none
  deriving DecidableEq, Repr

/-- Why a cohort was pre-empted (R453, R461, R464): at a swap-out, with the objects and phases that its groups wait on. -/
inductive SaveWhy where
  | swap (objs : List (Dword × Nat))
  | other
  deriving DecidableEq, Repr

/-- The context save area of a cohort (R75): the cohort with its scratchpad bytes and bindings, its die, its tile engine, and its copy channels by role. -/
structure Saved where
  cohort : Cohort := {}
  die : Nat := 0
  tile : Option TileEng := none
  chans : List Chan := []
  why : SaveWhy := .other
  deriving DecidableEq, Repr

/-- A COPY packet's copy on a hub-die channel (R444): its queue, what its requests carry, EIDX, the ranges, the barrier object, and its
pieces. -/
structure HubCopy where
  id : LaunchId
  eidx : Nat
  dst : Dword
  src : Dword
  n : Nat
  bar : Option Dword := none
  flow : Flow := {}
  deriving DecidableEq, Repr

/-- A member's gang state (R465). -/
inductive GangSt where
  | run (slice : Nat)
  | drain (slice next : Nat)
  | acked (slice next : Nat)
  deriving DecidableEq, Repr

/-- A message of the gang protocol (R464, R465); `again`: a proposal that a new leader sends again. -/
inductive GangWord where
  | propose (slice : Nat) (again : Bool)
  | ack (slice : Nat)
  | commit (slice : Nat)
  deriving DecidableEq, Repr

structure GangMsg where
  src : Nat
  dest : Nat
  word : GangWord
  deriving DecidableEq, Repr

/-- The leader's part of a SWITCH: the slice, the members whose ACK it waits for, the queue of the packet, and whether COMMIT has been
sent. -/
structure GangLead where
  slice : Nat
  waits : List Nat
  queue : Option (Nat × Nat) := none
  sent : Bool := false
  deriving DecidableEq, Repr

/-- The PCI Express port (R545, R546): root-port strap, link state, DPC, outstanding outbound requests, and the completions owed to
inbound reads. -/
structure Pcie where
  root : Bool := false
  up : Bool := false
  rate : Nat := 0
  width : Nat := 0
  dpc : Bool := false
  outbound : List Nat := []
  ones : List Nat := []
  cpls : List (Nat × Option (List Byte)) := []
  deriving DecidableEq, Repr

/-- An attestation report (R204): the measurement registers, the nonce, the fuse map, the image version, the serial number and the
signature. -/
structure Report where
  regs : List (BitVec 256)
  nonce : List Byte
  fuses : Fuses
  version : Nat
  serial : Dword
  sig : Nat
  deriving DecidableEq, Repr

/-- A package's hub die: bring-up (R468), the two firmware complexes (R203, R204, R466), the ramp (R198, R199), contexts, the
registration window, records taken and spilled, hub-die copies, the gang, and PCI Express. -/
structure Pkg where
  up : Bool := false
  bucode : Nat := 0
  serial : Dword := 0
  /-- boots of the package before this one: slot 0's key is drawn fresh for each (R201) -/
  epoch : Nat := 0
  /-- `State.clock` at the package's reset: the model's own field (log 8) -/
  born : Dword := 0
  fuses : Fuses := {}
  /-- the fused digest of firmware's public key (R203), and the attestation key: modulus and private exponent (R204) -/
  keyDigest : BitVec 256 := 0
  attKey : Nat × Nat := (0, 0)
  modeB : Bool := false
  /-- which complex is active, and, by complex, the version of its image and the slots of its measurement registers -/
  active : Nat := 0
  vers : Tab Nat := []
  meas : Tab (BitVec 256) := []
  reports : List Report := []
  ramp : Word := 0x0808#32
  rampNow : Word := 0x0808#32
  starts : Tab Nat := []
  ctxs : Tab CtxReg := []
  slots : Tab WinSlot := []
  work : List PendLaunch := []
  spills : List PendLaunch := []
  hub : Tab HubCopy := []
  hubNext : Nat := 0
  gang : List Nat := []
  gst : GangSt := .run 0
  lead : Option GangLead := none
  pcie : Pcie := {}
  deriving DecidableEq, Repr


structure Core where
  cyc : Dword := 0
  quarters : Tab Quarter := []
  burrow : List BurrowEntry := []
  /-- L1 lines by tag, with their marks and last touches, and the count of these (R287, R289) -/
  l1 : Tab Way := []
  touches : Nat := 0
  /-- the entries of the core port's write queue (R293), by line -/
  wq : List Nat := []
  /-- filled stash entries by stash line (R290, R291) -/
  stash : Tab StashEnt := []
  /-- CTNCNT and CTNLOG (R532) -/
  ctncnt : Dword := 0
  ctnlog : Word := 0
  tile : TileEng := {}
  chans : Tab Chan := []
  /-- the pending-launch queue (R457) -/
  plq : List PendLaunch := []
  deriving DecidableEq, Repr

/-! ### The owl line (R206, R208) -/

/-- The snapshot control and tag registers of a package. -/
structure Snap where
  drops : Nat := 0
  seq : Nat := 0
  errmask : Byte := 0
  source : Nat := 0
  busy : Bool := false
  fwd : Bool := false
  pinen : Bool := false
  snapen : Bool := true
  tag : Half := 0
  tagPkg : Nat := 0
  latch : Nat := 0
  deriving DecidableEq, Repr

/-- A trigger forwarded to a gang peer (R207). -/
structure OwlMsg where
  dest : Nat
  origin : Nat
  tag : Half
  deriving DecidableEq, Repr

/-! ### The whole machine -/

/-- A turn of the model: a quarter issues, or an event of the hardware happens (log 3). -/
inductive Turn where
  | quarter (q : Nat)
  | event (i : Instr)
  deriving DecidableEq, Repr

structure State where
  groups : Tab Group := []
  cores : Tab Core := []
  /-- physical memory: key package × 2^40 + physical address; an unlisted byte is unpredictable (R547, log 1) -/
  mem : Tab Byte := []
  /-- the key that each physical line was last written under (R200, R202); unlisted: slot 0's boot key -/
  seals : Tab Nat := []
  cohorts : Tab Cohort := []
  clusters : Tab Cluster := []
  dies : Tab Die := []
  /-- the homes' records of control lines (R496), by physical line -/
  homes : Tab HomeLine := []
  flight : List TokMsg := []
  attempts : List Attempt := []
  /-- owners of PRIVATE pages (R505), by package × 2^40 + frame -/
  owners : Tab PageOwner := []
  /-- ASID tables, region descriptors and key-slot tables of the packages (R201, R477, R478) -/
  asids : Tab AsidEnt := []
  descs : Tab RegionDesc := []
  slots : Tab KeySlot := []
  /-- counters by object address (R377), and the messages of the allowance engine in flight (R384) -/
  ctrs : Tab Counter := []
  amsgs : List AMsg := []
  /-- collective directories (R425), and the ports' arbitration registers, by package × 24 + port (R437) -/
  colldirs : List CollDir := []
  carb : Tab Word := []
  /-- Spewlink ports, by package × 24 + port, and FLOWCFG, by package × 16 + flow (R539, R540) -/
  ports : Tab Port := []
  flowcfg : Tab Word := []
  /-- the world bits of fixed engines (R53), by package × 432 + block of R211; unlisted: secure -/
  worlds : Tab Bool := []
  /-- requests sent to the fabric so far: the order that a flow keeps (R539) -/
  order : Nat := 0
  refused : List Refused := []
  /-- the refusal counters of initiators that the spec gives no register (R24) -/
  refusals : List (Initiator × Nat) := []
  /-- an access of the command processor that has been refused in the work under way: request, bytes and hint (R23); none between
  steps -/
  cpStop : Option (TransReq × Nat × Nat) := none
  msis : List Msi := []
  snaps : Tab Snap := []
  /-- the counters behind snapshot records, and the records as last latched, by (package × 432 + block) × 32 + place: CNT n,
  30 CYC, 31 SEQ (R211) -/
  counters : Tab Dword := []
  records : Tab Dword := []
  owlOut : List OwlMsg := []
  /-- hub dies, by package -/
  pkgs : Tab Pkg := []
  /-- launches of the dispatcher lists (R452), and the cohorts that are saved (R75), by the cohort's key -/
  launches : Tab Launch := []
  saved : Tab Saved := []
  /-- messages of the gang protocol (R464) -/
  gmsgs : List GangMsg := []
  /-- the keys that the next launch, cohort and saved group take: the model's own field (log 20) -/
  nextKey : Nat := 0
  /-- packages in the domain, and, by package, those that it has been told are lost (R32, R542) -/
  domain : Nat := 1
  lost : Tab Word := []
  /-- declarations of a loss on their way: survivor and lost package (R542) -/
  decls : List (Nat × Nat) := []
  /-- the mirror partner of a package, as the fabric configuration names it (R17, R542); unlisted: none -/
  partner : Tab Nat := []
  /-- core cycles that have passed: the model's own field (log 8) -/
  clock : Dword := 0
  /-- the group that `exec` acts for: the model's own field (log 3) -/
  cur : Nat := 0
  /-- what happens next: the model's own field (log 3) -/
  agenda : List Turn := []
  /-- the quarter whose turn it is when the agenda is empty: the model's own field (log 3) -/
  turn : Nat := 0
  /-- the counter that free values are taken from: the model's own field (log 5) -/
  free : Nat := 0
  deriving DecidableEq, Repr

/-- Why the machine stops without a next state. -/
inductive Fault where
  /-- raised by every instruction that acts for a group, when `State.cur` names no resident group; the model's own, safe:
  no run of `step` reaches it -/
  | noGroup
  deriving DecidableEq, Repr

/-- Why the model refuses an instruction. -/
inductive Refusal where
  /-- the arm of `exec` has no meaning yet; safe -/
  | notModelled (mnemonic : String)
  deriving DecidableEq, Repr

/-- The machine right after package reset. -/
def State.reset : State := {}

end Sys2Proof.Machine
end

