-- ==== Sys2Proof/Machine/Aes.lean ====
section
/-!
DEFINITION. AES-XTS-256 over one 128-byte line (R200): the cipher of a 16-byte block under a 256-bit key and its inverse, and the
line under a 512-bit key with its physical address as the tweak.
-/

namespace Sys2Proof.Machine

/-! ### The byte field -/

/-- Twice a byte in the field of AES. -/
def gfTwice (b : Byte) : Byte := (b <<< 1) ^^^ (if b.msb then 0x1B else 0)

/-- A product in the field: `n` bits of the second factor are still to come. -/
def gfTimes : Nat → Byte → Byte → Byte
  | 0, _, _ => 0
  | n + 1, a, b => (if b.getLsbD 0 then a else 0) ^^^ gfTimes n (gfTwice a) (b >>> 1)

def gfMul (a b : Byte) : Byte := gfTimes 8 a b

/-- The reciprocal, which is the 254th power; 0 of 0. -/
def gfRecip (b : Byte) : Byte :=
  let b2 := gfMul b b
  let b3 := gfMul b2 b
  let b12 := gfMul (gfMul b3 b3) (gfMul b3 b3)
  let b15 := gfMul b12 b3
  let b240 := (List.range 4).foldl (fun x _ => gfMul x x) b15
  gfMul b240 (gfMul b12 b2)

/-- The byte substitution, and its inverse. -/
def subByte (b : Byte) : Byte :=
  let r := gfRecip b
  r ^^^ r.rotateLeft 1 ^^^ r.rotateLeft 2 ^^^ r.rotateLeft 3 ^^^ r.rotateLeft 4 ^^^ 0x63

def unsubByte (b : Byte) : Byte := gfRecip (b.rotateLeft 1 ^^^ b.rotateLeft 3 ^^^ b.rotateLeft 6 ^^^ 0x05)

/-! ### A block: 16 bytes, column by column -/

def xorBytes (a b : List Byte) : List Byte := (a.zip b).map (fun p => p.1 ^^^ p.2)

/-- Row r of the block is turned left by r columns; `back`: right. -/
def turnRows (back : Bool) (x : List Byte) : List Byte :=
  (List.range 16).map (fun i => x.getD ((i + (if back then 12 else 4) * (i % 4)) % 16) 0)

/-- Each column is multiplied by the circulant matrix of a first row. -/
def mixWith (row x : List Byte) : List Byte :=
  (List.range 16).map (fun i =>
    (List.range 4).foldl (fun acc j => acc ^^^ gfMul (row.getD ((j + 4 - i % 4) % 4) 0) (x.getD (i / 4 * 4 + j) 0)) 0)

/-- The round constant of a power. -/
def roundConst : Nat → Byte
  | 0 => 1
  | n + 1 => gfTwice (roundConst n)

/-- The next 4-byte word of the key schedule, newest words first, when `n` words stand. -/
def nextKeyWord (n : Nat) (ws : List (List Byte)) : List Byte :=
  let t := ws.headD []
  let t :=
    if n % 8 = 0 then
      match (t.drop 1 ++ t.take 1).map subByte with
      | b :: r => (b ^^^ roundConst (n / 8 - 1)) :: r
      | [] => []
    else if n % 8 = 4 then t.map subByte
    else t
  xorBytes (ws.getD 7 []) t

/-- The fifteen round keys of a 32-byte key. -/
def roundKeys (key : List Byte) : List (List Byte) :=
  let first := ((List.range 8).map (fun i => (key.drop (4 * i)).take 4)).reverse
  let ws := ((List.range 52).foldl (fun ws i => nextKeyWord (8 + i) ws :: ws) first).reverse
  (List.range 15).map (fun r => ((ws.drop (4 * r)).take 4).flatten)

def encryptBlock (keys : List (List Byte)) (x : List Byte) : List Byte :=
  let x := xorBytes x (keys.headD [])
  let x := ((keys.drop 1).take 13).foldl (fun x k => xorBytes (mixWith [2, 3, 1, 1] (turnRows false (x.map subByte))) k) x
  xorBytes (turnRows false (x.map subByte)) (keys.getD 14 [])

def decryptBlock (keys : List (List Byte)) (x : List Byte) : List Byte :=
  let x := (turnRows true (xorBytes x (keys.getD 14 []))).map unsubByte
  let x := ((keys.drop 1).take 13).reverse.foldl (fun x k =>
    (turnRows true (mixWith [14, 11, 13, 9] (xorBytes x k))).map unsubByte) x
  xorBytes x (keys.headD [])

/-! ### A line (R200) -/

/-- The low n bytes of a number, lowest first. -/
def lowBytes (n v : Nat) : List Byte := (List.range n).map (fun i => BitVec.ofNat 8 (v / 2 ^ (8 * i)))

/-- The number of some bytes, lowest first. -/
def bytesVal (l : List Byte) : Nat := l.foldr (fun b n => b.toNat + 256 * n) 0

/-- The mask of the next block of the unit: twice, in the field of 128 bits. -/
def nextMask (t : List Byte) : List Byte :=
  let n := 2 * bytesVal t
  lowBytes 16 (if n < 2 ^ 128 then n else (n - 2 ^ 128) ^^^ 0x87)

def maskAt (t : List Byte) : Nat → List Byte
  | 0 => t
  | n + 1 => nextMask (maskAt t n)

/-- A line's 128 bytes through the cipher, or back: `key` holds the data key in its low 256 bits and the tweak key above (R210). -/
def xtsLine (back : Bool) (key : BitVec 512) (pa : Nat) (x : List Byte) : List Byte :=
  let data := roundKeys (lowBytes 32 key.toNat)
  let t := encryptBlock (roundKeys (lowBytes 32 (key.toNat / 2 ^ 256))) (lowBytes 16 pa)
  (List.range 8).flatMap (fun j =>
    let m := maskAt t j
    let b := xorBytes ((x.drop (16 * j)).take 16) m
    xorBytes (if back then decryptBlock data b else encryptBlock data b) m)

end Sys2Proof.Machine
end

