-- ==== Sys2Proof/Config.lean ====
section
/-!
DEFINITION. What the spec leaves open. Each constant has no body: a proof can use no value of it. The number it is applied
to is the model's counter of free values (State.free), or operands the value depends on.
-/

namespace Sys2Proof.Config

/-- R106: whether a read of a register with a pending long-latency write returns the new value, lane by lane. -/
opaque raceNew : Nat → Nat → Bool

/-- R212: which line an instruction cache that is full gives up for a new one. -/
opaque icacheVictim : Nat → Nat → Nat

/-- R264: the result of FSPEC by function code, operand and occasion, before it is held inside the error bound. -/
opaque fspec : Nat → BitVec 32 → Nat → Int

/-- R112: core cycles that pass beyond the one an issue takes. -/
opaque cycles : Nat → Nat

/-- R43: the private block's address that the command processor chooses for a group of a cohort of a launch. -/
opaque privateBlock : Nat → Nat → Nat → BitVec 64

/-- R78: which of the working units (counted from 0 among those free) a role receives. -/
opaque rolePick : Nat → Nat → Nat

/-- R175, R349, R356, R394, R423, R432: which of two values that the spec allows a byte, an element or a part has, or whether a
message that is in flight arrives; by occasion and place. -/
opaque raceBytes : Nat → Nat → Bool

/-- R356: the row of a copy that a source byte is matched with. -/
opaque racePick : Nat → Nat → Nat

/-- R431: whether a contribution to a collective's sum begins a partial sum of its own. -/
opaque collFresh : Nat → Nat → Nat → Bool

/-- R211: a counter of a snapshot record that counts cycles, by latch and place. -/
opaque counterVal : Nat → Nat → BitVec 64

/-- R483: the RCORE of a request of a hub-die channel, and the RSLOT of a request of the solver or collective engine. -/
opaque hubCore : Nat
opaque engineSlot : Nat

/-- R457: the order in which spilled records are taken. -/
opaque spillOrder : Nat → Nat → Nat

/-- R534: what the payload of a flit holds of a message, by occasion. -/
opaque flitPayload : Nat → List (BitVec 8)

/-- R536: the flits that a virtual channel's buffer passes on, and how many it holds. -/
opaque vcDrain : Nat → Nat
opaque vcCapacity : Nat

/-- R513: whether a class hint is applied. -/
opaque hintApplied : Nat → Bool

/-- R201: the bits of a key that a slot of a package has after a reset, by package and number. -/
opaque freshKey : Nat → Nat → BitVec 512

/-- R547: a byte of memory that nothing has written since its package's reset, by boot and physical address. -/
opaque coldByte : Nat → Nat → BitVec 8

/-- R293: whether an entry of a write queue drains now, by occasion and line. -/
opaque wqDrain : Nat → Nat → Bool

/-- R203: the bytes of a public key that its digest is taken over, of its modulus and exponent. -/
opaque keyBytes : Nat → Nat → List (BitVec 8)

/-- R203, R204: the number that a signature of RSA-3072 over a SHA-256 digest encodes. -/
opaque signedBlock : BitVec 256 → Nat

end Sys2Proof.Config
end

