-- ==== Sys2Proof/Machine/Ops.lean ====
section
/-!
DEFINITION. The operations every instruction of a lane group shares: reading and writing registers through the operand
window, masks and lanes, the checks and holds at issue (R98, R101, R106, R107), long-latency instructions (R103, R104),
taking a trap and returning from one (R218 to R224), and the shell `issue` that an instruction's own effect is put in.
-/

namespace Sys2Proof.Machine

/-- The result of one step of the machine. -/
abbrev Out := Host.Outcome State Fault Refusal

/-! ### Registers by bank key -/

/-- Lane-file slice n of lane l. -/
def vKey (n l : Nat) : Nat := n * 16 + l

/-- Uniform register n. -/
def sKey (n : Nat) : Nat := 16384 + n

/-- The slice of VP register j (R142). -/
def vpSlice (g : Group) (j i : Nat) : Nat := g.info.n32 + j * g.info.vpc + i

/-- What a register that nothing has written holds: a VP head 0x0000_0001, anything else 0 (R84). -/
def Group.initVal (g : Group) (key : Nat) : Word :=
  let n := key / 16
  if key < 16384 ∧ g.info.n32 ≤ n ∧ n < g.info.n32 + g.info.vpn * g.info.vpc ∧ (n - g.info.n32) % g.info.vpc = 0
  then 1 else 0

/-- Lane predicate n among the results of the operand window (R97, R109). -/
def qKey (n : Nat) : Nat := 32768 + n

/-- The value in the register file. -/
def Group.bank (g : Group) (key : Nat) : Word := g.regs.getD key (g.initVal key)

/-- The newest value in the operand window (R109). -/
def winFind : List WinEntry → Nat → Option Word
  | [], _ => none
  | e :: t, key =>
    match e.outs.find? (fun p => p.1 == key) with
    | some p => some p.2
    | none => winFind t key

/-- The value a read takes: the newest in the window, else the bank's (R109). -/
def Group.cur (g : Group) (key : Nat) : Word := (winFind g.window key).getD (g.bank key)

/-- The result that a pending long-latency instruction will write to a register, when it exists (R106). -/
def Group.pendVal (g : Group) (key : Nat) : Option Word :=
  g.pend.findSome? (fun p => (p.outs.find? (fun e => e.1 == key)).map (·.2))

/-- A register read at issue: the old or the new value where a long-latency write is pending (R106). -/
def Group.rd (g : Group) (free key : Nat) : Word :=
  match g.pendVal key with
  | some w => if Config.raceNew free key then w else g.cur key
  | none => g.cur key

/-- The code-word unit of a bank key: a lane register across its lanes, or eight uniform registers (R240, R515). -/
def eccUnit (key : Nat) : Nat := if key < 16384 then key / 16 else 16384 + (key - 16384) / 8

/-- A write covers the whole of a unit (R241). -/
def wholeUnit (outs : List (Nat × Word)) (u : Nat) : Bool :=
  let keys := if u < 16384 then (List.range 16).map (fun l => u * 16 + l) else (List.range 8).map (fun i => 16384 + (u - 16384) * 8 + i)
  keys.all (fun k => outs.any (fun p => p.1 == k))

/-- The marks after a write: a whole write encodes anew, a partial one corrects a single symbol, and leaves a poison syndrome in
place of an uncorrectable error (R240, R241, R517). -/
def eccAfter (ecc : Tab EccMark) (outs : List (Nat × Word)) : Tab EccMark :=
  ecc.filterMap (fun e =>
    if !outs.any (fun p => eccUnit p.1 == e.1) then some e
    else if wholeUnit outs e.1 || decide (e.2 = .correctable) then none
    else some (e.1, .poison))

/-- What a write's merges find: single errors, which they correct, and uncorrectable ones (R516, R517). -/
def Tally.merge (t : Tally) (ecc : Tab EccMark) (outs : List (Nat × Word)) : Tally :=
  let met := ecc.filter (fun e => outs.any (fun p => eccUnit p.1 == e.1) && !wholeUnit outs e.1)
  { lane := t.lane + (met.filter (fun e => decide (e.2 = .correctable) && decide (e.1 < 16384))).length
    other := t.other + (met.filter (fun e => decide (e.2 = .correctable) && decide (16384 ≤ e.1))).length
    ue := t.ue + (met.filter (fun e => decide (e.2 = .uncorrectable))).length }

/-- The values of results: lane and uniform registers by bank key, lane predicates by qKey. -/
def Group.setRegs (g : Group) (outs : List (Nat × Word)) : Group :=
  { g with
    regs := outs.foldl (fun t p => if p.1 < 32768 then t.put p.1 p.2 else t) g.regs
    q := outs.foldl (fun t p => if p.1 < 32768 then t else t.store 0 (p.1 - 32768) (p.2.setWidth 16)) g.q }

/-- Writes results to their banks, with the merges of partial writes (R241). -/
def Group.putRegs (g : Group) (outs : List (Nat × Word)) : Group :=
  { g.setRegs outs with ecc := eccAfter g.ecc outs, tally := if g.ecc.isEmpty then g.tally else g.tally.merge g.ecc outs }

/-- Lane predicate n, from the window or its bank (R109); q0 reads true (R97). -/
def Group.qBits (g : Group) (n : Nat) : Half :=
  if n = 0 then 0xFFFF
  else match winFind g.window (qKey n) with
    | some w => w.setWidth 16
    | none => g.q.getD n 0

def setBit {w : Nat} (m : BitVec w) (i : Nat) (b : Bool) : BitVec w :=
  if b then m ||| (1#w <<< i) else m &&& ~~~(1#w <<< i)

/-- The mask of the lanes that a test holds for. -/
def maskOf (p : Nat → Bool) : Half := (List.range 16).foldl (fun m l => setBit m l (p l)) 0

/-- The bits of a lane predicate that a pending VPCMP will write. -/
def Group.pendQ (g : Group) (n : Nat) : Option (Half × Half) :=
  g.pend.findSome? (fun p => (p.qouts.find? (fun e => e.1 == n)).map (fun e => (p.lanes, e.2)))

/-- A lane predicate read at issue: in each lane that a pending VPCMP will write, the old or the new bit (R106). -/
def Group.rdq (g : Group) (free n : Nat) : Half :=
  match g.pendQ n with
  | some (m, v) =>
    let new := m &&& maskOf (fun l => Config.raceNew free (32768 + n * 16 + l))
    (g.qBits n &&& ~~~new) ||| (v &&& new)
  | none => g.qBits n

/-- Uniform predicate n; k0 reads true (R97). -/
def Group.rdk (g : Group) (n : Nat) : Bool := n == 0 || g.k.getLsbD n

/-- Writes a uniform predicate; k0 is never written. -/
def Group.putK (g : Group) (n : Nat) (b : Bool) : Group := if n = 0 then g else { g with k := setBit g.k n b }

/-- The result that writes the lanes of a mask of a lane predicate (R58); q0 is never written. -/
def Group.qOut (g : Group) (n : Nat) (m v : Half) : List (Nat × Word) :=
  if n = 0 then [] else [(qKey n, ((g.qBits n &&& ~~~m) ||| (v &&& m)).setWidth 32)]

/-- Index register i of lane l (R243). -/
def Group.xr (g : Group) (i l : Nat) : Half := g.x.getD (i * 16 + l) 0
def Group.putX (g : Group) (i l : Nat) (v : Half) : Group := { g with x := g.x.store 0 (i * 16 + l) v }

/-- %prec and %vpstat of a lane (R84, R265, R266). -/
def Group.precOf (g : Group) (l : Nat) : Word := g.prec.getD l (BitVec.ofNat 32 g.info.prec0)
def Group.vpstatOf (g : Group) (l : Nat) : Word := g.vpstat.getD l 0

def Group.flag (g : Group) (i : Nat) : Nat := g.flags.getD i 0
def Group.putFlag (g : Group) (i n : Nat) : Group := { g with flags := g.flags.store 0 i n }

/-! ### Lanes and masks (R58, R529) -/

/-- The lanes set in a mask, in ascending order. -/
def lanesOf (m : Half) : List Nat := (List.range 16).filter (fun l => m.getLsbD l)

/-- The visible number of a physical lane (R529). -/
def Group.vis (g : Group) (l : Nat) : Nat := if g.info.prot then l / 2 else l

/-- The number of visible lanes. -/
def Group.nlanes (g : Group) : Nat := if g.info.prot then 8 else 16

/-- The first physical lane of a visible lane. -/
def Group.phys (g : Group) (v : Nat) : Nat := if g.info.prot then 2 * v else v

/-- A visible mask on the physical lanes. -/
def Group.spread (g : Group) (m : Half) : Half := if g.info.prot then maskOf (fun l => m.getLsbD (l / 2)) else m

/-- A physical mask as visible lanes, by the first lane of each pair. -/
def Group.fold (g : Group) (m : Half) : Half :=
  if g.info.prot then maskOf (fun v => decide (v < 8) && m.getLsbD (2 * v)) else m

/-- %em on the physical lanes. -/
def Group.emPhys (g : Group) : Half := g.spread g.em

/-- The lanes an instruction acts on: %em and the predicate of QS (R58, R93). -/
def Group.active (g : Group) (sh : Shape) (o : EOps) (free : Nat) : Half :=
  match sh.qs with
  | .q =>
    if o.qs = 0 then g.emPhys
    else g.emPhys &&& (if o.qn then ~~~(g.rdq free o.qs.toNat) else g.rdq free o.qs.toNat)
  | _ => g.emPhys

/-- Whether the instruction acts for the group (R93); a lane instruction acts when some lane does. -/
def Group.acts (g : Group) (sh : Shape) (o : EOps) (free : Nat) : Bool :=
  match sh.qs with
  | .none => true
  | .q => g.active sh o free != 0
  | .k => g.rdk o.qs.toNat != (o.qn && o.qs != 0)

/-! ### Operands -/

/-- Uniform register n, and an even pair (R97). -/
def Group.s1 (g : Group) (free n : Nat) : Word := g.rd free (sKey n)
def Group.s2 (g : Group) (free n : Nat) : Dword := g.rd free (sKey (n + 1)) ++ g.rd free (sKey n)

/-- Lane register n of lane l, an even pair, and a group of four. -/
def Group.v1 (g : Group) (free n l : Nat) : Word := g.rd free (vKey n l)
def Group.v2 (g : Group) (free n l : Nat) : Dword := g.rd free (vKey (n + 1) l) ++ g.rd free (vKey n l)
def Group.v4 (g : Group) (free n l : Nat) : BitVec 128 :=
  g.rd free (vKey (n + 3) l) ++ g.rd free (vKey (n + 2) l) ++ g.rd free (vKey (n + 1) l) ++ g.rd free (vKey n l)

/-- B of a uniform instruction: s(B), or the literal (R96). -/
def Group.uB32 (g : Group) (free : Nat) (o : EOps) : Word :=
  match o.lit with
  | some w => w.setWidth 32
  | none => g.s1 free o.b.toNat

def Group.uB64 (g : Group) (free : Nat) (o : EOps) : Dword :=
  match o.lit with
  | some w => w
  | none => g.s2 free o.b.toNat

/-- A lane source of 32 bits: lane register, uniform register by its X bit (R95). -/
def Group.src32 (g : Group) (free : Nat) (u : Bool) (n : BitVec 10) (l : Nat) : Word :=
  if u then g.s1 free n.toNat else g.v1 free n.toNat l

def Group.src64 (g : Group) (free : Nat) (u : Bool) (n : BitVec 10) (l : Nat) : Dword :=
  if u then g.s2 free n.toNat else g.v2 free n.toNat l

def Group.src128 (g : Group) (free : Nat) (u : Bool) (n : BitVec 10) (l : Nat) : BitVec 128 :=
  if u then g.rd free (sKey (n.toNat + 3)) ++ g.rd free (sKey (n.toNat + 2)) ++ g.s2 free n.toNat
  else g.v4 free n.toNat l

/-- The sources A, B and C of a lane instruction; B, or A, may be a literal (R96). -/
def Group.a32 (g : Group) (free : Nat) (o : EOps) (l : Nat) : Word := g.src32 free (uA o) o.a l
def Group.a64 (g : Group) (free : Nat) (o : EOps) (l : Nat) : Dword := g.src64 free (uA o) o.a l
def Group.b32 (g : Group) (free : Nat) (o : EOps) (l : Nat) : Word :=
  match o.lit with
  | some w => w.setWidth 32
  | none => g.src32 free (uB o) o.b l
def Group.b64 (g : Group) (free : Nat) (o : EOps) (l : Nat) : Dword :=
  match o.lit with
  | some w => w
  | none => g.src64 free (uB o) o.b l
def Group.c32 (g : Group) (free : Nat) (o : EOps) (l : Nat) : Word := g.src32 free (uC o) o.c l
def Group.c64 (g : Group) (free : Nat) (o : EOps) (l : Nat) : Dword := g.src64 free (uC o) o.c l

/-- A, or the literal in its place. -/
def Group.la32 (g : Group) (free : Nat) (o : EOps) (l : Nat) : Word :=
  match o.lit with
  | some w => w.setWidth 32
  | none => g.a32 free o l
def Group.la64 (g : Group) (free : Nat) (o : EOps) (l : Nat) : Dword :=
  match o.lit with
  | some w => w
  | none => g.a64 free o l

/-- A of a uniform instruction, or the literal in its place. -/
def Group.uA32 (g : Group) (free : Nat) (o : EOps) : Word :=
  match o.lit with
  | some w => w.setWidth 32
  | none => g.s1 free o.a.toNat
def Group.uA64 (g : Group) (free : Nat) (o : EOps) : Dword :=
  match o.lit with
  | some w => w
  | none => g.s2 free o.a.toNat

/-! ### The registers an instruction names -/

/-- The registers a field names as sources, or as destinations (R97). -/
def kindRegs (k : OpK) (u : Bool) (f : Nat) : List RegId :=
  match k with
  | .lane n => (List.range n).map (fun i => .v (f + i))
  | .laneU n => (List.range n).map (fun i => if u then .s (f + i) else .v (f + i))
  | .uni n => (List.range n).map (fun i => .s (f + i))
  | .uniSrc => [.s f, .s (f + 1)]
  | .uni16 => (List.range 16).map (fun i => .s (f + i))
  | .cols => if u then (List.range 4).map (fun i => .s (f + i)) else (List.range 32).map (fun i => .v (f + i))
  | .vp => [.w f]
  | .qs => if f = 0 then [] else [.q f]
  | .qd => [.q f]
  | .ks => if f = 0 then [] else [.k f]
  | .kd => [.k f]
  | .zero => []
  | .xi => []
  | .num => []
  | .tile => []

/-- D is read, not written. -/
def OpK.srcInD : OpK → Bool
  | .uniSrc => true
  | _ => false

/-- The registers read (R106). -/
def readsOf (sh : Shape) (o : EOps) : List RegId :=
  (if sh.d.srcInD then kindRegs sh.d false o.d.toNat else []) ++
  (if litInA sh o || unreadA sh o then [] else kindRegs sh.a (uA o) o.a.toNat) ++
  (if litInB sh o || unreadB sh o then [] else kindRegs sh.b (uB o) o.b.toNat) ++ kindRegs sh.c (uC o) o.c.toNat ++
  (match sh.qs with
   | .q => if o.qs = 0 then [] else [.q o.qs.toNat]
   | _ => [])

/-- The registers written (R107). -/
def writesOf (sh : Shape) (o : EOps) : List RegId :=
  if sh.d.srcInD then [] else kindRegs sh.d false o.d.toNat

/-- A register number lies inside the group's allocation (R98). -/
def Group.regIn (g : Group) : RegId → Bool
  | .v n => decide (n < g.info.n32)
  | .s n => decide (n < g.info.nu)
  | .w n => decide (n < g.info.vpn)
  | .q _ => true
  | .k _ => true

/-- Every register the instruction names lies inside the allocation (R98). -/
def Group.regsIn (g : Group) (sh : Shape) (o : EOps) : Bool :=
  (readsOf sh o ++ writesOf sh o).all g.regIn

/-- The lanes, of those in `m`, in which a read of the registers meets a pending long-latency write (R106). -/
def Group.raceLanes (g : Group) (rs : List RegId) (m : Half) : Half :=
  g.pend.foldl (fun acc p =>
    if p.dests.any (fun d => rs.contains d) then acc ||| (p.lanes &&& m) else acc) 0

/-- A uniform register read meets a pending write (R106). -/
def Group.raceUni (g : Group) (rs : List RegId) : Bool :=
  g.pend.any (fun p => p.dests.any (fun d =>
    match d with
    | .s _ => rs.contains d
    | _ => false))

/-- A register to be written has an earlier long-latency write that has not completed (R107). -/
def Group.interlocked (g : Group) (ws : List RegId) : Bool :=
  g.pend.any (fun p => p.dests.any (fun d => ws.contains d))

/-! ### Access to the state's tables -/

def State.putG (s : State) (g : Group) : State := { s with groups := s.groups.put s.cur g }
/-- A core; one that nothing has touched has counted the cycles since its package's reset (R112). -/
def State.core (s : State) (k : Nat) : Core := s.cores.getD k { cyc := s.clock - (s.pkgs.getD (k / 384) {}).born }
def State.putCore (s : State) (k : Nat) (c : Core) : State := { s with cores := s.cores.put k c }

/-- A group is resident on a core: its cohort is, and has not been saved (R69, R75). -/
def State.onCore (s : State) (g : Group) (core : Nat) : Bool := g.core == core && (s.cohorts.get? g.cohort).isSome

/-! ### Counters of the snapshot records (R211) -/

/-- Place n of block b of a package. -/
def cntKey (pkg b n : Nat) : Nat := (pkg * 432 + b) * 32 + n

/-- Counter n of a block rises (R211). -/
def State.bump (s : State) (pkg b n : Nat) (by_ : Nat := 1) : State :=
  { s with counters := s.counters.store 0 (cntKey pkg b n) (s.counters.getD (cntKey pkg b n) 0 + BitVec.ofNat 64 by_) }

/-! ### Containment counters and log (R516, R532) -/

/-- A field of CTNCNT rises, saturating at its width. -/
def bumpField (w : Dword) (lo len n : Nat) : Dword :=
  let old := w.toNat / 2 ^ lo % 2 ^ len
  w + BitVec.ofNat 64 ((min (old + n) (2 ^ len - 1) - old) * 2 ^ lo)

/-- CELANE, CEOTHER, UECNT, ROLLCNT, ESCCNT and MMCNT of a core by their places in CTNCNT. -/
def State.countCtn (s : State) (core lo len n : Nat) : State :=
  if n = 0 then s else s.putCore core { (s.core core) with ctncnt := bumpField (s.core core).ctncnt lo len n }

def State.celane (s : State) (core n : Nat) : State := s.countCtn core 48 16 n
def State.ceother (s : State) (core n : Nat) : State := s.countCtn core 32 16 n
def State.uecnt (s : State) (core n : Nat) : State := s.countCtn core 24 8 n
def State.rollcnt (s : State) (core n : Nat) : State := s.countCtn core 16 8 n
def State.esccnt (s : State) (core n : Nat) : State := s.countCtn core 8 8 n
def State.mmcnt (s : State) (core n : Nat) : State := s.countCtn core 0 8 n

/-- CTNLOG takes the latest uncorrectable error (R532). -/
def State.ctnLog (s : State) (core scope outcome slot file unit : Nat) : State :=
  let w := 2 ^ 31 + scope * 2 ^ 29 + outcome * 2 ^ 26 + slot % 256 * 2 ^ 16 + file * 2 ^ 14 + unit % 1024
  s.putCore core { (s.core core) with ctnlog := BitVec.ofNat 32 w }

/-- Corrections that a change of the group's marks stands for are counted (R516). -/
def State.countFixed (s : State) (g g' : Group) : State :=
  let gone := g.ecc.filter (fun e => decide (e.2 = .correctable) && (g'.ecc.get? e.1).isNone)
  (s.celane g.core (gone.filter (fun e => decide (e.1 < 16384))).length).ceother g.core
    (gone.filter (fun e => decide (16384 ≤ e.1))).length

/-! ### The operand window and the clause -/

/-- Every value of the window is written to its bank, transient or not, oldest first (R111); the code words of the others were
written when they issued (log 41). -/
def Group.flushWindow (g : Group) : Group :=
  { g.window.foldr (fun e (g : Group) => if e.transient then g.putRegs e.outs else g.setRegs e.outs) g with window := [] }

/-- The instruction of the clause that issues next. -/
def Clause.item (c : Clause) : Option Item := c.body[c.idx]?

/-- The index of the next instruction marks it transient (R110). -/
def Clause.isTransient (c : Clause) : Bool := c.tmask.testBit c.idx

/-- Long-latency instructions before the next one, by position (R103). -/
def Clause.llBefore (c : Clause) : Nat := ((c.body.take c.idx).filter (·.ll)).length

/-- The flag that counts the next instruction if it is long-latency; 12 to 15 and a third one: none (R103). -/
def Clause.llFlag (c : Clause) : Nat :=
  match c.llBefore with
  | 0 => c.seta
  | 1 => c.setb
  | _ => 15

/-- The address of the next instruction. -/
def Clause.here (c : Clause) : Dword :=
  match c.item with
  | some i => i.addr
  | none => c.after

/-- A result enters the window: the newest eight issues stay; a result that is not transient is in its bank (R109, R110, log 41).
DESIGN CHOICE: an issued long-latency instruction takes a place of the window too, since a result leaves it when eight more
instructions have issued, of whatever latency (log 86). -/
def Group.pushWindow (g : Group) (outs : List (Nat × Word)) (transient : Bool) : Group :=
  let g := if transient then g else g.putRegs outs
  { g with window := ({ outs := outs, transient := transient } :: g.window).take 8, seq := g.seq + 1 }

/-- The next instruction of the clause is due, or the clause has ended. -/
def Group.advance (g : Group) : Group :=
  match g.clause with
  | none => g
  | some c =>
    let c' := { c with idx := c.idx + 1 }
    if c'.idx < c.body.length then { g with clause := some c', pc := c'.here }
    else { g with clause := none, pc := c.after }

/-- An instruction has issued with these results: window, clause and pc move on (R109, R102). -/
def Group.retire (g : Group) (outs : List (Nat × Word)) : Group :=
  (g.pushWindow outs (match g.clause with
    | some c => c.isTransient
    | none => false)).advance

/-! ### Traps (R116, R218 to R224) -/

def causeIllegal : Nat := 0x01
def causeClause : Nat := 0x02
def causePriv : Nat := 0x03
def causeRegBound : Nat := 0x04
def causeRoleBound : Nat := 0x05
def causeAlign : Nat := 0x06
def causeWindow : Nat := 0x07
def causeSpace : Nat := 0x08
def causeAccess : Nat := 0x09
def causeProtection : Nat := 0x0A
def causeSecurity : Nat := 0x0B
def causePrec : Nat := 0x0C
def causeFp : Nat := 0x0D
def causeEcc : Nat := 0x0E
def causeShadow : Nat := 0x0F
def causePeer : Nat := 0x10
def causeFence : Nat := 0x11
def causeBar : Nat := 0x12
def causeCopy : Nat := 0x13
def causeLaunch : Nat := 0x14
def causeAllowance : Nat := 0x15
def causeSolver : Nat := 0x16
def causePoison : Nat := 0x17
def causeDouble : Nat := 0x18
def causeRace : Nat := 0x19
def causeSoftware : Nat := 0x1F

/-- %tcause (R117). -/
def tcauseOf (t : Trap) (async : Bool) : Word :=
  BitVec.ofNat 32 ((if async then 65536 else 0) + t.sub % 256 * 256 + t.cause % 256)

/-- The group halts and issues nothing more; a cause and a subcode, or for a double fault 0x18 and the second cause, go to the
command processor (R221, R222, R524). -/
def Group.halt (g : Group) (code sub : Nat) : Group := { g with run := .halted code sub, wait := .none }

/-- Trap entry (R220). The trapping point and the clause context saved with it are those of `point` and `saved`; a delivery
at TRET keeps the old ones. -/
def Group.trapEntry (g : Group) (t : Trap) (point : Dword) (saved : Option Clause) (atTret : Bool) : Group :=
  if g.trap.h && !atTret then g.halt causeDouble t.cause
  else if g.trap.tba = 0 then g.halt t.cause t.sub
  else
    let g := g.flushWindow
    { g with
      pc := g.trap.tba
      clause := none
      wait := .none
      region := { g.region with opened := false }
      trap := { g.trap with
        h := true
        saved := if atTret then g.trap.saved else saved
        tpc := if atTret then g.trap.tpc else point
        tcause := tcauseOf t atTret
        taddr := t.addr
        tmask := t.lanes } }

/-- A synchronous trap at the next instruction of the open clause, or at the word that is due (R116, R220). -/
def Group.trapHere (g : Group) (t : Trap) : Group :=
  match g.clause with
  | some c => g.trapEntry t c.here (some c) false
  | none => g.trapEntry t g.pc none false

/-- A trap whose %tmask is %em (R220). -/
def Group.trapEm (g : Group) (cause : Nat) (sub : Nat := 0) (addr : Dword := 0) : Group :=
  g.trapHere { cause := cause, sub := sub, addr := addr, lanes := g.em }

/-- The class of an asynchronous cause (R218). -/
def trapClass (cause : Nat) : Nat :=
  if cause = causeFp ∨ cause = causePrec then 1
  else if cause = causePeer ∨ cause = causeFence ∨ cause = causeBar ∨ cause = causeCopy then 2
  else if cause = causeShadow ∨ cause = causeLaunch ∨ cause = causeAllowance ∨ cause = causeSolver then 3
  else 0

/-- An asynchronous cause arrives: its class's register takes it, or it is discarded and OVERRUN is set (R219). A halted
group's registers are frozen (R221). -/
def Group.post (g : Group) (t : Trap) : Group :=
  match g.run with
  | .running =>
    match g.trap.pending.get? (trapClass t.cause) with
    | some _ => { g with trap := { g.trap with err := g.trap.err ||| 0x10000#32 } }
    | none => { g with trap := { g.trap with pending := g.trap.pending.put (trapClass t.cause) t } }
  | _ => g

/-- The lowest full pending-trap register (R223). -/
def Group.firstPending (g : Group) : Option (Nat × Trap) := g.trap.pending.head?

/-- The pending cause of the lowest class is taken at a clause boundary, or in a blocked wait (R224). -/
def Group.deliver (g : Group) : Group :=
  match g.firstPending with
  | none => g
  | some (c, t) => { g with trap := { g.trap with pending := g.trap.pending.del c } }.trapHere t

/-- A cause that is held reaches the group here: at a clause boundary, or where it is blocked in BAR.WAIT or CWAIT (R224, R371). -/
def Group.trapDue (g : Group) : Bool :=
  g.run == .running && !g.trap.h && !g.trap.pending.isEmpty && !g.region.due &&
  (match g.clause, g.wait with
   | none, .none => true
   | none, .suspended => true
   | some _, .bar _ _ _ => true
   | some _, .cwait _ => true
   | _, _ => false)

/-- The index of an instruction boundary of a clause, at or after the trapping point (R223). -/
def Clause.indexOf (c : Clause) (a : Dword) : Option Nat :=
  ((List.range c.body.length).filter (fun i =>
    decide (c.idx ≤ i) && (match c.body[i]? with
      | some it => it.addr == a
      | none => false))).head?

/-- The return from a trap (R223), for a group with H set. -/
def Group.tret (g : Group) : Group :=
  let g := { g with trap := { g.trap with h := false } }
  match g.firstPending with
  | some (c, t) => ({ g with trap := { g.trap with pending := g.trap.pending.del c } }).trapEntry t 0 none true
  | none =>
    let back :=
      match g.trap.saved with
      | some c => (c.indexOf g.trap.tpc).map (fun i => { c with idx := i })
      | none => none
    { g with pc := g.trap.tpc, clause := back, trap := { g.trap with saved := none } }

/-- Sets bits of %err whose %trapen bit is 0, and says which set bits are enabled (R227). -/
def Group.setErr (g : Group) (bits : Word) : Group :=
  { g with trap := { g.trap with err := g.trap.err ||| bits } }

/-! ### Register errors (R515 to R525) -/

/-- The code-word units of a register. -/
def Group.unitsOf (g : Group) : RegId → List Nat
  | .v n => [n]
  | .s n => [16384 + n / 8]
  | .w j => (List.range g.info.vpc).map (fun i => vpSlice g j i)
  | .q _ => []
  | .k _ => []

/-- The units that an instruction reads and that hold one bad symbol, or (`lost`) more, or a poison syndrome. -/
def Group.badUnits (g : Group) (rs : List RegId) (lost : Bool) : List Nat :=
  (g.ecc.filter (fun e => decide (e.2 ≠ .correctable) == lost && rs.any (fun r => (g.unitsOf r).contains e.1))).map (·.1)

/-- The rollback of a group whose long-latency instructions have completed (R523). -/
def Group.rollback (g : Group) : Group :=
  let g := g.flushWindow
  { g with
    trap := { g.trap with pending := g.trap.pending.filter (fun e => !(decide (e.1 < 2) && decide (g.region.since ≤ e.2.seq))) }
    em := g.region.em
    k := g.region.k
    region := { g.region with rb := g.region.rb + 1, due := false }
    clause := none
    wait := .none
    pc := g.region.entry }

/-- The group may roll back: it is in a region, and has done so less than twice (R523). -/
def Group.canRoll (g : Group) : Bool := g.region.opened && decide (g.region.rb < 2)

/-- The group rolls back now, or when its long-latency instructions have completed (R523). -/
def Group.rollSoon (g : Group) : Group :=
  if g.pend.isEmpty then g.rollback else { g with region := { g.region with due := true }, wait := .none }

/-- An error of a scope reaches a group of key gk from outside it (R527, R528): it rolls back, or escalates (R524). -/
def strikeGroup (s : State) (gk scope : Nat) (roll : Bool) : State :=
  match s.groups.get? gk with
  | none => s
  | some g =>
    match g.run with
    | .running =>
      let s := if !roll then s.esccnt g.core 1 else if g.region.due then s else s.rollcnt g.core 1
      { s with groups := s.groups.put gk (if roll then g.rollSoon else g.halt causeEcc scope) }
    | _ => s

/-- A group consumes an error of group scope at a register read: it rolls back once its long-latency instructions
have completed, escalates, or traps (R523 to R525). -/
def eccConsume (s : State) (g : Group) (unit : Nat) : State × Group :=
  let file := if unit < 16384 then 0 else 1
  let num := if unit < 16384 then unit else (unit - 16384) * 8
  let log := fun (s : State) (o : Nat) => (s.uecnt g.core 1).ctnLog g.core 1 o g.slot file num
  if g.region.opened then
    if g.region.rb < 2 then
      if g.pend.isEmpty then ((log s 1).rollcnt g.core 1, g.rollback) else (s, { g with wait := .suspended })
    else ((log s 3).esccnt g.core 1, g.halt causeEcc 1)
  else (log s 2, g.trapEm causeEcc)

/-! ### The shell of an instruction -/

/-- What an instruction's own effect may be: done, a trap at this instruction, or a hold. -/
inductive Res (α : Type) where
  | ok (a : α)
  | trap (t : Trap)
  | hold (w : Wait)
  deriving DecidableEq, Repr

/-- An instruction's effect: the state outside the group, the group, the register results that enter the window, the place
control goes to, and the long-latency operation it starts. -/
structure Eff where
  s : State
  g : Group
  outs : List (Nat × Word) := []
  jump : Option Dword := none
  pend : Option Pend := none
  /-- the clause context and pc are already set (TRET, a trap inside) -/
  done : Bool := false

/-- The state-dependent checks an entry adds to those of R101: one that raises ILLEGAL_OP, and one that raises
ROLE_BOUND. -/
structure Checks where
  /-- the instruction is held at issue before any check (R548) -/
  hold : State → Group → Bool := fun _ _ => false
  illegal : State → Group → Bool := fun _ _ => false
  role : State → Group → Bool := fun _ _ => false
  /-- registers named beside the operand fields, read and written (R231) -/
  reads : List RegId := []
  writes : List RegId := []
  /-- lane registers read by an index, of whatever number (R253) -/
  indexed : State → Group → List RegId := fun _ _ => []
  /-- where lanes do not read at their own place: the lanes whose reads meet a pending write (R253, R255) -/
  race : Option (State → Group → Half) := none
  /-- the instruction closes an idempotent region, or waits for its long-latency instructions (R521, R522) -/
  closes : Bool := false

/-- A long-latency instruction of an open region has not completed (R522). -/
def Group.regionBusy (g : Group) : Bool := g.region.opened && g.pend.any (fun p => decide (g.region.since ≤ p.seq))

/-- The registers that an instruction reads as operands, by field, by name or by index. -/
def Checks.readsAll (ck : Checks) (sh : Shape) (o : EOps) (s : State) (g : Group) : List RegId :=
  ck.reads ++ readsOf sh o ++ ck.indexed s g

/-- The lanes of %em whose predicate QS meets a pending write: whether they act is open (R106). -/
def Group.raceQs (g : Group) (sh : Shape) (o : EOps) : Half :=
  match sh.qs with
  | .q => if o.qs = 0 then 0 else g.raceLanes [.q o.qs.toNat] g.emPhys
  | _ => 0

/-- The lanes in which the instruction reads a register with a pending long-latency write (R106). -/
def Group.raceAll (g : Group) (ck : Checks) (sh : Shape) (o : EOps) (s : State) : Half :=
  g.raceQs sh o |||
  (match ck.race with
   | some f => f s g
   | none => g.raceLanes (ck.reads ++ readsOf sh o) (g.active sh o s.free))

/-- The effect is applied: the long-latency operation is counted and held (R103), the group moves on. -/
def applyEff (c : Clause) (closes : Bool) (e : Eff) : State :=
  if e.done then e.s.putG e.g
  else
    let g := e.g
    let g := if closes then { g with region := { g.region with opened := false } } else g
    let g :=
      match e.pend with
      | none => g
      | some p =>
        let f := c.llFlag
        let g := { g with pend := g.pend ++ [{ p with id := g.seq, seq := g.seq, flag := f, addr := c.here }] }
        if f < 12 then g.putFlag f (g.flag f + 1) else g
    let g := { g.retire e.outs with wait := g.wait }
    e.s.putG (match e.jump with
      | none => g
      | some a => { g with clause := none, pc := a })

/-- The checks, holds and effect of one instruction of the current group, in the order of R101. -/
def issueG (ck : Checks) (sh : Shape) (o : EOps) (body : State → Group → Res Eff) (s : State) (g : Group) : State :=
  match g.run with
  | .running =>
    match g.clause with
    | none => s.putG (g.trapEm causeClause)
    | some c =>
      if ck.hold s g then s.putG { g with wait := .suspended }
      else if !shapeOk sh o || ck.illegal s g then s.putG (g.trapEm causeIllegal)
      else if sh.priv && !g.id.privileged then s.putG (g.trapEm causePriv)
      else if !(g.regsIn sh o && (ck.reads ++ ck.writes).all g.regIn) then s.putG (g.trapEm causeRegBound)
      else if ck.role s g then s.putG (g.trapEm causeRoleBound)
      else if !(g.acts sh o s.free || (g.trap.trapen.getLsbD 0 && g.raceQs sh o != 0)) then s.putG (g.retire [])
      else if g.interlocked (ck.writes ++ writesOf sh o) || (ck.closes && g.regionBusy) then s.putG { g with wait := .suspended }
      else if !(g.badUnits (ck.readsAll sh o s g) true).isEmpty then
        let p := eccConsume s g ((g.badUnits (ck.readsAll sh o s g) true).headD 0)
        p.1.putG p.2
      else if g.trap.trapen.getLsbD 0 && (g.raceAll ck sh o s != 0) then
        s.putG (g.trapHere { cause := causeRace, lanes := g.fold (g.raceAll ck sh o s) })
      else if g.trap.trapen.getLsbD 0 && g.raceUni (ck.reads ++ readsOf sh o) then s.putG (g.trapEm causeRace)
      else if sh.ll && decide (c.llFlag < 12) && decide (15 ≤ g.flag c.llFlag) then s.putG (g.trapEm causeClause)
      else
        let fixed := { g with ecc := g.ecc.filter (fun e => !(g.badUnits (ck.readsAll sh o s g) false).contains e.1) }
        let s := s.countFixed g fixed
        match body s fixed with
        | .trap t => s.putG (fixed.trapHere t)
        | .hold w => s.putG { fixed with wait := w }
        | .ok e => applyEff c ck.closes e
  | _ => s

/-- The group is held on a translation fault, and issues nothing (R321). -/
def Wait.isHeld : Wait → Bool
  | .held _ => true
  | _ => false

/-- One instruction of the current group. -/
def issueC (ck : Checks) (sh : Shape) (o : EOps) (body : State → Group → Res Eff) (s : State) : Out :=
  match s.groups.get? s.cur with
  | none => .fault .noGroup
  | some g => .next (if g.wait.isHeld || g.region.due then s else issueG ck sh o body s { g with wait := .none })

/-- The checks of a base form (R89, R90, R238). -/
def b3Checks (op : Nat) (sh : Shape) (o : B3Ops) : Checks := { illegal := fun _ _ => !b3Ok op sh o }

def issue (sh : Shape) (o : EOps) (body : State → Group → Res Eff) (s : State) : Out := issueC {} sh o body s

/-- An effect on the group alone, with register results. -/
def okOuts (s : State) (g : Group) (outs : List (Nat × Word)) : Res Eff := .ok { s := s, g := g, outs := outs }

/-- A control transfer to a place (R86, R230). -/
def okJump (s : State) (g : Group) (target : Dword) : Res Eff := .ok { s := s, g := g, jump := some target }

/-- A trap whose %tmask is %em. -/
def trapOf (g : Group) (cause : Nat) (sub : Nat := 0) (addr : Dword := 0) : Res Eff :=
  .trap { cause := cause, sub := sub, addr := addr, lanes := g.em }

/-- A pair of shadow lanes disagrees (R531): counted, and SHADOW_MISMATCH for the visible lanes that differ. -/
def shadowHit (s : State) (g : Group) (diff : Half) (addr : Nat → Dword) : Res Eff :=
  .ok {
    s := s.mmcnt g.core 1
    g := g.trapHere { cause := causeShadow, lanes := diff, addr := addr ((lanesOf diff).headD 0) }
    done := true }

/-- The address of the instruction that issues. -/
def pcOf (g : Group) : Dword :=
  match g.clause with
  | some c => c.here
  | none => g.pc

end Sys2Proof.Machine
end

