-- ==== Sys2Proof/Machine/Trans.lean ====
section
/-!
DEFINITION. Address spaces (R29 to R34), physical memory under its keys (R200, R202), page-table walks, the MTLBs, fault
buffers, and the checks made at the translating die (R51, R470 to R491).
-/

namespace Sys2Proof.Machine

/-! ### Virtual addresses (R29, R31, R34, R38) -/

/-- Bits hi down to lo of a number. -/
def bits (n lo len : Nat) : Nat := n / 2 ^ lo % 2 ^ len

inductive Space where
  | control
  | tensor
  | scratch
  | neigh
  | priv
  | stash
  | reserved
  deriving DecidableEq, Repr

/-- The space, or the local window, of an address (R29, R38). -/
def spaceOf (va : Dword) : Space :=
  match bits va.toNat 62 2 with
  | 0 => .control
  | 1 => .tensor
  | 2 =>
    match bits va.toNat 60 2 with
    | 0 => .scratch
    | 1 => .neigh
    | 2 => .priv
    | _ => .stash
  | _ => .reserved

def Space.global : Space → Bool
  | .control => true
  | .tensor => true
  | _ => false

/-- The package of a control or tensor address, and the lattice die of a tensor address. -/
def vaPkg (va : Dword) : Nat := bits va.toNat 57 5
def vaDie (va : Dword) : Nat := bits va.toNat 55 2
/-- The offset in a local window. -/
def vaOff (va : Dword) : Nat := bits va.toNat 0 60
/-- The region key (R48). -/
def regionKey (va : Dword) : Nat :=
  match spaceOf va with
  | .control => bits va.toNat 57 7
  | .tensor => bits va.toNat 55 9
  | .reserved => bits va.toNat 62 2
  | _ => bits va.toNat 60 4

/-- The translating die (R470). -/
def transDie (va : Dword) : Nat :=
  if spaceOf va = .control then vaPkg va * 4 else vaPkg va * 4 + vaDie va

/-! ### Tables of the state -/

def State.die (s : State) (d : Nat) : Die := s.dies.getD d {}
def State.putDie (s : State) (k : Nat) (d : Die) : State := { s with dies := s.dies.put k d }
def State.cluster (s : State) (k : Nat) : Cluster := s.clusters.getD k {}
def State.putCluster (s : State) (k : Nat) (c : Cluster) : State := { s with clusters := s.clusters.put k c }
def State.asid (s : State) (pkg a : Nat) : AsidEnt := s.asids.getD (pkg * 4096 + a) {}
def State.putAsid (s : State) (pkg a : Nat) (e : AsidEnt) : State := { s with asids := s.asids.put (pkg * 4096 + a) e }
/-- A cohort, resident or saved (R75). -/
def State.cohort (s : State) (k : Nat) : Cohort :=
  match s.cohorts.get? k with
  | some c => c
  | none => (s.saved.getD k {}).cohort
def State.putCohort (s : State) (k : Nat) (c : Cohort) : State :=
  match s.saved.get? k with
  | some x => { s with saved := s.saved.put k { x with cohort := c } }
  | none => { s with cohorts := s.cohorts.put k c }
def State.pkg (s : State) (p : Nat) : Pkg := s.pkgs.getD p {}
def State.putPkg (s : State) (p : Nat) (x : Pkg) : State := { s with pkgs := s.pkgs.put p x }
/-- Key slot k of a package: slot 0 is loaded and enabled at boot (R201). -/
def State.slot (s : State) (pkg k : Nat) : KeySlot := s.slots.getD (pkg * 8192 + k) { en := k == 0 }

/-- The die, the package and the cluster of a core (R14). -/
def dieOfCore (core : Nat) : Nat := core / 96
def pkgOfCore (core : Nat) : Nat := core / 384
def clusterOf (core : Nat) : Nat := core / 96 * 24 + (core % 96 / 8 / 2) * 4 + core % 8 / 2
/-- The four cores of a cluster. -/
def coresOf (cl : Nat) : List Nat :=
  let base := cl / 24 * 96 + (cl % 24 / 4 * 2) * 8 + cl % 24 % 4 * 2
  [base, base + 1, base + 8, base + 9]

/-! ### Control memory and its mirror (R17, R32, R509) -/

/-- A package that some package which is not itself lost has been told is lost (R542). -/
def gonePkg (s : State) (p : Nat) : Bool := s.lost.any (fun e => e.2.getLsbD p && !e.2.getLsbD e.1)

/-- An address in the primary half of a package's control memory. PRESUMED: the half with PA[36] 0 (log 90). -/
def primaryHome (a : Nat) : Bool := bits a 36 4 == 8

/-- Where the mirror partner of an address's package keeps its copy (R17). -/
def mirrorOf (s : State) (a : Nat) : Option Nat :=
  if primaryHome a then (s.partner.get? (a / 2 ^ 40)).map (fun m => m * 2 ^ 40 + a % 2 ^ 40 + 2 ^ 36) else none

/-- Where an address's bytes are served: after the loss of its package, at the mirror (R32, R509). -/
def servedAt (s : State) (a : Nat) : Nat :=
  if gonePkg s (a / 2 ^ 40) then (mirrorOf s a).getD a else a

/-- The places that a write of an address goes to: the primary and the mirror, or the mirror alone. -/
def placesAt (s : State) (a : Nat) : List Nat :=
  if gonePkg s (a / 2 ^ 40) then [servedAt s a] else a :: (mirrorOf s a).toList

/-! ### Physical memory under keys (R200 to R202, R547) -/

/-- The number that stands for the key of a slot: the material that has been written, or the key that the slot had after the package's
reset, slot 0's drawn fresh for each boot. DESIGN CHOICE: slot k > 0 has a key of its own then too, drawn for each boot, and a word
of material that has not been written counts as 0 (log 91). -/
def State.keyId (s : State) (pkg k : Nat) : Nat :=
  match (s.slot pkg k).words with
  | [] => k + ((s.pkg pkg).epoch + 1) * 2 ^ 640
  | ws => ws.foldl (fun n w => n + w.2.toNat * 2 ^ (32 * w.1)) 0

/-- The bits of the key that a number stands for, in a package. -/
def keyBits (pkg kid : Nat) : BitVec 512 := if kid < 2 ^ 512 then BitVec.ofNat 512 kid else Config.freshKey pkg kid

/-- The number of the key under which a line has been written last; at first that of slot 0. -/
def State.sealOf (s : State) (line : Nat) : Nat := s.seals.getD line (2 ^ 640)

/-- A byte of physical memory under the key it was last written under, an unpredictable one where nothing has been written since the
package's reset (R547). -/
def State.raw (s : State) (a : Nat) : Byte :=
  match s.mem.get? (servedAt s a) with
  | some b => b
  | none => Config.coldByte (s.pkg (a / 2 ^ 40)).epoch a

/-- A 128-byte line as a key decrypts what stands in memory (R200, R202). -/
def State.lineUnder (s : State) (kid line : Nat) : List Byte :=
  let pkg := line / 2 ^ 33
  let pa := line * 128 % 2 ^ 40
  let now := (List.range 128).map (fun i => s.raw (line * 128 + i))
  xtsLine true (keyBits pkg kid) pa (xtsLine false (keyBits pkg (s.sealOf line)) pa now)

/-- A byte of physical memory read under a key. -/
def State.rdB (s : State) (kid a : Nat) : Byte :=
  if s.sealOf (a / 128) = kid then s.raw a else (s.lineUnder kid (a / 128)).getD (a % 128) 0

/-- A byte is written to memory, at the primary and at the mirror. -/
def State.rawPut (s : State) (a : Nat) (b : Byte) : State := { s with mem := (placesAt s a).foldl (fun m x => m.put x b) s.mem }

/-- The 128-byte line takes a key: its bytes become what they decrypt to under it (R200, R202). -/
def State.reseal (s : State) (kid line : Nat) : State :=
  if s.sealOf line = kid then s
  else
    let t := (s.lineUnder kid line).zipIdx.foldl (fun (t : State) b => t.rawPut (line * 128 + b.2) b.1) s
    { t with seals := t.seals.store (2 ^ 640) line kid }

/-- Writes one byte of physical memory under a key. -/
def State.wrB (s : State) (kid a : Nat) (b : Byte) : State := (s.reseal kid (a / 128)).rawPut a b

/-- Eight bytes of physical memory under a key, little-endian. -/
def State.rd64 (s : State) (kid a : Nat) : Dword :=
  BitVec.ofNat 64 ((List.range 8).foldl (fun n i => n + (s.rdB kid (a + i)).toNat * 2 ^ (8 * i)) 0)

def State.wr64 (s : State) (kid a : Nat) (d : Dword) : State :=
  (List.range 8).foldl (fun s i => s.wrB kid (a + i) (d.extractLsb' (8 * i) 8)) s

/-! ### Sets of lines and their victims (R287, R289) -/

/-- The mark that a cache hint gives (R289); `full`: the set holds its limit of EL lines. -/
def markAfter (old : Option Mark) (hint : Nat) (full : Bool) : Mark :=
  match old with
  | some .el => .el
  | _ => if hint = 2 then (if full then .normal else .el) else if hint = 1 then .ef else .normal

/-- EF lines are given up first, then normal ones, then EL ones. -/
def Mark.rank : Mark → Nat
  | .ef => 0
  | .normal => 1
  | .el => 2

/-- A line is given up before another: by rank, then the one least recently touched. -/
def goesBefore (a b : Nat × Mark × Nat) : Bool :=
  decide (a.2.1.rank < b.2.1.rank) || (a.2.1.rank == b.2.1.rank && decide (a.2.2 ≤ b.2.2))

/-- The lines that share a key's set, with their marks and last touches. -/
def setOf (sets key : Nat) (t : List (Nat × Mark × Nat)) : List (Nat × Mark × Nat) := t.filter (fun e => e.1 % sets == key % sets)

/-- The line that a full set of some ways gives up for a key (R289). -/
def victimOf (sets ways key : Nat) (t : List (Nat × Mark × Nat)) : Option Nat :=
  let l := setOf sets key t
  if l.length < ways || l.any (fun e => e.1 == key) then none
  else ((l.find? (fun e => l.all (goesBefore e))).map (·.1))

/-- A set holds its limit of EL lines. -/
def elFull (sets limit key : Nat) (t : List (Nat × Mark × Nat)) : Bool :=
  decide (limit ≤ ((setOf sets key t).filter (fun e => e.2.1 == .el)).length)

def waysOf (t : Tab Way) : List (Nat × Mark × Nat) := t.map (fun e => (e.1, e.2.mark, e.2.last))

/-- A table of a cache's lines in which one is touched or filled. -/
def touchWay (t : Tab Way) (sets ways limit key hint now : Nat) : Tab Way :=
  let t := match victimOf sets ways key (waysOf t) with
    | some v => t.del v
    | none => t
  let old := t.get? key
  t.put key { (old.getD {}) with mark := markAfter (old.map (·.mark)) hint (elFull sets limit key (waysOf t)), last := now }

/-! ### The MSCs (R16, R287, R289, R293) -/

/-- The die and stack position of an HBM line (R477). -/
def mscOf (line : Nat) : Nat × Bool := (line * 128 / 2 ^ 40 * 4 + bits (line * 128) 37 2, (line * 128).testBit 36)

/-- The line lies in HBM. -/
def inHbm (line : Nat) : Bool := bits (line * 128) 37 3 < 4

/-- The snapshot block of an MSC (R211). -/
def mscBlock (m : Nat × Bool) : Nat := 384 + m.1 % 4 * 2 + m.2.toNat

def Die.msc (d : Die) (b : Bool) : Tab Way := if b then d.mscb else d.msca
def Die.wq (d : Die) (b : Bool) : List Nat := if b then d.wqb else d.wqa
def Die.putWq (d : Die) (b : Bool) (q : List Nat) : Die := if b then { d with wqb := q } else { d with wqa := q }

/-- The MSC in front of an HBM line is accessed: the line is filled or touched, with the mark of a hint; what it gives up is written to
HBM where it is newer. -/
def touchMsc (s : State) (line hint : Nat) (write : Bool) : State :=
  if !inHbm line then s
  else
    let m := mscOf line
    let d := s.die m.1
    let t := d.msc m.2
    let s := if (t.get? line).isSome then s else s.bump (m.1 / 4) (mscBlock m) 0
    let s := match victimOf 8192 16 line (waysOf t) with
      | some v => if (t.getD v {}).dirty then s.bump (m.1 / 4) (mscBlock m) 1 else s
      | none => s
    let t := touchWay t 8192 16 12 line hint d.mscTouches
    let w := t.getD line {}
    let t := t.put line { w with dirty := w.dirty || write }
    s.putDie m.1 { (if m.2 then { d with mscb := t } else { d with msca := t }) with mscTouches := d.mscTouches + 1 }

/-- The queue of a port has no entry for a line, and no room for one (R293, R295). -/
def queueFull (q : List Nat) (cap line : Nat) : Bool := !q.contains line && decide (cap ≤ q.length)

/-- A write, an atomic or a reduction joins its line's entry. -/
def joinQueue (q : List Nat) (line : Nat) : List Nat := if q.contains line then q else q ++ [line]

/-- A write joins the queue of the memory-side port of its line; a write-back that a full queue refuses is sent again until an entry has
drained (R24, R295). -/
def mscWrite (s : State) (line hint : Nat) : State :=
  if !inHbm line then s
  else
    let m := mscOf line
    let full := queueFull ((s.die m.1).wq m.2) 256 line
    let s := if full then s.bump (m.1 / 4) (mscBlock m) 2 else s
    let q := (s.die m.1).wq m.2
    let s := s.putDie m.1 ((s.die m.1).putWq m.2 (joinQueue (if full then q.drop 1 else q) line))
    touchMsc s line hint true

/-! ### Table entries (R474, R475, R477) -/

def entV (w : Dword) : Bool := w.getLsbD 0
def entLeaf (w : Dword) : Bool := w.getLsbD 1
def entR (w : Dword) : Bool := w.getLsbD 5
def entW (w : Dword) : Bool := w.getLsbD 6
def entX (w : Dword) : Bool := w.getLsbD 7
def entA (w : Dword) : Bool := w.getLsbD 8
def entD (w : Dword) : Bool := w.getLsbD 9
def entPriv (w : Dword) : Bool := w.getLsbD 10
def entWorld (w : Dword) : Bool := w.getLsbD 11
def entFwd (w : Dword) : Bool := w.getLsbD 12
def entMoving (w : Dword) : Bool := w.getLsbD 13
def entClass (w : Dword) : Nat := bits w.toNat 14 2
/-- ADDR as a physical address. -/
def entPa (w : Dword) : Nat := bits w.toNat 16 32 * 256
def entKey (w : Dword) : Nat := bits w.toNat 51 13

def classPrivate : Nat := 0
def classReadOnly : Nat := 1
def classShared : Nat := 2

/-- The low VA bit that indexes a tier (R474). -/
def tierShift (t : Nat) : Nat :=
  match t with
  | 0 => 48
  | 1 => 39
  | 2 => 30
  | 3 => 21
  | _ => 16

def tierBits (ctl : Bool) (t : Nat) : Nat :=
  match t with
  | 0 => if ctl then 9 else 7
  | 4 => 5
  | _ => 9

/-- ADDR is aligned to the page size of a leaf, or to the next table's size; a forward leaf holds only the die (R475). -/
def entAligned (t : Nat) (w : Dword) : Bool :=
  if entLeaf w then (if entFwd w then bits w.toNat 18 30 == 0 else entPa w % 2 ^ tierShift t == 0)
  else entPa w % (if t = 3 then 256 else 4096) == 0

/-- An entry with V = 1 breaks R475 (R474). -/
def entBroken (ctl : Bool) (t : Nat) (w : Dword) : Bool :=
  bits w.toNat 48 3 != 0 || bits w.toNat 2 3 != 0 || (!entLeaf w && bits w.toNat 8 8 != 0) ||
  (entLeaf w && decide (t < 2)) || (!entLeaf w && t == 4) || !entAligned t w ||
  (ctl && entLeaf w && (entClass w == 3 || entFwd w))

/-- Where a walk ends: an entry with V = 0, an entry or a root declared invalid, or a leaf (R474). -/
inductive WalkEnd where
  | fault
  | invalid
  | leaf (e : TlbEnt)
  deriving DecidableEq, Repr

/-- An entry of a tier, from the MTLBs or from memory. DESIGN CHOICE: a tier-0 table is read under key slot 0, and a table that an
entry names under that entry's slot (log 15). -/
def entryAt (s : State) (d : Die) (asid t base : Nat) (back : Bool) (ent slot : Nat) : TlbEnt :=
  match d.mtlb2.find? (fun e => e.asid == asid && e.tier == t && e.base == base && e.back == back) with
  | some e => e
  | none => { asid := asid, tier := t, base := base, back := back, word := s.rd64 (s.keyId (ent / 2 ^ 40) slot) ent, ent := ent, slot := slot }

/-- The walk of one table from a tier on (R474): the entries read, and where it ends. -/
def walkTiers (s : State) (d : Die) (pkg asid : Nat) (back : Bool) (va : Dword) : List Nat → Nat → Nat → List TlbEnt × WalkEnd
  | [], _, _ => ([], .invalid)
  | t :: ts, table, slot =>
    let idx := bits va.toNat (tierShift t) (tierBits (spaceOf va = .control) t)
    let e := entryAt s d asid t (va.toNat / 2 ^ tierShift t) back (pkg * 2 ^ 40 + (table + 8 * idx) % 2 ^ 40) slot
    if !entV e.word then ([e], .fault)
    else if entBroken (spaceOf va = .control) t e.word then ([e], .invalid)
    else if entLeaf e.word then ([e], .leaf e)
    else
      let r := walkTiers s d pkg asid back va ts (entPa e.word) (entKey e.word)
      (e :: r.1, r.2)

/-- A walk at a die, from the root of its table or of its backing table (R474, R478). -/
def walk (s : State) (dk asid : Nat) (back : Bool) (va : Dword) : List TlbEnt × WalkEnd :=
  let e := s.asid (dk / 4) asid
  let n := if spaceOf va = .control then 0 else dk % 4
  let root := (if back then e.broot else e.root).getD n 0
  if root = 0 then ([], .invalid) else walkTiers s (s.die dk) (dk / 4) asid back va [0, 1, 2, 3, 4] root.toNat 0

/-- The MTLB entry that maps an address, in MTLB-1 of the MSC that VA[16] selects, or in MTLB-2 (R471). -/
def Die.lookup (d : Die) (asid : Nat) (back : Bool) (va : Dword) : Option TlbEnt :=
  let hit := fun (e : TlbEnt) =>
    entLeaf e.word && e.asid == asid && e.back == back && e.base == va.toNat / 2 ^ tierShift e.tier
  match (if va.getLsbD 16 then d.mtlb1b else d.mtlb1a).find? hit with
  | some e => some e
  | none => d.mtlb2.find? hit

/-- Puts entries in the MTLBs, at most 1,024 leaves in MTLB-1 and 16,384 entries in MTLB-2, oldest out (R471, log 13). -/
def Die.fillTlb (d : Die) (va : Dword) (es : List TlbEnt) : Die :=
  let old := fun (l : List TlbEnt) => l.filter (fun e =>
    !es.any (fun n => n.asid == e.asid && n.tier == e.tier && n.base == e.base && n.back == e.back))
  let leaves := es.filter (fun e => entLeaf e.word)
  let d := { d with mtlb2 := (es ++ old d.mtlb2).take 16384 }
  if va.getLsbD 16 then { d with mtlb1b := (leaves ++ old d.mtlb1b).take 1024 }
  else { d with mtlb1a := (leaves ++ old d.mtlb1a).take 1024 }

/-- The leaf that maps an address at a die, with the MTLBs filled. -/
def leafAt (s : State) (dk asid : Nat) (back : Bool) (va : Dword) : State × WalkEnd :=
  match (s.die dk).lookup asid back va with
  | some e => (s.putDie dk ((s.die dk).fillTlb va [e]), .leaf e)
  | none =>
    let r := walk s dk asid back va
    let s := (r.1.filter (fun e => !(s.die dk).mtlb2.contains e)).foldl (fun s e => touchMsc s (e.ent / 128) 0 false) s
    match r.2 with
    | .leaf e => (s.putDie dk ((s.die dk).fillTlb va (r.1.filter (fun x => entV x.word))), .leaf e)
    | x => (s, x)

/-! ### A translation and its checks (R51, R54, R56, R473, R476, R477) -/

/-- The outcome of a translation: a physical address (package × 2^40 + PA) with its leaf; a translation fault reported by a
die at the address that was translated; a cause raised at the translating die; or a refusal of a MOVING page (R491). -/
inductive Xl where
  | ok (pa : Nat) (e : TlbEnt)
  | fault (die : Nat) (va : Dword)
  | cause (c : Nat)
  | refuse (hint : Nat)
  deriving DecidableEq, Repr

/-- The region descriptor that covers a physical address of a package (R477). -/
def State.region (s : State) (pkg pa : Nat) : Option RegionDesc :=
  (List.range 64).findSome? (fun i =>
    match s.descs.get? (pkg * 64 + i) with
    | some r => if r.base.toNat ≤ pa ∧ pa < r.limit.toNat then some r else none
    | none => none)

/-- A leaf points outside every region, into the other kind of memory, into another die's memory, or into the mirror half (R16, R17,
R56, R477). -/
def badRegion (s : State) (ctl : Bool) (dk pa : Nat) : Bool :=
  match s.region (dk / 4) pa with
  | none => true
  | some r => (r.attr.getLsbD 0 != ctl) || (if ctl then !primaryHome pa else bits pa 37 3 != dk % 4)

/-- Checks 9 and 10 of R51 on a leaf: world, permission, privilege and key slot (R33, R54, R201). -/
def leafCheck (s : State) (pkg pa : Nat) (leaf : Dword) (r : TransReq) : Option Nat :=
  let secure := entWorld leaf || (match s.region pkg pa with
    | some d => d.attr.getLsbD 1
    | none => false)
  let k := s.slot pkg (entKey leaf)
  if secure && !r.world then some causeSecurity
  else if (r.fetch && !entX leaf) then some causeAccess
  else if (r.read && !entR leaf) || (r.write && !entW leaf) || (entPriv leaf && !r.privileged) || !k.en ||
    (k.world && !entWorld leaf) then some causeProtection
  else none

/-- The request's ASID and generation agree with the ASID table of the translating package, and that with the requester's own
(R478, R479). -/
def asidOk (s : State) (dk : Nat) (r : TransReq) : Bool :=
  let e := s.asid (dk / 4) r.asid
  let own := s.asid r.who.pkg r.asid
  e.en && e.gen == r.gen && own.en == e.en && own.gen == e.gen

/-- The accessed and dirty bits of a leaf are set in memory and in the MTLBs (R476). -/
def setAD (s : State) (dk : Nat) (r : TransReq) (e : TlbEnt) : State × TlbEnt :=
  if r.spec then (s, e)
  else
    let w := e.word ||| 0x100#64 ||| (if r.write then 0x200#64 else 0)
    if w = e.word then (s, e)
    else
      let e' := { e with word := w }
      let kid := s.keyId (e.ent / 2 ^ 40) e.slot
      let s := s.wr64 kid e.ent (s.rd64 kid e.ent ||| 0x100#64 ||| (if r.write then 0x200#64 else 0))
      (s.putDie dk ((s.die dk).fillTlb r.va [e']), e')

/-- The checks and updates that end a translation by a leaf at a die (R476, R477). -/
def xlLeaf (s : State) (dk : Nat) (r : TransReq) (e : TlbEnt) : State × Xl :=
  let span := 2 ^ tierShift e.tier
  let pa := entPa e.word + r.va.toNat % span
  if badRegion s (spaceOf r.va = .control) dk pa then (s, .cause causeAccess)
  else
    match leafCheck s (dk / 4) pa e.word r with
    | some c => (s, .cause c)
    | none =>
      let p := setAD s dk r e
      (p.1, .ok (dk / 4 * 2 ^ 40 + pa) p.2)

/-- The translation of a request at its translating die (R470 to R479, R491). -/
def xlate (s : State) (r : TransReq) : State × Xl :=
  let dk := transDie r.va
  let ctl := spaceOf r.va = .control
  let asid := if ctl then 0 else r.asid
  -- a request of another package that misses starts the walk and is refused; its re-send finds the result (R472)
  let miss := decide (r.who.pkg ≠ dk / 4) && !r.spec && ((s.die dk).lookup asid false r.va).isNone
  if !asidOk s dk r then (s, .cause causeAccess)
  else
    match leafAt s dk asid false r.va with
    | (s, .fault) => (s, .fault dk r.va)
    | (s, .invalid) => (s, .cause causeAccess)
    | (s, .leaf e) =>
      if miss then (s, .refuse (s.die dk).fhint.toNat)
      else if entMoving e.word then (s, .refuse (s.die dk).mhint.toNat)
      else if entFwd e.word then
        let bk := dk / 4 * 4 + bits e.word.toNat 16 2
        match leafAt s bk asid true r.va with
        | (s, .fault) => (s, .fault bk r.va)
        | (s, .invalid) => (s, .cause causeAccess)
        | (s, .leaf e') => if entMoving e'.word then (s, .refuse (s.die bk).mhint.toNat) else xlLeaf s bk r e'
      else xlLeaf s dk r e

/-! ### The fault buffer (R481 to R487) -/

/-- The die sends its fault MSI (R487). -/
def sendFaultMsi (s : State) (dk : Nat) : State :=
  let d := s.die dk
  if d.msie then { s with msis := s.msis ++ [{ pkg := dk / 4, addr := d.msiAddr, data := d.msiData }] } else s

/-- The VALID entry of a granule and ASID. -/
def Die.faultOf (d : Die) (asid : Nat) (va : Dword) : Option Nat :=
  (d.faults.find? (fun e => e.2.asid == asid && e.2.va.toNat / 65536 == va.toNat / 65536)).map (·.1)

/-- The lowest FREE entry. -/
def Die.freeFault (d : Die) : Option Nat := (List.range 8).find? (fun i => (d.faults.get? i).isNone)

/-- A translation fault of a demand access is recorded, coalesced or dropped (R481, R482, R484, R487); the entry it is on. -/
def recordFault (s : State) (dk : Nat) (r : TransReq) : State × Option Nat :=
  let d := s.die dk
  match d.faultOf r.asid r.va with
  | some i =>
    let d := { d with faults := match d.faults.get? i with
      | some e => d.faults.put i { e with count := min (e.count + 1) 0xFFF, wr := e.wr || r.write }
      | none => d.faults }
    (s.putDie dk d, some i)
  | none =>
    match d.freeFault with
    | some i =>
      let first := d.faults.isEmpty
      let e : FaultEnt := { va := r.va &&& ~~~0xFFFF#64, asid := r.asid, gen := r.gen, wr := r.write, ty := r.ty, who := r.who }
      let s := s.putDie dk { d with faults := d.faults.put i e }
      (if first then sendFaultMsi s dk else s, some i)
    | none =>
      let s' := s.putDie dk { d with dropped := true, dcnt := min (d.dcnt + 1) 0xFFFF }
      (if d.dropped then s' else sendFaultMsi s' dk, none)

/-- Whose refusal counter a requester's refusals raise; a copy channel's is its REF (R360). -/
def Waiter.initiator : Waiter → Option Initiator
  | .load g _ => some (.group g)
  | .burrow g => some (.group g)
  | .fetch g => some (.group g)
  | .group g => some (.group g)
  | .conf g _ => some (.group g)
  | .ratom g _ => some (.group g)
  | .copy _ _ => none
  | .tile core => some (.tile core)
  | .solver die _ => some (.solver die)
  | .coll die _ => some (.coll die)
  | .hub pkg _ => some (.hub pkg)
  | .cp pkg _ => some (.hub pkg)
  | .launch pkg _ => some (.hub pkg)

/-- One more refusal of an initiator. -/
def countRefusal (i : Initiator) (l : List (Initiator × Nat)) : List (Initiator × Nat) :=
  if l.any (fun e => e.1 == i) then l.map (fun e => if e.1 == i then (i, e.2 + 1) else e) else l ++ [(i, 1)]

/-- A request is refused: its initiator counts the refusal, and sends it again after the hint (R23, R24). -/
def State.refuse (s : State) (w : Waiter) (hint : Nat) : State :=
  { s with
    refused := s.refused ++ [{ who := w, hint := hint }]
    refusals := match w.initiator with
      | some i => countRefusal i s.refusals
      | none => s.refusals }

/-- The fault is recorded, and its requester waits for a replay (R481); a requester of another package is refused and
re-sends (R486). -/
def holdFault (s : State) (dk : Nat) (r : TransReq) (w : Waiter) : State :=
  let p := recordFault s dk r
  if r.who.pkg = dk / 4 then
    p.1.putDie dk { p.1.die dk with held := (p.1.die dk).held ++ [{ who := w, entry := p.2 }] }
  else p.1.refuse w (p.1.die dk).fhint.toNat

/-- A re-send raises neither COUNT nor DCNT of a die of another package (R486): those stay as they were in `old`. -/
def uncount (s : State) (pkg : Nat) (old : Tab Die) : State :=
  { s with dies := s.dies.map (fun (e : Nat × Die) =>
      if e.1 / 4 = pkg then e
      else
        let o := old.getD e.1 {}
        (e.1, { e.2 with
          dcnt := min e.2.dcnt (max o.dcnt 1)
          faults := e.2.faults.map (fun f => match o.faults.get? f.1 with
            | some x => (f.1, { f.2 with count := x.count })
            | none => f) })) }

/-- A speculative access is dropped at a die (R490). -/
def specDrop (s : State) (dk : Nat) : State :=
  s.putDie dk { s.die dk with specDrop := (s.die dk).specDrop + 1 }

end Sys2Proof.Machine
end

