-- ==== Sys2Proof/Machine/Port.lean ====
section
/-!
DEFINITION. Spewlink ports as senders (R435 to R438, R534 to R542): which packages can be reached, the queues of the virtual channels, and
the arbitration among them.
-/

namespace Sys2Proof.Machine

def State.port (s : State) (pkg p : Nat) : Port := s.ports.getD (pkg * 24 + p) {}
def State.putPort (s : State) (pkg p : Nat) (x : Port) : State := { s with ports := s.ports.put (pkg * 24 + p) x }

/-- A package has been told that another is lost; a package that declared itself lost has lost every other (R542). -/
def State.lostTo (s : State) (p q : Nat) : Bool := (s.lost.getD p 0).getLsbD q

/-! ### Routes (R542) -/

/-- Packages next to a package over ports of some states. -/
def nextPkgs (s : State) (ok : Port → Bool) (p : Nat) : List Nat :=
  (s.ports.filter (fun e => e.1 / 24 == p && ok e.2)).filterMap (fun e => e.2.peer)

/-- Packages reached from some, in at most n links. -/
def reachFrom (s : State) (ok : Port → Bool) : Nat → List Nat → List Nat
  | 0, ps => ps
  | n + 1, ps => reachFrom s ok n (ps ++ (ps.flatMap (nextPkgs s ok)).filter (fun q => !ps.contains q)).eraseDups

def reaches (s : State) (ok : Port → Bool) (p q : Nat) : Bool := p == q || (reachFrom s ok 32 [p]).contains q

/-- A port still carries messages, now or after a retrain. -/
def Port.routed (x : Port) : Bool := x.st != .down && !x.removed && !x.mgmtOnly && x.st != .train

/-- Messages between two packages move: no port on their way is in SPARE or RETRAIN, or another way is up (R541). -/
def pathUp (s : State) (p q : Nat) : Bool := reaches s (fun x => x.routed && x.st == .up) p q || !reaches s Port.routed p q

/-- Messages of package p to the owner of an address move (R541). -/
def upVa (s : State) (p : Nat) (va : Dword) : Bool := !(spaceOf va).global || pathUp s p (vaPkg va)

/-- The package of an address, where it has been declared lost to package p (R32, R362): that of a control home is served by its mirror. -/
def lostVa (s : State) (p : Nat) (va : Dword) : Option Nat :=
  if spaceOf va = .tensor ∧ s.lostTo p (vaPkg va) then some (vaPkg va) else none

/-- The port over which messages of package p leave for package q: one to q itself, else one to a package that reaches q (R542). -/
def portTo (s : State) (p q : Nat) : Option Nat :=
  let out := s.ports.filter (fun e => e.1 / 24 == p && e.2.routed)
  match out.find? (fun e => e.2.peer == some q) with
  | some e => some (e.1 % 24)
  | none => (out.find? (fun e => e.2.peer.any (fun r => reaches s Port.routed r q))).map (·.1 % 24)

/-! ### Messages on their way out (R534, R535) -/

def vcCreq : Nat := 0
def vcCrsp : Nat := 1
def vcTreq : Nat := 2
def vcTdat : Nat := 3
def vcColl : Nat := 4
def vcMgmt : Nat := 5

/-- A data flit of a message, before it is sent. What its payload holds of the message is open. -/
def dataFlit (vc seed : Nat) : Flit :=
  { vc := BitVec.ofNat 8 vc, ty := 1, seq := 0, ack := 0, xoff := 0, last := 0, payload := Config.flitPayload seed }

def Port.queue (x : Port) (vc : Nat) : List (Nat × Flit) := x.txq.getD vc []
def Port.putQueue (x : Port) (vc : Nat) (l : List (Nat × Flit)) : Port := { x with txq := x.txq.store [] vc l }

/-- A message of package p to package q joins its virtual channel at the port of its route. DESIGN CHOICE: n bytes of it take one flit for
each 112 bytes, and at least one (log 98). -/
def transmit (s : State) (p q vc : Nat) (n : Nat := 0) : State :=
  if p = q then s
  else
    match portTo s p q with
    | none => s
    | some i =>
      let x := s.port p i
      s.putPort p i (x.putQueue vc (x.queue vc ++ (List.range (max 1 ((n + 111) / 112))).map (fun k => (q, dataFlit vc (s.free * 4096 + k)))))

/-! ### Flows (R539) -/

/-- A flow from a package to another is set to ordered delivery at the second. -/
def flowOrdered (s : State) (src dest flow : Nat) : Bool := (s.flowcfg.getD (dest * 16 + flow) 0).getLsbD src

/-! ### Arbitration (R436 to R438) -/

/-- The arbitration register of a port (R437). -/
def State.carbReg (s : State) (pkg port : Nat) : Word := s.carb.getD (pkg * 24 + port) 0x8800#32

/-- The channels that share a weight: TREQ and TDAT do. -/
def vcShare (vc : Nat) : Nat := if vc = vcTdat then vcTreq else vc

/-- The flits that the channels of a weight may send in a round, of an arbitration register's WT and WC. -/
def shareWeight (w : Word) (vc : Nat) : Nat :=
  if vcShare vc = vcTreq then bits w.toNat 12 4 else if vc = vcColl then bits w.toNat 8 4 else 8

/-- A channel is not skipped: it holds a flit, and the receiver's newest XOFF leaves it on (R536). -/
def Port.offers (x : Port) (vc : Nat) : Bool := !(x.queue vc).isEmpty && !x.xoffRx.getLsbD vc && (!x.mgmtOnly || vc == vcMgmt)

def Port.usedBy (x : Port) (vc : Nat) : Nat := x.used.getD (vcShare vc) 0

/-- One of a list, as an open number says. -/
def pickOf (n : Nat) (l : List Nat) : Option Nat := l[n % l.length]?

/-- The channel whose flit a port sends next, and what the channels of its round have sent before that: MGMT before any other; a channel
with weight left; where every one with a weight has used it, a new round; where those are all skipped, one of weight 0. Which of
several a round serves first is open. -/
def Port.next (x : Port) (w : Word) (pick : Nat) : Option (Nat × Tab Nat) :=
  if x.offers vcMgmt then some (vcMgmt, x.used)
  else
    let on := [vcCreq, vcCrsp, vcTreq, vcTdat, vcColl].filter x.offers
    let heavy := on.filter (fun v => shareWeight w v != 0)
    let left := heavy.filter (fun v => decide (x.usedBy v < shareWeight w v))
    match pickOf pick left, pickOf pick heavy, pickOf pick on with
    | some v, _, _ => some (v, x.used)
    | none, some v, _ => some (v, [])
    | none, none, some v => some (v, [])
    | none, none, none => none

/-- The fields that the port gives to each flit that it sends (R534, R536). -/
def Port.stamp (x : Port) (f : Flit) : Flit := { f with ack := BitVec.ofNat 16 ((x.rxSeq + 4095) % 4096), xoff := x.xoffTx }

/-- A port sends one flit (R438, R538): a NAK that is due; a flit of the replay buffer that is to be sent again; or, while that buffer has
room, a new one. -/
def portSend (s : State) (pkg p : Nat) : State :=
  let x := s.port pkg p
  let sent := fun (y : Port) => (s.putPort pkg p y).bump pkg (400 + p) 0
  if x.st ≠ .up then s
  else if x.nak.isSome then sent { x with nak := none }
  else if 0 < x.resend then sent { x with resend := x.resend - 1 }
  else if 256 ≤ x.replay.length then s
  else
    match x.next (s.carbReg pkg p) (Config.racePick s.free (pkg * 24 + p)) with
    | none => s
    | some (vc, used) =>
      match x.queue vc with
      | [] => s
      | (q, f) :: rest =>
        let used := if vc = vcMgmt then used else used.put (vcShare vc) (used.getD (vcShare vc) 0 + 1)
        let f := { x.stamp f with seq := BitVec.ofNat 16 x.txSeq }
        sent { (x.putQueue vc rest) with used := used, txSeq := (x.txSeq + 1) % 4096, replay := x.replay ++ [(q, f)] }

/-- The ports send: how many flits each is open. -/
def sendAll (s : State) : State :=
  s.ports.foldl (fun s e =>
    (List.range (Config.racePick s.free (2 ^ 20 + e.1))).foldl (fun s _ => portSend { s with free := s.free + 1 } (e.1 / 24) (e.1 % 24)) s) s

end Sys2Proof.Machine
end

