-- ==== Sys2Proof/Machine/Coh.lean ====
section
/-!
DEFINITION. Cached lines, marks, stash entries, tokens and homes: the steps of the coherence protocol that the accesses of the
memory port, the events of the coherence engine and the translation engine's removals share (R287 to R292, R306,
R496 to R508).
-/

namespace Sys2Proof.Machine

/-! ### Line tags and marks (R289, R473) -/

/-- The tag of a line: ASID, generation and line address; a control line carries ASID 0 (R473). -/
def tagOf (asid gen : Nat) (va : Dword) : Nat := (asid * 16 + gen) * 2 ^ 57 + va.toNat / 128
def tagVa (tag : Nat) : Nat := tag % 2 ^ 57 * 128
def tagGen (tag : Nat) : Nat := tag / 2 ^ 57 % 16
def tagAsid (tag : Nat) : Nat := tag / 2 ^ 61
/-- The tag names a line of control space. -/
def tagCtl (tag : Nat) : Bool := tagVa tag / 2 ^ 62 == 0

/-- The lines of a CLC, with their marks and last touches. -/
def Cluster.ways (c : Cluster) : List (Nat × Mark × Nat) := c.lines.map (fun e => (e.1, e.2.mark, e.2.last))

/-- A line of a CLC is touched with a hint, of a CLC's 1,024 sets of 16 ways (R287, R289, log 16); `new`: it was not there. -/
def Cluster.touch (c : Cluster) (key hint : Nat) (new : Bool := false) : Cluster :=
  match c.lines.get? key with
  | none => c
  | some l =>
    let mark := markAfter (if new then none else some l.mark) hint (elFull 1024 12 key c.ways)
    { c with lines := c.lines.put key { l with mark := mark, last := c.touches }, touches := c.touches + 1 }

/-- A line of an L1, of 128 sets of 4 ways, is filled or touched. -/
def Core.touchL1 (c : Core) (key hint : Nat) : Core :=
  { c with l1 := touchWay c.l1 128 4 3 key hint c.touches, touches := c.touches + 1 }

/-! ### Bytes of a line -/

def byteOf (d : BitVec 1024) (i : Nat) : Byte := d.extractLsb' (8 * i) 8
def putByte (d : BitVec 1024) (i : Nat) (b : Byte) : BitVec 1024 :=
  (d &&& ~~~(0xFF#1024 <<< (8 * i))) ||| (b.setWidth 1024 <<< (8 * i))

/-- The package of a physical line and the key of a leaf there. -/
def kidOf (s : State) (phys : Nat) (leaf : Dword) : Nat := s.keyId (phys * 128 / 2 ^ 40) (entKey leaf)

/-- The 128 bytes of a physical line, read under the leaf's key. -/
def memLine (s : State) (phys : Nat) (leaf : Dword) : BitVec 1024 :=
  let kid := kidOf s phys leaf
  BitVec.ofNat 1024 ((List.range 128).foldl (fun n i => n + (s.rdB kid (phys * 128 + i)).toNat * 2 ^ (8 * i)) 0)

/-- The bytes of a mask are written to a physical line. -/
def storeMask (s : State) (phys : Nat) (leaf : Dword) (data : BitVec 1024) (mask : BitVec 128) : State :=
  let kid := kidOf s phys leaf
  (List.range 128).foldl (fun s i => if mask.getLsbD i then s.wrB kid (phys * 128 + i) (byteOf data i) else s) s

/-! ### Write-backs of tensor lines, and their order (R155, R159, R290 to R292) -/

/-- One more instruction of a thread has written a line. -/
def addWriter (l : List Writer) (g lane seq : Nat) : List Writer :=
  if l.any (fun w => w.grp == g && w.lane == lane) then
    l.map (fun w => if w.grp == g && w.lane == lane then { w with first := min w.first seq, last := max w.last seq } else w)
  else l ++ [{ grp := g, lane := lane, first := seq, last := seq }]

/-- The writers of two lots of dirty bytes that have come together. -/
def joinWriters (a b : List Writer) : List Writer := b.foldl (fun l w => addWriter (addWriter l w.grp w.lane w.first) w.grp w.lane w.last) a

/-- Writer `a` has written, in the program order of a common thread (R148), something before the last of `b`. -/
def Writer.before (a b : Writer) : Bool :=
  a.grp == b.grp && (a.lane == b.lane || a.lane == 16 || b.lane == 16) && decide (a.first ≤ b.last)

/-- What holds dirty tensor bytes in a cluster: a CLC line, by tag, or a stash entry, by core and index. -/
inductive Holder where
  | clc (tag : Nat)
  | stash (core idx : Nat)
  deriving DecidableEq, Repr

structure Dirty where
  at_ : Holder
  phys : Nat
  by_ : List Writer

/-- The dirty tensor lines of a cluster. -/
def dirtyOf (s : State) (cl : Nat) : List Dirty :=
  ((s.cluster cl).lines.filter (fun e => !tagCtl e.1 && e.2.dirty != 0)).map (fun e => { at_ := .clc e.1, phys := e.2.phys, by_ := e.2.by_ }) ++
  (coresOf cl).flatMap (fun c => ((s.core c).stash.filter (fun e => !tagCtl e.2.tag && e.2.dirty != 0)).map (fun e =>
    { at_ := .stash c e.1, phys := e.2.phys, by_ := e.2.by_ }))

/-- Those of `l` whose bytes a thread wrote before bytes of `x`, for the same MSC. -/
def Dirty.ahead (l : List Dirty) (x : Dirty) : List Dirty :=
  l.filter (fun y => mscOf y.phys == mscOf x.phys && y.by_.any (fun a => x.by_.any a.before))

/-- A set of holders with all that must reach the MSC no later, found in rounds. -/
def wbSet (all : List Dirty) : Nat → List Dirty → List Dirty
  | 0, l => l
  | n + 1, l =>
    let new := all.filter (fun y => !l.any (fun x => x.at_ == y.at_) && l.any (fun x => (Dirty.ahead [y] x).length != 0))
    if new.isEmpty then l else wbSet all n (l ++ new)

/-- The dirty bytes of a stash entry go to the CLC's line, where it holds one; none: to memory. -/
def stashOut (s : State) (core idx : Nat) : State :=
  match (s.core core).stash.get? idx with
  | none => s
  | some e =>
    if e.dirty = 0 then s
    else
      let cl := clusterOf core
      let s := s.putCore core { (s.core core) with stash := (s.core core).stash.put idx { e with dirty := 0, by_ := [] } }
      match (if tagCtl e.tag then none else (s.cluster cl).lines.get? e.tag) with
      | some l =>
        let data := (List.range 128).foldl (fun d i => if e.dirty.getLsbD i then putByte d i (byteOf e.data i) else d) l.data
        let l := { l with data := data, dirty := l.dirty ||| e.dirty, by_ := joinWriters l.by_ e.by_ }
        s.putCluster cl { (s.cluster cl) with lines := (s.cluster cl).lines.put e.tag l }
      | none => mscWrite (storeMask s e.phys e.leaf e.data e.dirty) e.phys 0

/-- A line's dirty bytes go to memory. -/
def lineOut (s : State) (cl tag : Nat) : State :=
  match (s.cluster cl).lines.get? tag with
  | none => s
  | some l =>
    if l.dirty = 0 then s
    else
      let s := mscWrite (storeMask s l.phys l.leaf l.data l.dirty) l.phys 0
      s.putCluster cl { (s.cluster cl) with lines := (s.cluster cl).lines.put tag { l with dirty := 0, by_ := [] } }

/-- Holders of dirty bytes write them back, stash entries through the CLC's lines. -/
def wbAll (s : State) (cl : Nat) (l : List Dirty) : State :=
  let tags := l.filterMap (fun x => match x.at_ with
    | .clc t => some t
    | .stash c i => ((s.core c).stash.get? i).map (·.tag))
  let s := l.foldl (fun s x => match x.at_ with
    | .clc _ => s
    | .stash c i => stashOut s c i) s
  tags.foldl (fun s t => lineOut s cl t) s

/-- What a thread has written, up to an instruction, for the MSC of a line reaches it (R159). -/
def wbBefore (s : State) (cl line : Nat) (by_ : Writer) : State :=
  let all := dirtyOf s cl
  let x : Dirty := { at_ := .clc 0, phys := line, by_ := [by_] }
  wbAll s cl (wbSet all all.length (Dirty.ahead all x))

/-- A tensor line of a CLC writes its dirty bytes back, with what must reach the MSC before it (R155, R159). -/
def wbLine (s : State) (cl tag : Nat) : State :=
  match (s.cluster cl).lines.get? tag with
  | none => s
  | some l =>
    if l.dirty = 0 then s
    else
      let all := dirtyOf s cl
      wbAll s cl (wbSet all all.length [{ at_ := .clc tag, phys := l.phys, by_ := l.by_ }])

/-- The dirty bytes of a stash entry go to the CLC's line, or, where the CLC holds none or the line is a control line, to its
memory. -/
def stashWb (s : State) (core idx : Nat) : State :=
  match (s.core core).stash.get? idx with
  | none => s
  | some e =>
    if e.dirty = 0 then s
    else
      let cl := clusterOf core
      if tagCtl e.tag || ((s.cluster cl).lines.get? e.tag).isSome then stashOut s core idx
      else
        let all := dirtyOf s cl
        wbAll s cl (wbSet all all.length [{ at_ := .stash core idx, phys := e.phys, by_ := e.by_ }])

def stashDrop (s : State) (core idx : Nat) : State :=
  let s := stashWb s core idx
  s.putCore core { (s.core core) with stash := (s.core core).stash.del idx }

/-- The stash entries of a core that satisfy a test. -/
def stashIdx (s : State) (core : Nat) (p : StashEnt → Bool) : List Nat :=
  ((s.core core).stash.filter (fun e => p e.2)).map (·.1)

/-- Stash entries of a cluster's cores are written back, and dropped or kept (R292). -/
def stashEvent (s : State) (cl : Nat) (p : StashEnt → Bool) (drop : Bool) : State :=
  (coresOf cl).foldl (fun s core =>
    (stashIdx s core p).foldl (fun s i => if drop then stashDrop s core i else stashWb s core i) s) s

/-! ### Removing lines -/

/-- A cluster's line leaves the CLC and the L1s of its cores, dirty bytes written back first. -/
def dropLine (s : State) (cl tag : Nat) : State :=
  let s := wbLine s cl tag
  let s := s.putCluster cl { (s.cluster cl) with lines := (s.cluster cl).lines.del tag }
  (coresOf cl).foldl (fun s core =>
    if ((s.core core).l1.get? tag).isSome then s.putCore core { (s.core core) with l1 := (s.core core).l1.del tag } else s) s

/-- A reservation on a physical line is lost, but those of `keep` (R306). -/
def loseResv (s : State) (line : Nat) (lost : Nat → Group → Nat → Bool) : State :=
  { s with groups := s.groups.map (fun e =>
    (e.1, { e.2 with resv := e.2.resv.filter (fun r => !(r.2 == line && lost e.1 e.2 r.1)) })) }

/-- A write of a physical line by lane `by_` (group and lane) cancels every other reservation on it (R306, R307). -/
def writeResv (s : State) (line : Nat) (by_ : Option (Nat × Nat)) : State :=
  loseResv s line (fun k _ l => by_ != some (k, l))

/-! ### Tokens (R496 to R504) -/

def State.home (s : State) (line : Nat) : HomeLine := s.homes.getD line {}
def State.putHome (s : State) (line : Nat) (h : HomeLine) : State := { s with homes := s.homes.store {} line h }
def State.tok (s : State) (cl line : Nat) : Tok := (s.cluster cl).toks.getD line {}
def State.putTok (s : State) (cl line : Nat) (t : Tok) : State :=
  s.putCluster cl { (s.cluster cl) with toks := (s.cluster cl).toks.store {} line t }

/-- The token holders of the domain (R13, R501, R512): cluster c of package p as p × 96 + c, then the host clusters, h of package p as
3072 + p × 8 + h. -/
def hostHolder (cl : Nat) : Bool := 3072 ≤ cl
def pkgOfCluster (cl : Nat) : Nat := if hostHolder cl then (cl - 3072) / 8 else cl / 96
/-- The holder's code in PCLASS.QUERY (R512). -/
def holderCode (cl : Nat) : Nat := if hostHolder cl then 96 + (cl - 3072) % 8 else cl % 96
def homePkgOf (line : Nat) : Nat := line / 2 ^ 33

/-- The directory of a die marks a cluster for the 512-byte region of a line (R501, R502). -/
def dirSet (s : State) (cl line : Nat) : State :=
  if hostHolder cl then s else
  let dk := cl / 24
  let d := s.die dk
  s.putDie dk { d with dir := d.dir.put (line / 4) (setBit (d.dir.getD (line / 4) 0) (cl % 24) true) }

/-- A cluster that holds no token of a region leaves its directory entry (R502). -/
def dirClear (s : State) (cl line : Nat) : State :=
  if hostHolder cl || (s.cluster cl).toks.any (fun e => e.1 / 4 == line / 4) then s
  else
    let dk := cl / 24
    let d := s.die dk
    s.putDie dk { d with dir := d.dir.store 0 (line / 4) (setBit (d.dir.getD (line / 4) 0) (cl % 24) false) }

/-- Two holdings together. -/
def Tok.add (a b : Tok) : Tok := { count := a.count + b.count, owner := a.owner || b.owner, dirty := a.dirty || b.dirty }

/-- Tokens leave for a cluster or for the home. -/
def sendTok (s : State) (line : Nat) (dest : Option Nat) (t : Tok) : State :=
  if t.count = 0 then s else { s with flight := s.flight ++ [{ line := line, dest := dest, tok := t }] }

/-- The package bit is cleared when no cluster of the package holds a token of the line (R499, R502). -/
def vecClear (s : State) (pkg line : Nat) : State :=
  if s.clusters.any (fun e => pkgOfCluster e.1 == pkg && (e.2.toks.get? line).isSome) ||
     s.flight.any (fun m => m.line == line && m.dest.map pkgOfCluster == some pkg) then s
  else s.putHome line { (s.home line) with vec := setBit (s.home line).vec pkg false }

/-- Tokens arrive at the home: with the owner token dirty, control memory is updated and DIRTY cleared (R499, R500). -/
def giveHome (s : State) (line : Nat) (t : Tok) : State :=
  let h := s.home line
  s.putHome line
    { h with
      count := h.count + t.count
      owner := h.owner || t.owner
      own := if t.owner then none else h.own
      dirty := if t.owner then false else h.dirty }

/-- A cluster gives up every token of a line: its stash entries are written back and dropped, its copies leave the CLC and the
L1s, and its reservations on the line are lost (R292, R306, R498, R508). -/
def surrender (s : State) (cl line : Nat) : State × Tok :=
  let t := s.tok cl line
  let s := stashEvent s cl (fun e => e.phys == line && tagCtl e.tag) true
  let tags := ((s.cluster cl).lines.filter (fun e => e.2.phys == line && tagCtl e.1)).map (·.1)
  let s := tags.foldl (fun s tag => dropLine s cl tag) s
  let s := loseResv s line (fun _ g _ => clusterOf g.core == cl)
  (dirClear (s.putTok cl line {}) cl line, t)

/-- A directory of 65,536 regions that is full recalls one from its clusters to the home before it takes another (R502): which one
is open. -/
def dirRoom (s : State) (cl line : Nat) : State :=
  let dk := cl / 24
  let d := s.die dk
  if hostHolder cl || d.dir.length < 65536 || (d.dir.get? (line / 4)).isSome then s
  else
    match d.dir[Config.racePick s.free line % d.dir.length]? with
    | none => s
    | some (region, bits) =>
      let s := ((List.range 24).filter (fun c => bits.getLsbD c)).foldl (fun s c =>
        (List.range 4).foldl (fun s i =>
          let p := surrender s (dk * 24 + c) (region * 4 + i)
          vecClear (giveHome p.1 (region * 4 + i) p.2) (pkgOfCluster (dk * 24 + c)) (region * 4 + i)) s) s
      s.putDie dk { (s.die dk) with dir := (s.die dk).dir.del region }

/-- Tokens arrive at a cluster: the vector bit and the directory bit are set, and OWN names the package that the owner token
went to (R500, R502). -/
def giveCluster (s : State) (cl line : Nat) (t : Tok) : State :=
  let s := dirRoom s cl line
  let h := s.home line
  let h := { h with vec := setBit h.vec (pkgOfCluster cl) true, own := if t.owner then some (pkgOfCluster cl) else h.own }
  dirSet ((s.putHome line h).putTok cl line ((s.tok cl line).add t)) cl line

/-- A line leaves a cluster's caches: a control line's tokens and dirty bit go to the home, a tensor line's dirty bytes to
memory (R155, R499). -/
def evictLine (s : State) (cl tag : Nat) : State :=
  match (s.cluster cl).lines.get? tag with
  | none => s
  | some l =>
    if tagCtl tag then
      let p := surrender s cl l.phys
      vecClear (transmit (sendTok (dropLine p.1 cl tag) l.phys none p.2) (pkgOfCluster cl) (homePkgOf l.phys) vcCrsp 128) (pkgOfCluster cl) l.phys
    else dropLine (stashEvent s cl (fun e => e.tag == tag) true) cl tag

/-- A line is put into a CLC, whose set gives up its victim first where it is full (R287, R289). -/
def fillLine (s : State) (cl tag hint : Nat) (line : State → Line) : State :=
  let s := match victimOf 1024 16 tag (s.cluster cl).ways with
    | some v => evictLine s cl v
    | none => s
  s.putCluster cl ({ (s.cluster cl) with lines := (s.cluster cl).lines.put tag (line s) }.touch tag hint true)

/-- A message of tokens is delivered (R496). -/
def deliverTok (s : State) (m : TokMsg) : State :=
  match m.dest with
  | some cl => giveCluster s cl m.line m.tok
  | none => giveHome s m.line m.tok

/-- Every token in flight of a line arrives. -/
def settle (s : State) (line : Nat) : State :=
  (s.flight.filter (fun m => m.line == line)).foldl deliverTok { s with flight := s.flight.filter (fun m => m.line != line) }

/-- What the home gives for a READ when it holds the owner token (R499). -/
def homeRead (h : HomeLine) : Tok :=
  if h.count = 4096 ∧ h.vec = 0 then { count := 4096, owner := true }
  else if h.count = 1 then { count := 1, owner := true }
  else { count := 1 }

/-- What an owner gives for a READ (R499). -/
def ownerRead (t : Tok) : Tok := if t.count = 1 then t else { count := 1 }

def Tok.sub (a b : Tok) : Tok :=
  { count := a.count - b.count, owner := a.owner && !b.owner, dirty := a.dirty && !b.owner }

def HomeLine.sub (h : HomeLine) (t : Tok) : HomeLine :=
  { h with count := h.count - t.count, owner := h.owner && !t.owner }

/-- The cluster that holds the owner token of a line. -/
def ownerOf (s : State) (line : Nat) : Option Nat :=
  (s.clusters.find? (fun e => (e.2.toks.getD line {}).owner)).map (·.1)

/-- The answer to a READ leaves the home or the owner (R499): the state without the tokens, and the tokens. -/
def answerRead (s : State) (line : Nat) : State × Tok :=
  if (s.home line).owner then
    let t := homeRead (s.home line)
    (s.putHome line ((s.home line).sub t), t)
  else
    match ownerOf s line with
    | none => (s, {})
    | some o =>
      let t := ownerRead (s.tok o line)
      if t.owner then surrender s o line
      else
        -- the owner writes dirty stash bytes back, and loses its reservations, as a token leaves it (R291, R306)
        let s := stashEvent s o (fun e => e.phys == line && tagCtl e.tag) false
        let s := loseResv s line (fun _ g _ => clusterOf g.core == o)
        (s.putTok o line ((s.tok o line).sub t), t)

/-- Every token of a line leaves the home and the clusters but one (R499, R501). -/
def answerWrite (s : State) (cl : Option Nat) (line : Nat) : State × Tok :=
  let h := s.home line
  let t0 : Tok := { count := h.count, owner := h.owner }
  let s := s.putHome line { h with count := 0, owner := false }
  let home := match cl with
    | some c => pkgOfCluster c
    | none => homePkgOf line
  let holders := (s.clusters.filter (fun e => (e.2.toks.get? line).isSome && some e.1 != cl)).map (·.1)
  let r := holders.foldl (fun (p : State × Tok) o =>
    let q := surrender (transmit p.1 (homePkgOf line) (pkgOfCluster o) vcCreq) o line
    (vecClear (transmit q.1 (pkgOfCluster o) home vcCrsp 128) (pkgOfCluster o) line, p.2.add q.2)) (s, t0)
  (r.1, r.2)

/-! ### Census (R509, R510) -/

/-- The census of a line ends (R510). -/
def censusLine (s : State) (line : Nat) : State :=
  if !(s.home line).census then s
  else
    let toLost := fun (m : TokMsg) => m.line == line && (match m.dest with
      | some c => gonePkg s (pkgOfCluster c)
      | none => false)
    let s := settle { s with flight := s.flight.filter (fun m => !toLost m) } line
    let s := { s with clusters := s.clusters.map (fun e =>
      if gonePkg s (pkgOfCluster e.1) then (e.1, { e.2 with toks := e.2.toks.del line }) else e) }
    let h := s.home line
    let reported := (s.clusters.map (fun e => (e.2.toks.getD line {}).count)).sum
    let held := s.clusters.any (fun e => (e.2.toks.getD line {}).owner)
    let vec := (List.range 32).foldl (fun v p => if gonePkg s p then setBit v p false else v) h.vec
    let lostOwn := match h.own with
      | some p => gonePkg s p
      | none => false
    if lostOwn && h.dirty then
      let s := (s.clusters.filter (fun e => (e.2.toks.get? line).isSome)).foldl (fun s e => (surrender s e.1 line).1) s
      s.putHome line { count := 4096, owner := true, poisoned := true }
    else
      s.putHome line { h with
        count := 4096 - reported, owner := !held, vec := vec, own := if held then h.own else none
        dirty := if held then h.dirty else false, census := false }

/-- What an active persistent request still needs is given to it (R504). -/
def satisfy (s : State) (a : Attempt) : State :=
  let s := { s with attempts := s.attempts.erase a }
  if a.write then
    if (s.tok a.cluster a.line).count = 4096 then s
    else
      let p := answerWrite s (some a.cluster) a.line
      giveCluster p.1 a.cluster a.line p.2
  else if (s.tok a.cluster a.line).count ≠ 0 then s
  else
    let p := answerRead s a.line
    giveCluster p.1 a.cluster a.line p.2

/-- Before an access takes tokens of a line: its census ends (R509), tokens in flight arrive, and persistent requests that came
before it are served, in their order (R504). -/
def quiet (s : State) (line : Nat) : State :=
  let s := settle (censusLine s line) line
  (s.attempts.filter (fun a => a.persistent && a.line == line)).foldl satisfy s

/-- The package that answers a READ: the home's, or the owner's (R499). -/
def readerPkg (s : State) (line : Nat) : Nat :=
  if (s.home line).owner then homePkgOf line else ((ownerOf s line).map pkgOfCluster).getD (homePkgOf line)

/-- A cluster obtains a token and data (R20, R499, R503). -/
def obtainRead (s : State) (cl line : Nat) : State :=
  if (s.tok cl line).count ≠ 0 then s
  else
    let s := quiet s line
    if (s.tok cl line).count ≠ 0 then s
    else
      let s := transmit (s.bump (homePkgOf line) 431 0) (pkgOfCluster cl) (homePkgOf line) vcCreq
      let p := answerRead s line
      let s := transmit (giveCluster p.1 cl line p.2) (readerPkg s line) (pkgOfCluster cl) vcCrsp 128
      (List.range 32).foldl (fun s k => vecClear s k line) s

/-- A cluster obtains all 4,096 tokens and writes: the first write to a clean line has set DIRTY at the home and the mirror
(R498, R499, R500). -/
def obtainWrite (s : State) (cl line : Nat) : State :=
  let s :=
    if (s.tok cl line).count = 4096 then s
    else
      let s := transmit ((quiet s line).bump (homePkgOf line) 431 0) (pkgOfCluster cl) (homePkgOf line) vcCreq
      let p := answerWrite s (some cl) line
      transmit (giveCluster p.1 cl line p.2) (homePkgOf line) (pkgOfCluster cl) vcCrsp 128
  let t := s.tok cl line
  if t.dirty then s
  else (s.putTok cl line { t with dirty := true }).putHome line { (s.home line) with dirty := true }

/-- The home takes every token of a line, as an agent of the hub die needs it (R498, R501). -/
def gatherHome (s : State) (line : Nat) : State :=
  if s.home line = {} ∨ (s.home line).count = 4096 then s
  else
    let s := quiet s line
    let p := answerWrite s none line
    giveHome p.1 line p.2

/-! ### Removal of lines and translations (R494) -/

/-- Lines of a set of tags leave every CLC, L1 and stash of a package, or of the domain, written back first; tokens of control
lines go home (R494). -/
def removeLines (s : State) (inPkg : Nat → Bool) (p : Nat → Bool) : State :=
  let s := s.cores.foldl (fun s e =>
    if inPkg (pkgOfCore e.1) then (stashIdx s e.1 (fun x => p x.tag)).foldl (fun s i => stashDrop s e.1 i) s else s) s
  s.clusters.foldl (fun s e =>
    if inPkg (pkgOfCluster e.1) then
      (e.2.lines.filter (fun x => p x.1)).foldl (fun s x =>
        if tagCtl x.1 then
          let q := surrender s e.1 x.2.phys
          vecClear (giveHome (dropLine q.1 e.1 x.1) x.2.phys q.2) (pkgOfCluster e.1) x.2.phys
        else dropLine s e.1 x.1) s
    else s) s

/-- Translations leave the MTLBs of a die. -/
def Die.dropTlb (d : Die) (p : TlbEnt → Bool) : Die :=
  { d with
    mtlb1a := d.mtlb1a.filter (fun e => !p e)
    mtlb1b := d.mtlb1b.filter (fun e => !p e)
    mtlb2 := d.mtlb2.filter (fun e => !p e) }

/-- An entry of the MTLBs maps, or leads to, some address of a span. -/
def TlbEnt.meets (e : TlbEnt) (lo size : Nat) : Bool :=
  decide (e.base * 2 ^ tierShift e.tier < lo + size) && decide (lo < (e.base + 1) * 2 ^ tierShift e.tier)

/-- TLBOP.INV of a span (R494): lines of any generation, and the MTLB entries of the dies that translate it. -/
def invSpan (s : State) (pkg asid : Nat) (va : Dword) (size : Nat) : State :=
  let ctl := decide (spaceOf va = .control)
  let lo := va.toNat / size * size
  let s := removeLines s (fun p => ctl || p == pkg) (fun tag =>
    tagAsid tag == asid && decide (lo ≤ tagVa tag) && decide (tagVa tag < lo + size))
  let drop := fun (s : State) dk => s.putDie dk ((s.die dk).dropTlb (fun e => e.asid == asid && e.meets lo size))
  if ctl then drop s (pkg * 4) else (List.range 4).foldl (fun s d => drop s (pkg * 4 + d)) s

/-! ### Page classes (R505 to R507) -/

/-- Lines of a page leave every instruction cache of the domain (R213). -/
def dropICache (s : State) (lo size : Nat) : State :=
  { s with cores := s.cores.map (fun c => (c.1, { c.2 with quarters := c.2.quarters.map (fun q =>
      (q.1, { q.2 with icache := q.2.icache.filter (fun e => !(decide (lo ≤ e.1 * 128) && decide (e.1 * 128 < lo + size))) })) })) }

/-- The reclassifier (R506): the page becomes SHARED, its copies and translations are removed. -/
def setClass (s : State) (va : Dword) (e : TlbEnt) (cls : Nat) (owner : Option Nat) : State :=
  let span := 2 ^ tierShift e.tier
  let lo := va.toNat / span * span
  let pkg := vaPkg va
  let first := (pkg * 2 ^ 40 + entPa e.word) / 128
  let inPage := fun (m : TokMsg) => decide (first ≤ m.line) && decide (m.line < first + span / 128)
  let s := (s.flight.filter inPage).foldl (fun s m => settle s m.line) s
  let s := removeLines s (fun _ => true) (fun tag => tagAsid tag == 0 && decide (lo ≤ tagVa tag) && decide (tagVa tag < lo + span))
  let s := dropICache s lo span
  let kid := s.keyId (e.ent / 2 ^ 40) e.slot
  let s := s.wr64 kid e.ent ((s.rd64 kid e.ent &&& ~~~0xC000#64) ||| BitVec.ofNat 64 (cls * 2 ^ 14))
  let s := s.putDie (pkg * 4) ((s.die (pkg * 4)).dropTlb (fun x => x.asid == 0 && x.meets lo span))
  let frame := pkg * 2 ^ 40 + entPa e.word
  { s with owners := if cls = classPrivate then s.owners.put frame { cluster := owner, size := span } else s.owners.del frame }

end Sys2Proof.Machine
end

