-- ==== Sys2Proof/Machine/Mem.lean ====
section
/-!
DEFINITION. One access: the checks 1 to 7 of R51 at the core port, the path of a byte through caches, tokens, scratchpad,
private block and stash, and the accesses of engines at the point of coherence.
-/

namespace Sys2Proof.Machine

/-! ### Requests -/

def State.grp (s : State) (k : Nat) : Group := s.groups.getD k {}
def State.putGrp (s : State) (k : Nat) (g : Group) : State := { s with groups := s.groups.put k g }

/-- What every request of a group carries (R53, R101, R479); `ty` is the TYPE of R483. -/
def Group.req (g : Group) (ty : Nat) (va : Dword) : TransReq :=
  { va := va, asid := g.id.asid, gen := g.id.gen, world := g.id.world, privileged := g.id.privileged, ty := ty
    root := g.id.root, qgen := g.id.qgen
    who := { pkg := pkgOfCore g.core, die := dieOfCore g.core % 4, core := g.core % 96, slot := g.slot } }

/-! ### Checks 1 to 7 (R40, R44, R51) -/

inductive AccKind where
  | ldst
  | uld
  | atom
  | locked
  | bar
  | copy
  | ratom
  | pref
  deriving DecidableEq, Repr

/-- The table of R44; `local_`: a tensor address of the issuing package. -/
def spaceAllowed (k : AccKind) (sp : Space) (local_ : Bool) : Bool :=
  match k, sp with
  | _, .reserved => false
  | .ldst, .tensor => local_
  | .ldst, _ => true
  | .uld, .tensor => local_
  | .uld, .priv => false
  | .uld, _ => true
  | .atom, .tensor => local_
  | .atom, .priv => false
  | .atom, _ => true
  | .locked, .control => true
  | .locked, _ => false
  | .bar, .control => true
  | .bar, .scratch => true
  | .bar, .neigh => true
  | .bar, _ => false
  | .copy, .priv => false
  | .copy, _ => true
  | .ratom, .tensor => true
  | .ratom, _ => false
  | .pref, .control => true
  | .pref, .tensor => local_
  | .pref, _ => false

/-- The scratchpad limit of the cohort behind neighbourhood slot n. -/
def neighLimit (s : State) (c : Cohort) (n : Nat) : Nat :=
  match c.neigh[n]? with
  | some k => (s.cohort k).scrLimit
  | none => 0

/-- The bytes of the stash window of a core (R38): 256 KiB minus the scratchpad regions, each rounded up to 4 KiB (R68). -/
def stashLimit (s : State) (core : Nat) : Nat :=
  0x40000 - (s.cohorts.filter (fun e => e.2.core == core)).foldl (fun n e => n + (e.2.scrLimit + 4095) / 4096 * 4096) 0

/-- The binding that holds a stash offset. -/
def Cohort.bindingOf (c : Cohort) (o : Nat) : Option Binding := c.stash.find? (fun b => decide (b.so ≤ o) && decide (o < b.so + b.len))

/-- Check 7 for one byte offset of a window (R39). -/
def offsetBad (s : State) (g : Group) (sp : Space) (o : Nat) : Bool :=
  match sp with
  | .scratch => decide (g.info.scr ≤ o)
  | .priv => decide (g.info.priv ≤ o)
  | .stash => decide (stashLimit s g.core ≤ o) || ((s.cohort g.cohort).bindingOf o).isNone
  | .neigh => decide (neighLimit s (s.cohort g.cohort) (o / 0x40000) ≤ o % 0x40000)
  | _ => false

/-- Checks 2 to 7 of R51 on a range of at least one byte; the cause and the address for %taddr. -/
def rangeCheck (s : State) (g : Group) (k : AccKind) (va : Dword) (n : Nat) : Option (Nat × Dword) :=
  let sp := spaceOf va
  let last := va + BitVec.ofNat 64 (n - 1)
  if sp = .reserved then some (causeAccess, va)
  else if regionKey va ≠ regionKey last || decide (2 ^ 64 ≤ va.toNat + (n - 1)) then some (causeWindow, va)
  else if !spaceAllowed k sp (vaPkg va = pkgOfCore g.core) then some (causeSpace, va)
  else if sp.global then (if s.domain ≤ vaPkg va then some (causeAccess, va) else none)
  else
    let offs := (List.range n).map (fun i => vaOff va + i)
    match (if sp = .neigh then offs.find? (fun o => decide (g.info.neigh ≤ o / 0x40000)) else none) with
    | some o => some (causeRoleBound, va + BitVec.ofNat 64 (o - vaOff va))
    | none =>
      match offs.find? (offsetBad s g sp) with
      | some o => some (causeAccess, if sp = .neigh then va + BitVec.ofNat 64 (o - vaOff va) else va)
      | none => none

/-- Checks 1 to 7 of R51. -/
def accCheck (s : State) (g : Group) (k : AccKind) (va : Dword) (n align : Nat) : Option (Nat × Dword) :=
  if va.toNat % align ≠ 0 then some (causeAlign, va) else rangeCheck s g k va n

/-! ### Lines (R287, R473, R496, R505) -/

/-- What an access comes back with: its result, or what stopped it. -/
inductive Acc (α : Type) where
  | ok (a : α)
  | stop (x : Xl)
  deriving DecidableEq, Repr

def bytesNat (l : List Byte) : Nat := (l.zipIdx).foldl (fun n p => n + p.1.toNat * 2 ^ (8 * p.2)) 0

/-- The low n bytes of a number, little-endian. -/
def natBytes (n v : Nat) : List Byte := (List.range n).map (fun i => BitVec.ofNat 8 (v / 2 ^ (8 * i)))

/-- The pieces of a range that lie in one 128-byte line each. -/
def chunks : Nat → Dword → Nat → List (Dword × Nat)
  | 0, _, _ => []
  | f + 1, va, n =>
    if n = 0 then []
    else
      let m := min n (128 - va.toNat % 128)
      (va, m) :: chunks f (va + BitVec.ofNat 64 m) (n - m)

def chunksOf (va : Dword) (n : Nat) : List (Dword × Nat) := chunks (n / 128 + 2) va n

/-- The tag that a request's line has in the caches (R473, R479). -/
def reqTag (s : State) (r : TransReq) : Nat :=
  if spaceOf r.va = .control then tagOf 0 (s.asid (vaPkg r.va) 0).gen r.va else tagOf r.asid r.gen r.va

/-- A line is found in the CLC of a core's cluster, or translated and filled, a tensor line from its MSC (R287, R473). A line whose
generation is not current never hits (R479). -/
def findLine (s : State) (core : Nat) (r : TransReq) (hint : Nat) : State × Acc Nat :=
  let cl := clusterOf core
  let tag := reqTag s r
  let e := s.asid (pkgOfCore core) r.asid
  let hit :=
    match (s.cluster cl).lines.get? tag with
    | some l => if e.en && e.gen == r.gen && (!r.write || (entW l.leaf && entD l.leaf)) then some l else none
    | none => none
  match hit with
  | some l =>
    match leafCheck s (l.phys / 2 ^ 33) (l.phys * 128 % 2 ^ 40) l.leaf r with
    | some c => (s, .stop (.cause c))
    | none => (s, .ok tag)
  | none =>
    match xlate s r with
    | (s, .ok pa t) =>
      match (s.cluster cl).lines.get? tag with
      | some l => (s.putCluster cl { (s.cluster cl) with lines := (s.cluster cl).lines.put tag { l with leaf := t.word } }, .ok tag)
      | none =>
        let s := fillLine s cl tag hint (fun s =>
          { phys := pa / 128, leaf := t.word, data := if spaceOf r.va = .control then 0 else memLine s (pa / 128) t.word })
        (touchMsc s (pa / 128) hint false, .ok tag)
    | (s, x) => (s, .stop x)

/-- The PRIVATE owner of the page of a leaf (R505). -/
def frameKey (va : Dword) (leaf : Dword) : Nat := vaPkg va * 2 ^ 40 + entPa leaf

/-- Whether an access of a cluster conflicts with the class of its page (R505, R506). -/
def conflicts (s : State) (cl : Nat) (r : TransReq) (leaf : Dword) : Bool :=
  if entClass leaf = classReadOnly then r.write
  else if entClass leaf = classPrivate then
    match (s.owners.getD (frameKey r.va leaf) {}).cluster with
    | some o => o != cl
    | none => false
  else false

/-- A cluster may use a control line: tokens for SHARED, ownership for PRIVATE, nothing for READ_ONLY (R496, R505, R507). -/
def claim (s : State) (cl line : Nat) (r : TransReq) (leaf : Dword) : State :=
  if entClass leaf = classShared then (if r.write then obtainWrite s cl line else obtainRead s cl line)
  else if entClass leaf = classPrivate then
    let k := frameKey r.va leaf
    let o := match s.owners.get? k with
      | some o => o
      | none =>
        { size := match (walk s (transDie r.va) 0 false r.va).2 with
            | .leaf e => 2 ^ tierShift e.tier
            | _ => 65536 }
    { s with owners := s.owners.put k { o with cluster := some cl, pdirty := o.pdirty || r.write } }
  else s

/-- A core's request gets its line, with the tokens or the ownership that it needs; a conflicting access reclassifies the page
first (R506). -/
def openLine (s : State) (core : Nat) (r : TransReq) (hint : Nat) : State × Acc Nat :=
  let cl := clusterOf core
  match findLine s core r hint with
  | (s, .stop x) => (s, .stop x)
  | (s, .ok tag) =>
    match (s.cluster cl).lines.get? tag with
    | none => (s, .ok tag)
    | some l =>
      if spaceOf r.va ≠ .control then (s, .ok tag)
      else if r.read && (s.home l.phys).poisoned then (s, .stop (.cause causePoison))
      else if conflicts s cl r l.leaf then
        match leafAt s (transDie r.va) 0 false r.va with
        | (s, .leaf e) =>
          match findLine (setClass s r.va e classShared none) core r hint with
          | (s, .ok tag) => (obtainWrite s cl l.phys, .ok tag)
          | (s, .stop x) => (s, .stop x)
        | (s, _) => (s, .stop (.cause causeAccess))
      else (claim s cl l.phys r l.leaf, .ok tag)

/-- The caches on the way of an access take the mark of its hint (R289): a load ends at an L1 copy, and fills L1 from the CLC; a store
reaches the CLC, and an L1 copy that is present (R287). -/
def touchCaches (s : State) (core tag hint : Nat) (load : Bool) : State :=
  let cl := clusterOf core
  let inL1 := ((s.core core).l1.get? tag).isSome
  let s := if load && inL1 then s else s.putCluster cl ((s.cluster cl).touch tag hint)
  if load || inL1 then s.putCore core ((s.core core).touchL1 tag hint) else s

/-- A write from one core invalidates the copies in the other L1s of its cluster (R288). -/
def dropOtherL1 (s : State) (core tag : Nat) : State :=
  (coresOf (clusterOf core)).foldl (fun s c =>
    if c ≠ core ∧ ((s.core c).l1.get? tag).isSome then s.putCore c { (s.core c) with l1 := (s.core c).l1.del tag } else s) s

/-- Bytes of a line that the cluster holds: a tensor line's from the CLC, a control line's from its home (log 4). -/
def lineRead (s : State) (cl tag off n : Nat) : List Byte :=
  match (s.cluster cl).lines.get? tag with
  | none => []
  | some l =>
    if tagCtl tag then
      let kid := kidOf s l.phys l.leaf
      (List.range n).map (fun i => s.rdB kid (l.phys * 128 + off + i))
    else (List.range n).map (fun i => byteOf l.data (off + i))

/-- Who writes: a group, a lane (16: all of them), and the number of its instruction (R148, R159). -/
structure By where
  grp : Nat
  lane : Nat
  seq : Nat

/-- Bytes are written to a line that the cluster may write; they join its entry in the cluster port's write queue (R293). -/
def lineWrite (s : State) (core tag off : Nat) (bs : List Byte) (by_ : By) : State :=
  let cl := clusterOf core
  match (s.cluster cl).lines.get? tag with
  | none => s
  | some l =>
    let s := dropOtherL1 s core tag
    let s := s.putCluster cl { (s.cluster cl) with wq := joinQueue (s.cluster cl).wq l.phys }
    if tagCtl tag then
      let kid := kidOf s l.phys l.leaf
      writeResv (bs.zipIdx.foldl (fun s p => s.wrB kid (l.phys * 128 + off + p.2) p.1) s) l.phys (some (by_.grp, by_.lane))
    else
      let l := bs.zipIdx.foldl (fun (l : Line) p =>
        { l with data := putByte l.data (off + p.2) p.1, dirty := setBit l.dirty (off + p.2) true }) l
      s.putCluster cl { (s.cluster cl) with lines := (s.cluster cl).lines.put tag { l with by_ := addWriter l.by_ by_.grp by_.lane by_.seq } }

/-- A piece of a read through a core's cluster. -/
def pieceRead (s : State) (core : Nat) (r : TransReq) (hint n : Nat) : State × Acc (List Byte) :=
  match openLine s core r hint with
  | (s, .stop x) => (s, .stop x)
  | (s, .ok tag) =>
    let s := stashEvent s (clusterOf core) (fun e => e.tag == tag) false
    let s := touchCaches s core tag hint true
    (s, .ok (lineRead s (clusterOf core) tag (r.va.toNat % 128) n))

/-- A read of global bytes through a core's cluster (R301). -/
def readGlobal (s : State) (core : Nat) (r : TransReq) (hint n : Nat) : State × Acc (List Byte) :=
  (chunksOf r.va n).foldl (fun (p : State × Acc (List Byte)) c =>
    match p.2 with
    | .stop _ => p
    | .ok bs =>
      match pieceRead p.1 core { r with va := c.1 } hint c.2 with
      | (s, .ok b) => (s, .ok (bs ++ b))
      | (s, .stop x) => (s, .stop x)) (s, .ok [])

/-- Every piece of a range gets its line, before any byte is written. -/
def openAll (s : State) (core : Nat) (r : TransReq) (hint n : Nat) : State × Acc Unit :=
  (chunksOf r.va n).foldl (fun (p : State × Acc Unit) c =>
    match p.2 with
    | .stop _ => p
    | .ok _ =>
      match openLine p.1 core { r with va := c.1 } hint with
      | (s, .ok _) => (s, .ok ())
      | (s, .stop x) => (s, .stop x)) (s, .ok ())

/-- The generation of a queue, by the number that requests carry it under; none: the context is not registered. -/
def State.queueGen (s : State) (root : Nat) : Option Nat :=
  let k := root - 1
  ((s.pkg (k / 64 / 4096)).ctxs.get? (k / 64 % 4096)).bind (fun c => (c.queues.get? (k % 64)).map (·.gen))

/-- A write carries an older generation of its queue than the ports have received: it is dropped (R186, R462). -/
def staleReq (s : State) (r : TransReq) : Bool :=
  r.root != 0 && (match s.queueGen r.root with
    | some g => g != r.qgen
    | none => false)

/-- A store that covers the TICKET word of a slot of a registration window gives the request its world (R447). -/
def ticketWorld (s : State) (r : TransReq) (n : Nat) : State :=
  if spaceOf r.va = .control then
    let o := bits r.va.toNat 0 57
    (List.range 16).foldl (fun s i =>
      let t := 0x10000 + 0x100 * i
      if o < t + 4 ∧ t < o + n then
        let p := s.pkg (vaPkg r.va)
        s.putPkg (vaPkg r.va) { p with slots := p.slots.put i { p.slots.getD i {} with world := r.world } }
      else s) s
  else s

/-- A write of global bytes through a core's cluster. -/
def writeGlobal (s : State) (core : Nat) (r : TransReq) (hint : Nat) (bs : List Byte) (by_ : By) :
    State × Acc Unit :=
  let r := { r with write := true }
  match openAll s core r hint bs.length with
  | (s, .stop x) => (s, .stop x)
  | (s, .ok _) =>
    if staleReq s r then (s, .ok ())
    else
    let s := ticketWorld s r bs.length
    ((chunksOf r.va bs.length).foldl (fun (p : State × List Byte) c =>
      let s := p.1
      match openLine s core { r with va := c.1 } hint with
      | (s, .ok tag) =>
        let s := stashEvent s (clusterOf core) (fun e => e.tag == tag) true
        let s := touchCaches s core tag hint false
        (lineWrite s core tag (c.1.toNat % 128) (p.2.take c.2) by_, p.2.drop c.2)
      | (s, .stop _) => (s, p.2.drop c.2)) (s, bs)).1 |> fun s => (s, .ok ())

/-! ### Accesses at the point of coherence: engines and agents (R16, R46, R156) -/

/-- The physical line of a control line is up to date and, for a write, held by nobody else: stash entries are written back,
and every token is at the home. -/
def pocLine (s : State) (line : Nat) (write : Bool) : State :=
  let s := s.clusters.foldl (fun s e => stashEvent s e.1 (fun x => x.phys == line && tagCtl x.tag) write) s
  if write then
    let s := gatherHome s line
    let s := s.clusters.foldl (fun s e =>
      (e.2.lines.filter (fun x => x.2.phys == line && tagCtl x.1)).foldl (fun s x => dropLine s e.1 x.1) s) s
    writeResv s line none
  else s

/-- Bytes of physical memory under a leaf's key. -/
def physRead (s : State) (pa : Nat) (leaf : Dword) (n : Nat) : List Byte :=
  let kid := kidOf s (pa / 128) leaf
  (List.range n).map (fun i => s.rdB kid (pa + i))

def physWrite (s : State) (pa : Nat) (leaf : Dword) (bs : List Byte) : State :=
  let kid := kidOf s (pa / 128) leaf
  bs.zipIdx.foldl (fun s p => s.wrB kid (pa + p.2) p.1) s

/-- A translated piece at the point of coherence: where it lies. A memory-side port whose queue is full refuses a write (R26, R295). -/
def pocOpen (s : State) (r : TransReq) : State × Acc (Nat × Dword) :=
  match xlate s r with
  | (s, .ok pa e) =>
    if spaceOf r.va = .control then
      let line := pa / 128
      if r.read && (s.home line).poisoned then (s, .stop (.cause causePoison))
      else if entClass e.word = classShared || (entClass e.word = classReadOnly && !r.write) then
        (pocLine s line r.write, .ok (pa, e.word))
      else (pocLine (setClass s r.va e classShared none) line r.write, .ok (pa, e.word))
    else if r.write && queueFull ((s.die (mscOf (pa / 128)).1).wq (mscOf (pa / 128)).2) 256 (pa / 128) then
      (s.bump ((mscOf (pa / 128)).1 / 4) (mscBlock (mscOf (pa / 128))) 2, .stop (.refuse 8))
    else (s, .ok (pa, e.word))
  | (s, x) => (s, .stop x)

/-- A read of global bytes at the point of coherence. -/
def pocRead (s : State) (r : TransReq) (n : Nat) : State × Acc (List Byte) :=
  (chunksOf r.va n).foldl (fun (p : State × Acc (List Byte)) c =>
    match p.2 with
    | .stop _ => p
    | .ok bs =>
      match pocOpen p.1 { r with va := c.1 } with
      | (s, .ok (pa, leaf)) => (touchMsc s (pa / 128) 0 false, .ok (bs ++ physRead s pa leaf c.2))
      | (s, .stop x) => (s, .stop x)) (s, .ok [])

/-- Every piece of a range translates, before any byte is written. -/
def pocOpenAll (s : State) (r : TransReq) (n : Nat) : State × Acc Unit :=
  (chunksOf r.va n).foldl (fun (p : State × Acc Unit) c =>
    match p.2 with
    | .stop _ => p
    | .ok _ =>
      match pocOpen p.1 { r with va := c.1 } with
      | (s, .ok _) => (s, .ok ())
      | (s, .stop x) => (s, .stop x)) (s, .ok ())

/-- A write of global bytes at the point of coherence. -/
def pocWrite (s : State) (r : TransReq) (bs : List Byte) (hint : Nat := 0) : State × Acc Unit :=
  let r := { r with write := true, read := false }
  match pocOpenAll s r bs.length with
  | (s, .stop x) => (s, .stop x)
  | (s, .ok _) =>
    if staleReq s r then (s, .ok ())
    else
    let s := ticketWorld s r bs.length
    ((chunksOf r.va bs.length).foldl (fun (p : State × List Byte) c =>
      match pocOpen p.1 { r with va := c.1 } with
      | (s, .ok (pa, leaf)) => (mscWrite (physWrite s pa leaf (p.2.take c.2)) (pa / 128) hint, p.2.drop c.2)
      | (s, .stop _) => (s, p.2.drop c.2)) (s, bs)).1 |> fun s => (s, .ok ())

/-! ### Scratchpad, private window and stash (R38 to R43, R55, R290, R291) -/

/-- The cohort and offset that a byte of the own-scratchpad or neighbourhood window lies at (R38, R41). -/
def scrPlace (s : State) (g : Group) (sp : Space) (o : Nat) : Nat × Nat :=
  if sp = .neigh then (((s.cohort g.cohort).neigh[o / 0x40000]?).getD g.cohort, o % 0x40000) else (g.cohort, o)

/-- A non-secure access to a secure cohort's slot (R55). -/
def scrSecure (s : State) (g : Group) (sp : Space) (o n : Nat) : Bool :=
  !g.id.world && (List.range n).any (fun i => (s.cohort (scrPlace s g sp (o + i)).1).id.world)

def scrRead (s : State) (g : Group) (sp : Space) (o n : Nat) : List Byte :=
  (List.range n).map (fun i =>
    let p := scrPlace s g sp (o + i)
    (s.cohort p.1).scr.getD p.2 0)

/-- The line of a core port's store that holds a scratchpad byte of a cohort. -/
def scrLine (ck o : Nat) : Nat := 2 ^ 60 + ck * 2 ^ 12 + o / 128

/-- The line of a core port's store that holds a stash byte. -/
def stashLine (o : Nat) : Nat := 2 ^ 59 + o / 128

/-- A write joins its line's entry in the write queue of a core port (R293). -/
def joinCore (s : State) (core line : Nat) : State := s.putCore core { (s.core core) with wq := joinQueue (s.core core).wq line }

def scrWrite (s : State) (g : Group) (sp : Space) (o : Nat) (bs : List Byte) : State :=
  bs.zipIdx.foldl (fun s b =>
    let p := scrPlace s g sp (o + b.2)
    let c := s.cohort p.1
    joinCore (s.putCohort p.1 { c with scr := c.scr.store 0 p.2 b.1 }) c.core (scrLine p.1 p.2)) s

/-- The backing offset of byte o of lane l in the private block (R42). -/
def privOff (l o : Nat) : Nat := (o / 4 * 16 + l) * 4 + o % 4

/-- The parts of a private range that lie in one 4-byte word each: backing offset and bytes. -/
def privParts (l : Nat) : Nat → Nat → Nat → List (Nat × Nat)
  | 0, _, _ => []
  | f + 1, o, n =>
    if n = 0 then []
    else
      let m := min n (4 - o % 4)
      (privOff l o, m) :: privParts l f (o + m) (n - m)

def privPartsOf (l o n : Nat) : List (Nat × Nat) := privParts l (n / 4 + 2) o n

/-- The request of a group for its private block, in tensor space of its die (R43). -/
def privReq (s : State) (gk : Nat) (r : TransReq) (off : Nat) : TransReq := { r with va := (s.grp gk).privBase + BitVec.ofNat 64 off }

/-- The command processor clears a line of a private block (R547). DESIGN CHOICE: one that does not translate at the dispatch is cleared
before the group first reaches it (log 92). -/
def clearPriv (s : State) (gk : Nat) (r : TransReq) (line : Nat) : State × Acc Unit :=
  if !(s.grp gk).uncleared.contains line then (s, .ok ())
  else
    let mark := fun (s : State) => s.putGrp gk { (s.grp gk) with uncleared := (s.grp gk).uncleared.erase line }
    match pocWrite s (privReq s gk r (line * 128)) (List.replicate 128 0) with
    | (s, .ok _) => (mark s, .ok ())
    | (s, .stop (.cause _)) => (mark s, .ok ())
    | (s, .stop x) => (s, .stop x)

/-- A step is taken for each element of a list, until one stops. -/
def eachAcc {α β : Type} (f : State → α → State × Acc β) (l : List α) (s : State) : State × Acc (List β) :=
  l.foldl (fun (p : State × Acc (List β)) a =>
    match p.2 with
    | .stop _ => p
    | .ok bs =>
      match f p.1 a with
      | (s, .ok b) => (s, .ok (bs ++ [b]))
      | (s, .stop x) => (s, .stop x)) (s, .ok [])

/-- A private range is ready for an access: its lines have been cleared. -/
def privReady (s : State) (gk : Nat) (r : TransReq) (l o n : Nat) : State × Acc (List Unit) :=
  eachAcc (fun s p => clearPriv s gk r (p.1 / 128)) (privPartsOf l o n) s

def privRead (s : State) (gk : Nat) (r : TransReq) (l o hint n : Nat) : State × Acc (List Byte) :=
  match privReady s gk r l o n with
  | (s, .stop x) => (s, .stop x)
  | (s, .ok _) =>
    match eachAcc (fun s p => readGlobal s (s.grp gk).core (privReq s gk r p.1) hint p.2) (privPartsOf l o n) s with
    | (s, .ok bs) => (s, .ok bs.flatten)
    | (s, .stop x) => (s, .stop x)

/-- Every part gets its line before any byte is written. -/
def privWrite (s : State) (gk : Nat) (r : TransReq) (l o hint : Nat) (bs : List Byte) (by_ : By) : State × Acc Unit :=
  let parts := privPartsOf l o bs.length
  match privReady s gk r l o bs.length with
  | (s, .stop x) => (s, .stop x)
  | (s, .ok _) =>
    match eachAcc (fun s p => openAll s (s.grp gk).core { privReq s gk r p.1 with write := true } hint p.2) parts s with
    | (s, .stop x) => (s, .stop x)
    | (s, .ok _) =>
      ((parts.foldl (fun (p : State × List Byte) q =>
        ((writeGlobal p.1 (s.grp gk).core (privReq p.1 gk r q.1) hint (p.2.take q.2) by_).1, p.2.drop q.2)) (s, bs)).1, .ok ())

/-- A stash line is filled on the first access, through the CLC; a write obtains the tokens of a control line and marks bytes
dirty (R291). -/
def stashOpen (s : State) (gk : Nat) (r : TransReq) (hint o : Nat) : State × Acc Unit :=
  let g := s.grp gk
  let filled := (s.core g.core).stash.get? (o / 128)
  match (s.cohort g.cohort).bindingOf o with
  | none => (s, .stop (.cause causeAccess))
  | some b =>
    let r := { r with va := b.g + BitVec.ofNat 64 (o / 128 * 128 - b.so) }
    let need := match filled with
      | none => true
      | some e => r.write && (decide (e.dirty = 0) || !(entW e.leaf && entD e.leaf))
    if need then
      match openLine s g.core r hint with
      | (s, .stop x) => (s, .stop x)
      | (s, .ok tag) =>
        let s := s.putCluster (clusterOf g.core) ((s.cluster (clusterOf g.core)).touch tag hint)
        match (s.cluster (clusterOf g.core)).lines.get? tag with
        | none => (s, .ok ())
        | some l =>
          let others := fun (e : StashEnt) => e.tag == tag
          let s := stashEvent s (clusterOf g.core) others r.write
          let bs := lineRead s (clusterOf g.core) tag 0 128
          let e : StashEnt := { tag := tag, phys := l.phys, leaf := l.leaf, data := BitVec.ofNat 1024 (bytesNat bs) }
          (s.putCore g.core { (s.core g.core) with stash := (s.core g.core).stash.put (o / 128) e }, .ok ())
    else (s, .ok ())

def stashRead (s : State) (core o n : Nat) : List Byte :=
  (List.range n).map (fun i =>
    match (s.core core).stash.get? ((o + i) / 128) with
    | some e => byteOf e.data ((o + i) % 128)
    | none => 0)

/-- Bytes are written to filled stash entries; those of a control line cancel the other reservations on it (R291, R306). -/
def stashPut (s : State) (core o : Nat) (bs : List Byte) (by_ : By) : State :=
  bs.zipIdx.foldl (fun s p =>
    match (s.core core).stash.get? ((o + p.2) / 128) with
    | some e =>
      let i := (o + p.2) % 128
      let e := { e with data := putByte e.data i p.1, dirty := setBit e.dirty i true, by_ := addWriter e.by_ by_.grp by_.lane by_.seq }
      let s := joinCore (s.putCore core { (s.core core) with stash := (s.core core).stash.put ((o + p.2) / 128) e }) core (stashLine (o + p.2))
      if tagCtl e.tag then writeResv s e.phys (some (by_.grp, by_.lane)) else s
    | none => s) s

/-- The stash entries of a range are filled, for a write with what it needs. -/
def stashOpenAll (s : State) (gk : Nat) (r : TransReq) (hint o n : Nat) : State × Acc (List Unit) :=
  eachAcc (fun s i => stashOpen s gk r hint (i * 128)) ((List.range (n / 128 + 2)).map (o / 128 + ·) |>.filter (· ≤ (o + n - 1) / 128)) s

/-! ### One lane's bytes in any space -/

/-- A lane's read of n bytes (R301). -/
def laneRead (s : State) (gk : Nat) (r : TransReq) (lane hint n : Nat) : State × Acc (List Byte) :=
  let g := s.grp gk
  let o := vaOff r.va
  match spaceOf r.va with
  | .control => readGlobal s g.core r hint n
  | .tensor => readGlobal s g.core r hint n
  | .priv => privRead s gk r lane o hint n
  | .stash =>
    match stashOpenAll s gk r hint o n with
    | (s, .stop x) => (s, .stop x)
    | (s, .ok _) => (s, .ok (stashRead s g.core o n))
  | sp => if scrSecure s g sp o n then (s, .stop (.cause causeSecurity)) else (s, .ok (scrRead s g sp o n))

/-- A write of bytes by a lane, or by the group (lane 16), in an instruction (R301). -/
def laneWrite (s : State) (gk seq : Nat) (r : TransReq) (lane hint : Nat) (bs : List Byte) : State × Acc Unit :=
  let g := s.grp gk
  let o := vaOff r.va
  let n := bs.length
  let r := { r with write := true }
  let who : By := { grp := gk, lane := lane, seq := seq }
  match spaceOf r.va with
  | .control => writeGlobal s g.core r hint bs who
  | .tensor => writeGlobal s g.core r hint bs who
  | .priv => privWrite s gk r (lane % 16) o hint bs who
  | .stash =>
    match stashOpenAll s gk r hint o n with
    | (s, .stop x) => (s, .stop x)
    | (s, .ok _) => (if staleReq s r then s else stashPut s g.core o bs who, .ok ())
  | sp => if scrSecure s g sp o n then (s, .stop (.cause causeSecurity)) else (scrWrite s g sp o bs, .ok ())

/-- A tensor atomic or reduction: the issuing cluster's copy of the line is written back and invalidated (R171), with what the thread
`after` has written before it for the same MSC (R159), and the access is made at the memory side, which refuses it where its queue
is full (R295). -/
def memSide (s : State) (core : Nat) (r : TransReq) (hint n : Nat) (after : Option By) (f : List Byte → List Byte) :
    State × Acc (List Byte) :=
  let cl := clusterOf core
  let tag := reqTag s r
  let s := stashEvent s cl (fun e => e.tag == tag) true
  let s := dropLine s cl tag
  match xlate s r with
  | (s, .ok pa e) =>
    let line := pa / 128
    let m := mscOf line
    let s := match after with
      | some b => wbBefore s cl line { grp := b.grp, lane := b.lane, first := b.seq, last := b.seq }
      | none => s
    if queueFull ((s.die m.1).wq m.2) 256 line then (s.bump (m.1 / 4) (mscBlock m) 2, .stop (.refuse 8))
    else
      let old := physRead s pa e.word n
      let s := if staleReq s r then s else physWrite s pa e.word (f old)
      ((mscWrite s line hint).bump (m.1 / 4) (mscBlock m) 3, .ok old)
  | (s, x) => (s, .stop x)

/-- One atomic step at the execution point of its space (R46, R303): the old bytes, and the new ones written. -/
def laneAtomic (s : State) (gk seq : Nat) (r : TransReq) (lane hint n : Nat) (f : List Byte → List Byte) :
    State × Acc (List Byte) :=
  let g := s.grp gk
  let r := { r with write := true }
  if spaceOf r.va = .tensor then memSide s g.core r hint n (some { grp := gk, lane := lane, seq := seq }) f
  else
    match laneRead s gk r lane hint n with
    | (s, .stop x) => (s, .stop x)
    | (s, .ok old) =>
      match laneWrite s gk seq r lane hint (f old) with
      | (s, .stop x) => (s, .stop x)
      | (s, .ok _) => (s, .ok old)

/-- What a trap or an asynchronous cause reports of a stopped access. -/
def Xl.causeOf : Xl → Option Nat
  | .cause c => some c
  | _ => none

/-! ### Releases of the pending-launch queue (R457) -/

/-- A release on a core (R457): the entries of its queue, and the spilled records of the contexts that run there or have
entries there, may be taken. -/
def plRelease (s : State) (core : Nat) : State :=
  let c := s.core core
  let ids := c.plq.map (·.parent) ++ (s.groups.filter (fun e => s.onCore e.2 core)).map (fun e => e.2.id)
  let free := fun (e : PendLaunch) => ids.any (fun i => i.pkg == e.parent.pkg && i.ctx == e.parent.ctx)
  let s := if c.plq.isEmpty then s else s.putCore core { c with plq := c.plq.map (fun e => { e with released := true }) }
  let p := s.pkg (pkgOfCore core)
  if p.spills.any free then
    s.putPkg (pkgOfCore core) { p with spills := p.spills.map (fun e => if free e then { e with released := true } else e) }
  else s

end Sys2Proof.Machine
end

