-- ==== Sys2Proof/Machine/Extent.lean ====
section
/-!
DEFINITION. Checks 2 to 7 of R51 on the range of an engine's operand: tile operands (R340), copies (R367), and the ranges of
other engines. The address reported is that of the first failing byte.
-/

namespace Sys2Proof.Machine

/-- Bytes of one region of the address space (R48). -/
def regionSpan (va : Dword) : Nat :=
  match spaceOf va with
  | .control => 2 ^ 57
  | .tensor => 2 ^ 55
  | .reserved => 2 ^ 62
  | _ => 2 ^ 60

/-- The first offset at or above `o`, below `e`, that no binding of the stash holds. -/
def unboundFrom (c : Cohort) : Nat → Nat → Nat → Option Nat
  | 0, o, _ => some o
  | f + 1, o, e =>
    if e ≤ o then none
    else
      match c.bindingOf o with
      | some b => unboundFrom c f (b.so + b.len) e
      | none => some o

/-- The first offset of [o, e) of a window that fails check 7 (R39, R40). -/
def windowFail (s : State) (g : Group) (sp : Space) (o e : Nat) : Option Nat :=
  match sp with
  | .scratch => if e ≤ g.info.scr then none else some (max o g.info.scr)
  | .priv => if e ≤ g.info.priv then none else some (max o g.info.priv)
  | .stash =>
    match unboundFrom (s.cohort g.cohort) 9 o (min e (stashLimit s g.core)) with
    | some x => some x
    | none => if e ≤ stashLimit s g.core then none else some (max o (stashLimit s g.core))
  | .neigh =>
    (List.range 24).findSome? (fun n =>
      let lo := max o (n * 0x40000 + neighLimit s (s.cohort g.cohort) n)
      if lo < min e ((n + 1) * 0x40000) then some lo else none)
  | _ => none

/-- Checks 2 to 7 on n bytes, n at least 1. `allow` decides check 4 from the space and whether the package is the issuing one. -/
def extentCheck (s : State) (g : Group) (allow : Space → Bool → Bool) (va : Dword) (n : Nat) : Option (Nat × Dword) :=
  let sp := spaceOf va
  let span := regionSpan va
  let a := va.toNat
  let o := vaOff va
  let back := fun (x : Nat) => va + BitVec.ofNat 64 (x - o)
  if sp = .reserved then some (causeAccess, va)
  else if a / span ≠ (a + n - 1) / span then some (causeWindow, BitVec.ofNat 64 ((a / span + 1) * span))
  else if !allow sp (vaPkg va = pkgOfCore g.core) then some (causeSpace, va)
  else if sp.global then (if s.domain ≤ vaPkg va then some (causeAccess, va) else none)
  else if sp = .neigh && decide (g.info.neigh * 0x40000 < o + n) then
    some (causeRoleBound, back (max o (g.info.neigh * 0x40000)))
  else (windowFail s g sp o (o + n)).map (fun x => (causeAccess, back x))

end Sys2Proof.Machine
end

