-- ==== Sys2Proof/Machine/Race.lean ====
section
/-!
DEFINITION. Races of a group's stores with its own copies and tile instructions, and of copies on different channels (R173, R337,
R356): what is remembered of them, and which of the two values each byte takes; and what an access of a group waits for: fences,
tile instructions, RATOM requests, room in the write queues (R163, R177, R182, R295, R337, R375).
-/

namespace Sys2Proof.Machine

/-- A byte's place, the same for every window that reaches it: own scratchpad for the own neighbourhood slot, the global
address for the stash, the lane for the private window. -/
def lanePlace (s : State) (g : Group) (lane : Nat) (va : Dword) : Nat × Nat :=
  match spaceOf va with
  | .neigh =>
    let p := scrPlace s g .neigh (vaOff va)
    (1, p.1 * 2 ^ 20 + p.2)
  | .scratch => (1, g.cohort * 2 ^ 20 + vaOff va)
  | .priv => (2, privOff lane (vaOff va))
  | .stash =>
    match (s.cohort g.cohort).bindingOf (vaOff va) with
    | some b => (0, (b.g + BitVec.ofNat 64 (vaOff va - b.so)).toNat)
    | none => (3, vaOff va)
  | _ => (0, va.toNat)

/-- The places of n bytes from an address on. -/
def placesOf (s : State) (gk lane : Nat) (va : Dword) (n : Nat) : List (Nat × Nat) :=
  (List.range n).map (fun i => lanePlace s (s.grp gk) lane (va + BitVec.ofNat 64 i))

/-- A copy of the group is outstanding, or a tile instruction of it other than `own` is incomplete. -/
def State.racing (s : State) (gk : Nat) (own : Option Nat) : Bool :=
  let c := s.core (s.grp gk).core
  c.chans.any (fun x => x.2.queue.any (fun j => j.grp == gk)) || c.tile.jobs.any (fun j => j.grp == gk && some j.num != own)

/-- The occasion of a free choice at one byte. -/
def raceKey (k : Nat) (p : Nat × Nat) : Nat := ((k + 1) * 4 + p.1) * 2 ^ 72 + p.2

/-- A group has stored to a byte by an instruction after `seq`. -/
def Group.storedAfter (g : Group) (seq : Nat) (p : Nat × Nat) : Bool := g.stores.any (fun w => w.place == p && decide (seq < w.seq))

/-- A byte has been landed by one that `who` names. -/
def Group.landedBy (g : Group) (who : Lander → Bool) (p : Nat × Nat) : Bool :=
  g.landed.any (fun l => who l.by_ && l.place.1 == p.1 && decide (l.place.2 ≤ p.2) && decide (p.2 < l.place.2 + l.n))

/-- The bytes that a write to places leaves: where `q` holds, either value. -/
def eitherBytes (q : Nat × Nat → Bool) (free k : Nat) (places : List (Nat × Nat)) (old new : List Byte) : List Byte :=
  ((new.zip old).zip places).map (fun x => if q x.2 && Config.raceBytes free (raceKey k x.2) then x.1.2 else x.1.1)

/-- The bytes that an access issued with number `seq` reads: where the group has stored since, a value from before or after. -/
def Group.seenBytes (g : Group) (free seq : Nat) (places : List (Nat × Nat)) (bs : List Byte) : List Byte :=
  if g.stores.isEmpty then bs
  else (bs.zip places).map (fun x =>
    let c := x.1 :: (g.stores.filter (fun w => w.place == x.2 && decide (seq < w.seq))).map (·.old)
    c.getD (Config.racePick free (raceKey 1 x.2) % c.length) x.1)

/-- A store is remembered while something of the group other than `own` is under way. -/
def State.noteStore (s : State) (gk seq : Nat) (own : Option Nat) (places : List (Nat × Nat)) (old : List Byte) : State :=
  match s.groups.get? gk with
  | some g =>
    if s.racing gk own then
      { s with groups := s.groups.put gk { g with stores := g.stores ++ (places.zip old).map (fun p => { place := p.1, old := p.2, seq := seq }) } }
    else s
  | none => s

/-- One more byte has landed; ranges of one lander that meet are one. -/
def addLanded (who : Lander) (l : List Landed) (p : Nat × Nat) : List Landed :=
  match l with
  | y :: t => if y.by_ = who ∧ y.place.1 = p.1 ∧ y.place.2 + y.n = p.2 then { y with n := y.n + 1 } :: t else { place := p, n := 1, by_ := who } :: l
  | [] => [{ place := p, n := 1, by_ := who }]

def State.noteLanded (s : State) (gk : Nat) (who : Lander) (places : List (Nat × Nat)) : State :=
  match s.groups.get? gk with
  | none => s
  | some g => { s with groups := s.groups.put gk { g with landed := places.foldl (addLanded who) g.landed } }

/-- What a tile instruction has landed is settled at its completion (R337). -/
def State.settleTile (s : State) (gk num : Nat) : State :=
  match s.groups.get? gk with
  | none => s
  | some g =>
    if g.landed.isEmpty then s
    else { s with groups := s.groups.put gk { g with landed := g.landed.filter (fun l => l.by_ != .tile num) } }

/-- No copy or tile instruction of a group can race with an access of it now. -/
def State.calm (s : State) (gk : Nat) : Bool := (s.grp gk).landed.isEmpty && !s.racing gk none

/-- A store of a group. Bytes that an unwaited copy or an incomplete tile instruction has landed take either value (R173, R337). -/
def ownWrite (s : State) (gk seq : Nat) (r : TransReq) (lane hint : Nat) (bs : List Byte) : State × Acc Unit :=
  if s.calm gk then laneWrite s gk seq r lane hint bs
  else
    let at_ := placesOf s gk lane r.va bs.length
    match (laneRead s gk { r with read := true, write := false } lane hint bs.length).2 with
    | .stop _ => laneWrite s gk seq r lane hint bs
    | .ok old =>
      match laneWrite s gk seq r lane hint (eitherBytes ((s.grp gk).landedBy (fun _ => true)) s.free 0 at_ old bs) with
      | (t, .ok _) => (t.noteStore gk seq none at_ old, .ok ())
      | x => x

/-- An atomic step of a group on n bytes, of which `step` is the plain form: a write too. -/
def ownAtomic (s : State) (gk seq lane : Nat) (va : Dword) (n : Nat) (f : List Byte → List Byte)
    (step : (List Byte → List Byte) → State × Acc (List Byte)) : State × Acc (List Byte) :=
  if s.calm gk then step f
  else
    let at_ := placesOf s gk lane va n
    match step (fun old => eitherBytes ((s.grp gk).landedBy (fun _ => true)) s.free 0 at_ old (f old)) with
    | (t, .ok old) => (t.noteStore gk seq none at_ old, .ok old)
    | x => x

/-! ### Tile instructions of the group that have not completed (R337) -/

/-- It reads or writes memory (R337). -/
def TileOp.memory : TileOp → Bool
  | .ldb _ _ _ _ _ _ _ => true
  | .lda _ _ _ _ _ _ _ => true
  | .st _ _ _ _ => true
  | .gemm _ _ _ _ => true
  | .save _ _ _ _ _ _ _ => true
  | .restore _ _ _ => true
  | _ => false

/-- It writes as stores of the group (R337). -/
def TileOp.writes : TileOp → Bool
  | .st _ _ _ _ => true
  | .gemm _ _ _ _ => true
  | .save _ _ _ _ _ _ _ => true
  | _ => false

/-- The tile instructions of a group, issued up to a number, that have not completed. -/
def tileOpen (s : State) (gk upTo : Nat) : List TileJob :=
  (s.core (s.grp gk).core).tile.jobs.filter (fun j => j.grp == gk && decide (j.pend ≤ upTo))

/-- The bytes that they still store to. -/
def tileDests (s : State) (gk : Nat) : List (Nat × Nat) :=
  (tileOpen s gk (s.grp gk).seq).flatMap (fun j => j.dest.flatMap (fun d => placesOf s gk 0 d.1 d.2))

/-- A load of the group waits for a tile store to its bytes (R157, R337). -/
def loadWaitsTile (s : State) (gk : Nat) (accs : List (Nat × Dword × Nat)) : Bool :=
  let dests := tileDests s gk
  !dests.isEmpty && accs.any (fun a => (placesOf s gk ((s.grp gk).vis a.1) a.2.1 a.2.2).any dests.contains)

/-- A store of the group waits for its earlier tile stores (R158, R159, R337), but to a byte of theirs it may land before or after. -/
def storeWaitsTile (s : State) (gk : Nat) (accs : List (Nat × Dword × Nat)) : Bool :=
  let dests := tileDests s gk
  !dests.isEmpty && accs.any (fun a => (placesOf s gk ((s.grp gk).vis a.1) a.2.1 a.2.2).any (fun p => !dests.contains p))

/-! ### RATOM requests of the group (R152, R157, R375) -/

/-- A request that has not been performed holds one of the bytes of a lane's access; `every`: an access of every lane. -/
def ratomMeets (s : State) (gk : Nat) (every : Bool) (accs : List (Nat × Dword × Nat)) : Bool :=
  let g := s.grp gk
  let todo := g.ratoms.filter (fun r => !r.done)
  !todo.isEmpty && accs.any (fun a =>
    let here := placesOf s gk (g.vis a.1) a.2.1 a.2.2
    todo.any (fun r => r.accs.any (fun b => (every || g.vis b.lane == g.vis a.1) && (placesOf s gk 0 b.va r.n).any here.contains)))

/-! ### Fences (R163, R177, R182, R308, R376) -/

/-- An access, as a fence before it sees it: whether it loads, stores, stores to control space, is a release, and its scope. -/
structure Later where
  loads : Bool := false
  stores : Bool := false
  ctl : Bool := false
  rel : Bool := false
  scope : Nat := 0

/-- A fence whose condition is not met holds the access (R163, R308, R376). -/
def FenceKind.holds (k : FenceKind) (x : Later) : Bool :=
  match k with
  | .acq => x.loads || x.stores || x.rel
  | .rel => x.stores || x.rel
  | .full => x.loads || x.stores || x.rel
  | .tfence => x.ctl || x.rel

/-- A fence of the group, of those numbered below `n`, holds an access. -/
def Group.fenced (g : Group) (n : Nat) (x : Later) : Bool :=
  g.pend.any (fun p => match p.wait with
    | .fence k _ _ _ => decide (p.seq < n) && k.holds x
    | _ => false)

/-- An access must wait: for a fence, and a release for what it covers: tile instructions (R337), AGIVEs (R390), at .dom RATOM requests
(R182). -/
def fenceWait (s : State) (g : Group) (x : Later) : Bool :=
  g.fenced g.seq x ||
    (x.rel && ((tileOpen s s.cur g.seq).any (fun j => j.op.memory) || decide (0 < g.gives) || (decide (x.scope = 6) && !g.ratoms.isEmpty)))

/-- A byte address of a store lies in control space, through a stash binding too (R177, R290). -/
def ctlPlace (s : State) (g : Group) (va : Dword) : Bool :=
  match spaceOf va with
  | .control => true
  | .stash =>
    match (s.cohort g.cohort).bindingOf (vaOff va) with
    | some b => decide (spaceOf b.g = .control)
    | none => false
  | _ => false

/-! ### Room in the write queues (R293, R295) -/

/-- The port that a byte of a store is accepted at, and its line there: a core, or 65536 and a cluster. A global line that the cluster does
not hold has no entry yet. -/
def portLine (s : State) (gk lane : Nat) (va : Dword) : Nat × Nat :=
  let g := s.grp gk
  let o := vaOff va
  let lineOf := fun (a : Dword) =>
    let r := { g.req 1 va with va := a }
    match (s.cluster (clusterOf g.core)).lines.get? (reqTag s r) with
    | some l => l.phys
    | none => 2 ^ 61 + a.toNat / 128
  match spaceOf va with
  | .stash => (g.core, stashLine o)
  | .priv => (65536 + clusterOf g.core, lineOf (g.privBase + BitVec.ofNat 64 (privOff lane o)))
  | .control => (65536 + clusterOf g.core, lineOf va)
  | .tensor => (65536 + clusterOf g.core, lineOf va)
  | sp =>
    let p := scrPlace s g sp o
    ((s.cohort p.1).core, scrLine p.1 p.2)

/-- The queue of a port, and its entries. -/
def State.portQueue (s : State) (p : Nat) : List Nat × Nat :=
  if p < 65536 then ((s.core p).wq, 64) else ((s.cluster (p - 65536)).wq, 128)

/-- The ports have room for the lines that some stores need (R295). -/
def portRoom (s : State) (gk : Nat) (accs : List (Nat × Dword × Nat)) : Bool :=
  let need := (accs.flatMap (fun a => (List.range a.2.2).map (fun i => portLine s gk ((s.grp gk).vis a.1) (a.2.1 + BitVec.ofNat 64 i)))).eraseDups
  let new := need.filter (fun p => !(s.portQueue p.1).1.contains p.2)
  new.all (fun p => decide ((s.portQueue p.1).1.length + (new.filter (fun x => x.1 == p.1)).length ≤ (s.portQueue p.1).2))

/-- What the loads and stores of some lanes wait for, beside fences. -/
def loadsHeld (s : State) (gk : Nat) (every : Bool) (accs : List (Nat × Dword × Nat)) : Bool :=
  loadWaitsTile s gk accs || ratomMeets s gk every accs

def storesHeld (s : State) (gk : Nat) (every : Bool) (accs : List (Nat × Dword × Nat)) : Bool :=
  storeWaitsTile s gk accs || ratomMeets s gk every accs || !portRoom s gk accs

/-- Entries of the write queues drain as they may (R293). -/
def drainQueues (s : State) : State :=
  let out := fun (port : Nat) (q : List Nat) => q.filter (fun l => !Config.wqDrain (s.free * 2 ^ 20 + port) l)
  { s with
    cores := s.cores.map (fun (e : Nat × Core) => (e.1, { e.2 with wq := out e.1 e.2.wq }))
    clusters := s.clusters.map (fun (e : Nat × Cluster) => (e.1, { e.2 with wq := out (2 ^ 16 + e.1) e.2.wq }))
    dies := s.dies.map (fun (e : Nat × Die) =>
      (e.1, { e.2 with wqa := out (2 ^ 17 + 2 * e.1) e.2.wqa, wqb := out (2 ^ 17 + 2 * e.1 + 1) e.2.wqb })) }

end Sys2Proof.Machine
end

