-- ==== Sys2Proof/Machine/Flags.lean ====
section
/-!
DEFINITION. The conditions instructions raise: the five floating conditions in %err and %trapen (R226, R227, R248), FpReport
(R249) for instructions that complete at issue and for completions, and the bits of %vpstat (R266).
-/

namespace Sys2Proof.Machine

/-- The conditions enabled by %trapen[12:8], of a five-bit set (R226). -/
def enabledBits (trapen : Word) (c : Nat) : Nat := c &&& (trapen.toNat / 256 % 32)

/-- The conditions that %err records, of a five-bit set: those not enabled (R227). -/
def errBits (trapen : Word) (c : Nat) : Nat := c &&& (31 - trapen.toNat / 256 % 32)

/-- The union of the conditions that lanes raise. -/
def allConds (raised : List (Nat × Nat)) : Nat := raised.foldl (fun a p => a ||| p.2) 0

/-- FpReport of R249: %err takes the conditions that are not enabled; if some are enabled, the trap, with its lanes. -/
def fpReport (g : Group) (raised : List (Nat × Nat)) : Group × Option Trap :=
  let all := allConds raised
  let en := enabledBits g.trap.trapen all
  let g' := g.setErr (BitVec.ofNat 32 (errBits g.trap.trapen all * 256))
  if en = 0 then (g', none)
  else (g', some {
    cause := causeFp
    sub := en
    lanes := g.fold (maskOf (fun l => raised.any (fun p => p.1 == l && enabledBits g.trap.trapen p.2 != 0))) })

/-- An instruction that completes at issue and raises conditions: a trap comes before any result (R249). -/
def okFp (s : State) (g : Group) (raised : List (Nat × Nat)) (k : Group → Eff) : Res Eff :=
  match fpReport g raised with
  | (g', some t) => .ok { s := s, g := g'.trapHere t, done := true }
  | (g', none) => .ok (k g')

/-- Sets bits of a lane's %vpstat (R266, R268). -/
def Group.setVpstat (g : Group) (l : Nat) (bits : Word) : Group :=
  { g with vpstat := g.vpstat.store 0 l (g.vpstatOf l ||| bits) }

/-- Bits of %vpstat: NV, DZ, OF, UF, NX, CLAMP (R266). -/
def vpBits (c : Conds) (clamp : Bool) : Word := BitVec.ofNat 32 (c.bits.toNat + (if clamp then 32 else 0))

/-- The corrections of R265: the value %prec takes, and whether a field was corrected. -/
def precFix (w : Word) : Word × Bool :=
  let p := w.toNat % 256
  let m := w.toNat / 256 % 8
  let p' := if p = 0 then 1 else if p > 224 then 224 else p
  let m' := if m ≥ 5 then 0 else m
  (BitVec.ofNat 32 (w.toNat / 2048 % 512 * 2048 + m' * 256 + p'), p' != p || m' != m)

/-- A lane's %prec is written with the corrections of R265, which set CLAMP. -/
def Group.putPrec (g : Group) (l : Nat) (w : Word) : Group :=
  let r := precFix w
  let g := { g with prec := g.prec.put l r.1 }
  if r.2 then g.setVpstat l 32 else g

end Sys2Proof.Machine
end

