-- ==== Sys2Proof/Machine/Uniform.lean ====
section
/-!
DEFINITION. The uniform arithmetic of the front engine (R238): one result for the group, never a condition, never a trap on a
value.
-/

namespace Sys2Proof.Machine

/-! ### Arithmetic on one value, shared with the lane engine (R238, R250) -/

def satAdd (a b : Word) : Word := BitVec.ofInt 32 (sat (a.toInt + b.toInt) 32)
def satSub (a b : Word) : Word := BitVec.ofInt 32 (sat (a.toInt - b.toInt) 32)
def satuAdd (a b : Word) : Word := BitVec.ofInt 32 (satU ((a.toNat : Int) + b.toNat) 32)
def satuSub (a b : Word) : Word := BitVec.ofInt 32 (satU ((a.toNat : Int) - b.toNat) 32)
/-- The full signed and unsigned products. -/
def wideMul (a b : Word) : Dword := BitVec.ofInt 64 (a.toInt * b.toInt)
def wideMulU (a b : Word) : Dword := BitVec.ofNat 64 (a.toNat * b.toNat)
def hiWord (d : Dword) : Word := d.extractLsb' 32 32
def loWord (d : Dword) : Word := d.setWidth 32

/-- Shifts: the count is all of B, unsigned (R238). -/
def shl (a b : Word) : Word := if 32 ≤ b.toNat then 0 else a <<< b.toNat
def shr (a b : Word) : Word := if 32 ≤ b.toNat then 0 else a >>> b.toNat
def sar (a b : Word) : Word := a.sshiftRight (min b.toNat 32)
def rotl (a b : Word) : Word := a.rotateLeft (b.toNat % 32)
def shl64 (a : Dword) (b : Word) : Dword := if 64 ≤ b.toNat then 0 else a <<< b.toNat
def shr64 (a : Dword) (b : Word) : Dword := if 64 ≤ b.toNat then 0 else a >>> b.toNat
def sar64 (a : Dword) (b : Word) : Dword := a.sshiftRight (min b.toNat 64)

def minS (a b : Word) : Word := if a.toInt ≤ b.toInt then a else b
def maxS (a b : Word) : Word := if a.toInt ≤ b.toInt then b else a
def minU (a b : Word) : Word := if a.toNat ≤ b.toNat then a else b
def maxU (a b : Word) : Word := if a.toNat ≤ b.toNat then b else a

/-- The conditions of UCMP and ICMP (R238). -/
def cmpCC {w : Nat} (cc : CC) (a b : BitVec w) : Bool :=
  match cc with
  | .eq => a == b
  | .ne => a != b
  | .lt => decide (a.toInt < b.toInt)
  | .le => decide (a.toInt ≤ b.toInt)
  | .gt => decide (b.toInt < a.toInt)
  | .ge => decide (b.toInt ≤ a.toInt)
  | .ltu => decide (a.toNat < b.toNat)
  | .leu => decide (a.toNat ≤ b.toNat)
  | .gtu => decide (b.toNat < a.toNat)
  | .geu => decide (b.toNat ≤ a.toNat)

/-- The number of ones among the low n bits. -/
def onesBelow (a : Word) : Nat → Nat
  | 0 => 0
  | n + 1 => onesBelow a n + (a.getLsbD n).toNat

def popc (a : Word) : Word := BitVec.ofNat 32 (onesBelow a 32)

/-- The number of zeros from bit n − 1 down to the first one. -/
def zerosFrom (a : Word) : Nat → Nat
  | 0 => 0
  | n + 1 => if a.getLsbD n then 0 else zerosFrom a n + 1

def clz (a : Word) : Word := BitVec.ofNat 32 (zerosFrom a 32)
def brev (a : Word) : Word := a.reverse
def ctz (a : Word) : Word := clz (brev a)

/-- UBIT.EXTR and .EXTRS (R238): pos is B[4:0], len is B[13:8], cut at the top of the word. -/
def bitExtr (signed : Bool) (a b : Word) : Word :=
  let pos := b.toNat % 32
  let len := min (b.toNat / 256 % 64) (32 - pos)
  if len = 0 then 0
  else
    let f := a.toNat / 2 ^ pos % 2 ^ len
    if signed && f.testBit (len - 1) then BitVec.ofNat 32 (f + (2 ^ 32 - 2 ^ len)) else BitVec.ofNat 32 f

/-- LEA: a 64-bit address plus an index, extended and shifted by X[2:0]. -/
def leaAdd (signed : Bool) (o : EOps) (a : Dword) (b : Word) : Dword :=
  a + ((if signed then b.signExtend 64 else b.setWidth 64) <<< xField o 0 3)

/-! ### The shapes of effect -/

/-- A pair as two register values. -/
def pairOuts (key0 key1 : Nat) (d : Dword) : List (Nat × Word) := [(key0, loWord d), (key1, hiWord d)]

/-- One uniform register from A and B. -/
def uni32 (f : Word → Word → Word) (ck : Checks) (sh : Shape) (o : EOps) (s : State) : Out :=
  issueC ck sh o (fun s g => okOuts s g [(sKey o.d.toNat, f (g.s1 s.free o.a.toNat) (g.uB32 s.free o))]) s

/-- A uniform pair from pairs A and B. -/
def uni64 (f : Dword → Dword → Dword) (ck : Checks) (sh : Shape) (o : EOps) (s : State) : Out :=
  issueC ck sh o (fun s g =>
    okOuts s g (pairOuts (sKey o.d.toNat) (sKey (o.d.toNat + 1)) (f (g.s2 s.free o.a.toNat) (g.uB64 s.free o)))) s

/-- A uniform predicate from uniform predicates A and B. -/
def uniK (f : Bool → Bool → Bool) (ck : Checks) (sh : Shape) (o : EOps) (s : State) : Out :=
  issueC ck sh o (fun s g => okOuts s (g.putK o.d.toNat (f (g.rdk o.a.toNat) (g.rdk o.b.toNat))) []) s

/-- A uniform predicate from A and B. -/
def uniCmp (f : Word → Word → Bool) (ck : Checks) (sh : Shape) (o : EOps) (s : State) : Out :=
  issueC ck sh o (fun s g => okOuts s (g.putK o.d.toNat (f (g.s1 s.free o.a.toNat) (g.uB32 s.free o))) []) s

/-- One uniform register from A, or from the literal in its place. -/
def uniMov (ck : Checks) (sh : Shape) (o : EOps) (s : State) : Out :=
  issueC ck sh o (fun s g => okOuts s g [(sKey o.d.toNat, g.uA32 s.free o)]) s

/-- ULEA. -/
def uniLea (signed : Bool) (ck : Checks) (sh : Shape) (o : EOps) (s : State) : Out :=
  issueC ck sh o (fun s g =>
    okOuts s g (pairOuts (sKey o.d.toNat) (sKey (o.d.toNat + 1))
      (leaAdd signed o (g.s2 s.free o.a.toNat) (g.uB32 s.free o)))) s

/-- The lanes of a visible mask whose pair of physical lanes disagrees (R530). -/
def Group.mismatch (g : Group) (m : Half) (differ : Nat → Bool) : Half :=
  if g.info.prot then maskOf (fun v => decide (v < 8) && m.getLsbD v && differ v) else 0

/-- UMOV.FIRST: the lane register of the lowest lane of %em, 0 when %em is 0; in a protected launch the pair is compared
(R530). -/
def umovFirst (ck : Checks) (sh : Shape) (o : EOps) (s : State) : Out :=
  issueC ck sh o (fun s g =>
    match lanesOf g.em with
    | [] => okOuts s g [(sKey o.d.toNat, 0)]
    | v :: _ =>
      let val := fun l => g.v1 s.free o.a.toNat l
      if g.info.prot && val (2 * v) != val (2 * v + 1) then shadowHit s g (maskOf (fun i => i == v)) (fun _ => 0)
      else okOuts s g [(sKey o.d.toNat, val (g.phys v))]) s

/-- Uniform add modulo 2^32 (R238). -/
def execUadd (o : EOps) (s : State) : Out :=
  uni32 (fun a b => a + b) {} shUadd o s

/-- Uniform 32-bit add in the base form (R238). -/
def execUaddB3 (o : B3Ops) (s : State) : Out :=
  uni32 (fun a b => a + b) (b3Checks 0x10 shUadd o) shUadd (b3AsE 0x10 shUadd o) s

/-- Uniform subtract modulo 2^32 (R238). -/
def execUaddSub (o : EOps) (s : State) : Out :=
  uni32 (fun a b => a - b) {} shUadd o s

/-- Uniform 32-bit subtract in the base form (R238). -/
def execUaddSubB3 (o : B3Ops) (s : State) : Out :=
  uni32 (fun a b => a - b) (b3Checks 0x10 shUadd o) shUadd (b3AsE 0x10 shUadd o) s

/-- Uniform signed saturating add (R238). -/
def execUaddSat (o : EOps) (s : State) : Out :=
  uni32 satAdd {} shUadd o s

/-- Uniform signed saturating subtract (R238). -/
def execUaddSubSat (o : EOps) (s : State) : Out :=
  uni32 satSub {} shUadd o s

/-- Uniform 64-bit add on pairs (R238). -/
def execUadd64 (o : EOps) (s : State) : Out :=
  uni64 (fun a b => a + b) {} shUadd64 o s

/-- Uniform 64-bit subtract on pairs (R238). -/
def execUaddSub64 (o : EOps) (s : State) : Out :=
  uni64 (fun a b => a - b) {} shUadd64 o s

/-- Uniform product, bits [31:0] (R238). -/
def execUmulLo (o : EOps) (s : State) : Out :=
  uni32 (fun a b => a * b) {} shUadd o s

/-- Uniform low product in the base form (R238). -/
def execUmulLoB3 (o : B3Ops) (s : State) : Out :=
  uni32 (fun a b => a * b) (b3Checks 0x11 shUadd o) shUadd (b3AsE 0x11 shUadd o) s

/-- Uniform signed product, bits [63:32] (R238). -/
def execUmulHi (o : EOps) (s : State) : Out :=
  uni32 (fun a b => hiWord (wideMul a b)) {} shUadd o s

/-- Uniform signed high product in the base form (R238). -/
def execUmulHiB3 (o : B3Ops) (s : State) : Out :=
  uni32 (fun a b => hiWord (wideMul a b)) (b3Checks 0x11 shUadd o) shUadd (b3AsE 0x11 shUadd o) s

/-- Uniform unsigned product, bits [63:32] (R238). -/
def execUmulHiu (o : EOps) (s : State) : Out :=
  uni32 (fun a b => hiWord (wideMulU a b)) {} shUadd o s

/-- Uniform unsigned high product in the base form (R238). -/
def execUmulHiuB3 (o : B3Ops) (s : State) : Out :=
  uni32 (fun a b => hiWord (wideMulU a b)) (b3Checks 0x11 shUadd o) shUadd (b3AsE 0x11 shUadd o) s

/-- Uniform bitwise AND (R238). -/
def execUlogAnd (o : EOps) (s : State) : Out :=
  uni32 (fun a b => a &&& b) {} shUadd o s

/-- Uniform AND in the base form (R238). -/
def execUlogAndB3 (o : B3Ops) (s : State) : Out :=
  uni32 (fun a b => a &&& b) (b3Checks 0x12 shUadd o) shUadd (b3AsE 0x12 shUadd o) s

/-- Uniform bitwise OR (R238). -/
def execUlogOr (o : EOps) (s : State) : Out :=
  uni32 (fun a b => a ||| b) {} shUadd o s

/-- Uniform OR in the base form (R238). -/
def execUlogOrB3 (o : B3Ops) (s : State) : Out :=
  uni32 (fun a b => a ||| b) (b3Checks 0x12 shUadd o) shUadd (b3AsE 0x12 shUadd o) s

/-- Uniform bitwise XOR (R238). -/
def execUlogXor (o : EOps) (s : State) : Out :=
  uni32 (fun a b => a ^^^ b) {} shUadd o s

/-- Uniform XOR in the base form (R238). -/
def execUlogXorB3 (o : B3Ops) (s : State) : Out :=
  uni32 (fun a b => a ^^^ b) (b3Checks 0x12 shUadd o) shUadd (b3AsE 0x12 shUadd o) s

/-- Uniform bitwise AND-NOT (R238). -/
def execUlogAndn (o : EOps) (s : State) : Out :=
  uni32 (fun a b => a &&& ~~~b) {} shUadd o s

/-- Uniform AND-NOT in the base form (R238). -/
def execUlogAndnB3 (o : B3Ops) (s : State) : Out :=
  uni32 (fun a b => a &&& ~~~b) (b3Checks 0x12 shUadd o) shUadd (b3AsE 0x12 shUadd o) s

/-- AND of two k predicates (R238). -/
def execUlogKand (o : EOps) (s : State) : Out :=
  uniK (fun a b => a && b) {} shUlogKand o s

/-- OR of two k predicates (R238). -/
def execUlogKor (o : EOps) (s : State) : Out :=
  uniK (fun a b => a || b) {} shUlogKand o s

/-- XOR of two k predicates (R238). -/
def execUlogKxor (o : EOps) (s : State) : Out :=
  uniK (fun a b => a != b) {} shUlogKand o s

/-- AND-NOT of two k predicates (R238). -/
def execUlogKandn (o : EOps) (s : State) : Out :=
  uniK (fun a b => a && !b) {} shUlogKand o s

/-- Uniform shift left, giving 0 for counts of 32 or more (R238). -/
def execUshfShl (o : EOps) (s : State) : Out :=
  uni32 shl {} shUadd o s

/-- Uniform shift left in the base form (R238). -/
def execUshfShlB3 (o : B3Ops) (s : State) : Out :=
  uni32 shl (b3Checks 0x13 shUadd o) shUadd (b3AsE 0x13 shUadd o) s

/-- Uniform logical shift right (R238). -/
def execUshfShr (o : EOps) (s : State) : Out :=
  uni32 shr {} shUadd o s

/-- Uniform logical shift right in the base form (R238). -/
def execUshfShrB3 (o : B3Ops) (s : State) : Out :=
  uni32 shr (b3Checks 0x13 shUadd o) shUadd (b3AsE 0x13 shUadd o) s

/-- Uniform arithmetic shift right (R238). -/
def execUshfSar (o : EOps) (s : State) : Out :=
  uni32 sar {} shUadd o s

/-- Uniform arithmetic shift right in the base form (R238). -/
def execUshfSarB3 (o : B3Ops) (s : State) : Out :=
  uni32 sar (b3Checks 0x13 shUadd o) shUadd (b3AsE 0x13 shUadd o) s

/-- Uniform rotate left by n mod 32 (R238). -/
def execUshfRot (o : EOps) (s : State) : Out :=
  uni32 rotl {} shUadd o s

/-- Uniform rotate left in the base form (R238). -/
def execUshfRotB3 (o : B3Ops) (s : State) : Out :=
  uni32 rotl (b3Checks 0x13 shUadd o) shUadd (b3AsE 0x13 shUadd o) s

/-- Uniform comparison under condition cc, written to a k predicate (R238). -/
def execUcmp (cc : CC) (o : EOps) (s : State) : Out :=
  uniCmp (cmpCC cc) {} shUcmp o s

/-- Uniform move from an s register or a 32-bit literal (R238). -/
def execUmov (o : EOps) (s : State) : Out :=
  uniMov {} shUmov o s

/-- Uniform move in the base form (R238). -/
def execUmovB3 (o : B3Ops) (s : State) : Out :=
  uniMov (b3Checks 0x15 shUmov o) shUmov (b3AsE 0x15 shUmov o) s

/-- Uniform move of a pair or a 64-bit literal (R238). -/
def execUmov64 (o : EOps) (s : State) : Out :=
  (fun ck sh o s => issueC ck sh o (fun s g => okOuts s g (pairOuts (sKey o.d.toNat) (sKey (o.d.toNat + 1)) (g.uA64 s.free o))) s) {} shUmov64 o s

/-- Uniform select by a k predicate (R238). -/
def execUsel (o : EOps) (s : State) : Out :=
  (fun ck sh o s => issueC ck sh o (fun s g => okOuts s g [(sKey o.d.toNat, if g.rdk o.c.toNat then g.s1 s.free o.a.toNat else g.uB32 s.free o)]) s) {} shUsel o s

/-- Uniform signed minimum (R238). -/
def execUminmaxMin (o : EOps) (s : State) : Out :=
  uni32 minS {} shUadd o s

/-- Uniform signed maximum (R238). -/
def execUminmaxMax (o : EOps) (s : State) : Out :=
  uni32 maxS {} shUadd o s

/-- Uniform unsigned minimum (R238). -/
def execUminmaxMinu (o : EOps) (s : State) : Out :=
  uni32 minU {} shUadd o s

/-- Uniform unsigned maximum (R238). -/
def execUminmaxMaxu (o : EOps) (s : State) : Out :=
  uni32 maxU {} shUadd o s

/-- Uniform population count (R238). -/
def execUbitPopc (o : EOps) (s : State) : Out :=
  uni32 (fun a _ => popc a) {} shUbitPopc o s

/-- Uniform count of leading zeros (R238). -/
def execUbitClz (o : EOps) (s : State) : Out :=
  uni32 (fun a _ => clz a) {} shUbitPopc o s

/-- Uniform count of trailing zeros (R238). -/
def execUbitCtz (o : EOps) (s : State) : Out :=
  uni32 (fun a _ => ctz a) {} shUbitPopc o s

/-- Uniform bit reverse (R238). -/
def execUbitBrev (o : EOps) (s : State) : Out :=
  uni32 (fun a _ => brev a) {} shUbitPopc o s

/-- Uniform unsigned bit-field extract (R238). -/
def execUbitExtr (o : EOps) (s : State) : Out :=
  uni32 (bitExtr false) {} shUadd o s

/-- Uniform signed bit-field extract (R238). -/
def execUbitExtrs (o : EOps) (s : State) : Out :=
  uni32 (bitExtr true) {} shUadd o s

/-- Uniform 64-bit address plus a zero-extended index shifted left (R238). -/
def execUlea (o : EOps) (s : State) : Out :=
  uniLea false {} shUlea o s

/-- Uniform 64-bit address plus a sign-extended index shifted left (R238). -/
def execUleaS (o : EOps) (s : State) : Out :=
  uniLea true {} shUleaS o s

/-- Moves the lane value of the lowest active lane to an s register (R238). -/
def execUmovFirst (o : EOps) (s : State) : Out :=
  umovFirst {} shUmovFirst o s

end Sys2Proof.Machine
end

