-- ==== Sys2Proof/Machine/LaneInt.lean ====
section
/-!
DEFINITION. Lane integer arithmetic, moves, index registers and lane exchange (R239 to R255). Every source is read before any
result; an inactive lane keeps its value.
-/

namespace Sys2Proof.Machine

/-- Register results of a lane: consecutive registers from n. -/
def laneOuts (n l : Nat) : List Word → List (Nat × Word)
  | [] => []
  | w :: t => (vKey n l, w) :: laneOuts (n + 1) l t

/-- The results of all active lanes. -/
def outsOf (o : EOps) (m : Half) (f : Nat → List Word) : List (Nat × Word) :=
  (lanesOf m).flatMap (fun l => laneOuts o.d.toNat l (f l))

/-- A lane instruction with register results: for each active lane, the words from register D on. -/
def laneG (f : State → Group → Nat → List Word) (ck : Checks) (sh : Shape) (o : EOps) (s : State) : Out :=
  issueC ck sh o (fun s g => okOuts s g (outsOf o (g.active sh o s.free) (f s g))) s

/-- One word from A, B and C. -/
def lane1 (f : Word → Word → Word → Word) (ck : Checks) (sh : Shape) (o : EOps) (s : State) : Out :=
  laneG (fun s g l => [f (g.a32 s.free o l) (g.b32 s.free o l) (g.c32 s.free o l)]) ck sh o s

/-- One word from A alone. -/
def laneA (f : Word → Word) (ck : Checks) (sh : Shape) (o : EOps) (s : State) : Out :=
  laneG (fun s g l => [f (g.a32 s.free o l)]) ck sh o s

def twoWords (d : Dword) : List Word := [loWord d, hiWord d]

/-- A pair from pairs A and B. -/
def lane2 (f : Dword → Dword → Dword) (ck : Checks) (sh : Shape) (o : EOps) (s : State) : Out :=
  laneG (fun s g l => twoWords (f (g.a64 s.free o l) (g.b64 s.free o l))) ck sh o s

/-- A pair from words A and B and a pair C. -/
def laneWide (f : Word → Word → Dword → Dword) (ck : Checks) (sh : Shape) (o : EOps) (s : State) : Out :=
  laneG (fun s g l => twoWords (f (g.a32 s.free o l) (g.b32 s.free o l) (g.c64 s.free o l))) ck sh o s

/-- A pair from a pair A and a word B. -/
def lanePW (f : Dword → Word → Dword) (ck : Checks) (sh : Shape) (o : EOps) (s : State) : Out :=
  laneG (fun s g l => twoWords (f (g.a64 s.free o l) (g.b32 s.free o l))) ck sh o s

/-- A lane predicate from a test of each active lane (R58). -/
def laneQ (f : State → Group → Nat → Bool) (ck : Checks) (sh : Shape) (o : EOps) (s : State) : Out :=
  issueC ck sh o (fun s g =>
    okOuts s g (g.qOut o.d.toNat (g.active sh o s.free) (maskOf (f s g)))) s

/-- ILOG.LUT: bit i is X[4a + 2b + c] (R250). -/
def lut (x : BitVec 32) (a b c : Word) : Word :=
  let sel := fun (i : Nat) (m : Word) => if x.getLsbD i then m else 0
  sel 0 (~~~a &&& ~~~b &&& ~~~c) ||| sel 1 (~~~a &&& ~~~b &&& c) ||| sel 2 (~~~a &&& b &&& ~~~c) |||
  sel 3 (~~~a &&& b &&& c) ||| sel 4 (a &&& ~~~b &&& ~~~c) ||| sel 5 (a &&& ~~~b &&& c) |||
  sel 6 (a &&& b &&& ~~~c) ||| sel 7 (a &&& b &&& c)

/-- |A| modulo 2^32, and saturated (R250). -/
def absWrap (a : Word) : Word := if a.getLsbD 31 then 0 - a else a
def absSat (a : Word) : Word := BitVec.ofInt 32 (sat (a.toInt.natAbs : Int) 32)

/-- IBIT.INS (R250). -/
def bitIns (a b c : Word) : Word :=
  let pos := b.toNat % 32
  let len := min (b.toNat / 256 % 64) (32 - pos)
  if len = 0 then a
  else
    let m := BitVec.ofNat 32 ((2 ^ len - 1) * 2 ^ pos)
    (a &&& ~~~m) ||| ((c <<< pos) &&& m)

def narrowBits : NarrowW → Nat
  | .w8 => 8
  | .w16 => 16

/-- The ICVT results (R251). -/
def icvtSext (w : NarrowW) (a : Word) : Word := (a.setWidth (narrowBits w)).signExtend 32
def icvtZext (w : NarrowW) (a : Word) : Word := (a.setWidth (narrowBits w)).setWidth 32
def icvtSatS (w : NarrowW) (a : Word) : Word := BitVec.ofInt 32 (sat a.toInt (narrowBits w))
def icvtSatU (w : NarrowW) (a : Word) : Word := BitVec.ofInt 32 (satU a.toInt (narrowBits w))

/-- MOVX: the register each lane reaches (R253). -/
def movxIdx (g : Group) (o : EOps) (base : Nat) (l : Nat) : Nat := (g.xr (xField o 0 2) l).toNat + base

/-- The lanes whose index is not below N32 (R253). -/
def movxBad (g : Group) (o : EOps) (base : Nat) (m : Half) : Half :=
  m &&& maskOf (fun l => decide (g.info.n32 ≤ movxIdx g o base l))

/-- The registers that MOVX reaches in the lanes of a mask. -/
def movxRegs (g : Group) (o : EOps) (base : Nat) (m : Half) : List RegId :=
  (lanesOf m).map (fun l => .v (movxIdx g o base l))

/-- The lanes of MOVX.LD that reach a register with a pending write in their own lane (R106, R253); none where an index fails. -/
def movxRace (g : Group) (o : EOps) (base : Nat) (m : Half) : Half :=
  if movxBad g o base m != 0 then 0
  else m &&& maskOf (fun l => g.raceLanes [.v (movxIdx g o base l)] (1#16 <<< l) != 0)

/-- The checks of MOVX: what MOVX.LD reads is the register that each lane reaches. -/
def movxChecks (st : Bool) (sh : Shape) (o : EOps) (ck : Checks) : Checks :=
  if st then ck
  else { ck with
    indexed := fun s g =>
      let m := g.active sh o s.free
      if movxBad g o o.a.toNat m != 0 then [] else movxRegs g o o.a.toNat m
    race := some (fun s g => movxRace g o o.a.toNat (g.active sh o s.free)) }

/-- MOVX.LD and MOVX.ST (R253): no lane moves if one fails; the race and the interlock apply to the registers reached. -/
def movx (st : Bool) (ck : Checks) (sh : Shape) (o : EOps) (s : State) : Out :=
  issueC (movxChecks st sh o ck) sh o (fun s g =>
    let m := g.active sh o s.free
    let base := if st then o.d.toNat else o.a.toNat
    let bad := movxBad g o base m
    if bad != 0 then .trap { cause := causeRegBound, lanes := g.fold bad }
    else if st && g.interlocked (movxRegs g o base m) then .hold .suspended
    else okOuts s g ((lanesOf m).map (fun l =>
      if st then (vKey (movxIdx g o base l) l, g.v1 s.free o.a.toNat l)
      else (vKey o.d.toNat l, g.v1 s.free (movxIdx g o base l) l)))) s

/-- XSET and XSET.ADD (R254). -/
def xset (add : Bool) (ck : Checks) (sh : Shape) (o : EOps) (s : State) : Out :=
  issueC ck sh o (fun s g =>
    okOuts s ((lanesOf (g.active sh o s.free)).foldl (fun g' l =>
      let v := ((match o.lit with
        | some w => w.setWidth 32
        | none => g.v1 s.free o.a.toNat l) : Word).setWidth 16
      g'.putX o.d.toNat l (if add then g.xr o.d.toNat l + v else v)) g) []) s

/-- The source lane of SHFL for visible lane l (R255, R529). -/
def shflLane (kind : Nat) (n l : Nat) (b : Word) : Option Nat :=
  match kind with
  | 0 => some (b.toNat % n)
  | 1 => if b.toNat ≤ l then some (l - b.toNat) else none
  | 2 => if l + b.toNat < n then some (l + b.toNat) else none
  | _ => some (l ^^^ (b.toNat % n))

/-- SHFL (R255): each active lane reads register A of another lane, whatever that lane's mask. In a protected launch each
physical lane reads the lane of its own place in the pair. -/
def shflSrc (kind : Nat) (s : State) (g : Group) (o : EOps) (l : Nat) : Nat :=
  match shflLane kind g.nlanes (g.vis l) (g.b32 s.free o l) with
  | some v => if g.info.prot then 2 * v + l % 2 else v
  | none => l

/-- The active lanes whose source lane of A, or whose own B, has a pending write (R106, R255). -/
def shflRace (kind : Nat) (sh : Shape) (o : EOps) (s : State) (g : Group) : Half :=
  g.active sh o s.free &&& maskOf (fun l =>
    g.raceLanes [.v o.a.toNat] (1#16 <<< shflSrc kind s g o l) != 0 ||
    (!litInB sh o && g.raceLanes (kindRegs sh.b (uB o) o.b.toNat) (1#16 <<< l) != 0))

def shfl (kind : Nat) (ck : Checks) (sh : Shape) (o : EOps) (s : State) : Out :=
  laneG (fun s g l => [g.v1 s.free o.a.toNat (shflSrc kind s g o l)]) { ck with race := some (shflRace kind sh o) } sh o s

/-- Lane add modulo 2^32 (R250). -/
def execIadd (o : EOps) (s : State) : Out :=
  lane1 (fun a b _ => a + b) {} shIadd o s

/-- Lane add in the base form (R250). -/
def execIaddB3 (o : B3Ops) (s : State) : Out :=
  lane1 (fun a b _ => a + b) (b3Checks 0x20 shIadd o) shIadd (b3AsE 0x20 shIadd o) s

/-- Lane subtract modulo 2^32 (R250). -/
def execIaddSub (o : EOps) (s : State) : Out :=
  lane1 (fun a b _ => a - b) {} shIadd o s

/-- Lane subtract in the base form (R250). -/
def execIaddSubB3 (o : B3Ops) (s : State) : Out :=
  lane1 (fun a b _ => a - b) (b3Checks 0x20 shIadd o) shIadd (b3AsE 0x20 shIadd o) s

/-- Lane signed saturating add (R250). -/
def execIaddSat (o : EOps) (s : State) : Out :=
  lane1 (fun a b _ => satAdd a b) {} shIadd o s

/-- Lane signed saturating add in the base form (R250). -/
def execIaddSatB3 (o : B3Ops) (s : State) : Out :=
  lane1 (fun a b _ => satAdd a b) (b3Checks 0x20 shIadd o) shIadd (b3AsE 0x20 shIadd o) s

/-- Lane signed saturating subtract (R250). -/
def execIaddSubSat (o : EOps) (s : State) : Out :=
  lane1 (fun a b _ => satSub a b) {} shIadd o s

/-- Lane signed saturating subtract in the base form (R250). -/
def execIaddSubSatB3 (o : B3Ops) (s : State) : Out :=
  lane1 (fun a b _ => satSub a b) (b3Checks 0x20 shIadd o) shIadd (b3AsE 0x20 shIadd o) s

/-- Lane 64-bit add (R250). -/
def execIadd64 (o : EOps) (s : State) : Out :=
  lane2 (fun a b => a + b) {} shIadd64 o s

/-- Lane 64-bit subtract (R250). -/
def execIaddSub64 (o : EOps) (s : State) : Out :=
  lane2 (fun a b => a - b) {} shIadd64 o s

/-- Lane unsigned saturating add (R250). -/
def execIaddSatu (o : EOps) (s : State) : Out :=
  lane1 (fun a b _ => satuAdd a b) {} shIadd o s

/-- Lane unsigned saturating subtract (R250). -/
def execIaddSubSatu (o : EOps) (s : State) : Out :=
  lane1 (fun a b _ => satuSub a b) {} shIadd o s

/-- Lane product, bits [31:0] (R250). -/
def execImulLo (o : EOps) (s : State) : Out :=
  lane1 (fun a b _ => a * b) {} shIadd o s

/-- Lane low product in the base form (R250). -/
def execImulLoB3 (o : B3Ops) (s : State) : Out :=
  lane1 (fun a b _ => a * b) (b3Checks 0x21 shIadd o) shIadd (b3AsE 0x21 shIadd o) s

/-- Lane signed product, bits [63:32] (R250). -/
def execImulHi (o : EOps) (s : State) : Out :=
  lane1 (fun a b _ => hiWord (wideMul a b)) {} shIadd o s

/-- Lane signed high product in the base form (R250). -/
def execImulHiB3 (o : B3Ops) (s : State) : Out :=
  lane1 (fun a b _ => hiWord (wideMul a b)) (b3Checks 0x21 shIadd o) shIadd (b3AsE 0x21 shIadd o) s

/-- Lane unsigned product, bits [63:32] (R250). -/
def execImulHiu (o : EOps) (s : State) : Out :=
  lane1 (fun a b _ => hiWord (wideMulU a b)) {} shIadd o s

/-- Lane unsigned high product in the base form (R250). -/
def execImulHiuB3 (o : B3Ops) (s : State) : Out :=
  lane1 (fun a b _ => hiWord (wideMulU a b)) (b3Checks 0x21 shIadd o) shIadd (b3AsE 0x21 shIadd o) s

/-- Lane full 64-bit signed product (R250). -/
def execImulWide (o : EOps) (s : State) : Out :=
  laneWide (fun a b _ => wideMul a b) {} shImulWide o s

/-- Lane full 64-bit unsigned product (R250). -/
def execImulWideu (o : EOps) (s : State) : Out :=
  laneWide (fun a b _ => wideMulU a b) {} shImulWide o s

/-- Lane multiply-add modulo 2^32 (R250). -/
def execImadLo (o : EOps) (s : State) : Out :=
  lane1 (fun a b c => a * b + c) {} shImadLo o s

/-- Lane signed widening multiply-add into a pair (R250). -/
def execImadWide (o : EOps) (s : State) : Out :=
  laneWide (fun a b c => wideMul a b + c) {} shImadWide o s

/-- Lane unsigned widening multiply-add into a pair (R250). -/
def execImadWideu (o : EOps) (s : State) : Out :=
  laneWide (fun a b c => wideMulU a b + c) {} shImadWide o s

/-- Lane bitwise AND (R250). -/
def execIlogAnd (o : EOps) (s : State) : Out :=
  lane1 (fun a b _ => a &&& b) {} shIadd o s

/-- Lane AND in the base form (R250). -/
def execIlogAndB3 (o : B3Ops) (s : State) : Out :=
  lane1 (fun a b _ => a &&& b) (b3Checks 0x23 shIadd o) shIadd (b3AsE 0x23 shIadd o) s

/-- Lane bitwise OR (R250). -/
def execIlogOr (o : EOps) (s : State) : Out :=
  lane1 (fun a b _ => a ||| b) {} shIadd o s

/-- Lane OR in the base form (R250). -/
def execIlogOrB3 (o : B3Ops) (s : State) : Out :=
  lane1 (fun a b _ => a ||| b) (b3Checks 0x23 shIadd o) shIadd (b3AsE 0x23 shIadd o) s

/-- Lane bitwise XOR (R250). -/
def execIlogXor (o : EOps) (s : State) : Out :=
  lane1 (fun a b _ => a ^^^ b) {} shIadd o s

/-- Lane XOR in the base form (R250). -/
def execIlogXorB3 (o : B3Ops) (s : State) : Out :=
  lane1 (fun a b _ => a ^^^ b) (b3Checks 0x23 shIadd o) shIadd (b3AsE 0x23 shIadd o) s

/-- Lane bitwise AND-NOT (R250). -/
def execIlogAndn (o : EOps) (s : State) : Out :=
  lane1 (fun a b _ => a &&& ~~~b) {} shIadd o s

/-- Lane AND-NOT in the base form (R250). -/
def execIlogAndnB3 (o : B3Ops) (s : State) : Out :=
  lane1 (fun a b _ => a &&& ~~~b) (b3Checks 0x23 shIadd o) shIadd (b3AsE 0x23 shIadd o) s

/-- Lane three-input lookup table from X[7:0] (R250). -/
def execIlogLut (o : EOps) (s : State) : Out :=
  (fun ck sh o s => lane1 (lut o.x) ck sh o s) {} shIlogLut o s

/-- Lane shift left (R250). -/
def execIshfShl (o : EOps) (s : State) : Out :=
  lane1 (fun a b _ => shl a b) {} shIadd o s

/-- Lane shift left in the base form (R250). -/
def execIshfShlB3 (o : B3Ops) (s : State) : Out :=
  lane1 (fun a b _ => shl a b) (b3Checks 0x24 shIadd o) shIadd (b3AsE 0x24 shIadd o) s

/-- Lane logical shift right (R250). -/
def execIshfShr (o : EOps) (s : State) : Out :=
  lane1 (fun a b _ => shr a b) {} shIadd o s

/-- Lane logical shift right in the base form (R250). -/
def execIshfShrB3 (o : B3Ops) (s : State) : Out :=
  lane1 (fun a b _ => shr a b) (b3Checks 0x24 shIadd o) shIadd (b3AsE 0x24 shIadd o) s

/-- Lane arithmetic shift right (R250). -/
def execIshfSar (o : EOps) (s : State) : Out :=
  lane1 (fun a b _ => sar a b) {} shIadd o s

/-- Lane arithmetic shift right in the base form (R250). -/
def execIshfSarB3 (o : B3Ops) (s : State) : Out :=
  lane1 (fun a b _ => sar a b) (b3Checks 0x24 shIadd o) shIadd (b3AsE 0x24 shIadd o) s

/-- Lane rotate left (R250). -/
def execIshfRot (o : EOps) (s : State) : Out :=
  lane1 (fun a b _ => rotl a b) {} shIadd o s

/-- Lane rotate in the base form (R250). -/
def execIshfRotB3 (o : B3Ops) (s : State) : Out :=
  lane1 (fun a b _ => rotl a b) (b3Checks 0x24 shIadd o) shIadd (b3AsE 0x24 shIadd o) s

/-- Lane 64-bit shift left (R250). -/
def execIshfShl64 (o : EOps) (s : State) : Out :=
  lanePW shl64 {} shIshfShl64 o s

/-- Lane 64-bit logical shift right (R250). -/
def execIshfShr64 (o : EOps) (s : State) : Out :=
  lanePW shr64 {} shIshfShl64 o s

/-- Lane 64-bit arithmetic shift right (R250). -/
def execIshfSar64 (o : EOps) (s : State) : Out :=
  lanePW sar64 {} shIshfShl64 o s

/-- Lane signed minimum (R250). -/
def execIminmaxMin (o : EOps) (s : State) : Out :=
  lane1 (fun a b _ => minS a b) {} shIadd o s

/-- Lane signed maximum (R250). -/
def execIminmaxMax (o : EOps) (s : State) : Out :=
  lane1 (fun a b _ => maxS a b) {} shIadd o s

/-- Lane unsigned minimum (R250). -/
def execIminmaxMinu (o : EOps) (s : State) : Out :=
  lane1 (fun a b _ => minU a b) {} shIadd o s

/-- Lane unsigned maximum (R250). -/
def execIminmaxMaxu (o : EOps) (s : State) : Out :=
  lane1 (fun a b _ => maxU a b) {} shIadd o s

/-- Lane absolute value modulo 2^32 (R250). -/
def execIminmaxAbs (o : EOps) (s : State) : Out :=
  laneA absWrap {} shIminmaxAbs o s

/-- Lane saturating absolute value (R250). -/
def execIminmaxAbsSat (o : EOps) (s : State) : Out :=
  laneA absSat {} shIminmaxAbs o s

/-- Lane 32-bit comparison under condition cc, written to a q predicate (R250). -/
def execIcmp (cc : CC) (o : EOps) (s : State) : Out :=
  (fun ck sh o s => laneQ (fun s g l => cmpCC cc (g.a32 s.free o l) (g.b32 s.free o l)) ck sh o s) {} shIcmp o s

/-- Lane 64-bit comparison under condition cc, written to a q predicate (R250). -/
def execIcmp64 (cc : CC) (o : EOps) (s : State) : Out :=
  (fun ck sh o s => laneQ (fun s g l => cmpCC cc (g.a64 s.free o l) (g.b64 s.free o l)) ck sh o s) {} shIcmp64 o s

/-- Lane select by a q predicate (R250). -/
def execIsel (o : EOps) (s : State) : Out :=
  (fun ck sh o s => laneG (fun s g l => [if (g.rdq s.free o.c.toNat).getLsbD l then g.a32 s.free o l else g.b32 s.free o l]) ck sh o s) {} shIsel o s

/-- Lane 64-bit select by a q predicate (R250). -/
def execIsel64 (o : EOps) (s : State) : Out :=
  (fun ck sh o s => laneG (fun s g l => twoWords (if (g.rdq s.free o.c.toNat).getLsbD l then g.a64 s.free o l else g.b64 s.free o l)) ck sh o s) {} shIsel64 o s

/-- Lane population count (R250). -/
def execIbitPopc (o : EOps) (s : State) : Out :=
  laneA popc {} shIminmaxAbs o s

/-- Lane count of leading zeros (R250). -/
def execIbitClz (o : EOps) (s : State) : Out :=
  laneA clz {} shIminmaxAbs o s

/-- Lane count of trailing zeros (R250). -/
def execIbitCtz (o : EOps) (s : State) : Out :=
  laneA ctz {} shIminmaxAbs o s

/-- Lane bit reverse (R250). -/
def execIbitBrev (o : EOps) (s : State) : Out :=
  laneA brev {} shIminmaxAbs o s

/-- Lane unsigned bit-field extract (R250). -/
def execIbitExtr (o : EOps) (s : State) : Out :=
  lane1 (fun a b _ => bitExtr false a b) {} shIadd o s

/-- Lane signed bit-field extract (R250). -/
def execIbitExtrs (o : EOps) (s : State) : Out :=
  lane1 (fun a b _ => bitExtr true a b) {} shIadd o s

/-- Lane bit-field insert (R250). -/
def execIbitIns (o : EOps) (s : State) : Out :=
  lane1 bitIns {} shImadLo o s

/-- Lane 64-bit address plus a zero-extended shifted index (R250). -/
def execLea (o : EOps) (s : State) : Out :=
  (fun ck sh o s => lanePW (leaAdd false o) ck sh o s) {} shLea o s

/-- Lane 64-bit address plus a sign-extended shifted index (R250). -/
def execLeaS (o : EOps) (s : State) : Out :=
  (fun ck sh o s => lanePW (leaAdd true o) ck sh o s) {} shLea o s

/-- Sign-extends an 8- or 16-bit value (R251). -/
def execIcvtSext (w : NarrowW) (o : EOps) (s : State) : Out :=
  laneA (icvtSext w) {} shIminmaxAbs o s

/-- Zero-extends an 8- or 16-bit value (R251). -/
def execIcvtZext (w : NarrowW) (o : EOps) (s : State) : Out :=
  laneA (icvtZext w) {} shIminmaxAbs o s

/-- Saturates to signed 8 or 16 bits (R251). -/
def execIcvtSatS (w : NarrowW) (o : EOps) (s : State) : Out :=
  laneA (icvtSatS w) {} shIminmaxAbs o s

/-- Saturates to unsigned 8 or 16 bits (R251). -/
def execIcvtSatU (w : NarrowW) (o : EOps) (s : State) : Out :=
  laneA (icvtSatU w) {} shIminmaxAbs o s

/-- Sign-extends a 32-bit value to 64 bits (R251). -/
def execIcvtSext64 (o : EOps) (s : State) : Out :=
  (fun ck sh o s => laneG (fun s g l => twoWords ((g.a32 s.free o l).signExtend 64)) ck sh o s) {} shIcvtSext64 o s

/-- Zero-extends a 32-bit value to 64 bits (R251). -/
def execIcvtZext64 (o : EOps) (s : State) : Out :=
  (fun ck sh o s => laneG (fun s g l => twoWords ((g.a32 s.free o l).setWidth 64)) ck sh o s) {} shIcvtSext64 o s

/-- Saturates a signed 64-bit value to signed 32 bits (R251). -/
def execIcvtSatS32 (o : EOps) (s : State) : Out :=
  (fun ck sh o s => laneG (fun s g l => [BitVec.ofInt 32 (sat (g.a64 s.free o l).toInt 32)]) ck sh o s) {} shIcvtSatS32 o s

/-- Saturates a signed 64-bit value to unsigned 32 bits (R251). -/
def execIcvtSatU32 (o : EOps) (s : State) : Out :=
  (fun ck sh o s => laneG (fun s g l => [BitVec.ofInt 32 (satU (g.a64 s.free o l).toInt 32)]) ck sh o s) {} shIcvtSatS32 o s

/-- Lane move of bits from a register or a literal (R252). -/
def execMov (o : EOps) (s : State) : Out :=
  (fun ck sh o s => laneG (fun s g l => [g.la32 s.free o l]) ck sh o s) {} shMov o s

/-- Lane move in the base form (R252). -/
def execMovB3 (o : B3Ops) (s : State) : Out :=
  (fun ck sh o s => laneG (fun s g l => [g.la32 s.free o l]) ck sh o s) (b3Checks 0x2B shMov o) shMov (b3AsE 0x2B shMov o) s

/-- Lane move of a pair or a 64-bit literal (R252). -/
def execMov64 (o : EOps) (s : State) : Out :=
  (fun ck sh o s => laneG (fun s g l => twoWords (g.la64 s.free o l)) ck sh o s) {} shMov64 o s

/-- Reads a lane register chosen per lane by an x register plus a base (R253). -/
def execMovxLd (o : EOps) (s : State) : Out :=
  movx false {} shMovxLd o s

/-- Writes a lane register chosen per lane by an x register plus a base (R253). -/
def execMovxSt (o : EOps) (s : State) : Out :=
  movx true {} shMovxSt o s

/-- Sets an x register (R254). -/
def execXset (o : EOps) (s : State) : Out :=
  xset false {} shXset o s

/-- Adds to an x register modulo 2^16 (R254). -/
def execXsetAdd (o : EOps) (s : State) : Out :=
  xset true {} shXset o s

/-- Reads an x register into a lane register (R254). -/
def execXget (o : EOps) (s : State) : Out :=
  (fun ck sh o s => laneG (fun _ g l => [(g.xr o.a.toNat l).setWidth 32]) ck sh o s) {} shXget o s

/-- Reads register A of an indexed lane (R255). -/
def execShflIdx (o : EOps) (s : State) : Out :=
  shfl 0 {} shShflIdx o s

/-- Reads register A of lane l minus B (R255). -/
def execShflUp (o : EOps) (s : State) : Out :=
  shfl 1 {} shShflIdx o s

/-- Reads register A of lane l plus B (R255). -/
def execShflDown (o : EOps) (s : State) : Out :=
  shfl 2 {} shShflIdx o s

/-- Reads register A of lane l XOR B (R255). -/
def execShflXor (o : EOps) (s : State) : Out :=
  shfl 3 {} shShflIdx o s

end Sys2Proof.Machine
end

