-- ==== Sys2Proof/Machine/LaneFp.lean ====
section
/-!
DEFINITION. Lane floating point (R247 to R264): exact operation, one rounding, conditions through FpReport before any result.
FSPEC's results are free values held inside the error bound of R264.
-/

namespace Sys2Proof.Machine

/-- The rounding mode in HINT[2:0] (R94). -/
def hintMode (o : EOps) : RMode := RMode.ofCode (o.hint.toNat % 8)

def fmtOf : LFmt → FFmt
  | .f32 => fp32
  | .f16 => fp16
  | .bf16 => bf16

/-- Elements 0 and 1 of a packed word (R130). -/
def elt (i : Nat) (w : Word) : Nat := w.toNat / 65536 ^ i % 65536

def packWord (e0 e1 : Nat) : Word := BitVec.ofNat 32 (e1 % 65536 * 65536 + e0 % 65536)

/-- An operation on the elements of a format: one binary32 element, or two packed ones; conditions are united (R248). -/
def perElt (fmt : LFmt) (f : FFmt → Nat → Nat → Nat → Nat × Conds) (a b c : Word) : Word × Conds :=
  match fmt with
  | .f32 =>
    let r := f fp32 a.toNat b.toNat c.toNat
    (BitVec.ofNat 32 r.1, r.2)
  | _ =>
    let r0 := f (fmtOf fmt) (elt 0 a) (elt 0 b) (elt 0 c)
    let r1 := f (fmtOf fmt) (elt 1 a) (elt 1 b) (elt 1 c)
    (packWord r0.1 r1.1, r0.2.or r1.2)

/-- A sum or product rounded by RoundF, with the invalid cases (R247, R248). -/
def finish (f : FFmt) (mode : RMode) (inv : Bool) (x : XReal) : Nat × Conds :=
  let r := roundFBits x f mode
  (r.1, { r.2 with nv := inv })

def fAdd (mode : RMode) (f : FFmt) (a b : Nat) : Nat × Conds :=
  let x := f.decode a
  let y := f.decode b
  finish f mode (x.isSnan || y.isSnan || XReal.addInvalid x y) (XReal.add mode x y)

def fSub (mode : RMode) (f : FFmt) (a b : Nat) : Nat × Conds :=
  let x := f.decode a
  let y := f.decode b
  finish f mode (x.isSnan || y.isSnan || XReal.addInvalid x y.negate) (XReal.add mode x y.negate)

def fMul (mode : RMode) (f : FFmt) (a b : Nat) : Nat × Conds :=
  let x := f.decode a
  let y := f.decode b
  finish f mode (x.isSnan || y.isSnan || XReal.mulInvalid x y) (XReal.mul x y)

def fFma (mode : RMode) (f : FFmt) (a b c : Nat) : Nat × Conds :=
  let x := f.decode a
  let y := f.decode b
  let z := f.decode c
  let p := XReal.mul x y
  finish f mode (x.isSnan || y.isSnan || z.isSnan || XReal.mulInvalid x y || XReal.addInvalid p z) (XReal.add mode p z)

/-- Rounding to an integral value in the same format (R259): NV for a signalling NaN only. -/
def fRnd (mode : RMode) (f : FFmt) (a : Nat) : Nat × Conds :=
  let x := f.decode a
  (f.encode (roundInt x mode), { nv := x.isSnan })

/-- FSCALE (R260). -/
def fScale (mode : RMode) (f : FFmt) (a : Nat) (b : Int) : Nat × Conds :=
  let x := f.decode a
  finish f mode x.isSnan (x.scale2 b)

def pfmtOf : PFmt → FFmt
  | .f16 => fp16
  | .bf16 => bf16

/-- The exact sum of three terms. -/
def dot3 (mode : RMode) (x y z : XReal) : XReal := XReal.add mode (XReal.add mode x y) z

/-- FDP2 (R261): one exact sum of two products and C, rounded once to binary32. An infinite product with an infinity of
the other sign, in any pair of the three terms, is invalid. -/
def fDot2 (mode : RMode) (f : FFmt) (a b c : Word) : Nat × Conds :=
  let x0 := f.decode (elt 0 a)
  let y0 := f.decode (elt 0 b)
  let x1 := f.decode (elt 1 a)
  let y1 := f.decode (elt 1 b)
  let z := val32 c
  let p0 := XReal.mul x0 y0
  let p1 := XReal.mul x1 y1
  let inv := x0.isSnan || y0.isSnan || x1.isSnan || y1.isSnan || z.isSnan || XReal.mulInvalid x0 y0 ||
    XReal.mulInvalid x1 y1 || XReal.addInvalid p0 p1 || XReal.addInvalid p0 z || XReal.addInvalid p1 z
  finish fp32 mode inv (dot3 mode p0 p1 z)

/-- A lane floating instruction with one register result and conditions. -/
def laneF (f : State → Group → Nat → Word × Conds) (ck : Checks) (sh : Shape) (o : EOps) (s : State) : Out :=
  issueC ck sh o (fun s g =>
    let m := g.active sh o s.free
    okFp s g ((lanesOf m).map (fun l => (l, (f s g l).2.bits.toNat)))
      (fun g' => { s := s, g := g', outs := outsOf o m (fun l => [(f s g l).1]) })) s

/-- A floating instruction on the elements of A, B and C. -/
def laneE (fmt : LFmt) (f : EOps → FFmt → Nat → Nat → Nat → Nat × Conds) (ck : Checks) (sh : Shape) (o : EOps)
    (s : State) : Out :=
  laneF (fun s g l => perElt fmt (f o) (g.a32 s.free o l) (g.b32 s.free o l) (g.c32 s.free o l)) ck sh o s

/-- The scalar of a format in a register: [31:0], or [15:0] of a 16-bit format. -/
def scalarOf (fmt : LFmt) (w : Word) : Nat :=
  match fmt with
  | .f32 => w.toNat
  | _ => elt 0 w

/-- FCMP: a lane predicate, with NV before any bit is written (R258). -/
def laneFcmp (cc : FCmp) (fmt : LFmt) (ck : Checks) (sh : Shape) (o : EOps) (s : State) : Out :=
  issueC ck sh o (fun s g =>
    let m := g.active sh o s.free
    let r := fun l => fCompare cc ((fmtOf fmt).decode (scalarOf fmt (g.a32 s.free o l)))
      ((fmtOf fmt).decode (scalarOf fmt (g.b32 s.free o l)))
    okFp s g ((lanesOf m).map (fun l => (l, (r l).2.toNat)))
      (fun g' => { s := s, g := g', outs := g'.qOut o.d.toNat m (maskOf (fun l => (r l).1)) })) s

/-- A scalar of 16 bits in [15:0], the rest zero. -/
def toF16 (f : FFmt) (mode : RMode) (w : Word) : Nat × Conds :=
  let x := val32 w
  finish f mode x.isSnan x

/-- A 16-bit value widened exactly (R263 SUB 2 and 3). -/
def fromF16 (f : FFmt) (w : Word) : Word × Conds :=
  let x := f.decode (elt 0 w)
  (BitVec.ofNat 32 (fp32.encode x), { nv := x.isSnan })

/-- Conversion to an integer (R263). -/
def toInt32 (lo hi : Int) (mode : RMode) (w : Word) : Word × Conds :=
  let r := toIntClamp (val32 w) mode lo hi
  (BitVec.ofInt 32 r.1, r.2)

/-- Conversion from an integer (R263). -/
def fromInt32 (mode : RMode) (n : Int) : Word × Conds :=
  let r := roundFBits (XReal.ofInt n 0 false) fp32 mode
  (BitVec.ofNat 32 r.1, r.2)

/-- FCVT.TP.F32 (R263 SUB 10). -/
def toTapered (code : Nat) (w : Word) : Word × Conds :=
  let t := taperedOf code
  let x := val32 w
  let p := taperedEncode x t.1 t.2
  (BitVec.ofNat 32 p,
    if x.isNan || x.isInf then { nv := true } else { nx := !(XReal.eq (taperedDecode p t.1 t.2) x) })

/-- FCVT.F32.TP (R263 SUB 11). -/
def fromTapered (code : Nat) (w : Word) : Word × Conds :=
  let t := taperedOf code
  (BitVec.ofNat 32 (fp32.encode (taperedDecode w.toNat t.1 t.2)), {})

/-- A conversion of A, or of the literal in its place. -/
def laneCvt (f : EOps → Word → Word × Conds) (ck : Checks) (sh : Shape) (o : EOps) (s : State) : Out :=
  laneF (fun s g l => f o (g.la32 s.free o l)) ck sh o s

def word16 (r : Nat × Conds) : Word × Conds := (BitVec.ofNat 32 r.1, r.2)

/-- Two conversions into a packed word: element 0 from A, element 1 from B (R263 SUB 8 and 9). -/
def cvtPair (f : FFmt) (mode : RMode) (a b : Word) : Word × Conds :=
  let x := toF16 f mode a
  let y := toF16 f mode b
  (packWord x.1 y.1, x.2.or y.2)

/-! ### FSPEC (R264) -/

inductive SpecFn where
  | rcp | rsq | sqrt | exp2 | log2 | sin | cos | tanh
  deriving DecidableEq, Repr

def SpecFn.code : SpecFn → Nat
  | .rcp => 0 | .rsq => 1 | .sqrt => 2 | .exp2 => 3 | .log2 => 4 | .sin => 5 | .cos => 6 | .tanh => 7

/-- The number is an integer, and is an integer plus one half. -/
def XReal.isInteger (x : XReal) : Bool := x.isFin && XReal.eq (roundInt x .rtz) x
def XReal.isHalfInteger (x : XReal) : Bool := x.isFin && !x.isInteger && (x.scale2 1).isInteger

/-- The special values of the table of R264: result pattern and conditions. -/
def specSpecial (fn : SpecFn) (x : XReal) : Option (Nat × Conds) :=
  let nan := fp32.cnan
  let pinf := fp32.infBits false
  let one := 0x3F800000
  match x with
  | .nan s => some (nan, { nv := s })
  | .zero s =>
    match fn with
    | .rcp => some (fp32.infBits s, { dz := true })
    | .rsq => some (fp32.infBits s, { dz := true })
    | .sqrt => some (fp32.zeroBits s, {})
    | .exp2 => some (one, {})
    | .log2 => some (fp32.infBits true, { dz := true })
    | .sin => some (fp32.zeroBits s, {})
    | .cos => some (one, {})
    | .tanh => some (fp32.zeroBits s, {})
  | .inf false =>
    match fn with
    | .rcp => some (0, {})
    | .rsq => some (0, {})
    | .sqrt => some (pinf, {})
    | .exp2 => some (pinf, {})
    | .log2 => some (pinf, {})
    | .sin => some (nan, { nv := true })
    | .cos => some (nan, { nv := true })
    | .tanh => some (one, {})
  | .inf true =>
    match fn with
    | .rcp => some (fp32.zeroBits true, {})
    | .rsq => some (nan, { nv := true })
    | .sqrt => some (nan, { nv := true })
    | .exp2 => some (0, {})
    | .log2 => some (nan, { nv := true })
    | .sin => some (nan, { nv := true })
    | .cos => some (nan, { nv := true })
    | .tanh => some (0xBF800000, {})
  | .fin neg m e =>
    match fn with
    | .rsq => if neg then some (nan, { nv := true }) else none
    | .sqrt => if neg then some (nan, { nv := true }) else none
    | .log2 =>
      if neg then some (nan, { nv := true })
      else if XReal.eq (.fin false m e) (.fin false 1 0) then some (0, {}) else none
    | .sin => if XReal.isInteger (.fin neg m e) then some (0, {}) else none
    | .cos => if XReal.isHalfInteger (.fin neg m e) then some (0, {}) else none
    | .rcp => none
    | .exp2 => none
    | .tanh => none

/-! The reference values of R264's functions, in fixed point with 100 fraction bits: far finer than the error bounds. -/

def fix1 : Nat := 2 ^ 100
def fixLn2 : Nat := 878668439483319573618263538048
def fixPi : Nat := 3982441812995697363688351113952
def fixLog2E : Nat := 1828833234529184422442202814989

/-- e^y for a fixed-point y below 1, by its power series from the last term inward. -/
def expSeries (y : Nat) : Nat → Nat → Nat
  | 0, acc => acc
  | k + 1, acc => expSeries y k (fix1 + y * acc / ((k + 1) * fix1))

/-- 2^t for t in [0, 1). -/
def fixExp2 (t : Nat) : Nat := expSeries (t * fixLn2 / fix1) 30 fix1

/-- The factor that the power series of the sine multiplies its angle by, from the last term inward; `y` is the square. -/
def sinSeries (y : Nat) : Nat → Nat → Nat
  | 0, acc => acc
  | k + 1, acc => sinSeries y k (fix1 - y * acc / ((2 * k + 2) * (2 * k + 3) * fix1))

/-- |sin(π u)| for u in [0, 1). -/
def fixSinPi (u : Nat) : Nat :=
  let v := if fix1 < 2 * u then fix1 - u else u
  let a := v * fixPi / fix1
  a * sinSeries (a * a / fix1) 20 fix1 / fix1

/-- The bits of log2 y for y in [1, 2), by squaring: `n` bits after those in `acc`. -/
def log2Bits : Nat → Nat → Nat → Nat
  | 0, _, acc => acc
  | n + 1, y, acc =>
    let y2 := y * y / fix1
    if 2 * fix1 ≤ y2 then log2Bits n (y2 / 2) (2 * acc + 1) else log2Bits n y2 (2 * acc)

/-- floor(|x| × 2^100) of a finite value. -/
def fixAbs (x : XReal) : Nat :=
  match x with
  | .fin _ m e => if 0 ≤ e + 100 then m * pow2 (e + 100) else m >>> (-(e + 100)).toNat
  | _ => 0

def ofFix (n : Nat) : XReal := XReal.ofInt n (-100) false

/-- sin(π x), to far below the bound. -/
def sinPiRef (x : XReal) : XReal :=
  let u := fixAbs x % (2 * fix1)
  let r := ofFix (fixSinPi (u % fix1))
  if (fix1 ≤ u) != x.neg? then r.negate else r

/-- The reference value of a function at a finite operand that the table of R264 does not list. -/
def specRef (fn : SpecFn) (x : XReal) : XReal :=
  let one := XReal.fin false 1 0
  match fn with
  | .rcp => divX one x 120
  | .rsq => divX one (sqrtX x 120) 120
  | .sqrt => sqrtX x 60
  | .exp2 =>
    let fl := roundInt x .rdn
    let t := fixAbs (x.add .rne fl.negate)
    let n := max (-400) (min 400 fl.toInt)
    (ofFix (fixExp2 t)).scale2 n
  | .log2 =>
    match x with
    | .fin _ m e =>
      let l := flog2 m e
      let y := fixAbs ((XReal.fin false m e).scale2 (-l))
      (XReal.ofInt l 0 false).add .rne (XReal.ofInt (log2Bits 80 y 0) (-80) false)
    | x => x
  | .sin => sinPiRef x
  | .cos => sinPiRef (x.abs.add .rne (.fin false 1 (-1)))
  | .tanh =>
    match x with
    | .fin s m e =>
      let a := XReal.fin false m e
      let r :=
        if flog2 m e < -12 then
          let cube := XReal.mul a (XReal.mul a a)
          (a.add .rne (divX cube (.fin false 3 0) 60).negate).add .rne
            (divX (XReal.mul (cube.scale2 1) (XReal.mul a a)) (.fin false 15 0) 60)
        else if 5 ≤ flog2 m e then .fin false (2 ^ 60 - 1) (-60)
        else
          let z := fixAbs a * 2 * fixLog2E / fix1
          let g := fixExp2 (z % fix1) * 2 ^ (z / fix1)
          ofFix ((g - fix1) * fix1 / (g + fix1))
      if s then r.negate else r
    | x => x

/-- The last unit of binary32 at a value. DESIGN CHOICE: at a value between binary32 numbers it is that of the value's own binade, and
never below 2^−149 (log 88). -/
def ulp32 (x : XReal) : XReal :=
  match x with
  | .fin _ m e => .fin false 1 (max (flog2 m e) (-126) - 23)
  | _ => .fin false 1 (-149)

/-- The largest error of R264 at a reference value. -/
def specBound (fn : SpecFn) (a x : XReal) : XReal :=
  match fn with
  | .rcp => ulp32 x
  | .rsq => ulp32 x
  | .sqrt => .zero false
  | .exp2 => (ulp32 x).scale2 1
  | .log2 =>
    if XReal.le (.fin false 1 (-1)) a && XReal.le a (.fin false 1 1) then .fin false 1 (-22) else (ulp32 x).scale2 1
  | .sin => .fin false 1 (-21)
  | .cos => .fin false 1 (-21)
  | .tanh => (ulp32 x).scale2 1

/-- A binary32 pattern lies within the bound of a reference value, whose own error is too small to matter (log 6). -/
def specWithin (bound x : XReal) (p : Word) : Bool :=
  match val32 p with
  | .nan _ => false
  | .inf _ => false
  | v => XReal.le ((v.add .rne x.negate).abs) bound

/-- The free value, when it lies inside the bound. -/
def specPick (fn : SpecFn) (free : Nat) (a : Word) (x r : XReal) (near : Word) : Word :=
  let p := BitVec.ofInt 32 (Config.fspec fn.code a free)
  if specWithin (specBound fn x r) r p then p else near

/-- FSPEC in one lane (R264): the table's value; SQRT correctly rounded; else a free value inside the bound, or the
correctly rounded one where the free value lies outside. -/
def fspecVal (fn : SpecFn) (free : Nat) (a : Word) : Word × Conds :=
  let x := val32 a
  match specSpecial fn x with
  | some (p, c) => (BitVec.ofNat 32 p, c)
  | none =>
    let r := specRef fn x
    let near := bits32 r
    match fn with
    | .sqrt => (near, {})
    | .exp2 =>
      if XReal.le (.fin false 128 0) x then (BitVec.ofNat 32 (fp32.infBits false), { oflow := true })
      else (specPick fn free a x r near, {})
    | fn => (specPick fn free a x r near, {})

/-- A long-latency effect (R103). -/
def okPend (s : State) (g : Group) (p : Pend) : Res Eff := .ok { s := s, g := g, pend := some p }

/-- The operand of FSPEC: the literal; B where A is 0; else A (R264). -/
def Group.specArg (g : Group) (free : Nat) (o : EOps) (l : Nat) : Word :=
  if o.lit.isNone && o.a == 0 then g.v1 free o.b.toNat l else g.la32 free o l

/-- FSPEC: its results and conditions arrive at completion (R249, R264). -/
def fspec (fn : SpecFn) (ck : Checks) (sh : Shape) (o : EOps) (s : State) : Out :=
  issueC ck sh o (fun s g =>
    let m := g.active sh o s.free
    let r := fun l => fspecVal fn (s.free * 16 + l) (g.specArg s.free o l)
    okPend s g {
      id := 0
      dests := writesOf sh o
      lanes := m
      outs := outsOf o m (fun l => [(r l).1])
      fp := (lanesOf m).map (fun l => (l, (r l).2.bits.toNat)) }) s

/-- Floating add in FP32, F16X2 or BF16X2 with the rounding mode of HINT (R256). -/
def execFadd (fmt : LFmt) (o : EOps) (s : State) : Out :=
  laneE fmt (fun o f a b _ => fAdd (hintMode o) f a b) {} shFadd o s

/-- FP32 add with RNE in the base form (R256). -/
def execFaddF32B3 (o : B3Ops) (s : State) : Out :=
  laneE .f32 (fun o f a b _ => fAdd (hintMode o) f a b) (b3Checks 0x30 shFadd o) shFadd (b3AsE 0x30 shFadd o) s

/-- Packed FP16 add in the base form (R256). -/
def execFaddF16x2B3 (o : B3Ops) (s : State) : Out :=
  laneE .f16 (fun o f a b _ => fAdd (hintMode o) f a b) (b3Checks 0x30 shFadd o) shFadd (b3AsE 0x30 shFadd o) s

/-- Floating subtract in FP32, F16X2 or BF16X2 (R256). -/
def execFaddSub (fmt : LFmt) (o : EOps) (s : State) : Out :=
  laneE fmt (fun o f a b _ => fSub (hintMode o) f a b) {} shFadd o s

/-- FP32 subtract with RNE in the base form (R256). -/
def execFaddSubF32B3 (o : B3Ops) (s : State) : Out :=
  laneE .f32 (fun o f a b _ => fSub (hintMode o) f a b) (b3Checks 0x30 shFadd o) shFadd (b3AsE 0x30 shFadd o) s

/-- Packed FP16 subtract in the base form (R256). -/
def execFaddSubF16x2B3 (o : B3Ops) (s : State) : Out :=
  laneE .f16 (fun o f a b _ => fSub (hintMode o) f a b) (b3Checks 0x30 shFadd o) shFadd (b3AsE 0x30 shFadd o) s

/-- Floating multiply in FP32, F16X2 or BF16X2 (R256). -/
def execFmul (fmt : LFmt) (o : EOps) (s : State) : Out :=
  laneE fmt (fun o f a b _ => fMul (hintMode o) f a b) {} shFadd o s

/-- FP32 multiply in the base form (R256). -/
def execFmulF32B3 (o : B3Ops) (s : State) : Out :=
  laneE .f32 (fun o f a b _ => fMul (hintMode o) f a b) (b3Checks 0x31 shFadd o) shFadd (b3AsE 0x31 shFadd o) s

/-- Packed FP16 multiply in the base form (R256). -/
def execFmulF16x2B3 (o : B3Ops) (s : State) : Out :=
  laneE .f16 (fun o f a b _ => fMul (hintMode o) f a b) (b3Checks 0x31 shFadd o) shFadd (b3AsE 0x31 shFadd o) s

/-- Fused multiply-add A times B plus C with one rounding (R256). -/
def execFfma (fmt : LFmt) (o : EOps) (s : State) : Out :=
  laneE fmt (fun o f a b c => fFma (hintMode o) f a b c) {} shFfma o s

/-- FP32 fused multiply-add into D with RNE in the base form (R256). -/
def execFfmaF32B3 (o : B3Ops) (s : State) : Out :=
  laneE .f32 (fun o f a b c => fFma (hintMode o) f a b c) (b3Checks 0x32 shFfma o) shFfma (b3AsE 0x32 shFfma o) s

/-- Packed FP16 fused multiply-add into D in the base form (R256). -/
def execFfmaF16x2B3 (o : B3Ops) (s : State) : Out :=
  laneE .f16 (fun o f a b c => fFma (hintMode o) f a b c) (b3Checks 0x32 shFfma o) shFfma (b3AsE 0x32 shFfma o) s

/-- IEEE minimumNumber in FP32, F16X2 or BF16X2 (R257). -/
def execFminmaxMin (fmt : LFmt) (o : EOps) (s : State) : Out :=
  laneE fmt (fun _ f a b _ => fMinMax f false a b) {} shFminmaxMin o s

/-- IEEE maximumNumber in FP32, F16X2 or BF16X2 (R257). -/
def execFminmaxMax (fmt : LFmt) (o : EOps) (s : State) : Out :=
  laneE fmt (fun _ f a b _ => fMinMax f true a b) {} shFminmaxMin o s

/-- Floating comparison under condition cc, written to a q predicate (R258). -/
def execFcmp (cc : FCmp) (fmt : LFmt) (o : EOps) (s : State) : Out :=
  laneFcmp cc fmt {} shFcmp o s

/-- Rounds to an integral value in the same format (R259). -/
def execFrnd (fmt : LFmt) (o : EOps) (s : State) : Out :=
  (fun ck sh o s => laneF (fun s g l => word16 (fRnd (hintMode o) (fmtOf fmt) (scalarOf fmt (g.a32 s.free o l)))) ck sh o s) {} shFrnd o s

/-- Computes A times 2^B with one rounding (R260). -/
def execFscale (fmt : LFmt) (o : EOps) (s : State) : Out :=
  (fun ck sh o s => laneF (fun s g l => word16 (fScale (hintMode o) (fmtOf fmt) (scalarOf fmt (g.a32 s.free o l)) (g.b32 s.free o l).toInt)) ck sh o s) {} shFscale o s

/-- Two-term dot product of packed 16-bit elements plus an FP32 addend (R261). -/
def execFdp2 (fmt : PFmt) (o : EOps) (s : State) : Out :=
  (fun ck sh o s => laneF (fun s g l => word16 (fDot2 (hintMode o) (pfmtOf fmt) (g.a32 s.free o l) (g.b32 s.free o l) (g.c32 s.free o l))) ck sh o s) {} shFfma o s

/-- Writes the class mask of a floating value to a lane register (R262). -/
def execFclass (fmt : LFmt) (o : EOps) (s : State) : Out :=
  (fun ck sh o s => laneG (fun s g l => [BitVec.ofNat 32 (fClass (fmtOf fmt) (scalarOf fmt (g.a32 s.free o l)))]) ck sh o s) {} shFclass o s

/-- Sets a q predicate when the class of A is in the mask from X (R262). -/
def execFclassPred (fmt : LFmt) (o : EOps) (s : State) : Out :=
  (fun ck sh o s => laneQ (fun s g l => (fClass (fmtOf fmt) (scalarOf fmt (g.a32 s.free o l)) &&& xField o 0 10) != 0) ck sh o s) {} shFclassPred o s

/-- Converts FP32 to FP16 (R263). -/
def execFcvtF16F32 (o : EOps) (s : State) : Out :=
  laneCvt (fun o a => word16 (toF16 fp16 (hintMode o) a)) {} shFcvtF16F32 o s

/-- Converts FP32 to BF16 (R263). -/
def execFcvtBf16F32 (o : EOps) (s : State) : Out :=
  laneCvt (fun o a => word16 (toF16 bf16 (hintMode o) a)) {} shFcvtF16F32 o s

/-- Converts FP16 to FP32 exactly (R263). DESIGN CHOICE: HINT 1 to 4, which the opcodes that round take, is accepted and has no effect
here (log 89). -/
def execFcvtF32F16 (o : EOps) (s : State) : Out :=
  (fun ck sh o s => laneF (fun s g l => fromF16 fp16 (g.a32 s.free o l)) ck sh o s) {} shFrnd o s

/-- Converts BF16 to FP32 exactly (R263). DESIGN CHOICE: HINT 1 to 4, which the opcodes that round take, is accepted and has no effect
here (log 89). -/
def execFcvtF32Bf16 (o : EOps) (s : State) : Out :=
  (fun ck sh o s => laneF (fun s g l => fromF16 bf16 (g.a32 s.free o l)) ck sh o s) {} shFrnd o s

/-- Converts FP32 to signed int32 with saturation and NV (R263). -/
def execFcvtS32F32 (o : EOps) (s : State) : Out :=
  laneCvt (fun o a => toInt32 (-2 ^ 31) (2 ^ 31 - 1) (hintMode o) a) {} shFcvtF16F32 o s

/-- Converts FP32 to unsigned int32 with saturation and NV (R263). -/
def execFcvtU32F32 (o : EOps) (s : State) : Out :=
  laneCvt (fun o a => toInt32 0 (2 ^ 32 - 1) (hintMode o) a) {} shFcvtF16F32 o s

/-- Converts signed int32 to FP32 (R263). -/
def execFcvtF32S32 (o : EOps) (s : State) : Out :=
  laneCvt (fun o a => fromInt32 (hintMode o) a.toInt) {} shFcvtF32S32 o s

/-- Converts unsigned int32 to FP32 (R263). -/
def execFcvtF32U32 (o : EOps) (s : State) : Out :=
  laneCvt (fun o a => fromInt32 (hintMode o) a.toNat) {} shFcvtF32S32 o s

/-- Converts two FP32 values to packed FP16 (R263). -/
def execFcvtF16x2F32 (o : EOps) (s : State) : Out :=
  (fun ck sh o s => laneF (fun s g l => cvtPair fp16 (hintMode o) (g.a32 s.free o l) (g.b32 s.free o l)) ck sh o s) {} shFadd o s

/-- Converts two FP32 values to packed BF16 (R263). -/
def execFcvtBf16x2F32 (o : EOps) (s : State) : Out :=
  (fun ck sh o s => laneF (fun s g l => cvtPair bf16 (hintMode o) (g.a32 s.free o l) (g.b32 s.free o l)) ck sh o s) {} shFadd o s

/-- Converts FP32 to a T6 or T8 tapered format with TaperedEncode (R263). -/
def execFcvtTpF32 (o : EOps) (s : State) : Out :=
  laneCvt (fun o a => toTapered (xField o 0 4) a) {} shFcvtTpF32 o s

/-- Converts a T6 or T8 tapered value to FP32 exactly (R263). -/
def execFcvtF32Tp (o : EOps) (s : State) : Out :=
  (fun ck sh o s => laneF (fun s g l => fromTapered (xField o 0 4) (g.a32 s.free o l)) ck sh o s) {} shFcvtF32Tp o s

/-- Long-latency reciprocal of FP32 (R264). -/
def execFspecRcp (o : EOps) (s : State) : Out :=
  fspec .rcp {} shFspecRcp o s

/-- Long-latency reciprocal square root (R264). -/
def execFspecRsq (o : EOps) (s : State) : Out :=
  fspec .rsq {} shFspecRcp o s

/-- Long-latency correctly rounded square root (R264). -/
def execFspecSqrt (o : EOps) (s : State) : Out :=
  fspec .sqrt {} shFspecRcp o s

/-- Long-latency 2^A (R264). -/
def execFspecExp2 (o : EOps) (s : State) : Out :=
  fspec .exp2 {} shFspecRcp o s

/-- Long-latency base-2 logarithm (R264). -/
def execFspecLog2 (o : EOps) (s : State) : Out :=
  fspec .log2 {} shFspecRcp o s

/-- Long-latency sin of pi times A (R264). -/
def execFspecSin (o : EOps) (s : State) : Out :=
  fspec .sin {} shFspecRcp o s

/-- Long-latency cos of pi times A (R264). -/
def execFspecCos (o : EOps) (s : State) : Out :=
  fspec .cos {} shFspecRcp o s

/-- Long-latency hyperbolic tangent (R264). -/
def execFspecTanh (o : EOps) (s : State) : Out :=
  fspec .tanh {} shFspecRcp o s

end Sys2Proof.Machine
end

