-- ==== Sys2Proof/Machine/Vp.lean ====
section
/-!
DEFINITION. VP elements (R142 to R147): head and body, exact value, RoundVP (R271), the bytes of an element in memory, and a
lane's VP registers.
-/

namespace Sys2Proof.Machine

/-- A VP element: sign, class code, the E field, the length L, and the fraction's L bits as a number. -/
structure VpElt where
  neg : Bool := false
  cls : Nat := 0
  e : Nat := 0
  len : Nat := 1
  frac : Nat := 0
  deriving DecidableEq, Repr

namespace VpElt

/-- The head (R142). -/
def head (v : VpElt) : Word := BitVec.ofNat 32 (v.neg.toNat * 2 ^ 31 + v.e % 2 ^ 20 * 2 ^ 11 + v.cls % 8 * 256 + v.len % 256)

/-- A head's class is reserved, or its L lies outside 1 to 224 (R143). -/
def badHead (h : Word) : Bool := decide (4 < h.toNat / 256 % 8) || decide (h.toNat % 256 = 0) || decide (224 < h.toNat % 256)

/-- The element of a head and a fraction held in the top bits of `width` body bits (R144). -/
def ofBody (h : Word) (body width : Nat) : VpElt :=
  let l := h.toNat % 256
  { neg := h.getLsbD 31
    cls := h.toNat / 256 % 8
    e := h.toNat / 2 ^ 11 % 2 ^ 20
    len := l
    frac := if l ≤ width then body / 2 ^ (width - l) else body * 2 ^ (l - width) }

/-- The fraction at the top of `width` body bits. -/
def body (v : VpElt) (width : Nat) : Nat := if v.len ≤ width then v.frac * 2 ^ (width - v.len) else v.frac / 2 ^ (v.len - width)

/-- The exact value (R143). -/
def value (v : VpElt) : XReal :=
  match v.cls with
  | 0 => .zero v.neg
  | 1 => .fin v.neg (2 ^ v.len + v.frac) ((v.e : Int) - 524287 - v.len)
  | 2 => .inf v.neg
  | 3 => .nan false
  | _ => .nan true

/-- An element of a class other than normal: E and body are zero (R143). -/
def special (cls : Nat) (neg : Bool) (l : Nat) : VpElt := { neg := neg, cls := cls, len := l }

/-- A normal element of a value with one leading 1 and at most l fraction bits. -/
def normal (neg : Bool) (m : Nat) (e : Int) (l : Nat) : VpElt :=
  let k := m.log2
  { neg := neg, cls := 1, e := (flog2 m e + 524287).toNat, len := l
    frac := (if k ≤ l then m * 2 ^ (l - k) else m / 2 ^ (k - l)) % 2 ^ l }

/-- The largest finite element and the smallest normal one of a sign (R145). -/
def maxFin (neg : Bool) (l : Nat) : VpElt := { neg := neg, cls := 1, e := 2 ^ 20 - 1, len := l, frac := 2 ^ l - 1 }
def minNormal (neg : Bool) (l : Nat) : VpElt := { neg := neg, cls := 1, e := 0, len := l, frac := 0 }

/-- The bytes of an element in memory (R146). -/
def bytes (v : VpElt) : List Byte :=
  let n := (v.len + 7) / 8
  let h := v.head
  (List.range 4).map (fun i => h.extractLsb' (8 * i) 8) ++
    (List.range n).map (fun j => BitVec.ofNat 8 (v.body (8 * n) / 256 ^ (n - 1 - j)))

/-- The element of a head and the fraction bytes that follow it; E and fraction count for class normal only (R143, R146). -/
def ofBytes (h : Word) (fr : List Byte) : VpElt :=
  let n := fr.length
  let v := ofBody h (fr.foldl (fun a b => a * 256 + b.toNat) 0) (8 * n)
  if v.cls = 1 then v else special v.cls v.neg v.len

end VpElt

/-- RoundVP (R271, R145), with its conditions. -/
def roundVP (x : XReal) (l : Nat) (mode : RMode) : VpElt × Conds :=
  match x with
  | .nan _ => (VpElt.special 3 false l, {})
  | .inf s => (VpElt.special 2 s l, {})
  | .zero s => (VpElt.special 0 s l, {})
  | .fin s m e =>
    match roundTo (.fin s m e) l mode with
    | .fin _ m' e' =>
      let k := flog2 m' e'
      if 524288 < k then
        (match mode with
          | .rtz => VpElt.maxFin s l
          | .rup => if s then VpElt.maxFin s l else VpElt.special 2 s l
          | .rdn => if s then VpElt.special 2 s l else VpElt.maxFin s l
          | _ => VpElt.special 2 s l, { oflow := true, nx := true })
      else if k < -524287 then
        (match mode with
          | .rup => if s then VpElt.special 0 s l else VpElt.minNormal s l
          | .rdn => if s then VpElt.minNormal s l else VpElt.special 0 s l
          | _ => VpElt.special 0 s l, { uf := true, nx := true })
      else (VpElt.normal s m' e' l, { nx := !(XReal.eq (.fin s m' e') (.fin s m e)) })
    | _ => (VpElt.special 0 s l, {})

/-! ### A lane's VP registers (R142, R269) -/

/-- Lmax (R269). -/
def Group.lmax (g : Group) : Nat := 32 * (g.info.vpc - 1)

/-- P, MODE, SAT and GUARD of a lane (R265). -/
def Group.precP (g : Group) (l : Nat) : Nat := (g.precOf l).toNat % 256
def Group.precMode (g : Group) (l : Nat) : RMode := RMode.ofCode ((g.precOf l).toNat / 256 % 8)
def Group.precSat (g : Group) (l : Nat) : Bool := (g.precOf l).getLsbD 11
def Group.precGuard (g : Group) (l : Nat) : Nat := (g.precOf l).toNat / 4096 % 256

/-- The mode of a VP instruction: HINT's, or the lane's when HINT is 0 (R94, R271). -/
def Group.vpMode (g : Group) (o : EOps) (l : Nat) : RMode := if o.hint.toNat % 8 = 0 then g.precMode l else hintMode o

/-- The bank key of slice i of VP register j in lane l. -/
def Group.vpKey (g : Group) (j i l : Nat) : Nat := vKey (vpSlice g j i) l

/-- Slice i of a VP register; one choice for the register where a write is pending (R106). -/
def Group.vpWord (g : Group) (free j i l : Nat) : Word :=
  match g.pendVal (g.vpKey j 0 l) with
  | some _ => if Config.raceNew free (g.vpKey j 0 l) then (g.pendVal (g.vpKey j i l)).getD (g.bank (g.vpKey j i l)) else g.bank (g.vpKey j i l)
  | none => g.bank (g.vpKey j i l)

def Group.vpElt (g : Group) (free j l : Nat) : VpElt :=
  let n := g.info.vpc - 1
  VpElt.ofBody (g.vpWord free j 0 l) ((List.range n).foldl (fun a i => a * 2 ^ 32 + (g.vpWord free j (i + 1) l).toNat) 0) (32 * n)

/-- The slices that a VP result is written to (R142). -/
def Group.vpOuts (g : Group) (j l : Nat) (v : VpElt) : List (Nat × Word) :=
  let n := g.info.vpc - 1
  (g.vpKey j 0 l, v.head) ::
    (List.range n).map (fun i => (g.vpKey j (i + 1) l, BitVec.ofNat 32 (v.body (32 * n) / 2 ^ (32 * (n - 1 - i)))))

/-! ### The cases of R274 -/

def vpAddR (mode : RMode) (x y : XReal) : XReal × Conds :=
  (XReal.add mode x y, { nv := x.isSnan || y.isSnan || XReal.addInvalid x y })

def vpMulR (x y : XReal) : XReal × Conds := (XReal.mul x y, { nv := x.isSnan || y.isSnan || XReal.mulInvalid x y })

/-- DESIGN CHOICE: the product 0 × ∞ sets NV whatever C is, a quiet NaN too (log 103). -/
def vpFmaR (mode : RMode) (neg : Bool) (x y z : XReal) : XReal × Conds :=
  let p := XReal.mul x y
  let p := if neg then p.negate else p
  (XReal.add mode p z, { nv := x.isSnan || y.isSnan || z.isSnan || XReal.mulInvalid x y || XReal.addInvalid p z })

def vpDivR (l : Nat) (x y : XReal) : XReal × Conds :=
  (divX x y l,
    { nv := x.isSnan || y.isSnan || (x.isZero && y.isZero) || (x.isInf && y.isInf)
      dz := x.isFin && !x.isZero && y.isZero })

def vpSqrtR (l : Nat) (x : XReal) : XReal × Conds :=
  (sqrtX x l, { nv := x.isSnan || (x.neg? && !x.isZero && !x.isNan) })

/-- The cancellation of two terms, and whether it trips the guard (R272). -/
def guardTrips (p guard : Nat) (t1 t2 : XReal) : Bool :=
  match t1, t2 with
  | .fin a m e, .fin b n f =>
    let c : Int :=
      match XReal.add .rne (.fin a m e) (.fin b n f) with
      | .fin _ k u => max (flog2 m e) (flog2 n f) - flog2 k u
      | _ => (p : Int) + 1
    guard != 0 && decide (c > (p : Int) - guard)
  | _, _ => false

end Sys2Proof.Machine
end

