-- ==== Sys2Proof/Machine/MemOp.lean ====
section
/-!
DEFINITION. Memory operations of a group: loads, atomics and locked accesses lane by lane, held on translation faults and
redone on a replay (R299 to R307, R321); stores and reductions with the burrow (R317 to R320); VPLD's head reads (R285).
-/

namespace Sys2Proof.Machine

/-! ### Lanes -/

/-- The lanes that make an access: in a protected launch the first of each pair (R530). -/
def accLanes (g : Group) (m : Half) : List Nat := (lanesOf m).filter (fun l => !g.info.prot || l % 2 == 0)

/-- A quarter has 8 VP instructions accepted and not completed (R275). -/
def vpFull (s : State) : Bool :=
  let g := s.grp s.cur
  decide (8 ≤ ((s.groups.filter (fun e => s.onCore e.2 g.core && e.2.slot / 64 == g.slot / 64)).map (fun e => (e.2.pend.filter (·.vp)).length)).sum)

/-! ### Atomic operations (R302) -/

/-- The new value of an atomic operation on values of `w` bits. -/
def atomNew (op : AtomOp) (w : Nat) (old b c : Nat) : Nat :=
  let so := (BitVec.ofNat w old).toInt
  let sb := (BitVec.ofNat w b).toInt
  match op with
  | .add => (old + b) % 2 ^ w
  | .min => if so ≤ sb then old else b
  | .max => if sb ≤ so then old else b
  | .minu => min old b
  | .maxu => max old b
  | .band => old &&& b
  | .bor => old ||| b
  | .bxor => old ^^^ b
  | .exch => b
  | .cas => if old = c then b else old
  | .fadd => (fAdd .rne fp32 old b).1
  | .fmin => (fMinMax fp32 false old b).1
  | .fmax => (fMinMax fp32 true old b).1

def atomBytes (op : AtomOp) (n b c : Nat) (old : List Byte) : List Byte :=
  natBytes n (atomNew op (8 * n) (bytesNat old) (b % 2 ^ (8 * n)) (c % 2 ^ (8 * n)))

/-! ### One lane of a load-like instruction -/

/-- The words that a value of n bytes is written to a register as (R300). -/
def wordsOf (n v : Nat) (signed : Bool) : List Word :=
  if n < 4 then [if signed then (BitVec.ofNat (8 * n) v).signExtend 32 else BitVec.ofNat 32 v]
  else (List.range (n / 4)).map (fun i => BitVec.ofNat 32 (v / 2 ^ (32 * i)))

/-- Words from lane register `dst` on; a protected launch writes both lanes of the pair (R530). -/
def loadOuts (g : Group) (dst lane : Nat) (ws : List Word) : List (Nat × Word) :=
  let one := fun l => ws.zipIdx.map (fun p => (vKey (dst + p.2) l, p.1))
  if g.info.prot then one lane ++ one (lane + 1) else one lane

/-- What a lane's access brings back: register results and bits of %vpstat. -/
structure LaneRes where
  outs : List (Nat × Word) := []
  vpbits : List (Nat × Word) := []

/-- TYPE of R483 of an action. -/
def MemAct.ty : MemAct → Nat
  | .load _ _ => 0
  | .uload _ _ => 0
  | .vpLoad => 0
  | _ => 2

/-- The action writes (R483). -/
def MemAct.writes : MemAct → Bool
  | .storeCond _ => true
  | .atomic _ _ => true
  | _ => false

/-- The physical line that a cluster's cached line of a control address is. -/
def physLineOf (s : State) (core : Nat) (r : TransReq) : Option Nat :=
  ((s.cluster (clusterOf core)).lines.get? (reqTag s r)).map (·.phys)

/-- The element that VPLD writes for a lane (R285). -/
def vpLoadOuts (g : Group) (dst lane : Nat) (prec : Word) (v : VpElt) : LaneRes :=
  let sat := fun l =>
    if g.lmax < v.len then
      let e := if v.cls = 1 then (roundVP v.value g.lmax (RMode.ofCode (prec.toNat / 256 % 8))).1
               else VpElt.special v.cls v.neg g.lmax
      ({ outs := g.vpOuts dst l e, vpbits := [(l, 32)] } : LaneRes)
    else { outs := g.vpOuts dst l v }
  if g.info.prot then
    { outs := (sat lane).outs ++ (sat (lane + 1)).outs, vpbits := (sat lane).vpbits ++ (sat (lane + 1)).vpbits }
  else sat lane

/-- One lane of a load-like instruction at its execution point. `b` of a VPLD lane holds %prec as it issued (R268), `c` its head as it
was checked (R285). -/
def laneDo (s : State) (gk pid : Nat) (op : MemOp) (a : LaneAcc) : State × Acc LaneRes :=
  let g := s.grp gk
  let r := g.req op.act.ty a.va
  let vl := g.vis a.lane
  let bring := fun (n : Nat) (signed : Bool) (p : State × Acc (List Byte)) =>
    match p with
    | (s, .ok bs) => (s, Acc.ok { outs := loadOuts g op.dst a.lane (wordsOf n (bytesNat bs) signed) })
    | (s, .stop x) => (s, .stop x)
  match op.act with
  | .load n signed => bring n signed (laneRead s gk r vl op.hint n)
  | .uload n signed =>
    match laneRead s gk r vl op.hint n with
    | (s, .ok bs) =>
      (s, .ok { outs := (wordsOf n (bytesNat bs) signed).zipIdx.map (fun p => (sKey (op.dst + p.2), p.1)) })
    | (s, .stop x) => (s, .stop x)
  | .loadLocked n =>
    match laneRead s gk r vl op.hint n with
    | (s, .ok bs) =>
      let g' := s.grp gk
      let resv := match physLineOf s g.core r with
        | some l => g'.resv.put vl l
        | none => g'.resv
      ({ s with groups := s.groups.put gk { g' with resv := resv } },
        .ok { outs := loadOuts g op.dst a.lane (wordsOf n (bytesNat bs) false) })
    | (s, .stop x) => (s, .stop x)
  | .storeCond n =>
    match g.resv.get? vl with
    | none => (s, .ok { outs := loadOuts g op.dst a.lane [1] })
    | some line =>
      match openLine s g.core { r with write := true, read := false } op.hint with
      | (s, .stop x) => (s, .stop x)
      | (s, .ok _) =>
        let g' := s.grp gk
        let hit := decide (g'.resv.get? vl = some line) && decide (physLineOf s g.core r = some line)
        let s := { s with groups := s.groups.put gk { g' with resv := g'.resv.del vl } }
        if hit then
          match ownWrite s gk pid { r with read := false } vl op.hint (natBytes n a.b.toNat) with
          | (s, .ok _) => (s, .ok { outs := loadOuts g op.dst a.lane [0] })
          | (s, .stop x) => (s, .stop x)
        else (s, .ok { outs := loadOuts g op.dst a.lane [1] })
  | .atomic aop n =>
    bring n false (ownAtomic s gk pid vl r.va n (atomBytes aop n a.b.toNat a.c.toNat) (laneAtomic s gk pid r vl op.hint n))
  | .vpLoad =>
    let h : Word := a.c.setWidth 32
    match laneRead s gk { r with va := a.va + 4 } vl op.hint ((h.toNat % 256 + 7) / 8) with
    | (s, .stop x) => (s, .stop x)
    | (s, .ok fb) => (s, .ok (vpLoadOuts g op.dst a.lane (a.b.setWidth 32) (VpElt.ofBytes h fb)))

/-- The progress of a load-like instruction over its lanes. -/
structure OpRun where
  s : State
  outs : List (Nat × Word) := []
  vpbits : List (Nat × Word) := []
  left : List LaneAcc := []
  causes : List (Nat × LaneAcc) := []
  die : Nat := 0

/-- One lane: done, denied, or left for a replay (R299, R321, R481). -/
def opStep (gk pid : Nat) (op : MemOp) (x : OpRun) (a : LaneAcc) : OpRun :=
  match laneDo x.s gk pid op a with
  | (s, .ok r) => { x with s := s, outs := x.outs ++ r.outs, vpbits := x.vpbits ++ r.vpbits }
  | (s, .stop (.cause c)) => { x with s := s, causes := x.causes ++ [(c, a)] }
  | (s, .stop (.fault d fva)) =>
    { x with
      s := holdFault s d { (s.grp gk).req op.act.ty fva with write := op.act.writes } (.load gk pid)
      left := x.left ++ [{ a with fva := fva }]
      die := d }
  | (s, .stop (.refuse h)) =>
    { x with s := s.refuse (.load gk pid) h, left := x.left ++ [a] }
  | (s, .stop (.ok _ _)) => { x with s := s }

/-- The lanes of a load-like instruction, in ascending order (R162, R303). -/
def opRun (s : State) (gk pid : Nat) (op : MemOp) : OpRun := op.accs.foldl (opStep gk pid op) { s := s }

/-- The asynchronous cause of lanes that were denied: that of the lowest, with the lanes that share it (R299, R320). -/
def deniedTrap (g : Group) (causes : List (Nat × LaneAcc)) (seq : Nat) : Option (Nat × Trap) :=
  match (List.range 16).flatMap (fun l => causes.filter (fun c => c.2.lane == l)) with
  | [] => none
  | (c, a) :: _ =>
    some (0, {
      cause := c
      addr := a.va
      lanes := g.fold (maskOf (fun l => causes.any (fun p => p.1 == c && p.2.lane == l)))
      seq := seq })

/-! ### The burrow seen by loads (R319) -/

/-- A byte's place for a lane. -/
def bytePlace (s : State) (g : Group) (lane : Nat) (va : Dword) : Nat × Nat := lanePlace s g (g.vis lane) va

/-- The address that is translated for a byte of a lane (R43, R291, R470). -/
def xlVa (s : State) (g : Group) (lane : Nat) (va : Dword) : Dword :=
  match spaceOf va with
  | .priv => g.privBase + BitVec.ofNat 64 (privOff (g.vis lane) (vaOff va))
  | .stash =>
    match (s.cohort g.cohort).bindingOf (vaOff va) with
    | some b => b.g + BitVec.ofNat 64 (vaOff va - b.so)
    | none => va
  | _ => va

/-- The burrow entries of a group, oldest first. -/
def burrowOf (s : State) (gk : Nat) : List BurrowEntry := (s.core ((s.grp gk).core)).burrow.filter (fun e => e.grp == gk)

def hasBurrow (s : State) (gk : Nat) : Bool := !(burrowOf s gk).isEmpty

/-- The bytes that logged lanes hold, newest first; none for a logged reduction. -/
def loggedBytes (s : State) (gk : Nat) : List ((Nat × Nat) × Option Byte) :=
  let g := s.grp gk
  ((burrowOf s gk).flatMap (fun e => (e.lanes.filter (fun l => !l.done)).flatMap (fun l =>
    l.bytes.zipIdx.map (fun p => (bytePlace s g l.lane (l.va + BitVec.ofNat 64 p.2), match e.act with
      | .bytes => some p.1
      | .reduce _ _ => none
      | .comm _ _ => none))))).reverse

/-- What the burrow does to a load of n bytes (R319). -/
inductive Fwd where
  | free
  | forward (bs : List Byte)
  | wait
  deriving DecidableEq, Repr

def forwardOf (s : State) (gk lane : Nat) (va : Dword) (n : Nat) : Fwd :=
  let log := loggedBytes s gk
  if log.isEmpty then .free
  else
    let g := s.grp gk
    let found := (List.range n).map (fun i => log.find? (fun e => e.1 == bytePlace s g lane (va + BitVec.ofNat 64 i)))
    if found.all (·.isNone) then .free
    else if found.all (fun f => match f with
      | some (_, some _) => true
      | _ => false) then
      .forward (found.map (fun f => match f with
        | some (_, some b) => b
        | _ => 0))
    else .wait

/-! ### Stores and the burrow (R304, R317, R318, R320) -/

/-- A .comm reduction waits, to be applied later (R179). -/
def State.noteComm (s : State) (gk : Nat) (x : CommRed) : State :=
  match s.groups.get? gk with
  | none => s
  | some g => { s with groups := s.groups.put gk { g with comm := g.comm ++ [x] } }

/-- One lane of a store-like instruction at its execution point. A .comm reduction may wait there; whether it does is open. -/
def storeDo (s : State) (gk seq : Nat) (act : StoreAct) (hint : Nat) (l : BurrowLane) : State × Acc Unit :=
  let g := s.grp gk
  let r := { g.req 1 l.va with read := false }
  let vl := g.vis l.lane
  let reduce := fun (op : AtomOp) (n : Nat) =>
    match ownAtomic s gk seq vl l.va n (atomBytes op n (bytesNat l.bytes) 0) (laneAtomic s gk seq r vl hint n) with
    | (t, .ok _) => (t, Acc.ok ())
    | (t, .stop x) => (t, .stop x)
  match act with
  | .bytes => ownWrite s gk seq r vl hint l.bytes
  | .reduce op n => reduce op n
  | .comm op n =>
    match reduce op n with
    | (t, .ok _) =>
      if !hasBurrow s gk && Config.raceBytes s.free (raceKey (2 + l.lane) (lanePlace s g vl l.va)) then
        (s.noteComm gk { lane := l.lane, va := l.va, op := op, n := n, val := bytesNat l.bytes, hint := hint, seq := seq }, .ok ())
      else (t, .ok ())
    | x => x

/-- The lanes of an entry: performed, logged, or denied with a cause. -/
structure StoreRun where
  s : State
  lanes : List BurrowLane := []
  causes : List (Nat × LaneAcc) := []

/-- One lane, in lane order: performed, discarded with its cause, or logged with its fault recorded (R318, R320). -/
def storeStep (gk seq : Nat) (act : StoreAct) (hint : Nat) (x : StoreRun) (l : BurrowLane) : StoreRun :=
  if l.done then { x with lanes := x.lanes ++ [l] }
  else
    match storeDo x.s gk seq act hint l with
    | (s, .ok _) => { x with s := s, lanes := x.lanes ++ [{ l with done := true }] }
    | (s, .stop (.cause c)) =>
      { s := s, lanes := x.lanes ++ [{ l with done := true }], causes := x.causes ++ [(c, { lane := l.lane, va := l.va })] }
    | (s, .stop (.fault d fva)) =>
      { x with
        s := holdFault s d { (s.grp gk).req 1 fva with write := true, read := false } (.burrow gk)
        lanes := x.lanes ++ [{ l with die := d, fva := fva }] }
    | (s, .stop (.refuse h)) =>
      { x with s := s.refuse (.burrow gk) h, lanes := x.lanes ++ [l] }
    | (s, .stop (.ok _ _)) => { x with s := s, lanes := x.lanes ++ [l] }

def storeRun (s : State) (gk seq : Nat) (act : StoreAct) (hint : Nat) (lanes : List BurrowLane) : StoreRun :=
  lanes.foldl (storeStep gk seq act hint) { s := s }

/-- Causes of denied lanes reach the group in class 0 (R299, R320). -/
def postCauses (s : State) (gk : Nat) (causes : List (Nat × LaneAcc)) (seq : Nat) : State :=
  let g := s.grp gk
  match deniedTrap g causes seq with
  | none => s
  | some (_, t) => { s with groups := s.groups.put gk (g.post t) }

/-! ### .comm reductions that wait (R179) -/

/-- A reduction that waits is applied; one that faults goes to the burrow, where there is room. -/
def commOne (s : State) (gk i : Nat) : State :=
  match (s.grp gk).comm[i]? with
  | none => s
  | some x =>
    let core := (s.grp gk).core
    let run := storeRun s gk x.seq (.reduce x.op x.n) x.hint [{ lane := x.lane, va := x.va, bytes := natBytes x.n x.val }]
    let t := postCauses run.s gk run.causes x.seq
    let out := fun (t : State) => { t with groups := t.groups.put gk { t.grp gk with comm := (t.grp gk).comm.eraseIdx i } }
    if run.lanes.all (·.done) then out t
    else if (s.core core).burrow.length < 64 then
      let e : BurrowEntry := { grp := gk, act := .reduce x.op x.n, hint := x.hint, seq := x.seq, lanes := run.lanes }
      out (t.putCore core { (t.core core) with burrow := (t.core core).burrow ++ [e] })
    else s

/-- Every reduction that waits and that `p` names is applied, in an order that is open. -/
def commSome (gk : Nat) (p : CommRed → Bool) : Nat → State → State
  | 0, s => s
  | n + 1, s =>
    let todo := (List.range (s.grp gk).comm.length).filter (fun i => ((s.grp gk).comm[i]?.map p).getD false)
    match todo[Config.racePick s.free n % todo.length]? with
    | none => s
    | some i => commSome gk p n (commOne s gk i)

/-- Every reduction of a group is applied (R179). -/
def commAll (s : State) (gk : Nat) : State := commSome gk (fun _ => true) (s.grp gk).comm.length s

/-- Reductions that a write of the group must follow are applied: those of one of its bytes (R152), and, before a write of tensor space,
those of tensor space (R159). -/
def commBefore (s : State) (gk : Nat) (accs : List (Nat × Dword × Nat)) : State :=
  let g := s.grp gk
  if g.comm.isEmpty then s
  else
    let here := accs.flatMap (fun a => placesOf s gk (g.vis a.1) a.2.1 a.2.2)
    let tensor := accs.any (fun a => decide (spaceOf a.2.1 = .tensor))
    commSome gk (fun x => (tensor && decide (spaceOf x.va = .tensor)) || (placesOf s gk (g.vis x.lane) x.va x.n).any here.contains) g.comm.length s

/-- Reductions that wait are applied as they may. -/
def commStir (s : State) (gk : Nat) : State :=
  (List.range (s.grp gk).comm.length).reverse.foldl (fun s i =>
    if Config.raceBytes s.free (raceKey (40 + i) (0, gk)) then commOne s gk i else s) s

/-- The current group is suspended, with what has come about meanwhile. -/
def heldWith (s : State) : Res Eff := .ok { s := s, g := { s.grp s.cur with wait := .suspended }, done := true }

/-! ### The issue of load-like instructions -/

/-- Checks 1 to 7 of every lane: the cause of the lowest failing lane, with the lanes that raise it (R299). -/
def laneChecks (s : State) (g : Group) (kind : AccKind) (align n : Nat) (accs : List (Nat × Dword)) : Option Trap :=
  let fails := accs.filterMap (fun a => (accCheck s g kind a.2 n align).map (fun c => (a.1, c)))
  match fails with
  | [] => none
  | (_, c, va) :: _ =>
    some { cause := c, addr := va, lanes := g.fold (maskOf (fun l => fails.any (fun f => f.1 == l && f.2.1 == c))) }

/-- A load-like instruction that has issued runs its lanes; lanes left over hold the group (R321). `outs` and `pre` are results
and denials of lanes that are already decided. -/
def opIssue (s : State) (gk : Nat) (op : MemOp) (dests : List RegId) (m : Half) (vp : Bool) (outs : List (Nat × Word))
    (vpbits : List (Nat × Word) := []) (pre : List (Nat × LaneAcc) := []) (vas : List (Nat × Dword) := []) : Res Eff :=
  let pid := (s.grp gk).seq
  let x := opRun s gk pid op
  let g := x.s.grp gk
  let p : Pend := {
    id := pid
    dests := dests
    lanes := m
    outs := outs ++ x.outs
    vpbits := vpbits ++ x.vpbits
    cause := deniedTrap g (pre ++ x.causes) pid
    denied := pre ++ x.causes
    vp := vp
    vas := if vas = [] then op.accs.map (fun a => (a.lane, a.va)) else vas
    wait := if x.left.isEmpty then .ready else .fault x.die
    mop := if x.left.isEmpty then none else some { op with accs := x.left } }
  .ok { s := x.s, g := if x.left.isEmpty then g else { g with wait := .held x.die }, pend := some p }

/-- The lanes' accesses, each with its bytes. -/
def MemOp.reach (op : MemOp) (n : Nat) : List (Nat × Dword × Nat) := op.accs.map (fun a => (a.lane, a.va, n))

/-- A load-like instruction (R299, R301, R319). `waits`: it is held until the group's burrow entries drain; one that may write waits as a
store does, and comes after the group's .comm reductions of its bytes. -/
def loadLike (kind : AccKind) (waits : Bool) (align n : Nat) (op : MemOp) (dests : List RegId) (m : Half) (s : State)
    (g : Group) : Res Eff :=
  match laneChecks s g kind align n (op.accs.map (fun a => (a.lane, a.va))) with
  | some t => .trap (if m = 0 then { t with lanes := g.em } else t)
  | none =>
    let s := s.putG g
    let s := if op.act.writes then commBefore s s.cur (op.reach n) else s
    if waits && hasBurrow s s.cur then heldWith s
    else if loadsHeld s s.cur (decide (m = 0)) (op.reach n) || (op.act.writes && storesHeld s s.cur false (op.reach n)) then heldWith s
    else
      let fwd := op.accs.map (fun a => (a, if waits then Fwd.free else forwardOf s s.cur a.lane a.va n))
      if fwd.any (fun p => p.2 == .wait) then heldWith s
      else
        let outs := fwd.flatMap (fun p =>
          match p.2, op.act with
          | .forward bs, .load k signed => loadOuts g op.dst p.1.lane (wordsOf k (bytesNat bs) signed)
          | .forward bs, .uload k signed =>
            (wordsOf k (bytesNat bs) signed).zipIdx.map (fun q => (sKey (op.dst + q.2), q.1))
          | _, _ => [])
        let rest := (fwd.filter (fun p => p.2 == .free)).map (·.1)
        opIssue s s.cur { op with accs := rest } dests m false outs [] [] (op.accs.map (fun a => (a.lane, a.va)))

/-- A held load-like instruction is retried: a lane that translates is performed (R321, R488). -/
def retryLoad (s : State) (gk pid : Nat) : State :=
  let g := s.grp gk
  match g.pend.find? (fun p => p.id == pid) with
  | none => s
  | some p =>
    match p.mop with
    | none => s
    | some op =>
      let x := opRun s gk pid op
      let g := x.s.grp gk
      let p' : Pend := {
        p with
        outs := p.outs ++ x.outs
        vpbits := p.vpbits ++ x.vpbits
        cause := deniedTrap g (p.denied ++ x.causes) p.seq
        denied := p.denied ++ x.causes
        wait := if x.left.isEmpty then .ready else .fault x.die
        mop := if x.left.isEmpty then none else some { op with accs := x.left } }
      let g := { g with
        pend := g.pend.map (fun q => if q.id == pid then p' else q)
        wait := if x.left.isEmpty then .none else .held x.die }
      { x.s with groups := x.s.groups.put gk g }

/-- The accesses of a held instruction that a denied fault entry covers are declared invalid (R321, R489). -/
def denyLoad (s : State) (gk pid : Nat) (covers : Dword → Bool) : State :=
  let g := s.grp gk
  match g.pend.find? (fun p => p.id == pid) with
  | none => s
  | some p =>
    match p.mop with
    | none => s
    | some op =>
      let out := (op.accs.filter (fun a => covers a.fva)).map (fun a => (causeAccess, a))
      let rest := op.accs.filter (fun a => !covers a.fva)
      let p' : Pend := {
        p with
        cause := deniedTrap g (p.denied ++ out) p.seq
        denied := p.denied ++ out
        wait := if rest.isEmpty then .ready else p.wait
        mop := if rest.isEmpty then none else some { op with accs := rest } }
      let g := { g with
        pend := g.pend.map (fun q => if q.id == pid then p' else q)
        wait := if rest.isEmpty then .none else g.wait }
      { s with groups := s.groups.put gk g }

/-! ### The report of a lost peer (R376, R544) -/

/-- FENCE_ERROR in class 2, or %err.FENCE, where a covered write went to a lost package (R376, R544). -/
def Group.fenceErr (g : Group) : Group :=
  match g.lostPkg with
  | none => g
  | some p =>
    let g := { g with lostPkg := none }
    if g.trap.trapen.getLsbD 2 then g.post { cause := causeFence, sub := p, lanes := g.em, seq := g.seq } else g.setErr 2#32

/-- An effect with the group changed. -/
def Res.mapG (r : Res Eff) (f : Group → Group) : Res Eff :=
  match r with
  | .ok e => .ok { e with g := f e.g }
  | x => x

/-! ### Store-like instructions (R299, R317 to R320) -/

/-- A store-like instruction: checked, then logged behind earlier entries, or performed with its faulting lanes logged
(R299, R317 to R319). `f` is what the instruction does to its group. -/
def storeLike (kind : AccKind) (align : Nat) (hint : Nat) (act : StoreAct) (lanes : List BurrowLane) (f : Group → Group) (s : State)
    (g : Group) : Res Eff :=
  let fails := lanes.filterMap (fun l => (accCheck s g kind l.va l.bytes.length align).map (fun c => (l.lane, c)))
  match fails with
  | (_, c, va) :: _ =>
    .trap { cause := c, addr := va, lanes := g.fold (maskOf (fun l => fails.any (fun f => f.1 == l && f.2.1 == c))) }
  | [] =>
    let gk := s.cur
    let reach := lanes.map (fun l => (l.lane, l.va, l.bytes.length))
    let comm := match act with
      | .comm _ _ => true
      | _ => false
    let s := s.putG g
    let s := if comm then s else commBefore s gk reach
    if storesHeld s gk false reach then heldWith s else
    let s : State := { s with groups := s.groups.put gk (f (s.grp gk)) }
    let full := decide (64 ≤ (s.core g.core).burrow.length)
    let entry := fun (ls : List BurrowLane) => ({ grp := gk, act := act, hint := hint, seq := g.seq, lanes := ls } : BurrowEntry)
    let log := fun (s : State) (ls : List BurrowLane) =>
      s.putCore g.core { (s.core g.core) with burrow := (s.core g.core).burrow ++ [entry ls] }
    if hasBurrow s gk then
      if full then .hold .suspended else .ok { s := log s lanes, g := (log s lanes).grp gk }
    else
      let x := storeRun s gk g.seq act hint lanes
      let s1 := postCauses x.s gk x.causes g.seq
      if x.lanes.all (·.done) then .ok { s := s1, g := s1.grp gk }
      else if full then .hold .suspended
      else .ok { s := log s1 x.lanes, g := s1.grp gk }

/-- The entries of a group are retried, oldest first, until one still has a logged lane (R320). -/
def drainEntries (gk core : Nat) : List BurrowEntry → State → State
  | [], s => s
  | e :: rest, s =>
    let x := storeRun s gk e.seq e.act e.hint e.lanes
    let s := postCauses x.s gk x.causes (s.grp gk).seq
    let others := (s.core core).burrow.filter (fun b => b.grp != gk)
    if x.lanes.all (·.done) then
      drainEntries gk core rest (s.putCore core { (s.core core) with burrow := others ++ rest })
    else s.putCore core { (s.core core) with burrow := others ++ { e with lanes := x.lanes } :: rest }

def retryBurrow (s : State) (gk : Nat) : State := drainEntries gk (s.grp gk).core (burrowOf s gk) s

/-- Logged lanes that a denied fault entry covers are discarded; later entries continue to drain (R320). -/
def denyBurrow (s : State) (gk : Nat) (covers : Dword → Bool) : State :=
  let g := s.grp gk
  let hit := fun (l : BurrowLane) => !l.done && covers l.fva
  let causes := (burrowOf s gk).flatMap (fun e => (e.lanes.filter hit).map (fun l => (causeAccess, ({ lane := l.lane, va := l.va } : LaneAcc))))
  let sorted := (List.range 16).flatMap (fun i => causes.filter (fun c => c.2.lane == i))
  let strike := fun (e : BurrowEntry) =>
    if e.grp == gk then { e with lanes := e.lanes.map (fun l => if hit l then { l with done := true } else l) } else e
  let s := s.putCore g.core { (s.core g.core) with burrow := (s.core g.core).burrow.map strike }
  retryBurrow (postCauses s gk sorted g.seq) gk

/-! ### VPLD (R285) -/

/-- A lane's head: read and checked, with the element's bytes where the burrow holds them; bad; denied at the MTLB; or held on a
translation fault. -/
inductive HeadRes where
  | ok (a : LaneAcc) (fwd : Option (List Byte))
  | bad (lane : Nat) (t : Trap)
  | denied (a : LaneAcc) (cause : Nat)
  | fault (a : LaneAcc) (x : Xl)
  /-- the group's own earlier stores stand in the way (R319) -/
  | wait
  deriving DecidableEq, Repr

/-- The bytes of a lane's head, from the burrow or from memory; none: they wait. -/
def headRead (s : State) (gk : Nat) (g : Group) (l : Nat) (va : Dword) (hint : Nat) : State × Option (Acc (List Byte)) :=
  if loadsHeld s gk false [(l, va, 4)] then (s, none)
  else
    match forwardOf s gk l va 4 with
    | .forward bs => (s, some (.ok bs))
    | .wait => (s, none)
    | .free =>
      let p := laneRead s gk (g.req 0 va) (g.vis l) hint 4
      (p.1, some p.2)

/-- One lane's head, and the size of its element. -/
def headOne (s : State) (l : Nat) (va : Dword) (hint : Nat) : State × HeadRes × Nat :=
  let gk := s.cur
  let g := s.grp gk
  let a : LaneAcc := { lane := l, va := va, b := (g.precOf l).setWidth 128 }
  match accCheck s g .ldst va 4 1 with
  | some (c, ad) => (s, .bad l { cause := c, addr := ad }, 0)
  | none =>
    if [va, va + 3].any (fun x => g.deny.contains ((xlVa s g l x).toNat / 65536)) then (s, .denied a causeAccess, 0)
    else
      match headRead s gk g l va hint with
      | (s, none) => (s, .wait, 0)
      | (s, some (.stop (.cause c))) => (s, .denied a c, 0)
      | (s, some (.stop x)) => (s, .fault a x, 0)
      | (s, some (.ok hb)) =>
        let h : Word := BitVec.ofNat 32 (bytesNat hb)
        let size := 4 + (h.toNat % 256 + 7) / 8
        let r :=
          if VpElt.badHead h then HeadRes.bad l { cause := causeIllegal, addr := va }
          else if g.lmax < h.toNat % 256 ∧ !g.precSat l then .bad l { cause := causePrec, sub := 2, addr := va }
          else
            match accCheck s g .ldst va size 1 with
            | some (c, ad) => .bad l { cause := c, addr := ad }
            | none =>
              let a := { a with c := h.setWidth 128 }
              if loadsHeld s gk false [(l, va, size)] then .wait
              else
                match forwardOf s gk l va size with
                | .forward bs => .ok a (some bs)
                | .wait => .wait
                | .free => .ok a none
        (s, r, size)

/-- The heads of the active lanes in ascending order, each at its own address or, packed, where the last element ended. DESIGN CHOICE:
behind a packed head that the MTLB denies, the later lanes have no address: they are neither loaded nor reported (log 94). -/
def headLoop (packed : Bool) (hint : Nat) : List (Nat × Dword) → Option Dword → State → State × List HeadRes
  | [], _, s => (s, [])
  | (l, a) :: rest, next, s =>
    let va := if packed then next.getD a else a
    let p := headOne s l va hint
    if packed && p.2.2 == 0 then (p.1, [p.2.1])
    else
      let q := headLoop packed hint rest (some (va + BitVec.ofNat 64 p.2.2)) p.1
      (q.1, p.2.1 :: q.2)

/-- VPLD after its addresses are formed (R50, R285): the heads; a head that does not translate holds the group, which issues the VPLD
again after the replay; once every head is read, the fault of the lowest lane; then the elements. -/
def vpldHeads (s : State) (packed : Bool) (addrs : List (Nat × Dword)) (o : EOps) (sh : Shape) (m : Half) : Res Eff :=
  let gk := s.cur
  let g := s.grp gk
  let hint := o.hint.toNat % 4
  let p := headLoop packed hint addrs none s
  let bad := p.2.filterMap (fun r => match r with
    | .bad l t => some (l, t)
    | _ => none)
  let stop : Option (LaneAcc × Xl) := p.2.findSome? (fun r => match r with
    | .fault a x => some (a, x)
    | _ => none)
  if p.2.contains .wait then heldWith p.1 else
  match stop, bad with
  | some (_, .fault d fva), _ =>
    let s := holdFault p.1 d (g.req 0 fva) (.group gk)
    .ok { s := s, g := { s.grp gk with wait := .held d }, done := true }
  | some (_, .refuse h), _ =>
    let s := p.1.refuse (.group gk) h
    .ok { s := s, g := { s.grp gk with wait := .held 0 }, done := true }
  | _, (_, t) :: _ => .trap { t with lanes := g.fold (maskOf (fun l => bad.any (fun b => b.1 == l && b.2.cause == t.cause))) }
  | _, [] =>
    let accs := p.2.filterMap (fun r => match r with
      | .ok a none => some a
      | _ => none)
    let done := p.2.filterMap (fun r => match r with
      | .ok a (some bs) =>
        some (vpLoadOuts g o.d.toNat a.lane (a.b.setWidth 32) (VpElt.ofBytes (BitVec.ofNat 32 (bytesNat (bs.take 4))) (bs.drop 4)))
      | _ => none)
    let pre := p.2.filterMap (fun r => match r with
      | .denied a c => some (c, a)
      | _ => none)
    let s := { p.1 with groups := p.1.groups.put gk { p.1.grp gk with deny := [] } }
    opIssue s gk { act := .vpLoad, dst := o.d.toNat, accs := accs, hint := hint } (writesOf sh o) m true
      (done.flatMap (·.outs)) (done.flatMap (·.vpbits)) pre

end Sys2Proof.Machine
end

