-- ==== Sys2Proof/Machine/Owl.lean ====
section
/-!
DEFINITION. The owl line (R205 to R208, R211): triggers, the latch of every block's record, forwards to the gang, and the
counters that the records hold. Counters of cycles are free values of the latch (log 8).
-/

namespace Sys2Proof.Machine

def State.snap (s : State) (pkg : Nat) : Snap := s.snaps.getD pkg {}
def State.putSnap (s : State) (pkg : Nat) (x : Snap) : State := { s with snaps := s.snaps.put pkg x }

/-- What a block's counters show that the machine's state holds (R211): REF and LCNT of channels, burrow entries and ROLLCNT of a
core; batches in RUN; active collectives; a port's replays and state; an arbiter's INUSE and grants; write-queue entries. -/
def liveCounts (s : State) (pkg : Nat) : List (Nat × Dword) :=
  let inPkg := fun (e : Nat × Core) => e.1 / 384 == pkg
  let cores := (s.cores.filter inPkg).flatMap (fun e =>
    let b := e.1 % 384
    [(cntKey pkg b 30, e.2.cyc), (cntKey pkg b 26, BitVec.ofNat 64 e.2.burrow.length),
      (cntKey pkg b 27, BitVec.ofNat 64 (bits e.2.ctncnt.toNat 16 8))] ++
    e.2.chans.flatMap (fun c => [(cntKey pkg b (10 + c.1), c.2.ref.setWidth 64), (cntKey pkg b (18 + c.1), c.2.lcnt)]))
  let dies := (s.dies.filter (fun e => e.1 / 4 == pkg)).flatMap (fun e =>
    let d := e.1 % 4
    let n := fun (x : Nat) => BitVec.ofNat 64 x
    [(cntKey pkg (384 + 2 * d) 4, n e.2.wqa.length), (cntKey pkg (385 + 2 * d) 4, n e.2.wqb.length),
      (cntKey pkg (392 + d) 4, n (e.2.solver.filter (fun b => b.2.st == .run)).length),
      (cntKey pkg (396 + d) 3, n (e.2.colls.filter (fun c => c.2.st == .running)).length),
      (cntKey pkg (426 + d) 0, n e.2.inuse), (cntKey pkg (426 + d) 1, n e.2.grants)])
  let ports := (s.ports.filter (fun e => e.1 / 24 == pkg)).flatMap (fun e =>
    [(cntKey pkg (400 + e.1 % 24) 2, BitVec.ofNat 64 e.2.replays), (cntKey pkg (400 + e.1 % 24) 9, BitVec.ofNat 64 e.2.st.code)])
  cores ++ dies ++ ports

/-- A trigger of a package (R205 to R207): latched when BUSY is 0, else counted in DROPS. `gang`: it came from SNAP.GANG;
`origin`: the package that started it. -/
def owlTrigger (s : State) (pkg source : Nat) (tag : Half) (origin : Nat) (gang : Bool) : State :=
  let x := s.snap pkg
  if x.busy then s.putSnap pkg { x with drops := min (x.drops + 1) 255 }
  else
    let seq := (x.seq + 1) % 256
    let mine := fun (e : Nat × Dword) => decide (e.1 / 32 / 432 = pkg)
    let records := (s.counters.filter mine ++ liveCounts s pkg).foldl (fun (t : Tab Dword) e => t.store 0 e.1 e.2) (s.records.filter (fun e => !mine e))
    let s := { s with records := records }
    let s := s.putSnap pkg { x with seq := seq, busy := true, source := source, tag := tag, tagPkg := origin, latch := s.free }
    if gang || (x.fwd && source != 5) then
      ((s.pkg pkg).gang.filter (fun p => p != pkg)).foldl (fun s p =>
        transmit { s with owlOut := s.owlOut ++ [{ dest := p, origin := pkg, tag := tag }] } pkg p vcMgmt) s
    else s

/-- An error event pulls the line where ERRMASK enables it; `bit` is 8 to 12 (R205, R208). -/
def owlError (s : State) (pkg bit : Nat) : State :=
  if (s.snap pkg).errmask.getLsbD (bit - 8) then owlTrigger s pkg 3 (BitVec.ofNat 16 bit) pkg false else s

end Sys2Proof.Machine
end

