-- ==== Sys2Proof/Machine/Power.lean ====
section
/-!
DEFINITION. The power arbiter of a lattice die (R193 to R197): requests in arrival order, grants, releases, withdrawals.
-/

namespace Sys2Proof.Machine

def Die.powerAsked (d : Die) (u : PowerUser) : Bool := d.powerq.any (fun r => r.who == u) || d.granted.any (fun r => r.who == u && !r.ended)
def Die.powerHeld (d : Die) (u : PowerUser) : Bool := d.granted.any (fun r => r.who == u && !r.ended)

/-- An operation asks for units: its request joins the tail of the queue (R194, R195). -/
def powerAsk (s : State) (dk : Nat) (u : PowerUser) (n : Nat) : State :=
  let d := s.die dk
  if d.powerAsked u then s else s.putDie dk { d with powerq := d.powerq ++ [{ who := u, units := n }] }

/-- An operation ends: its units are to be returned (R193). -/
def powerEnd (s : State) (dk : Nat) (u : PowerUser) : State :=
  let d := s.die dk
  s.putDie dk { d with granted := d.granted.map (fun r => if r.who == u then { r with ended := true } else r) }

/-- An operation is discarded (R527): a queued request is removed, and granted units are to be returned. -/
def powerCease (s : State) (dk : Nat) (u : PowerUser) : State :=
  let s := powerEnd s dk u
  s.putDie dk { (s.die dk) with powerq := (s.die dk).powerq.filter (fun r => r.who != u) }

/-- A withdrawal (R195): a queued request is removed; a granted one releases its units at once. -/
def powerWithdraw (s : State) (dk : Nat) (u : PowerUser) : State :=
  let d := s.die dk
  let back := ((d.granted.filter (fun r => r.who == u)).map (·.units)).sum
  s.putDie dk
    { d with
      powerq := d.powerq.filter (fun r => r.who != u)
      granted := d.granted.filter (fun r => r.who != u)
      inuse := d.inuse - back }

/-- The arbiter serves the head of its queue (R194). -/
def powerServe (s : State) (dk : Nat) : State :=
  let d := s.die dk
  match d.powerq with
  | [] => s
  | r :: rest =>
    if d.inuse + r.units ≤ d.budget ∨ d.inuse = 0 then
      s.putDie dk { d with powerq := rest, granted := d.granted ++ [r], inuse := d.inuse + r.units, grants := d.grants + 1 }
    else s

/-- The units of an ended operation return (R195). -/
def powerReturn (s : State) (dk op : Nat) : State :=
  let d := s.die dk
  match d.granted[op]? with
  | some r => if r.ended then s.putDie dk { d with granted := d.granted.eraseIdx op, inuse := d.inuse - r.units } else s
  | none => s

end Sys2Proof.Machine
end

