-- ==== Sys2Proof/Machine/TileEng.lean ====
section
/-!
DEFINITION. The tile engine (R322 to R350, R548): elements, block sums and passes, masking, loads and stores of operands, the
queue of accepted instructions and their resources, the sequencer's steps and the save area.
-/

namespace Sys2Proof.Machine

/-! ### Formats (R136, R137) -/

/-- Bits of an element in memory. -/
def fmtBits (f : Nat) : Nat :=
  match f with
  | 0 => 4
  | 1 => 4
  | 9 => 16
  | 10 => 16
  | 11 => 16
  | 12 => 32
  | _ => 8

/-- The exact value of an element's pattern. -/
def fmtValue (f raw : Nat) : XReal :=
  match f with
  | 0 => XReal.ofInt (BitVec.ofNat 4 raw).toInt 0 false
  | 1 => XReal.ofInt ((raw % 16 : Nat) : Int) 0 false
  | 2 => XReal.ofInt (BitVec.ofNat 8 raw).toInt 0 false
  | 3 => XReal.ofInt ((raw % 256 : Nat) : Int) 0 false
  | 10 => bf16.decode (raw % 2 ^ 16)
  | 11 => fp16.decode (raw % 2 ^ 16)
  | 12 => fp32.decode (raw % 2 ^ 32)
  | f => taperedDecode raw (taperedOf f).1 (taperedOf f).2

/-- The formats that INT32 mode refuses (R343, R346). -/
def fmtFloating (f : Nat) : Bool := decide (4 ≤ f)

/-- The bits of an element that the engine keeps: of a T6 byte, the low six (R132). -/
def fmtKeep (f raw : Nat) : Nat := if f = 4 ∨ f = 5 then raw % 64 else raw

/-- The alignment of an operand of a format (R340). -/
def fmtAlign (f : Nat) : Nat := if f = 13 then 1 else (fmtBits f + 7) / 8

/-- A macro's width (R322). -/
def macWidth (f : Nat) : Nat := if f = 12 then 64 else 128

/-! ### Passes (R328 to R331) -/

/-- BlockSum of R328 over the elements of one block; `wa` is the significand width that A keeps. -/
def blockSum (wa : Nat) (a e : List XReal) : XReal :=
  let ps := a.zip e
  let infs := ps.filter (fun p => p.1.isInf || p.2.isInf)
  let neg := fun (p : XReal × XReal) => p.1.neg? != p.2.neg?
  if ps.any (fun p => p.1.isNan || p.2.isNan || XReal.mulInvalid p.1 p.2) then .nan false
  else if infs.any neg && infs.any (fun p => !neg p) then .nan false
  else if !infs.isEmpty then .inf (infs.any neg)
  else
    let top := fun (l : List XReal) => l.foldl (fun (m : Option Int) x =>
      match x with
      | .fin _ k u => some (match m with
        | some v => max v (flog2 k u)
        | none => flog2 k u)
      | _ => m) none
    match top a, top e with
    | some ea, some eb =>
      (a.map (fun x => roundUnit x (ea - wa + 1) .rtz)).zip (e.map (fun x => roundUnit x (eb - 23) .rtz)) |>.foldl
        (fun acc p => XReal.add .rne acc (XReal.mul p.1 p.2)) (.zero false)
    | _, _ => .zero false

/-- The elements of block b of row r of a buffer, and of column c of a macro. -/
def TBuf.block (x : TBuf) (r b : Nat) : List XReal := (List.range 24).map (fun k => x.el.getD (r * 96 + 24 * b + k) (.zero false))
def TMac.block (x : TMac) (fmt c b : Nat) : List XReal := (List.range 24).map (fun k => fmtValue fmt (x.el.getD ((24 * b + k) * 128 + c) 0))

/-- The integer of an element in INT32 mode, however its value is written. -/
def intOf (x : XReal) : Int := (roundUnit x 0 .rtz).toInt

/-- IntPass of R331: the exact products in ascending k, each sum saturated or wrapped. -/
def intPass (x : TBuf) (m : TMac) (fmt r c : Nat) (saturate : Bool) (old : Word) : Word :=
  (List.range 96).foldl (fun (acc : Word) k =>
    let p := intOf (x.el.getD (r * 96 + k) (.zero false)) * intOf (fmtValue fmt (m.el.getD (k * 128 + c) 0))
    BitVec.ofInt 32 (if saturate then sat (acc.toInt + p) 32 else acc.toInt + p)) old

/-! ### Tiles and masking (R324, R332) -/

def TileEng.elt (t : TileEng) (tile r c : Nat) : Pair := t.tiles.getD (tile * 2048 + r * 128 + c) {}

/-- Elements of a tile, for the columns below w, take new values. -/
def TileEng.mapTile (t : TileEng) (tile w : Nat) (f : Nat → Nat → Pair → Pair) : TileEng :=
  { t with tiles := (List.range (16 * w)).foldl (fun (m : Tab Pair) i =>
      let key := tile * 2048 + i / w * 128 + i % w
      m.store {} key (f (i / w) (i % w) (m.getD key {}))) t.tiles }

def TileEng.fillTile (t : TileEng) (tile : Nat) (p : Pair) : TileEng := t.mapTile tile 128 (fun _ _ _ => p)

def TriReg.masked (t : TriReg) (i j : Nat) : Bool :=
  if t.side then decide ((j : Int) < i + t.d.toInt) else decide ((i : Int) + t.d.toInt < j)

/-- A sub-tile is wholly masked (R332). -/
def TriReg.whole (t : TriReg) (row0 col0 w : Nat) : Bool :=
  if t.side then decide ((col0 : Int) + w - 1 < row0 + t.d.toInt) else decide ((row0 : Int) + 15 + t.d.toInt < col0)

def TriReg.fillElt (t : TriReg) : Pair := { s := t.fill }

def triMasked (t : Option TriReg) (i j : Nat) : Bool :=
  match t with
  | some t => t.masked i j
  | none => false

def triWhole (t : Option TriReg) (row0 col0 w : Nat) : Bool :=
  match t with
  | some t => t.whole row0 col0 w
  | none => false

/-! ### TMMA and TSCA (R343, R344) -/

/-- One pass of a buffer through a macro into tile d, or tiles d to d + 3 in block mode (R334, R343). -/
def macPass (t : TileEng) (buf mac d bfmt p mfmt : Nat) (block saturate int : Bool) (tri : Option TriReg) (row0 col : Nat) : TileEng :=
  let w := macWidth mfmt
  let x := t.bufs.getD buf {}
  let m := t.macs.getD mac {}
  let wa := if bfmt = 13 then p + 1 else 24
  let sum := fun r c b => blockPair (blockSum wa (x.block r b) (m.block mfmt c b))
  if triWhole tri row0 col w then
    if block then (List.range 4).foldl (fun t b => t.fillTile (d + b) {}) t
    else t.fillTile d ((tri.getD {}).fillElt)
  else if block then
    (List.range 4).foldl (fun t b => t.mapTile (d + b) w (fun r c _ => sum r c b)) t
  else
    t.mapTile d w (fun r c old =>
      if triMasked tri (row0 + r) (col + c) then (tri.getD {}).fillElt
      else if int then { s := intPass x m mfmt r c saturate old.s }
      else (List.range 4).foldl (fun q b => twoSum q (sum r c b).value) old)

def mmaDo (t : TileEng) (first cnt buf d : Nat) (block saturate int : Bool) (tri : Option TriReg) (row0 col0 bfmt p : Nat)
    (mfmts : List Nat) : TileEng :=
  (List.range cnt).foldl (fun t i =>
    macPass t buf (first + i) (if block then d + 4 * i else d + i) bfmt p (mfmts.getD i 2) block saturate int tri row0 (col0 + 128 * i)) t

def scaDo (t : TileEng) (dst src : Nat) (tri : Option TriReg) (row0 col0 : Nat) (rows cols : List Word) : TileEng :=
  if triWhole tri row0 col0 128 then t.fillTile dst ((tri.getD {}).fillElt)
  else
    t.mapTile dst 128 (fun r c old =>
      if triMasked tri (row0 + r) (col0 + c) then (tri.getD {}).fillElt
      else
        (List.range 4).foldl (fun q b =>
          let x := XReal.mul (XReal.mul (t.elt (src + b) r c).value (val32 (rows.getD (b * 16 + r) 0))) (val32 (cols.getD (b * 128 + c) 0))
          twoSum q x) old)

/-! ### Operands in memory (R337, R340 to R342) -/

/-- One line of an operand on its way into a buffer row, a K row of a macro or (N-major) a column of it. -/
structure TLine where
  buf : Bool
  unit : Nat
  fmt : Nat
  vp : VpIn := {}
  nmaj : Bool := false
  idx : Nat
  base : Dword
  skip : Nat := 0
  count : Nat
  full : Nat

/-- What a tile instruction's access comes back with: its result, or what stopped it, at which address. -/
inductive TAcc (α : Type) where
  | ok (a : α)
  | stop (x : Xl) (va : Dword)
  deriving DecidableEq, Repr

/-- A tile instruction's read, line by line: bytes that its group has stored since have a value from before or after (R337). -/
def tileRead (s : State) (gk seq : Nat) (r : TransReq) (n : Nat) : State × TAcc (List Byte) :=
  (chunksOf r.va n).foldl (fun (p : State × TAcc (List Byte)) c =>
    match p.2 with
    | .stop _ _ => p
    | .ok bs =>
      match laneRead p.1 gk { r with va := c.1 } 0 0 c.2 with
      | (s, .ok b) => (s, .ok (bs ++ (s.grp gk).seenBytes s.free seq (placesOf s gk 0 c.1 c.2) b))
      | (s, .stop x) => (s, .stop x c.1)) (s, .ok [])

/-- The spaces that loads and stores of the engine may use (R340). -/
def tileSource : Space → Bool → Bool
  | .scratch, _ => true
  | .neigh, _ => true
  | .stash, _ => true
  | _, _ => false

def tileTarget : Space → Bool → Bool
  | .control, _ => true
  | .tensor, own => own
  | .scratch, _ => true
  | .neigh, _ => true
  | .stash, _ => true
  | _, _ => false

/-- The element patterns of a line: `count` from element `skip` on. -/
def rawElts (s : State) (gk seq : Nat) (fmt : Nat) (base : Dword) (skip count : Nat) : State × TAcc (List Nat) :=
  if count = 0 then (s, .ok [])
  else
    let b := fmtBits fmt
    let at_ := base + BitVec.ofNat 64 (skip * b / 8)
    let r := { (s.grp gk).req 4 at_ with write := false }
    match tileRead s gk seq r ((count * b + 7) / 8) with
    | (s, .ok bs) =>
      let n := bytesNat bs
      (s, .ok ((List.range count).map (fun i => bits n (b * i) b)))
    | (s, .stop x a) => (s, .stop x a)

/-- VP elements of a line, one after another (R342): the values of those from `skip` on. Bytes beyond the first head are checked as
they are read, and the first failing one is reported (R340). -/
def vpElts (vp : VpIn) (gk seq : Nat) : Nat → Nat → Dword → State → State × TAcc (List XReal)
  | 0, _, _, s => (s, .ok [])
  | n + 1, skip, at_, s =>
    let g := s.grp gk
    match extentCheck s g tileSource at_ 4 with
    | some (c, a) => (s, .stop (.cause c) a)
    | none =>
      match tileRead s gk seq (g.req 4 at_) 4 with
      | (s, .stop x a) => (s, .stop x a)
      | (s, .ok hb) =>
        let h : Word := BitVec.ofNat 32 (bytesNat hb)
        let k := (h.toNat % 256 + 7) / 8
        let body := at_ + 4
        match (if k = 0 then none else extentCheck s g tileSource body k) with
        | some (c, a) => (s, .stop (.cause c) a)
        | none =>
          match (if k = 0 then (s, TAcc.ok []) else tileRead s gk seq (g.req 4 body) k) with
          | (s, .stop x a) => (s, .stop x a)
          | (s, .ok fb) =>
            let v := if VpElt.badHead h then XReal.nan false
                     else (roundVP (VpElt.ofBytes h fb).value vp.p vp.mode).1.value
            match vpElts vp gk seq n (skip - 1) (body + BitVec.ofNat 64 k) s with
            | (s, .stop x a) => (s, .stop x a)
            | (s, .ok vs) => (s, .ok (if skip = 0 then v :: vs else vs))

def State.tile (s : State) (core : Nat) : TileEng := (s.core core).tile
def State.putTile (s : State) (core : Nat) (t : TileEng) : State := s.putCore core { (s.core core) with tile := t }

/-- The elements of a line stand in the engine; those beyond its count are zero (R341). -/
def TileEng.putRaw (t : TileEng) (l : TLine) (es : List Nat) : TileEng :=
  if l.buf then
    let b := t.bufs.getD l.unit {}
    let el := (List.range 96).foldl (fun (m : Tab XReal) e => m.store (.zero false) (l.idx * 96 + e) (fmtValue l.fmt (es.getD e 0))) b.el
    { t with bufs := t.bufs.put l.unit { b with el := el } }
  else
    let b := t.macs.getD l.unit {}
    let el := (List.range l.full).foldl (fun (m : Tab Nat) e =>
      m.store 0 (if l.nmaj then e * 128 + l.idx else l.idx * 128 + e) (fmtKeep l.fmt (es.getD e 0))) b.el
    { t with macs := t.macs.put l.unit { b with el := el } }

def TileEng.putVals (t : TileEng) (l : TLine) (es : List XReal) : TileEng :=
  let b := t.bufs.getD l.unit {}
  let el := (List.range 96).foldl (fun (m : Tab XReal) e => m.store (.zero false) (l.idx * 96 + e) (es.getD e (.zero false))) b.el
  { t with bufs := t.bufs.put l.unit { b with el := el } }

def loadLine (s : State) (core gk seq : Nat) (l : TLine) : State × TAcc Unit :=
  if l.fmt = 13 then
    match vpElts l.vp gk seq (if l.count = 0 then 0 else l.skip + l.count) l.skip l.base s with
    | (s, .ok vs) => (s.putTile core ((s.tile core).putVals l vs), .ok ())
    | (s, .stop x a) => (s, .stop x a)
  else
    match rawElts s gk seq l.fmt l.base l.skip l.count with
    | (s, .ok es) => (s.putTile core ((s.tile core).putRaw l es), .ok ())
    | (s, .stop x a) => (s, .stop x a)

/-- What a run of accesses comes to: all made, or stopped at one, with its address, or waiting for room in a write queue (R295). -/
structure RunEnd where
  s : State
  pos : Nat
  stop : Option (Xl × Dword) := none
  wait : Bool := false

/-- Lines from place `pos` on. -/
def loadLines (core gk seq : Nat) : List TLine → Nat → State → RunEnd
  | [], n, s => { s := s, pos := n }
  | l :: ls, n, s =>
    match loadLine s core gk seq l with
    | (s, .ok _) => loadLines core gk seq ls (n + 1) s
    | (s, .stop x a) => { s := s, pos := n, stop := some (x, a) }

def runLoads (core : Nat) (j : TileJob) (ls : List TLine) (s : State) : RunEnd := loadLines core j.grp j.pend (ls.drop j.pos) j.pos s

/-- A tile instruction's store, which is one of its group's (R337): a byte that races with another access of the group takes either
value (R173, R337). -/
def tileWrite (s : State) (j : TileJob) (r : TransReq) (bs : List Byte) : State × Acc Unit :=
  let g := s.grp j.grp
  let at_ := placesOf s j.grp 0 r.va bs.length
  let late := fun (p : Nat × Nat) => g.storedAfter j.pend p || g.landedBy (fun b => b != .tile j.num) p
  let note := fun (x : State × Acc Unit) (old : List Byte) =>
    match x with
    | (t, .ok _) => ((t.noteStore j.grp j.pend (some j.num) at_ old).noteLanded j.grp (.tile j.num) at_, Acc.ok ())
    | x => x
  if g.stores.isEmpty && g.landed.isEmpty && !s.racing j.grp (some j.num) then note (laneWrite s j.grp j.pend r 16 0 bs) []
  else
    match (laneRead s j.grp { r with read := true, write := false } 0 0 bs.length).2 with
    | .stop _ => note (laneWrite s j.grp j.pend r 16 0 bs) []
    | .ok old => note (laneWrite s j.grp j.pend r 16 0 (eitherBytes late s.free 0 at_ old bs)) old

/-- Elements stored in order, from place `pos` on. -/
def storeElts (j : TileJob) : List (Dword × List Byte) → Nat → State → RunEnd
  | [], n, s => { s := s, pos := n }
  | (va, bs) :: t, n, s =>
    let r := { (s.grp j.grp).req 4 va with read := false, write := true }
    if !portRoom s j.grp [(0, va, bs.length)] then { s := s, pos := n, wait := true }
    else
      match tileWrite s j r bs with
      | (s, .ok _) => storeElts j t (n + 1) s
      | (s, .stop x) => { s := s, pos := n, stop := some (x, va) }

def runStores (j : TileJob) (l : List (Dword × List Byte)) (s : State) : RunEnd := storeElts j (l.drop j.pos) j.pos s

/-! ### The lines of TLDB, TLDA and TGEMM -/

def lineAt (addr : Dword) (stride l : Nat) : Dword := addr + BitVec.ofNat 64 (l * stride)

/-- The lines of a B sub-tile that starts at K row k0 and N column n0 of its operand. -/
def ldbLines (role fmt : Nat) (nmaj : Bool) (addr : Dword) (stride k0 n0 k n : Nat) : List TLine :=
  let w := macWidth fmt
  if nmaj then
    (List.range w).map (fun l =>
      { buf := false, unit := role, fmt := fmt, nmaj := true, idx := l, base := lineAt addr stride (n0 + l), skip := k0
        count := if l < n then k else 0, full := 96 })
  else
    (List.range 96).map (fun l =>
      { buf := false, unit := role, fmt := fmt, idx := l, base := lineAt addr stride (k0 + l), skip := n0
        count := if l < k then n else 0, full := w })

/-- The lines of an A block that starts at row r0 and K element k0 of its operand. -/
def ldaLines (buf fmt : Nat) (vp : VpIn) (addr : Dword) (stride r0 k0 rows k : Nat) : List TLine :=
  (List.range 16).map (fun l =>
    { buf := true, unit := buf, fmt := fmt, vp := vp, idx := l, base := lineAt addr stride (r0 + l), skip := k0
      count := if l < rows then k else 0, full := 96 })

/-! ### Stored tiles (R345) -/

/-- The bytes of an element: form 0 pair, 1 collapsed, 2 integer. -/
def eltBytes (form : Nat) (p : Pair) : List Byte :=
  match form with
  | 0 => natBytes 4 p.s.toNat ++ natBytes 4 p.c.toNat
  | 1 => natBytes 4 (collapse p).toNat
  | _ => natBytes 4 p.s.toNat

def formSize (form : Nat) : Nat := if form = 0 then 8 else 4

/-- Rows and columns of a tile in ascending order, to a place that a stride lays out. -/
def tileElts (t : TileEng) (form tile : Nat) (addr : Dword) (stride row0 col0 rows cols : Nat) : List (Dword × List Byte) :=
  (List.range rows).flatMap (fun r => (List.range cols).map (fun c =>
    (addr + BitVec.ofNat 64 ((row0 + r) * stride + (col0 + c) * formSize form), eltBytes form (t.elt tile r c))))

/-! ### The TGEMM descriptor and its steps (R346, R347) -/

structure Gemm where
  aAddr : Dword
  bAddr : Dword
  oAddr : Dword
  aStr : Nat
  bStr : Nat
  oStr : Nat
  m : Nat
  n : Nat
  k : Nat
  tile : Nat
  c : Nat
  role : Nat
  out : Nat
  tri : Option TriReg
  nmaj : Bool
  fb : Nat
  fa : Nat

def Gemm.ofDesc (d : List Word) : Gemm :=
  let w := fun i => d.getD i 0
  let n := fun i => (w i).toNat
  let f := n 12
  { aAddr := w 1 ++ w 0, bAddr := w 3 ++ w 2, oAddr := w 5 ++ w 4, aStr := n 6, bStr := n 7, oStr := n 8, m := n 9, n := n 10, k := n 11
    tile := bits f 21 4, c := bits f 17 4 + 1, role := bits f 13 4, out := bits f 11 2
    tri := if f.testBit 9 then some { en := true, side := f.testBit 10, d := w 13, fill := w 14 } else none
    nmaj := f.testBit 8, fb := bits f 4 4, fa := bits f 0 4 }

def ceilDiv (a b : Nat) : Nat := (a + b - 1) / b

namespace Gemm

def w (d : Gemm) : Nat := macWidth d.fb
def ncg (d : Gemm) : Nat := ceilDiv d.n (d.w * d.c)
def nkc (d : Gemm) : Nat := ceilDiv d.k 96
def empty (d : Gemm) : Bool := d.m == 0 || d.n == 0 || d.k == 0
def total (d : Gemm) : Nat := if d.empty then 0 else ceilDiv d.m 16 * d.ncg * (d.nkc + 1)
/-- Row block, column group and chunk of a step. -/
def rb (d : Gemm) (step : Nat) : Nat := step / (d.nkc + 1) / d.ncg
def cg (d : Gemm) (step : Nat) : Nat := step / (d.nkc + 1) % d.ncg
def kc (d : Gemm) (step : Nat) : Nat := step % (d.nkc + 1)
def col (d : Gemm) (cg i : Nat) : Nat := d.w * (cg * d.c + i)
def act (d : Gemm) (cg : Nat) : List Nat := (List.range d.c).filter (fun i => decide (d.col cg i < d.n))
def live (d : Gemm) (rb cg : Nat) : List Nat := (d.act cg).filter (fun i => !triWhole d.tri (16 * rb) (d.col cg i) d.w)

/-- The lines a chunk step loads. -/
def lines (d : Gemm) (vp : VpIn) (rb cg kc : Nat) : List TLine :=
  let k := min 96 (d.k - 96 * kc)
  if (d.live rb cg).isEmpty then []
  else
    ldaLines (kc % 2) d.fa vp d.aAddr d.aStr (16 * rb) (96 * kc) (min 16 (d.m - 16 * rb)) k ++
      (d.live rb cg).flatMap (fun i =>
        ldbLines (d.role + i) d.fb d.nmaj d.bAddr d.bStr (96 * kc) (d.col cg i) k (min d.w (d.n - d.col cg i)))

/-- The elements an output step stores. -/
def elts (d : Gemm) (t : TileEng) (rb cg : Nat) : List (Dword × List Byte) :=
  (d.act cg).flatMap (fun i =>
    tileElts t d.out (d.tile + i) d.oAddr d.oStr (16 * rb) (d.col cg i) (min 16 (d.m - 16 * rb)) (min d.w (d.n - d.col cg i)))

/-- The passes of a chunk step. -/
def pass (d : Gemm) (vp : VpIn) (saturate int : Bool) (t : TileEng) (rb cg kc : Nat) : TileEng :=
  (d.live rb cg).foldl (fun t i =>
    macPass t (kc % 2) (d.role + i) (d.tile + i) d.fa vp.p d.fb false saturate int d.tri (16 * rb) (d.col cg i)) t

/-- The tiles of a column group are zeroed at its first chunk. -/
def clear (d : Gemm) (t : TileEng) (cg : Nat) : TileEng := (d.act cg).foldl (fun t i => t.fillTile (d.tile + i) {}) t

/-- Wholly masked tiles take their fill before the stores. -/
def fills (d : Gemm) (t : TileEng) (rb cg : Nat) : TileEng :=
  ((d.act cg).filter (fun i => !(d.live rb cg).contains i)).foldl (fun t i => t.fillTile (d.tile + i) ((d.tri.getD {}).fillElt)) t

end Gemm

/-! ### The save area (R349) -/

def bufAt (addr : Dword) (b : Nat) : Dword := addr + BitVec.ofNat 64 (0x100 + b * 0xC000)
def roleAt (addr : Dword) (m : Nat) : Dword := addr + BitVec.ofNat 64 (0x18100 + m * 0x6000)
def tileAt (addr : Dword) (t : Nat) : Dword := addr + BitVec.ofNat 64 (0x78100 + t * 0x4000)

/-- An element of a buffer as a VP element of L = 224: exact for every format. -/
def saveElt (x : XReal) : List Byte := (roundVP x 224 .rne).1.bytes

/-- The header of the area; RUN (R348, R349) says that a stopped TGEMM is held. -/
def saveHeader (t : TileEng) (run int : Bool) (tri : TriReg) (bfmt : List (Nat × Nat)) (mfmt : List Nat) : List Byte :=
  let word := natBytes 4
  word 1 ++ word t.step ++ word (run.toNat * 4 + int.toNat * 2 + tri.en.toNat) ++ word tri.side.toNat ++ word tri.d.toNat ++ word tri.fill.toNat ++
    (List.range 2).flatMap (fun b => let p := bfmt.getD b (2, 0); word (p.1 % 16 + p.2 % 256 * 16)) ++
    (List.range 16).flatMap (fun m => word (mfmt.getD m 2)) ++ (List.range 16).flatMap (fun n => word (t.desc.getD n 0).toNat) ++
    List.replicate 96 0

/-- The tiles or roles of a mask. -/
def maskBits (m : Half) : List Nat := lanesOf m

def saveElts (t : TileEng) (addr : Dword) (tmask mmask : Half) (run int : Bool) (tri : TriReg) (bfmt : List (Nat × Nat))
    (mfmt : List Nat) : List (Dword × List Byte) :=
  let hdr := (saveHeader t run int tri bfmt mfmt).zipIdx.map (fun p => (addr + BitVec.ofNat 64 p.2, [p.1]))
  let bufs := (List.range 2).flatMap (fun b => (List.range (16 * 96)).map (fun i =>
    (bufAt addr b + BitVec.ofNat 64 (32 * i), saveElt ((t.bufs.getD b {}).el.getD i (.zero false)))))
  let roles := (maskBits mmask).flatMap (fun m =>
    let w := macWidth (mfmt.getD m 2)
    let n := 256 / w
    (List.range (96 * w)).map (fun i =>
      (roleAt addr m + BitVec.ofNat 64 (n * i), natBytes n (fmtKeep (mfmt.getD m 2) ((t.macs.getD m {}).el.getD (i / w * 128 + i % w) 0)))))
  let tiles := (maskBits tmask).flatMap (fun k => tileElts t 0 k (tileAt addr k) 1024 0 0 16 128)
  hdr ++ bufs ++ roles ++ tiles

/-- The ranges of the area that the masks name: header and buffers, each role, each tile. -/
def areaParts (addr : Dword) (tmask mmask : Half) : List (Dword × Nat) :=
  (addr, 0x18100) :: ((maskBits mmask).map (fun m => (roleAt addr m, 0x6000)) ++ (maskBits tmask).map (fun t => (tileAt addr t, 0x4000)))

/-- The ranges that an instruction stores to (R337). -/
def TileOp.dest : TileOp → List (Dword × Nat)
  | .st form _ addr stride => (List.range 16).map (fun r => (lineAt addr stride r, 128 * formSize form))
  | .gemm desc _ _ _ =>
    let d := Gemm.ofDesc desc
    if d.empty then [] else (List.range d.m).map (fun r => (lineAt d.oAddr d.oStr r, d.n * formSize d.out))
  | .save addr tmask mmask _ _ _ _ => areaParts addr tmask mmask
  | _ => []

/-- The parts of a restore, in order: header, buffers, roles, tiles. -/
inductive SavePart where
  | header
  | buf (b : Nat)
  | role (m : Nat)
  | tile (k : Nat)

def saveParts (tmask mmask : Half) : List SavePart :=
  [.header, .buf 0, .buf 1] ++ (maskBits mmask).map .role ++ (maskBits tmask).map .tile

def wordAt (bs : List Byte) (o : Nat) : Nat := bytesNat ((bs.drop o).take 4)

/-- A restored header: each field as written (R349). -/
def TileEng.loadHeader (t : TileEng) (bs : List Byte) : TileEng :=
  let desc := (List.range 16).map (fun n => BitVec.ofNat 32 (wordAt bs (0x60 + 4 * n)))
  let f := wordAt bs 8
  { t with
    step := wordAt bs 4
    int := f.testBit 1
    run := f.testBit 2
    tri := { en := f.testBit 0, side := (wordAt bs 0xC).testBit 0, d := BitVec.ofNat 32 (wordAt bs 0x10), fill := BitVec.ofNat 32 (wordAt bs 0x14) }
    bufs := (List.range 2).foldl (fun (m : Tab TBuf) b =>
      let w := wordAt bs (0x18 + 4 * b)
      m.put b { (m.getD b {}) with fmt := bits w 0 4, p := bits w 4 8 }) t.bufs
    macs := (List.range 16).foldl (fun (m : Tab TMac) k => m.put k { (m.getD k {}) with fmt := wordAt bs (0x20 + 4 * k) % 16 }) t.macs
    desc := desc
    total := (Gemm.ofDesc desc).total }

def restorePart (t : TileEng) (p : SavePart) (bs : List Byte) : TileEng :=
  match p with
  | .header => t.loadHeader bs
  | .buf b =>
    let x := t.bufs.getD b {}
    let el := (List.range (16 * 96)).foldl (fun (m : Tab XReal) i =>
      let e := (bs.drop (32 * i)).take 32
      m.store (.zero false) i (VpElt.ofBytes (BitVec.ofNat 32 (bytesNat (e.take 4))) (e.drop 4)).value) x.el
    { t with bufs := t.bufs.put b { x with el := el } }
  | .role m =>
    let x := t.macs.getD m {}
    let w := macWidth x.fmt
    let n := 256 / w
    let el := (List.range (96 * w)).foldl (fun (t : Tab Nat) i => t.store 0 (i / w * 128 + i % w) (bytesNat ((bs.drop (n * i)).take n))) x.el
    { t with macs := t.macs.put m { x with el := el } }
  | .tile k =>
    t.mapTile k 128 (fun r c _ =>
      let o := r * 1024 + c * 8
      { s := BitVec.ofNat 32 (wordAt bs o), c := BitVec.ofNat 32 (wordAt bs (o + 4)) })

def SavePart.place (addr : Dword) : SavePart → Dword × Nat
  | .header => (addr, 0x100)
  | .buf b => (bufAt addr b, 0xC000)
  | .role m => (roleAt addr m, 0x6000)
  | .tile k => (tileAt addr k, 0x4000)

/-- A SAVE of a cohort wrote every part of a restore (R349). -/
def savedArea (c : Cohort) (addr : Dword) (tmask mmask : Half) : Bool :=
  let here := c.areas.filter (fun a => a.1 == addr)
  !here.isEmpty && (maskBits tmask).all (fun t => here.any (fun a => a.2.1.getLsbD t)) &&
    (maskBits mmask).all (fun m => here.any (fun a => a.2.2.getLsbD m))

/-- A completed SAVE is known to its cohort. -/
def markArea (s : State) (gk : Nat) (addr : Dword) (tmask mmask : Half) : State :=
  let ck := (s.grp gk).cohort
  match s.cohorts.get? ck with
  | some c => { s with cohorts := s.cohorts.put ck { c with areas := c.areas ++ [(addr, tmask, mmask)] } }
  | none => s

/-- A part as it stands in the state of R325, and the bytes of one of its elements; a role's depend on its format. `check`: the launch
has CHECK set. -/
def SavePart.fresh (check : Bool) (t : TileEng) : SavePart → List Byte × Nat
  | .header => (saveHeader {} false check {} [] [], 4)
  | .buf _ => ((List.replicate (16 * 96) (saveElt (.zero false))).flatten, 32)
  | .role m => (List.replicate 0x6000 0, 256 / macWidth (t.macs.getD m {}).fmt)
  | .tile _ => (List.replicate 0x4000 0, 8)

/-- A part of an area that no SAVE wrote: each element is the one in the area or the one of R325 (R349). -/
def SavePart.blend (p : SavePart) (check : Bool) (t : TileEng) (free : Nat) (bs : List Byte) : List Byte :=
  let f := p.fresh check t
  (bs.zip f.1).zipIdx.map (fun b => if Config.raceBytes free (b.2 / f.2) then b.1.1 else b.1.2)

/-- The parts of a restore from place n on; `ours`: a SAVE of the cohort wrote the area. -/
def runParts (core gk seq : Nat) (addr : Dword) (ours : Bool) : List SavePart → Nat → State → RunEnd
  | [], n, s => { s := s, pos := n }
  | p :: ps, n, s =>
    let at_ := p.place addr
    match tileRead s gk seq ((s.grp gk).req 4 at_.1) at_.2 with
    | (s, .ok bs) =>
      let t := s.tile core
      let bs := if ours then bs else p.blend (s.grp gk).info.check t s.free bs
      let s := if ours then s else { s with free := s.free + 1 }
      runParts core gk seq addr ours ps (n + 1) (s.putTile core (restorePart t p bs))
    | (s, .stop x a) => { s := s, pos := n, stop := some (x, a) }

/-! ### Resources and completion (R336) -/

/-- The resources of an accepted instruction; none: every one. Macro role m is m, buffer b 16 + b, tile t 32 + t, the triangle
register 48, the mode 49. -/
def TileOp.resources : TileOp → Option (List Nat)
  | .ldb role _ _ _ _ _ _ => some [role]
  | .lda buf _ _ _ _ _ _ => some [16 + buf]
  | .mma first cnt buf dst block _ _ tr _ _ _ _ _ =>
    some ((List.range cnt).map (fun i => first + i) ++ [16 + buf] ++
      (List.range (if block then 4 * cnt else cnt)).map (fun i => 32 + dst + i) ++ (if tr.isSome then [48] else []) ++ [49])
  | .sca dst src tr _ _ _ _ => some ([32 + dst] ++ (List.range 4).map (fun i => 32 + src + i) ++ (if tr.isSome then [48] else []) ++ [49])
  | .zero mask => some ((maskBits mask).map (fun t => 32 + t) ++ [49])
  | .rd _ _ tile _ _ _ _ => some [32 + tile, 49]
  | .st _ tile _ _ => some [32 + tile, 49]
  | .tri => some [48]
  | .mode => none
  | .gemm _ _ _ _ => none
  | .save _ _ _ _ _ _ _ => none
  | .restore _ _ _ => none

def shareRes (a b : TileOp) : Bool :=
  match a.resources, b.resources with
  | some x, some y => x.any (fun r => y.contains r)
  | _, _ => true

/-- Power units (R338). -/
def TileOp.units : TileOp → Nat
  | .mma _ cnt _ _ _ _ _ _ _ _ _ _ _ => cnt
  | .gemm d _ _ _ => if (Gemm.ofDesc d).empty then 0 else (Gemm.ofDesc d).c
  | _ => 0

/-- A pending instruction of a group takes its results, and waits for nothing more. -/
def finishPend (s : State) (gk pid : Nat) (f : Pend → Pend) : State :=
  match s.groups.get? gk with
  | none => s
  | some g =>
    { s with groups := s.groups.put gk { g with pend := g.pend.map (fun p => if p.id = pid then { f p with wait := .ready } else p) } }

/-- A group that was held on a translation fault goes on. -/
def unhold (s : State) (gk : Nat) : State :=
  match s.groups.get? gk with
  | none => s
  | some g => if g.wait.isHeld then { s with groups := s.groups.put gk { g with wait := .none } } else s

def TileEng.setJob (t : TileEng) (j : TileJob) : TileEng :=
  { t with jobs := t.jobs.map (fun x => if x.num = j.num then j else x) }

/-- A tile instruction completes, with its register results, or with a cause of class 0 (R340). -/
def tileDone (s : State) (core : Nat) (j : TileJob) (outs : List (Nat × Word)) (cause : Option (Nat × Dword)) : State :=
  let t := s.tile core
  let s := s.putTile core { t with jobs := t.jobs.filter (fun x => x.num != j.num) }
  let s := if j.op.units = 0 then s else powerEnd s (dieOfCore core) (.tile core j.num)
  let s := s.settleTile j.grp j.num
  let g := s.grp j.grp
  let s := finishPend s j.grp j.pend (fun p =>
    { p with outs := outs, cause := cause.map (fun c => (0, ({ cause := c.1, addr := c.2, lanes := g.em, seq := p.seq } : Trap))) })
  unhold s j.grp

/-- An access of a tile instruction stopped: it holds the group and waits, or ends (R340, R361). -/
def tileStop (s : State) (core : Nat) (j : TileJob) (x : Xl) (va : Dword) : State :=
  match x with
  | .cause c => tileDone s core j [] (some (c, va))
  | .fault d fva =>
    let s := holdFault s d { (s.grp j.grp).req 4 fva with write := j.op.writes } (.tile core)
    let s := s.putTile core ((s.tile core).setJob { j with held := true, va := fva })
    { s with groups := s.groups.put j.grp { s.grp j.grp with wait := .held d } }
  | .refuse h =>
    let s := s.refuse (.tile core) h
    s.putTile core ((s.tile core).setJob { j with held := true, va := va })
  | .ok _ _ => s

/-- A run of accesses of a tile instruction has ended; `fin` is what follows when all were made. -/
def tileRun (core : Nat) (j : TileJob) (r : RunEnd) (fin : State → State) : State :=
  match r.stop with
  | none => if r.wait then r.s.putTile core ((r.s.tile core).setJob { j with pos := r.pos }) else fin r.s
  | some (x, va) => tileStop r.s core { j with pos := r.pos } x va

/-- One accepted instruction is carried out (R341 to R346, R349). -/
def tileDo (s : State) (core : Nat) (j : TileJob) : State :=
  let t := s.tile core
  let pure := fun (t' : TileEng) => tileDone (s.putTile core t') core j [] none
  let done := fun (s : State) => tileDone s core j [] none
  match j.op with
  | .ldb role fmt nmaj addr stride k n => tileRun core j (runLoads core j (ldbLines role fmt nmaj addr stride 0 0 k n) s) done
  | .lda buf fmt vp addr stride rows k => tileRun core j (runLoads core j (ldaLines buf fmt vp addr stride 0 0 rows k) s) done
  | .mma first cnt buf dst block saturate int tri row0 col0 bfmt p mfmts =>
    pure (mmaDo t first cnt buf dst block saturate int tri row0 col0 bfmt p mfmts)
  | .sca dst src tri row0 col0 rows cols => pure (scaDo t dst src tri row0 col0 rows cols)
  | .zero mask => pure ((maskBits mask).foldl (fun t k => t.fillTile k {}) t)
  | .rd val int tile row gcol dst lanes =>
    let g := s.grp j.grp
    let outs := (lanesOf lanes).flatMap (fun l =>
      let p := t.elt tile row (gcol * g.nlanes + g.vis l)
      if val then [(vKey dst l, if int then p.s else collapse p)] else [(vKey dst l, p.s), (vKey (dst + 1) l, if int then 0 else p.c)])
    tileDone s core j outs none
  | .st form tile addr stride => tileRun core j (runStores j (tileElts t form tile addr stride 0 0 16 128) s) done
  | .mode => pure { t with tiles := [] }
  | .tri => pure t
  | .gemm desc _ _ _ =>
    let d := Gemm.ofDesc desc
    let t := { t with step := 0, total := d.total, desc := desc, run := false }
    if d.empty then done (s.putTile core t) else s.putTile core (t.setJob { j with running := true })
  | .save addr tmask mmask int tri bfmt mfmt =>
    tileRun core j (runStores j (saveElts t addr tmask mmask t.run int tri bfmt mfmt) s)
      (fun s => done (markArea s j.grp addr tmask mmask))
  | .restore addr tmask mmask =>
    let ours := savedArea (s.cohort (s.grp j.grp).cohort) addr tmask mmask
    tileRun core j (runParts core j.grp j.pend addr ours ((saveParts tmask mmask).drop j.pos) j.pos s) done

/-- The accesses of a tile instruction come after those that its group issued before it (R157, R158, R337): its burrow entries, its
RATOM requests, its earlier tile stores, and what its fences hold. -/
def tileTurn (s : State) (core : Nat) (j : TileJob) : Bool :=
  let g := s.grp j.grp
  let later : Later := { loads := true, stores := j.op.writes, ctl := j.dest.any (fun d => ctlPlace s g d.1) }
  !hasBurrow s j.grp && !g.ratoms.any (fun r => !r.done && decide (r.seq ≤ j.pend)) &&
    !(s.tile core).jobs.any (fun x => decide (x.num < j.num) && x.grp == j.grp && !x.dest.isEmpty) && !g.fenced j.pend later

/-- An accepted instruction may go on: no fault holds it, no earlier one shares a resource, and its accesses are due (R336, R337). -/
def tileFree (s : State) (core : Nat) (j : TileJob) : Bool :=
  !j.held && !((s.tile core).jobs.any (fun x => decide (x.num < j.num) && shareRes x.op j.op)) && (!j.op.memory || tileTurn s core j)

def TileOp.isGemm : TileOp → Bool
  | .gemm _ _ _ _ => true
  | _ => false

/-- A TGEMM that has not started, of a cohort that is to be pre-empted, asks for no units, unless an instruction that is to complete waits
for it (R195, R348). -/
def tileStays (s : State) (core : Nat) (j : TileJob) : Bool :=
  (s.cohort (s.grp j.grp).cohort).stop && !j.running && (s.tile core).jobs.all (fun x => decide (x.num < j.num) || x.op.isGemm)

/-- Instruction n starts, or asks for its power units (R338). -/
def tileStart (s : State) (core n : Nat) : State :=
  match (s.tile core).jobs.find? (fun j => decide (j.num = n)) with
  | none => s
  | some j =>
    if j.running || !tileFree s core j then s
    else if tileStays s core j then s
    else if j.op.units ≠ 0 && !(s.die (dieOfCore core)).powerHeld (.tile core n) then powerAsk s (dieOfCore core) (.tile core n) j.op.units
    else tileDo s core j

/-- The sequencer has finished a step (R347). -/
def gemmNext (s : State) (core : Nat) (j : TileJob) : State :=
  let t := s.tile core
  let t := { t with step := t.step + 1 }
  let j := { j with pos := 0 }
  let s := s.putTile core (t.setJob j)
  if t.step < t.total then s else tileDone s core j [] none

/-- One step of the sequencer: a chunk, or the stores of a column group (R347). -/
def gemmStep (s : State) (core : Nat) : State :=
  let t := s.tile core
  match t.jobs.find? (fun j => j.running && !j.held) with
  | none => s
  | some j =>
    match j.op with
    | .gemm desc saturate int vp =>
      let d := Gemm.ofDesc desc
      let rb := d.rb t.step
      let cg := d.cg t.step
      let kc := d.kc t.step
      if j.op.units ≠ 0 && !(s.die (dieOfCore core)).powerHeld (.tile core j.num) then s
      else if kc < d.nkc then
        let s := if kc = 0 ∧ j.pos = 0 then s.putTile core (d.clear t cg) else s
        tileRun core j (runLoads core j (d.lines vp rb cg kc) s) (fun s =>
          gemmNext (s.putTile core (d.pass vp saturate int (s.tile core) rb cg kc)) core j)
      else
        let s := if j.pos = 0 then s.putTile core (d.fills t rb cg) else s
        tileRun core j (runStores j (d.elts (s.tile core) rb cg) s) (fun s => gemmNext s core j)
    | _ => s

/-- Held tile instructions of a core are tried again at their next start (R361, R488). -/
def retryTile (s : State) (core : Nat) : State :=
  let t := s.tile core
  s.putTile core { t with jobs := t.jobs.map (fun j => { j with held := false }) }

/-- Held accesses that a denied entry covers end their instructions (R340, R489). -/
def denyTile (s : State) (core : Nat) (covers : Dword → Bool) : State :=
  ((s.tile core).jobs.filter (fun j => j.held && covers j.va)).foldl (fun s j => tileDone s core j [] (some (causeAccess, j.va))) s

end Sys2Proof.Machine
end

