-- ==== Sys2Proof/Machine/AllowEng.lean ====
section
/-!
DEFINITION. The allowance engine (R377 to R394): counters at their homes, slots of the clusters, the messages between them, recall
rounds and errors.
-/

namespace Sys2Proof.Machine

/-! ### Tables -/

def State.slotOf (s : State) (cl va : Nat) : Option Slot := (s.cluster cl).slots.get? va
def State.putSlot (s : State) (cl va : Nat) (x : Slot) : State := s.putCluster cl { (s.cluster cl) with slots := (s.cluster cl).slots.put va x }
def State.dropSlot (s : State) (cl va : Nat) : State := s.putCluster cl { (s.cluster cl) with slots := (s.cluster cl).slots.del va }
def State.send (s : State) (m : AMsg) : State := { s with amsgs := s.amsgs ++ [m] }

def sat32 (n : Nat) : Nat := min n (2 ^ 32 - 1)
def valueMax : Nat := 2 ^ 48 - 1

/-- The HOLD bit of a cluster of the home package (R377). -/
def holdBit (cl : Nat) : Nat := cl % 96

/-- The bytes of an object (R377). -/
def Counter.bytes (c : Counter) : List Byte :=
  natBytes 8 c.reserve ++ natBytes 4 c.q ++ natBytes 4 c.m ++ natBytes 12 c.hold.toNat ++
    natBytes 4 (c.broken.toNat * 4 + c.loss.toNat * 2 + c.live.toNat) ++ natBytes 4 c.recalls ++ natBytes 4 c.refused ++ natBytes 24 0

/-- The home changes a counter and writes its object through (R379). -/
def putCtr (s : State) (va : Nat) (c : Counter) : State :=
  let s := pocLine s c.phys true
  let s := physWrite s (c.phys * 128 + va % 128) c.leaf c.bytes
  { s with ctrs := s.ctrs.put va c }

/-- A counter changes without a change of its object. -/
def keepCtr (s : State) (va : Nat) (c : Counter) : State := { s with ctrs := s.ctrs.put va c }

/-- Add of R387; a total above the limit leaves the counter BROKEN. -/
def Counter.add (c : Counter) (x : Nat) : Counter :=
  if valueMax < c.reserve + x then { c with reserve := valueMax, broken := true } else { c with reserve := c.reserve + x }

/-- The clusters that hold a slot (R377). -/
def Counter.holders (c : Counter) (home : Nat) : List Nat :=
  ((List.range 96).filter (fun i => c.hold.getLsbD i)).map (fun i => home * 96 + i)

/-! ### Results -/

/-- A status, or a value, is written and the instruction completes. -/
def allowDone (s : State) (op : AOp) (ws : List Word) : State :=
  finishPend s op.grp op.pend (fun p =>
    { p with
        outs := match p.dests with
          | .s d :: _ => ws.zipIdx.map (fun w => (sKey (d + w.2), w.1))
          | _ => [] })

def allowStatus (s : State) (op : AOp) (n : Nat) : State := allowDone s op [BitVec.ofNat 32 n]
def allowValue (s : State) (op : AOp) (v : Nat) : State := allowDone s op [BitVec.ofNat 32 v, BitVec.ofNat 32 (v / 2 ^ 32)]
/-- All ones in both registers: a refused or lost AREAD (R395). -/
def allowOnes (s : State) (op : AOp) : State := allowDone s op [0xFFFFFFFF#32, 0xFFFFFFFF#32]

/-- An AGIVE of a group has been applied (R390). -/
def giveDone (s : State) (op : AOp) : State :=
  match s.groups.get? op.grp with
  | none => s
  | some g => { s with groups := s.groups.put op.grp { g with gives := g.gives - 1 } }

/-- A cause reaches the group asynchronously, and the operation completes with no result (R393). -/
def allowErr (s : State) (op : AOp) (va cause sub : Nat) : State :=
  match s.groups.get? op.grp with
  | none => s
  | some g =>
    let t : Trap := { cause := cause, sub := sub, addr := BitVec.ofNat 64 va, lanes := g.em, seq := op.pend }
    match op.kind with
    | .give => giveDone { s with groups := s.groups.put op.grp (g.post t) } op
    | _ => finishPend s op.grp op.pend (fun p => { p with cause := some (trapClass cause, t) })

/-- The home's check of an operation: its page's world, permission and translation (R393); none: it is moving. -/
def homeCheck (s : State) (op : AOp) (va : Nat) : State × Option (Except Nat (Nat × Dword)) :=
  let r : TransReq := {
    va := BitVec.ofNat 64 va, asid := op.id.asid, gen := op.id.gen, world := op.id.world, privileged := op.id.privileged
    write := true, ty := 2, who := { pkg := pkgOfCore op.core, die := dieOfCore op.core % 4, core := op.core % 96 } }
  match xlate s r with
  | (s, .ok pa e) => (s, some (.ok (pa / 128, e.word)))
  | (s, .cause c) => (s, some (.error c))
  | (s, .fault _ _) => (s, some (.error causeAccess))
  | (s, .refuse _) => (s, none)

/-! ### The home (R386 to R388, R396) -/

/-- A recall round begins: recalls go to the holders of a set (R387). `own`: it is the round of the request at the head. -/
def recallRound (s : State) (va : Nat) (c : Counter) (but : Option Nat) (own : Bool := true) : State :=
  let set := (c.holders c.home).filter (fun j => some j != but)
  let s := putCtr (s.bump c.home 430 1) va { c with recalls := sat32 (c.recalls + 1), awaited := c.awaited + set.length, round := c.round || own }
  set.foldl (fun s j => s.send { va := va, cl := some j, word := .recall }) s

/-- The head leaves the queue. -/
def popReq (c : Counter) : Counter := { c with queue := c.queue.tail, round := false }

/-- A refused take or exact read gets its answer (R385, R395): through its slot, or at a remote requester. -/
def refuseReq (s : State) (va : Nat) (c : Counter) (r : AReq) : State :=
  let s := s.bump c.home 430 2
  match r.cl with
  | some j =>
    match r.op.kind with
    | .exact => s.send { va := va, cl := some j, word := .reply (2 ^ 64 - 1) }
    | _ => s.send { va := va, cl := some j, word := .refusal (c.hold.getLsbD (holdBit j)) }
  | none =>
    match r.op.kind with
    | .exact => allowOnes s r.op
    | _ => allowStatus s r.op 1

/-- Serve of R387. -/
def serveTake (s : State) (va : Nat) (c : Counter) (r : AReq) : State :=
  let d := r.op.n - r.loc
  if c.reserve < d then
    if c.round then
      let c := popReq { c with refused := sat32 (c.refused + 1) }
      refuseReq (putCtr s va c) va c r
    else recallRound s va c r.cl
  else
    match r.cl with
    | none => allowStatus (putCtr s va (popReq { c with reserve := c.reserve - d })) r.op 0
    | some j =>
      let g := max d (min c.q c.reserve)
      let c := popReq { c with reserve := c.reserve - g, hold := setBit c.hold (holdBit j) true }
      (putCtr s va c).send { va := va, cl := some j, word := .grant r.op.n r.loc g }

/-- ServeExact of R387. -/
def serveExact (s : State) (va : Nat) (c : Counter) (r : AReq) : State :=
  if c.round then
    let s := putCtr s va (popReq c)
    match r.cl with
    | some j => s.send { va := va, cl := some j, word := .reply c.reserve }
    | none => allowValue s r.op c.reserve
  else recallRound s va c none

/-- Own entries of a home agent (R380). -/
def ownEntries (s : State) (home : Nat) : Nat := (s.ctrs.filter (fun e => e.2.live && e.2.home == home && e.1 / 2 ^ 57 % 32 == home)).length

/-- An ACRT at the head of a live counter's queue (R396). -/
def serveAcrt (s : State) (va : Nat) (c : Counter) (r : AReq) : State :=
  if !c.round then recallRound s va c none
  else
    let behind := c.queue.tail
    let c0 := { c with queue := [], round := false, awaited := 0 }
    let c' : Counter :=
      match r.op.kind with
      | .create q m => { home := c.home, reserve := r.op.n, q := q, m := m, phys := c.phys, leaf := c.leaf }
      | _ => { c0 with live := false }
    let s := putCtr s va c'
    let s := behind.foldl (fun s b => refuseReq s va c' b) s
    allowStatus s r.op 0

/-- ACRT.NEW makes a counter that is not live, where the home has an entry left (R380, R396). -/
def createCtr (s : State) (va home : Nat) (op : AOp) (q m phys : Nat) (leaf : Dword) (queue : List AReq) : State :=
  if 4096 ≤ ownEntries s home then allowStatus s op 1
  else allowStatus (putCtr s va { home := home, reserve := op.n, q := q, m := m, phys := phys, leaf := leaf, queue := queue }) op 0

/-- A return, or a give-up of a cluster, is added at the home: one that breaks the counter starts a round, and raises at the group that
caused it (R387, R388). -/
def homeAdd (s : State) (va x : Nat) (up : Option Nat) (op : AOp) : State :=
  match s.ctrs.get? va with
  | none => s
  | some c =>
    let c := match up with
      | some j => { c with hold := setBit c.hold (holdBit j) false }
      | none => c
    let c' := c.add x
    let s := if c'.broken && !c.broken then recallRound s va c' none false else putCtr s va c'
    if c'.broken && !c.broken then
      match s.groups.get? op.grp with
      | some g =>
        let t : Trap := { cause := causeAllowance, sub := 3, addr := BitVec.ofNat 64 va, lanes := g.em }
        { s with groups := s.groups.put op.grp (g.post t) }
      | none => s
    else s

/-- A returned give arrives: the excess of a give that its slot applied before its recall answer is added though the counter is BROKEN
(R387, R388, R393). -/
def returnArrives (s : State) (va x : Nat) (cl : Option Nat) (op : AOp) : State :=
  match s.ctrs.get? va with
  | none => allowErr s op va causeAllowance 2
  | some c =>
    if !c.live then allowErr s op va causeAllowance 2
    else if c.broken && !cl.any (fun j => c.hold.getLsbD (holdBit j)) then allowErr s op va causeAllowance 3
    else
      match homeCheck s op va with
      | (s, some (.error cause)) => allowErr s op va cause 0
      | (s, _) => giveDone (homeAdd s va x none op) op

/-- A recall answer arrives (R387): it is added, the holder's bit cleared, and its queued request has loc 0. -/
def answerArrives (s : State) (va j x : Nat) : State :=
  match s.ctrs.get? va with
  | none => s
  | some c =>
    putCtr s va
      { c with
        reserve := min (c.reserve + x) valueMax
        hold := setBit c.hold (holdBit j) false
        awaited := c.awaited - 1
        queue := c.queue.map (fun r => if r.cl = some j then { r with loc := 0 } else r) }

/-! ### Delivery (R384) -/

/-- The message goes to the home. -/
def AMsg.homeward (m : AMsg) : Bool :=
  match m.word with
  | .answer _ => true
  | .giveBack _ _ => true
  | .giveUp _ _ => true
  | _ => false

def arriveHome (s : State) (m : AMsg) : State :=
  match m.word with
  | .answer x => answerArrives s m.va (m.cl.getD 0) x
  | .giveBack x op => returnArrives s m.va x m.cl op
  | .giveUp x op => homeAdd s m.va x m.cl op
  | _ => s

/-- The home of a counter: its package, or the partner that took it over (R394). -/
def homeOf (s : State) (va : Nat) : Nat :=
  match s.ctrs.get? va with
  | some c => c.home
  | none => va / 2 ^ 57 % 32

/-- The core that a message comes from, where no slot sends it. -/
def AMsg.core (m : AMsg) : Option Nat :=
  match m.word with
  | .giveBack _ op => some op.core
  | _ => none

/-- A message to a home comes from a slot for a counter, or from a core, to the same home (R384). -/
def AMsg.comesFrom (s : State) (cl : Option Nat) (va core : Nat) (m : AMsg) : Bool :=
  m.homeward && m.cl == cl && (match cl with
    | some _ => m.va == va
    | none => m.core == some core && homeOf s m.va == homeOf s va)

/-- Every message of a slot, or of a core, to a home arrives before a later request of it does. -/
def flushHome (s : State) (cl : Option Nat) (va core : Nat) : State :=
  let mine := AMsg.comesFrom s cl va core
  (s.amsgs.filter mine).foldl arriveHome { s with amsgs := s.amsgs.filter (fun m => !mine m) }

/-- A request joins its counter's queue (R386). A counter that no ACRT has made is not live. -/
def enqueueReq (s : State) (va home : Nat) (r : AReq) : State :=
  let s := flushHome s r.cl va r.op.core
  let c := s.ctrs.getD va { home := home, live := false }
  keepCtr s va { c with queue := c.queue ++ [r] }

/-! ### Slots (R382, R383, R385) -/

def useSlot (s : State) (cl va : Nat) : State :=
  let c := s.cluster cl
  let s := s.putCluster cl { c with uses := c.uses + 1 }
  match s.slotOf cl va with
  | some x => s.putSlot cl va { x with last := c.uses + 1 }
  | none => s

/-- The least recently used slot that may be unbound (R382). -/
def lruSlot (c : Cluster) : Option (Nat × Slot) :=
  (c.slots.filter (fun e => e.2.st != .wait && e.2.queue.isEmpty)).foldl (fun (m : Option (Nat × Slot)) e =>
    match m with
    | some b => if e.2.last < b.2.last then some e else some b
    | none => some e) none

/-- A slot is bound for an operation, another unbound for it where all 64 are taken; false: none can be. -/
def bindSlot (s : State) (cl va : Nat) (op : AOp) : State × Bool :=
  match s.slotOf cl va with
  | some _ => (s, true)
  | none =>
    if (s.cluster cl).slots.length < 64 then (s.putSlot cl va {}, true)
    else
      match lruSlot (s.cluster cl) with
      | none => (s, false)
      | some (k, x) =>
        let s := s.dropSlot cl k
        let s := if x.st = .held then s.send { va := k, cl := some cl, word := .giveUp x.a op } else s
        (s.putSlot cl va {}, true)

/-- One operation at a slot that is not waiting (R385, R397 to R399). -/
def slotApply (s : State) (cl va home : Nat) (x : Slot) (op : AOp) : State :=
  let req := fun (loc : Nat) =>
    enqueueReq (s.putSlot cl va { x with st := .wait, loc := loc, op := some op }) va home { op := op, cl := some cl, loc := loc }
  match op.kind with
  | .take =>
    if x.st = .held ∧ op.n ≤ x.a then allowStatus (s.putSlot cl va { x with a := x.a - op.n }) op 0
    else req (if x.st = .held then x.a else 0)
  | .give =>
    if x.st = .held then
      let m := (s.ctrs.getD va {}).m
      let a := min (x.a + op.n) m
      let s := s.putSlot cl va { x with a := a }
      if x.a + op.n ≤ m then giveDone s op else s.send { va := va, cl := some cl, word := .giveBack (x.a + op.n - a) op }
    else s.send { va := va, cl := some cl, word := .giveBack op.n op }
  | _ => req x.a

/-- Operations queued at a slot are applied until one waits for the home. -/
def slotRun (cl va home : Nat) : Nat → State → State
  | 0, s => s
  | f + 1, s =>
    match s.slotOf cl va with
    | none => s
    | some x =>
      match x.st, x.queue with
      | .wait, _ => s
      | _, [] => s
      | _, op :: rest => slotRun cl va home f (slotApply (s.putSlot cl va { x with queue := rest }) cl va home { x with queue := rest } op)

/-- An operation arrives at the slot of its cluster. -/
def slotOp (s : State) (cl va : Nat) (op : AOp) : State :=
  match s.slotOf cl va with
  | none => s
  | some x =>
    let s := useSlot (s.putSlot cl va { x with queue := x.queue ++ [op] }) cl va
    slotRun cl va (homeOf s va) (x.queue.length + 2) s

/-- The wait of a slot ends. -/
def slotFree (s : State) (cl va : Nat) (x : Slot) : State :=
  slotRun cl va (homeOf s va) (x.queue.length + 1) (s.putSlot cl va x)

/-- The head of a counter's queue, where no recall round is under way (R386, R387, R393). -/
def serveFirst (s : State) (va : Nat) : State :=
  match s.ctrs.get? va with
  | none => s
  | some c =>
    if 0 < c.awaited then s
    else
      match c.queue with
      | [] => s
      | r :: _ =>
        let fail := fun (s : State) (cause sub : Nat) =>
          let s := allowErr (keepCtr s va (popReq c)) r.op va cause sub
          match r.cl with
          | some j =>
            match s.slotOf j va with
            | some x => slotFree s j va { x with st := if c.hold.getLsbD (holdBit j) then .held else .bound, a := x.loc, loc := 0, op := none }
            | none => s
          | none => s
        match homeCheck s r.op va with
        | (s, none) => s
        | (s, some (.error cause)) => fail s cause 0
        | (s, some (.ok (phys, leaf))) =>
          let c := { c with phys := phys, leaf := leaf }
          match r.op.kind with
          | .create q m => if c.live then serveAcrt s va c r else createCtr (keepCtr s va (popReq c)) va c.home r.op q m phys leaf c.queue.tail
          | .free => if c.live then serveAcrt s va c r else fail s causeAllowance 2
          | .exact => if !c.live then fail s causeAllowance 2 else if c.broken then fail s causeAllowance 3 else serveExact s va c r
          | _ => if !c.live then fail s causeAllowance 2 else if c.broken then fail s causeAllowance 3 else serveTake s va c r

/-- Requests queued at a counter's home. -/
def queuedAt (s : State) (va : Nat) : Nat := ((s.ctrs.get? va).map (fun c => c.queue.length)).getD 0

/-- The head of a counter's queue is served, and counted when it leaves the queue (R211). -/
def serveHead (s : State) (va : Nat) : State :=
  let t := serveFirst s va
  match s.ctrs.get? va with
  | some c => if queuedAt t va < c.queue.length then t.bump c.home 430 0 else t
  | none => t

/-- The request of a slot that waits: the operation that its answer ends. The home answers requests of a slot one at a time. -/
def arriveSlot (s : State) (m : AMsg) (op : Option AOp) : State :=
  match m.cl with
  | none => s
  | some cl =>
    match s.slotOf cl m.va, m.word with
    | some x, .grant n loc g =>
      let s := slotFree s cl m.va { x with st := .held, a := loc + g - n, loc := 0, op := none }
      match op with
      | some o => allowStatus s o 0
      | none => s
    | some x, .refusal held =>
      let s := slotFree s cl m.va { x with st := if held then .held else .bound, a := x.loc, loc := 0, op := none }
      match op with
      | some o => allowStatus s o 1
      | none => s
    | some x, .reply v =>
      let s := slotFree s cl m.va { x with st := .bound, a := 0, loc := 0, op := none }
      match op with
      | some o => if v = 2 ^ 64 - 1 then allowOnes s o else allowValue s o v
      | none => s
    | some x, .recall =>
      match x.st with
      | .wait => (s.putSlot cl m.va { x with loc := 0 }).send { va := m.va, cl := some cl, word := .answer x.loc }
      | _ => (s.putSlot cl m.va { x with a := 0, st := .bound }).send { va := m.va, cl := some cl, word := .answer x.a }
    | none, .recall => s.send { va := m.va, cl := some cl, word := .answer 0 }
    | _, _ => s

/-- An earlier message holds back one of the same ends and direction. -/
def holdsBack (s : State) (m x : AMsg) : Bool :=
  if m.homeward then x.comesFrom s m.cl m.va (m.core.getD 0) else !x.homeward && x.va == m.va && x.cl == m.cl

/-- Message n arrives, unless an earlier one of the same ends and direction has not (R384). -/
def deliverAllow (s : State) (n : Nat) (ok : AWord → Bool) : State :=
  match s.amsgs[n]? with
  | none => s
  | some m =>
    if !ok m.word || (s.amsgs.take n).any (holdsBack s m) then s
    else
      let s := { s with amsgs := s.amsgs.eraseIdx n }
      if m.homeward then arriveHome s m else arriveSlot s m (m.cl.bind (fun cl => (s.slotOf cl m.va).bind (·.op)))

/-- The home of a counter is lost (R394): the partner takes it over with RESERVE as it stands, and its queued requests end with
status 2. -/
def counterLoss (s : State) (pkg partner : Nat) : State :=
  let mine := fun (e : Nat × Counter) => e.2.home == pkg
  let reqs := (s.ctrs.filter mine).flatMap (fun e => e.2.queue)
  let gone := fun (m : AMsg) => match s.ctrs.get? m.va with
    | some c => c.home == pkg
    | none => false
  let lost := s.amsgs.filter gone
  let s := (s.ctrs.filter mine).foldl (fun s e =>
    putCtr s e.1 { e.2 with home := partner, hold := 0, loss := true, queue := [], awaited := 0, round := false }) { s with amsgs := s.amsgs.filter (fun m => !gone m) }
  let s := lost.foldl (fun s m => match m.word with
    | .giveBack _ op => giveDone s op
    | _ => s) s
  reqs.foldl (fun s r => match r.op.kind with
    | .exact => allowOnes s r.op
    | .approx => allowOnes s r.op
    | _ => allowStatus s r.op 2) s

/-- A give of a package's groups that is under way to a surviving home is added or lost (R394). -/
def AMsg.giver (m : AMsg) : Option Nat :=
  match m.word with
  | .giveBack _ op => some (pkgOfCore op.core)
  | _ => none

/-- The gives of package q to counters of package pkg, when pkg takes q as lost. -/
def giveLoss (s : State) (pkg q : Nat) : State :=
  let s := { s with free := s.free + 1 }
  let gone := fun (p : AMsg × Nat) => p.1.giver == some q && homeOf s p.1.va == pkg && Config.raceBytes s.free p.2
  let lost := s.amsgs.zipIdx.filter gone
  let s := { s with amsgs := (s.amsgs.zipIdx.filter (fun p => !gone p)).map (·.1) }
  lost.foldl (fun s p => match p.1.word with
    | .giveBack _ op => giveDone s op
    | _ => s) s

end Sys2Proof.Machine
end

