-- ==== Sys2Proof/Machine/Fetch.lean ====
section
/-!
DEFINITION. Fetching a clause (R86 to R88, R100 to R105, R110, R212): words through the instruction cache, the checks at the
header, and the start of the clause.
-/

namespace Sys2Proof.Machine

/-! ### Words -/

/-- The quarter of a group's slot. -/
def Group.quarter (g : Group) : Nat := g.slot / 64

def State.quarter (s : State) (core q : Nat) : Quarter := (s.core core).quarters.getD q {}
def State.putQuarter (s : State) (core q : Nat) (x : Quarter) : State :=
  s.putCore core { (s.core core) with quarters := (s.core core).quarters.put q x }

/-- What a fetch comes to: words, a fault at the header, or a hold. -/
inductive FetchRes (α : Type) where
  | ok (a : α)
  | trap (cause : Nat) (addr : Dword)
  | hold (x : Xl)
  deriving DecidableEq, Repr

/-- The words of a line's bytes. -/
def lineWords (d : BitVec 1024) : List Word := (List.range 32).map (fun i => d.extractLsb' (32 * i) 32)

/-- A line that has been fetched for the group's next clause (R87, R213). -/
def Group.fetched (g : Group) (line : Nat) : Option (List Word) := if g.ahead.pc = g.pc then g.ahead.lines.get? line else none

/-- The bytes of the page of a control address: those of the leaf that maps it, 64 KiB where none does (R474). -/
def pageSpan (s : State) (a : Dword) : Nat :=
  match (walk s (transDie a) 0 false a).2 with
  | .leaf e => 2 ^ tierShift e.tier
  | _ => 65536

/-- The first byte of the page of an address. -/
def pageBase (span : Nat) (a : Dword) : Dword := BitVec.ofNat 64 (a.toNat / span * span)

/-- A fetch fault: a page without X is named by its first byte (R86), another fault by the address. -/
def fetchFault {α : Type} (c span : Nat) (a : Dword) : FetchRes α := .trap c (if c = causeAccess then pageBase span a else a)

/-- A line is kept: a quarter's instruction cache holds 256 lines, and a full one gives up another (R212). -/
def Quarter.keepLine (x : Quarter) (free line : Nat) (l : ILine) : Quarter :=
  let old := if x.icache.length < 256 then x.icache else x.icache.eraseIdx (Config.icacheVictim free line % 256)
  { x with icache := old.put line l }

/-- The line of an instruction address: one fetched ahead, one of the instruction cache, or one fetched now; lines of READ_ONLY
pages are kept (R212). -/
def fetchLine (s : State) (gk : Nat) (a : Dword) : State × FetchRes (List Word) :=
  let g := s.grp gk
  let q := g.quarter
  let r := { g.req 7 a with read := false, fetch := true }
  let line := a.toNat / 128
  if spaceOf a ≠ .control then (s, .trap causeAccess a)
  else if s.domain ≤ vaPkg a then (s, .trap causeAccess a)
  else
    match g.fetched line, (s.quarter g.core q).icache.get? line with
    | some ws, _ => (s, .ok ws)
    | none, some l =>
      match leafCheck s (l.phys / 2 ^ 33) (l.phys * 128 % 2 ^ 40) l.leaf r with
      | some c => (s, fetchFault c l.span a)
      | none => (s, .ok l.words)
    | none, none =>
      if g.deny.contains (a.toNat / 65536) then (s, .trap causeAccess a)
      else
        match xlate s r with
        | (s, .cause c) => (s, fetchFault c (pageSpan s a) a)
        | (s, .ok pa e) =>
          let phys := pa / 128
          if (s.home phys).poisoned then (s, .trap causePoison a)
          else
            let s := pocLine s phys false
            let words := lineWords (memLine s phys e.word)
            if entClass e.word = classReadOnly then
              (s.putQuarter g.core q ((s.quarter g.core q).keepLine s.free line
                { leaf := e.word, span := 2 ^ tierShift e.tier, phys := phys, words := words }), .ok words)
            else (s, .ok words)
        | (s, x) => (s, .hold x)

/-- One instruction word. -/
def fetchWord (s : State) (gk : Nat) (a : Dword) : State × FetchRes Word :=
  match fetchLine s gk a with
  | (s, .ok ws) => (s, .ok ((ws[a.toNat % 128 / 4]?).getD 0))
  | (s, .trap c x) => (s, .trap c x)
  | (s, .hold x) => (s, .hold x)

/-- n consecutive words. -/
def fetchWords (gk : Nat) : Nat → Dword → State → State × FetchRes (List Word)
  | 0, _, s => (s, .ok [])
  | n + 1, a, s =>
    match fetchWord s gk a with
    | (s, .ok w) =>
      match fetchWords gk n (a + 4) s with
      | (s, .ok ws) => (s, .ok (w :: ws))
      | x => x
    | (s, .trap c x) => (s, .trap c x)
    | (s, .hold x) => (s, .hold x)

/-- The words of one instruction, by its LEN (R85). -/
def fetchInstr (gk : Nat) (a : Dword) (s : State) : State × FetchRes (List Word) :=
  match fetchWord s gk a with
  | (s, .ok w) => fetchWords gk (lenWords (w.extractLsb' 30 2).toNat) a s
  | (s, .trap c x) => (s, .trap c x)
  | (s, .hold x) => (s, .hold x)

/-! ### What the words of a clause fix (R102, R103, R110) -/

/-- OP, and SUB of an extended form or M of a base form. -/
def opOf (ws : List Word) : Nat := ((ws.headD 0).extractLsb' 23 7).toNat
def extForm (ws : List Word) : Bool := (ws.headD 0).getLsbD 31
def subOf (ws : List Word) : Nat :=
  if extForm ws then ((ws.getD 1 0).extractLsb' 4 7).toNat else ((ws.headD 0).extractLsb' 0 2).toNat

/-- The long-latency opcodes of R115. -/
def opLL (ws : List Word) : Bool :=
  let op := opOf ws
  [0x1A, 0x36, 0x4C, 0x50, 0x52, 0x54, 0x55, 0x56, 0x57, 0x6F, 0x70, 0x71, 0x73, 0x74, 0x76, 0x79, 0x7B, 0x7D, 0x7E].contains op ||
  (decide (0x42 ≤ op) && decide (op ≤ 0x4A)) || (decide (0x60 ≤ op) && decide (op ≤ 0x66)) ||
  (op == 0x6E && extForm ws && decide (64 ≤ subOf ws))

/-- A control transfer, or BAR.WAIT: the last instruction of its clause (R102). -/
def opLast (ws : List Word) : Bool :=
  [1, 2, 3, 4, 5, 0x0A, 0x0B, 0x0C].contains (opOf ws) || (opOf ws == 0x5A && extForm ws && subOf ws == 3)

/-- The instruction has a lane, uniform or lane-predicate register result, which enters the operand window (R97, R109, R110, R217,
log 18). -/
def opResult (ws : List Word) : Bool :=
  let op := opOf ws
  let sub := subOf ws
  [0x03, 0x08, 0x10, 0x11, 0x13, 0x15, 0x16, 0x17, 0x18, 0x19, 0x20, 0x21, 0x22, 0x23, 0x24, 0x25, 0x26, 0x27, 0x28, 0x29, 0x2A, 0x2B,
    0x2C, 0x2E, 0x30, 0x31, 0x32, 0x33, 0x34, 0x35, 0x37, 0x38, 0x39, 0x3A, 0x41, 0x67, 0x6B, 0x6D, 0x78, 0x7C].contains op ||
  (op == 0x06 && (sub == 1 || sub == 2)) || (op == 0x07 && (sub == 2 || sub == 3)) || (op == 0x0D && decide (sub < 2)) ||
  (op == 0x0E && sub == 2) || (op == 0x12 && decide (sub < 4)) || (op == 0x2D && sub == 2) ||
  (op == 0x7A && sub == 1)

/-- TMASK marks an instruction that may not be transient, or one beyond N (R110). -/
def tmaskBad (tmask : Nat) (body : List Item) : Bool :=
  decide (2 ^ body.length ≤ tmask) ||
  body.zipIdx.any (fun p => tmask.testBit p.2 && (p.1.ll || !opResult p.1.words))

/-- The clause is broken (R102). -/
def clauseBroken (body : List Item) : Bool :=
  body.any (fun i => opOf i.words == 0) ||
  (body.take (body.length - 1)).any (fun i => opLast i.words) ||
  decide (2 < (body.filter (·.ll)).length)

/-- The instructions after a header (R87). -/
def fetchBody (gk : Nat) : Nat → Dword → State → State × FetchRes (List Item × Dword)
  | 0, a, s => (s, .ok ([], a))
  | n + 1, a, s =>
    match fetchInstr gk a s with
    | (s, .trap c x) => (s, .trap c x)
    | (s, .hold x) => (s, .hold x)
    | (s, .ok ws) =>
      let next := a + BitVec.ofNat 64 (4 * ws.length)
      match fetchBody gk n next s with
      | (s, .ok (items, e)) => (s, .ok ({ addr := a, words := ws, ll := opLL ws } :: items, e))
      | x => x

/-- A fetch that does not come back: the group traps at the header, or is held on the fault (R87, R489). -/
def fetchStop (s : State) (gk : Nat) (r : FetchRes Unit) : State :=
  let g := s.grp gk
  match r with
  | .ok _ => s
  | .trap c a => { s with groups := s.groups.put gk ({ g with deny := [] }.trapEm c 0 a) }
  | .hold (.fault d fva) =>
    let s := holdFault s d { g.req 7 fva with read := false, fetch := true } (.fetch gk)
    { s with groups := s.groups.put gk { s.grp gk with wait := .held d } }
  | .hold (.refuse h) =>
    (s.refuse (.fetch gk) h).putGrp gk { g with wait := .held 0 }
  | .hold _ => s

/-- The flags of a WAIT mask are clear (R105). -/
def Group.flagsClear (g : Group) (wait : Nat) : Bool := (List.range 12).all (fun i => !wait.testBit i || g.flag i == 0)

/-- A group at a clause boundary starts a clause whose header has been read (R87, R101, R105, R224): a pending trap is delivered
first; a flag that is not clear keeps the group where it is; then fetch fault, header ILLEGAL_OP and CLAUSE_FAULT, in this
order. `len` is the header's words, `bad` an encoding that the header may not have. -/
def startClause (s : State) (gk : Nat) (wait seta setb n tmask len : Nat) (bad : Bool) : State :=
  let g := s.grp gk
  match g.run, g.clause with
  | .running, none =>
    if !g.trap.h && !g.trap.pending.isEmpty then { s with groups := s.groups.put gk g.deliver }
    else if !g.flagsClear wait then s
    else
      match fetchBody gk (n + 1) (g.pc + BitVec.ofNat 64 (4 * len)) s with
      | (s, .trap c a) => fetchStop s gk (.trap c a)
      | (s, .hold x) => fetchStop s gk (.hold x)
      | (s, .ok (body, after)) =>
        let g := { s.grp gk with deny := [], ahead := {} }
        let g' :=
          if bad || tmaskBad tmask body then g.trapEm causeIllegal
          else if clauseBroken body then g.trapEm causeClause
          else
            { g with
              clause := some { head := g.pc, seta := seta, setb := setb, tmask := tmask, body := body, idx := 0, after := after }
              pc := (body.headD { addr := g.pc, words := [] }).addr }
        { s with groups := s.groups.put gk g' }
  | .running, some _ => { s with groups := s.groups.put gk (g.trapEm causeClause) }
  | _, _ => s

/-! ### Fetching ahead (R87, R213, R215) -/

/-- The first place of n words from a on whose line has not been fetched. -/
def Group.missWords (g : Group) : Nat → Dword → Option Dword
  | 0, _ => none
  | n + 1, a => if (g.fetched (a.toNat / 128)).isNone then some a else g.missWords n (a + 4)

/-- A word of a line that has been fetched. -/
def Group.fetchedWord (g : Group) (a : Dword) : Option Word := (g.fetched (a.toNat / 128)).map (fun ws => (ws[a.toNat % 128 / 4]?).getD 0)

/-- The same for n instructions. -/
def Group.missInstrs (g : Group) : Nat → Dword → Option Dword
  | 0, _ => none
  | n + 1, a =>
    match g.fetchedWord a with
    | none => some a
    | some w =>
      let len := lenWords (w.extractLsb' 30 2).toNat
      match g.missWords len a with
      | some x => some x
      | none => g.missInstrs n (a + BitVec.ofNat 64 (4 * len))

/-- The place of the group's next clause whose line is to be fetched next; none: the whole clause has been fetched (R87). -/
def Group.missing (g : Group) : Option Dword :=
  match g.fetchedWord g.pc with
  | none => some g.pc
  | some w => g.missInstrs (if opOf [w] = 0 then (headerOf w).n.toNat + 2 else 1) g.pc

/-- The group stands at a clause boundary and its next clause may be fetched: a held trap comes first (R224). -/
def Group.fetches (s : State) (g : Group) : Bool :=
  g.run == .running && g.clause.isNone && g.wait == .none && !g.region.due && !g.trapDue && !(s.cohort g.cohort).stop

/-- One line of a group's next clause is fetched. DESIGN CHOICE: lines come one at a time, the header's first (log 83). -/
def fetchAhead (s : State) (gk : Nat) : State :=
  let g := s.grp gk
  if !g.fetches s then s
  else
    match g.missing with
    | none => s
    | some a =>
      match fetchLine s gk a with
      | (s, .ok ws) =>
        let g := s.grp gk
        let lines := if g.ahead.pc = g.pc then g.ahead.lines else []
        s.putGrp gk { g with ahead := { pc := g.pc, lines := lines.put (a.toNat / 128) ws } }
      | (s, .trap _ _) => s
      | (s, .hold x) => fetchStop s gk (.hold x)

/-- A clause header as the current group's next instruction. -/
def clauseStart (wait seta setb n tmask len : Nat) (bad : Bool) (s : State) : Out :=
  match s.groups.get? s.cur with
  | none => .fault .noGroup
  | some g => if g.wait.isHeld || g.region.due then .next s else .next (startClause s s.cur wait seta setb n tmask len bad)

end Sys2Proof.Machine
end

