-- ==== Sys2Proof/Machine/Front.lean ====
section
/-!
DEFINITION. The front engine's instructions: clause headers (R88), control transfers and traps (R230 to R232), masks, votes,
special registers, roles, regions and the owl line (R209, R233 to R237, R533).
-/

namespace Sys2Proof.Machine

/-! ### Control transfers (R86, R91, R230, R231) -/

/-- A jump to a target on a 4-byte boundary; another raises ALIGN (R86). -/
def jumpTo (s : State) (g : Group) (t : Dword) : Res Eff :=
  if t.toNat % 4 ≠ 0 then trapOf g causeAlign 0 t else okJump s g t

/-- The link register (R231). -/
def linkReg : Nat := 510

/-- A call: the alignment, then the upper half of the target, then the link (R231). -/
def callTo (s : State) (g : Group) (t : Dword) : Res Eff :=
  let link := match g.clause with
    | some c => c.after
    | none => g.pc
  if t.toNat % 4 ≠ 0 then trapOf g causeAlign 0 t
  else if hiWord link ≠ hiWord t then trapOf g causeAccess 0 t
  else .ok { s := s, g := g, outs := [(sKey linkReg, loWord link)], jump := some t }

def Checks.calls (ck : Checks) : Checks := { ck with writes := [.s linkReg] }
def Checks.returns (ck : Checks) : Checks := { ck with reads := [.s linkReg] }

/-- The target of the E form: the literal, or PC + 4 × sext(X) (R230). -/
def eTarget (g : Group) (o : EOps) : Dword :=
  match o.lit with
  | some w => w
  | none => pcOf g + o.x.signExtend 64 * 4

def bra (ck : Checks) (sh : Shape) (o : EOps) (s : State) : Out := issueC ck sh o (fun s g => jumpTo s g (eTarget g o)) s
def call (ck : Checks) (sh : Shape) (o : EOps) (s : State) : Out := issueC ck.calls sh o (fun s g => callTo s g (eTarget g o)) s

/-- The shape of the BJ form: no operand field (R91). -/
def shBj : Shape := shU .zero .zero .zero .zero .none

/-- The condition of CND (R91). -/
def cndHolds (g : Group) (cnd : BitVec 4) : Bool :=
  if cnd = 0 then true else if cnd.toNat < 8 then g.rdk cnd.toNat else !g.rdk (cnd.toNat - 8)

def bjTarget (g : Group) (off : BitVec 19) (lit : Option (BitVec 64)) : Dword :=
  match lit with
  | some w => w
  | none => pcOf g + off.signExtend 64 * 4

/-- The BJ form of BRA and CALL: a false condition has no effect (R91). A reserved CND, or an OFF beside a literal, is no
instruction. -/
def bj (to_ : State → Group → Dword → Res Eff) (ck : Checks) (cnd : BitVec 4) (off : BitVec 19) (lit : Option (BitVec 64))
    (s : State) : Out :=
  issueC { ck with illegal := fun _ _ => cnd == 8 || (lit.isSome && off != 0) } { shBj with qs := .none } {} (fun s g =>
    if cndHolds g cnd then to_ s g (bjTarget g off lit) else okOuts s g []) s

def brx (ck : Checks) (sh : Shape) (o : EOps) (s : State) : Out := issueC ck sh o (fun s g => jumpTo s g (g.s2 s.free o.a.toNat)) s

def brxIdx (ck : Checks) (sh : Shape) (o : EOps) (s : State) : Out :=
  issueC ck sh o (fun s g => jumpTo s g (g.s2 s.free o.a.toNat + (g.uB32 s.free o).setWidth 64 * 4)) s

def ret (ck : Checks) (sh : Shape) (o : EOps) (s : State) : Out :=
  issueC ck.returns sh o (fun s g => jumpTo s g (hiWord (pcOf g) ++ g.s1 s.free linkReg)) s

/-- YIELD: the slot is yielding until its next start (R216, R232). -/
def yieldG (ck : Checks) (sh : Shape) (o : EOps) (s : State) : Out :=
  issueC ck sh o (fun s g =>
    let q := g.quarter
    let x := s.quarter g.core q
    .ok { s := s.putQuarter g.core q { x with yielding := x.yielding.put (g.slot % 64) true }, g := g }) s

def trapI (ck : Checks) (sh : Shape) (o : EOps) (s : State) : Out :=
  issueC ck sh o (fun _ g => trapOf g causeSoftware (xField o 0 8)) s

/-- TRET (R223): outside a handler it is no instruction. -/
def tretI (ck : Checks) (sh : Shape) (o : EOps) (s : State) : Out :=
  issueC ck sh o (fun s g =>
    if g.trap.h then .ok { s := s, g := (g.pushWindow [] false).tret, done := true } else trapOf g causeIllegal) s

/-! ### MASK and VOTE (R233, R234, R530) -/

/-- %em is written: a protected launch has eight lanes (R529). -/
def Group.putEm (g : Group) (v : Half) : Group := { g with em := if g.info.prot then v &&& 0xFF else v }

/-- Writes the uniform predicate that X names, if it names one. -/
def Group.putKx (g : Group) (o : EOps) (b : Bool) : Group := g.putK (xField o 0 3) b

/-- Bits of lane predicate A, one a visible lane, negated by HINT[0] (R233, R234). -/
def qVote (g : Group) (free : Nat) (o : EOps) : Half :=
  let q := g.fold (g.rdq free o.a.toNat)
  if o.hint.getLsbD 0 then ~~~q else q

/-- The visible lanes of %em whose two physical lanes have different bits. -/
def qDiffer (g : Group) (free : Nat) (o : EOps) : Half :=
  let q := g.rdq free o.a.toNat
  g.mismatch g.em (fun v => q.getLsbD (2 * v) != q.getLsbD (2 * v + 1))

/-- An instruction that reads lane bits into the group: shadow lanes are compared first (R530). -/
def voteI (f : State → Group → Res Eff) (differ : State → Group → Half) (ck : Checks) (sh : Shape) (o : EOps) (s : State) : Out :=
  issueC ck sh o (fun s g =>
    let d := differ s g
    if d ≠ 0 then shadowHit s g d (fun _ => 0) else f s g) s

def voteQ (o : EOps) (f : State → Group → Half → Res Eff) (ck : Checks) (sh : Shape) (s : State) : Out :=
  voteI (fun s g => f s g (qVote g s.free o)) (fun s g => qDiffer g s.free o) ck sh o s

def maskSet (ck : Checks) (sh : Shape) (o : EOps) (s : State) : Out :=
  issueC ck sh o (fun s g => okOuts s (g.putEm ((g.uA32 s.free o).setWidth 16)) []) s
def maskGet (ck : Checks) (sh : Shape) (o : EOps) (s : State) : Out :=
  issueC ck sh o (fun s g => okOuts s g [(sKey o.d.toNat, g.em.setWidth 32)]) s
def maskIf (ck : Checks) (sh : Shape) (o : EOps) (s : State) : Out :=
  voteQ o (fun s g c =>
    okOuts s ((g.putEm (g.em &&& c)).putKx o (g.em &&& c != 0)) [(sKey o.d.toNat, (g.em &&& ~~~c) ++ g.em)]) ck sh s
def maskElse (ck : Checks) (sh : Shape) (o : EOps) (s : State) : Out :=
  issueC ck sh o (fun s g =>
    let g' := g.putEm ((g.s1 s.free o.a.toNat).extractLsb' 16 16)
    okOuts s (g'.putKx o (g'.em != 0)) []) s
def maskEnd (ck : Checks) (sh : Shape) (o : EOps) (s : State) : Out :=
  issueC ck sh o (fun s g => okOuts s (g.putEm ((g.s1 s.free o.a.toNat).setWidth 16)) []) s

def voteAny (ck : Checks) (sh : Shape) (o : EOps) (s : State) : Out :=
  voteQ o (fun s g q => okOuts s (g.putK o.d.toNat (g.em &&& q != 0)) []) ck sh s
def voteAll (ck : Checks) (sh : Shape) (o : EOps) (s : State) : Out :=
  voteQ o (fun s g q => okOuts s (g.putK o.d.toNat (g.em &&& ~~~q == 0)) []) ck sh s
def voteBal (ck : Checks) (sh : Shape) (o : EOps) (s : State) : Out :=
  voteQ o (fun s g q => okOuts s g [(sKey o.d.toNat, (g.em &&& q).setWidth 32)]) ck sh s
def voteCnt (ck : Checks) (sh : Shape) (o : EOps) (s : State) : Out :=
  voteQ o (fun s g q => okOuts s g [(sKey o.d.toNat, popc ((g.em &&& q).setWidth 32))]) ck sh s

/-- VOTE.UNI: A is equal in every lane of %em. -/
def voteUni (ck : Checks) (sh : Shape) (o : EOps) (s : State) : Out :=
  voteI (fun s g =>
    let vals := (lanesOf g.emPhys).map (fun l => g.v1 s.free o.a.toNat l)
    okOuts s (g.putK o.d.toNat (vals.all (fun w => w == vals.headD 0))) [])
    (fun s g => g.mismatch g.em (fun v => g.v1 s.free o.a.toNat (2 * v) != g.v1 s.free o.a.toNat (2 * v + 1))) ck sh o s

/-! ### Special registers (R112, R113, R235, R236) -/

/-- The value of a special register in lane l. -/
def sysValue (s : State) (g : Group) (r : SpecReg) (l : Nat) : Dword :=
  let n := fun (k : Nat) => BitVec.ofNat 64 k
  match r with
  | .laneid => n (g.vis l)
  | .grp => n g.num
  | .cohort => n g.cohortNum
  | .lvl k => if k = 0 then n (g.vis l) else (g.coords.getD k.toNat 0).setWidth 64
  | .core => n (g.core % 96)
  | .die => n (dieOfCore g.core % 4)
  | .pkg => n (pkgOfCore g.core)
  | .prec => (g.precOf l).setWidth 64
  | .vpstat => (g.vpstatOf l).setWidth 64
  | .tpc => g.trap.tpc
  | .tcause => g.trap.tcause.setWidth 64
  | .taddr => g.trap.taddr
  | .tmask => g.trap.tmask.setWidth 64
  | .tba => g.trap.tba
  | .trapen => g.trap.trapen.setWidth 64
  | .err => g.trap.err.setWidth 64
  | .cyc => (s.core g.core).cyc

def sysReg (o : EOps) : SpecReg := (SpecReg.ofNum (xField o 0 12)).getD .laneid

/-- SYSR: a lane register in the lanes of %em, a uniform register, or a pair (R235). -/
def sysr (ck : Checks) (sh : Shape) (o : EOps) (s : State) : Out :=
  issueC ck sh o (fun s g =>
    let r := sysReg o
    okOuts s g
      (if r.perLane then (lanesOf g.emPhys).map (fun l => (vKey o.d.toNat l, loWord (sysValue s g r l)))
       else if r.wide then pairOuts (sKey o.d.toNat) (sKey (o.d.toNat + 1)) (sysValue s g r 0)
       else [(sKey o.d.toNat, loWord (sysValue s g r 0))])) s

/-- The writable fields of %trapen (R226). -/
def trapenMask : Word := 0x1F0F#32

/-- SYSW (R113, R236). -/
def sysw (ck : Checks) (sh : Shape) (o : EOps) (s : State) : Out :=
  issueC { ck with illegal := fun _ _ => false } { sh with priv := (sysReg o).privileged } o (fun s g =>
    let r := sysReg o
    let lanes := lanesOf g.emPhys
    let w := g.uA32 s.free o
    let d := g.uA64 s.free o
    match r with
    | .prec => okOuts s (lanes.foldl (fun g' l => g'.putPrec l (g.la32 s.free o l)) g) []
    | .vpstat =>
      okOuts s (lanes.foldl (fun g' l => { g' with vpstat := g'.vpstat.store 0 l (g'.vpstatOf l &&& ~~~(g.la32 s.free o l)) }) g) []
    | .tpc => if d.toNat % 4 ≠ 0 then trapOf g causeAlign 0 d else okOuts s { g with trap := { g.trap with tpc := d } } []
    | .tba => if d.toNat % 4 ≠ 0 then trapOf g causeAlign 0 d else okOuts s { g with trap := { g.trap with tba := d } } []
    | .trapen => okOuts s { g with trap := { g.trap with trapen := w &&& trapenMask } } []
    | .err => okOuts s { g with trap := { g.trap with err := g.trap.err &&& ~~~w } } []
    | _ => trapOf g causeIllegal) s

/-! ### Roles (R77 to R79, R237) -/

/-- The declared count of a class. -/
def roleCount (g : Group) (cls : Nat) : Nat :=
  match cls with
  | 0 => g.info.macros
  | 1 => g.info.neigh
  | 2 => g.info.chan
  | _ => g.info.memch

/-- The physical unit of a role (R78, R237). -/
def roleUnit (s : State) (g : Group) (cls i : Nat) : Nat :=
  let c := s.cohort g.cohort
  match cls with
  | 0 => c.macros.getD i 0
  | 1 => c.neighCores.getD i 0
  | 2 => c.chans.getD i 0
  | _ => c.memch.getD i 0

def roleCnt (ck : Checks) (sh : Shape) (o : EOps) (s : State) : Out :=
  issueC ck sh o (fun s g => okOuts s g [(sKey o.d.toNat, BitVec.ofNat 32 (roleCount g (xField o 0 2)))]) s

def rolePhys (ck : Checks) (sh : Shape) (o : EOps) (s : State) : Out :=
  issueC ck sh o (fun s g =>
    let i := (g.uB32 s.free o).toNat
    if roleCount g (xField o 0 2) ≤ i then trapOf g causeRoleBound
    else okOuts s g [(sKey o.d.toNat, BitVec.ofNat 32 (roleUnit s g (xField o 0 2) i))]) s

def roleTest (ck : Checks) (sh : Shape) (o : EOps) (s : State) : Out :=
  issueC ck sh o (fun s g => okOuts s (g.putK o.d.toNat (decide ((g.uB32 s.free o).toNat < roleCount g (xField o 0 2)))) []) s

/-! ### Regions (R519 to R522, R533) -/

/-- The last instruction of its clause. -/
def isLast (g : Group) : Bool :=
  match g.clause with
  | some c => decide (c.idx + 1 = c.body.length)
  | none => true

/-- REGN.B (R520). -/
def regnB (ck : Checks) (sh : Shape) (o : EOps) (s : State) : Out :=
  issueC { ck with illegal := fun _ g => g.acts sh o s.free && !isLast g } sh o (fun s g =>
    let after := match g.clause with
      | some c => c.after
      | none => g.pc
    okOuts s { g with region := { opened := true, rb := 0, entry := after, em := g.em, k := g.k, since := g.seq + 1 } } []) s

/-- REGN.E (R521, R522). -/
def regnE (ck : Checks) (sh : Shape) (o : EOps) (s : State) : Out :=
  issueC { ck with closes := true } sh o (fun s g => okOuts s g []) s

def regnStat (ck : Checks) (sh : Shape) (o : EOps) (s : State) : Out :=
  issueC ck sh o (fun s g =>
    okOuts s g [(sKey o.d.toNat, BitVec.ofNat 32 (g.region.rb * 2 + g.region.opened.toNat))]) s

/-! ### SNAP (R209) -/

def snapI (gang : Bool) (ck : Checks) (sh : Shape) (o : EOps) (s : State) : Out :=
  issueC ck sh o (fun s g =>
    let pkg := pkgOfCore g.core
    let s := if (s.snap pkg).snapen then owlTrigger s pkg 1 (BitVec.ofNat 16 (xField o 0 16)) pkg gang else s
    okOuts s g []) s

/-- Short clause header: the clause starts when every flag in its WAIT mask is clear, and its SETA and SETB flags are assigned (R88). -/
def execClause (h : Header) (s : State) : Out :=
  clauseStart h.wait.toNat h.seta.toNat h.setb.toNat h.n.toNat 0 1 false s

/-- Clause header with a literal that carries TMASK, marking some instructions transient (R88). -/
def execClauseTmask (h : Header) (lit : BitVec 64) (s : State) : Out :=
  clauseStart h.wait.toNat h.seta.toNat h.setb.toNat h.n.toNat (lit.toNat % 256) 3 (decide (256 ≤ lit.toNat)) s

/-- Extended clause header, with TMASK in word 1 and the same effect as the literal header (R88). -/
def execClauseExtended (h : Header) (w1 w2 : Word) (s : State) : Out :=
  clauseStart h.wait.toNat h.seta.toNat h.setb.toNat h.n.toNat (w1.toNat % 256) 3 (decide (256 ≤ w1.toNat) || w2 != 0) s

/-- E-form branch to PC plus 4 times the offset in X, or to a literal target (R230). -/
def execBra (o : EOps) (s : State) : Out :=
  bra {} shBra o s

/-- Branch to PC plus 4 times OFF when condition CND holds (R91). -/
def execBraBj (cnd : BitVec 4) (off : BitVec 19) (s : State) : Out :=
  bj jumpTo {} cnd off none s

/-- Branch to the absolute 64-bit literal target when condition CND holds (R91). -/
def execBraBjLiteral (cnd : BitVec 4) (off : BitVec 19) (lit : BitVec 64) (s : State) : Out :=
  bj jumpTo {} cnd off (some lit) s

/-- E-form call, writing s510, with ALIGN or ACCESS_VIOLATION when the target is misaligned or lies in another 4 GiB half (R231). -/
def execCall (o : EOps) (s : State) : Out :=
  call {} shBra o s

/-- Call with a word offset: writes the return address to s510 and transfers control (R231). -/
def execCallBj (cnd : BitVec 4) (off : BitVec 19) (s : State) : Out :=
  bj callTo (Checks.calls {}) cnd off none s

/-- Call to an absolute literal target, writing s510 (R231). -/
def execCallBjLiteral (cnd : BitVec 4) (off : BitVec 19) (lit : BitVec 64) (s : State) : Out :=
  bj callTo (Checks.calls {}) cnd off (some lit) s

/-- Indirect branch to the address held in an s pair (R230). -/
def execBrx (o : EOps) (s : State) : Out :=
  brx {} shBrx o s

/-- Indirect branch to an s pair plus 4 times an index (R230). -/
def execBrxIdx (o : EOps) (s : State) : Out :=
  brxIdx {} shBrxIdx o s

/-- E-form return to (PC[63:32], s510) (R230). -/
def execRet (o : EOps) (s : State) : Out :=
  ret {} shRet o s

/-- Return to (PC[63:32], s510) (R230). -/
def execRetB3 (o : B3Ops) (s : State) : Out :=
  ret (b3Checks 0x04 shRet o) shRet (b3AsE 0x04 shRet o) s

/-- E-form YIELD (R232). -/
def execYield (o : EOps) (s : State) : Out :=
  yieldG {} shRet o s

/-- Ends the clause and marks the group as yielding (R232). -/
def execYieldB3 (o : B3Ops) (s : State) : Out :=
  yieldG (b3Checks 0x0C shRet o) shRet (b3AsE 0x0C shRet o) s

/-- Raises SOFTWARE with the code from X in the subcode (R232). -/
def execTrap (o : EOps) (s : State) : Out :=
  trapI {} shTrap o s

/-- E-form TRET (R223). -/
def execTret (o : EOps) (s : State) : Out :=
  tretI {} shRet o s

/-- Ends the handler: delivers a pending cause, or resumes the saved clause, or jumps to %tpc (R223). -/
def execTretB3 (o : B3Ops) (s : State) : Out :=
  tretI (b3Checks 0x0B shRet o) shRet (b3AsE 0x0B shRet o) s

/-- Writes %em from an s register or a literal (R233). -/
def execMaskSet (o : EOps) (s : State) : Out :=
  maskSet {} shMaskSet o s

/-- Reads %em into an s register (R233). -/
def execMaskGet (o : EOps) (s : State) : Out :=
  maskGet {} shMaskGet o s

/-- Narrows %em to the lanes where a predicate holds, saves both halves and may set a k predicate (R233). -/
def execMaskIf (o : EOps) (s : State) : Out :=
  maskIf {} shMaskIf o s

/-- Sets %em to the saved else lanes and may set a k predicate (R233). -/
def execMaskElse (o : EOps) (s : State) : Out :=
  maskElse {} shMaskElse o s

/-- Restores %em from the saved value (R233). -/
def execMaskEnd (o : EOps) (s : State) : Out :=
  maskEnd {} shMaskEnd o s

/-- Sets a k predicate to the OR of a lane predicate over the active lanes (R234). -/
def execVoteAny (o : EOps) (s : State) : Out :=
  voteAny {} shVoteAny o s

/-- Sets a k predicate to the AND of a lane predicate over the active lanes (R234). -/
def execVoteAll (o : EOps) (s : State) : Out :=
  voteAll {} shVoteAny o s

/-- Writes the ballot of a lane predicate to an s register (R234). -/
def execVoteBal (o : EOps) (s : State) : Out :=
  voteBal {} shVoteBal o s

/-- Writes the count of lanes in the ballot to an s register (R234). -/
def execVoteCnt (o : EOps) (s : State) : Out :=
  voteCnt {} shVoteBal o s

/-- Sets a k predicate when a lane register is equal in every active lane (R234). -/
def execVoteUni (o : EOps) (s : State) : Out :=
  voteUni {} shVoteUni o s

/-- Reads a special register into a lane or uniform register (R235). -/
def execSysr (o : EOps) (s : State) : Out :=
  sysr {} (shSysr o) o s

/-- Writes a special register, with W1C clearing for %err and an ALIGN check for %tpc and %tba (R236). -/
def execSysw (o : EOps) (s : State) : Out :=
  sysw {} (shSysw o) o s

/-- Returns the declared count of a role class (R237). -/
def execRoleCnt (o : EOps) (s : State) : Out :=
  roleCnt {} shRoleCnt o s

/-- Returns the physical unit bound to a role index (R237). -/
def execRolePhys (o : EOps) (s : State) : Out :=
  rolePhys {} shRolePhys o s

/-- Sets a k predicate when a role index is below the class count (R237). -/
def execRoleTest (o : EOps) (s : State) : Out :=
  roleTest {} shRoleTest o s

/-- Opens an idempotent region, saving the entry PC, %em and k1-k7 (R520). -/
def execRegnB (o : EOps) (s : State) : Out :=
  regnB {} shRet o s

/-- Waits for the region's long-latency instructions, then closes the region (R533). -/
def execRegnE (o : EOps) (s : State) : Out :=
  regnE {} shRet o s

/-- Reads RB and OPEN into an s register (R533). -/
def execRegnStat (o : EOps) (s : State) : Out :=
  regnStat {} shMaskGet o s

/-- Pulls the owl line with a tag when SNAPEN is 1 (R209). -/
def execSnap (o : EOps) (s : State) : Out :=
  snapI false {} shSnap o s

/-- Pulls the owl line and forwards the trigger to the gang slice (R209). -/
def execSnapGang (o : EOps) (s : State) : Out :=
  snapI true {} shSnap o s

end Sys2Proof.Machine
end

