-- ==== Sys2Proof/Machine/Barrier.lean ====
section
/-!
DEFINITION. Barrier objects (R312, R313): their sixteen bytes, the operations on them, the landing of copied bytes, and the
waking of waiters. Groups, copies, the command processor and the engines share them.
-/

namespace Sys2Proof.Machine

/-- The fields of a barrier object (R312). -/
structure Bar where
  phase : Nat := 0
  expa : Nat := 0
  arr : Nat := 0
  err : Bool := false
  expb : Nat := 0
  landed : Nat := 0
  deriving DecidableEq, Repr

namespace Bar

def ofBytes (bs : List Byte) : Bar :=
  let n := bytesNat bs
  { phase := bits n 0 16, expa := bits n 16 16, arr := bits n 32 16, err := n.testBit 48, expb := bits n 64 32
    landed := bits n 96 32 }

def bytes (o : Bar) : List Byte :=
  natBytes 16 (o.phase + o.expa * 2 ^ 16 + o.arr * 2 ^ 32 + o.err.toNat * 2 ^ 48 + o.expb * 2 ^ 64 + o.landed * 2 ^ 96)

def init (e : Nat) : Bar := { expa := e }

/-- Passed (R313). -/
def passed (o : Bar) (p : Nat) : Bool :=
  let d := (o.phase + 65536 - p) % 65536
  decide (1 ≤ d) && decide (d ≤ 0x7FFF)

/-- Check (R313): the object, and whether its waiters wake. -/
def check (o : Bar) : Bar × Bool :=
  if o.arr = o.expa then
    if o.landed = o.expb then ({ o with phase := (o.phase + 1) % 65536, arr := 0, expb := 0, landed := 0 }, true)
    else if o.expb < o.landed then ({ o with err := true }, true)
    else (o, false)
  else (o, false)

/-- A field is out of range (R313). -/
def outOfRange (o : Bar) : Bool := o.expa == 0 || decide (o.expa < o.arr)

/-- The fields are checked before an operation acts: out of range sets ERR and wakes the waiters (R313). -/
def checked (o : Bar) : Bar × Bool := if o.outOfRange then ({ o with err := true }, true) else (o, false)

/-- The outcome of an operation: the object, whether waiters wake, and the subcode of BAR_ERROR. -/
structure Done where
  bar : Bar
  wake : Bool := false
  error : Option Nat := none
  deriving DecidableEq, Repr

/-- ARRIVE (R313). -/
def arrive (o : Bar) (n : Nat) : Done :=
  let x := o.checked
  if x.1.err then { bar := x.1, wake := x.2, error := some 4 }
  else if o.expa < o.arr + n then { bar := o, error := some 1 }
  else
    let c := { o with arr := o.arr + n }.check
    { bar := c.1, wake := c.2, error := if c.1.err then some 3 else none }

/-- EXPECT (R313). -/
def expect (o : Bar) (n : Nat) : Done :=
  let x := o.checked
  if x.1.err then { bar := x.1, wake := x.2, error := some 4 }
  else if 2 ^ 32 - 1 < o.expb + n then { bar := o, error := some 2 }
  else
    let c := { o with expb := o.expb + n }.check
    { bar := c.1, wake := c.2 }

/-- Land (R313). -/
def land (o : Bar) (n : Nat) : Done :=
  let x := o.checked
  if x.2 then { bar := x.1, wake := true }
  else
    let past := decide (2 ^ 32 - 1 < o.landed + n)
    let c := { o with landed := min (o.landed + n) (2 ^ 32 - 1), err := o.err || past }.check
    { bar := c.1, wake := c.2 }

end Bar

/-- What a group's BAR operation comes to: the object, the waking of its waiters, an error, a predicate, a block. -/
structure BarEnd where
  bar : Bar
  wake : Bool := false
  error : Option Nat := none
  k : Option (Nat × Bool) := none
  block : Option Wait := none

def Bar.Done.toEnd (d : Bar.Done) : BarEnd := { bar := d.bar, wake := d.wake, error := d.error }

/-- The waiters on an object are woken: their BAR.WAIT is tried again (R313, R315). -/
def wakeBar (s : State) (place : Nat × Nat) : State :=
  { s with groups := s.groups.map (fun e =>
    match e.2.wait with
    | .bar va _ _ => if bytePlace s e.2 0 va = place then (e.1, { e.2 with wait := .none }) else e
    | _ => e) }

/-- A group's BAR operation at its object's point of coherence (R46, R314). A translation fault holds the group, and a denial at
the MTLB, or by software, is reported in class 0 and ends the instruction without effect (log 17). -/
def barAccess (s : State) (va : Dword) (write : Bool) (op : State → Group → Bar → BarEnd) : Res Eff :=
  let gk := s.cur
  let g := s.grp gk
  let r := { g.req 2 va with write := write }
  let deny := fun (s : State) (c : Nat) =>
    let g := { s.grp gk with deny := [] }
    Res.ok { s := s, g := g.post { cause := c, addr := va, lanes := g.em, seq := g.seq } }
  if g.deny.contains (va.toNat / 65536) then deny s causeAccess
  else
    match laneRead s gk r 0 0 16 with
    | (s, .stop (.cause c)) => deny s c
    | (s, .stop (.fault d fva)) =>
      let s := holdFault s d { r with va := fva } (.group gk)
      .ok { s := s, g := { s.grp gk with wait := .held d }, done := true }
    | (s, .stop (.refuse h)) =>
      let s := s.refuse (.group gk) h
      .ok { s := s, g := { s.grp gk with wait := .held 0 }, done := true }
    | (_, .stop (.ok _ _)) => .hold .suspended
    | (s, .ok bs) =>
      let e := op s (s.grp gk) (Bar.ofBytes bs)
      let s := if !write && e.bar = Bar.ofBytes bs then s else (laneWrite s gk g.seq { r with write := true } 16 0 e.bar.bytes).1
      let s := if e.wake then wakeBar s (bytePlace s g 0 va) else s
      let g := s.grp gk
      match e.block with
      | some w => .ok { s := plRelease s g.core, g := { g with wait := w }, done := true }
      | none =>
        let g := match e.k with
          | some (n, b) => g.putK n b
          | none => g
        let g := match e.error with
          | some n => g.post { cause := causeBar, sub := n, addr := va, lanes := g.em, seq := g.seq }
          | none => g
        .ok { s := s, g := g }

end Sys2Proof.Machine
end

