-- ==== Sys2Proof/Machine/MemPort.lean ====
section
/-!
DEFINITION. The memory port's instructions (R296 to R321): loads, stores, atomics, reductions, locked accesses, fences, cache
maintenance, prefetch, the stash and barrier objects.
-/

namespace Sys2Proof

/-- Bytes and sign of a load size. -/
def LdSz.bytes : LdSz → Nat × Bool
  | .b32 => (4, false)
  | .b64 => (8, false)
  | .b128 => (16, false)
  | .u8 => (1, false)
  | .s8 => (1, true)
  | .u16 => (2, false)
  | .s16 => (2, true)

/-- Bytes of a store size (R300). -/
def StSz.bytes : StSz → Nat
  | .b32 => 4
  | .b64 => 8
  | .b128 => 16
  | .b8 => 1
  | .b16 => 2

/-- Bytes of an atomic size (R302). -/
def XSz.bytes : XSz → Nat
  | .s32 => 4
  | .s64 => 8

/-- Bytes of an atomic size (R302). -/
def ASz.bytes : ASz → Nat
  | .s32 => 4
  | .s64 => 8
  | .s128 => 16

end Sys2Proof

namespace Sys2Proof.Machine

/-! ### Loads and stores (R300, R301) -/

/-- Natural alignment to 8 bytes; 4 bytes for 128 bits (R300). -/
def alignOf (n : Nat) : Nat := if n = 16 then 4 else n

/-- The address of lane l: base + sext(OFF) (R297). -/
def laneVa (g : Group) (free : Nat) (o : EOps) (l : Nat) : Dword := g.a64 free o l + memOff o

/-- The addresses of a pair of lanes differ (R530). -/
def vaDiffer (g : Group) (free : Nat) (o : EOps) (v : Nat) : Bool := laneVa g free o (2 * v) != laneVa g free o (2 * v + 1)

/-- A release is in the qualifiers (R296). -/
def isRel (o : EOps) : Bool := decide (2 ≤ memOrd o)

/-- The scope of an ordering instruction: its own, or the default of R66. -/
def scopeOf (g : Group) (o : EOps) : Nat :=
  if memSce o then memScope o else if g.info.nlvl ≤ 2 then 0 else (g.info.levels.headD {}).scope

/-- A release at .dom reports a covered write that went to a lost package (R544). -/
def relDone (rel : Bool) (scope : Nat) (r : Res Eff) : Res Eff :=
  if rel && decide (scope = 6) then r.mapG Group.fenceErr else r

/-- A release comes after every .comm reduction of its group (R163), and their burrow entries. -/
def relAfter (rel : Bool) (scope : Nat) (s : State) (g : Group) (body : State → Group → Res Eff) : Res Eff :=
  if rel && !g.comm.isEmpty then
    let s := commAll (s.putG g) s.cur
    if !(s.grp s.cur).comm.isEmpty then heldWith s else relDone rel scope (body s (s.grp s.cur))
  else relDone rel scope (body s g)

/-- What a group is to publish at a scope is ready to be: its .comm reductions have been applied, its burrow entries have drained, and what
a release covers has come (R163, R319). -/
def relReady (scope : Nat) (s : State) (g : Group) (body : State → Group → Res Eff) : Res Eff :=
  let s := commAll (s.putG g) s.cur
  let g := s.grp s.cur
  if hasBurrow s s.cur || !g.comm.isEmpty || fenceWait s g { rel := true, scope := scope } then heldWith s else body s g

/-- A per-lane access: the shadow comparison of a protected launch comes before everything else (R530, R531). -/
def laneAccess (rd wr : Bool) (differ : Group → Nat → Nat → Bool) (ck : Checks) (sh : Shape) (o : EOps)
    (body : State → Group → Half → List Nat → Res Eff) (s : State) : Out :=
  issueC ck sh o (fun s g =>
    let m := g.active sh o s.free
    let diff := g.mismatch (g.fold m) (differ g s.free)
    let ctl := wr && (accLanes g m).any (fun l => ctlPlace s g (laneVa g s.free o l))
    if diff ≠ 0 then shadowHit s g diff (fun v => laneVa g s.free o (2 * v))
    else if fenceWait s g { loads := rd, stores := wr, ctl := ctl, rel := isRel o, scope := scopeOf g o } then .hold .suspended
    else relAfter (isRel o) (scopeOf g o) s g (fun s g => body s g m (accLanes g m))) s

/-- LD (R301). -/
def ld (sz : LdSz) (ck : Checks) (sh : Shape) (o : EOps) (s : State) : Out :=
  laneAccess true false (fun g f v => vaDiffer g f o v) ck sh o (fun s g m ls =>
    loadLike .ldst false (alignOf sz.bytes.1) sz.bytes.1
      { act := .load sz.bytes.1 sz.bytes.2, dst := o.d.toNat, accs := ls.map (fun l => { lane := l, va := laneVa g s.free o l })
        hint := o.hint.toNat % 4 } (writesOf sh o) m s g) s

/-- ULD (R301). -/
def uld (sz : LdSz) (ck : Checks) (sh : Shape) (o : EOps) (s : State) : Out :=
  issueC ck sh o (fun s g =>
    if fenceWait s g { loads := true } then .hold .suspended else
    loadLike .uld false (alignOf sz.bytes.1) sz.bytes.1
      { act := .uload sz.bytes.1 sz.bytes.2, dst := o.d.toNat
        accs := [{ lane := 0, va := g.s2 s.free o.a.toNat + memOff o }], hint := o.hint.toNat % 4 }
      (writesOf sh o) 0 s g) s

/-- B of n bytes: a register, a pair, a group of four, or the literal (R300, R303). -/
def dataB (g : Group) (free : Nat) (o : EOps) (n l : Nat) : Nat :=
  if n = 16 then (g.src128 free (uB o) o.b l).toNat
  else if n = 8 then (g.b64 free o l).toNat
  else (g.b32 free o l).toNat

def dataC (g : Group) (free : Nat) (o : EOps) (n l : Nat) : Nat :=
  if n = 16 then (g.src128 free (uC o) o.c l).toNat
  else if n = 8 then (g.c64 free o l).toNat
  else (g.c32 free o l).toNat

/-- ST (R301). -/
def st (sz : StSz) (ck : Checks) (sh : Shape) (o : EOps) (s : State) : Out :=
  laneAccess false true (fun g f v => vaDiffer g f o v || dataB g f o sz.bytes (2 * v) != dataB g f o sz.bytes (2 * v + 1)) ck sh o
    (fun s g _ ls =>
      storeLike .ldst (alignOf sz.bytes) (o.hint.toNat % 4) .bytes
        (ls.map (fun l => { lane := l, va := laneVa g s.free o l, bytes := natBytes sz.bytes (dataB g s.free o sz.bytes l) }))
        id s g) s

/-! ### Atomics, reductions and locked accesses (R302 to R307) -/

/-- An atomic closes an idempotent region (R521). -/
def Checks.closing (ck : Checks) : Checks := { ck with closes := true }

/-- ATOM (R303). -/
def atom (op : AtomOp) (n : Nat) (ck : Checks) (sh : Shape) (o : EOps) (s : State) : Out :=
  laneAccess true true (fun g f v => vaDiffer g f o v || dataB g f o n (2 * v) != dataB g f o n (2 * v + 1) ||
      dataC g f o n (2 * v) != dataC g f o n (2 * v + 1)) ck.closing sh o
    (fun s g m ls =>
      loadLike .atom true n n
        { act := .atomic op n, dst := o.d.toNat
          accs := ls.map (fun l => {
            lane := l
            va := laneVa g s.free o l
            b := BitVec.ofNat 128 (dataB g s.free o n l)
            c := BitVec.ofNat 128 (dataC g s.free o n l) })
          hint := o.hint.toNat % 4 } (writesOf sh o) m s g) s

/-- What a RED does at its execution point: .comm is its FLAG (R296, R304). -/
def redAct (op : AtomOp) (n : Nat) (o : EOps) : StoreAct := if memFlag o then .comm op n else .reduce op n

/-- RED (R179, R304). -/
def red (op : AtomOp) (n : Nat) (ck : Checks) (sh : Shape) (o : EOps) (s : State) : Out :=
  laneAccess false true (fun g f v => vaDiffer g f o v || dataB g f o n (2 * v) != dataB g f o n (2 * v + 1)) ck.closing sh o
    (fun s g _ ls =>
      storeLike .atom n (o.hint.toNat % 4) (redAct op n o)
        (ls.map (fun l => { lane := l, va := laneVa g s.free o l, bytes := natBytes n (dataB g s.free o n l) })) id s g) s

/-- LDX (R305). -/
def ldx (sz : XSz) (ck : Checks) (sh : Shape) (o : EOps) (s : State) : Out :=
  laneAccess true false (fun g f v => vaDiffer g f o v) ck.closing sh o (fun s g m ls =>
    loadLike .locked true sz.bytes sz.bytes
      { act := .loadLocked sz.bytes, dst := o.d.toNat, accs := ls.map (fun l => { lane := l, va := laneVa g s.free o l })
        hint := o.hint.toNat % 4 } (writesOf sh o) m s g) s

/-- STX (R305, R307). -/
def stx (sz : XSz) (ck : Checks) (sh : Shape) (o : EOps) (s : State) : Out :=
  laneAccess true true (fun g f v => vaDiffer g f o v || dataB g f o sz.bytes (2 * v) != dataB g f o sz.bytes (2 * v + 1)) ck.closing sh o
    (fun s g m ls =>
      loadLike .locked true sz.bytes sz.bytes
        { act := .storeCond sz.bytes, dst := o.d.toNat
          accs := ls.map (fun l => {
            lane := l, va := laneVa g s.free o l, b := BitVec.ofNat 128 (dataB g s.free o sz.bytes l) })
          hint := o.hint.toNat % 4 } (writesOf sh o) m s g) s

/-! ### Fences (R163, R170, R182, R308) -/

/-- The cluster writes back its dirty tensor lines and the stash entries bound to tensor space (R170). -/
def wbTensor (s : State) (cl : Nat) : State :=
  let s := stashEvent s cl (fun e => !tagCtl e.tag) false
  ((s.cluster cl).lines.filter (fun e => !tagCtl e.1)).foldl (fun s e => wbLine s cl e.1) s

/-- The cluster invalidates its tensor lines, dirty ones written back first (R170). -/
def invTensor (s : State) (cl : Nat) : State :=
  ((s.cluster cl).lines.filter (fun e => !tagCtl e.1)).foldl (fun s e => dropLine s cl e.1) s

/-- The cache actions of a fence with .t: write-backs on its release side, invalidations on its acquire side (R170). -/
def fenceCache (k : FenceKind) (s : State) (cl : Nat) : State :=
  match k with
  | .acq => invTensor s cl
  | .rel => wbTensor s cl
  | .full => invTensor (wbTensor s cl) cl
  | .tfence => wbTensor s cl

/-- The fence has an acquire side. -/
def FenceKind.acquires (k : FenceKind) : Bool := decide (k = .acq) || decide (k = .full)

/-- What a fence covers of the accesses that its group has issued up to a number is still open: tile instructions' (R337), RATOM requests
at .dom (R182), returning ones on the acquire side (R308), a TFENCE's copies (R177). -/
def fenceOpen (s : State) (gk : Nat) (k : FenceKind) (dom : Bool) (upTo : Nat) : Bool :=
  (tileOpen s gk upTo).any (fun j => j.op.memory) ||
  (s.grp gk).ratoms.any (fun r => decide (r.seq ≤ upTo) && (dom || (k.acquires && r.pend.isSome && !r.done))) ||
  (decide (k = .tfence) && (s.core (s.grp gk).core).chans.any (fun c => c.2.queue.any (fun j => j.grp == gk && decide (j.seq ≤ upTo))))

/-- A fence starts, in order behind its group's other fences; it completes when its condition is met, which may be at once. -/
def fenceStart (k : FenceKind) (dom t : Bool) (s : State) (g : Group) : Res Eff :=
  let rel := decide (k ≠ .acq)
  let s := commAll (s.putG g) s.cur
  let g := s.grp s.cur
  if hasBurrow s s.cur || !g.comm.isEmpty || (rel && (decide (0 < g.gives) || g.fenced g.seq { rel := true })) then heldWith s
  else if fenceOpen s s.cur k dom g.seq then .ok { s := s, g := g, pend := some { id := 0, wait := .fence k dom t g.seq } }
  else
    let s := if t then fenceCache k s (clusterOf g.core) else s
    .ok { s := s, g := if dom && rel then (s.grp s.cur).fenceErr else s.grp s.cur, pend := some { id := 0 } }

/-- FENCE. At .dom the release side waits for the group's RATOM requests (R182). -/
def fence (k : FenceKind) (ck : Checks) (sh : Shape) (o : EOps) (s : State) : Out :=
  issueC ck sh o (fun s g => fenceStart k (decide (k ≠ .acq) && decide (scopeOf g o = 6)) (memFlag o && decide (3 ≤ scopeOf g o)) s g) s

/-! ### CMAINT and PREF (R309, R310) -/

/-- Checks 2 to 5 of R51 on CMAINT's range. -/
def cmaintCheck (s : State) (g : Group) (va : Dword) (len : Nat) : Option (Nat × Dword) :=
  let sp := spaceOf va
  if sp = .reserved then some (causeAccess, va)
  else if regionKey va ≠ regionKey (va + BitVec.ofNat 64 (len - 1)) then some (causeWindow, va)
  else if sp = .tensor ∧ vaPkg va ≠ pkgOfCore g.core then some (causeSpace, va)
  else if sp = .control ∧ s.domain ≤ vaPkg va then some (causeAccess, va)
  else none

/-- A tag names a line of the range, for the group's context. -/
def inRange (s : State) (g : Group) (va : Dword) (len tag : Nat) : Bool :=
  (tagCtl tag || (tagAsid tag == g.id.asid && tagGen tag == g.id.gen && g.id.gen == (s.asid (pkgOfCore g.core) g.id.asid).gen)) &&
  decide (va.toNat < tagVa tag + 128) && decide (tagVa tag < va.toNat + len)

inductive Maint where
  | wb
  | inv
  | demote
  deriving DecidableEq, Repr

def cmaintDo (k : Maint) (s : State) (g : Group) (va : Dword) (len : Nat) : State :=
  let cl := clusterOf g.core
  let hit := inRange s g va len
  match k with
  | .demote =>
    let clear := fun (m : Mark) => if m = .el then Mark.normal else m
    let c := s.cluster cl
    let lines := c.lines.map (fun e => (e.1, if hit e.1 then { e.2 with mark := clear e.2.mark } else e.2))
    let s := s.putCluster cl { c with lines := lines }
    (coresOf cl).foldl (fun s core =>
      s.putCore core { (s.core core) with l1 := (s.core core).l1.map (fun e => (e.1, if hit e.1 then { e.2 with mark := clear e.2.mark } else e.2)) }) s
  | k =>
    let drop := decide (k = .inv)
    let s := (stashIdx s g.core (fun e => !tagCtl e.tag && hit e.tag)).foldl (fun s i =>
      if drop then stashDrop s g.core i else stashWb s g.core i) s
    ((s.cluster cl).lines.filter (fun e => !tagCtl e.1 && hit e.1)).foldl (fun s e =>
      if drop then dropLine s cl e.1 else wbLine s cl e.1) s

/-- CMAINT (R309). -/
def cmaint (k : Maint) (ck : Checks) (sh : Shape) (o : EOps) (s : State) : Out :=
  issueC ck sh o (fun s g =>
    let va := g.s2 s.free o.a.toNat
    let len := (g.uB32 s.free o).toNat
    if len = 0 then .ok { s := s, g := g, pend := some { id := 0 } }
    else
      match cmaintCheck s g va len with
      | some (c, a) => trapOf g c 0 a
      | none =>
        if hasBurrow (s.putG g) s.cur || g.fenced g.seq { loads := decide (k = .inv) } then .hold .suspended
        else .ok { s := cmaintDo k s g va len, g := g, pend := some { id := 0 } }) s

/-- One lane's prefetch: it fills the caches, or is dropped and counted (R45, R310, R490). -/
def prefLane (l1 : Bool) (hint : Nat) (gk : Nat) (s : State) (va : Dword) : State :=
  let g := s.grp gk
  match accCheck s g .pref va 1 1 with
  | some _ => specDrop s (dieOfCore g.core)
  | none =>
    let r := { g.req 0 va with spec := true }
    let cl := clusterOf g.core
    match findLine s g.core r hint with
    | (s', .stop _) => specDrop { s with dies := s'.dies } (transDie va)
    | (s', .ok tag) =>
      match (s'.cluster cl).lines.get? tag with
      | none => s'
      | some l =>
        if spaceOf va = .control && ((s'.home l.phys).poisoned || conflicts s' cl r l.leaf) then
          specDrop (dropLine s' cl tag) (transDie va)
        else
          let s' := if spaceOf va = .control then claim s' cl l.phys r l.leaf else s'
          let s' := s'.putCluster cl ((s'.cluster cl).touch tag hint)
          if l1 then s'.putCore g.core ((s'.core g.core).touchL1 tag hint) else s'

/-- PREF (R310). -/
def pref (l1 : Bool) (ck : Checks) (sh : Shape) (o : EOps) (s : State) : Out :=
  laneAccess false false (fun g f v => vaDiffer g f o v) ck sh o (fun s g _ ls =>
    let s := ls.foldl (fun st l => prefLane l1 (o.hint.toNat % 4) s.cur st (laneVa g s.free o l)) (s.putG g)
    .ok { s := s, g := s.grp s.cur }) s

/-! ### The stash table (R290, R311) -/

def stashBase : Dword := 0xB000000000000000#64

/-- The checks of STASH.MAP, in the order of R51 (R52, R311). -/
def stashMapCheck (s : State) (g : Group) (va : Dword) (so len : Nat) : Option (Nat × Dword) :=
  let sp := spaceOf va
  let at_ := stashBase + BitVec.ofNat 64 so
  let onCore := (s.cohorts.filter (fun c => c.2.core == g.core)).flatMap (fun c => c.2.stash)
  let overlaps := onCore.any (fun b =>
    (decide (so < b.so + b.len) && decide (b.so < so + len)) ||
    (decide (va.toNat < b.g.toNat + b.len) && decide (b.g.toNat < va.toNat + len)))
  if va.toNat % 128 ≠ 0 ∨ so % 128 ≠ 0 ∨ len % 128 ≠ 0 ∨ len = 0 then some (causeAlign, va)
  else if sp = .reserved then some (causeAccess, va)
  else if regionKey va ≠ regionKey (va + BitVec.ofNat 64 (len - 1)) then some (causeWindow, va)
  else if !sp.global || (sp = .tensor && vaPkg va != pkgOfCore g.core) then some (causeSpace, va)
  else if s.domain ≤ vaPkg va then some (causeAccess, va)
  else if stashLimit s g.core < so + len || overlaps || decide (8 ≤ (s.cohort g.cohort).stash.length) then some (causeAccess, at_)
  else none

/-- STASH.MAP. -/
def stashMap (ck : Checks) (sh : Shape) (o : EOps) (s : State) : Out :=
  issueC ck sh o (fun s g =>
    let va := g.s2 s.free o.a.toNat
    let len := (g.uB32 s.free o).toNat
    let so := (g.s1 s.free o.c.toNat).toNat
    match stashMapCheck s g va so len with
    | some (c, a) => trapOf g c 0 a
    | none =>
      if hasBurrow (s.putG g) s.cur then .hold .suspended
      else
        let c := s.cohort g.cohort
        .ok { s := s.putCohort g.cohort { c with stash := c.stash ++ [{ so := so, g := va, len := len }] }, g := g }) s

/-- STASH.UNMAP and STASH.FLUSH. -/
def stashEnd (unmap : Bool) (ck : Checks) (sh : Shape) (o : EOps) (s : State) : Out :=
  issueC ck sh o (fun s g =>
    let so := (g.s1 s.free o.c.toNat).toNat
    let c := s.cohort g.cohort
    match c.stash.find? (fun b => b.so == so) with
    | none => trapOf g causeAccess 0 (stashBase + BitVec.ofNat 64 so)
    | some b =>
      if hasBurrow (s.putG g) s.cur then .hold .suspended
      else
        let idx := ((s.core g.core).stash.filter (fun e => decide (b.so / 128 ≤ e.1) && decide (e.1 < (b.so + b.len) / 128))).map (·.1)
        let s := idx.foldl (fun s i => if unmap then stashDrop s g.core i else stashWb s g.core i) s
        let s := idx.foldl (fun s i =>
          match (s.core g.core).stash.get? i with
          | some e => wbLine s (clusterOf g.core) e.tag
          | none => s) s
        let s := if unmap then s.putCohort g.cohort { c with stash := c.stash.filter (fun x => x.so != so) } else s
        .ok { s := s, g := g }) s

/-! ### Barrier objects (R312 to R316) -/

/-- BAR closes an idempotent region (R521) and waits for the group's burrow entries (R319); its address is checked by R51.
`early` is a trap of its own. -/
def barIssue (early : Word → Option Trap) (write rel : Bool) (op : Word → Dword → State → Group → Bar → BarEnd) (ck : Checks) (sh : Shape)
    (o : EOps) (s : State) : Out :=
  issueC ck.closing sh o (fun s g =>
    let va := g.s2 s.free o.a.toNat
    let b := g.uB32 s.free o
    match early b with
    | some t => .trap { t with lanes := g.em }
    | none =>
      match accCheck s g .bar va 16 16 with
      | some (c, a) => trapOf g c 0 a
      | none =>
        let acc := [(0, va, 16)]
        let s := if write then commBefore (s.putG g) s.cur acc else s.putG g
        let later : Later :=
          { loads := true, stores := write, ctl := write && decide (spaceOf va = .control), rel := rel, scope := scopeOf g o }
        if hasBurrow s s.cur || loadsHeld s s.cur true acc || (write && storesHeld s s.cur true acc) || fenceWait s g later then heldWith s
        else relAfter rel (scopeOf g o) s (s.grp s.cur) (fun s g => barAccess (s.putG g) va write (op b va))) s

/-- BAR_ERROR subcode 1 for a count of 0 or above 0xFFFF (R314). -/
def barCount (b : Word) : Option Trap :=
  if b = 0 ∨ 0xFFFF < b.toNat then some { cause := causeBar, sub := 1 } else none

def barInit (ck : Checks) (sh : Shape) (o : EOps) (s : State) : Out :=
  barIssue barCount true false (fun b _ _ _ _ => { bar := Bar.init b.toNat }) ck sh o s

def barArrive (ck : Checks) (sh : Shape) (o : EOps) (s : State) : Out :=
  barIssue barCount true true (fun b _ _ _ x => (x.arrive b.toNat).toEnd) ck sh o s

def barExpect (ck : Checks) (sh : Shape) (o : EOps) (s : State) : Out :=
  barIssue (fun _ => none) true false (fun b _ _ _ x => (x.expect b.toNat).toEnd) ck sh o s

/-- BAR.WAIT: it completes when the phase has passed, raises subcode 4 when ERR is set, and blocks otherwise (R315). -/
def barWait (ck : Checks) (sh : Shape) (o : EOps) (s : State) : Out :=
  barIssue (fun _ => none) false false (fun b va _ _ x =>
    let x := x.checked
    let p := b.toNat % 65536
    if x.1.passed p then { bar := x.1, wake := x.2 }
    else if x.1.err then { bar := x.1, wake := x.2, error := some 4 }
    else { bar := x.1, wake := x.2, block := some (.bar va p (o.hint.getLsbD 2)) }) ck sh o s

/-- BAR.TEST (R314, R315). -/
def barTest (ck : Checks) (sh : Shape) (o : EOps) (s : State) : Out :=
  barIssue (fun _ => none) false false (fun b _ _ _ x =>
    let x := x.checked
    let pass := x.1.passed (b.toNat % 65536)
    { bar := x.1, wake := x.2, k := some (o.d.toNat, pass), error := if !pass && x.1.err then some 4 else none }) ck sh o s

/-- Uniform load of 8 to 128 bits into s registers, once for the group (R301). -/
def execUld (sz : LdSz) (o : EOps) (s : State) : Out :=
  uld sz {} (shUld sz) o s

/-- Per-lane load of a size from R300, with offset, ordering and cache hint (R301). -/
def execLd (sz : LdSz) (o : EOps) (s : State) : Out :=
  ld sz {} (shLd sz) o s

/-- 32-bit lane load in the base form (R301). -/
def execLd32B3 (o : B3Ops) (s : State) : Out :=
  ld .b32 (b3Checks 0x50 (shLd .b32) o) (shLd .b32) (b3AsE 0x50 (shLd .b32) o) s

/-- 64-bit lane load in the base form (R301). -/
def execLd64B3 (o : B3Ops) (s : State) : Out :=
  ld .b64 (b3Checks 0x50 (shLd .b64) o) (shLd .b64) (b3AsE 0x50 (shLd .b64) o) s

/-- 128-bit lane load in the base form (R301). -/
def execLd128B3 (o : B3Ops) (s : State) : Out :=
  ld .b128 (b3Checks 0x50 (shLd .b128) o) (shLd .b128) (b3AsE 0x50 (shLd .b128) o) s

/-- Per-lane store of a size from R300, optionally a release (R301). -/
def execSt (sz : StSz) (o : EOps) (s : State) : Out :=
  st sz {} (shSt sz) o s

/-- 32-bit lane store in the base form (R301). -/
def execSt32B3 (o : B3Ops) (s : State) : Out :=
  st .b32 (b3Checks 0x51 (shSt .b32) o) (shSt .b32) (b3AsE 0x51 (shSt .b32) o) s

/-- 64-bit lane store in the base form (R301). -/
def execSt64B3 (o : B3Ops) (s : State) : Out :=
  st .b64 (b3Checks 0x51 (shSt .b64) o) (shSt .b64) (b3AsE 0x51 (shSt .b64) o) s

/-- 128-bit lane store in the base form (R301). -/
def execSt128B3 (o : B3Ops) (s : State) : Out :=
  st .b128 (b3Checks 0x51 (shSt .b128) o) (shSt .b128) (b3AsE 0x51 (shSt .b128) o) s

/-- Atomic add returning the old value (R303). -/
def execAtomAdd (sz : XSz) (o : EOps) (s : State) : Out :=
  atom .add sz.bytes {} (shAtomAdd sz) o s

/-- Atomic signed minimum (R303). -/
def execAtomMin (sz : XSz) (o : EOps) (s : State) : Out :=
  atom .min sz.bytes {} (shAtomAdd sz) o s

/-- Atomic signed maximum (R303). -/
def execAtomMax (sz : XSz) (o : EOps) (s : State) : Out :=
  atom .max sz.bytes {} (shAtomAdd sz) o s

/-- Atomic unsigned minimum (R303). -/
def execAtomMinu (sz : XSz) (o : EOps) (s : State) : Out :=
  atom .minu sz.bytes {} (shAtomAdd sz) o s

/-- Atomic unsigned maximum (R303). -/
def execAtomMaxu (sz : XSz) (o : EOps) (s : State) : Out :=
  atom .maxu sz.bytes {} (shAtomAdd sz) o s

/-- Atomic AND (R303). -/
def execAtomAnd (sz : XSz) (o : EOps) (s : State) : Out :=
  atom .band sz.bytes {} (shAtomAdd sz) o s

/-- Atomic OR (R303). -/
def execAtomOr (sz : XSz) (o : EOps) (s : State) : Out :=
  atom .bor sz.bytes {} (shAtomAdd sz) o s

/-- Atomic XOR (R303). -/
def execAtomXor (sz : XSz) (o : EOps) (s : State) : Out :=
  atom .bxor sz.bytes {} (shAtomAdd sz) o s

/-- Atomic exchange (R303). -/
def execAtomExch (sz : XSz) (o : EOps) (s : State) : Out :=
  atom .exch sz.bytes {} (shAtomAdd sz) o s

/-- Atomic compare-and-swap of 32, 64 or 128 bits (R303). -/
def execAtomCas (sz : ASz) (o : EOps) (s : State) : Out :=
  atom .cas sz.bytes {} (shAtomCas sz) o s

/-- Atomic FP32 add with RNE (R303). -/
def execAtomFadd (o : EOps) (s : State) : Out :=
  atom .fadd 4 {} shAtomFadd o s

/-- Atomic FP32 minimumNumber (R303). -/
def execAtomFmin (o : EOps) (s : State) : Out :=
  atom .fmin 4 {} shAtomFadd o s

/-- Atomic FP32 maximumNumber (R303). -/
def execAtomFmax (o : EOps) (s : State) : Out :=
  atom .fmax 4 {} shAtomFadd o s

/-- Reduction add with no result, optionally .comm (R304). -/
def execRedAdd (sz : XSz) (o : EOps) (s : State) : Out :=
  red .add sz.bytes {} (shRedAdd sz) o s

/-- Reduction signed minimum (R304). -/
def execRedMin (sz : XSz) (o : EOps) (s : State) : Out :=
  red .min sz.bytes {} (shRedAdd sz) o s

/-- Reduction signed maximum (R304). -/
def execRedMax (sz : XSz) (o : EOps) (s : State) : Out :=
  red .max sz.bytes {} (shRedAdd sz) o s

/-- Reduction unsigned minimum (R304). -/
def execRedMinu (sz : XSz) (o : EOps) (s : State) : Out :=
  red .minu sz.bytes {} (shRedAdd sz) o s

/-- Reduction unsigned maximum (R304). -/
def execRedMaxu (sz : XSz) (o : EOps) (s : State) : Out :=
  red .maxu sz.bytes {} (shRedAdd sz) o s

/-- Reduction AND (R304). -/
def execRedAnd (sz : XSz) (o : EOps) (s : State) : Out :=
  red .band sz.bytes {} (shRedAdd sz) o s

/-- Reduction OR (R304). -/
def execRedOr (sz : XSz) (o : EOps) (s : State) : Out :=
  red .bor sz.bytes {} (shRedAdd sz) o s

/-- Reduction XOR (R304). -/
def execRedXor (sz : XSz) (o : EOps) (s : State) : Out :=
  red .bxor sz.bytes {} (shRedAdd sz) o s

/-- Reduction FP32 add (R304). -/
def execRedFadd (o : EOps) (s : State) : Out :=
  red .fadd 4 {} shRedFadd o s

/-- Reduction FP32 minimum (R304). -/
def execRedFmin (o : EOps) (s : State) : Out :=
  red .fmin 4 {} shRedFadd o s

/-- Reduction FP32 maximum (R304). -/
def execRedFmax (o : EOps) (s : State) : Out :=
  red .fmax 4 {} shRedFadd o s

/-- Locked load that sets the lane's reservation on the line (R305). -/
def execLdx (sz : XSz) (o : EOps) (s : State) : Out :=
  ldx sz {} (shLdx sz) o s

/-- Conditional store that succeeds only while the reservation holds, and writes a status (R305). -/
def execStx (sz : XSz) (o : EOps) (s : State) : Out :=
  stx sz {} (shStx sz) o s

/-- Acquire fence at a scope, optionally .t (R308). -/
def execFenceAcq (o : EOps) (s : State) : Out :=
  fence .acq {} shFenceAcq o s

/-- Release fence at a scope, optionally .t with write-back (R308). -/
def execFenceRel (o : EOps) (s : State) : Out :=
  fence .rel {} shFenceAcq o s

/-- Full fence at a scope (R308). -/
def execFenceAr (o : EOps) (s : State) : Out :=
  fence .full {} shFenceAcq o s

/-- Writes back the dirty tensor lines of a range in the cluster (R309). -/
def execCmaintWb (o : EOps) (s : State) : Out :=
  cmaint .wb {} shCmaintWb o s

/-- Writes back, then invalidates, the tensor lines of a range (R309). -/
def execCmaintInv (o : EOps) (s : State) : Out :=
  cmaint .inv {} shCmaintWb o s

/-- Clears the EL mark of lines in a range (R309). -/
def execCmaintDemote (o : EOps) (s : State) : Out :=
  cmaint .demote {} shCmaintWb o s

/-- Prefetches into L1 and the levels below (R310). -/
def execPrefL1 (o : EOps) (s : State) : Out :=
  pref true {} shPrefL1 o s

/-- Prefetches into the CLC and the levels below (R310). -/
def execPrefClc (o : EOps) (s : State) : Out :=
  pref false {} shPrefL1 o s

/-- Adds a stash binding of a window range to a global range (R311). -/
def execStashMap (o : EOps) (s : State) : Out :=
  stashMap {} shStashMap o s

/-- Writes back and removes a stash binding (R311). -/
def execStashUnmap (o : EOps) (s : State) : Out :=
  stashEnd true {} shStashUnmap o s

/-- Writes back the dirty entries of a stash binding (R311). -/
def execStashFlush (o : EOps) (s : State) : Out :=
  stashEnd false {} shStashUnmap o s

/-- Initialises a barrier object with an expected arrival count (R314). -/
def execBarInit (o : EOps) (s : State) : Out :=
  barInit {} shBarInit o s

/-- Adds arrivals to a barrier object as a release, possibly passing the phase (R314). -/
def execBarArrive (o : EOps) (s : State) : Out :=
  barArrive {} shBarArrive o s

/-- Adds expected bytes to a barrier object (R314). -/
def execBarExpect (o : EOps) (s : State) : Out :=
  barExpect {} shBarInit o s

/-- Blocks the group until the barrier phase passes p, optionally allowing a swap-out (R315). -/
def execBarWait (o : EOps) (s : State) : Out :=
  barWait {} shBarWait o s

/-- Sets a k predicate to whether the phase has passed p (R314). -/
def execBarTest (o : EOps) (s : State) : Out :=
  barTest {} shBarTest o s

end Sys2Proof.Machine
end

