-- ==== Sys2Proof/Machine/Allow.lean ====
section
/-!
DEFINITION. The allowance engine's instructions and events (R395 to R399).
-/

namespace Sys2Proof.Machine

/-- The checks of R395 on an object address. -/
def objectCheck (s : State) (va : Dword) : Option (Nat × Dword) :=
  if va.toNat % 64 ≠ 0 then some (causeAlign, va)
  else if spaceOf va = .reserved then some (causeAccess, va)
  else if spaceOf va ≠ .control then some (causeSpace, va)
  else if s.domain ≤ vaPkg va then some (causeAccess, va)
  else none

/-- An earlier allowance operation of the group has not been applied; operations of one group are applied in program order
(R390). -/
def Group.allowBusy (g : Group) : Bool :=
  decide (0 < g.gives) || g.pend.any (fun p => match p.wait with
    | .allowance => true
    | _ => false)

/-- The shell of an allowance instruction: checks, holds, then `run` on the state with the instruction's operation pending. -/
def allowI (early : Group → Option Trap) (ll : Bool) (op : Group → AOp) (ready : State → Nat → AOp → Bool) (run : State → Nat → AOp → State)
    (ck : Checks) (sh : Shape) (o : EOps) (s : State) : Out :=
  issueC ck.closing sh o (fun s g =>
    match early g with
    | some t => .trap { t with lanes := g.em }
    | none =>
      let va := g.s2 s.free o.a.toNat
      match objectCheck s va with
      | some (c, a) => trapOf g c 0 a
      | none =>
        let a := { op g with grp := s.cur, core := g.core, pend := g.seq, id := g.id }
        if hasBurrow (s.putG g) s.cur || g.allowBusy || !ready s va.toNat a then .hold .suspended
        else
          match g.clause with
          | none => .ok { s := s, g := g }
          | some c =>
            let p : Pend := { id := 0, dests := writesOf sh o, wait := .allowance }
            let g1 := (applyEff c true { s := s, g := g, pend := if ll then some p else none })
            let s1 := run g1 va.toNat a
            .ok { s := s1, g := s1.grp s.cur, done := true }) s

/-- Whether the operations of a core go to a slot of its cluster: the counter's home is its own package (R381). -/
def usesSlot (s : State) (va : Nat) (op : AOp) : Bool := homeOf s va == pkgOfCore op.core && va / 2 ^ 57 % 32 == pkgOfCore op.core

/-- A slot can be bound, and the cluster's queues have room (R382, R383). -/
def slotReady (s : State) (va : Nat) (op : AOp) : Bool :=
  let cl := clusterOf op.core
  !usesSlot s va op ||
    ((bindSlot s cl va op).2 && decide ((((s.cluster cl).slots.map (fun e => e.2.queue.length)).sum) < 64))

/-- An operation goes to its slot, or to the home (R381, R397, R398). -/
def sendOp (s : State) (va : Nat) (op : AOp) : State :=
  let cl := clusterOf op.core
  if usesSlot s va op then slotOp (bindSlot s cl va op).1 cl va op
  else
    match op.kind with
    | .give => s.send { va := va, cl := none, word := .giveBack op.n op }
    | _ => enqueueReq s va (homeOf s va) { op := op }

def countGive (s : State) (op : AOp) : State :=
  let g := s.grp op.grp
  { s with groups := s.groups.put op.grp { g with gives := g.gives + 1 } }

/-- ATAKE (R397). -/
def atake (ck : Checks) (sh : Shape) (o : EOps) (s : State) : Out :=
  allowI (fun _ => none) true (fun g => { kind := .take, n := (g.uB32 s.free o).toNat, grp := 0, core := 0 })
    (fun s va op => op.n == 0 || slotReady s va op)
    (fun s va op => if op.n = 0 then allowStatus s op 0 else sendOp s va op) ck sh o s

/-- AGIVE (R398). -/
def agive (ck : Checks) (sh : Shape) (o : EOps) (s : State) : Out :=
  allowI (fun _ => none) false (fun g => { kind := .give, n := (g.uB32 s.free o).toNat, grp := 0, core := 0 })
    (fun s va op => op.n == 0 || slotReady s va op)
    (fun s va op => if op.n = 0 then s else sendOp (countGive s op) va op) ck sh o s

/-- AREAD.EXACT (R399). -/
def areadExact (ck : Checks) (sh : Shape) (o : EOps) (s : State) : Out :=
  allowI (fun _ => none) true (fun _ => { kind := .exact, grp := 0, core := 0 }) slotReady sendOp ck sh o s

/-- AREAD.APPROX reads RESERVE at the home, behind what its core has sent there (R384, R399). -/
def readApprox (s : State) (va : Nat) (op : AOp) : State :=
  let s := flushHome s none va op.core
  match s.ctrs.get? va with
  | none => allowErr s op va causeAllowance 2
  | some c =>
    if !c.live then allowErr s op va causeAllowance 2
    else if c.broken then allowErr s op va causeAllowance 3
    else
      match homeCheck s op va with
      | (s, some (.error cause)) => allowErr s op va cause 0
      | (s, _) => allowValue s op c.reserve

def areadApprox (ck : Checks) (sh : Shape) (o : EOps) (s : State) : Out :=
  allowI (fun _ => none) true (fun _ => { kind := .approx, grp := 0, core := 0 }) (fun _ _ _ => true) readApprox ck sh o s

/-- The initial value of ACRT.NEW, and its subcode 1 (R393). -/
def acrtValue (g : Group) (free : Nat) (o : EOps) : Nat := (g.s1 free (o.b.toNat + 1) ++ g.s1 free o.b.toNat).toNat

def acrtBad (g : Group) (free : Nat) (o : EOps) : Option Trap :=
  let q := (g.s1 free (o.b.toNat + 2)).toNat
  let m := (g.s1 free (o.b.toNat + 3)).toNat
  if q = 0 ∨ m < q ∨ valueMax < acrtValue g free o then
    some { cause := causeAllowance, sub := 1, addr := g.s2 free o.a.toNat }
  else none

/-- ACRT goes to the home: into the queue of a live counter, else it is served at once (R396), behind what reached the home before it. -/
def acrtRun (s : State) (va : Nat) (op : AOp) : State :=
  match op.kind with
  | .create q m =>
    let s := flushHome s none va op.core
    if (s.ctrs.getD va { live := false }).live then enqueueReq s va (homeOf s va) { op := op }
    else
      let s := (List.range (queuedAt s va)).foldl (fun s _ => serveFirst s va) s
      match homeCheck s op va with
      | (s, none) => enqueueReq s va (homeOf s va) { op := op }
      | (s, some (.error c)) => allowErr s op va c 0
      | (s, some (.ok (phys, leaf))) => createCtr s va (homeOf s va) op q m phys leaf (s.ctrs.getD va {}).queue
  | _ => enqueueReq s va (homeOf s va) { op := op }

/-- ACRT.NEW: subcode 1 is the instruction's own trap, before the address checks (R101, R396). -/
def acrtNew (ck : Checks) (sh : Shape) (o : EOps) (s : State) : Out :=
  allowI (fun g => acrtBad g s.free o)
    true
    (fun g => {
      kind := .create (g.s1 s.free (o.b.toNat + 2)).toNat (g.s1 s.free (o.b.toNat + 3)).toNat
      n := acrtValue g s.free o, grp := 0, core := 0 })
    (fun _ _ _ => true) acrtRun ck sh o s

def acrtFree (ck : Checks) (sh : Shape) (o : EOps) (s : State) : Out :=
  allowI (fun _ => none) true (fun _ => { kind := .free, grp := 0, core := 0 }) (fun _ _ _ => true) acrtRun ck sh o s

def isGrant : AWord → Bool
  | .grant _ _ _ => true
  | _ => false

def isRefusal : AWord → Bool
  | .refusal _ => true
  | _ => false

def isReply : AWord → Bool
  | .reply _ => true
  | _ => false

def isRecall : AWord → Bool
  | .recall => true
  | _ => false

def isAnswer : AWord → Bool
  | .answer _ => true
  | _ => false

def isReturn : AWord → Bool
  | .giveBack _ _ => true
  | _ => false

def isGiveUp : AWord → Bool
  | .giveUp _ _ => true
  | _ => false

/-- Creates or re-creates a squirrel counter at its home (R396). -/
def execAcrtNew (o : EOps) (s : State) : Out :=
  acrtNew {} shAcrtNew o s

/-- Gathers and frees a counter (R396). -/
def execAcrtFree (o : EOps) (s : State) : Out :=
  acrtFree {} shAcrtFree o s

/-- Takes n from the cluster's allowance, or requests from the home (R397). -/
def execAtake (o : EOps) (s : State) : Out :=
  atake {} shAtake o s

/-- Gives n to the slot allowance, returning the excess to the home (R398). -/
def execAgive (o : EOps) (s : State) : Out :=
  agive {} shBrxIdx o s

/-- Reads the exact counter value after a full recall (R399). -/
def execAreadExact (o : EOps) (s : State) : Out :=
  areadExact {} shAreadExact o s

/-- Reads RESERVE at the home without recall (R399). -/
def execAreadApprox (o : EOps) (s : State) : Out :=
  areadApprox {} shAreadExact o s

/-- The home serves the head request of a counter queue: grant, recall round or refusal (R387). -/
def execAllowanceServe (obj : Nat) (s : State) : Out :=
  .next (serveHead s obj)

/-- A grant arrives at a waiting slot, which applies the take and becomes HELD (R385). -/
def execAllowanceGrant (n : Nat) (s : State) : Out :=
  .next (deliverAllow s n isGrant)

/-- A refusal arrives at a waiting slot, and status 1 is written (R385). -/
def execAllowanceRefusal (n : Nat) (s : State) : Out :=
  .next (deliverAllow s n isRefusal)

/-- An exact-read reply arrives at the slot, which becomes BOUND (R385). -/
def execExactReadReply (n : Nat) (s : State) : Out :=
  .next (deliverAllow s n isReply)

/-- A recall arrives at a slot, which answers with its allowance (R385). -/
def execAllowanceRecall (n : Nat) (s : State) : Out :=
  .next (deliverAllow s n isRecall)

/-- A recall answer arrives at the home and is added to RESERVE (R387). -/
def execRecallAnswer (n : Nat) (s : State) : Out :=
  .next (deliverAllow s n isAnswer)

/-- A return arrives at the home and is added, possibly setting BROKEN (R387). -/
def execAllowanceReturn (n : Nat) (s : State) : Out :=
  .next (deliverAllow s n isReturn)

/-- A give-up arrives at the home, is added, and clears the holder bit (R387). -/
def execGiveUp (n : Nat) (s : State) : Out :=
  .next (deliverAllow s n isGiveUp)

end Sys2Proof.Machine
end

