-- ==== Sys2Proof/Machine/Link.lean ====
section
/-!
DEFINITION. Spewlink ports (R534 to R542): flits, link-level retry, on/off backpressure, port states, and which packages can be
reached.
-/

namespace Sys2Proof.Machine

/-! ### Flits (R534 to R538) -/

/-- A reserved TYPE or a reserved field that is not zero. -/
def flitBroken (f : Flit) : Bool :=
  !f.good || decide (3 < f.ty.toNat) || decide (7 < f.vc.toNat) || decide (4095 < f.seq.toNat) || decide (4095 < f.ack.toNat) || f.last != 0

/-- Flits of the replay buffer that an acknowledgement covers leave it: those up to the acknowledged SEQ. -/
def Port.acked (x : Port) (ack : Nat) : Port :=
  let keep := x.replay.filter (fun f => decide (2048 ≤ (ack + 4096 - f.2.seq.toNat) % 4096))
  { x with replay := keep, resend := min x.resend keep.length }

/-- XOFF of a virtual channel follows the free space of its buffer; answers and acknowledgements never wait for the requests'
buffers, which are apart (R536, R537). -/
def Port.setOcc (x : Port) (vc n : Nat) : Port :=
  let free := Config.vcCapacity - n
  let bit := if free < 64 then true else if 128 ≤ free then false else x.xoffTx.getLsbD vc
  { x with occ := x.occ.store 0 vc n, xoffTx := setBit x.xoffTx vc bit }

/-- The sender resends from the flit after the last good SEQ (R538, R540). -/
def nakReceive (x : Port) (good : Nat) : Port :=
  let y := x.acked good
  { y with resend := y.replay.length, replays := min (x.replays + 1) 0xFFFF }

/-- A flit arrives (R534 to R538). A port that is not UP takes none; one whose peer is not admitted takes only MGMT (R541). -/
def flitReceive (s : State) (pkg p : Nat) (f : Flit) : State :=
  let x := s.port pkg p
  let put := fun (y : Port) => s.putPort pkg p y
  let drop := { x with dropping := true, nak := some ((x.rxSeq + 4095) % 4096) }
  if x.st ≠ .up then s
  else if flitBroken f then put drop
  else
    let y := { x.acked f.ack.toNat with xoffRx := f.xoff }
    match f.ty.toNat with
    | 1 =>
      if f.seq.toNat ≠ x.rxSeq then put { y with dropping := true, nak := some ((x.rxSeq + 4095) % 4096) }
      else
        let y := { y with rxSeq := (x.rxSeq + 1) % 4096, dropping := false, nak := none }
        let vc := f.vc.toNat
        if 5 < vc ∨ (x.mgmtOnly ∧ vc ≠ 5) then put y
        else (put (y.setOcc vc ((y.occ.getD vc 0 + 1) - Config.vcDrain s.free))).bump pkg (400 + p) 1
    | 2 => put (nakReceive y f.ack.toNat)
    | _ => put y

/-! ### Port states (R541) -/

/-- Entry to RETRAIN: counted, and the owl line pulled (R208, R540). -/
def portRetrain (s : State) (pkg p : Nat) : State :=
  let x := s.port pkg p
  owlError (s.putPort pkg p { x with st := .retrain, retrains := min (x.retrains + 1) 255 }) pkg 11

/-- Messages buffered for a port take another route, in the order of each virtual channel; where none exists they stay (R542). -/
def reroute (s : State) (pkg p : Nat) : State :=
  let x := s.port pkg p
  let all := x.replay ++ x.txq.flatMap (·.2)
  let moved := fun (e : Nat × Flit) => (portTo s pkg e.1).isSome
  let s := s.putPort pkg p { x with
    replay := x.replay.filter (fun e => !moved e), resend := 0
    txq := (x.txq.map (fun (q : Nat × List (Nat × Flit)) => (q.1, q.2.filter (fun e => !moved e)))).filter (fun q => !q.2.isEmpty) }
  all.foldl (fun s e =>
    match portTo s pkg e.1 with
    | some i => s.putPort pkg i ((s.port pkg i).putQueue e.2.vc.toNat ((s.port pkg i).queue e.2.vc.toNat ++ [e]))
    | none => s) s

/-- A port goes DOWN, and the firmware takes it out of the routes (R541, R542). -/
def portDown (s : State) (pkg p : Nat) : State := reroute (s.putPort pkg p { (s.port pkg p) with st := .down, removed := true }) pkg p

/-- A lane fails: the spare replaces it, or, with the spare in use, the port retrains. -/
def laneFail (s : State) (pkg p lane : Nat) : State :=
  let x := s.port pkg p
  match x.st with
  | .up => if x.badlane = 7 then s.putPort pkg p { x with st := .spare, badlane := lane % 4 } else portRetrain s pkg p
  | .spare => portRetrain s pkg p
  | _ => s

def nakBurst (s : State) (pkg p : Nat) : State :=
  match (s.port pkg p).st with
  | .up => portRetrain s pkg p
  | .spare => portRetrain s pkg p
  | _ => s

/-- Training completes: flits resume from the replay buffer. -/
def trained (s : State) (pkg p : Nat) : State :=
  let x := s.port pkg p
  match x.st with
  | .up => s
  | .down => s
  | .train => s.putPort pkg p { x with st := .up, resend := x.replay.length, removed := false }
  | _ => s.putPort pkg p { x with st := .up, resend := x.replay.length }

def retrainTimeout (s : State) (pkg p : Nat) : State := if (s.port pkg p).st = .retrain then portDown s pkg p else s

def presentFall (s : State) (pkg p : Nat) : State :=
  let s := s.putPort pkg p { (s.port pkg p) with present := false }
  if (s.port pkg p).st = .down then s else portDown s pkg p

/-- Presence returns: a DOWN port trains, and carries MGMT only until its peer is admitted. -/
def presentRise (s : State) (pkg p : Nat) : State :=
  let x := { (s.port pkg p) with present := true }
  match x.st with
  | .down => s.putPort pkg p { x with st := .train, mgmtOnly := true, peer := none, replay := [], resend := 0, txq := [], used := [], rxSeq := 0, txSeq := 0, dropping := false, nak := none }
  | _ => s.putPort pkg p x

/-- The status register of a port (R540). -/
def Port.status (x : Port) : Word :=
  BitVec.ofNat 32 (x.present.toNat * 2 ^ 31 + x.st.code * 2 ^ 28 + x.badlane % 8 * 2 ^ 25 + x.retrains % 256 * 2 ^ 16 + x.replays % 65536)

end Sys2Proof.Machine
end

