-- ==== Sys2Proof/Machine/CohEng.lean ====
section
/-!
DEFINITION. The coherence engine's own steps (R499 to R510): requests, answers and recalls of tokens, evictions, notices,
persistent requests and reclassification.
-/

namespace Sys2Proof.Machine

/-! ### Requests (R499, R503) -/

/-- A request has what it needs. -/
def Attempt.met (s : State) (a : Attempt) : Bool :=
  let n := (s.tok a.cluster a.line).count
  if a.write then n == 4096 else n != 0

/-- The record of a request: its own, or a new one. -/
def askFor (s : State) (cl line : Nat) (wr : Bool) : State :=
  if s.attempts.any (fun a => a.cluster == cl && a.line == line && a.write == wr) then s
  else { s with attempts := s.attempts ++ [{ cluster := cl, line := line, write := wr }] }

/-- Tokens of a line are on their way to a cluster. -/
def inFlight (s : State) (cl line : Nat) : Bool := s.flight.any (fun m => m.line == line && m.dest == some cl)

/-- The home's package serves one more request (R211). -/
def cohServed (s : State) (line n : Nat) : State := s.bump (homePkgOf line) 431 n

/-- A READ of a cluster reaches the owner or the home, whose answer leaves at once (R499). A line under census is held (R509). -/
def cohRead (s : State) (cl line : Nat) : State :=
  if (s.tok cl line).count ≠ 0 ∨ inFlight s cl line ∨ (s.home line).census then s
  else
    let p := answerRead s line
    cohServed (sendTok (askFor p.1 cl line false) line (some cl) p.2) line 0

/-- A WRITE takes the home's tokens; those of other holders follow as recalls reach them (R499, R501). -/
def cohWrite (s : State) (cl line : Nat) : State :=
  if (s.tok cl line).count = 4096 ∨ (s.home line).census then s
  else
    let h := s.home line
    let s := (askFor s cl line true).putHome line { h with count := 0, owner := false }
    cohServed (sendTok s line (some cl) { count := h.count, owner := h.owner }) line 0

/-- Where a recalled holder sends its tokens: to the requester that waits for a WRITE, or to the home. -/
def recallDest (s : State) (cl line : Nat) : Option Nat :=
  (s.attempts.find? (fun a => a.line == line && a.write && a.cluster != cl)).map (·.cluster)

/-- A recall reaches a holder, which gives up every token (R499, R501, R508). -/
def cohRecall (s : State) (cl line : Nat) : State :=
  if (s.tok cl line).count = 0 then s
  else
    let d := recallDest s cl line
    let p := surrender s cl line
    vecClear (sendTok p.1 line d p.2) (pkgOfCluster cl) line

/-- An attempt has failed: nothing more is on its way, and it lacks what it needs; after the third failed retry it becomes
persistent (R503), when the home's table of 64 has room (R504). -/
def attemptOver (s : State) (a : Attempt) : Attempt :=
  let full := decide (64 ≤ (s.attempts.filter (fun x => x.persistent && homePkgOf x.line == homePkgOf a.line)).length)
  { a with fails := a.fails + 1, persistent := a.persistent || (decide (4 ≤ a.fails + 1) && !full) }

/-- While a persistent request of a line is active, tokens that another holder receives go on to it (R504). -/
def passOn (s : State) (cl line : Nat) : State :=
  match s.attempts.find? (fun a => a.persistent && a.line == line) with
  | some a =>
    if a.cluster = cl ∨ (!a.write && a.met s) then s
    else
      let p := surrender s cl line
      sendTok p.1 line (some a.cluster) p.2
  | none => s

/-- Tokens arrive (R496, R503): requests that have what they need end; one that lacks it has failed once more. -/
def tokenAnswer (s : State) (n : Nat) : State :=
  match s.flight[n]? with
  | none => s
  | some m =>
    let s := deliverTok { s with flight := s.flight.eraseIdx n } m
    match m.dest with
    | none => s
    | some cl =>
      let mine := fun (a : Attempt) => a.cluster == cl && a.line == m.line
      let s1 := { s with attempts := s.attempts.filter (fun a => !(mine a && a.met s)) }
      let s2 := if inFlight s1 cl m.line then s1
        else { s1 with attempts := s1.attempts.map (fun a => if mine a && !a.persistent then attemptOver s1 a else a) }
      passOn s2 cl m.line

/-! ### Evictions and notices (R155, R499, R500, R507) -/

/-- COH_EVICT. -/
def cohEvict (s : State) (cl tag : Nat) : State := evictLine s cl tag

/-- The home sets DIRTY at the primary and the mirror for a holder of every token (R500). -/
def dirtyNotice (s : State) (cl line : Nat) : State :=
  if (s.tok cl line).count = 4096 then s.putHome line { (s.home line) with dirty := true } else s

/-- The home records PDIRTY for the owner of a PRIVATE page (R507). -/
def pdirtyNotice (s : State) (cl frame : Nat) : State :=
  match s.owners.get? frame with
  | some o => if o.cluster = some cl then { s with owners := s.owners.put frame { o with pdirty := true } } else s
  | none => s

/-- A dirty owner's write-back: control memory holds the data, and DIRTY is cleared (R500). -/
def dirtyWriteback (s : State) (cl line : Nat) : State :=
  let t := s.tok cl line
  if t.owner && t.dirty then
    let s := stashEvent s cl (fun e => e.phys == line && tagCtl e.tag) false
    (s.putTok cl line { t with dirty := false }).putHome line { (s.home line) with dirty := false }
  else s

/-- A persistent request enters the table, and, first for its line, is activated: every holder sends what it needs (R504). -/
def persistentRequest (s : State) (cl line : Nat) (wr : Bool) : State :=
  let full := decide (64 ≤ (s.attempts.filter (fun a => a.persistent && homePkgOf a.line == homePkgOf line)).length)
  let active := s.attempts.find? (fun a => a.persistent && a.line == line)
  let mine := fun (a : Attempt) => a.cluster == cl && a.line == line && a.write == wr
  if (s.home line).census then s
  else
    let s :=
      if s.attempts.any (fun a => mine a && a.persistent) ∨ full then s
      else
        let s := askFor s cl line wr
        cohServed { s with attempts := s.attempts.map (fun a => if mine a then { a with persistent := true } else a) } line 1
    match active with
    | some _ => s
    | none =>
      if full then s
      else if wr then
        let p := answerWrite s (some cl) line
        sendTok p.1 line (some cl) p.2
      else if (s.tok cl line).count ≠ 0 then s
      else
        let p := answerRead s line
        sendTok p.1 line (some cl) p.2

/-- A conflicting access of a cluster finds its page held while it becomes SHARED (R505, R506). -/
def classConflict (s : State) (cl : Nat) (va : Dword) (wr : Bool) : State :=
  if spaceOf va ≠ .control then s
  else
    match leafAt s (transDie va) 0 false va with
    | (s, .leaf e) =>
      if conflicts s cl { va := va, read := !wr, write := wr } e.word then setClass s va e classShared none else s
    | (_, _) => s

/-- The home ends the census of a line with the survivors' reports (R510, R211). -/
def censusReport (s : State) (line : Nat) : State :=
  if (s.home line).census then cohServed (censusLine s line) line 2 else s

/-! ### Loss of a package (R509, R510) -/

/-- The lines of a span of physical memory are poisoned. -/
def poisonSpan (s : State) (frame size : Nat) : State :=
  (List.range (size / 128)).foldl (fun s i => s.putHome (frame / 128 + i) { (s.home (frame / 128 + i)) with poisoned := true }) s

/-- A package serves a home of a package: its own, or, as mirror partner, that of a lost one (R509, R542). -/
def servesHome (s : State) (pkg q home : Nat) : Bool := home == pkg || (home == q && s.partner.getD q pkg == pkg)

/-- The coherence engine's part of a loss, at the homes that a survivor serves: censuses begin, and PRIVATE pages lose an owner in
the lost package. -/
def cohLoss (s : State) (pkg q : Nat) : State :=
  let s := { s with homes := s.homes.map (fun (e : Nat × HomeLine) =>
    if servesHome s pkg q (homePkgOf e.1) && (e.2.vec.getLsbD q || homePkgOf e.1 == q) then (e.1, { e.2 with census := true }) else e) }
  let gone := s.owners.filter (fun (e : Nat × PageOwner) => servesHome s pkg q (e.1 / 2 ^ 40) && (match e.2.cluster with
    | some c => pkgOfCluster c == q
    | none => false))
  gone.foldl (fun (s : State) (e : Nat × PageOwner) =>
    let s := if e.2.pdirty then poisonSpan s e.1 e.2.size else s
    { s with owners := s.owners.del e.1 }) s

end Sys2Proof.Machine
end

