-- ==== Sys2Proof/Machine/Flow.lean ====
section
/-!
DEFINITION. The pieces of a copy (R353, R354, R356, R359 to R361): sent in delivery order, their bytes read and written one by one in
any order, landed in delivery order. Copies of cores and of hub dies use it.
-/

namespace Sys2Proof.Machine

/-! ### The bytes of a piece -/

/-- What moves the bytes of a copy. -/
structure Carrier where
  /-- where delivery ends -/
  last : Nat
  /-- the piece at an offset: its bytes, and the offset after it -/
  cut : Nat → Nat × Nat
  /-- the addresses that its bytes go to and come from -/
  ends : State → Nat → State × Acc (Dword × Dword)
  /-- the address of an index list entry that the piece needs, or else where it goes -/
  index : Nat → Dword
  /-- where the piece at an offset goes, as far as its addresses are known -/
  near : Nat → Dword
  /-- an element fails its checks: its first failing address -/
  bad : State → Dword → Dword → Nat → Option Dword
  /-- messages to the owner of an address move -/
  up : State → Dword → Bool
  /-- a flow holds back a request to an address that has a place in its order (R25, R539) -/
  behind : State → Dword → Nat → Bool
  /-- the package of an address has been declared lost -/
  lost : State → Dword → Option Nat
  read : State → Dword → State × Acc (List Byte)
  write : State → Dword → List Byte → State × Acc Unit

/-- Why a piece does not come through: a lost package, a failed check of its own, or what an access comes back with. -/
inductive PieceWhy where
  | peer (pkg : Nat)
  | check
  | xl (x : Xl)
  deriving DecidableEq, Repr

/-- What stops a piece: why, whether a write does, and the destination address that fails. -/
structure PieceStop where
  why : PieceWhy
  wr : Bool := false
  dst : Dword
  deriving DecidableEq, Repr

/-- A piece on its way: the state, the piece, and what stops it. -/
structure Went where
  s : State
  p : Piece
  stop : Option PieceStop := none

/-- The first destination byte of a piece that has not been written. -/
def Piece.at_ (p : Piece) (near : Dword) : Dword :=
  match p.ends, ((p.unread ++ p.got.map (·.1)).min?) with
  | some (d, _), some i => d + BitVec.ofNat 64 i
  | some (d, _), none => d
  | none, _ => near

/-- Every byte of the piece has been performed. -/
def Piece.performed (p : Piece) : Bool := p.ends.isSome && p.unread.isEmpty && p.got.isEmpty

/-- The addresses of a piece become known. -/
def Carrier.open_ (c : Carrier) (w : Went) : Went :=
  let idx := c.index w.p.lo
  match w.p.ends, c.lost w.s idx with
  | some _, _ => w
  | none, some p => { w with stop := some { why := .peer p, dst := c.near w.p.lo } }
  | none, none =>
    if !c.up w.s idx then w
    else
      match c.ends w.s w.p.lo with
      | (s, .stop x) => { w with s := s, stop := some { why := .xl x, dst := c.near w.p.lo } }
      | (s, .ok e) =>
        match [e.1, e.2].findSome? (c.lost s), c.bad s e.1 e.2 w.p.n with
        | some p, _ => { w with s := s, stop := some { why := .peer p, dst := e.1 } }
        | none, some _ => { w with s := s, stop := some { why := .check, dst := e.1 } }
        | none, none => { w with s := s, p := { w.p with ends := some e } }

/-- A byte of the source is read. -/
def Carrier.readOne (c : Carrier) (w : Went) (i : Nat) : Went :=
  match w.stop, w.p.ends with
  | none, some (d, src) =>
    match c.read w.s (src + BitVec.ofNat 64 i) with
    | (s, .ok bs) => { w with s := s, p := { w.p with unread := w.p.unread.erase i, got := w.p.got.put i (bs.headD 0) } }
    | (s, .stop x) => { w with s := s, stop := some { why := .xl x, dst := d + BitVec.ofNat 64 i } }
  | _, _ => w

/-- A byte that has been read is written. -/
def Carrier.writeOne (c : Carrier) (w : Went) (i : Nat) : Went :=
  match w.stop, w.p.ends, w.p.got.get? i with
  | none, some (d, _), some b =>
    match c.write w.s (d + BitVec.ofNat 64 i) [b] with
    | (s, .ok _) => { w with s := s, p := { w.p with got := w.p.got.del i } }
    | (s, .stop x) => { w with s := s, stop := some { why := .xl x, wr := true, dst := d + BitVec.ofNat 64 i } }
  | _, _, _ => w

/-- Messages to both ends of a piece move (R541), and no flow holds it back. -/
def Carrier.moves (c : Carrier) (w : Went) : Bool :=
  match w.p.ends with
  | some (d, src) => c.up w.s d && c.up w.s src && !c.behind w.s d w.p.order
  | none => false

/-- Bytes of a piece are moved: those that `rd` names are read, then those that `wr` names are written (R178, R354, R356). -/
def Carrier.move (c : Carrier) (rd wr : Nat → Bool) (s : State) (p : Piece) : Went :=
  let w := c.open_ { s := s, p := p }
  if !c.moves w then w
  else
    let w := (w.p.unread.filter rd).foldl c.readOne w
    ((w.p.got.map (·.1)).filter wr).foldl c.writeOne w

/-! ### The pieces of a copy in flight -/

/-- The next piece is sent (R352, R353); after an error none is (R359). -/
def Flow.send (c : Carrier) (order : Nat) (f : Flow) : Flow :=
  if f.err.isSome || decide (c.last ≤ f.sent) then f
  else
    let x := c.cut f.sent
    { f with sent := x.2, fly := f.fly ++ [{ lo := f.sent, hi := x.2, n := x.1, unread := List.range x.1, order := order }] }

/-- A piece is refused or held: the later ones wait behind it (R25, R360, R361). -/
def Flow.waits (f : Flow) : Bool := f.fly.any (fun p => p.st != .go)

/-- A piece waits out a refusal hint. -/
def Flow.refusing (f : Flow) : Bool := f.fly.any (fun p => match p.st with
  | .refused _ => true
  | _ => false)

def Flow.put (f : Flow) (p : Piece) : Flow := { f with fly := f.fly.map (fun x => if x.lo = p.lo then p else x) }

/-- A piece is answered with an error: the first one is kept (R359). -/
def Flow.fail (f : Flow) (p : Piece) (sub : Nat) (dst : Dword) : Flow :=
  { f with fly := f.fly.filter (fun x => x.lo != p.lo), err := some (f.err.getD (sub, dst)) }

/-- The first piece in flight has landed; PROG moves over a prefix of the delivery order (R354). -/
def Flow.landed (f : Flow) : Flow :=
  match f.fly with
  | [] => f
  | p :: rest => { f with fly := rest, prog := if p.lo = f.prog then p.hi else f.prog }

/-- Every piece that has been sent has been answered, and none is to follow. -/
def Flow.over (f : Flow) (last : Nat) : Bool := f.fly.isEmpty && (f.err.isSome || decide (last ≤ f.sent))

/-! ### Flows between packages (R25, R182, R539) -/

/-- A request of a flow waits: an earlier one of an ordered flow has not been accepted, or 256 earlier ones are unacknowledged. `reqs`:
those that are, each with its place in the order and whether it has been performed. -/
def flowHolds (s : State) (src dest flow order : Nat) (reqs : List (Nat × Bool)) : Bool :=
  let before := reqs.filter (fun r => decide (r.1 < order))
  (s.pkg src).modeB && dest != src &&
    ((flowOrdered s src dest flow && before.any (fun r => !r.2)) || decide (256 ≤ before.length))

/-- The pieces of a copy to a package that have been sent and have not landed. -/
def Flow.reqs (f : Flow) (dest : Nat) : List (Nat × Bool) :=
  f.fly.filterMap (fun p => match p.ends with
    | some (d, _) => if (spaceOf d).global ∧ vaPkg d = dest then some (p.order, p.performed) else none
    | none => none)

/-! ### Where a copy stands -/

/-- Where the copy stands: the first destination byte not landed. -/
def Flow.at_ (f : Flow) (c : Carrier) : Dword :=
  match f.fly with
  | p :: _ => p.at_ (c.near p.lo)
  | [] => c.near f.prog

/-- Pieces are sent again: refused ones unless a refusal still waits out its hint, held ones unless their fault still waits for its
replay (R360, R361). -/
def Flow.again (f : Flow) (refused held : Bool) : Flow :=
  { f with fly := f.fly.map (fun p => match p.st with
    | .go => p
    | .refused _ => if refused then p else { p with st := .go, again := true }
    | .held _ => if held then p else { p with st := .go }) }

/-- A denial covers the address that a piece is held at, or that it missed at another package (R361). -/
def Piece.denied (p : Piece) (covers : Dword → Bool) : Bool :=
  match p.st with
  | .held va => covers va
  | .refused (some va) => covers va
  | _ => false

/-! ### A copy that runs on a channel -/

/-- The COPY_ERROR subcode of a cause found at an MTLB or in the data (R359). -/
def copySub (cause : Nat) : Nat :=
  if cause = causeSecurity then 1 else if cause = causeProtection then 2 else if cause = causeAccess then 3 else 4

/-- The copy that runs on a channel, and what its channel does with it. -/
structure Stream where
  carrier : Carrier
  /-- the package that sends its pieces -/
  pkg : Nat
  /-- who waits for a replay or a hint -/
  waiter : Waiter
  /-- the occasion of its free choices -/
  key : Nat
  /-- what its requests carry -/
  req : State → Dword → TransReq
  /-- its pieces; none: it is over -/
  get : State → Option Flow
  put : State → Flow → State
  /-- the channel sends pieces -/
  sends : State → Bool
  /-- the channel counts a refusal -/
  refused : State → State
  /-- an error that a piece is answered with is recorded -/
  failed : State → Nat → Dword → State
  /-- the barrier object takes a landing -/
  land : State → Piece → State × Acc Unit
  /-- the channel's progress takes it -/
  count : State → Piece → State
  /-- it ends: its peer is lost, or every piece has been answered -/
  peer : State → Nat → Dword → State
  finish : State → State

/-- A piece changes. -/
def Stream.set (x : Stream) (s : State) (p : Piece) : State :=
  match x.get s with
  | some f => x.put s (f.put p)
  | none => s

/-- The copy ends where every piece has been answered. -/
def Stream.check (x : Stream) (s : State) : State :=
  match x.get s with
  | some f => if f.over x.carrier.last then x.finish s else s
  | none => s

/-- A piece is answered with an error (R359). -/
def Stream.fail (x : Stream) (s : State) (p : Piece) (sub : Nat) (dst : Dword) : State :=
  match x.get s with
  | some f => x.check (x.failed (x.put s (f.fail p sub dst)) sub dst)
  | none => s

/-- A piece is refused, at an address that missed at another package or for another reason: it waits out the hint, which a newer one
replaces (R23, R360, R365). -/
def Stream.turnAway (x : Stream) (s : State) (p : Piece) (hint : Nat) (missed : Option Dword) : State :=
  let s := x.refused (x.set s { p with st := .refused missed })
  { s with refused := s.refused.filter (fun r => r.who != x.waiter) }.refuse x.waiter hint

/-- A piece does not come through: its peer is lost, an error answers it, a fault holds it, or it is refused (R359 to R362). -/
def Stream.stop (x : Stream) (w : Went) (t : PieceStop) : State :=
  match t.why with
  | .peer p => x.peer w.s p t.dst
  | .check => x.fail w.s w.p 5 t.dst
  | .xl (.cause c) => x.fail w.s w.p (copySub c) t.dst
  | .xl (.refuse h) => x.turnAway w.s w.p h none
  | .xl (.ok _ _) => x.set w.s w.p
  | .xl (.fault d va) =>
    let r := { x.req w.s va with write := t.wr, read := !t.wr }
    if d / 4 = r.who.pkg then x.set (holdFault w.s d r x.waiter) { w.p with st := .held va }
    else
      let s := (recordFault w.s d r).1
      x.turnAway (if w.p.again then uncount s r.who.pkg w.s.dies else s) w.p (s.die d).fhint.toNat (some va)

/-- A message of a piece goes to the package of an address, or comes back from it (R535). -/
def Stream.tell (x : Stream) (s : State) (va : Dword) (back : Bool) (n : Nat) : State :=
  if !(spaceOf va).global then s else if back then transmit s (vaPkg va) x.pkg vcTdat n else transmit s x.pkg (vaPkg va) vcTreq n

/-- The next piece is sent, where none waits before it. -/
def Stream.send (x : Stream) (s : State) : State :=
  match x.get s with
  | none => s
  | some f =>
    if !(x.sends s && !f.waits) || f.err.isSome || decide (x.carrier.last ≤ f.sent) then s
    else x.tell (x.put { s with order := s.order + 1 } (f.send x.carrier s.order)) (x.carrier.near f.sent) false (x.carrier.cut f.sent).1

/-- The first piece in flight; where there is none, the next one is sent. -/
def Stream.head (x : Stream) (s : State) : State × Option Piece :=
  let s := match x.get s with
    | some f => if f.fly.isEmpty then x.send s else s
    | none => s
  (s, (x.get s).bind (·.fly.head?))

/-- The first piece in flight lands (R354, R364, R365): its last bytes are moved, and its barrier object takes it. A piece whose barrier
object stops it has moved its bytes, and moves none again. -/
def Stream.landHead (x : Stream) (s : State) : State :=
  match x.head s with
  | (s, none) => s
  | (s, some p) =>
    if p.st != .go then s
    else
      let w := x.carrier.move (fun _ => true) (fun _ => true) s p
      match w.stop with
      | some t => x.stop w t
      | none =>
        if !w.p.performed then x.set w.s w.p
        else
          match x.land (x.set w.s w.p) w.p with
          | (s, .stop y) => x.stop { w with s := s } { why := .xl y, wr := true, dst := w.p.at_ (x.carrier.near w.p.lo) }
          | (s, .ok _) =>
            let s := x.tell (x.count s w.p) (x.carrier.near w.p.lo) true 0
            match x.get s with
            | some f => x.check (x.put s f.landed)
            | none => s

/-- The occasion of a free choice at a byte of a piece. -/
def stirKey (chan lo i : Nat) : Nat := 2 ^ 200 + (chan * 2 ^ 32 + lo) * 2 ^ 16 + i

/-- Bytes of a piece move as they may: which do is open (R354, R175). -/
def Stream.stirPiece (x : Stream) (s : State) (p : Piece) : Went :=
  x.carrier.move (fun i => Config.raceBytes s.free (stirKey x.key p.lo (2 * i)))
    (fun i => Config.raceBytes s.free (stirKey x.key p.lo (2 * i + 1))) s p

/-- The copy goes on as it may (R352, R354): how many pieces are sent, and which bytes move, is open. -/
def Stream.stir (x : Stream) (s : State) : State :=
  let s := (List.range (Config.racePick s.free (stirKey x.key 0 0))).foldl (fun s _ => x.send s) s
  (((x.get s).map (fun f => f.fly.map (·.lo))).getD []).foldl (fun s lo =>
    match (x.get s).bind (fun f => f.fly.find? (fun p => p.lo == lo && p.st == .go)) with
    | none => s
    | some p =>
      let w := x.stirPiece s p
      match w.stop with
      | none => x.set w.s w.p
      | some t => x.stop w t) s

/-- An error answer to the first piece in flight: each of its bytes is old or copied (R175, R359); 0: a lost peer. -/
def Stream.failHead (x : Stream) (s : State) (sub : Nat) : State :=
  match x.head s with
  | (s, none) => s
  | (s, some p) =>
    let w := x.stirPiece s p
    let dst := w.p.at_ (x.carrier.near p.lo)
    if sub = 0 then x.peer w.s (vaPkg dst) dst else x.fail w.s w.p sub dst

/-- The receiver of the first piece in flight declines it (R360). -/
def Stream.refuseHead (x : Stream) (s : State) (hint : Nat) : State :=
  match x.head s with
  | (s, none) => s
  | (s, some p) => match p.st with
    | .held _ => s
    | _ => x.turnAway s p hint none

/-- A hint has expired, or a replay has come (R360, R361). -/
def Stream.again (x : Stream) (s : State) : State :=
  match x.get s with
  | some f =>
    x.check (x.put s
      (f.again (s.refused.any (fun r => r.who == x.waiter)) (s.dies.any (fun d => d.2.held.any (fun h => h.who == x.waiter)))))
  | none => s

/-- A denial answers the pieces that it covers with an error (R361). -/
def Stream.deny (x : Stream) (s : State) (covers : Dword → Bool) : State :=
  match x.get s with
  | some f => (f.fly.filter (fun p => p.denied covers)).foldl (fun s p => x.fail s p 3 (p.at_ (x.carrier.near p.lo))) s
  | none => s

end Sys2Proof.Machine
end

