-- ==== Sys2Proof/Machine/CopyEng.lean ====
section
/-!
DEFINITION. The copy engine (R351 to R376): batches and their records, channels and their states, the copies that run on them, errors;
RATOM requests; and the fences that wait for them (R177, R182, R544).
-/

namespace Sys2Proof.Machine

/-! ### Batches (R357 to R359) -/

/-- The number after a batch number; 0 is never used. -/
def nextBatch (n : Nat) : Nat := if n = 2 ^ 32 - 1 then 1 else n + 1

/-- The number that the open batch will have. -/
def Batches.openNum (b : Batches) : Nat := nextBatch b.newest

def Batches.update (b : Batches) (num : Nat) (f : Batch → Batch) : Batches :=
  if num = b.openNum then { b with cur := f b.cur } else { b with recs := b.recs.map (fun r => if r.num = num then f r else r) }

/-- A copy or request joins the open batch. -/
def Batch.join (b : Batch) : Batch := { b with left := b.left + 1 }
def Batch.finish (b : Batch) : Batch := { b with left := b.left - 1 }
def Batch.complete (b : Batch) : Bool := b.left == 0
def Batch.hasError (b : Batch) : Bool := b.peer || b.other

/-- An error of a class: 0 PEER, else the COPY_ERROR subcode; only the first of a class is kept (R359). -/
def Batch.err (b : Batch) (sub : Nat) (addr : Dword) : Batch :=
  if sub = 0 then (if b.peer then b else { b with peer := true, peerAddr := addr })
  else if b.other then b else { b with other := true, sub := sub, otherAddr := addr }

/-! ### Fences (R177, R182, R337, R376, R544) -/

/-- A fence whose condition is met makes its cache actions, and becomes ready; at .dom it reports a lost peer (R170, R376, R544). -/
def fenceMet (s : State) (gk : Nat) (p : Pend) : State :=
  match p.wait with
  | .fence k dom t upTo =>
    if fenceOpen s gk k dom upTo then s
    else
      let s := if t then fenceCache k s (clusterOf (s.grp gk).core) else s
      let g := s.grp gk
      let g := { g with pend := g.pend.map (fun q => if q.id = p.id then { q with wait := .ready } else q) }
      s.putGrp gk (if dom then g.fenceErr else g)
  | _ => s

/-- Fences of a group whose conditions are met become ready. -/
def fenceCheck (s : State) (gk : Nat) : State :=
  match s.groups.get? gk with
  | none => s
  | some g => g.pend.foldl (fun s p => fenceMet s gk p) s

/-- A group blocked in CWAIT looks again. -/
def Group.wakeCopy (g : Group) : Group :=
  match g.wait with
  | .cwait _ => { g with wait := .none }
  | _ => g

/-- The batch of a group's copy or request changes. -/
def batchMap (s : State) (gk num : Nat) (f : Batch → Batch) : State :=
  match s.groups.get? gk with
  | none => s
  | some g => { s with groups := s.groups.put gk { g with batches := g.batches.update num f }.wakeCopy }

/-- A copy or a request of a group has ended: its batch counts it (R357). -/
def batchDone (s : State) (gk num : Nat) : State := batchMap s gk num Batch.finish

/-- A copy or a request of a group has met an error (R359). -/
def batchErr (s : State) (gk num sub : Nat) (addr : Dword) : State := batchMap s gk num (fun b => b.err sub addr)

/-! ### Channels (R351 to R365) -/

def State.chan (s : State) (core c : Nat) : Chan := (s.core core).chans.getD c {}
def State.putChan (s : State) (core c : Nat) (x : Chan) : State := s.putCore core { (s.core core) with chans := (s.core core).chans.put c x }

def CopyJob.bytes (j : CopyJob) : Nat := j.n * j.rows

/-- A copy that asks for power (R363). -/
def CopyJob.heavy (j : CopyJob) : Bool := decide (0x10000 < j.bytes)

/-- Delivery ends at PROG = this. -/
def CopyJob.last (j : CopyJob) : Nat :=
  match j.kind with
  | .gather => j.rows
  | .scatter => j.rows
  | _ => j.bytes

/-- What a channel's requests carry (R53, R483). -/
def copyReq (core chan : Nat) (j : CopyJob) (va : Dword) : TransReq :=
  { va := va, asid := j.id.asid, gen := j.id.gen, world := j.id.world, privileged := j.id.privileged, ty := 3
    root := j.id.root, qgen := j.id.qgen
    who := { pkg := pkgOfCore core, die := dieOfCore core % 4, core := core % 96, slot := chan, eng := true } }

/-- The head copy begins: it asks for power, or runs (R363, R365). -/
def startHead (s : State) (core chan : Nat) : State :=
  let c := s.chan core chan
  match c.queue with
  | [] => s.putChan core chan { c with st := if c.st = .stop then .stop else .idle }
  | j :: _ =>
    if c.st = .stop then s
    else if j.heavy then powerAsk (s.putChan core chan { c with st := .grant }) (dieOfCore core) (.copy core chan) 2
    else s.putChan core chan { c with st := .run }

/-- Where the piece at an offset goes, as far as that needs no index (R369). -/
def CopyJob.near (j : CopyJob) (off : Nat) : Dword :=
  match j.kind with
  | .line => j.dst + BitVec.ofNat 64 off
  | .rect => j.dst + BitVec.ofNat 64 (off / j.n * j.dstr + off % j.n)
  | .gather => j.dst + BitVec.ofNat 64 (off * j.n)
  | .scatter => j.dst

/-- The end of a copy (R372). DESIGN CHOICE: of a scatter that has not landed to its end, where its delivery stopped (log 97). -/
def CopyJob.end_ (j : CopyJob) (wptr : Dword) : Dword :=
  match j.kind with
  | .rect => if j.bytes = 0 then j.dst else j.dst + BitVec.ofNat 64 ((j.rows - 1) * j.dstr + j.n)
  | .scatter => if j.flow.prog = 0 then j.dst else wptr
  | _ => j.dst + BitVec.ofNat 64 j.bytes

/-- The head copy completes (R359, R372). -/
def copyDone (s : State) (core chan : Nat) : State :=
  let c := s.chan core chan
  match c.queue with
  | [] => s
  | j :: rest =>
    let s := s.putChan core chan { c with queue := rest, wptr := j.end_ c.wptr, st := if c.st = .stop then .stop else .idle }
    let s := if j.heavy then powerEnd s (dieOfCore core) (.copy core chan) else s
    startHead (fenceCheck (batchDone s j.grp j.batch) j.grp) core chan

/-! ### The bytes of a copy (R156, R173, R356, R366, R368) -/

/-- The issuing cluster gives up its copies of a tensor line, dirty bytes written back first (R156). -/
def dropTensor (s : State) (cl phys : Nat) : State :=
  let s := stashEvent s cl (fun e => e.phys == phys && !tagCtl e.tag) true
  ((s.cluster cl).lines.filter (fun e => e.2.phys == phys && !tagCtl e.1)).foldl (fun s e => dropLine s cl e.1) s

/-- A tensor address of the issuing core's package. -/
def ownTensor (core : Nat) (va : Dword) : Bool := decide (spaceOf va = .tensor) && vaPkg va == pkgOfCore core

/-- Bytes that a copy reads: a same-package tensor line through the issuing cluster's CLC, a local window at the core port, anything
else at its point of coherence (R173). -/
def copyRead (s : State) (core : Nat) (gk : Nat) (r : TransReq) (n : Nat) : State × Acc (List Byte) :=
  if ownTensor core r.va then readGlobal s core r 0 n
  else if (spaceOf r.va).global then pocRead s r n
  else laneRead s gk r 0 0 n

/-- Bytes that a copy writes, at their point of coherence; the hint marks tensor lines in the MSC (R156, R353, R366). -/
def copyWrite (s : State) (core gk seq : Nat) (r : TransReq) (hint : Nat) (bs : List Byte) : State × Acc Unit :=
  let r := { r with write := true, read := false }
  if !(spaceOf r.va).global then laneWrite s gk seq r 16 hint bs
  else if !ownTensor core r.va then pocWrite s r bs hint
  else
    match xlate s r with
    | (s, .ok pa _) => pocWrite (dropTensor s (clusterOf core) (pa / 128)) r bs hint
    | (s, x) => (s, .stop x)

/-- A byte is read: one that the group has stored since the copy was issued has a value from before or after (R173). -/
def copyFetch (s : State) (core : Nat) (j : CopyJob) (r : TransReq) : State × Acc (List Byte) :=
  match copyRead s core j.grp r 1 with
  | (s, .ok bs) => (s, .ok ((s.grp j.grp).seenBytes s.free j.seq (placesOf s j.grp 0 r.va 1) bs))
  | x => x

/-- A byte is written: one that the group has stored since the copy was issued, or that another channel's copy has landed and no CWAIT
has waited for, takes either value (R173, R356). -/
def copyPut (s : State) (core chan : Nat) (j : CopyJob) (r : TransReq) (bs : List Byte) : State × Acc Unit :=
  let g := s.grp j.grp
  let others := fun (b : Lander) => match b with
    | .copy _ c => c != chan
    | .tile _ => true
  let at_ := placesOf s j.grp 0 r.va bs.length
  let late := fun (p : Nat × Nat) => g.storedAfter j.seq p || g.landedBy others p
  let out :=
    if g.stores.isEmpty && g.landed.isEmpty then bs
    else match (copyRead s core j.grp { r with read := true, write := false } bs.length).2 with
      | .ok old => eitherBytes late s.free 2 at_ old bs
      | .stop _ => bs
  match copyWrite s core j.grp j.seq r j.hint out with
  | (s, .ok _) => (s.noteLanded j.grp (.copy j.batch chan) at_, .ok ())
  | x => x

/-- The 16-byte barrier object of a copy takes a landing of n bytes (R313, R368). -/
def copyLand (s : State) (core chan : Nat) (j : CopyJob) (n : Nat) : State × Acc Unit :=
  match j.bar with
  | none => (s, .ok ())
  | some va =>
    let r := { copyReq core chan j va with write := true }
    match laneRead s j.grp r 0 0 16 with
    | (s, .stop x) => (s, .stop x)
    | (s, .ok bs) =>
      let d := (Bar.ofBytes bs).land n
      match laneWrite s j.grp j.seq r 16 0 d.bar.bytes with
      | (s, .stop x) => (s, .stop x)
      | (s, .ok _) => (if d.wake then wakeBar s (bytePlace s (s.grp j.grp) 0 va) else s, .ok ())

/-- The address of an index of a CPYG. -/
def CopyJob.idxAt (j : CopyJob) (k : Nat) : Dword := j.idx + BitVec.ofNat 64 (4 * k)

/-- An index of a CPYG, read at its point of coherence after the group's stores to it (R368): what the cluster holds of a same-package
tensor list is written back first. -/
def copyIndex (s : State) (core chan : Nat) (j : CopyJob) (k : Nat) : State × Acc Nat :=
  let r := copyReq core chan j (j.idxAt k)
  let cl := clusterOf core
  let s :=
    if ownTensor core r.va then
      (chunksOf r.va 4).foldl (fun s c =>
        let tag := reqTag s { r with va := c.1 }
        wbLine (stashEvent s cl (fun e => e.tag == tag) false) cl tag) s
    else s
  match (if (spaceOf r.va).global then pocRead s r 4 else laneRead s j.grp r 0 0 4) with
  | (s, .ok bs) => (s, .ok (bytesNat bs))
  | (s, .stop x) => (s, .stop x)

/-- The spaces of either end of a copy (R44). -/
def copyAllow : Space → Bool → Bool
  | .reserved, _ => false
  | .priv, _ => false
  | _, _ => true

/-- The piece at an offset: its bytes, and the offset after it (R353). -/
def CopyJob.cut (j : CopyJob) (off : Nat) : Nat × Nat :=
  let page := 4096 - (j.near off).toNat % 4096
  match j.kind with
  | .line => (min page (j.n - off), off + min page (j.n - off))
  | .rect => (min page (j.n - off % j.n), off + min page (j.n - off % j.n))
  | .gather => (j.n, off + 1)
  | .scatter => (j.n, off + 1)

/-- Where the bytes of a piece go and come from (R369). -/
def CopyJob.ends (core chan : Nat) (j : CopyJob) (s : State) (off : Nat) : State × Acc (Dword × Dword) :=
  let at_ := fun (a : Dword) (k : Nat) => a + BitVec.ofNat 64 k
  match j.kind with
  | .line => (s, .ok (j.near off, at_ j.src off))
  | .rect => (s, .ok (j.near off, at_ j.src (off / j.n * j.sstr + off % j.n)))
  | .gather =>
    match copyIndex s core chan j off with
    | (s, .ok x) => (s, .ok (j.near off, at_ j.src (x * j.n)))
    | (s, .stop x) => (s, .stop x)
  | .scatter =>
    match copyIndex s core chan j off with
    | (s, .ok x) => (s, .ok (at_ j.dst (x * j.n), at_ j.src (off * j.n)))
    | (s, .stop x) => (s, .stop x)

/-- Checks 1 to 7 of an indexed element: its first failing address (R359, R367). -/
def CopyJob.badElement (j : CopyJob) (s : State) (d src : Dword) (n : Nat) : Option Dword :=
  let fail := fun (a : Dword) => (extentCheck s (s.grp j.grp) copyAllow a n).map (·.2)
  match j.kind with
  | .gather => fail src
  | .scatter => fail d
  | _ => none

/-! ### Flows between packages (R25, R182, R539) -/

/-- The line and the package of a RATOM request. -/
def RatomReq.line (r : RatomReq) : Nat :=
  match r.accs with
  | a :: _ => a.va.toNat / 128
  | [] => 0

def RatomReq.pkg (r : RatomReq) : Nat :=
  match r.accs with
  | a :: _ => vaPkg a.va
  | [] => 0

/-- The die whose memory side performs a RATOM request (R374). -/
def RatomReq.die (r : RatomReq) : Nat :=
  match r.accs with
  | a :: _ => transDie a.va
  | [] => 0

/-- The unacknowledged requests of class 0 of a die to a package: copy pieces and RATOM requests. -/
def dieReqs (s : State) (dk dest : Nat) : List (Nat × Bool) :=
  (s.groups.filter (fun e => s.onCore e.2 e.2.core && dieOfCore e.2.core == dk)).flatMap (fun e =>
    (e.2.ratoms.filter (fun r => r.pkg == dest)).map (fun r => (r.order, r.done))) ++
  (s.cores.filter (fun c => dieOfCore c.1 == dk)).flatMap (fun c => c.2.chans.flatMap (fun x => x.2.queue.flatMap (fun j => j.flow.reqs dest)))

/-- A request of class 0 of a die to a package waits for its flow. -/
def dieHolds (s : State) (dk dest order : Nat) : Bool := flowHolds s (dk / 4) dest (4 * (dk % 4)) order (dieReqs s dk dest)

/-- What moves the bytes of a core's copy. -/
def CopyJob.carrier (core chan : Nat) (j : CopyJob) : Carrier where
  last := j.last
  cut := j.cut
  ends := j.ends core chan
  index := fun off => match j.kind with
    | .gather => j.idxAt off
    | .scatter => j.idxAt off
    | _ => j.near off
  near := j.near
  bad := j.badElement
  up := fun s => upVa s (pkgOfCore core)
  behind := fun s a order => (spaceOf a).global && dieHolds s (dieOfCore core) (vaPkg a) order
  lost := fun s => lostVa s (pkgOfCore core)
  read := fun s a => copyFetch s core j (copyReq core chan j a)
  write := fun s a bs => copyPut s core chan j { copyReq core chan j a with write := true, read := false } bs

/-! ### Lost packages (R362, R376) -/

/-- A package that a copy needs and that has been lost: that of an end, of its index list, or of an element in flight. -/
def CopyJob.lost (s : State) (pkg : Nat) (j : CopyJob) : Option Nat :=
  let list := match j.kind with
    | .gather => [j.idxAt j.flow.prog]
    | .scatter => [j.idxAt j.flow.prog]
    | _ => []
  ([j.dst, j.src] ++ list ++ j.flow.fly.flatMap (fun p => match p.ends with
    | some (d, src) => [d, src]
    | none => [])).findSome? (lostVa s pkg)

/-- A copy that a TFENCE of its group waits for loses its peer (R376). -/
def fenceLost (s : State) (j : CopyJob) (pkg : Nat) : State :=
  let g := s.grp j.grp
  let waits := g.pend.any (fun p => match p.wait with
    | .fence .tfence _ _ upTo => decide (j.seq ≤ upTo)
    | _ => false)
  if waits then s.putGrp j.grp { g with lostPkg := some pkg } else s

/-- The head copy loses its peer: it completes, and what it has in flight is abandoned (R362). -/
def copyPeer (s : State) (core chan : Nat) (j : CopyJob) (pkg : Nat) (dst : Dword) : State :=
  copyDone (batchErr (fenceLost s j pkg) j.grp j.batch 0 dst) core chan

/-! ### Channels that run (R354, R355, R360, R364, R365) -/

/-- The head copy's pieces change; the channel leaves HOLD once no piece waits out a hint (R365). -/
def putFlow (s : State) (core chan : Nat) (f : Flow) : State :=
  let c := s.chan core chan
  match c.queue with
  | [] => s
  | j :: rest =>
    s.putChan core chan { c with queue := { j with flow := f } :: rest, st := if c.st = .hold && !f.refusing then .run else c.st }

/-- A piece is refused (R360): REF rises, and the channel waits out the hint. -/
def copyRefused (s : State) (core chan : Nat) : State :=
  let c := s.chan core chan
  s.putChan core chan { c with ref := if c.ref = 0xFFFFFFFF#32 then c.ref else c.ref + 1, st := if c.st = .stop then .stop else .hold }

/-- The first piece not counted has landed: WPTR and LCNT take it (R354, R355). -/
def copyCount (s : State) (core chan : Nat) (p : Piece) : State :=
  let c := s.chan core chan
  match c.queue, p.ends with
  | j :: _, some (d, _) =>
    if p.lo = j.flow.prog then s.putChan core chan { c with wptr := d + BitVec.ofNat 64 p.n, lcnt := c.lcnt + BitVec.ofNat 64 p.n } else s
  | _, _ => s

/-- A copy as its channel runs it. -/
def CopyJob.stream (core chan : Nat) (j : CopyJob) : Stream where
  carrier := j.carrier core chan
  pkg := pkgOfCore core
  waiter := .copy core chan
  key := core * 8 + chan
  req := fun _ => copyReq core chan j
  get := fun s => match (s.chan core chan).queue with
    | x :: _ => if x.grp = j.grp ∧ x.seq = j.seq then some x.flow else none
    | [] => none
  put := fun s => putFlow s core chan
  sends := fun s => (s.chan core chan).st = .run
  refused := fun s => copyRefused s core chan
  failed := fun s sub dst => batchErr s j.grp j.batch sub dst
  land := fun s p => copyLand s core chan j p.n
  count := fun s => copyCount s core chan
  peer := fun s => copyPeer s core chan j
  finish := fun s => copyDone s core chan

/-- Something happens to the head copy of a channel. -/
def onHead (s : State) (core chan : Nat) (f : Stream → State → State) : State :=
  match (s.chan core chan).queue with
  | j :: _ => f (j.stream core chan) s
  | [] => s

/-- COPY_PIECE_LAND: the first piece in flight lands (R365). -/
def copyLandEvent (s : State) (core chan : Nat) : State := onHead s core chan Stream.landHead

/-- The copies of a channel go on as they may (R354). -/
def copyStir (s : State) (core chan : Nat) : State := onHead s core chan Stream.stir

/-- The hint of a refused piece has expired, or a replay has come (R360, R361, R365). -/
def copyResend (s : State) (core chan : Nat) : State := onHead s core chan Stream.again

/-- A denial answers the pieces that it covers with subcode 3 (R361). -/
def denyCopy (s : State) (core chan : Nat) (covers : Dword → Bool) : State := onHead s core chan (fun x s => x.deny s covers)

/-- Heads whose power has been granted run (R365). -/
def copyGranted (s : State) (dk : Nat) : State :=
  (s.die dk).granted.foldl (fun s r => match r.who with
    | .copy core chan => if (s.chan core chan).st = .grant ∧ !r.ended then s.putChan core chan { (s.chan core chan) with st := .run } else s
    | _ => s) s

/-- A copy is accepted (R351, R362, R367): it joins its batch and the channel's queue; one of no bytes, or with a lost end, is
complete at once. -/
def copyAccept (s : State) (gk core chan : Nat) (j : CopyJob) : State :=
  let num := (s.grp gk).batches.openNum
  let s := batchMap s gk num Batch.join
  let j := { j with batch := num }
  let c := s.chan core chan
  let ended := if c.queue.isEmpty then s.putChan core chan { c with wptr := j.end_ j.dst } else s
  if j.bytes = 0 then batchDone ended gk num
  else
    match j.lost s (pkgOfCore core) with
    | some _ => batchDone (batchErr ended gk num 0 j.dst) gk num
    | none =>
      let s := s.putChan core chan { c with queue := c.queue ++ [j] }
      if c.queue.isEmpty then startHead s core chan else s

/-! ### RATOM (R373 to R375) -/

/-- Requests to one line each, lanes in ascending order (R374). -/
def ratomSplit (accs : List LaneAcc) : List (List LaneAcc) :=
  ((accs.map (fun a => a.va.toNat / 128)).eraseDups).map (fun l => accs.filter (fun a => a.va.toNat / 128 == l))

def setRatom (s : State) (gk : Nat) (r : RatomReq) (i : Nat) : State :=
  let g := s.grp gk
  { s with groups := s.groups.put gk { g with ratoms := g.ratoms.set i r } }

/-- A request waits behind an older store of one of its lanes, which the burrow still holds, to one of its bytes (R152). -/
def ratomLogged (s : State) (gk : Nat) (r : RatomReq) : Bool :=
  let g := s.grp gk
  (burrowOf s gk).any (fun e => decide (e.seq < r.seq) && e.lanes.any (fun l => !l.done &&
    r.accs.any (fun a => g.vis a.lane == g.vis l.lane && (placesOf s gk (g.vis l.lane) l.va l.bytes.length).any (placesOf s gk 0 a.va r.n).contains)))

/-- One lane of a request: an atomic step at the memory side of the owning MSC (R374). -/
def ratomLane (gk : Nat) (r : RatomReq) (s : State) (a : LaneAcc) : State × Acc (List (Nat × Word)) :=
  let g := s.grp gk
  let vl := g.vis a.lane
  let q := { g.req 2 a.va with write := true }
  match ownAtomic s gk r.seq vl a.va r.n (atomBytes r.op r.n a.b.toNat a.c.toNat)
      (memSide s g.core q 0 r.n (some { grp := gk, lane := vl, seq := r.seq })) with
  | (s, .ok old) => (s, .ok (loadOuts g r.dst a.lane (wordsOf r.n (bytesNat old) false)))
  | (s, .stop x) => (s, .stop x)

/-- A request does not come through (R359 to R361): its batch takes an error, a fault holds it, or it is refused. -/
def ratomStop (s : State) (gk i : Nat) (r : RatomReq) (a : LaneAcc) (x : Xl) : State :=
  match x with
  | .cause c => setRatom (batchErr s gk r.batch (copySub c) a.va) gk { r with done := true } i
  | .fault d va =>
    setRatom (holdFault s d { (s.grp gk).req 2 va with write := true } (.ratom gk r.num)) gk { r with held := true } i
  | .refuse h => setRatom (s.refuse (.ratom gk r.num) h) gk { r with held := true } i
  | .ok _ _ => s

/-- A request is performed (R374), where no earlier one of the group to its line is unacknowledged (R375). The lanes share one line, so
that what stops one of them stops the first. -/
def ratomPerform (s : State) (gk i : Nat) : State :=
  let g := s.grp gk
  match g.ratoms[i]? with
  | none => s
  | some r =>
    if r.done || r.held || (g.ratoms.take i).any (fun x => x.line == r.line) || ratomLogged s gk r then s
    else if s.lostTo (pkgOfCore g.core) r.pkg || !pathUp s (pkgOfCore g.core) r.pkg ||
      dieHolds s (dieOfCore g.core) r.pkg r.order then s
    else
      match eachAcc (ratomLane gk r) r.accs s with
      | (s, .ok outs) => fenceCheck (setRatom s gk { r with done := true, outs := if r.pend.isSome then outs.flatten else [] } i) gk
      | (s, .stop x) =>
        match r.accs with
        | a :: _ => ratomStop s gk i r a x
        | [] => s

/-- An acknowledgement returns (R375), or the loss of the peer ends the request with all ones (R362). -/
def ratomEnd (s : State) (gk i : Nat) : State :=
  let g := s.grp gk
  match g.ratoms[i]? with
  | none => s
  | some r =>
    let lost := !r.done && s.lostTo (pkgOfCore g.core) r.pkg
    if !r.done && !lost then s
    else
      let ones := r.accs.flatMap (fun a => loadOuts g r.dst a.lane (List.replicate (max 1 (r.n / 4)) 0xFFFFFFFF#32))
      let outs := if lost then ones else r.outs
      let pend := g.pend.map (fun p =>
        if r.pend = some p.id then
          match p.wait with
          | .ratom n => { p with outs := p.outs ++ outs, wait := if n ≤ 1 then .ready else .ratom (n - 1) }
          | _ => p
        else p)
      let g := { g with ratoms := g.ratoms.eraseIdx i, pend := pend, lostPkg := if lost then some r.pkg else g.lostPkg }
      let g := if lost && r.pend.isSome && !g.trap.trapen.getLsbD 1 then g.setErr 1#32 else g
      let s := { s with groups := s.groups.put gk g }
      let addr := match r.accs with
        | a :: _ => a.va
        | [] => 0
      let s := if lost then batchErr s gk r.batch 0 addr else transmit s r.pkg (pkgOfCore g.core) vcTdat (r.accs.length * r.n)
      fenceCheck (batchDone s gk r.batch) gk

/-- The place of a request in its group's list. -/
def ratomIdx (g : Group) (n : Nat) : Option Nat := (List.range g.ratoms.length).find? (fun i => match g.ratoms[i]? with
  | some r => r.num == n
  | none => false)

/-- A replay or an expired hint retries a request. -/
def ratomRetry (s : State) (gk n : Nat) : State :=
  let g := s.grp gk
  match ratomIdx g n with
  | none => s
  | some i =>
    match g.ratoms[i]? with
    | none => s
    | some r => ratomPerform (setRatom s gk { r with held := false } i) gk i

/-- A denial ends a held request with an error of its batch (R359). -/
def denyRatom (s : State) (gk n : Nat) (covers : Dword → Bool) : State :=
  let g := s.grp gk
  match ratomIdx g n with
  | none => s
  | some i =>
    match g.ratoms[i]? with
    | none => s
    | some r =>
      match r.accs with
      | a :: _ =>
        if r.held && covers a.va then
          setRatom (batchErr s gk r.batch 3 a.va) gk { r with held := false, done := true } i
        else s
      | [] => s

/-- Unacknowledged requests of a core (R375). -/
def ratomsOut (s : State) (core : Nat) : Nat :=
  ((s.groups.filter (fun e => s.onCore e.2 core)).map (fun e => e.2.ratoms.length)).sum

end Sys2Proof.Machine
end

