-- ==== Sys2Proof/Machine/SolverEng.lean ====
section
/-!
DEFINITION. The solver engine (R400 to R414): a batch's descriptor and records, the arithmetic of a step, the actions of the
loop, and the controls.
-/

namespace Sys2Proof.Machine

def State.solver (s : State) (die b : Nat) : SolverBatch := (s.die die).solver.getD b {}
def State.putSolver (s : State) (die b : Nat) (x : SolverBatch) : State :=
  s.putDie die { (s.die die) with solver := (s.die die).solver.put b x }

/-! ### The descriptor (R401, R402) -/

/-- Word i of a descriptor, and the pair at word i. -/
def descW (d : List Word) (i : Nat) : Word := d.getD i 0
def descD (d : List Word) (i : Nat) : Dword := descW d (i + 1) ++ descW d i

namespace SolverBatch

def hn (x : SolverBatch) : Nat := bits (descW x.desc 1).toNat 20 4
def stages (x : SolverBatch) : Nat := bits (descW x.desc 1).toNat 8 4
def fmt (x : SolverBatch) : Nat := bits (descW x.desc 1).toNat 0 4
def n (x : SolverBatch) : Nat := (descW x.desc 2).toNat
def ns (x : SolverBatch) : Nat := bits (descW x.desc 3).toNat 16 11
def first (x : SolverBatch) : Nat := bits (descW x.desc 3).toNat 0 10
def atol (x : SolverBatch) : XReal := val32 (descW x.desc 4)
def rtol (x : SolverBatch) : XReal := val32 (descW x.desc 5)
def hmin (x : SolverBatch) : XReal := val32 (descW x.desc 6)
def hmax (x : SolverBatch) : XReal := val32 (descW x.desc 7)
def evb (x : SolverBatch) : Dword := descD x.desc 8
def ready (x : SolverBatch) : Dword := descD x.desc 10
def doneev (x : SolverBatch) : Dword := descD x.desc 12
def bdone (x : SolverBatch) : Dword := descD x.desc 14
def srec (x : SolverBatch) : Dword := descD x.desc 16
def cW (x : SolverBatch) (i : Nat) : XReal := val32 (descW x.desc (32 + i))
def bW (x : SolverBatch) (i : Nat) : XReal := val32 (descW x.desc (40 + i))
def beW (x : SolverBatch) (i : Nat) : XReal := val32 (descW x.desc (48 + i))
def aW (x : SolverBatch) (i j : Nat) : XReal := val32 (descW x.desc (56 + 8 * i + j))
/-- The weights of history vector m, counted from 1. -/
def ahW (x : SolverBatch) (i m : Nat) : XReal := val32 (descW x.desc (120 + 4 * i + (m - 1)))
def bhW (x : SolverBatch) (m : Nat) : XReal := val32 (descW x.desc (152 + (m - 1)))
def behW (x : SolverBatch) (m : Nat) : XReal := val32 (descW x.desc (156 + (m - 1)))
def rtW (x : SolverBatch) (k : Nat) : XReal := val32 (descW x.desc (160 + k))

/-- Element bytes, and VS (R404). -/
def eb (x : SolverBatch) : Nat := if x.fmt = 1 then 2 else 4
def vbytes (x : SolverBatch) : Nat := x.n * x.eb
def vs (x : SolverBatch) : Nat := (x.vbytes + 127) / 128 * 128

def efmt (x : SolverBatch) : FFmt := if x.fmt = 1 then bf16 else fp32

end SolverBatch

/-- A positive finite number, and one that is finite. -/
def isPos (x : XReal) : Bool := x.isFin && !x.isZero && !x.neg?
def isFinite (x : XReal) : Bool := x.isFin

/-- An address lies in tensor space of a die, aligned. -/
def inTensor (die : Nat) (va : Dword) (align : Nat) : Bool :=
  va.toNat % align == 0 && spaceOf va == .tensor && transDie va == die

/-- An address lies in control space homed on a package, aligned. -/
def inControl (pkg : Nat) (va : Dword) (align : Nat) : Bool :=
  va.toNat % align == 0 && spaceOf va == .control && vaPkg va == pkg

/-- Some field breaks R401 or R402. -/
def descBad (die : Nat) (x : SolverBatch) : Bool :=
  let d := x.desc
  let zero := fun (v : XReal) => v.isZero
  descW d 0 != 1 || (descW d 1 &&& 0xFF00F0F0#32) != 0 || (descW d 3 &&& 0xF800FC00#32) != 0 ||
  (List.range 14).any (fun i => descW d (18 + i) != 0) || (List.range 32).any (fun i => descW d (224 + i) != 0) ||
  decide (4 < x.hn) || decide (8 < x.stages) || x.stages == 0 || bits (descW d 1).toNat 16 4 == 0 ||
  decide (8 < bits (descW d 1).toNat 16 4) || decide (1 < x.fmt) || x.n == 0 || decide (16384 < x.n) || x.ns == 0 ||
  decide (1024 < x.ns) || decide (1024 < x.first + x.ns) ||
  !isPos x.atol || !(isPos x.rtol || descW d 5 == 0) || !isPos x.hmin || !isFinite x.hmax || XReal.lt x.hmax x.hmin ||
  (List.range 128).any (fun i => !isFinite (val32 (descW d (32 + i)))) ||
  (List.range 64).any (fun k => !isPos (x.rtW k)) ||
  (List.range 8).any (fun i => decide (x.stages ≤ i) && !(zero (x.cW i) && zero (x.bW i) && zero (x.beW i))) ||
  (List.range 8).any (fun i => (List.range 8).any (fun j => (decide (i ≤ j) || decide (x.stages ≤ i)) && !zero (x.aW i j))) ||
  (List.range 4).any (fun k => decide (x.hn ≤ k) &&
    !(zero (x.bhW (k + 1)) && zero (x.behW (k + 1)) && (List.range 8).all (fun i => zero (x.ahW i (k + 1))))) ||
  !inTensor die x.evb 128 || !inControl (die / 4) x.ready 16 || !inControl (die / 4) x.doneev 16 ||
  !inControl (die / 4) x.bdone 16 || !(inControl (die / 4) x.srec 64 || inTensor die x.srec 64)

/-! ### Records (R403) -/

/-- The words of a record. -/
def Sample.words (p : Sample) : List Word :=
  [p.t, p.h, p.tend, BitVec.ofNat 32 (p.acc * 65536 + p.rej * 4096 + p.status), p.xaddr.setWidth 32, (p.xaddr >>> 32).setWidth 32,
    p.waddr.setWidth 32, (p.waddr >>> 32).setWidth 32, p.err, BitVec.ofNat 32 p.nrej] ++ List.replicate 6 0

/-- What SCONF takes of a record, with the fields that it resets. -/
def Sample.ofBytes (bs : List Byte) : Sample :=
  let w := fun i => BitVec.ofNat 32 (bytesNat ((bs.drop (4 * i)).take 4))
  { t := w 0, h := w 1, tend := w 2, xaddr := w 5 ++ w 4, waddr := w 7 ++ w 6 }

/-- The record breaks R402. -/
def Sample.bad (die : Nat) (p : Sample) : Bool :=
  !inTensor die p.xaddr 128 || !inTensor die p.waddr 128 || !isFinite (val32 p.t) || !isFinite (val32 p.tend) || !isPos (val32 p.h)

def wordBytes (ws : List Word) : List Byte := ws.flatMap (fun w => natBytes 4 w.toNat)

/-- The record of a slot. -/
def SolverBatch.recAddr (x : SolverBatch) (n : Nat) : Dword := x.srec + BitVec.ofNat 64 (64 * (n - x.first))

/-! ### Arithmetic (R405 to R408) -/

/-- RoundF of x + w × y. -/
def fmaR (x w y : XReal) : XReal := rne32 (XReal.add .rne x (XReal.mul w y))

/-- One term of a sum over the elements. -/
def sumTerm (u : List XReal) (w : XReal) (k : List XReal) : List XReal := List.zipWith (fun a b => fmaR a w b) u k

def sumTerms (u : List XReal) (ts : List (XReal × List XReal)) : List XReal := ts.foldl (fun u t => sumTerm u t.1 t.2) u

/-- RoundF of a difference. -/
def subR (x y : XReal) : XReal := rne32 (XReal.add .rne x y.negate)
def mulR (x y : XReal) : XReal := rne32 (XReal.mul x y)
def divR (x y : XReal) : XReal := rne32 (divX x y 32)

def maxX (x y : XReal) : XReal := if XReal.lt x y then y else x
def minX (x y : XReal) : XReal := if XReal.lt y x then y else x

/-- The larger of two magnitudes; a NaN stands. -/
def maxMag (x y : XReal) : XReal := if x.isNan then x else if y.isNan then y else maxX x.abs y.abs

/-- One level of the norm's tree. -/
def pairUp : List Pair → List Pair
  | a :: b :: t => pairAdd a b :: pairUp t
  | t => t

def pairTree : Nat → List Pair → List Pair
  | 0, v => v
  | k + 1, v => pairTree k (pairUp v)

/-- Norm(q) of R407. -/
def normOf (q : List XReal) : XReal :=
  let n := q.length
  let lg := if n ≤ 1 then 0 else (n - 1).log2 + 1
  let v := q.map (fun x => blockPair (XReal.mul x x)) ++ List.replicate (2 ^ lg - n) Pair.zero
  let s := val32 (collapse ((pairTree lg v).headD Pair.zero))
  rne32 (sqrtX (divR s (XReal.ofInt n 0 false)) 32)

/-- The bucket of err (R408). -/
def bucketOf (err : XReal) : Nat :=
  match err with
  | .fin _ m e =>
    let lg := m.log2
    let f := m * 8 / 2 ^ lg - 8
    (max 0 (min 63 (8 * ((lg : Int) + e) + f + 32))).toNat
  | .zero _ => 0
  | _ => 63

/-- The weights and vectors of a sum: B and BH, or the differences of R405. -/
def SolverBatch.terms (x : SolverBatch) (h : XReal) (w : Nat → XReal) (wh : Nat → XReal) (ks hs : List (List XReal)) :
    List (XReal × List XReal) :=
  (List.range x.stages).map (fun j => (mulR h (w j), ks.getD j [])) ++
    (List.range x.hn).map (fun m => (mulR h (wh (m + 1)), hs.getD m []))

/-- The stage input (R406). -/
def stageIn (x : SolverBatch) (p : Sample) (xs : List XReal) (ks hs : List (List XReal)) : List XReal :=
  let h := val32 p.h
  sumTerms xs
    ((List.range x.stage).map (fun j => (mulR h (x.aW x.stage j), ks.getD j [])) ++
      (List.range x.hn).map (fun m => (mulR h (x.ahW x.stage (m + 1)), hs.getD m [])))

/-- The new state and err (R407). -/
def attempt (x : SolverBatch) (p : Sample) (xs : List XReal) (ks hs : List (List XReal)) : List XReal × XReal :=
  let h := val32 p.h
  let xn := sumTerms xs (x.terms h x.bW x.bhW ks hs)
  let d := sumTerms (xs.map (fun _ => XReal.zero false))
    (x.terms h (fun j => subR (x.bW j) (x.beW j)) (fun m => subR (x.bhW m) (x.behW m)) ks hs)
  let q := List.zipWith (fun (a : XReal × XReal) e => divR e (fmaR x.atol x.rtol (maxMag a.1 a.2))) (xs.zip xn) d
  (xn, normOf q)

/-- The decision on an attempt (R408): whether it is accepted, and the sample after it. -/
def decideSample (x : SolverBatch) (p : Sample) (err : XReal) : Bool × Sample :=
  let k := bucketOf err
  let t := val32 p.t
  let h := val32 p.h
  let tend := val32 p.tend
  let ok := XReal.le err (XReal.ofInt 1 0 false)
  let p1 : Sample :=
    if ok then
      let t' := rne32 (XReal.add .rne t h)
      let w := if XReal.eq h (subR tend t) || XReal.le tend t' then p.tend else bits32 t'
      { p with t := w, acc := min (p.acc + 1) 0xFFFF, rej := 0, status := if XReal.eq (val32 w) tend then 3 else p.status }
    else
      { p with rej := p.rej + 1, nrej := min (p.nrej + 1) (2 ^ 32 - 1), status := if 8 < p.rej + 1 then 4 else p.status }
  let h' := minX (maxX (mulR h (x.rtW k)) x.hmin) x.hmax
  let h'' := if p1.status = 2 then minX h' (subR tend (val32 p1.t)) else h'
  (ok, { p1 with h := bits32 h'', err := bits32 err })

/-- What SSTART makes of a READY sample (R412). -/
def startSample (x : SolverBatch) (p : Sample) : Sample :=
  if XReal.le (val32 p.tend) (val32 p.t) then { p with status := 3 }
  else
    let h := minX (maxX (val32 p.h) x.hmin) x.hmax
    { p with status := 2, h := bits32 (minX h (subR (val32 p.tend) (val32 p.t))) }

/-! ### Accesses (R400, R410, R414) -/

/-- What a batch's requests carry (R53, R400, R483). -/
def solvReq (die : Nat) (id : LaunchId) (va : Dword) (wr : Bool) : TransReq :=
  { va := va, asid := id.asid, gen := id.gen, world := id.world, privileged := id.privileged, read := !wr, write := wr, ty := 5
    root := id.root, qgen := id.qgen
    who := { pkg := die / 4, die := die % 4, core := 0x7E, slot := Config.engineSlot, eng := true } }

/-- What an access of an action comes to: done; held; the sample's vectors fault; or the batch ends with a code, at a record
or elsewhere. -/
inductive Solv (α : Type) where
  | ok (a : α)
  | held
  | bad
  | stop (code : Nat) (slot : Option Nat)
  deriving DecidableEq, Repr

/-- The pieces of a range translate, in order: what stops the first that does not, its address, and the bytes before it. -/
def probeList (deny : List Nat) (r : TransReq) : List (Dword × Nat) → Nat → State → State × Option (Xl × Dword) × Nat
  | [], k, s => (s, none, k)
  | (va, n) :: cs, k, s =>
    if deny.contains (va.toNat / 65536) then (s, some (.cause causeAccess, va), k)
    else
      match pocOpen s { r with va := va } with
      | (s, .ok _) => probeList deny r cs (k + n) s
      | (s, .stop x) => (s, some (x, va), k)

def probe (s : State) (deny : List Nat) (r : TransReq) (n : Nat) : State × Option (Xl × Dword) × Nat :=
  probeList deny r (chunksOf r.va n) 0 s

/-- A batch is held: on a translation fault, which is recorded, or on a MOVING page (R414). -/
def solvHold (s : State) (die b : Nat) (r : TransReq) (x : Xl) (w : Waiter) : State :=
  let s := s.putSolver die b { (s.solver die b) with held := true, va := r.va }
  match x with
  | .fault d fva => holdFault s d { r with va := fva } w
  | .refuse h => s.refuse w h
  | _ => s

/-- A range may be accessed by a batch's action. -/
def solvOpen (s : State) (die b : Nat) (va : Dword) (n : Nat) (wr : Bool) : State × Solv Nat :=
  let x := s.solver die b
  let r := solvReq die x.id va wr
  match probe s x.deny r n with
  | (s, none, k) => (s, .ok k)
  | (s, some (.cause _, _), _) => (s, .bad)
  | (s, some (stop, at_), _) => (solvHold s die b { r with va := at_ } stop (.solver die b), .held)

def solvRead (s : State) (die b : Nat) (va : Dword) (n : Nat) : State × Solv (List Byte) :=
  match solvOpen s die b va n false with
  | (s, .ok _) =>
    match pocRead s (solvReq die (s.solver die b).id va false) n with
    | (s, .ok bs) => (s, .ok bs)
    | (s, .stop _) => (s, .bad)
  | (s, .held) => (s, .held)
  | (s, .bad) => (s, .bad)
  | (s, .stop c x) => (s, .stop c x)

/-- A write that translates goes through whole. -/
def solvPut (s : State) (die b : Nat) (va : Dword) (bs : List Byte) : State :=
  (pocWrite s (solvReq die (s.solver die b).id va true) bs).1

def solvWrite (s : State) (die b : Nat) (va : Dword) (bs : List Byte) : State × Solv Unit :=
  match solvOpen s die b va bs.length true with
  | (s, .ok _) => (solvPut s die b va bs, .ok ())
  | (s, .held) => (s, .held)
  | (s, .bad) => (s, .bad)
  | (s, .stop c x) => (s, .stop c x)

/-- A fault on the buffer or a record ends the batch with code 1, on a barrier with code 2. -/
def Solv.must {α : Type} (r : State × Solv α) (code : Nat) (slot : Option Nat) : State × Solv α :=
  match r.2 with
  | .bad => (r.1, .stop code slot)
  | _ => r

def solvThen {α β : Type} (r : State × Solv α) (f : State → α → State × Solv β) : State × Solv β :=
  match r with
  | (s, .ok a) => f s a
  | (s, .held) => (s, .held)
  | (s, .bad) => (s, .bad)
  | (s, .stop c x) => (s, .stop c x)

/-- A barrier object as the engine finds it; one with ERR set ends the batch. -/
def solvBar (s : State) (die b : Nat) (va : Dword) : State × Solv Bar :=
  solvThen (Solv.must (solvRead s die b va 16) 2 none) (fun s bs =>
    if (Bar.ofBytes bs).err then (s, .stop 2 none) else (s, .ok (Bar.ofBytes bs)))

/-- BAR.ARRIVE(va, 1) (R313, R409). -/
def solvArrive (s : State) (die b : Nat) (va : Dword) : State × Solv Unit :=
  solvThen (Solv.must (solvRead s die b va 16) 2 none) (fun s bs =>
    solvThen (Solv.must (solvOpen s die b va 16 true) 2 none) (fun s _ =>
      let d := (Bar.ofBytes bs).arrive 1
      let s := solvPut s die b va d.bar.bytes
      let s := if d.wake then wakeBar s (0, va.toNat) else s
      (s, if d.error.isSome then .stop 2 none else .ok ())))

/-! ### Vectors -/

/-- The elements of a vector's bytes. -/
def decodeVec (f : FFmt) (eb : Nat) : Nat → List Byte → List XReal
  | 0, _ => []
  | n + 1, bs => f.decode (bytesNat (bs.take eb)) :: decodeVec f eb n (bs.drop eb)

def encodeVec (f : FFmt) (eb : Nat) (xs : List XReal) : List Byte :=
  xs.flatMap (fun v => natBytes eb (roundFBits v f .rne).1)

/-- Vectors of a sample, as bytes, in order. -/
def readVecs (die b n : Nat) : List Dword → State → State × Solv (List (List Byte))
  | [], s => (s, .ok [])
  | va :: vas, s =>
    solvThen (solvRead s die b va n) (fun s bs => solvThen (readVecs die b n vas s) (fun s r => (s, .ok (bs :: r))))

/-- Where stage derivative i and history vector m of a sample stand (R404). -/
def SolverBatch.kAddr (x : SolverBatch) (p : Sample) (i : Nat) : Dword := p.waddr + BitVec.ofNat 64 (i * x.vs)
def SolverBatch.hAddr (x : SolverBatch) (p : Sample) (m : Nat) : Dword := p.waddr + BitVec.ofNat 64 ((x.stages + m - 1) * x.vs)

def SolverBatch.vecs (x : SolverBatch) (p : Sample) (stages : Nat) : List Dword :=
  [p.xaddr] ++ (List.range stages).map (fun i => x.kAddr p i) ++ (List.range x.hn).map (fun m => x.hAddr p (m + 1))

def SolverBatch.sample (x : SolverBatch) (n : Nat) : Sample := x.samples.getD n {}

def putSample (s : State) (die b n : Nat) (p : Sample) : State :=
  let x := s.solver die b
  s.putSolver die b { x with samples := x.samples.put n p }

def putRecord (s : State) (die b n : Nat) (p : Sample) : State × Solv Unit :=
  Solv.must (solvWrite s die b ((s.solver die b).recAddr n) (wordBytes p.words)) 1 (some n)

/-! ### The end of a batch (R413, R414) -/

/-- The batch ends through action 4: its ACTIVE samples, and with code 3 its READY ones, become STOPPED, and their records
are to be written, but one that itself faulted. -/
def solvEnd (s : State) (die b code : Nat) (but : Option Nat) : State :=
  let x := s.solver die b
  let hit := fun (e : Nat × Sample) => e.2.status == 2 || (code == 3 && e.2.status == 1)
  let slots := (x.samples.filter hit).map (·.1)
  s.putSolver die b { x with
    st := if x.st = .conf then .run else x.st
    ecode := if x.ecode = 0 then code else x.ecode
    samples := x.samples.map (fun e => if hit e then (e.1, { e.2 with status := 5 }) else e)
    todo := slots.filter (fun n => some n != but)
    act := .finish
    held := false }

/-- A new attempt begins, or, with no ACTIVE sample, action 4 (R409). -/
def nextAttempt (s : State) (die b : Nat) : State :=
  let x := s.solver die b
  let l := (x.samples.filter (fun e => e.2.status == 2)).map (·.1)
  s.putSolver die b { x with
    list := l, todo := [], stage := 0, act := if l.isEmpty then .finish else .input
    samples := x.samples.map (fun e => (e.1, { e.2 with faulted := false })) }

/-! ### The actions (R409) -/

/-- The words of the buffer's header. -/
def evbHeader (x : SolverBatch) (b r count stage : Nat) : List Byte :=
  wordBytes ([BitVec.ofNat 32 r, BitVec.ofNat 32 count, BitVec.ofNat 32 stage, BitVec.ofNat 32 x.n, BitVec.ofNat 32 (b * 16 + x.fmt)] ++
    List.replicate 11 0)

/-- What SSTART does before the first action (R419): phases, and every record. -/
def doStart (s : State) (die b : Nat) : State × Solv Unit :=
  let x := s.solver die b
  solvThen (solvBar s die b x.ready) (fun s o =>
    solvThen (solvBar s die b x.doneev) (fun s o' =>
      let s := s.putSolver die b { (s.solver die b) with r := 0, pr := o.phase, pd := o'.phase }
      solvThen (x.samples.foldl (fun (p : State × Solv Unit) e => solvThen p (fun s _ => putRecord s die b e.1 e.2)) (s, .ok ()))
        (fun s _ => (nextAttempt s die b, .ok ()))))

/-- The list entry and the input of entry j (R404, R406, R414). -/
def inputOne (s : State) (die b j n : Nat) : State × Solv Unit :=
  let x := s.solver die b
  let p := x.sample n
  let ts := bits32 (XReal.add .rne (val32 p.t) (mulR (x.cW x.stage) (val32 p.h)))
  let entry := wordBytes [BitVec.ofNat 32 n, ts, p.h, 0]
  let put := fun (s : State) (bs : List Byte) =>
    Solv.must (solvWrite s die b (x.evb + BitVec.ofNat 64 (0x4080 + 2 * j * x.vs)) bs) 1 none
  solvThen (Solv.must (solvWrite s die b (x.evb + BitVec.ofNat 64 (0x40 + 16 * j)) entry) 1 none) (fun s _ =>
    let zeros := List.replicate x.vbytes (0 : Byte)
    if p.faulted then put s zeros
    else
      match readVecs die b x.vbytes (x.vecs p x.stage) s with
      | (s, .ok vs) =>
        let ds := vs.map (decodeVec x.efmt x.eb x.n)
        let u := stageIn x p (ds.headD []) ((ds.drop 1).take x.stage) (ds.drop (1 + x.stage))
        put s (encodeVec x.efmt x.eb u)
      | (s, .bad) => put (putSample s die b n { p with faulted := true }) zeros
      | (s, .held) => (s, .held)
      | (s, .stop c e) => (s, .stop c e))

/-- An action has been taken (R211). -/
def acted (s : State) (die : Nat) : State := s.bump (die / 4) (392 + die % 4) 0

/-- Action 1. -/
def doInput (s : State) (die b : Nat) : State × Solv Unit :=
  let x := s.solver die b
  solvThen (x.list.zipIdx.foldl (fun (p : State × Solv Unit) e => solvThen p (fun s _ => inputOne s die b e.2 e.1)) (s, .ok ()))
    (fun s _ =>
      solvThen (Solv.must (solvWrite s die b x.evb (evbHeader x b (x.r + 1) x.list.length x.stage)) 1 none) (fun s _ =>
        solvThen (solvArrive s die b x.ready) (fun s _ =>
          ((acted (s.putSolver die b { (s.solver die b) with r := x.r + 1, act := .collect }) die).bump (die / 4) (392 + die % 4) 1, .ok ()))))

/-- Action 2: nothing while DONEEV has not passed; else the derivatives are copied. -/
def collectOne (s : State) (die b j n : Nat) : State × Solv Unit :=
  let x := s.solver die b
  let p := x.sample n
  solvThen (Solv.must (solvRead s die b (x.evb + BitVec.ofNat 64 (0x4080 + (2 * j + 1) * x.vs)) x.vbytes) 1 none) (fun s bs =>
    if p.faulted then (s, .ok ())
    else
      match solvWrite s die b (x.kAddr p x.stage) bs with
      | (s, .bad) => (putSample s die b n { p with faulted := true }, .ok ())
      | r => r)

def doCollect (s : State) (die b : Nat) : State × Solv Unit :=
  let x := s.solver die b
  solvThen (solvBar s die b x.doneev) (fun s o =>
    if !o.passed ((x.pd + x.r - 1) % 65536) then (s, .ok ())
    else
      solvThen (x.list.zipIdx.foldl (fun (p : State × Solv Unit) e => solvThen p (fun s _ => collectOne s die b e.2 e.1)) (s, .ok ()))
        (fun s _ =>
          let y := s.solver die b
          let y := if x.stage + 1 < x.stages then { y with stage := x.stage + 1, act := .input }
            else { y with act := .decide, todo := x.list }
          (acted (s.putSolver die b y) die, .ok ())))

/-- A sample whose vectors fault ends the attempt as FAULT; of its record only STATUS changes (R414). -/
def faultSample (s : State) (die b n : Nat) : State × Solv Unit :=
  let p := { ((s.solver die b).sample n) with status := 6 }
  solvThen (putRecord s die b n p) (fun s _ => (putSample s die b n p, .ok ()))

/-- The vectors that an accepted attempt writes: the history shifted by one, and x (R408). -/
def histWrites (x : SolverBatch) (p : Sample) (vs : List (List Byte)) : List (Dword × List Byte) :=
  let ks := (vs.drop 1).take x.stages
  let hs := vs.drop (1 + x.stages)
  (List.range x.hn).reverse.map (fun i => (x.hAddr p (i + 1), if i = 0 then ks.headD [] else hs.getD (i - 1) []))

/-- A decided sample is written: x, then the history, then the record. Every access translates before the first is made; where
one is denied, x holds the elements before it (R414). -/
def commitSample (s : State) (die b n : Nat) (accepted : Bool) (p' : Sample) (xb : List Byte) (hist : List (Dword × List Byte)) :
    State × Solv Unit :=
  let x := s.solver die b
  let r := solvReq die x.id p'.xaddr true
  let fin := fun (s : State) =>
    solvThen (Solv.must (solvOpen s die b (x.recAddr n) 64 true) 1 (some n)) (fun s _ =>
      let s := if accepted then hist.foldl (fun s w => solvPut s die b w.1 w.2) (solvPut s die b p'.xaddr xb) else s
      let s := (putSample s die b n p').bump (die / 4) (392 + die % 4) (if accepted then 2 else 3)
      (solvPut s die b (x.recAddr n) (wordBytes p'.words), .ok ()))
  if !accepted then fin s
  else
    match probe s x.deny r xb.length with
    | (s, some (.cause _, _), k) =>
      faultSample (if k = 0 then s else solvPut s die b p'.xaddr (xb.take k)) die b n
    | (s, some (stop, at_), _) => (solvHold s die b { r with va := at_ } stop (.solver die b), .held)
    | (s, none, _) =>
      match hist.foldl (fun (q : State × Solv Nat) w => solvThen q (fun s _ => solvOpen s die b w.1 w.2.length true)) (s, .ok 0) with
      | (s, .ok _) => fin s
      | (s, .bad) => faultSample (solvPut s die b p'.xaddr xb) die b n
      | (s, .held) => (s, .held)
      | (s, .stop c e) => (s, .stop c e)

/-- One sample of action 3 (R407, R408, R414). -/
def decideOne (s : State) (die b n : Nat) : State × Solv Unit :=
  let x := s.solver die b
  let p := x.sample n
  if p.faulted then faultSample s die b n
  else if p.status ≠ 2 then (s, .ok ())
  else
    match readVecs die b x.vbytes (x.vecs p x.stages) s with
    | (s, .ok vs) =>
      let ds := vs.map (decodeVec x.efmt x.eb x.n)
      let a := attempt x p (ds.headD []) ((ds.drop 1).take x.stages) (ds.drop (1 + x.stages))
      let d := decideSample x p a.2
      commitSample s die b n d.1 d.2 (encodeVec x.efmt x.eb a.1) (histWrites x p vs)
    | (s, .bad) => faultSample s die b n
    | (s, .held) => (s, .held)
    | (s, .stop c e) => (s, .stop c e)

def decideList (die b : Nat) : List Nat → State → State × Solv Unit
  | [], s => (s, .ok ())
  | n :: l, s =>
    solvThen (decideOne s die b n) (fun s _ =>
      decideList die b l (s.putSolver die b { (s.solver die b) with todo := l }))

/-- Action 3. -/
def doDecide (s : State) (die b : Nat) : State × Solv Unit :=
  solvThen (decideList die b (s.solver die b).todo s) (fun s _ => (acted (nextAttempt s die b) die, .ok ()))

/-- What remains possible of an access at the end of a batch. -/
def soft (r : State × Solv Unit) (die b : Nat) : State × Solv Unit :=
  match r with
  | (s, .bad) => (s, .ok ())
  | (s, .stop c _) =>
    let x := s.solver die b
    (s.putSolver die b { x with ecode := if x.ecode = 0 then c else x.ecode }, .ok ())
  | r => r

/-- Action 4: the STOPPED samples' records, the end header, and the arrivals that remain possible (R409, R413, R414). A barrier
that is held is waited for before the first arrival. -/
def doFinish (s : State) (die b : Nat) : State × Solv Unit :=
  let x := s.solver die b
  let unit := fun (r : State × Solv Nat) => solvThen r (fun s _ => (s, Solv.ok ()))
  solvThen (x.todo.foldl (fun (p : State × Solv Unit) n => solvThen p (fun s _ => soft (putRecord s die b n (x.sample n)) die b)) (s, .ok ()))
    (fun s _ =>
      solvThen (soft (Solv.must (solvWrite s die b x.evb (evbHeader x b (x.r + 1) 0 0)) 1 none) die b) (fun s _ =>
        solvThen (soft (unit (solvOpen s die b x.bdone 16 true)) die b) (fun s _ =>
          solvThen (soft (solvArrive s die b x.ready) die b) (fun s _ =>
            solvThen (soft (solvArrive s die b x.bdone) die b) (fun s _ =>
              (acted (s.putSolver die b { (s.solver die b) with st := .ended, act := .idle, r := x.r + 1, todo := [] }) die, .ok ()))))))

/-! ### Controls (R412, R413) -/

/-- Error 2 reaches the group that sent the control (R415). -/
def solvError (s : State) (grp : Option Nat) (b : Nat) : State :=
  match grp with
  | none => s
  | some gk =>
    match s.groups.get? gk with
    | none => s
    | some g =>
      { s with groups := s.groups.put gk (g.post { cause := causeSolver, sub := 2, addr := BitVec.ofNat 64 b, lanes := g.em, seq := g.seq }) }

/-- A control at a batch with no action under way. The launch that ends stands for its owner. -/
def solvCtl (s : State) (die b : Nat) (c : SolvCtl) (grp : Option Nat) : State :=
  let x := s.solver die b
  let mine := match grp with
    | none => true
    | some gk => x.id.asid == (s.grp gk).id.asid && x.id.world == (s.grp gk).id.world
  let err := solvError s grp b
  if x.st ≠ .free ∧ !mine then err
  else
    match c, x.st with
    | .start, .conf => s.putSolver die b { x with st := .run, act := .start, samples := x.samples.map (fun e => (e.1, startSample x e.2)) }
    | .start, _ => err
    | .pause, .run => s.putSolver die b { x with st := .paused }
    | .pause, .paused => s
    | .pause, .ended => s
    | .pause, _ => err
    | .resume, .paused => s.putSolver die b { x with st := .run }
    | .resume, .run => s
    | .resume, .ended => s
    | .resume, _ => err
    | .stop, .free => err
    | .stop, .ended => s
    | .stop, _ => if x.act = .finish then s else solvEnd s die b 3 none
    | .free, .conf => s.putSolver die b {}
    | .free, .ended => s.putSolver die b {}
    | .free, .free => s
    | .free, _ => err

/-- Controls that waited for the action to end. -/
def solvQueued (die b : Nat) : List (SolvCtl × Option Nat) → State → State
  | [], s => s
  | c :: cs, s => solvQueued die b cs (solvCtl s die b c.1 c.2)

/-- The outcome of an action: it ended, it is held, or the batch ends. -/
def solvAfter (die b : Nat) (r : State × Solv Unit) : State :=
  match r with
  | (s, .held) => s
  | (s, .stop c n) =>
    let s := solvEnd s die b c n
    let q := (s.solver die b).ctls
    solvQueued die b q (s.putSolver die b { (s.solver die b) with ctls := [], deny := [] })
  | (s, _) =>
    let q := (s.solver die b).ctls
    solvQueued die b q (s.putSolver die b { (s.solver die b) with ctls := [], deny := [] })

/-- The batch's action is taken, or taken again after a hold. -/
def solvRun (s : State) (die b : Nat) : State :=
  let s := s.putSolver die b { (s.solver die b) with held := false }
  match (s.solver die b).act with
  | .idle => s
  | .start => solvAfter die b (doStart s die b)
  | .input => solvAfter die b (doInput s die b)
  | .collect => solvAfter die b (doCollect s die b)
  | .decide => solvAfter die b (doDecide s die b)
  | .finish => solvAfter die b (doFinish s die b)

/-- An action that the engine takes by itself: PAUSED starts no new action 1 (R413). -/
def solvAction (s : State) (die b : Nat) (a : SolvAct) : State :=
  let x := s.solver die b
  if x.act = a ∧ !x.held ∧ (x.st = .run ∨ (x.st = .paused ∧ a ≠ .input)) then solvRun s die b else s

/-- A control that reaches the engine. -/
def solvSend (s : State) (die b : Nat) (c : SolvCtl) (grp : Option Nat) : State :=
  let x := s.solver die b
  if x.held then s.putSolver die b { x with ctls := x.ctls ++ [(c, grp)] }
  else
    let s := solvCtl s die b c grp
    if (s.solver die b).act = .start then solvRun s die b else s

def retrySolver (s : State) (die b : Nat) : State := if (s.solver die b).held then solvRun s die b else s

/-- A held access is declared invalid (R414, R489). -/
def denySolver (s : State) (die b : Nat) (covers : Dword → Bool) : State :=
  let x := s.solver die b
  if x.held && covers x.va then solvRun (s.putSolver die b { x with deny := (x.va.toNat / 65536) :: x.deny }) die b else s

/-- An access of the action under way meets an error (R414): of a slot's vectors, of the buffer (1024), of a barrier (1025), or
of the record of slot n (2048 + n). -/
def solvFault (s : State) (die b what : Nat) : State :=
  let x := s.solver die b
  if (x.st = .run ∨ x.st = .paused) ∧ x.act ≠ .idle ∧ x.act ≠ .finish then
    if what < 1024 then
      match x.samples.get? what with
      | some p => if p.status = 2 then putSample s die b what { p with faulted := true } else s
      | none => s
    else solvAfter die b (s, if what = 1025 then .stop 2 none else .stop 1 (if what < 2048 then none else some (what - 2048)))
  else s

/-- The batches of a launch are stopped as SCTL.STOP stops them (R456, R462). -/
def solvStopLaunch (s : State) (id : LaunchId) : State :=
  s.dies.foldl (fun s d => d.2.solver.foldl (fun s e =>
    if e.2.id.same id ∧ (e.2.st = .conf ∨ e.2.st = .run ∨ e.2.st = .paused) then solvSend s d.1 e.1 .stop none else s) s) s

/-! ### SCONF at the engine (R418) -/

/-- SCONF completes: with a status, or with a cause and its destination unchanged. -/
def confDone (s : State) (gk pid : Nat) (status : Option Nat) (t : Option (Nat × Trap)) : State :=
  let g := s.grp gk
  let fin := fun (p : Pend) =>
    if p.id = pid then
      { p with
        wait := .ready
        cause := t
        outs := match status, p.dests with
          | some n, .s d :: _ => [(sKey d, BitVec.ofNat 32 n)]
          | _, _ => [] }
    else p
  { s with groups := s.groups.put gk { g with pend := g.pend.map fin } }

/-- A read or write that SCONF makes at the engine; what stops it ends or holds the SCONF. -/
def confAccess {α : Type} (s : State) (gk pid die b : Nat) (addr va : Dword) (n : Nat) (wr : Bool) (f : State → State × α) : State × Option α :=
  let g := s.grp gk
  let r := solvReq die g.id va wr
  match probe s [] r n with
  | (s, none, _) =>
    let x := f s
    (x.1, some x.2)
  | (s, some (.cause c, at_), _) => (confDone s gk pid none (some (0, { cause := c, addr := at_, lanes := g.em, seq := pid })), none)
  | (s, some (x, at_), _) =>
    let g := s.grp gk
    let g := { g with pend := g.pend.map (fun p => if p.id = pid then { p with wait := .solver die b addr at_ } else p) }
    let s := { s with groups := s.groups.put gk g }
    match x with
    | .fault d fva => (holdFault s d { r with va := fva } (.conf gk pid), none)
    | .refuse h => (s.refuse (.conf gk pid) h, none)
    | _ => (s, none)

def confRead (s : State) (gk pid die b : Nat) (addr va : Dword) (n : Nat) : State × Option (List Byte) :=
  confAccess s gk pid die b addr va n false (fun s =>
    match pocRead s (solvReq die (s.grp gk).id va false) n with
    | (s, .ok bs) => (s, bs)
    | (s, .stop _) => (s, []))

/-- The records of a descriptor, in order: the samples, the address of the first that breaks R402, or nothing where a read
stopped. -/
def confRecords (gk pid die b : Nat) (addr : Dword) (x : SolverBatch) : List Nat → State → State × Option (Except Dword (Tab Sample))
  | [], s => (s, some (.ok []))
  | n :: ns, s =>
    match confRead s gk pid die b addr (x.recAddr n) 64 with
    | (s, none) => (s, none)
    | (s, some bs) =>
      if (Sample.ofBytes bs).bad die then (s, some (.error (x.recAddr n)))
      else
        match confRecords gk pid die b addr x ns s with
        | (s, some (.ok t)) => (s, some (.ok ((n, Sample.ofBytes bs) :: t)))
        | r => r

/-- The records are written as SCONF leaves them. -/
def confStore (gk pid die b : Nat) (addr : Dword) (x : SolverBatch) : Tab Sample → State → State × Bool
  | [], s => (s, true)
  | (n, p) :: t, s =>
    match confAccess s gk pid die b addr (x.recAddr n) 64 true (fun s =>
        ((pocWrite s (solvReq die (s.grp gk).id (x.recAddr n) true) (wordBytes p.words)).1, ())) with
    | (s, some _) => confStore gk pid die b addr x t s
    | (s, none) => (s, false)

/-- The slots of a batch meet those of another that is not FREE. -/
def slotsMeet (s : State) (die b : Nat) (x : SolverBatch) : Bool :=
  (s.die die).solver.any (fun e => e.1 != b && e.2.st != .free &&
    decide (e.2.first < x.first + x.ns) && decide (x.first < e.2.first + e.2.ns))

/-- SCONF at the engine. -/
def confRun (s : State) (gk pid : Nat) : State :=
  let g := s.grp gk
  match (g.pend.find? (fun (p : Pend) => p.id == pid)).map Pend.wait with
  | some (.solver die b addr _) =>
    let old := s.solver die b
    let err := fun (s : State) (a : Dword) =>
      confDone s gk pid none (some (3, { cause := causeSolver, sub := 1, addr := a, lanes := g.em, seq := pid }))
    if old.st = .run ∨ old.st = .paused ∨ (old.st ≠ .free ∧ !(old.id.asid == g.id.asid && old.id.world == g.id.world)) then
      confDone s gk pid (some 1) none
    else
      match confRead s gk pid die b addr addr 1024 with
      | (s, none) => s
      | (s, some bs) =>
        let x : SolverBatch := { st := .conf, id := g.id, desc := (List.range 256).map (fun i => BitVec.ofNat 32 (bytesNat ((bs.drop (4 * i)).take 4))) }
        if slotsMeet s die b x then confDone s gk pid (some 2) none
        else if descBad die x then err s addr
        else
          match confRecords gk pid die b addr x ((List.range x.ns).map (fun n => x.first + n)) s with
          | (s, none) => s
          | (s, some (.error a)) => err s a
          | (s, some (.ok t)) =>
            match confStore gk pid die b addr x t s with
            | (s, false) => s
            | (s, true) => confDone (s.putSolver die b { x with samples := t }) gk pid (some 0) none
  | _ => s

/-- A denied read of SCONF arrives in class 0 (R418). -/
def denyConf (s : State) (gk pid : Nat) (covers : Dword → Bool) : State :=
  let g := s.grp gk
  match (g.pend.find? (fun (p : Pend) => p.id == pid)).map Pend.wait with
  | some (.solver _ _ _ va) =>
    if covers va then confDone s gk pid none (some (0, { cause := causeAccess, addr := va, lanes := g.em, seq := pid })) else s
  | _ => s

end Sys2Proof.Machine
end

