-- ==== Sys2Proof/Machine/CollEng.lean ====
section
/-!
DEFINITION. The collective engine (R422 to R432): descriptors, the directory, buckets, segments and what they add up to, the
end of a collective.
-/

namespace Sys2Proof.Machine

def State.coll (s : State) (die r : Nat) : Option CollRec := (s.die die).colls.get? r
def State.putColl (s : State) (die r : Nat) (x : CollRec) : State := s.putDie die { (s.die die) with colls := (s.die die).colls.put r x }

/-! ### The descriptor (R422, R423) -/

namespace CollRec

def w (x : CollRec) (i : Nat) : Nat := (descW x.words i).toNat
def alg (x : CollRec) : Nat := bits (x.w 0) 24 4
def kind (x : CollRec) : Nat := bits (x.w 0) 20 4
def op (x : CollRec) : Nat := bits (x.w 0) 16 4
def ty (x : CollRec) : Nat := bits (x.w 0) 12 4
def nm (x : CollRec) : Nat := bits (x.w 1) 16 8
def rank (x : CollRec) : Nat := bits (x.w 1) 8 8
def root (x : CollRec) : Nat := bits (x.w 1) 0 8
def count (x : CollRec) : Nat := x.w 2
def nb (x : CollRec) : Nat := bits (x.w 3) 0 16
def src (x : CollRec) : Dword := descD x.words 4
def dst (x : CollRec) : Dword := descD x.words 6
def members (x : CollRec) : Dword := descD x.words 8
def signal (x : CollRec) : Dword := descD x.words 10
def bar (x : CollRec) : Dword := descD x.words 12
def tag (x : CollRec) : Word := descW x.words 14

/-- Element bytes (R423). -/
def z (x : CollRec) : Nat := if x.ty = 0 ∨ x.ty = 3 then 4 else 2

/-- Elements of SRC and of DST (R423). -/
def srcN (x : CollRec) : Nat := if x.kind = 1 then x.nm * x.count else x.count
def dstN (x : CollRec) : Nat := if x.kind = 2 then x.nm * x.count else x.count

/-- Whether contributions are combined. -/
def reduces (x : CollRec) : Bool := decide (x.kind < 2)

/-- The format of a floating TYPE. -/
def ffmt (x : CollRec) : FFmt := if x.ty = 0 then fp32 else if x.ty = 1 then bf16 else fp16

/-- The fields that a member must share with the first (R425). -/
def key (x : CollRec) : List Nat := [x.alg, x.kind, x.op, x.ty, x.nm, x.count, x.nb, x.root]

/-- A buffer of n bytes lies whole in tensor space of a die, aligned (R36, R423). -/
def bufIn (die : Nat) (va : Dword) (align n : Nat) : Bool :=
  inTensor die va align && (n == 0 || inTensor die (va + BitVec.ofNat 64 (n - 1)) 1)

/-- The descriptor is invalid but for its own word of the member table (R423, R424). -/
def invalid (x : CollRec) (die : Nat) : Bool :=
  bits (x.w 0) 28 4 != 0 || bits (x.w 0) 8 4 != 0 || bits (x.w 0) 0 8 != 1 || decide (2 < x.alg) || decide (3 < x.kind) || decide (2 < x.op) ||
  decide (3 < x.ty) || bits (x.w 1) 24 8 != 0 || x.nm == 0 || decide (128 < x.nm) || decide (x.nm ≤ x.rank) || decide (x.nm ≤ x.root) ||
  bits (x.w 3) 16 16 != 0 || decide (4096 < x.nb) || decide (x.count < x.nb) || x.w 15 != 0 ||
  !bufIn die x.src x.z (x.srcN * x.z) || !bufIn die x.dst x.z (x.dstN * x.z) || decide (2 ^ 32 - 1 < x.srcN * x.z) || decide (2 ^ 32 - 1 < x.dstN * x.z) ||
  !(decide (spaceOf x.members = .control) && x.members.toNat % 4 == 0) ||
  (x.nb != 0 && !(decide (spaceOf x.signal = .control) && x.signal.toNat % 4 == 0)) ||
  (x.bar != 0 && !(decide (spaceOf x.bar = .control) && x.bar.toNat % 16 == 0))

/-- The elements of bucket b (R427); with NB 0 there is one. -/
def bucket (x : CollRec) (b : Nat) : Nat × Nat :=
  if x.nb = 0 then (0, x.count)
  else
    let bs := (x.count + x.nb - 1) / x.nb
    (min (b * bs) x.count, min ((b + 1) * bs) x.count)

/-- The segments of elements lo to hi of a block (R430). -/
def segments (x : CollRec) (block : Nat) : Nat → Nat → Nat → List CollSeg
  | 0, _, _ => []
  | f + 1, lo, hi =>
    if hi ≤ lo then []
    else
      let n := min (0x10000 / x.z) (hi - lo)
      { block := block, lo := lo, n := n } :: segments x block f (lo + n) hi

/-- What a member sends of bucket b (R423). -/
def bucketSegs (x : CollRec) (b : Nat) : List CollSeg :=
  let e := x.bucket b
  let one := fun (block : Nat) => x.segments block ((e.2 - e.1) / (0x10000 / x.z) + 1) e.1 e.2
  if x.kind = 1 then (List.range x.nm).flatMap one
  else if x.kind = 3 ∧ x.rank ≠ x.root then []
  else one 0

end CollRec

/-! ### Accesses (R428, R432) -/

def collReq (die : Nat) (id : LaunchId) (va : Dword) (wr : Bool) : TransReq :=
  { va := va, asid := id.asid, gen := id.gen, world := id.world, privileged := id.privileged, read := !wr, write := wr, ty := 6
    root := id.root, qgen := id.qgen
    who := { pkg := die / 4, die := die % 4, core := 0x7F, slot := Config.engineSlot, eng := true } }

/-- A range may be accessed by a record's collective; else it is held, or faults. -/
def collOpen (s : State) (die r : Nat) (x : CollRec) (va : Dword) (n : Nat) (wr : Bool) : State × Solv Unit :=
  let q := collReq die x.id va wr
  match probe s x.deny q n with
  | (s, none, _) => (s, .ok ())
  | (s, some (.cause _, _), _) => (s, .bad)
  | (s, some (stop, at_), _) =>
    let s := match s.coll die r with
      | some y => s.putColl die r { y with held := true, va := at_ }
      | none => s
    match stop with
    | .fault d fva => (holdFault s d { q with va := fva } (.coll die r), .held)
    | .refuse h => (s.refuse (.coll die r) h, .held)
    | _ => (s, .held)

def collRead (s : State) (die r : Nat) (x : CollRec) (va : Dword) (n : Nat) : State × Solv (List Byte) :=
  solvThen (collOpen s die r x va n false) (fun s _ =>
    match pocRead s (collReq die x.id va false) n with
    | (s, .ok bs) => (s, .ok bs)
    | (s, .stop _) => (s, .bad))

def collPut (s : State) (die : Nat) (x : CollRec) (va : Dword) (bs : List Byte) : State := (pocWrite s (collReq die x.id va true) bs).1

/-! ### The end of a collective at a member (R429, R432, R435) -/

/-- The pending COLLWs of a handle complete with the status; PEER_LOST or %err.PEER with status 1 (R435). -/
def collWake (s : State) (h : Word) (id : LaunchId) (status : Nat) : State × Bool :=
  let waits := fun (p : Pend) => match p.wait with
    | .coll x => x == h
    | _ => false
  let mine := fun (g : Group) => g.id.pkg == id.pkg && g.id.ctx == id.ctx && g.pend.any waits
  let fin := fun (g : Group) (p : Pend) =>
    if waits p then
      { p with
        wait := .ready
        cause := if status = 1 && g.trap.trapen.getLsbD 1 then some (2, { cause := causePeer, lanes := g.em, seq := p.seq }) else none
        outs := match p.dests with
          | .s d :: _ => [(sKey d, BitVec.ofNat 32 status)]
          | _ => [] }
    else p
  let wake := fun (g : Group) =>
    let g1 := { g with pend := g.pend.map (fin g) }
    if status = 1 && !g.trap.trapen.getLsbD 1 then g1.setErr 1#32 else g1
  ({ s with groups := s.groups.map (fun e => if mine e.2 then (e.1, wake e.2) else e) }, s.groups.any (fun e => mine e.2))

/-- The handle of a record (R434). -/
def collHandle (die r : Nat) (x : CollRec) : Word := BitVec.ofNat 32 (die % 4 * 2 ^ 30 + x.seq % 2 ^ 24 * 64 + r)

/-- A collective completes at a member: what waits for the handle completes, and the record is kept until COLLW reads it. -/
def collFinish (s : State) (die r status : Nat) : State :=
  match s.coll die r with
  | none => s
  | some x =>
    let s := powerWithdraw s die (.seg r)
    let p := collWake s (collHandle die r x) x.id status
    let s := p.1.bump (die / 4) (396 + die % 4) 2
    if p.2 || x.freed then s.putDie die { (s.die die) with colls := (s.die die).colls.del r }
    else s.putColl die r { x with st := .done, status := status, sendq := [], pairs := [], vals := [], got := [], writes := [], held := false }

/-- The pattern of a finished element (R431). -/
def collValue (x : CollRec) (e : Nat) : Nat :=
  if x.reduces ∧ x.op = 0 ∧ x.ty ≠ 3 then
    match x.pairs.getD e [] with
    | [] => 0
    | p :: t =>
      let q := t.foldl (fun a b => pairAdd a b) p
      if x.ty = 0 then (collapse q).toNat else (roundFBits q.value x.ffmt .rne).1
  else x.vals.getD e 0

/-- A member has sent its own contribution to a DST element. -/
def CollRec.own (x : CollRec) (e : Nat) : Bool :=
  decide (0 < x.ready) && decide (e < (x.bucket (x.ready - 1)).2) &&
    !x.sendq.any (fun g => (x.kind != 1 || g.block == x.rank) && decide (g.lo ≤ e) && decide (e < g.lo + g.n))

/-- The DST elements, not yet written, of which a member has contributions, its own among them where it makes one (R432). -/
def CollRec.begun (x : CollRec) : List Nat :=
  (x.pairs.map (·.1) ++ x.vals.map (·.1)).filter (fun e => !x.reduces || x.own e)

/-- A member's DST when the collective ends early: each element that is not written freely takes the OP over what has landed
(R432). -/
def collPartial (s : State) (die : Nat) (x : CollRec) : State :=
  let s := { s with free := s.free + 1 }
  x.begun.foldl (fun t e =>
    let va := x.dst + BitVec.ofNat 64 (e * x.z)
    if Config.raceBytes s.free e then collPut t die x va (natBytes x.z (collValue x e)) else t) s

/-- The collective ends with a status at this member and at every other that has joined (R432). -/
def collAbort (s : State) (die r status : Nat) : State :=
  match s.coll die r with
  | none => s
  | some x =>
    let dirMates := (s.colldirs.filter (fun d => d.joined.any (fun j => j.2 == (die, r)))).flatMap (fun d => d.joined.map (·.2))
    let s := { s with colldirs := s.colldirs.filter (fun d => !d.joined.any (fun j => j.2 == (die, r))) }
    let all := (if x.mates.isEmpty then dirMates else x.mates) ++ [(die, r)]
    all.eraseDups.foldl (fun s m =>
      match s.coll m.1 m.2 with
      | some y => if y.st = .done ∨ (s.lostTo (die / 4) (m.1 / 4)) ∨ (x.mates ≠ [] ∧ y.mates ≠ x.mates) then s
        else collFinish (if y.st = .running then collPartial s (m.1) y else s) m.1 m.2 status
      | none => s) s

/-- What an access of a member comes to: a fault aborts the collective with status 2. -/
def collSoft {α : Type} (r : State × Solv α) (die rec : Nat) (f : State → α → State) : State :=
  match r with
  | (s, .ok a) => f s a
  | (s, .held) => s
  | (s, _) => collAbort s die rec 2

/-! ### Joining (R424 to R426) -/

/-- Records of a die that run: the first eight, by issue, of those that have not completed. -/
def collActive (s : State) (die r : Nat) : Bool :=
  match s.coll die r with
  | none => false
  | some x =>
    decide (((s.die die).colls.filter (fun e => e.2.st != .done && decide ((x.seq + 2 ^ 24 - e.2.seq) % 2 ^ 24 < 2 ^ 23) && e.1 != r)).length < 8)

/-- Segments of buckets that have become ready join the send queue; the first asks for power (R193, R427, R430). -/
def collReady (s : State) (die r n : Nat) : State :=
  match s.coll die r with
  | none => s
  | some x =>
    if n ≤ x.ready then s
    else
      let new := ((List.range (n - x.ready)).map (fun i => x.ready + i)).flatMap x.bucketSegs
      s.putColl die r { x with ready := n, sendq := x.sendq ++ new }

/-- The head of a send queue asks for its four units; a collective of one member sends nothing. -/
def collPower (s : State) (die r : Nat) : State :=
  match s.coll die r with
  | none => s
  | some x => if x.st = .running ∧ !x.sendq.isEmpty ∧ 1 < x.nm then powerAsk s die (.seg r) 4 else s

/-- Every rank has joined: the collective starts (R425). -/
def collStart (s : State) (d : CollDir) : State :=
  let nm := d.key.getD 4 0
  let mates := (List.range nm).map (fun k => ((d.joined.find? (fun j => j.1 == k)).map (·.2)).getD (0, 0))
  mates.foldl (fun s m =>
    match s.coll m.1 m.2 with
    | none => s
    | some x =>
      let s := s.putColl m.1 m.2 { x with st := .running, mates := mates, left := x.dstN }
      collPower (if x.nb = 0 ∧ x.count ≠ 0 then collReady s m.1 m.2 1 else s) m.1 m.2) s

/-- A member with a valid descriptor joins (R425). -/
def collEnter (s : State) (die r : Nat) (x : CollRec) : State :=
  match s.colldirs.find? (fun d => d.tag == x.tag && d.table == x.members) with
  | some d =>
    if d.key ≠ x.key ∨ d.joined.any (fun j => j.1 == x.rank) then collFinish s die r 3
    else
      let d' := { d with joined := d.joined ++ [(x.rank, die, r)] }
      let rest := s.colldirs.filter (fun e => e != d)
      let s := s.putColl die r { x with st := .joined }
      if d'.joined.length = x.nm then collStart { s with colldirs := rest } d' else { s with colldirs := rest ++ [d'] }
  | none =>
    let d : CollDir := { tag := x.tag, table := x.members, key := x.key, joined := [(x.rank, die, r)] }
    let s := s.putColl die r { x with st := .joined }
    if x.nm = 1 then collStart s d else { s with colldirs := s.colldirs ++ [d] }

/-- COLL_JOIN: the engine reads the descriptor and the member table, and the member joins, or completes with status 2, 3 or 4. -/
def collJoin (s : State) (die r : Nat) : State :=
  match s.coll die r with
  | none => s
  | some x =>
    if x.st ≠ .issued ∨ x.held ∨ !collActive s die r then s
    else
      collSoft (collRead s die r x x.addr 64) die r (fun s bs =>
        let x := { x with words := (List.range 16).map (fun i => BitVec.ofNat 32 (bytesNat ((bs.drop (4 * i)).take 4))) }
        if x.invalid die then collFinish s die r 4
        else
          collSoft (collRead s die r x x.members (4 * x.nm)) die r (fun s ms =>
            let own := bytesNat ((ms.drop (4 * x.rank)).take 4)
            let pkgs := ((List.range x.nm).map (fun k => bytesNat ((ms.drop (4 * k)).take 4) / 256)).eraseDups
            if own ≠ die / 4 * 256 + die % 4 then collFinish s die r 4
            else if pkgs.any (s.lostTo (die / 4)) then collFinish s die r 1
            else collEnter s die r { x with pkgs := pkgs }))

/-! ### Buckets and segments (R427 to R431) -/

/-- BUCKET_READY: the engine reads SIGNAL. -/
def bucketReady (s : State) (die r : Nat) : State :=
  match s.coll die r with
  | none => s
  | some x =>
    if x.held ∨ x.nb = 0 ∨ !(x.st = .joined ∨ x.st = .running) then s
    else
      collSoft (collRead s die r x x.signal 4) die r (fun s bs =>
        collPower (collReady s die r (min (bytesNat bs) x.nb)) die r)

/-- A contribution joins what an element has (R431): sums by a TwoSum step into the newest partial sum, or, as the hardware
chooses, as a partial sum of its own. -/
def combine (x : CollRec) (fresh : Bool) (e v : Nat) : CollRec :=
  if x.reduces ∧ x.op = 0 ∧ x.ty ≠ 3 then
    let ps := x.pairs.getD e []
    let p := x.ffmt.decode v
    let ps := match ps with
      | [] => [twoSum Pair.zero p]
      | a :: t => if fresh then twoSum Pair.zero p :: a :: t else twoSum a p :: t
    { x with pairs := x.pairs.put e ps }
  else
    let new := match x.vals.get? e with
      | none => v
      | some o =>
        if !x.reduces then v
        else if x.ty = 3 then atomNew (if x.op = 0 then .add else if x.op = 1 then .max else .min) 32 o v 0
        else (fMinMax x.ffmt (x.op == 1) o v).1
    { x with vals := x.vals.put e new }

/-- SRC and DST overlap in a way that R423 does not provide for. -/
def CollRec.crossed (x : CollRec) : Bool :=
  (decide ((x.dst - x.src).toNat < x.srcN * x.z) || decide ((x.src - x.dst).toNat < x.dstN * x.z)) &&
    !((x.kind == 0 || x.kind == 3) && x.src == x.dst)

/-- Bytes of DST of which each is written or keeps its value (R423). -/
def collMix (s : State) (die : Nat) (x : CollRec) (va : Dword) (bs : List Byte) : State :=
  let s := { s with free := s.free + 1 }
  bs.zipIdx.foldl (fun t p => if Config.raceBytes s.free p.2 then collPut t die x (va + BitVec.ofNat 64 p.2) [p.1] else t) s

/-- Finished segments are written to DST, oldest first (R428); a fault aborts the collective. -/
def collFlush (die r : Nat) : Nat → State → State
  | 0, s => s
  | f + 1, s =>
    match s.coll die r with
    | none => s
    | some x =>
      match x.writes with
      | [] => s
      | g :: rest =>
        if x.st ≠ .running ∨ x.held then s
        else
          let va := x.dst + BitVec.ofNat 64 (g.lo * x.z)
          let bs := (List.range g.n).flatMap (fun i => natBytes x.z (collValue x (g.lo + i)))
          collSoft (collOpen s die r x va bs.length true) die r (fun s _ =>
            let s := if x.crossed then collMix s die x va bs else collPut s die x va bs
            let drop := fun {α : Type} (t : Tab α) => t.filter (fun e => !(decide (g.lo ≤ e.1) && decide (e.1 < g.lo + g.n)))
            let s := s.putColl die r { x with writes := rest, left := x.left - g.n, pairs := drop x.pairs, vals := drop x.vals }
            collFlush die r f s)

/-- A segment of rank `from_` lands at a member (R423, R431). -/
def collLand (s : State) (from_ : Nat) (seg : CollSeg) (data : List Nat) (m : Nat × Nat) : State :=
  match s.coll m.1 m.2 with
  | none => s
  | some x =>
    if x.st ≠ .running then s
    else
      let lo := if x.kind = 2 then from_ * x.count + seg.lo else seg.lo
      let fresh := Config.collFresh s.free (m.1 * 64 + m.2) lo
      let x := data.zipIdx.foldl (fun x p => combine x fresh (lo + p.2) p.1) x
      let got := x.got.getD lo 0 + 1
      let need := if x.reduces then x.nm else 1
      let x := { x with got := x.got.put lo got, writes := if got = need then x.writes ++ [{ block := 0, lo := lo, n := seg.n }] else x.writes }
      collFlush m.1 m.2 (x.writes.length + 1) ((s.putColl m.1 m.2 x).bump (m.1 / 4) (396 + m.1 % 4) 1)

/-- The members that a segment of rank k goes to. -/
def collDests (x : CollRec) (seg : CollSeg) : List (Nat × Nat) :=
  if x.kind = 1 then [x.mates.getD seg.block (0, 0)] else x.mates

/-- An earlier segment of an ordered flow to a receiver's package has not been received (R25, R539): one of the member's queue, or of an
older collective of the die. -/
def segHeld (s : State) (die n : Nat) (x : CollRec) (seg : CollSeg) : Bool :=
  let goes := fun (y : CollRec) (q : Nat) (g : CollSeg) => (collDests y g).any (fun m => m.1 / 4 == q)
  (s.pkg (die / 4)).modeB && (collDests x seg).any (fun m =>
    m.1 / 4 != die / 4 && flowOrdered s (die / 4) (m.1 / 4) (4 * (die % 4) + 1) &&
    ((x.sendq.take n).any (goes x (m.1 / 4)) ||
      (s.die die).colls.any (fun c => decide (c.2.seq < x.seq) && c.2.st == .running && !c.2.held && c.2.sendq.any (goes c.2 (m.1 / 4)))))

/-- SEGMENT_RECEIVE: segment n of a member's send queue, once it has its power, is read from SRC and lands at its receivers. -/
def segmentReceive (s : State) (linkUp : State → Nat → Nat → Bool) (die r n : Nat) : State :=
  match s.coll die r with
  | none => s
  | some x =>
    if x.st ≠ .running ∨ x.held ∨ !(decide (x.nm = 1) || (s.die die).powerHeld (.seg r)) then s
    else
      match x.sendq[n]? with
      | none => s
      | some seg =>
        if !(collDests x seg).all (fun m => linkUp s (die / 4) (m.1 / 4)) || segHeld s die n x seg then s
        else
          let va := x.src + BitVec.ofNat 64 ((seg.block * x.count + seg.lo) * x.z)
          collSoft (collRead s die r x va (seg.n * x.z)) die r (fun s bs =>
            let data := (List.range seg.n).map (fun i => bytesNat ((bs.drop (i * x.z)).take x.z))
            let s := (s.putColl die r { x with sendq := x.sendq.eraseIdx n }).bump (die / 4) (396 + die % 4) 0
            let s := if 1 < x.nm then powerEnd s die (.seg r) else s
            collPower ((collDests x seg).foldl (fun s m =>
              collLand (transmit s (die / 4) (m.1 / 4) vcColl (seg.n * x.z)) x.rank seg data m) s) die r)

/-- COLL_COMPLETE: every DST byte is written, and nothing is left to send: DONE takes an arrival, and the handle completes
(R429). -/
def collComplete (s : State) (die r : Nat) : State :=
  match s.coll die r with
  | none => s
  | some x =>
    let all := if x.nb = 0 then 1 else x.nb
    if x.st ≠ .running ∨ x.held ∨ x.left ≠ 0 ∨ !x.sendq.isEmpty ∨ (x.ready < all ∧ x.count ≠ 0) then s
    else if x.bar = 0 then collFinish s die r 0
    else
      collSoft (collRead s die r x x.bar 16) die r (fun s bs =>
        collSoft (collOpen s die r x x.bar 16 true) die r (fun s _ =>
          let d := (Bar.ofBytes bs).arrive 1
          let s := collPut s die x x.bar d.bar.bytes
          let s := if d.wake then wakeBar s (0, x.bar.toNat) else s
          collFinish s die r 0))

/-- COLL_ABORT: a member's package is lost (status 1), or an access of this member meets an error (status 2). -/
def collAbortEvent (s : State) (die r status : Nat) : State :=
  match s.coll die r with
  | none => s
  | some x =>
    if x.st = .done ∨ x.st = .issued then s
    else if status = 2 then collAbort s die r 2
    else if status = 1 ∧ x.pkgs.any (s.lostTo (die / 4)) then collAbort s die r 1
    else s

/-- A held engine is retried (R432): pending DST writes go on; the rest is taken up by the next event. -/
def retryColl (s : State) (die r : Nat) : State :=
  match s.coll die r with
  | none => s
  | some x => collFlush die r (x.writes.length + 1) (s.putColl die r { x with held := false, deny := [] })

/-- A held access is declared invalid: status 2 (R432). -/
def denyColl (s : State) (die r : Nat) (covers : Dword → Bool) : State :=
  match s.coll die r with
  | none => s
  | some x => if x.held && covers x.va then collAbort s die r 2 else s

end Sys2Proof.Machine
end

