-- ==== Sys2Proof/Machine/Cp.lean ====
section
/-!
DEFINITION. What the command processor's functions share (R439 to R449): its accesses, contexts, queues and their descriptors,
its requests that are refused, the launch-status table and handles, arrivals, and the copies of the hub die's channels.
-/

namespace Sys2Proof.Machine

/-! ### Accesses (R53, R101, R441) -/

/-- The world bit of a fixed engine: block b of R211 (R53). DESIGN CHOICE: secure, where firmware has not set it (log 99). -/
def engineWorld (s : State) (pkg b : Nat) : Bool := s.worlds.getD (pkg * 432 + b) true

/-- A request of the package's firmware, for its own structures: privileged, ASID 0, in the engine's world. -/
def fwReq (s : State) (pkg : Nat) (va : Dword) : TransReq :=
  { va := va, gen := (s.asid pkg 0).gen, world := engineWorld s pkg 424, privileged := true, ty := 3
    who := { pkg := pkg, core := Config.hubCore, eng := true } }

/-- A request for a context: its ASID at the generation that is current, its world and privilege. -/
def ctxReq (s : State) (pkg asid : Nat) (world privileged : Bool) (va : Dword) : TransReq :=
  { fwReq s pkg va with asid := asid, gen := (s.asid pkg asid).gen, world := world, privileged := privileged }

/-- An access of the command processor: its result; none: it faults, or it has been refused. -/
def cpAsk {α : Type} (r : TransReq) (n : Nat) (x : State × Acc α) : State × Option α :=
  match x with
  | (s, .ok a) => (s, some a)
  | (s, .stop (.refuse h)) => ({ s with cpStop := some (s.cpStop.getD (r, n, h)) }, none)
  | (s, .stop _) => (s, none)

def cpRead (s : State) (r : TransReq) (n : Nat) : State × Option (List Byte) := cpAsk r n (pocRead s r n)
def cpWrite (s : State) (r : TransReq) (bs : List Byte) : State × Option Unit :=
  cpAsk { r with write := true } bs.length (pocWrite s r bs)

/-- What a refused request leaves behind: the walk that it began (R472). -/
def cpWalk (s : State) (r : TransReq) (n : Nat) : State :=
  (chunksOf r.va n).foldl (fun s c => (leafAt s (transDie c.1) (if spaceOf c.1 = .control then 0 else r.asid) false c.1).1) s

/-- A piece of the command processor's work, which takes effect whole: where one of its requests is refused nothing else of it happens, and
it is done again after the hint (R23, R24). -/
def cpDo (w : Waiter) (f : State → State) (s : State) : State :=
  if s.refused.any (fun r => r.who == w) then s
  else
    match (f s).cpStop with
    | none => f s
    | some (r, n, h) => (cpWalk s r n).refuse w h

/-- A number of n bytes. -/
def cpNum (s : State) (r : TransReq) (n : Nat) : State × Option Nat :=
  let p := cpRead s r n
  (p.1, p.2.map bytesNat)

/-- An atomic update of n bytes: the old number. -/
def cpUpdate (s : State) (r : TransReq) (n : Nat) (f : Nat → Nat) : State × Option Nat :=
  match cpNum s { r with write := true } n with
  | (s, none) => (s, none)
  | (s, some v) =>
    match cpWrite s r (natBytes n (f v)) with
    | (s, none) => (s, none)
    | (s, some _) => (s, some v)

/-- A word of firmware's own is written; a fault of the access changes nothing. -/
def fwPut (s : State) (pkg : Nat) (va : Dword) (n v : Nat) : State := (cpWrite s (fwReq s pkg va) (natBytes n v)).1

/-- A place past an address. -/
def Dword.plus (a : Dword) (n : Nat) : Dword := a + BitVec.ofNat 64 n

/-- An aligned control-space address of a package of the domain. -/
def ctlAddr (s : State) (va : Dword) (align : Nat) : Bool :=
  decide (spaceOf va = .control) && decide (va.toNat % align = 0) && decide (vaPkg va < s.domain)

/-! ### Contexts and queues (R439, R440) -/

def State.ctx? (s : State) (pkg a : Nat) : Option CtxReg := (s.pkg pkg).ctxs.get? a
def State.putCtx (s : State) (pkg a : Nat) (c : CtxReg) : State :=
  s.putPkg pkg { (s.pkg pkg) with ctxs := (s.pkg pkg).ctxs.put a c }

/-- Queue i of a context; none where the context has no such queue. -/
def State.queue? (s : State) (pkg a i : Nat) : Option Queue :=
  (s.ctx? pkg a).bind (fun c => if i ≤ c.nq then some (c.queues.getD i {}) else none)

/-- The address of a queue descriptor. -/
def CtxReg.qdesc (c : CtxReg) (i : Nat) : Dword := Dword.plus c.qtab (256 * i)

/-- The queue changes, and its GEN, STATE, RIDX, ECODE and EIDX are written to the descriptor (R440). -/
def putQueue (s : State) (pkg a i : Nat) (q : Queue) : State :=
  match s.ctx? pkg a with
  | none => s
  | some c =>
    let s := s.putCtx pkg a { c with queues := c.queues.put i q }
    fwPut s pkg (Dword.plus (c.qdesc i) 0x0C) 12
      (q.gen * 2 ^ 16 + q.st.code + q.ridx % 2 ^ 32 * 2 ^ 32 + (q.ecode * 2 ^ 24 + q.eidx % 2 ^ 24) * 2 ^ 64)

/-- What software has written in a queue descriptor. -/
structure QDesc where
  ring : Dword
  szlog : Nat
  msia : Dword
  msid : Word
  msie : Bool
  deriving DecidableEq, Repr

/-- The descriptor as the command processor reads it: a fault of the access (ECODE 3), a field out of range (ECODE 1), or its
fields (R440, R445). -/
def readQDesc (s : State) (pkg a i : Nat) : State × Except Nat QDesc :=
  match s.ctx? pkg a with
  | none => (s, .error 3)
  | some c =>
    match cpRead s (fwReq s pkg (c.qdesc i)) 0x28 with
    | (s, none) => (s, .error 3)
    | (s, some bs) =>
      let n := bytesNat bs
      let d : QDesc := {
        ring := BitVec.ofNat 64 n
        szlog := bits n 64 5
        msia := BitVec.ofNat 64 (n / 2 ^ 192)
        msid := BitVec.ofNat 32 (n / 2 ^ 256)
        msie := n.testBit 288 }
      if ctlAddr s d.ring 64 && decide (1 ≤ d.szlog) && decide (d.szlog ≤ 16) && bits n 69 27 == 0 && bits n 289 31 == 0
      then (s, .ok d) else (s, .error 1)

/-- The queue's MSI (R440, R442). -/
def queueMsi (s : State) (pkg a i : Nat) : State :=
  match readQDesc s pkg a i with
  | (s, .ok d) => if d.msie then { s with msis := s.msis ++ [{ pkg := pkg, addr := d.msia, data := d.msid }] } else s
  | (s, .error _) => s

/-- The queue goes to ERROR (R445, R446). -/
def queueError (s : State) (pkg a i code : Nat) : State :=
  match s.queue? pkg a i with
  | none => s
  | some q => queueMsi (putQueue s pkg a i { q with st := .error, ecode := code, eidx := q.ridx % 2 ^ 24 }) pkg a i

/-- WIDX is read (R441): an index overrun or a fault of the access is an error; a queue that was IDLE runs when there is a
packet. -/
def readWidx (s : State) (pkg a i : Nat) : State :=
  match s.queue? pkg a i, s.ctx? pkg a with
  | some q, some c =>
    if q.st = .idle ∨ q.st = .run ∨ q.st = .blocked then
      match cpNum s (fwReq s pkg (Dword.plus (c.qdesc i) 0x80)) 4 with
      | (s, none) => queueError s pkg a i 3
      | (s, some w) =>
        match readQDesc s pkg a i with
        | (s, .error e) => queueError s pkg a i e
        | (s, .ok d) =>
          if 2 ^ d.szlog < (w + 2 ^ 32 - q.ridx) % 2 ^ 32 then queueError s pkg a i 6
          else
            let st := if q.st = .idle ∧ w ≠ q.ridx then .run else q.st
            if st = q.st ∧ w = q.widx then s else putQueue s pkg a i { q with st := st, widx := w }
    else s
  | _, _ => s

/-- START (R446). -/
def startQueue (s : State) (pkg a i : Nat) : State :=
  match s.queue? pkg a i with
  | none => s
  | some q =>
    match q.st with
    | .stopped => readWidx (putQueue s pkg a i { q with st := .idle }) pkg a i
    | .error => readWidx (putQueue s pkg a i { q with st := .idle }) pkg a i
    | .resetting => putQueue s pkg a i { q with startDue := true }
    | _ => s

/-- What packets and other work that descend from a queue carry (R449, R450, R479). -/
def queueId (s : State) (pkg a i : Nat) : LaunchId :=
  match s.ctx? pkg a with
  | none => {}
  | some c =>
    { pkg := pkg, ctx := a, queue := i, qgen := (c.queues.getD i {}).gen, asid := a, gen := (s.asid pkg a).gen
      world := c.world, privileged := c.priv }

/-! ### Handles and the launch-status table (R439, R449) -/

/-! The codes of STATE (R449). -/

def stPending : Nat := 0
def stSpilled : Nat := 1
def stRunning : Nat := 2
def stDone : Nat := 3
def stRejected : Nat := 4
def stFaulted : Nat := 5
def stAborted : Nat := 6

/-- The address of a handle's entry. -/
def CtxReg.statusAddr (c : CtxReg) (h : Word) : Dword := Dword.plus c.stab (8 * (h.toNat % 2 ^ 27 % 2 ^ c.stlog))

/-- A status entry is written; a context that has been removed has none (R448). -/
def putStatus (s : State) (id : LaunchId) (code cause sub : Nat) : State :=
  match s.ctx? id.pkg id.ctx with
  | none => s
  | some c =>
    fwPut s id.pkg (c.statusAddr id.handle) 8 (id.handle.toNat + code % 256 * 2 ^ 32 + cause % 256 * 2 ^ 40 + sub % 256 * 2 ^ 48)

/-- A sequence is taken from NEXT by an atomic add, 0 skipped, and becomes a handle of the accepting package (R439, R449). -/
def takeHandle (s : State) (pkg : Nat) (id : LaunchId) : State × Option Word :=
  match s.ctx? id.pkg id.ctx with
  | none => (s, none)
  | some c =>
    let seq := fun (v : Nat) => if v % 2 ^ 27 = 0 then 1 else v % 2 ^ 27
    match cpUpdate s (fwReq s pkg (Dword.plus c.desc 0x30)) 4 (fun v => (seq v + 1) % 2 ^ 27) with
    | (s, none) => (s, none)
    | (s, some v) => (s, some (BitVec.ofNat 32 (pkg % 32 * 2 ^ 27 + seq v)))

/-! ### Barrier objects (R313, R451) -/

/-- A barrier object that the command processor reads. -/
def cpBar (s : State) (r : TransReq) : State × Option Bar :=
  let p := cpRead s r 16
  (p.1, p.2.map Bar.ofBytes)

/-- The command processor's operation on an object: false where the access faults. -/
def cpBarDo (s : State) (r : TransReq) (f : Bar → Bar × Bool) : State × Bool :=
  match cpBar s { r with write := true } with
  | (s, none) => (s, false)
  | (s, some b) =>
    let x := f b
    match cpWrite s r x.1.bytes with
    | (s, none) => (s, false)
    | (s, some _) => (if x.2 then wakeBar s (0, r.va.toNat) else s, true)

/-- An arrival with count 1 (R451, R455, R456). -/
def cpArrive (s : State) (r : TransReq) : State × Bool := cpBarDo s r (fun b => ((b.arrive 1).bar, (b.arrive 1).wake))

/-! ### Copies on the hub die's channels (R444) -/

def HubCopy.req (s : State) (pkg : Nat) (c : HubCopy) (va : Dword) : TransReq :=
  { ctxReq s pkg c.id.asid c.id.world c.id.privileged va with gen := c.id.gen, root := c.id.root, qgen := c.id.qgen }

def putHub (s : State) (pkg n : Nat) (c : HubCopy) : State := s.putPkg pkg { (s.pkg pkg) with hub := (s.pkg pkg).hub.put n c }
def dropHub (s : State) (pkg n : Nat) : State := s.putPkg pkg { (s.pkg pkg) with hub := (s.pkg pkg).hub.del n }

/-- A copy ends. One that has met an error sets ERR of its barrier object, and records ECODE 4 but for a lost peer (R444). -/
def hubEnd (s : State) (pkg n : Nat) : State :=
  match (s.pkg pkg).hub.get? n with
  | none => s
  | some c =>
    match c.flow.err with
    | none => dropHub s pkg n
    | some e => cpDo (.hub pkg n) (fun s =>
      let s := dropHub s pkg n
      let s := match c.bar with
        | none => s
        | some va => if staleReq s (c.req s pkg va) then s else (cpBarDo s (c.req s pkg va) (fun b => ({ b with err := true }, true))).1
      if e.1 = 0 then s
      else
        match s.queue? c.id.pkg c.id.ctx c.id.queue with
        | some q => if q.gen = c.id.qgen then putQueue s c.id.pkg c.id.ctx c.id.queue { q with ecode := 4, eidx := c.eidx } else s
        | none => s) s

/-- The unacknowledged requests of class 2 of a package to another (R539). -/
def hubReqs (s : State) (pkg dest : Nat) : List (Nat × Bool) := (s.pkg pkg).hub.flatMap (fun h => h.2.flow.reqs dest)

/-- What moves the bytes of a hub-die copy (R353, R369). DESIGN CHOICE: the source die of its flow is 0 (log 100). -/
def HubCopy.carrier (pkg : Nat) (c : HubCopy) : Carrier where
  last := c.n
  cut := fun off =>
    let k := min (4096 - (Dword.plus c.dst off).toNat % 4096) (c.n - off)
    (k, off + k)
  ends := fun s off => (s, .ok (Dword.plus c.dst off, Dword.plus c.src off))
  index := fun off => Dword.plus c.dst off
  near := fun off => Dword.plus c.dst off
  bad := fun _ _ _ _ => none
  up := fun s => upVa s pkg
  behind := fun s a order => flowHolds s pkg (vaPkg a) 2 order (hubReqs s pkg (vaPkg a))
  lost := fun s => lostVa s pkg
  read := fun s a => pocRead s (c.req s pkg a) 1
  write := fun s a bs => pocWrite s (c.req s pkg a) bs

/-- The barrier object of a hub-die copy takes a landing of n bytes. -/
def hubLand (s : State) (pkg : Nat) (c : HubCopy) (n : Nat) : State × Acc Unit :=
  match c.bar with
  | none => (s, .ok ())
  | some va =>
    let r := { c.req s pkg va with write := true }
    match pocRead s r 16 with
    | (s, .stop x) => (s, .stop x)
    | (s, .ok b) =>
      let x := (Bar.ofBytes b).land n
      match pocWrite s r x.bar.bytes with
      | (s, .stop x) => (s, .stop x)
      | (s, .ok _) => (if x.wake then wakeBar s (0, va.toNat) else s, .ok ())

/-- The pieces of a hub-die copy change. -/
def putHubFlow (s : State) (pkg n : Nat) (f : Flow) : State :=
  match (s.pkg pkg).hub.get? n with
  | some c => putHub s pkg n { c with flow := f }
  | none => s

/-- A copy as its hub-die channel runs it (R444). -/
def HubCopy.stream (pkg n : Nat) (c : HubCopy) : Stream where
  carrier := c.carrier pkg
  pkg := pkg
  waiter := .hub pkg n
  key := 2 ^ 40 + pkg * 2 ^ 20 + n
  req := fun s => c.req s pkg
  get := fun s => ((s.pkg pkg).hub.get? n).map (·.flow)
  put := fun s => putHubFlow s pkg n
  sends := fun _ => true
  refused := fun s => s
  failed := fun s _ _ => s
  land := fun s p => hubLand s pkg c p.n
  count := fun s _ => s
  peer := fun s _ dst => hubEnd (putHubFlow s pkg n { c.flow with fly := [], err := some (0, dst) }) pkg n
  finish := fun s => hubEnd s pkg n

/-- Something happens to a copy of a hub-die channel. -/
def onHub (s : State) (pkg n : Nat) (f : Stream → State → State) : State :=
  match (s.pkg pkg).hub.get? n with
  | some c => f (c.stream pkg n) s
  | none => s

/-- A COPY packet's copy starts (R444); one of no bytes is complete at once. -/
def hubStart (s : State) (pkg a i : Nat) (eidx : Nat) (dst src : Dword) (n : Nat) (bar : Dword) : State :=
  if n = 0 then s
  else
    let c : HubCopy := { id := queueId s pkg a i, eidx := eidx, dst := dst, src := src, n := n, bar := if bar = 0 then none else some bar }
    let k := (s.pkg pkg).hubNext
    let s := putHub s pkg k c
    let s := s.putPkg pkg { (s.pkg pkg) with hubNext := k + 1 }
    match [dst, src].findSome? (lostVa s pkg) with
    | some q => onHub s pkg k (fun x s => x.peer s q dst)
    | none => s

end Sys2Proof.Machine
end

