-- ==== Sys2Proof/Machine/TransEng.lean ====
section
/-!
DEFINITION. The translation engine (R470 to R495): replay and denial of held requests, re-sends, walks, and the table
operations of TLBOP.
-/

namespace Sys2Proof.Machine

/-! ### Waiters (R488, R489) -/

/-- A group held at its next instruction looks again. -/
def wakeHeld (s : State) (gk : Nat) (deny : List Nat) : State :=
  match s.groups.get? gk with
  | none => s
  | some g => { s with groups := s.groups.put gk { g with wait := if g.wait.isHeld then .none else g.wait, deny := deny ++ g.deny } }

/-- A held or refused requester is retried; the command processor's work, and the end of a launch, are done again by `retryExpiry`. -/
def retryWaiter (s : State) (w : Waiter) : State :=
  match w with
  | .load gk n => retryLoad s gk n
  | .burrow gk => retryBurrow s gk
  | .fetch gk => wakeHeld s gk []
  | .group gk => wakeHeld s gk []
  | .copy core chan => copyResend s core chan
  | .tile core => retryTile s core
  | .solver die b => retrySolver s die b
  | .conf gk n => confRun s gk n
  | .coll die r => retryColl s die r
  | .ratom gk n => ratomRetry s gk n
  | .hub pkg n => onHub s pkg n Stream.again
  | .cp _ _ => s
  | .launch _ _ => s

/-- The accesses of a held requester in a granule are declared invalid (R489). -/
def denyWaiter (s : State) (granule : Nat) (w : Waiter) : State :=
  let covers := fun (va : Dword) => va.toNat / 65536 == granule
  match w with
  | .load gk n => denyLoad s gk n covers
  | .burrow gk => denyBurrow s gk covers
  | .fetch gk => wakeHeld s gk [granule]
  | .group gk => wakeHeld s gk [granule]
  | .copy core chan => denyCopy s core chan covers
  | .tile core => denyTile s core covers
  | .solver die b => denySolver s die b covers
  | .conf gk n => denyConf s gk n covers
  | .coll die r => denyColl s die r covers
  | .ratom gk n => denyRatom s gk n covers
  | .hub pkg n => onHub s pkg n (fun x s => x.deny s covers)
  | .cp _ _ => s
  | .launch _ _ => s

/-- The package of a requester. -/
def waiterPkg (s : State) (w : Waiter) : Nat :=
  match w with
  | .load gk _ => pkgOfCore (s.grp gk).core
  | .burrow gk => pkgOfCore (s.grp gk).core
  | .fetch gk => pkgOfCore (s.grp gk).core
  | .group gk => pkgOfCore (s.grp gk).core
  | .copy core _ => pkgOfCore core
  | .tile core => pkgOfCore core
  | .solver die _ => die / 4
  | .conf gk _ => pkgOfCore (s.grp gk).core
  | .coll die _ => die / 4
  | .ratom gk _ => pkgOfCore (s.grp gk).core
  | .hub pkg _ => pkg
  | .cp pkg _ => pkg
  | .launch pkg _ => pkg

/-- The ASID that a requester's accesses carry. -/
def waiterAsid (s : State) (w : Waiter) : Nat :=
  match w with
  | .load gk _ => (s.grp gk).id.asid
  | .burrow gk => (s.grp gk).id.asid
  | .fetch gk => (s.grp gk).id.asid
  | .group gk => (s.grp gk).id.asid
  | .copy core chan => (((s.chan core chan).queue.head?).map (·.id.asid)).getD 0
  | .tile core => (((s.tile core).jobs.head?).map (fun j => (s.grp j.grp).id.asid)).getD 0
  | .solver die b => ((s.die die).solver.getD b {}).id.asid
  | .conf gk _ => (s.grp gk).id.asid
  | .coll die r => ((s.coll die r).map (·.id.asid)).getD 0
  | .ratom gk _ => (s.grp gk).id.asid
  | .hub pkg n => (((s.pkg pkg).hub.get? n).map (·.id.asid)).getD 0
  | .cp _ _ => 0
  | .launch _ _ => 0

/-- TLBOP.REPLAY of a die (R484, R488). -/
def replayDie (s : State) (dk : Nat) : State :=
  let d := s.die dk
  let ws := (d.held.map (·.who)).eraseDups
  ws.foldl retryWaiter (s.putDie dk { d with faults := [], held := [], dropped := false, dcnt := 0 })

/-- TLBOP.DENY of an entry of a die (R489). A remote requester, which waits out a refusal, meets the outcome at once. -/
def denyEntry (s : State) (dk e : Nat) : State :=
  let d := s.die dk
  match d.faults.get? e with
  | none => s
  | some f =>
    let gran := f.va.toNat / 65536
    let mine := d.held.filter (fun h => h.entry == some e)
    let s := s.putDie dk { d with faults := d.faults.del e, held := d.held.filter (fun h => h.entry != some e) }
    let s := (mine.map (·.who)).eraseDups.foldl (fun s w => denyWaiter s gran w) s
    ((s.refused.map (·.who)).filter (fun w => waiterPkg s w != dk / 4 && waiterAsid s w == f.asid)).eraseDups.foldl (fun s w => denyWaiter s gran w) s

/-- A waiter leaves every fault list (R74, R462, R484). -/
def dropWaiters (s : State) (p : Waiter → Bool) : State :=
  { s with
    dies := s.dies.map (fun e => (e.1, { e.2 with held := e.2.held.filter (fun h => !p h.who) }))
    refused := s.refused.filter (fun r => !p r.who) }

/-- The hint of a refused request expires, and it is sent again (R23). A re-send raises neither COUNT nor DCNT of a die of
another package (R486). -/
def resend (s : State) (n : Nat) : State :=
  match s.refused[n]? with
  | none => s
  | some r =>
    uncount (retryWaiter { s with refused := s.refused.eraseIdx n } r.who) (waiterPkg s r.who) s.dies

/-! ### Requests and walks (R471, R472, R490) -/

/-- MTLB_REQUEST: a request that hits is translated; one that misses starts a walk, of at most 16. -/
def mtlbRequest (s : State) (dk : Nat) (r : TransReq) : State :=
  let asid := if spaceOf r.va = .control then 0 else r.asid
  if transDie r.va ≠ dk ∨ !(spaceOf r.va).global ∨ !asidOk s dk r then s
  else
    match (s.die dk).lookup asid false r.va with
    | some _ =>
      match xlate s r with
      | (s, .fault d fva) => if r.spec then specDrop s d else (recordFault s d { r with va := fva }).1
      | (s', .refuse _) => if r.spec then specDrop s' dk else s'
      | (s, _) => s
    | none => if (s.die dk).walks.length < 16 then s.putDie dk { (s.die dk) with walks := (s.die dk).walks ++ [r] } else s

/-- WALK_COMPLETE: the MTLBs are filled, or the fault is recorded; a local request is then translated (R472, R476, R481). -/
def walkComplete (s : State) (dk : Nat) (r : TransReq) : State :=
  let d := s.die dk
  if !d.walks.contains r then s
  else
    let s := s.putDie dk { d with walks := d.walks.erase r }
    match leafAt s dk (if spaceOf r.va = .control then 0 else r.asid) false r.va with
    | (s, .leaf _) => if r.who.pkg = dk / 4 ∧ !r.spec then (xlate s r).1 else s
    | (s, .invalid) => s
    | (s, .fault) => if r.spec then specDrop s dk else (recordFault s dk r).1

/-! ### TLBOP (R480, R491 to R495) -/

/-- An entry that MAP may not write (R494). -/
def mapBad (ctl : Bool) (t : Nat) (w : Dword) : Bool :=
  entV w && (bits w.toNat 48 3 != 0 || bits w.toNat 2 3 != 0 || (entLeaf w && decide (t < 2)) || (!entLeaf w && t == 4) ||
    (ctl && entLeaf w && entClass w == 3) || !entAligned t w)

/-- The place of the entry of a tier, with its table's key slot, by a walk of the tiers above it in memory; none where an entry is not valid or is a leaf. -/
def mapPlace (s : State) (pkg : Nat) (ctl : Bool) (va : Dword) : List Nat → Nat → Nat → Nat → Option (Nat × Nat)
  | [], _, _, _ => none
  | t :: ts, tier, table, slot =>
    let ent := pkg * 2 ^ 40 + (table + 8 * bits va.toNat (tierShift t) (tierBits ctl t)) % 2 ^ 40
    if t = tier then some (ent, slot)
    else
      let w := s.rd64 (s.keyId pkg slot) ent
      if !entV w || entLeaf w then none else mapPlace s pkg ctl va ts tier (entPa w) (entKey w)

/-- TLBOP.MAP: the status. -/
def tlbMap (s : State) (pkg asid : Nat) (va : Dword) (entry : Dword) (tier : Nat) (back : Bool) (bdie : Nat) : State × Nat :=
  let ctl := decide (spaceOf va = .control)
  if (asid == 0) != ctl then (s, 2)
  else if mapBad ctl tier entry then (s, 2)
  else
    let e := s.asid pkg asid
    let root := if back then e.broot.getD bdie 0 else e.root.getD (if ctl then 0 else vaDie va) 0
    if root = 0 then (s, 1)
    else
      match mapPlace s pkg ctl va [0, 1, 2, 3, 4] tier root.toNat 0 with
      | none => (s, 1)
      | some (ent, slot) =>
        let old := s.rd64 (s.keyId pkg slot) ent
        -- lines are written back through the old translation before the entry changes
        let s := if entV old then invSpan s pkg asid va (2 ^ tierShift tier) else s
        (s.wr64 (s.keyId pkg slot) ent entry, 0)

/-- The size of the page that an address lies in: the largest that the table or an MTLB gives it. -/
def pageSize (s : State) (pkg asid : Nat) (va : Dword) : Nat :=
  let dk := if spaceOf va = .control then pkg * 4 else transDie va
  let cached := (s.die dk).mtlb1a ++ (s.die dk).mtlb1b ++ (s.die dk).mtlb2
  let fit := (cached.filter (fun e => e.asid == asid && entLeaf e.word && e.base == va.toNat / 2 ^ tierShift e.tier)).map (fun e => 2 ^ tierShift e.tier)
  let table := match (walk s dk asid false va).2 with
    | .leaf e => 2 ^ tierShift e.tier
    | _ => 65536
  fit.foldl max table

def tlbInv (s : State) (pkg asid : Nat) (va : Dword) : State := invSpan s pkg asid va (pageSize s pkg asid va)

/-- Every page of an ASID in a package's tables. -/
def tlbInvAsid (s : State) (pkg asid : Nat) : State :=
  let s := removeLines s (fun p => asid == 0 || p == pkg) (fun tag =>
    tagAsid tag == asid && tagVa tag / 2 ^ 57 % 32 == pkg)
  (List.range 4).foldl (fun s d => s.putDie (pkg * 4 + d) ((s.die (pkg * 4 + d)).dropTlb (fun e => e.asid == asid))) s

/-- TLBOP.ALL: every translation, and the lines of generations that are not current (R480, R493). -/
def tlbAll (s : State) (pkg : Nat) : State :=
  let stale := fun (tag : Nat) => tagGen tag != (s.asid pkg (tagAsid tag)).gen && (!tagCtl tag || tagVa tag / 2 ^ 57 % 32 == pkg)
  let s := removeLines s (fun p => p == pkg) stale
  let s := removeLines s (fun p => p != pkg) (fun tag => tagCtl tag && stale tag)
  let s := (List.range 4).foldl (fun s d => s.putDie (pkg * 4 + d) ((s.die (pkg * 4 + d)).dropTlb (fun _ => true))) s
  { s with asids := s.asids.map (fun e => if e.1 / 4096 = pkg then (e.1, { e.2 with ncnt := 0 }) else e) }

/-- Step 1 of a migration (R491). -/
def tlbMove (s : State) (pkg asid : Nat) (va : Dword) : State :=
  let dk := transDie va
  match (walk s dk asid false va).2 with
  | .leaf e =>
    let s := invSpan s pkg asid va (2 ^ tierShift e.tier)
    let kid := s.keyId (e.ent / 2 ^ 40) e.slot
    s.wr64 kid e.ent (s.rd64 kid e.ent ||| 0x2000#64)
  | _ => s

/-- TLBOP.NEWGEN on every package of the domain that is not lost: the status (R480). -/
def tlbNewgen (s : State) (pkg asid : Nat) : State × Nat :=
  if 15 ≤ (s.asid pkg asid).ncnt then (s, 1)
  else
    let ps := (List.range s.domain).filter (fun p => !s.lostTo pkg p)
    let s := ps.foldl (fun s p =>
      let old := (s.asid p asid).gen
      let hit := fun (tag : Nat) => tagAsid tag == asid && tagGen tag == old
      let s := s.clusters.foldl (fun s c =>
        if pkgOfCluster c.1 = p then
          let s := stashEvent s c.1 (fun e => hit e.tag) false
          (c.2.lines.filter (fun l => hit l.1)).foldl (fun s l => wbLine s c.1 l.1) s
        else s) s
      let e := s.asid p asid
      s.putAsid p asid { e with gen := (e.gen + 1) % 16, ncnt := e.ncnt + 1 }) s
    (s, 0)

/-- The words of a fault entry (R483). -/
def faultWords (f : Option FaultEnt) : List Word :=
  match f with
  | none => [0, 0, 0, 0]
  | some f =>
    [BitVec.ofNat 32 (f.va.toNat % 2 ^ 32 / 65536 * 65536), BitVec.ofNat 32 (f.va.toNat / 2 ^ 32),
      BitVec.ofNat 32 (f.asid % 4096 * 2 ^ 20 + f.gen % 16 * 2 ^ 16 + f.wr.toNat * 2 ^ 15 + f.ty % 8 * 2 ^ 12 + f.count % 4096),
      BitVec.ofNat 32 (2 ^ 31 + f.who.pkg % 32 * 2 ^ 26 + f.who.die % 4 * 2 ^ 24 + f.who.eng.toNat * 2 ^ 23 + f.who.core % 128 * 2 ^ 16 +
        f.who.slot % 256 * 2 ^ 8)]

/-- The buffer's state (R485). -/
def statWords (d : Die) : List Word :=
  let vmask := (d.faults.map (fun f => 2 ^ f.1)).sum
  let waiters := ((d.held.map (·.who)).eraseDups).length
  [BitVec.ofNat 32 (d.dcnt % 65536 * 65536 + d.dropped.toNat * 256 + vmask % 256), BitVec.ofNat 32 (waiters % 65536),
    d.specDrop.setWidth 32, (d.specDrop >>> 32).setWidth 32]

/-- MSC_REQUEST: a request that goes to a die joins its line's entry of the write queue and is performed, or a full queue refuses it (R293,
R295). -/
def mscRequest (s : State) (dk : Nat) (gk i : Nat) : State :=
  let g := s.grp gk
  match g.ratoms[i]? with
  | none => s
  | some r =>
    if r.die = dk then ratomPerform s gk i else s

end Sys2Proof.Machine
end

