-- ==== Sys2Proof/Machine/Coherence.lean ====
section
/-!
DEFINITION. PCLASS and the coherence engine's events (R499 to R514).
-/

namespace Sys2Proof.Machine

/-- The leaf of a page for a PCLASS (R514): SET and CLEAR need W, the others only the world. -/
def classLeaf (s : State) (gk : Nat) (va : Dword) (wr : Bool) : State × Acc TlbEnt :=
  let g := s.grp gk
  let dk := transDie va
  let r := { g.req 0 va with read := false, write := wr }
  let pa := fun (e : TlbEnt) => entPa e.word + va.toNat % 2 ^ tierShift e.tier
  if !asidOk s dk r then (s, .stop (.cause causeAccess))
  else
    let miss := decide (r.who.pkg ≠ dk / 4) && ((s.die dk).lookup 0 false va).isNone
    match leafAt s dk 0 false va with
    | (s, .fault) => (s, .stop (.fault dk va))
    | (s, .invalid) => (s, .stop (.cause causeAccess))
    | (s, .leaf e) =>
      if miss then (s, .stop (.refuse (s.die dk).fhint.toNat))
      else if badRegion s true dk (pa e) then (s, .stop (.cause causeAccess))
      else
        match leafCheck s (dk / 4) (pa e) e.word r with
        | some c => if c = causeSecurity ∨ wr then (s, .stop (.cause c)) else (s, .ok e)
        | none => (s, .ok e)

/-- A PCLASS: its checks and translation, then the operation at once, with the word for D (R512 to R514). -/
def pclass (wr : Bool) (waits : State → Group → Bool) (run : State → Group → Dword → TlbEnt → State × Nat) (ck : Checks) (sh : Shape) (o : EOps)
    (s : State) : Out :=
  issueC ck sh o (fun s g =>
    let va := g.s2 s.free o.a.toNat
    let p : Pend := { id := 0, dests := writesOf sh o }
    if spaceOf va = .reserved then trapOf g causeAccess 0 va
    else if spaceOf va ≠ .control then trapOf g causeSpace 0 va
    else if s.domain ≤ vaPkg va then trapOf g causeAccess 0 va
    else if waits (s.putG g) g then .hold .suspended
    else if g.deny.contains (va.toNat / 65536) then
      .ok { s := s, g := { g with deny := [] }, pend := some { p with cause := some (0, { cause := causeAccess, addr := va, lanes := g.em, seq := g.seq }) } }
    else
      match classLeaf (s.putG g) s.cur va wr with
      | (_, .stop (.cause c)) => trapOf g c 0 va
      | (s, .stop (.fault d fva)) =>
        .ok { s := holdFault s d { g.req 0 fva with write := wr } (.group s.cur), g := { g with wait := .held d }, done := true }
      | (s, .stop (.refuse h)) =>
        .ok { s := s.refuse (.group s.cur) h, g := { g with wait := .held 0 }, done := true }
      | (_, .stop (.ok _ _)) => .hold .suspended
      | (s, .ok e) =>
        let r := run s g va e
        okPend r.1 (r.1.grp s.cur) { p with outs := [(sKey o.d.toNat, BitVec.ofNat 32 r.2)] }) s

/-- PCLASS.QUERY's word. -/
def classWord (s : State) (_g : Group) (va : Dword) (e : TlbEnt) : State × Nat :=
  match (if entClass e.word = classPrivate then (s.owners.getD (frameKey va e.word) {}).cluster else none) with
  | some c => (s, entClass e.word + 4 + pkgOfCluster c * 256 + holderCode c * 65536)
  | none => (s, entClass e.word)

def classNo (o : EOps) : Nat := xField o 0 2

/-- The class is written, and every token of the page gathered (R513). -/
def classSet (cls : Nat) (s : State) (g : Group) (va : Dword) (e : TlbEnt) : State × Nat :=
  if entClass e.word = cls then (s, 1) else (setClass s va e cls (some (clusterOf g.core)), 0)

/-- A hint is applied or ignored, as the hardware chooses (R513). -/
def classHint (cls : Nat) (s : State) (g : Group) (va : Dword) (e : TlbEnt) : State × Nat :=
  if Config.hintApplied s.free then ((classSet cls s g va e).1, 0) else (s, 1)

/-- The physical line of an address under a leaf. -/
def leafLine (va : Dword) (e : TlbEnt) : Nat := (vaPkg va * 2 ^ 40 + entPa e.word + va.toNat % 2 ^ tierShift e.tier) / 128

/-- The state code of R497. -/
def tokState (t : Tok) : Nat :=
  if t.count = 0 then 0 else if !t.owner then 1 else if t.count = 4096 then (if t.dirty then 4 else 2) else if t.dirty then 3 else 1

/-- PCLASS.LINE's word. -/
def lineWord (s : State) (g : Group) (va : Dword) (e : TlbEnt) : State × Nat :=
  let cl := clusterOf g.core
  let line := leafLine va e
  let t := s.tok cl line
  let cached := (s.cluster cl).lines.any (fun x => tagCtl x.1 && x.2.phys == line)
  let st := if entClass e.word = classShared then tokState t else if cached then 5 else 0
  (s, t.count + t.owner.toNat * 2 ^ 13 + t.dirty.toNat * 2 ^ 14 + (s.home line).poisoned.toNat * 2 ^ 15 + st * 2 ^ 16)

/-- PCLASS.CLEAR (R511, R513). -/
def lineClear (s : State) (g : Group) (va : Dword) (e : TlbEnt) : State × Nat :=
  let line := leafLine va e
  if !(s.home line).poisoned then (s, 1)
  else
    let p := setAD s (transDie va) { g.req 2 va with write := true } e
    let s := pocLine p.1 line true
    let s := physWrite s (line * 128) p.2.word (List.replicate 128 0)
    (s.putHome line { (s.home line) with poisoned := false }, 0)

def noWait (_ : State) (_ : Group) : Bool := false

def pclassClear (ck : Checks) (sh : Shape) (o : EOps) (s : State) : Out :=
  pclass true (fun s g => hasBurrow s s.cur || g.fenced g.seq { ctl := true, stores := true }) lineClear ck.closing sh o s

def pclassSet (ck : Checks) (sh : Shape) (o : EOps) (s : State) : Out := pclass true noWait (classSet (classNo o)) ck sh o s
/-- PCLASS.HINT. DESIGN CHOICE: it is not privileged, as R512's table says; R514's words would make it so (log 101). -/
def pclassHint (ck : Checks) (sh : Shape) (o : EOps) (s : State) : Out := pclass false noWait (classHint (classNo o)) ck sh o s

/-- Reports a control page's class and owner (R512). -/
def execPclassQuery (o : EOps) (s : State) : Out :=
  pclass false noWait classWord {} shAcrtFree o s

/-- Sets a page's class after gathering its tokens (R513). -/
def execPclassSet (o : EOps) (s : State) : Out :=
  pclassSet {} shPclassSet o s

/-- Asks for a class change, which may be applied or ignored (R513). -/
def execPclassHint (o : EOps) (s : State) : Out :=
  pclassHint {} shPclassHint o s

/-- Reports the issuing cluster's tokens and state for a line (R512). -/
def execPclassLine (o : EOps) (s : State) : Out :=
  pclass false noWait lineWord {} shAcrtFree o s

/-- Clears a poisoned line to zero (R513). -/
def execPclassClear (o : EOps) (s : State) : Out :=
  pclassClear {} shPclassClear o s

/-- A READ request reaches a holder or the home, which answers with data and a token or forwards it (R499). -/
def execCohReadRequest (cluster line : Nat) (s : State) : Out :=
  .next (cohRead s cluster line)

/-- A WRITE request gathers every token from holders and the home (R499). -/
def execCohWriteRequest (cluster line : Nat) (s : State) : Out :=
  .next (cohWrite s cluster line)

/-- A recall from the home reaches holders through the directories and filters (R501). -/
def execCohRecall (cluster line : Nat) (s : State) : Out :=
  .next (cohRecall s cluster line)

/-- Tokens and data arrive at a requester, which retries or goes persistent after three failed attempts (R503). -/
def execCohTokenAnswer (n : Nat) (s : State) : Out :=
  .next (tokenAnswer s n)

/-- A holder evicts a line, sending its tokens and dirty data to the home (R499). -/
def execCohEviction (cluster tag : Nat) (s : State) : Out :=
  .next (cohEvict s cluster tag)

/-- The home sets DIRTY at the primary and the mirror and acknowledges (R500). -/
def execDirtyNotice (cluster line : Nat) (s : State) : Out :=
  .next (dirtyNotice s cluster line)

/-- The home records PDIRTY of a PRIVATE page at the primary and the mirror (R507). -/
def execPdirtyNotice (cluster frame : Nat) (s : State) : Out :=
  .next (pdirtyNotice s cluster frame)

/-- A dirty owner's write-back updates control memory and its mirror and clears DIRTY (R500). -/
def execDirtyWriteback (cluster line : Nat) (s : State) : Out :=
  .next (dirtyWriteback s cluster line)

/-- A persistent request enters the home's table and is activated in arrival order (R504). -/
def execPersistentRequest (cluster line : Nat) (write : Bool) (s : State) : Out :=
  .next (persistentRequest s cluster line write)

/-- A conflicting access holds the page while it is reclassified to SHARED (R506). -/
def execClassConflict (cluster : Nat) (va : BitVec 64) (write : Bool) (s : State) : Out :=
  .next (classConflict s cluster va write)

/-- Survivors report tokens to the home, which rebuilds the count or poisons the line (R510). -/
def execCensusReport (line : Nat) (s : State) : Out :=
  .next (censusReport s line)

end Sys2Proof.Machine
end

