-- ==== Sys2Proof/Machine/Coll.lean ====
section
/-!
DEFINITION. The collective engine's instructions and events (R425 to R437).
-/

namespace Sys2Proof.Machine

/-- Checks 1, 2, 4 and 5 of R51 on a descriptor's address (R52, R434, R451). -/
def descCheck (s : State) (va : Dword) (align : Nat) : Option Nat :=
  if va.toNat % align ≠ 0 then some causeAlign
  else if spaceOf va = .reserved then some causeAccess
  else if spaceOf va ≠ .control then some causeSpace
  else if s.domain ≤ vaPkg va then some causeAccess
  else none

/-- The lowest free record of a die. -/
def freeColl (s : State) (die : Nat) : Option Nat := (List.range 64).find? (fun i => ((s.die die).colls.get? i).isNone)

/-- COLL (R429, R434). -/
def coll (ck : Checks) (sh : Shape) (o : EOps) (s : State) : Out :=
  issueC ck.closing sh o (fun s g =>
    let va := g.s2 s.free o.a.toNat
    let die := dieOfCore g.core
    match descCheck s va 64 with
    | some c => trapOf g c 0 va
    | none =>
      relReady 4 s g (fun s g =>
      if g.deny.contains (va.toNat / 65536) then
        let g := { g with deny := [] }
        okOuts s (g.post { cause := causeAccess, addr := va, lanes := g.em, seq := g.seq }) []
      else
        let r := g.req 0 va
        match pocOpen (s.putG g) r with
        | (_, .stop (.cause c)) => trapOf g c 0 va
        | (s, .stop (.fault d _)) => .ok { s := holdFault s d r (.group s.cur), g := { g with wait := .held d }, done := true }
        | (s, .stop (.refuse h)) =>
          .ok { s := s.refuse (.group s.cur) h, g := { g with wait := .held 0 }, done := true }
        | (_, .stop (.ok _ _)) => .hold .suspended
        | (s, .ok _) =>
          match freeColl s die with
          | none => .hold .suspended
          | some i =>
            let s := wbTensor s (clusterOf g.core)
            let d := s.die die
            let x : CollRec := { grp := s.cur, seq := d.collSeq, id := g.id, addr := va }
            let s := (s.putDie die { d with collSeq := (d.collSeq + 1) % 2 ^ 24 }).putColl die i x
            okOuts s (s.grp s.cur) [(sKey o.d.toNat, collHandle die i x)])) s

/-- The record of a handle, of the group's context (R435). -/
def collOf (s : State) (g : Group) (h : Word) : Option (Nat × Nat × CollRec) :=
  let die := pkgOfCore g.core * 4 + bits h.toNat 30 2
  let r := bits h.toNat 0 6
  match s.coll die r with
  | some x => if x.seq = bits h.toNat 6 24 ∧ !x.freed ∧ x.id.pkg = g.id.pkg ∧ x.id.ctx = g.id.ctx then some (die, r, x) else none
  | none => none

/-- COLLW and COLLW.TEST (R435). -/
def collw (test : Bool) (ck : Checks) (sh : Shape) (o : EOps) (s : State) : Out :=
  issueC ck sh o (fun s g =>
    let h := g.uB32 s.free o
    let p : Pend := { id := 0, dests := writesOf sh o }
    let give := fun (s : State) (g : Group) (n : Nat) (t : Option (Nat × Trap)) =>
      okPend s g { p with outs := [(sKey o.d.toNat, BitVec.ofNat 32 n)], cause := t }
    match collOf s g h with
    | none => give s g 5 none
    | some (die, r, x) =>
      if test then give s g (if x.st = .done then x.status else 2 ^ 32 - 1) none
      else if x.st = .done then
        let s := s.putDie die { (s.die die) with colls := (s.die die).colls.del r }
        if x.status = 1 then
          if g.trap.trapen.getLsbD 1 then give s g 1 (some (2, { cause := causePeer, lanes := g.em, seq := g.seq })) else give s (g.setErr 1#32) 1 none
        else give s g x.status none
      else okPend s g { p with wait := .coll h }) s

/-- CARB.SET (R436). -/
def carbSet (ck : Checks) (sh : Shape) (o : EOps) (s : State) : Out :=
  issueC ck.closing sh o (fun s g =>
    let pkg := pkgOfCore g.core
    let port := xField o 0 5
    let w := BitVec.ofNat 32 (xField o 8 8 * 256)
    let ports := if port = 31 then List.range 24 else [port]
    okOuts { s with carb := ports.foldl (fun t p => t.store 0x8800#32 (pkg * 24 + p) w) s.carb } g []) s

def carbGet (ck : Checks) (sh : Shape) (o : EOps) (s : State) : Out :=
  issueC ck.closing sh o (fun s g => okOuts s g [(sKey o.d.toNat, s.carbReg (pkgOfCore g.core) (xField o 0 5))]) s

/-- Issues a collective from a descriptor and returns a handle (R434). -/
def execColl (o : EOps) (s : State) : Out :=
  coll {} shColl o s

/-- Waits for a collective and writes its status (R435). -/
def execCollw (o : EOps) (s : State) : Out :=
  collw false {} shCollw o s

/-- Writes the status of a collective if it is complete (R435). -/
def execCollwTest (o : EOps) (s : State) : Out :=
  collw true {} shCollw o s

/-- Writes the arbitration weights of a Spewlink port (R436). -/
def execCarbSet (o : EOps) (s : State) : Out :=
  carbSet {} shCarbSet o s

/-- Reads a port's arbitration register (R436). -/
def execCarbGet (o : EOps) (s : State) : Out :=
  carbGet {} shCarbGet o s

/-- A member joins at the collective directory; the collective starts when all ranks have joined, or completes with mismatch (R425). -/
def execCollJoin (die rec : Nat) (s : State) : Out :=
  .next (collJoin s die rec)

/-- The engine observes the SIGNAL word and marks buckets ready (R427). -/
def execBucketReady (die rec : Nat) (s : State) : Out :=
  .next (bucketReady s die rec)

/-- A collective segment lands at its receiver and its power units are released (R430). -/
def execSegmentReceive (die rec n : Nat) (s : State) : Out :=
  .next (segmentReceive s pathUp die rec n)

/-- When every DST byte is written, the engine arrives on DONE and completes the handle (R429). -/
def execCollComplete (die rec : Nat) (s : State) : Out :=
  .next (collComplete s die rec)

/-- A collective ends on peer loss or fault with status 1 or 2 (R432). -/
def execCollAbort (die rec status : Nat) (s : State) : Out :=
  .next (collAbortEvent s die rec status)

end Sys2Proof.Machine
end

