-- ==== Sys2Proof/Machine/Launch.lean ====
section
/-!
DEFINITION. Launches (R61 to R84, R449 to R456): reading and checking a record, the geometry of its levels, acceptance and
rejection, the end of groups, cohorts and launches.
-/

namespace Sys2Proof.Machine

/-! ### The launch record (R80 to R82) -/

/-- The fields of 256 bytes, as a number. -/
def parseLevel (n i : Nat) : Level :=
  let d := bits n (512 + 64 * i) 64
  { ex := bits d 0 12 + 1, ey := bits d 12 10 + 1, ez := bits d 22 10 + 1, dom := bits d 32 3, scope := bits d 35 3 }

def parseRecord (n : Nat) : Record :=
  let f := fun (off lo len : Nat) => bits n (8 * off + lo) len
  { entry := BitVec.ofNat 64 (f 0 0 64), args := BitVec.ofNat 64 (f 8 0 64), done := BitVec.ofNat 64 (f 0x10 0 64)
    parent := BitVec.ofNat 32 (f 0x18 0 32)
    check := n.testBit (8 * 0x20 + 22), gang := n.testBit (8 * 0x20 + 21), prot := n.testBit (8 * 0x20 + 20)
    world := n.testBit (8 * 0x20 + 19), pri := f 0x20 16 3, nlvl := f 0x20 8 4
    nu := f 0x24 11 10, n32 := f 0x24 0 11, prec0 := f 0x28 14 8, vpc := f 0x28 10 4, vpn := f 0x28 0 10
    scr := f 0x2C 0 19, priv := f 0x30 0 16, memch := f 0x34 14 4, chan := f 0x34 10 4, neigh := f 0x34 5 5
    macros := f 0x34 0 5, nh := f 0x38 4 4, nw := f 0x38 0 4
    levels := (List.range (f 0x20 8 4 - 2)).map (parseLevel n) }

/-- The reserved fields, as bit position and length, VERSION aside. -/
def recordReserved : List (Nat × Nat) :=
  [(8 * 0x18 + 32, 32), (8 * 0x20 + 23, 9), (8 * 0x20 + 12, 4), (8 * 0x24 + 21, 11), (8 * 0x28 + 22, 10), (8 * 0x2C + 19, 13),
    (8 * 0x30 + 16, 16), (8 * 0x34 + 18, 14), (8 * 0x38 + 8, 24), (8 * 0x3C, 32), (8 * 0x70, 8 * 0x90)] ++
  (List.range 6).map (fun i => (512 + 64 * i + 38, 26))

/-- The fields that the record's layout names, as bit position and length (R80). -/
def recordNamed : List (Nat × Nat) :=
  [(0, 64), (64, 64), (128, 64), (8 * 0x18, 32), (8 * 0x20, 8), (8 * 0x20 + 8, 4), (8 * 0x20 + 16, 3), (8 * 0x20 + 19, 1), (8 * 0x20 + 20, 1),
    (8 * 0x20 + 21, 1), (8 * 0x20 + 22, 1), (8 * 0x24, 11), (8 * 0x24 + 11, 10), (8 * 0x28, 10), (8 * 0x28 + 10, 4), (8 * 0x28 + 14, 8),
    (8 * 0x2C, 19), (8 * 0x30, 16), (8 * 0x34, 5), (8 * 0x34 + 5, 5), (8 * 0x34 + 10, 4), (8 * 0x34 + 14, 4), (8 * 0x38, 4), (8 * 0x38 + 4, 4)] ++
  (List.range 6).flatMap (fun i => [(0, 12), (12, 10), (22, 10), (32, 3), (35, 3)].map (fun f => (512 + 64 * i + f.1, f.2)))

/-- A record that has been written since it was submitted: each field that the command processor reads is the old one or the new one
(R83). -/
def mixRecord (free old new : Nat) : Nat :=
  (recordNamed ++ recordReserved).foldl (fun n f =>
    n + bits (if Config.raceBytes free (2 ^ 210 + f.1) then old else new) f.1 f.2 * 2 ^ f.1) 0

/-! ### The geometry of levels (R61, R64, R65) -/

/-- Units of the level below in one unit of a level. -/
def Level.size (l : Level) : Nat := l.ex * l.ey * l.ez

def domCore : Nat := 1
def domCluster : Nat := 2
def domNeigh : Nat := 3
def domDie : Nat := 4
def domDomain : Nat := 6

def sizeOf_ (ls : List Level) : Nat := ls.foldl (fun n l => n * l.size) 1

namespace Record

/-- The levels bound to CORE, and the levels above the cohort level (R61). -/
def coreLevels (r : Record) : List Level := r.levels.filter (fun l => l.dom == domCore)
def upperLevels (r : Record) : List Level := r.levels.filter (fun l => l.dom != domCore)

/-- Lane groups of a cohort, and cohorts of the launch (R61, R62, R64). -/
def cohortSize (r : Record) : Nat := sizeOf_ r.coreLevels
def cohorts (r : Record) : Nat := sizeOf_ r.upperLevels

/-- The cohorts in one unit of the highest level bound to a domain; none: no level is. -/
def unitSize (r : Record) (dom : Nat) : Option Nat :=
  if r.levels.any (fun l => l.dom == dom) then some (sizeOf_ (r.upperLevels.filter (fun l => decide (l.dom ≤ dom)))) else none

/-- The cohorts that become resident together (R69). -/
def together (r : Record) : Nat := if r.nw = 0 then 1 else r.nw * r.nh

/-- The cohorts in one unit of the level below the top (R464). -/
def belowTop (r : Record) : Nat := sizeOf_ r.upperLevels.dropLast

/-- The coordinate words of %lvl0 up (R65), of lane group number n of the launch. -/
def coordsFrom : List Level → Nat → List Word
  | [], _ => []
  | l :: ls, n =>
    let i := n % l.size
    BitVec.ofNat 32 (i % l.ex + i / l.ex % l.ey * 2 ^ 12 + i / l.ex / l.ey * 2 ^ 22) :: coordsFrom ls (n / l.size)

def coords (r : Record) (n : Nat) : List Word := 0 :: coordsFrom r.levels n

/-- The lane slices of one lane (R67). -/
def slices (r : Record) : Nat := (r.n32 + r.vpn * r.vpc + 7) / 8 * 8

/-- The slices that a cohort needs in each quarter (R67). -/
def quarterSlices (r : Record) : Nat := (r.cohortSize + 3) / 4 * r.slices

/-- The rules of R61 on the declared levels. -/
def levelsOk (r : Record) : Bool :=
  let doms := r.levels.map (·.dom)
  let nbh := (r.levels.filter (fun l => l.dom == domNeigh)).length
  (doms.headD domCore == domCore) &&
  doms.all (fun d => d != 0 && d != 7) &&
  (doms.zip (doms.drop 1)).all (fun p => decide (p.1 ≤ p.2)) &&
  r.levels.all (fun l => decide (l.dom ≤ l.scope) && l.scope != 7) &&
  decide (r.cohortSize ≤ 64) &&
  decide (nbh ≤ 1) &&
  (if nbh = 0 then r.nw == 0 && r.nh == 0 && r.neigh == 0
   else r.nw != 0 && !doms.contains domCluster && r.unitSize domNeigh == some (r.nw * r.nh) && r.neigh == r.nw * r.nh) &&
  !(doms.dropLast.contains domDomain) &&
  (r.gang == (doms.getLastD domCore == domDomain)) &&
  decide (sizeOf_ r.levels ≤ 2 ^ 32)

/-- The field ranges of R80 and the rules of R81 and R82 that the record alone decides; n: its bytes as a number. -/
def fieldsOk (r : Record) (n : Nat) : Bool :=
  recordReserved.all (fun f => bits n f.1 f.2 == 0) && bits n (8 * 0x20) 8 == 1 &&
  decide (2 ≤ r.nlvl) && decide (r.nlvl ≤ 8) &&
  (List.range 6).all (fun i => decide (i < r.nlvl - 2) || bits n (512 + 64 * i) 64 == 0) &&
  decide (1 ≤ r.nu) && decide (r.nu ≤ 512) && decide (1 ≤ r.n32) && decide (r.n32 ≤ 1024) &&
  decide (1 ≤ r.prec0) && decide (r.prec0 ≤ 224) && decide (r.vpn ≤ 256) &&
  (if r.vpn = 0 then r.vpc == 0 else decide (2 ≤ r.vpc) && decide (r.vpc ≤ 8)) &&
  decide (r.scr ≤ 0x40000) && r.priv % 4 == 0 && decide (r.memch ≤ 8) && decide (r.chan ≤ 8) && decide (r.neigh ≤ 24) &&
  decide (r.macros ≤ 16) && decide (r.nw ≤ 8) && decide (r.nh ≤ 12) && ((r.nw == 0) == (r.nh == 0)) && decide (r.nw * r.nh ≤ 24) &&
  decide (spaceOf r.entry = .control) && r.entry.toNat % 4 == 0 &&
  (r.done == 0 || (decide (spaceOf r.done = .control) && r.done.toNat % 16 == 0)) &&
  decide (r.slices ≤ 1024) && decide (r.quarterSlices ≤ 2048)

end Record

/-! ### Working units, and what a core can hold (R15, R63, R67, R68, R326) -/

def works (f : Fuses) (c : Nat) : Bool := !f.off.contains c

/-- The working macros and channels of a core of the package. -/
def macrosOf (f : Fuses) (c : Nat) : List Nat :=
  let m := match f.macros.find? (fun e => e.1 == c) with
    | some e => e.2
    | none => 0xFFFF#16
  if works f c then (List.range 16).filter (fun i => m.getLsbD i) else []

def chansOf (f : Fuses) (c : Nat) : List Nat :=
  let m := match f.chans.find? (fun e => e.1 == c) with
    | some e => e.2
    | none => 0xFF#8
  if works f c then (List.range 8).filter (fun i => m.getLsbD i) else []

/-- The cohorts that are resident on a core, by key. -/
def State.residents (s : State) (core : Nat) : Tab Cohort := s.cohorts.filter (fun e => e.2.core == core)

/-- Working macros and channels of a core that no resident cohort holds. -/
def freeMacros (s : State) (core : Nat) : List Nat :=
  (macrosOf (s.pkg (pkgOfCore core)).fuses (core % 384)).filter (fun m => !(s.residents core).any (fun e => e.2.macros.contains m))
def freeChans (s : State) (core : Nat) : List Nat :=
  (chansOf (s.pkg (pkgOfCore core)).fuses (core % 384)).filter (fun m => !(s.residents core).any (fun e => e.2.chans.contains m))

/-- The groups in the slots of a quarter of a core. -/
def inQuarter (s : State) (core q : Nat) : List Group :=
  (s.groups.filter (fun e => s.onCore e.2 core && e.2.slot / 64 == q)).map (·.2)

/-- A cohort with some scratchpad and stash bindings fits on a core beside those that are resident (R67, R68, R290, R326). -/
def fitsCore (s : State) (r : Record) (stash : List Binding) (core : Nat) : Bool :=
  let here := s.residents core
  let scr := here.foldl (fun n e => n + (e.2.scrLimit + 4095) / 4096 * 4096) 0
  let bound := here.flatMap (fun e => e.2.stash)
  works (s.pkg (pkgOfCore core)).fuses (core % 384) &&
  decide (r.macros ≤ (freeMacros s core).length) && decide (r.chan ≤ (freeChans s core).length) &&
  (r.macros == 0 || here.all (fun e => e.2.macros.isEmpty)) &&
  decide (scr + (r.scr + 4095) / 4096 * 4096 ≤ 0x40000) &&
  stash.all (fun b => decide (b.so + b.len ≤ 0x40000 - (scr + (r.scr + 4095) / 4096 * 4096)) &&
    bound.all (fun x => (decide (x.so + x.len ≤ b.so) || decide (b.so + b.len ≤ x.so)) &&
      (decide (x.g.toNat + x.len ≤ b.g.toNat) || decide (b.g.toNat + b.len ≤ x.g.toNat)))) &&
  (List.range 4).all (fun q =>
    decide (((inQuarter s core q).map (fun g => g.info.slices)).sum + r.quarterSlices ≤ 2048) &&
    decide ((inQuarter s core q).length + (r.cohortSize + 3) / 4 ≤ 64))

/-- The cores of a die's rectangle of w columns and h rows, from an origin (R14, R69). -/
def rectCores (dk w h col row : Nat) : List Nat := (List.range (w * h)).map (fun i => dk * 96 + (row + i / w) * 8 + col + i % w)

/-- The origins of rectangles, rows from 0 and columns from 0 (R454). -/
def rectOrigins (w h : Nat) : List (Nat × Nat) := (List.range (13 - h)).flatMap (fun row => (List.range (9 - w)).map (fun col => (col, row)))

/-- A package with nothing resident can hold each unit of the launch (R63). -/
def holds (s : State) (pkg : Nat) (r : Record) : Bool :=
  let e := { s with cohorts := [] }
  if r.nw = 0 then (List.range 384).any (fun c => fitsCore e r [] (pkg * 384 + c))
  else (List.range 4).any (fun d =>
    (rectOrigins r.nw r.nh).any (fun o => (rectCores (pkg * 4 + d) r.nw r.nh o.1 o.2).all (fitsCore e r [])))

/-! ### Launches -/

/-- The package whose dispatcher list a launch is on (R449, R452). -/
def Launch.home (l : Launch) : Nat := l.id.handle.toNat / 2 ^ 27

def State.listLen (s : State) (pkg : Nat) : Nat := (s.launches.filter (fun e => e.2.home == pkg)).length

/-- The packages that take the units of a launch (R464). -/
def launchMembers (s : State) (pkg : Nat) (r : Record) : List Nat :=
  if r.gang ∧ (s.pkg pkg).gang ≠ [] then (s.pkg pkg).gang else [pkg]

/-- The slice that a member runs, or is leaving (R465). -/
def GangSt.cur : GangSt → Nat
  | .run s => s
  | .drain s _ => s
  | .acked s _ => s

/-- The next cohort number, from k on, of a unit that taker j takes (log 21). -/
def Launch.owned (l : Launch) (j k : Nat) : Nat :=
  let z := if l.info.gang then l.info.belowTop else l.info.cohorts
  let c := l.takers.length
  let u := k / z
  min (if u % c = j then k else (u + (j + c - u % c) % c) * z) l.info.cohorts

/-- The next cohort that a package has to place. -/
def Launch.due (l : Launch) (pkg : Nat) : Nat := l.owned ((l.takers.findIdx? (· == pkg)).getD 0) (l.next.getD pkg 0)

def Launch.placed (l : Launch) : Bool := l.takers.all (fun m => l.due m == l.info.cohorts)

/-- A counter of the command processor's block (R211). -/
def bumpCp (s : State) (pkg n : Nat) : State := s.bump pkg 424 n

/-- What the arrivals and record reads of a launch carry. -/
def cpReq (s : State) (id : LaunchId) (va : Dword) : TransReq :=
  match s.ctx? id.pkg id.ctx with
  | some c => ctxReq s id.pkg id.asid c.world c.priv va
  | none => ctxReq s id.pkg id.asid id.world id.privileged va

/-- The arrival on DONE with count 1; false where DONE is 0, or fails R82, or the access faults (R451). -/
def arriveDone (s : State) (id : LaunchId) (done : Dword) : State × Bool :=
  if done = 0 ∨ spaceOf done ≠ .control ∨ done.toNat % 16 ≠ 0 then (s, false) else cpArrive s (cpReq s id done)

/-- A rejection (R451). -/
def rejectLaunch (s : State) (pkg : Nat) (id : LaunchId) (done : Dword) : State :=
  let s := bumpCp (putStatus s id stRejected causeLaunch 0) pkg 2
  match arriveDone s id done with
  | (s, true) => s
  | (s, false) => putStatus s id stRejected causeLaunch 1

/-- Acceptance by a package of the record at an address (R450): whether the launch enters the dispatcher list. `id` is what it
inherits, under its own handle; `seen`: the bytes of the record when it was submitted, where they are known. -/
def acceptLaunch (s : State) (pkg : Nat) (addr : Dword) (id : LaunchId) (parent : Word) (seen : List Byte) : State × Bool :=
  match s.ctx? id.pkg id.ctx with
  | none => (s, false)
  | some c =>
    match cpRead s (cpReq s id addr) 256 with
    | (s, none) => (rejectLaunch s pkg id 0, false)
    | (s, some bs) =>
      let n := if seen = [] then bytesNat bs else mixRecord s.free (bytesNat seen) (bytesNat bs)
      let r := parseRecord n
      let members := launchMembers s pkg r
      let takers := members.filter (fun m => holds s m r)
      if r.fieldsOk n && r.levelsOk && r.parent == parent && !(r.world && !c.world) && !takers.isEmpty then
        let l : Launch := {
          id := { id with world := r.world, gen := (s.asid pkg id.asid).gen }
          info := r, order := s.nextKey, members := members, takers := takers, slice := (s.pkg pkg).gst.cur
          st := if members.any (fun m => s.lostTo pkg m) then .faulted causePeer 0 else .running }
        let s := { s with launches := s.launches.put s.nextKey l, nextKey := s.nextKey + 1 }
        (bumpCp (putStatus s id stRunning 0 0) pkg 1, true)
      else (rejectLaunch s pkg id r.done, false)

/-! ### The end of a group (R225, R232, R435) -/

/-- The waiter belongs to a group. -/
def Waiter.ofGroup (gk : Nat) : Waiter → Bool
  | .load g _ => g == gk
  | .burrow g => g == gk
  | .fetch g => g == gk
  | .group g => g == gk
  | .conf g _ => g == gk
  | .ratom g _ => g == gk
  | _ => false

/-- The collective records of a group are freed: at once, or when the collective ends (R435). -/
def freeColls (s : State) (gk : Nat) : State :=
  { s with dies := s.dies.map (fun d => (d.1, { d.2 with
      colls := (d.2.colls.filter (fun c => !(c.2.grp == gk && c.2.st == .done))).map (fun c =>
        if c.2.grp == gk then (c.1, { c.2 with freed := true }) else c) })) }

/-- A group leaves its slot (R232). -/
def freeSlot (s : State) (g : Group) : State :=
  let q := s.quarter g.core g.quarter
  s.putQuarter g.core g.quarter
    { q with
      running := if q.running = some (g.slot % 64) then none else q.running
      age := q.age.del (g.slot % 64)
      yielding := q.yielding.del (g.slot % 64) }

def removeGroup (s : State) (gk : Nat) : State :=
  match s.groups.get? gk with
  | none => s
  | some g =>
    let s := if (s.cohorts.get? g.cohort).isSome then freeSlot s g else s
    let s := dropWaiters (freeColls s gk) (fun w => w.ofGroup gk)
    let s := { s with refusals := s.refusals.filter (fun e => e.1 != Initiator.group gk) }
    let c := s.cohort g.cohort
    let s := s.putCohort g.cohort { c with groups := c.groups.filter (· != gk) }
    { s with groups := s.groups.del gk }

/-! ### The end of a cohort and of a launch (R292, R455, R456, R462) -/

/-- The stash lines of a cohort's bindings. -/
def Cohort.stashLines (c : Cohort) : Nat → Bool := fun i => c.stash.any (fun b => decide (b.so / 128 ≤ i) && decide (i < (b.so + b.len) / 128))

/-- The stash entries of a cohort are written back and dropped (R292). -/
def dropStash (s : State) (c : Cohort) : State :=
  (((s.core c.core).stash.filter (fun e => c.stashLines e.1)).map (·.1)).foldl (fun s i => stashDrop s c.core i) s

/-- A cohort is no longer: its bindings are unmapped, and its launch counts it. -/
def endCohort (s : State) (ck : Nat) : State :=
  match s.cohorts.get? ck with
  | some c =>
    let s := bumpCp (dropStash s c) (pkgOfCore c.core) 4
    let s := { s with cohorts := s.cohorts.del ck }
    match s.launches.get? c.launch with
    | some l => { s with launches := s.launches.put c.launch { l with live := l.live - 1 } }
    | none => s
  | none =>
    match s.saved.get? ck with
    | none => s
    | some x =>
      let s := { s with saved := s.saved.del ck }
      match s.launches.get? x.cohort.launch with
      | some l => { s with launches := s.launches.put x.cohort.launch { l with live := l.live - 1 } }
      | none => s

/-- The engine work of a launch that ends early is settled (R456, R462). -/
def settleEngines (s : State) (id : LaunchId) : State :=
  let s := solvStopLaunch s id
  s.dies.foldl (fun s d => d.2.colls.foldl (fun s c =>
    match s.coll d.1 c.1 with
    | some x => if x.id.same id && x.st != .done then collAbort s d.1 c.1 2 else s
    | none => s) s) s

/-- A copy of a group is outstanding on a core. -/
def copyOf (s : State) (core gk : Nat) : Bool := (s.core core).chans.any (fun c => c.2.queue.any (fun j => j.grp == gk))

/-- A group issues nothing and stands at a point of R73: a clause boundary, a wait in BAR.WAIT or CWAIT (R371), or halted (R221). -/
def Group.stopped (g : Group) : Bool :=
  match g.run, g.clause, g.wait with
  | .running, some _, .bar _ _ _ => true
  | .running, some _, .cwait _ => true
  | .running, some _, _ => false
  | _, _, _ => true

/-- The group is held at a VPLD whose heads are being read: pre-emption cancels the VPLD (R74, R285). -/
def Group.atHeads (g : Group) : Bool :=
  g.wait.isHeld && ((g.clause.bind (·.item)).any (fun it => opOf it.words == 0x4A))

/-- A group of a launch that is being reset has stopped (R462): what a held group waited for has been abandoned. -/
def Group.aborted (g : Group) : Bool := g.stopped || g.wait.isHeld

/-- The accesses of a group have drained (R456). -/
def drained (s : State) (gk : Nat) : Bool :=
  let g := s.grp gk
  g.ratoms.isEmpty && !hasBurrow s gk && !copyOf s g.core gk

/-- The tile instructions of a group are discarded, with their power requests (R195). -/
def dropTile (s : State) (core gk : Nat) : State :=
  let t := s.tile core
  let mine := t.jobs.filter (fun j => j.grp == gk)
  if mine.isEmpty then s
  else
    let s := mine.foldl (fun s j => powerWithdraw s (dieOfCore core) (.tile core j.num)) s
    let s := dropWaiters s (fun w => w == .tile core)
    s.putTile core { t with jobs := t.jobs.filter (fun j => j.grp != gk) }

/-- The copies of a group are abandoned (R462). -/
def dropCopies (s : State) (core gk : Nat) : State :=
  ((s.core core).chans.filter (fun c => c.2.queue.any (fun j => j.grp == gk))).foldl (fun s c =>
    let s := dropWaiters (powerWithdraw s (dieOfCore core) (.copy core c.1)) (fun w => w == .copy core c.1)
    startHead (s.putChan core c.1 { c.2 with queue := c.2.queue.filter (fun j => j.grp != gk), st := .idle }) core c.1) s

/-- A cohort is discarded with its groups (R456, R462). -/
def discardCohort (s : State) (ck : Nat) : State :=
  let c := s.cohort ck
  let s := c.groups.foldl (fun s gk =>
    let core := (s.grp gk).core
    let s := if (s.cohorts.get? ck).isSome then dropTile s core gk else s
    let s := s.putCore core { (s.core core) with burrow := (s.core core).burrow.filter (fun e => e.grp != gk) }
    removeGroup (dropCopies s core gk) gk) s
  endCohort s ck

/-- The cohorts of a launch, resident and saved. -/
def cohortsOf (s : State) (lk : Nat) : List Nat :=
  (s.cohorts.filter (fun e => e.2.launch == lk)).map (·.1) ++ (s.saved.filter (fun e => e.2.cohort.launch == lk)).map (·.1)

/-- The launch ends: its entry, then the arrival on DONE (R455, R456). -/
def finishLaunch (s : State) (lk : Nat) (l : Launch) (code cause sub : Nat) : State :=
  let s := putStatus s l.id code cause sub
  let s := (arriveDone s l.id l.info.done).1
  { s with launches := s.launches.del lk }

/-- A launch whose work is done, or has been stopped and has drained, ends (R455, R456, R462). -/
def launchCheck (s : State) (lk : Nat) : State :=
  match s.launches.get? lk with
  | none => s
  | some l =>
    let cs := cohortsOf s lk
    let still := cs.all (fun ck => (s.cohort ck).groups.all (fun gk => (s.grp gk).stopped || (s.cohorts.get? ck).isNone))
    let quiet := cs.all (fun ck => (s.cohort ck).groups.all (drained s))
    match l.st with
    | .running =>
      if l.placed && l.live == 0 then
        let h := l.held.getD (0, 0)
        cpDo (.launch l.home lk) (fun s => finishLaunch s lk l stDone h.1 h.2) s
      else s
    | .faulted c sub =>
      if still && quiet then cpDo (.launch l.home lk) (fun s => finishLaunch (cs.foldl discardCohort s) lk l stFaulted c sub) s else s
    | .aborted =>
      if cs.all (fun ck => (s.cohort ck).groups.all (fun gk => (s.grp gk).aborted || (s.cohorts.get? ck).isNone)) then
        let s := cs.foldl discardCohort s
        { s with launches := s.launches.del lk }
      else s

/-- A launch stops as one that has failed with a cause (R456): its cohorts stop at their boundaries, and its engine work is settled. -/
def launchFail (s : State) (lk cause sub : Nat) : State :=
  match s.launches.get? lk with
  | none => s
  | some l =>
    if l.st ≠ .running then s
    else
      let s := { s with launches := s.launches.put lk { l with st := .faulted cause sub } }
      let s := { s with cohorts := s.cohorts.map (fun (e : Nat × Cohort) => if e.2.launch = lk then (e.1, { e.2 with stop := true }) else e) }
      launchCheck (settleEngines s l.id) lk

/-- A group that has exited leaves; the last one of a cohort ends it, and the last one of a launch the launch (R225, R232, R455,
R457). DESIGN CHOICE: where several held causes remain at an EXIT, or several groups of a launch hold one, the launch's entry shows the lowest
class of the first group to exit (log 96). -/
def reap (s : State) (gk : Nat) : State :=
  match s.groups.get? gk with
  | none => s
  | some g =>
    if g.run ≠ .exited then s
    else
      let s := plRelease s g.core
      let c := s.cohort g.cohort
      let s := match s.launches.get? c.launch, g.firstPending with
        | some l, some (_, t) => { s with launches := s.launches.put c.launch { l with held := some (l.held.getD (t.cause, t.sub)) } }
        | _, _ => s
      let s := removeGroup s gk
      if (s.cohort g.cohort).groups.isEmpty then launchCheck (endCohort s g.cohort) c.launch else s

end Sys2Proof.Machine
end

