-- ==== Sys2Proof/Machine/Place.lean ====
section
/-!
DEFINITION. The dispatcher (R64 to R78, R84, R198, R452 to R454, R461, R547): cohorts become resident, are pre-empted and saved,
and are restored; the ramp step.
-/

namespace Sys2Proof.Machine

/-- A list in an order, equals as they stand. -/
def insertBy {α : Type} (le : α → α → Bool) (a : α) : List α → List α
  | [] => [a]
  | b :: t => if le a b then a :: b :: t else b :: insertBy le a t

def sortBy {α : Type} (le : α → α → Bool) : List α → List α
  | [] => []
  | a :: t => insertBy le a (sortBy le t)

/-! ### Roles and slots (R64, R78) -/

/-- Distinct units for n roles: which ones is the command processor's choice (R78, log 9). -/
def pickUnits (seed : Nat) : Nat → List Nat → List Nat
  | 0, _ => []
  | n + 1, avail =>
    match avail[Config.rolePick seed n % avail.length]? with
    | none => []
    | some u => u :: pickUnits (seed + 1) n (avail.erase u)

/-- The lowest free slot of quarter q of a core. -/
def freeSlotOf (s : State) (core q : Nat) : Nat :=
  let used := (inQuarter s core q).map (·.slot)
  q * 64 + ((List.range 64).find? (fun i => !used.contains (q * 64 + i))).getD 0

/-- The group takes a slot of quarter num mod 4 of a core (R64). -/
def seat (s : State) (core gk : Nat) (g : Group) : State :=
  { s with groups := s.groups.put gk { g with core := core, slot := freeSlotOf s core (g.num % 4) } }

/-! ### Dispatch (R69, R78, R84, R325, R547) -/

/-- The private block of a group: in tensor space of its own die, at a place that the command processor chooses (R43). -/
def privBlock (lk cohort num core : Nat) : Dword :=
  BitVec.ofNat 64 (2 ^ 62 + dieOfCore core * 2 ^ 55 + (Config.privateBlock lk cohort num).toNat % 2 ^ 35 * 2 ^ 20)

/-- The lines of a private block. -/
def privLines (r : Record) : Nat := (r.priv * 16 + 127) / 128

/-- A lane group at its start (R84, R529). -/
def newGroup (lk : Nat) (l : Launch) (ck cohort num core : Nat) : Group :=
  let r := l.info
  { info := r, id := l.id, cohort := ck, cohortNum := cohort, num := num, coords := r.coords (cohort * r.cohortSize + num)
    core := core, pc := r.entry, em := if r.prot then 0x00FF else 0xFFFF
    regs := Tab.store (Tab.store [] 0 (sKey 0) (r.args.setWidth 32)) 0 (sKey 1) ((r.args >>> 32).setWidth 32)
    privBase := privBlock lk cohort num core, uncleared := List.range (privLines r) }

/-- The private block of a group is cleared (R547). -/
def clearBlock (s : State) (gk : Nat) : State :=
  (s.grp gk).uncleared.foldl (fun s i => (clearPriv s gk { (s.grp gk).req 1 0 with write := true, read := false } i).1) s

/-- Cohort number k of a launch becomes resident on a core, under key ck; `mates` and `cores` are the cohorts of its neighbourhood
unit and their cores. Its groups take the keys after ck. -/
def install (s : State) (lk : Nat) (l : Launch) (k unit ck core : Nat) (mates cores : List Nat) : State :=
  let r := l.info
  let seed := s.free + ck
  let chans := pickUnits (seed + 100) r.chan (freeChans s core)
  let macros := pickUnits seed r.macros (freeMacros s core)
  let c : Cohort := {
    id := l.id, launch := lk, unit := unit, seq := ck, core := core, num := k
    groups := (List.range r.cohortSize).map (fun g => ck + 1 + g)
    scrLimit := r.scr, macros := macros, neigh := mates, neighCores := cores.map (· % 96), chans := chans
    memch := pickUnits (seed + 200) r.memch (List.range 8) }
  let s := { s with cohorts := s.cohorts.put ck c }
  let s := if r.macros = 0 then s else s.putTile core { int := r.check, next := (s.tile core).next }
  let s := chans.foldl (fun s i => s.putChan core i {}) s
  (List.range r.cohortSize).foldl (fun s g => clearBlock (seat s core (ck + 1 + g) (newGroup lk l ck k g core)) (ck + 1 + g)) s

/-! ### Starts (R198, R199) -/

def startMax (s : State) (pkg : Nat) : Nat := bits (s.pkg pkg).rampNow.toNat 0 8

/-- n cohorts may start on a die in this ramp step. -/
def mayStart (s : State) (dk n : Nat) : Bool :=
  let used := (s.pkg (dk / 4)).starts.getD (dk % 4) 0
  let m := startMax s (dk / 4)
  m == 0 || decide (used + n ≤ m) || (decide (m < n) && used == 0)

def countStart (s : State) (dk n : Nat) : State :=
  let p := s.pkg (dk / 4)
  let s := s.putPkg (dk / 4) { p with starts := p.starts.put (dk % 4) (p.starts.getD (dk % 4) 0 + n) }
  (List.range n).foldl (fun s _ => bumpCp s (dk / 4) 3) s

/-- The resident cohorts that start with one, where it has issued nothing yet: those of its neighbourhood unit (R198). -/
def startsWith (s : State) (ck : Nat) : List Nat :=
  match s.cohorts.get? ck with
  | none => []
  | some c =>
    if c.begun then []
    else ck :: c.neigh.filter (fun k => k != ck && (match s.cohorts.get? k with
      | some x => !x.begun
      | none => false))

/-- A cohort may issue: it has issued since it became resident, or the ramp step has room for its start. -/
def mayIssue (s : State) (ck : Nat) : Bool :=
  let n := (startsWith s ck).length
  n == 0 || mayStart s (dieOfCore (s.cohort ck).core) n

/-- A group of a cohort issues: a first issue is a start. -/
def beginCohort (s : State) (ck : Nat) : State :=
  match startsWith s ck with
  | [] => s
  | ks =>
    let s := ks.foldl (fun s k => { s with cohorts := s.cohorts.put k { s.cohort k with begun := true } }) s
    countStart s (dieOfCore (s.cohort ck).core) ks.length

/-! ### Where a unit goes (R63, R69, R454) -/

/-- The working cores of a die with no resident cohort. -/
def freeCores (s : State) (dk : Nat) : Nat :=
  ((List.range 96).filter (fun c => works (s.pkg (dk / 4)).fuses ((dk * 96 + c) % 384) && (s.residents (dk * 96 + c)).isEmpty)).length

/-- The dies of a package, most free working cores first, the lowest number first on a tie. -/
def dieOrder (s : State) (pkg : Nat) : List Nat :=
  (sortBy (fun a b => decide (b.2 ≤ a.2)) ((List.range 4).map (fun d => (pkg * 4 + d, freeCores s (pkg * 4 + d))))).map (·.1)

/-- The cores of a die by number, or, for a unit bound to CLUSTER, by cluster. -/
def coreOrder (r : Record) (dk : Nat) : List Nat :=
  if (r.unitSize domCluster).isSome then (List.range 24).flatMap (fun c => coresOf (dk * 24 + c)) else (List.range 96).map (fun c => dk * 96 + c)

/-- The die and the cluster that cohort k is bound to, by the units of its launch that have been placed. -/
def Launch.pinned (l : Launch) (dom k : Nat) : Option Nat :=
  (l.info.unitSize dom).bind (fun z => l.pins.get? (k / z * 2 + (if dom = domCluster then 1 else 0)))

def Launch.pin (l : Launch) (dom k v : Nat) : Launch :=
  match l.info.unitSize dom with
  | some z => { l with pins := l.pins.put (k / z * 2 + (if dom = domCluster then 1 else 0)) v }
  | none => l

/-- The place on a die for the next unit of a launch, whose first cohort is k: the cores of its cohorts. -/
def placeOn (s : State) (l : Launch) (k dk : Nat) : Option (List Nat) :=
  let r := l.info
  if r.nw = 0 then
    ((coreOrder r dk).find? (fun c => (l.pinned domCluster k).all (· == clusterOf c) && fitsCore s r [] c)).map (fun c => [c])
  else
    (rectOrigins r.nw r.nh).findSome? (fun o =>
      let cs := rectCores dk r.nw r.nh o.1 o.2
      if cs.all (fun c => (s.residents c).isEmpty && fitsCore s r [] c) then some cs else none)

/-- The dies of a package that the unit may go to. -/
def diesFor (s : State) (l : Launch) (pkg k : Nat) : List Nat :=
  (dieOrder s pkg).filter (fun d => (l.pinned domDie k).all (· == d) && (l.pinned domCluster k).all (fun c => c / 24 == d))

/-- A unit that could be placed on a die with nothing resident. -/
def couldPlace (s : State) (l : Launch) (k dk : Nat) : Bool := (placeOn { s with cohorts := [] } l k dk).isSome

/-- The cohorts of a unit become resident on cores. -/
def startUnit (s : State) (lk : Nat) (l : Launch) (pkg k : Nat) (cores : List Nat) : State :=
  let z := l.info.cohortSize + 1
  let keys := (List.range cores.length).map (fun i => s.nextKey + i * z)
  let mates := if l.info.nw = 0 then [] else keys
  let dk := dieOfCore (cores.headD 0)
  let s1 := (cores.zip keys).zipIdx.foldl (fun s e =>
    install s lk l (k + e.2) k e.1.2 e.1.1 mates (if mates.isEmpty then [] else cores)) { s with nextKey := s.nextKey + cores.length * z }
  let l := (l.pin domDie k dk).pin domCluster k (clusterOf (cores.headD 0))
  let l := { l with next := l.next.put pkg (k + cores.length), waited := l.waited.put pkg 0, live := l.live + cores.length }
  { s1 with launches := s1.launches.put lk l }

/-- A GANG launch runs in its slice only (R464). -/
def sliceOk (s : State) (l : Launch) (pkg : Nat) : Bool := !l.info.gang || (s.pkg pkg).gst == .run l.slice

/-- The next unit of a launch is placed by a package, off some dies; none: it waits. -/
def placeNext (s : State) (lk : Nat) (pkg : Nat) (shut : List Nat) : Option State :=
  match s.launches.get? lk with
  | none => none
  | some l =>
    let k := l.due pkg
    if l.st ≠ .running ∨ k = l.info.cohorts ∨ !sliceOk s l pkg then none
    else
      match (diesFor s l pkg k).findSome? (fun d => (placeOn s l k d).map (fun cs => (d, cs))) with
      | none => none
      | some (d, cs) => if shut.contains d then none else some (startUnit s lk l pkg k cs)

/-- Units of one launch are placed until one must wait. -/
def placeAll (lk pkg : Nat) (shut : List Nat) : Nat → State → State
  | 0, s => s
  | n + 1, s =>
    match placeNext s lk pkg shut with
    | none => s
    | some s => placeAll lk pkg shut n s

/-! ### Pre-emption and its points (R73 to R75, R185, R195, R348, R364) -/

/-- The channels of a cohort's roles stop, and withdraw what waits for power. -/
def stopChans (s : State) (c : Cohort) : State :=
  c.chans.foldl (fun s i =>
    let x := s.chan c.core i
    let s := if x.st = .grant then powerWithdraw s (dieOfCore c.core) (.copy c.core i) else s
    s.putChan c.core i { s.chan c.core i with st := .stop }) s

/-- Every piece that a stopped channel has sent has been answered (R364). -/
def chanQuiet (s : State) (core i : Nat) : Bool :=
  ((s.chan core i).queue.head?).all (fun j => j.flow.fly.isEmpty) && !(s.refused.any (fun r => r.who == .copy core i))

/-- A tile instruction that may stay pending across a save (R195, R348): a TGEMM at an interruption point, or one that has not started. -/
def gemmStays (s : State) (core : Nat) (j : TileJob) : Bool := (j.running && !j.held && j.pos == 0) || tileStays s core j

/-- The waiting TGEMMs of a core withdraw their requests for power (R195). -/
def withdrawTile (s : State) (core : Nat) : State :=
  ((s.tile core).jobs.filter (tileStays s core)).foldl (fun s j => powerWithdraw s (dieOfCore core) (.tile core j.num)) s

/-- A pending instruction that may stay pending across a save (R74). -/
def mayStay (s : State) (core : Nat) (p : Pend) : Bool :=
  match p.wait with
  | .fault _ => p.mop.isSome
  | .coll _ => true
  | .tile n => (s.tile core).jobs.any (fun j => j.num == n && gemmStays s core j)
  | _ => false

/-- A store to the stash window is logged. -/
def stashLogged (s : State) (gk : Nat) : Bool :=
  (burrowOf s gk).any (fun e => e.lanes.any (fun l => !l.done && decide (spaceOf l.va = .stash)))

/-- A group may be saved (R73, R74). -/
def Group.savable (s : State) (gk : Nat) (g : Group) : Bool :=
  (g.run == .running) && (g.stopped || g.atHeads) && !g.region.due && g.ratoms.isEmpty && g.comm.isEmpty &&
    g.pend.all (mayStay s g.core) && !stashLogged s gk

/-- Every group, tile instruction and channel of a cohort stands at a point of R73. -/
def savable (s : State) (c : Cohort) : Bool :=
  c.groups.all (fun gk => (s.grp gk).savable s gk) &&
  (c.macros.isEmpty || (s.tile c.core).jobs.all (gemmStays s c.core)) &&
  c.chans.all (chanQuiet s c.core)

/-- What a group keeps (R75, R111, R185, R517, R521): the window is written to the banks, a reservation is lost, a region is closed,
and a wait, or a held fetch, is taken up again. -/
def Group.kept (g : Group) : Group :=
  let g := g.flushWindow
  let fixed := fun (lo hi : Nat) => (g.ecc.filter (fun e => decide (e.2 = .correctable) && decide (lo ≤ e.1) && decide (e.1 < hi))).length
  { g with
    wait := .none
    resv := []
    ahead := {}
    region := { g.region with opened := false }
    ecc := g.ecc.filterMap (fun e => if e.2 = .correctable then none else some (e.1, .poison))
    tally := {
      lane := g.tally.lane + fixed 0 16384
      other := g.tally.other + fixed 16384 32768
      ue := g.tally.ue + (g.ecc.filter (fun e => decide (e.2 = .uncorrectable))).length } }

/-- A group leaves its slot for the save area. -/
def saveGroup (s : State) (gk : Nat) : State :=
  let g := s.grp gk
  let s := freeSlot s g
  let s := dropWaiters s (fun w => w.ofGroup gk && w != .burrow gk)
  { s with groups := s.groups.put gk g.kept }

/-! The context save area (R75). DESIGN CHOICE: the spec gives the area no layout; the model lays the items out in the order of R75, from
SAVE in the cohort's die, 8 MiB for each cohort (log 66). -/

/-- The registers of a group in the area: PC, %em, pending counts, declared lane registers and VP slices, uniform registers, predicates, x,
%prec, %vpstat, %err and the trap registers. -/
def groupImage (g : Group) : List Byte :=
  let w := fun (x : Word) => natBytes 4 x.toNat
  let lanes := List.range 16
  natBytes 8 g.pc.toNat ++ natBytes 2 g.em.toNat ++ (List.range 12).flatMap (fun f => natBytes 2 (g.flags.getD f 0)) ++
    (List.range (g.info.n32 + g.info.vpn * g.info.vpc)).flatMap (fun n => lanes.flatMap (fun l => w (g.regs.getD (vKey n l) 0))) ++
    (List.range g.info.nu).flatMap (fun n => w (g.regs.getD (sKey n) 0)) ++
    (List.range 8).flatMap (fun n => natBytes 2 (g.q.getD n 0).toNat) ++ [g.k] ++ (List.range 4).flatMap (fun n => natBytes 2 (g.x.getD n 0).toNat) ++
    lanes.flatMap (fun l => w (g.precOf l)) ++ lanes.flatMap (fun l => w (g.vpstat.getD l 0)) ++
    w g.trap.err ++ natBytes 8 g.trap.tpc.toNat ++ w g.trap.tcause ++ natBytes 8 g.trap.taddr.toNat ++ natBytes 2 g.trap.tmask.toNat ++
    natBytes 8 g.trap.tba.toNat ++ w g.trap.trapen

/-- The state of a copy channel in the area: WPTR, LCNT, REF, and of each queued copy its ranges and PROG. -/
def chanImage (c : Chan) : List Byte :=
  natBytes 8 c.wptr.toNat ++ natBytes 8 c.lcnt.toNat ++ natBytes 4 c.ref.toNat ++
    c.queue.flatMap (fun j => natBytes 8 j.dst.toNat ++ natBytes 8 j.src.toNat ++ natBytes 4 j.n ++ natBytes 4 j.rows ++ natBytes 8 j.flow.prog)

/-- The save area of a cohort: SAVE of its context, in the tensor space of its die. -/
def saveBase (s : State) (c : Cohort) (ck : Nat) : Option Dword :=
  (s.ctx? c.id.pkg c.id.ctx).map (fun x =>
    Dword.plus (BitVec.ofNat 64 (2 ^ 62 + dieOfCore c.core * 2 ^ 55 + x.save.toNat % 2 ^ 55)) (ck * 2 ^ 23))

/-- Bytes of the save area are written; an access that does not come through writes none. -/
def saveWrite (s : State) (c : Cohort) (va : Dword) (bs : List Byte) : State :=
  (pocWrite s (ctxReq s (pkgOfCore c.core) c.id.asid (engineWorld s (pkgOfCore c.core) 424) true va) bs).1

/-- A cohort is written to its save area. -/
def saveImage (s : State) (c : Cohort) (ck : Nat) : State :=
  match saveBase s c ck with
  | none => s
  | some base =>
    let t := s.tile c.core
    let bytes := (c.groups.flatMap (fun gk => groupImage (s.grp gk))) ++ (List.range c.scrLimit).map (fun i => c.scr.getD i 0) ++
      c.chans.flatMap (fun i => chanImage (s.chan c.core i))
    let s := saveWrite s c (Dword.plus base (2 ^ 20)) bytes
    if c.macros.isEmpty then s
    else
      (saveElts t base 0xFFFF 0xFFFF (t.jobs.any (·.running)) t.int t.tri
        ((List.range 2).map (fun b => ((t.bufs.getD b {}).fmt, (t.bufs.getD b {}).p)))
        ((List.range 16).map (fun m => (t.macs.getD m {}).fmt))).foldl (fun s e => saveWrite s c e.1 e.2) s

/-- A cohort is saved (R75, R185, R457). -/
def saveCohort (s : State) (ck : Nat) (why : SaveWhy) : State :=
  match s.cohorts.get? ck with
  | none => s
  | some c =>
    let core := c.core
    let s := plRelease s core
    let s := c.groups.foldl saveGroup s
    let s := invTensor (wbTensor (dropStash s c) (clusterOf core)) (clusterOf core)
    let s := saveImage s c ck
    let t := s.tile core
    let s := if c.macros.isEmpty then s else
      (t.jobs.foldl (fun s j => powerWithdraw s (dieOfCore core) (.tile core j.num)) s).putTile core { next := t.next }
    let chans := c.chans.map (fun i => { s.chan core i with st := .idle })
    let s := c.chans.foldl (fun s i => (powerWithdraw s (dieOfCore core) (.copy core i)).putChan core i {}) s
    let x : Saved := {
      cohort := { c with stop := false, begun := false }, die := dieOfCore core, tile := if c.macros.isEmpty then none else some t, chans := chans, why := why }
    let s := { s with cohorts := s.cohorts.del ck, saved := s.saved.put ck x }
    let s := bumpCp s (pkgOfCore core) 4
    if why = .other then s else bumpCp s (pkgOfCore core) 5

/-- The cohorts of the neighbourhood unit of a cohort, or the cohort alone. -/
def unitOf (s : State) (c : Cohort) (ck : Nat) : List Nat :=
  if c.neigh.isEmpty then [ck] else c.neigh.filter (fun k => (s.cohorts.get? k).isSome)

/-- A cohort is to be pre-empted: its groups start no clause, and its channels drain. -/
def stopCohort (s : State) (ck : Nat) : State :=
  match s.cohorts.get? ck with
  | none => s
  | some c => if c.stop then s else withdrawTile (stopChans { s with cohorts := s.cohorts.put ck { c with stop := true } } c) c.core

/-- PREEMPT: the cohort stops, and is saved once it stands at a point of R73. A launch that is being ended is not saved. -/
def preempt (s : State) (ck : Nat) (why : SaveWhy) : State :=
  match s.cohorts.get? ck with
  | none => s
  | some c =>
    match s.launches.get? c.launch with
    | none => s
    | some l =>
      if l.st ≠ .running then s
      else
        let s := c.groups.foldl commAll (stopCohort s ck)
        match s.cohorts.get? ck with
        | none => s
        | some c => if savable s c then saveCohort s ck why else s

/-! ### Restore (R74 to R76, R461) -/

/-- A swapped-out cohort may come back: one of its waits has passed, or the watch of its object meets a fault (R461). -/
def wakes (s : State) (x : Saved) : State × Bool :=
  match x.why with
  | .other => (s, true)
  | .swap objs => objs.foldl (fun (p : State × Bool) o =>
      if p.2 then p
      else
        match cpBar p.1 (cpReq p.1 x.cohort.id o.1) with
        | (s, none) => (s, true)
        | (s, some b) => (s, b.passed o.2)) (s, false)

/-- A saved cohort becomes resident on a core (R74 to R76). -/
def restoreOne (s : State) (ck core : Nat) (cores : List Nat) : State :=
  match s.saved.get? ck with
  | none => s
  | some x =>
    let c := x.cohort
    let seed := s.free + ck
    let chans := pickUnits (seed + 100) c.chans.length (freeChans s core)
    let macros := pickUnits seed c.macros.length (freeMacros s core)
    let c := { c with
      core := core, chans := chans, macros := macros, memch := pickUnits (seed + 200) c.memch.length (List.range 8)
      neighCores := cores.map (· % 96), seq := s.nextKey }
    let s := { s with saved := s.saved.del ck, cohorts := s.cohorts.put ck c, nextKey := s.nextKey + 1 }
    let s := match x.tile with
      | none => s
      | some t =>
        let s := s.putTile core { t with next := max t.next (s.tile core).next }
        t.jobs.foldl (fun s j => if j.op.units = 0 then s else powerAsk s (dieOfCore core) (.tile core j.num) j.op.units) s
    let s := c.groups.foldl (fun s gk => seat s core gk (s.grp gk)) s
    let s := (chans.zip x.chans).foldl (fun s e => startHead (s.putChan core e.1 e.2) core e.1) s
    c.groups.foldl (fun s gk => ((s.grp gk).pend.filter (fun p => p.mop.isSome)).foldl (fun s p => retryLoad s gk p.id) s) s

/-- The record of a cohort's launch. -/
def infoOf (s : State) (c : Cohort) : Record := (s.launches.getD c.launch {}).info

/-- The cores of a unit's cohorts, when cohort number i of it goes to a core. -/
def unitCores (r : Record) (i core : Nat) : Option (List Nat) :=
  if r.nw = 0 then some [core]
  else
    let col := core % 8
    let row := core % 96 / 8
    if i % r.nw ≤ col ∧ i / r.nw ≤ row ∧ col - i % r.nw + r.nw ≤ 8 ∧ row - i / r.nw + r.nh ≤ 12 then
      some (rectCores (dieOfCore core) r.nw r.nh (col - i % r.nw) (row - i / r.nw))
    else none

/-- The cohorts of a cohort's neighbourhood unit that have not ended, with the cores that the unit's cores give them. -/
def unitLeft (s : State) (c : Cohort) (ck : Nat) (cores : List Nat) : List (Nat × Nat) :=
  (if c.neigh.isEmpty then [ck].zip cores else c.neigh.zip cores).filter (fun e => (s.cohorts.get? e.1).isSome || (s.saved.get? e.1).isSome)

/-- COHORT_RESTORE: the cohort, with its neighbourhood unit, comes back on its die, where it fits (R76). -/
def restore (s : State) (ck core : Nat) : State :=
  match s.saved.get? ck with
  | none => s
  | some x =>
    let c := x.cohort
    let l := s.launches.getD c.launch {}
    let r := l.info
    match unitCores r (c.num - c.unit) core with
    | none => s
    | some cores =>
      let left := unitLeft s c ck cores
      let xs := left.map (fun e => s.saved.getD e.1 {})
      let empty := left.all (fun e => (s.saved.get? e.1).isSome)
      let still := xs.all (fun y => y.cohort.groups.all (fun gk => !hasBurrow s gk))
      let fits := cores.all (fun k => r.nw == 0 || (s.residents k).isEmpty) &&
        (left.zip xs).all (fun e => fitsCore s r e.2.cohort.stash e.1.2)
      if l.st ≠ .running ∨ dieOfCore core ≠ x.die ∨ !empty ∨ !still ∨ !fits ∨ !sliceOk s l (pkgOfCore core) then s
      else
        let w := xs.foldl (fun (p : State × Bool) y => if p.2 then p else wakes p.1 y) (s, false)
        if !w.2 then w.1
        else left.foldl (fun s e => restoreOne s e.1 e.2 (if r.nw = 0 then [] else cores)) w.1

/-! ### The ramp step (R198, R452, R453, R461) -/

/-- The objects and phases that the groups of a cohort wait on, when every group is blocked in BAR.WAIT with .swap on a
control-space object (R461). -/
def swapObjs (s : State) (c : Cohort) : Option (List (Dword × Nat)) :=
  c.groups.foldl (fun (acc : Option (List (Dword × Nat))) gk =>
    match acc, (s.grp gk).run, (s.grp gk).wait with
    | some l, .running, .bar va p true => if spaceOf va = .control then some (l ++ [(va, p)]) else none
    | _, _, _ => none) (some [])

/-- Cohorts whose groups all wait are swapped out, neighbourhood units whole (R461). -/
def swapOut (s : State) (pkg : Nat) : State :=
  (s.cohorts.filter (fun e => pkgOfCore e.2.core == pkg)).foldl (fun s e =>
    match s.cohorts.get? e.1 with
    | none => s
    | some c =>
      let us := unitOf s c e.1
      if c.groups ≠ [] ∧ us.all (fun k => (swapObjs s (s.cohort k)).isSome) then
        us.foldl (fun s k => preempt s k (.swap ((swapObjs s (s.cohort k)).getD []))) s
      else s) s

/-- Launches that a package places units of, in the order of service (R452). -/
def serviceOrder (s : State) (pkg : Nat) : List (Nat × Launch) :=
  sortBy (fun a b => decide (b.2.info.pri < a.2.info.pri) || (a.2.info.pri == b.2.info.pri && decide (a.2.order ≤ b.2.order)))
    (s.launches.filter (fun e => e.2.takers.contains pkg))

/-- The launch has waited 64 ramp steps at a package. -/
def starving (s : State) (pkg lk : Nat) : Bool :=
  match s.launches.get? lk with
  | some l => decide (64 ≤ l.waited.getD pkg 0) && decide (l.due pkg < l.info.cohorts) && (l.st == .running)
  | none => false

/-- The dies that a launch must leave to earlier ones of equal or higher PRI (R452). -/
def shutDies (s : State) (pkg : Nat) (l : Launch) (before : List (Nat × Launch)) : List Nat :=
  (before.filter (fun b => starving s pkg b.1 && decide (b.2.order < l.order) && decide (l.info.pri ≤ b.2.info.pri))).flatMap (fun b =>
    let x := s.launches.getD b.1 {}
    (List.range 4).map (fun d => pkg * 4 + d) |>.filter (fun d => couldPlace s x (x.due pkg) d))

/-- Resident cohorts of a die that a launch of some PRI may pre-empt: lowest PRI first, youngest first (R453). -/
def victims (s : State) (dk pri : Nat) : List Nat :=
  (sortBy (fun a b =>
      decide ((infoOf s a.2).pri < (infoOf s b.2).pri) || ((infoOf s a.2).pri == (infoOf s b.2).pri && decide (b.2.seq ≤ a.2.seq)))
    (s.cohorts.filter (fun e => dieOfCore e.2.core == dk && !e.2.stop && decide ((infoOf s e.2).pri < pri)))).map (·.1)

/-- The state without some cohorts, and without those that are leaving. -/
def without (s : State) (ks : List Nat) : State :=
  { s with cohorts := s.cohorts.filter (fun e => !e.2.stop && !(ks.any (fun k => k == e.1 || (s.cohort k).neigh.contains e.1))) }

/-- The fewest of the first victims that make room on a die (R453). -/
def chooseVictims (s : State) (l : Launch) (k dk : Nat) : Option (List Nat) :=
  let vs := victims s dk l.info.pri
  match (List.range (vs.length + 1)).find? (fun n => (placeOn (without s (vs.take n)) l k dk).isSome) with
  | none => none
  | some n => some ((vs.take n).foldr (fun v acc => if (placeOn (without s (acc.erase v)) l k dk).isSome then acc.erase v else acc) (vs.take n))

/-- A launch that has waited 64 steps stops what its next unit needs (R453). -/
def makeRoom (s : State) (pkg lk : Nat) : State :=
  match s.launches.get? lk with
  | none => s
  | some l =>
    match (diesFor s l pkg (l.due pkg)).findSome? (chooseVictims s l (l.due pkg)) with
    | none => s
    | some vs => vs.foldl (fun s v => (unitOf s (s.cohort v) v).foldl stopCohort s) s

/-- One launch is served in a ramp step (R452, R453). -/
def serveLaunch (pkg : Nat) (before : List (Nat × Launch)) (e : Nat × Launch) (s : State) : State :=
  let s := placeAll e.1 pkg (shutDies s pkg e.2 before) 65536 s
  match s.launches.get? e.1 with
  | none => s
  | some l =>
    if l.due pkg = l.info.cohorts ∨ l.st ≠ .running then s
    else
      let s := { s with launches := s.launches.put e.1 { l with waited := l.waited.put pkg (l.waited.getD pkg 0 + 1) } }
      if starving s pkg e.1 && sliceOk s l pkg then makeRoom s pkg e.1 else s

def serveAll (pkg : Nat) : List (Nat × Launch) → List (Nat × Launch) → State → State
  | _, [], s => s
  | before, e :: rest, s => serveAll pkg (before ++ [e]) rest (serveLaunch pkg before e s)

/-- RAMP_STEP: starts are counted anew, waiting cohorts are swapped out, launches that are ending are looked at, and waiting
units are placed. -/
def rampStep (s : State) (pkg : Nat) : State :=
  let p := s.pkg pkg
  let s := s.putPkg pkg { p with rampNow := p.ramp, starts := [] }
  let s := swapOut s pkg
  let s := (s.launches.filter (fun e => e.2.st != .running)).foldl (fun s e => launchCheck s e.1) s
  serveAll pkg [] (serviceOrder s pkg) s

end Sys2Proof.Machine
end

