-- ==== Sys2Proof/Machine/Serve.lean ====
section
/-!
DEFINITION. What the command processor serves (R439 to R465): packets, the registration window, device-side launches, queue
resets and the gang protocol.
-/

namespace Sys2Proof.Machine

/-! ### The gang protocol (R464, R465) -/

/-- The members of a package's gang. -/
def gangOf (s : State) (pkg : Nat) : List Nat := if (s.pkg pkg).gang = [] then [pkg] else (s.pkg pkg).gang

/-- The member that leads: one that runs a SWITCH, else the lowest that survives. -/
def leaderOf (s : State) (pkg : Nat) : Nat :=
  let live := (gangOf s pkg).filter (fun m => !s.lostTo pkg m)
  match live.find? (fun m => (s.pkg m).lead.isSome) with
  | some m => m
  | none => live.foldl min (live.headD pkg)

def sendGang (s : State) (src dest : Nat) (w : GangWord) : State :=
  transmit { s with gmsgs := s.gmsgs ++ [{ src := src, dest := dest, word := w }] } src dest vcMgmt

/-- The leader proposes a slice to every member that is not lost. -/
def proposeAll (s : State) (pkg slice : Nat) (again : Bool) (queue : Option (Nat × Nat)) : State :=
  let live := (gangOf s pkg).filter (fun m => !s.lostTo pkg m)
  let s := s.putPkg pkg { (s.pkg pkg) with lead := some { slice := slice, waits := live, queue := queue } }
  live.foldl (fun s m => sendGang s pkg m (.propose slice again)) s

/-- The resident cohorts of GANG launches of a slice in a package. -/
def sliceCohorts (s : State) (pkg slice : Nat) : List Nat :=
  (s.cohorts.filter (fun e => pkgOfCore e.2.core == pkg && (match s.launches.get? e.2.launch with
    | some l => l.info.gang && l.slice == slice
    | none => false))).map (·.1)

/-- PROPOSE arrives (R465): the member stops starting cohorts of its slice, and pre-empts them. -/
def gangPropose (s : State) (n : Nat) : State :=
  match s.gmsgs[n]? with
  | none => s
  | some m =>
    match m.word with
    | .propose slice again =>
      let s := { s with gmsgs := s.gmsgs.eraseIdx n }
      let p := s.pkg m.dest
      match p.gst with
      | .run cur =>
        if again && cur == slice then sendGang s m.dest m.src (.ack slice)
        else (sliceCohorts s m.dest cur).foldl stopCohort (s.putPkg m.dest { p with gst := .drain cur slice })
      | .drain _ _ => s
      | .acked _ next => sendGang s m.dest m.src (.ack next)
    | _ => s

/-- The cohorts of the old slice are saved: ACK (R465). -/
def gangSaved (s : State) (pkg : Nat) : State :=
  let p := s.pkg pkg
  match p.gst with
  | .drain cur next =>
    if (sliceCohorts s pkg cur).isEmpty then sendGang (s.putPkg pkg { p with gst := .acked cur next }) pkg (leaderOf s pkg) (.ack next) else s
  | _ => s

/-- COMMIT arrives (R465). -/
def gangCommit (s : State) (n : Nat) : State :=
  match s.gmsgs[n]? with
  | none => s
  | some m =>
    match m.word with
    | .commit slice =>
      let s := { s with gmsgs := s.gmsgs.eraseIdx n }
      match (s.pkg m.dest).gst with
      | .acked _ next => if next = slice then s.putPkg m.dest { (s.pkg m.dest) with gst := .run slice } else s
      | _ => s
    | _ => s

/-! ### Packets (R442 to R446) -/

/-- What becomes of a head packet: consumed with a RESULT, waiting, or an error of an ECODE. -/
inductive PktRes where
  | done (result : Word)
  | wait
  | error (code : Nat)
  deriving DecidableEq, Repr

/-- A packet's own accesses (R445). -/
def pktReq (s : State) (pkg a i : Nat) (va : Dword) : TransReq :=
  let id := queueId s pkg a i
  { ctxReq s pkg a id.world id.privileged va with root := id.root, qgen := id.qgen }

/-- The bits that a packet may set, RESULT aside (R443); n: the packet's first 60 bytes as a number. -/
def packetMask (n : Nat) : Nat :=
  let f := fun (off len : Nat) => (2 ^ len - 1) * 2 ^ (8 * off)
  let base := f 0 9
  match n % 256 with
  | 0 => base
  | 1 => base + f 8 64
  | 2 => base + f 8 64 + f 0x10 64 + f 0x18 32 + f 0x20 64
  | 3 => base + f 4 2 + f 8 64 + f 0x10 64
  | 4 => base + f 4 3 + f 8 64 + f 0x10 64 + f 0x18 64
  | 5 => base + f 4 2 + ((List.range (bits n 32 2)).map (fun i => f (8 + 16 * i) 64 + f (0x10 + 16 * i) 16)).sum
  | 6 => base + f 4 6
  | 7 => base + f 4 4 + (if bits n 32 4 = 0 then f 8 8 else f 8 16)
  | _ => 0

def pktD (n off : Nat) : Dword := BitVec.ofNat 64 (bits n (8 * off) 64)

/-- An end of a COPY lies in the spaces that R444 allows, and inside one region (R48). -/
def copyEndOk (s : State) (va : Dword) (n : Nat) : Bool :=
  let last := va.toNat + (n - 1)
  (spaceOf va).global && decide (vaPkg va < s.domain) && decide (last < 2 ^ 64) && regionKey va == regionKey (BitVec.ofNat 64 last)

/-- The ECODE of an invalid packet (R443, R445); 0: valid. -/
def packetBad (s : State) (pkg a i n : Nat) : Nat :=
  let ctl := fun (off al : Nat) => decide (spaceOf (pktD n off) = .control) && decide ((pktD n off).toNat % al = 0)
  let ok := match n % 256 with
    | 1 => ctl 8 256
    | 2 => copyEndOk s (pktD n 8) (bits n (8 * 0x18) 32) && copyEndOk s (pktD n 0x10) (bits n (8 * 0x18) 32) && (pktD n 0x20 == 0 || ctl 0x20 16)
    | 3 => ctl 8 (if n.testBit 32 then 8 else 4)
    | 4 => ctl 8 (if n.testBit 34 then 8 else 4)
    | 5 => decide (bits n 32 2 ≠ 0) && (List.range (bits n 32 2)).all (fun j => ctl (8 + 16 * j) 16)
    | 7 => decide (bits n 32 4 < 2)
    | _ => true
  if 7 < n % 256 ∨ n &&& packetMask n ≠ n ∨ !ok then 1
  else if n % 256 = 6 ∧ (bits n 32 6 = i ∨ (s.queue? pkg a (bits n 32 6)).isNone) then 5
  else 0

/-- Step 1 of a reset (R446, R462): the queue enters RESETTING; a second reset of it waits for the first. -/
def beginReset (s : State) (pkg a i : Nat) (w : ResetWaiter) : State :=
  match s.queue? pkg a i with
  | none => s
  | some q => putQueue s pkg a i { q with st := .resetting, waiters := q.waiters ++ [w] }

/-- SIGNAL (R443). -/
def pktSignal (s : State) (pkg a i n : Nat) : State × PktRes :=
  let k := if n.testBit 32 then 8 else 4
  let v := bits n (8 * 0x10) 64
  let r := pktReq s pkg a i (pktD n 8)
  if n.testBit 33 then
    match cpUpdate s r k (fun old => old + v) with
    | (s, some _) => (s, .done 0)
    | (s, none) => (s, .error 3)
  else
    match cpWrite s r (natBytes k v) with
    | (s, some _) => (s, .done 0)
    | (s, none) => (s, .error 3)

/-- WAIT (R443). -/
def pktWait (s : State) (pkg a i n : Nat) : State × PktRes :=
  let k := if n.testBit 34 then 8 else 4
  match cpNum s (pktReq s pkg a i (pktD n 8)) k with
  | (s, none) => (s, .error 3)
  | (s, some w) =>
    let x := w &&& (bits n (8 * 0x18) 64 % 2 ^ (8 * k))
    let v := bits n (8 * 0x10) 64 % 2 ^ (8 * k)
    let met := match bits n 32 2 with
      | 0 => decide (x = v)
      | 1 => decide (x ≠ v)
      | 2 => decide (v ≤ x)
      | _ => decide (x < v)
    (s, if met then .done 0 else .wait)

/-- BARRIER-AND (R443). -/
def pktBarrier (s : State) (pkg a i n : Nat) : State × PktRes :=
  (List.range (bits n 32 2)).foldl (fun (p : State × PktRes) j =>
    match p.2 with
    | .error _ => p
    | r =>
      match cpBar p.1 (pktReq p.1 pkg a i (pktD n (8 + 16 * j))) with
      | (s, none) => (s, .error 3)
      | (s, some b) => (s, if b.passed (bits n (8 * (0x10 + 16 * j)) 16) then r else .wait)) (s, .done 0)

/-- LAUNCH (R443, R449 to R451): the list's place, the handle, PENDING, and acceptance. -/
def pktLaunch (s : State) (pkg a i n : Nat) : State × PktRes :=
  if 256 ≤ s.listLen pkg then (s, .wait)
  else
    match takeHandle s pkg (queueId s pkg a i) with
    | (s, none) => (s, .error 3)
    | (s, some h) =>
      let id := { queueId s pkg a i with handle := h }
      match acceptLaunch (putStatus s id stPending 0 0) pkg (pktD n 8) id 0 [] with
      | (s, true) => (s, .done h)
      | (s, false) => (s, .error 2)

/-- A valid head packet is processed. -/
def packetDo (s : State) (pkg a i n : Nat) : State × PktRes :=
  match n % 256 with
  | 1 => pktLaunch s pkg a i n
  | 2 => (hubStart s pkg a i (((s.queue? pkg a i).getD {}).ridx % 2 ^ 24) (pktD n 8) (pktD n 0x10) (bits n (8 * 0x18) 32) (pktD n 0x20), .done 0)
  | 3 => pktSignal s pkg a i n
  | 4 => pktWait s pkg a i n
  | 5 => pktBarrier s pkg a i n
  | 6 => (beginReset s pkg a (bits n 32 6) (.packet i), .wait)
  | 7 =>
    if bits n 32 4 = 1 then (owlTrigger s pkg 2 (BitVec.ofNat 16 (bits n 64 16)) pkg false, .done 0)
    else if (s.pkg pkg).lead.isSome then (s, .wait)
    else (proposeAll s pkg (bits n 64 8) false (some (a, i)), .wait)
  | _ => (s, .done 0)

/-- The head packet of a queue: its address and first 60 bytes; none where it cannot be read (ECODE 3, or 1 for a bad descriptor). -/
def headPacket (s : State) (pkg a i : Nat) (q : Queue) : State × Except Nat (Dword × Nat) :=
  match readQDesc s pkg a i with
  | (s, .error e) => (s, .error e)
  | (s, .ok d) =>
    let at_ := Dword.plus d.ring (64 * (q.ridx % 2 ^ d.szlog))
    match cpNum s (pktReq s pkg a i at_) 60 with
    | (s, none) => (s, .error 3)
    | (s, some n) => (s, .ok (at_, n))

/-- A packet is consumed (R442): RESULT, RIDX, and the MSI for INT. -/
def consume (s : State) (pkg a i : Nat) (at_ : Dword) (n : Nat) (result : Word) : State :=
  match cpWrite s (pktReq s pkg a i (Dword.plus at_ 0x3C)) (natBytes 4 result.toNat) with
  | (s, none) => queueError s pkg a i 3
  | (s, some _) =>
    match s.queue? pkg a i with
    | none => s
    | some q =>
      let ridx := (q.ridx + 1) % 2 ^ 32
      let s := putQueue (bumpCp s pkg 0) pkg a i { q with ridx := ridx, st := if ridx = q.widx then .idle else .run }
      if n.testBit 8 then queueMsi s pkg a i else s

/-- What follows from a head packet's processing (R446). A rejected launch writes RESULT 0 (R443). -/
def packetEnd (s : State) (pkg a i : Nat) (at_ : Dword) (n : Nat) (r : PktRes) : State :=
  match r with
  | .done w => consume s pkg a i at_ n w
  | .wait =>
    match s.queue? pkg a i with
    | some q => if q.st = .run then putQueue s pkg a i { q with st := .blocked } else s
    | none => s
  | .error c =>
    let s := if c = 2 then (cpWrite s (pktReq s pkg a i (Dword.plus at_ 0x3C)) (natBytes 4 0)).1 else s
    queueError s pkg a i c

/-- The head of a queue that runs, when it is a packet of a kind; one that is invalid or cannot be read is an error. -/
def packetEvent (s : State) (pkg a i : Nat) (kind : Nat → Bool) : State :=
  match s.queue? pkg a i with
  | none => s
  | some q =>
    if q.st ≠ .run ∨ q.ridx = q.widx then s
    else
      match headPacket s pkg a i q with
      | (s, .error e) => queueError s pkg a i e
      | (s, .ok (at_, n)) =>
        if packetBad s pkg a i n ≠ 0 then queueError s pkg a i (packetBad s pkg a i n)
        else if !kind n then s
        else
          let r := packetDo s pkg a i n
          packetEnd r.1 pkg a i at_ n r.2

/-- The head of a BLOCKED queue is consumed (R462, R464). -/
def consumeHead (s : State) (pkg a i : Nat) : State :=
  match s.queue? pkg a i with
  | none => s
  | some q =>
    if q.st ≠ .blocked then s
    else
      match headPacket s pkg a i q with
      | (s, .error e) => queueError s pkg a i e
      | (s, .ok (at_, n)) => consume s pkg a i at_ n 0

/-- COMMIT of the SWITCH at the head of a queue has been sent. -/
def switched (s : State) (pkg a i : Nat) : Bool := (s.pkg pkg).lead.any (fun l => l.sent && l.queue == some (a, i))

/-- The SWITCH is over: its packet is consumed (R464). -/
def switchEnd (s : State) (pkg a i : Nat) : State := consumeHead (s.putPkg pkg { (s.pkg pkg) with lead := none }) pkg a i

/-- A BLOCKED queue looks at its head again (R446): WAIT, BARRIER-AND, a LAUNCH that the full list held back, a SWITCH that
another one held back, or one that is over. -/
def waitMet (s : State) (pkg a i : Nat) : State :=
  match s.queue? pkg a i with
  | none => s
  | some q =>
    if switched s pkg a i then switchEnd s pkg a i
    else if q.st ≠ .blocked then s
    else
      match headPacket s pkg a i q with
      | (s, .error e) => queueError s pkg a i e
      | (s, .ok (at_, n)) =>
        let ty := n % 256
        if ty = 1 ∨ ty = 4 ∨ ty = 5 ∨ (ty = 7 ∧ (s.pkg pkg).lead = none) then
          let r := packetDo s pkg a i n
          packetEnd r.1 pkg a i at_ n r.2
        else s

/-- The ACKs that a leader waits for are in: COMMIT, and the packet of the SWITCH is consumed (R464). -/
def gangReady (s : State) (pkg : Nat) : State :=
  match (s.pkg pkg).lead with
  | none => s
  | some l =>
    if l.waits = [] ∧ !l.sent then
      let s := ((gangOf s pkg).filter (fun m => !s.lostTo pkg m)).foldl (fun s m => sendGang s pkg m (.commit l.slice)) s
      match l.queue with
      | some (a, i) =>
        cpDo (.cp pkg (.met a i)) (fun s => switchEnd s pkg a i) (s.putPkg pkg { (s.pkg pkg) with lead := some { l with sent := true } })
      | none => s.putPkg pkg { (s.pkg pkg) with lead := none }
    else s

/-- ACK arrives at the leader. -/
def gangAck (s : State) (n : Nat) : State :=
  match s.gmsgs[n]? with
  | none => s
  | some m =>
    match m.word with
    | .ack slice =>
      let s := { s with gmsgs := s.gmsgs.eraseIdx n }
      match (s.pkg m.dest).lead with
      | some l =>
        if l.slice = slice then
          gangReady (s.putPkg m.dest { (s.pkg m.dest) with lead := some { l with waits := l.waits.filter (· != m.src) } }) m.dest
        else s
      | none => s
    | _ => s

/-! ### The registration window (R447, R448) -/

/-- The address of a slot of a package's window. -/
def slotAddr (pkg n : Nat) : Dword := BitVec.ofNat 64 (pkg * 2 ^ 57 + 0x10000 + 0x100 * n)

def State.winSlot (s : State) (pkg n : Nat) : WinSlot := (s.pkg pkg).slots.getD n {}
def State.putSlotReq (s : State) (pkg n : Nat) (r : Option WinReq) (begun : Bool) : State :=
  s.putPkg pkg { (s.pkg pkg) with slots := (s.pkg pkg).slots.put n { s.winSlot pkg n with req := r, begun := begun } }

/-- A TICKET that differs from DONE is seen, and its request read. -/
def ticket (s : State) (pkg n : Nat) : State :=
  if !(s.pkg pkg).up ∨ 16 ≤ n ∨ (s.winSlot pkg n).req.isSome then s
  else
    match cpNum s (fwReq s pkg (slotAddr pkg n)) 0x84 with
    | (s, none) => s
    | (s, some v) =>
      if bits v 0 32 = bits v (8 * 0x80) 32 then s
      else
        s.putSlotReq pkg n (some {
          ticket := BitVec.ofNat 32 v, opc := bits v 32 8, arg0 := BitVec.ofNat 64 (bits v 64 64)
          arg1 := BitVec.ofNat 64 (bits v 128 64), world := (s.winSlot pkg n).world }) false

/-- STATUS, RESULT, then DONE. -/
def answer (s : State) (pkg n : Nat) (status result : Nat) : State :=
  match (s.winSlot pkg n).req with
  | none => s
  | some r =>
    let s := fwPut s pkg (Dword.plus (slotAddr pkg n) 0x84) 12 (status + result * 2 ^ 32)
    (fwPut s pkg (Dword.plus (slotAddr pkg n) 0x80) 4 r.ticket.toNat).putSlotReq pkg n none false

/-- The request of a slot, when it is the command OPC and is not under way. -/
def winCmd (s : State) (pkg n : Nat) (opc : Nat → Bool) (f : WinReq → State) : State :=
  match (s.winSlot pkg n).req with
  | some r => if opc r.opc && !(s.winSlot pkg n).begun then f r else s
  | none => s

/-- The fields of a context descriptor, from 0x34 bytes (R439). -/
def parseCtx (va : Dword) (n : Nat) : CtxReg :=
  let f := fun (off lo len : Nat) => bits n (8 * off + lo) len
  { desc := va, qtab := BitVec.ofNat 64 (f 0 0 64), priv := n.testBit 83, world := n.testBit 82, nq := f 8 12 6, stlog := f 0x0C 0 5
    stab := BitVec.ofNat 64 (f 0x10 0 64), ovf := BitVec.ofNat 64 (f 0x18 0 64), ovn := f 0x20 0 16, save := BitVec.ofNat 64 (f 0x28 0 64) }

/-- A descriptor whose reserved bits, ranges and addresses are right (R439, R448). -/
def ctxOk (s : State) (c : CtxReg) (n : Nat) : Bool :=
  bits n (64 + 20) 12 == 0 && bits n (96 + 5) 27 == 0 && bits n (256 + 16) 16 == 0 && bits n (384 + 27) 5 == 0 &&
  decide (6 ≤ c.stlog) && decide (c.stlog ≤ 16) && decide (1 ≤ c.ovn) && ctlAddr s c.qtab 256 && ctlAddr s c.stab 8 && ctlAddr s c.ovf 128 &&
  decide (spaceOf c.save = .tensor)

/-- Every queue is STOPPED with RIDX = WIDX; false where a WIDX cannot be read. -/
def openQueues (pkg a : Nat) (c : CtxReg) : Nat → State → State × Bool
  | 0, s => (s, true)
  | k + 1, s =>
    match openQueues pkg a c k s with
    | (s, false) => (s, false)
    | (s, true) =>
      match cpNum s (fwReq s pkg (Dword.plus (c.qdesc k) 0x80)) 4 with
      | (s, none) => (s, false)
      | (s, some w) => (putQueue s pkg a k { ridx := w, widx := w }, true)

/-- CTXREG (R448). -/
def ctxReg (s : State) (pkg slot : Nat) (r : WinReq) : State :=
  if !ctlAddr s r.arg0 64 then answer s pkg slot 1 0
  else
    match cpNum s { fwReq s pkg r.arg0 with world := r.world } 0x34 with
    | (s, none) => answer s pkg slot 4 0
    | (s, some n) =>
      let c := parseCtx r.arg0 n
      let a := bits n 64 12
      if !ctxOk s c n then answer s pkg slot 1 0
      else if c.world && !r.world then answer s pkg slot 3 0
      else if (s.ctx? pkg a).isSome then answer s pkg slot 2 0
      else
        match openQueues pkg a c (c.nq + 1) (s.putCtx pkg a c) with
        | (s, true) => answer s pkg slot 0 a
        | (s, false) => answer (s.putPkg pkg { (s.pkg pkg) with ctxs := (s.pkg pkg).ctxs.del a }) pkg slot 4 0

/-- The context that a command names, if a request of its world may name it (R448): else the STATUS. -/
def namedCtx (s : State) (pkg : Nat) (r : WinReq) : Except Nat CtxReg :=
  match (if r.arg0.toNat < 4096 then s.ctx? pkg r.arg0.toNat else none) with
  | none => .error 5
  | some c => if c.world && !r.world then .error 3 else .ok c

/-- CTXDEREG (R448). -/
def ctxDereg (s : State) (pkg slot : Nat) (r : WinReq) : State :=
  match namedCtx s pkg r with
  | .error e => answer s pkg slot e 0
  | .ok c =>
    let a := r.arg0.toNat
    if (List.range (c.nq + 1)).any (fun i => (c.queues.getD i {}).st != .stopped) ||
       s.launches.any (fun e => e.2.id.pkg == pkg && e.2.id.ctx == a) then answer s pkg slot 6 0
    else answer (s.putPkg pkg { (s.pkg pkg) with ctxs := (s.pkg pkg).ctxs.del a }) pkg slot 0 0

/-- A command on a queue of a context (R448). -/
def queueCmd (s : State) (pkg slot : Nat) (r : WinReq) (f : Nat → Nat → State) : State :=
  match namedCtx s pkg r with
  | .error e => answer s pkg slot e 0
  | .ok c => if c.nq < r.arg1.toNat then answer s pkg slot 5 0 else f r.arg0.toNat r.arg1.toNat

def qstart (s : State) (pkg slot : Nat) (r : WinReq) : State :=
  queueCmd s pkg slot r (fun a i => answer (startQueue s pkg a i) pkg slot 0 0)

def qresetCmd (s : State) (pkg slot : Nat) (r : WinReq) : State :=
  queueCmd s pkg slot r (fun a i => (beginReset s pkg a i (.slot slot)).putSlotReq pkg slot (some r) true)

/-! ### Device-side launches (R457 to R459) -/

/-- The bytes of a record as it is submitted (R83). -/
def recordSeen (s : State) (id : LaunchId) (va : Dword) : List Byte :=
  match (pocRead s (cpReq s id va) 256).2 with
  | .ok bs => bs
  | .stop _ => []

/-- A record is queued: QUEUED 0, SPILLED 1, or FULL 2 with handle 0. -/
def queueLaunch (s : State) (gk : Nat) (va : Dword) : State × Word × Nat :=
  let g := s.grp gk
  let pkg := pkgOfCore g.core
  match takeHandle s pkg g.id with
  | (s, none) => (s, 0, 2)
  | (s, some h) =>
    let e : PendLaunch := { addr := va, handle := h, parent := g.id, grp := gk, num := g.num, seen := recordSeen s g.id va }
    let id := { g.id with handle := h }
    let c := s.core g.core
    if c.plq.length < 4 then (putStatus (s.putCore g.core { c with plq := c.plq ++ [e] }) id stPending 0 0, h, 0)
    else
      match s.ctx? g.id.pkg g.id.ctx with
      | none => (s, 0, 2)
      | some x =>
        match cpNum s (fwReq s g.id.pkg x.ovf) 8 with
        | (s, none) => (s, 0, 2)
        | (s, some v) =>
          let ow := bits v 0 32
          if x.ovn < (ow + 1 + 2 ^ 32 - bits v 32 32) % 2 ^ 32 then (s, 0, 2)
          else
            match cpWrite s (fwReq s g.id.pkg (Dword.plus x.ovf (0x80 + 16 * (ow % x.ovn)))) (natBytes 12 (va.toNat + h.toNat * 2 ^ 64)) with
            | (s, none) => (s, 0, 2)
            | (s, some _) =>
              let s := fwPut s g.id.pkg x.ovf 4 (ow + 1)
              let p := s.pkg pkg
              (putStatus (s.putPkg pkg { p with spills := p.spills ++ [{ e with spilled := true }] }) id stSpilled 0 0, h, 1)

/-- The command processor advances ORIDX for a record of a context (R458). -/
def oridx (s : State) (id : LaunchId) : State :=
  match s.ctx? id.pkg id.ctx with
  | some c => (cpUpdate s (fwReq s id.pkg (Dword.plus c.ovf 4)) 4 (fun v => v + 1)).1
  | none => s

/-- A list in an order that the spec does not state (R457). -/
def anyOrder {α : Type} (seed : Nat) : Nat → List α → List α
  | 0, l => l
  | n + 1, l =>
    match l[Config.spillOrder seed n % l.length]? with
    | none => l
    | some x => x :: anyOrder seed n (l.eraseIdx (Config.spillOrder seed n % l.length))

/-- PENDING_QUEUE_TAKE: released entries of a core in queue order, then released spilled records (R457, R458). -/
def pendingTake (s : State) (core : Nat) : State :=
  let c := s.core core
  let p := s.pkg (pkgOfCore core)
  let es := c.plq.filter (·.released)
  let sp := p.spills.filter (·.released)
  if es = [] ∧ sp = [] then s
  else
    let s := s.putCore core { c with plq := c.plq.filter (fun e => !e.released) }
    let s := s.putPkg (pkgOfCore core)
      { p with spills := p.spills.filter (fun e => !e.released), work := p.work ++ es ++ anyOrder s.free sp.length sp }
    sp.foldl (fun s e => oridx s e.parent) s

/-- LAUNCH_ACCEPT of an entry that has been taken, in order (R450, R451). A rejection reaches the issuing group in class 3. -/
def launchAccept (s : State) (pkg n : Nat) : State :=
  match (s.pkg pkg).work[n]? with
  | none => s
  | some e =>
    if 256 ≤ s.listLen pkg ∨ (n ≠ 0 ∧ !e.spilled) then s
    else
      let s := s.putPkg pkg { (s.pkg pkg) with work := (s.pkg pkg).work.eraseIdx n }
      match acceptLaunch s pkg e.addr { e.parent with handle := e.handle } e.parent.handle e.seen with
      | (s, true) => s
      | (s, false) =>
        match s.groups.get? e.grp with
        | some g =>
          if s.onCore g g.core then
            { s with groups := s.groups.put e.grp (g.post { cause := causeLaunch, lanes := g.em, seq := g.seq }) }
          else s
        | none => s

/-! ### Queue reset (R462, R463) -/

/-- The launch, or record, descends from a queue. -/
def LaunchId.rooted (id : LaunchId) (pkg a i : Nat) : Bool := id.pkg == pkg && id.ctx == a && id.queue == i

/-- Records that have not been accepted become ABORTED. -/
def abortRecords (s : State) (pkg a i : Nat) : State :=
  let mine := fun (e : PendLaunch) => e.parent.rooted pkg a i
  let all := s.cores.flatMap (fun c => c.2.plq.filter mine) ++ s.pkgs.flatMap (fun p => (p.2.spills ++ p.2.work).filter mine)
  let spilled := s.pkgs.flatMap (fun p => p.2.spills.filter mine)
  let s := { s with
    cores := s.cores.map (fun (c : Nat × Core) => (c.1, { c.2 with plq := c.2.plq.filter (fun e => !mine e) }))
    pkgs := s.pkgs.map (fun (p : Nat × Pkg) => (p.1, { p.2 with spills := p.2.spills.filter (fun e => !mine e), work := p.2.work.filter (fun e => !mine e) })) }
  let s := spilled.foldl (fun s e => oridx s e.parent) s
  all.foldl (fun s e => putStatus s { e.parent with handle := e.handle } stAborted 0 0) s

/-- What a group has under way is abandoned. -/
def abandon (s : State) (gk : Nat) : State :=
  match s.groups.get? gk with
  | none => s
  | some g =>
    let s := dropWaiters s (fun w => w.ofGroup gk)
    let s := if (s.cohorts.get? g.cohort).isSome then dropTile s g.core gk else s
    let s := s.putCore g.core { (s.core g.core) with burrow := (s.core g.core).burrow.filter (fun e => e.grp != gk) }
    let s := dropCopies s g.core gk
    let free := match g.wait with
      | .none => g
      | _ => if g.clause.isSome then { g with run := .halted 0 0, wait := .none } else { g with wait := .none }
    { s with groups := s.groups.put gk { free with ratoms := [], comm := [], pend := [], flags := [] } }

/-- Stores that have reached a cluster enter their coherence order before a generation changes (R186, R463). -/
def settleStores (s : State) : State :=
  s.clusters.foldl (fun s c => wbTensor (stashEvent s c.1 (fun _ => true) false) c.1) s

/-- Steps 2 and 3 of a reset. -/
def queueReset (s : State) (pkg a i : Nat) : State :=
  match s.queue? pkg a i with
  | none => s
  | some q =>
    if q.st ≠ .resetting ∨ q.struck then s
    else
      let s := putQueue (settleStores s) pkg a i { q with gen := (q.gen + 1) % 2 ^ 16, struck := true }
      let s := abortRecords s pkg a i
      let ls := s.launches.filter (fun e => e.2.id.rooted pkg a i)
      let s := ls.foldl (fun s e =>
        let s := putStatus { s with launches := s.launches.put e.1 { e.2 with st := .aborted } } e.2.id stAborted 0 0
        let s := { s with cohorts := s.cohorts.map (fun (c : Nat × Cohort) => if c.2.launch = e.1 then (c.1, { c.2 with stop := true }) else c) }
        let s := settleEngines s e.2.id
        ((cohortsOf s e.1).flatMap (fun ck => (s.cohort ck).groups)).foldl abandon s) s
      (s.pkg pkg).hub.foldl (fun s e =>
        if e.2.id.rooted pkg a i then dropHub (dropWaiters s (fun w => w == .hub pkg e.1)) pkg e.1 else s) s

/-- Steps 4 and 5: the launches are gone, and no write of the old generation is under way. -/
def resetDone (s : State) (pkg a i : Nat) : State :=
  match s.queue? pkg a i with
  | none => s
  | some q0 =>
    if q0.st ≠ .resetting ∨ !q0.struck then s
    else
      let s := (s.launches.filter (fun e => e.2.id.rooted pkg a i)).foldl (fun s e => launchCheck s e.1) s
      if s.launches.any (fun e => e.2.id.rooted pkg a i) then s
      else
        match s.queue? pkg a i, s.ctx? pkg a with
        | some q, some c =>
          let p := cpNum s (fwReq s pkg (Dword.plus (c.qdesc i) 0x80)) 4
          let w := p.2.getD q.widx
          let s := putQueue p.1 pkg a i { q with st := .stopped, ridx := w, widx := w, struck := false, startDue := false, waiters := [] }
          let s := q.waiters.foldl (fun s x => match x with
            | .packet j => consumeHead s pkg a j
            | .slot n => answer s pkg n 0 0) s
          if q.startDue then startQueue s pkg a i else s
        | _, _ => s

end Sys2Proof.Machine
end

