-- ==== Sys2Proof/Machine/Sha.lean ====
section
/-!
DEFINITION. SHA-256 and RSA-3072, which measurement registers are extended with and images and reports are checked and signed with
(R203, R204). The rules name SHA-256 and give no constants: FIPS 180-4 takes them from the roots of the first primes (log 31), and so
does this file.
-/

namespace Sys2Proof.Machine

namespace Sha

/-- The primes below a bound, smallest first. -/
def primesBelow (n : Nat) : List Nat := (List.range n).filter (fun p => 2 ≤ p && ((List.range p).drop 2).all (fun d => p % d ≠ 0))

/-- The greatest r below 2^bits with r^e at most x, found bit by bit. -/
def floorRoot (e x : Nat) : Nat → Nat → Nat
  | 0, r => r
  | bits + 1, r => floorRoot e x bits (if (r + 2 ^ bits) ^ e ≤ x then r + 2 ^ bits else r)

/-- The first 32 bits of the fraction of the e-th root of p. -/
def rootBits (e p : Nat) : Word := BitVec.ofNat 32 (floorRoot e (p * 2 ^ (32 * e)) 40 0)

/-- The word that each of the 64 steps adds: cube roots of the primes up to 311. -/
def stepWords : List Word := (primesBelow 312).map (rootBits 3)

/-- The bytes of a number, highest first. -/
def bigEndian (n v : Nat) : List Byte := (List.range n).map (fun i => BitVec.ofNat 8 (v / 2 ^ (8 * (n - 1 - i))))

def number (bs : List Byte) : Nat := bs.foldl (fun n b => n * 256 + b.toNat) 0

/-- The working state: what FIPS 180-4 calls a to h. -/
structure Work where
  a : Word
  b : Word
  c : Word
  d : Word
  e : Word
  f : Word
  g : Word
  h : Word
  deriving DecidableEq, Repr

def Work.words (w : Work) : List Word := [w.a, w.b, w.c, w.d, w.e, w.f, w.g, w.h]

def Work.ofWords (ws : List Word) : Work :=
  let at_ i := ws.getD i 0
  { a := at_ 0, b := at_ 1, c := at_ 2, d := at_ 3, e := at_ 4, f := at_ 5, g := at_ 6, h := at_ 7 }

/-- Where hashing starts: square roots of the eight primes below 20. -/
def Work.start : Work := .ofWords ((primesBelow 20).map (rootBits 2))

/-- The sum modulo 2 of three rotations to the right. -/
def turns (x : Word) (i j l : Nat) : Word := x.rotateRight i ^^^ x.rotateRight j ^^^ x.rotateRight l

/-- Bit by bit: y where x is 1, z where it is 0; and what two of three agree on. -/
def choose (x y z : Word) : Word := z ^^^ (x &&& (y ^^^ z))
def agreed (x y z : Word) : Word := choose (x ^^^ y) z x

/-- One step, with the sum of its schedule word and its constant. -/
def Work.next (w : Work) (add : Word) : Work :=
  let t := w.h + turns w.e 6 11 25 + choose w.e w.f w.g + add
  { a := t + turns w.a 2 13 22 + agreed w.a w.b w.c, b := w.a, c := w.b, d := w.c, e := w.d + t, f := w.e, g := w.f, h := w.g }

/-- The window of sixteen schedule words, moved on by one word. -/
def slide (ws : List Word) : List Word :=
  let mix (i : Nat) (r1 r2 s : Nat) := (ws.getD i 0).rotateRight r1 ^^^ (ws.getD i 0).rotateRight r2 ^^^ (ws.getD i 0 >>> s)
  ws.drop 1 ++ [ws.getD 0 0 + mix 1 7 18 3 + ws.getD 9 0 + mix 14 17 19 10]

/-- A block: its sixteen words, and the state before it. -/
def Work.block (w : Work) (ws : List Word) : Work :=
  let ran := stepWords.foldl (fun (p : Work × List Word) k => (p.1.next (k + p.2.getD 0 0), slide p.2)) (w, ws)
  .ofWords ((w.words.zip ran.1.words).map (fun p => p.1 + p.2))

/-- The message with the bit after it, zeros, and its length in bits, as words. -/
def padded (bs : List Byte) : List Word :=
  let fill := List.replicate ((55 + 63 * bs.length) % 64) (0 : Byte)
  let all := bs ++ (0x80 : Byte) :: fill ++ bigEndian 8 (8 * bs.length)
  (List.range (all.length / 4)).map (fun i => BitVec.ofNat 32 (number ((all.drop (4 * i)).take 4)))

end Sha

/-- The digest of a message. -/
def sha256 (bs : List Byte) : BitVec 256 :=
  let ws := Sha.padded bs
  let w := (List.range (ws.length / 16)).foldl (fun (w : Sha.Work) i => w.block ((ws.drop (16 * i)).take 16)) Sha.Work.start
  BitVec.ofNat 256 (w.words.foldl (fun n x => n * 2 ^ 32 + x.toNat) 0)

/-! ### RSA-3072 (R203, R204) -/

/-- b to an exponent of k bits, modulo n, its highest bit first. -/
def powMod (b n : Nat) : Nat → Nat → Nat
  | 0, _ => 1 % n
  | k + 1, e =>
    let h := powMod b n k (e / 2)
    let q := h * h % n
    if e % 2 = 1 then q * b % n else q

/-- A number of 3,072 bits with its top bit set. -/
def rsaModulus (n : Nat) : Bool := decide (2 ^ 3071 ≤ n) && decide (n < 2 ^ 3072)

/-- The signature of a message under a modulus and a private exponent. The number that a digest is encoded in is open: R203 and R204 name no
padding (log 31). -/
def rsaSign (n d : Nat) (bs : List Byte) : Nat := powMod (Config.signedBlock (sha256 bs) % n) n 3072 d

/-- A signature fits a message under a public key. -/
def rsaFits (n e sig : Nat) (bs : List Byte) : Bool :=
  rsaModulus n && decide (sig < n) && powMod sig n 3072 e == Config.signedBlock (sha256 bs) % n

end Sys2Proof.Machine
end

