-- ==== Sys2Proof/Machine/Firm.lean ====
section
/-!
DEFINITION. The hub die's firmware side: the register space (R197, R199, R201, R208, R210, R437, R477, R478, R487, R532, R539,
R540), bring-up and the device information block (R468, R469), the two complexes (R203, R204, R466, R467), and the PCI Express
port (R545, R546).
-/

namespace Sys2Proof.Machine

/-! ### The register space (R210) -/

/-- The registers of a package. -/
inductive Reg where
  | arbiter (d : Nat)
  | ramp
  | keyControl (k : Nat)
  | keyMaterial (k w : Nat)
  | snapControl
  | snapTag
  | recordSeq (b : Nat)
  | recordCyc (b : Nat)
  | recordCnt (b n : Nat)
  | ctnCnt (core : Nat)
  | ctnLog (core : Nat)
  | portStatus (p : Nat)
  | portArb (p : Nat)
  | flowCfg (f : Nat)
  | transControl (d : Nat)
  | msiAddr (d : Nat)
  | msiData (d : Nat)
  | region (i word : Nat)
  | asid (a : Nat)
  | root (a d : Nat)
  | broot (a d : Nat)
  deriving DecidableEq, Repr

/-- The instance and the offset inside it of an array of n instances. -/
def instAt (off base stride n : Nat) : Option (Nat × Nat) :=
  if base ≤ off ∧ off < base + stride * n then some ((off - base) / stride, (off - base) % stride) else none

/-- The register at an offset, with its width in bits. -/
def regAt (off : Nat) : Option (Reg × Nat) :=
  match instAt off 0x100000 0x1000 4 with
  | some (d, 0) => some (.arbiter d, 32)
  | some _ => none
  | none =>
  match instAt off 0x200000 0x80 8192 with
  | some (k, 0) => some (.keyControl k, 32)
  | some (k, o) => if 0x20 ≤ o ∧ o < 0x60 ∧ o % 4 = 0 then some (.keyMaterial k ((o - 0x20) / 4), 32) else none
  | none =>
  match instAt off 0x310000 0x100 432 with
  | some (b, 0) => some (.recordSeq b, 32)
  | some (b, 8) => some (.recordCyc b, 64)
  | some (b, o) => if 0x10 ≤ o ∧ o % 8 = 0 then some (.recordCnt b ((o - 0x10) / 8), 64) else none
  | none =>
  match instAt off 0x400000 0x4000 4 with
  | some (d, o) =>
    if 96 * 0x20 ≤ o then none
    else if o % 0x20 = 0 then some (.ctnCnt (96 * d + o / 0x20), 64)
    else if o % 0x20 = 8 then some (.ctnLog (96 * d + o / 0x20), 32)
    else none
  | none =>
  match instAt off 0x500000 0x40 24 with
  | some (p, 0) => some (.portStatus p, 32)
  | some (p, 4) => some (.portArb p, 32)
  | some _ => none
  | none =>
  match instAt off 0x510000 4 16 with
  | some (f, 0) => some (.flowCfg f, 32)
  | some _ => none
  | none =>
  match instAt off 0x600000 0x1000 4 with
  | some (d, 0) => some (.transControl d, 32)
  | some (d, 8) => some (.msiAddr d, 64)
  | some (d, 0x10) => some (.msiData d, 32)
  | some _ => none
  | none =>
  match instAt off 0x610000 0x20 64 with
  | some (i, o) => if o % 8 = 0 then some (.region i (o / 8), 64) else none
  | none =>
  match instAt off 0x700000 0x80 4096 with
  | some (a, 0) => some (.asid a, 32)
  | some (a, o) =>
    if o % 8 ≠ 0 then none
    else if o < 0x28 then some (.root a ((o - 8) / 8), 64)
    else if o < 0x48 then some (.broot a ((o - 0x28) / 8), 64)
    else none
  | none =>
  if off = 0x108000 then some (.ramp, 32)
  else if off = 0x300000 then some (.snapControl, 32)
  else if off = 0x300004 then some (.snapTag, 32)
  else none

/-- A key slot is written. -/
def State.putKey (s : State) (pkg k : Nat) (x : KeySlot) : State := { s with slots := s.slots.put (pkg * 8192 + k) x }

/-- A word of key material (R210): taken while EN is 0. -/
def keyWrite (s : State) (pkg k w : Nat) (v : Word) : State :=
  let x := s.slot pkg k
  if 8192 ≤ k ∨ 16 ≤ w ∨ x.en then s else s.putKey pkg k { x with words := x.words.put w v }

/-- BUSY is cleared, and DROPS with it (R208). -/
def rearm (s : State) (pkg : Nat) : State := s.putSnap pkg { s.snap pkg with busy := false, drops := 0 }

/-- A write of the snapshot control register (R208). -/
def snapWrite (s : State) (pkg v : Nat) : State :=
  let s := if v.testBit 4 then rearm s pkg else s
  s.putSnap pkg { s.snap pkg with
    errmask := BitVec.ofNat 8 (bits v 8 5), fwd := v.testBit 3, pinen := v.testBit 2, snapen := v.testBit 1 }

/-- VALID of CTNLOG is cleared (R532). -/
def ctnClear (s : State) (core : Nat) : State :=
  s.putCore core { s.core core with ctnlog := (s.core core).ctnlog &&& 0x7FFFFFFF#32 }

/-- A write of one register (R210). -/
def Reg.write (r : Reg) (s : State) (pkg : Nat) (v : Dword) : State :=
  let n := v.toNat
  let dk := fun (d : Nat) => pkg * 4 + d
  match r with
  | .arbiter d => s.putDie (dk d) { s.die (dk d) with budget := n % 2048 }
  | .ramp => s.putPkg pkg { s.pkg pkg with ramp := BitVec.ofNat 32 (n % 65536) }
  | .keyControl k => s.putKey pkg k { s.slot pkg k with en := n.testBit 31, world := n.testBit 30 }
  | .keyMaterial k w => keyWrite s pkg k w (v.setWidth 32)
  | .snapControl => snapWrite s pkg n
  | .snapTag => s
  | .recordSeq _ => s
  | .recordCyc _ => s
  | .recordCnt _ _ => s
  | .ctnCnt c => s.putCore (pkg * 384 + c) { s.core (pkg * 384 + c) with ctncnt := v }
  | .ctnLog c => if n.testBit 31 then ctnClear s (pkg * 384 + c) else s
  | .portStatus _ => s
  | .portArb p => { s with carb := s.carb.store 0x8800#32 (pkg * 24 + p) (BitVec.ofNat 32 (bits n 8 8 * 256)) }
  | .flowCfg f => { s with flowcfg := s.flowcfg.store 0 (pkg * 16 + f) (v.setWidth 32) }
  | .transControl d =>
    s.putDie (dk d) { s.die (dk d) with mhint := BitVec.ofNat 8 (bits n 16 8), fhint := BitVec.ofNat 8 (bits n 8 8), msie := n.testBit 0 }
  | .msiAddr d => s.putDie (dk d) { s.die (dk d) with msiAddr := v }
  | .msiData d => s.putDie (dk d) { s.die (dk d) with msiData := v.setWidth 32 }
  | .region i w =>
    let x := s.descs.getD (pkg * 64 + i) {}
    let pa := BitVec.ofNat 64 (bits n 12 28 * 4096)
    let x := match w with
      | 0 => { x with base := pa }
      | 1 => { x with limit := pa }
      | 2 => { x with attr := BitVec.ofNat 64 (n % 4) }
      | _ => x
    { s with descs := s.descs.put (pkg * 64 + i) x }
  | .asid a => s.putAsid pkg a { s.asid pkg a with en := n.testBit 31 }
  | .root a d => s.putAsid pkg a { s.asid pkg a with root := (s.asid pkg a).root.store 0 d v }
  | .broot a d => s.putAsid pkg a { s.asid pkg a with broot := (s.asid pkg a).broot.store 0 d v }

/-- A counter that the machine does not keep: of cycles (R211, log 8). -/
def timedCount (b n : Nat) : Bool :=
  if b < 384 then decide (n < 4) || n == 8 || n == 9
  else if b < 400 then false
  else if b < 424 then decide (3 ≤ n) && decide (n ≤ 8)
  else if b < 426 then false
  else decide (b < 430) && n == 2

/-- A place of a record as last latched: a kept counter, or a free value of the latch; 0 before the first latch. -/
def recordAt (s : State) (pkg b n : Nat) (timed : Bool) : Dword :=
  match s.snaps.get? pkg with
  | none => 0
  | some x =>
    if x.source = 0 then 0 else if timed then Config.counterVal x.latch (b * 32 + n) else s.records.getD (cntKey pkg b n) 0

/-- What a read of a register returns (R210). -/
def Reg.read (r : Reg) (s : State) (pkg : Nat) : Dword :=
  let num := fun (n : Nat) => BitVec.ofNat 64 n
  let die := fun (d : Nat) => s.die (pkg * 4 + d)
  match r with
  | .arbiter d => num ((die d).inuse % 2048 * 2 ^ 16 + (die d).budget % 2048)
  | .ramp => (s.pkg pkg).ramp.setWidth 64
  | .keyControl k => num ((s.slot pkg k).en.toNat * 2 ^ 31 + (s.slot pkg k).world.toNat * 2 ^ 30)
  | .keyMaterial _ _ => 0
  | .snapControl =>
    let x := s.snap pkg
    num (x.drops % 256 * 2 ^ 24 + x.seq % 256 * 2 ^ 16 + x.errmask.toNat * 2 ^ 8 + x.source % 8 * 2 ^ 5 + x.busy.toNat * 16 +
      x.fwd.toNat * 8 + x.pinen.toNat * 4 + x.snapen.toNat * 2)
  | .snapTag => num ((s.snap pkg).tagPkg % 32 * 2 ^ 16 + (s.snap pkg).tag.toNat)
  | .recordSeq _ => num ((s.snap pkg).seq % 256)
  | .recordCyc b => recordAt s pkg b 30 (decide (384 ≤ b) && (s.records.get? (cntKey pkg b 30)).isNone)
  | .recordCnt b n => recordAt s pkg b n (timedCount b n)
  | .ctnCnt c => (s.core (pkg * 384 + c)).ctncnt
  | .ctnLog c => (s.core (pkg * 384 + c)).ctnlog.setWidth 64
  | .portStatus p => (s.port pkg p).status.setWidth 64
  | .portArb p => (s.carbReg pkg p).setWidth 64
  | .flowCfg f => (s.flowcfg.getD (pkg * 16 + f) 0).setWidth 64
  | .transControl d => num ((die d).mhint.toNat * 2 ^ 16 + (die d).fhint.toNat * 2 ^ 8 + (die d).msie.toNat)
  | .msiAddr d => (die d).msiAddr
  | .msiData d => (die d).msiData.setWidth 64
  | .region i w =>
    let x := s.descs.getD (pkg * 64 + i) {}
    match w with
    | 0 => x.base
    | 1 => x.limit
    | 2 => x.attr
    | _ => 0
  | .asid a => num ((s.asid pkg a).en.toNat * 2 ^ 31 + (s.asid pkg a).gen % 16 * 2 ^ 16 + (s.asid pkg a).ncnt % 16)
  | .root a d => (s.asid pkg a).root.getD d 0
  | .broot a d => (s.asid pkg a).broot.getD d 0

/-- A store of firmware (R210): another width, or an offset that names no register, has no effect; the den's is ignored. -/
def regWrite (s : State) (pkg : Nat) (den : Bool) (off width : Nat) (v : Dword) : State :=
  match regAt off with
  | some (r, w) => if w = width && !den then r.write s pkg (if w = 32 then (v.setWidth 32).setWidth 64 else v) else s
  | none => s

/-- A load of firmware, or of the den. -/
def regRead (s : State) (pkg off width : Nat) : Dword :=
  match regAt off with
  | some (r, w) => if w = width then r.read s pkg else 0
  | none => 0

/-! ### The owl line's outer sources (R205, R207) -/

def pinTrigger (s : State) (pkg : Nat) : State := if (s.snap pkg).pinen then owlTrigger s pkg 4 0 pkg false else s

def forwardReceive (s : State) (n : Nat) : State :=
  match s.owlOut[n]? with
  | none => s
  | some m => owlTrigger { s with owlOut := s.owlOut.eraseIdx n } m.dest 5 m.tag m.origin false

/-! ### The device information block (R469) -/

/-- The block's bytes, 0 to 0x6CF. -/
def dibBytes (s : State) (pkg : Nat) : List Byte :=
  let p := s.pkg pkg
  let die := fun (d : Nat) => ((List.range 96).filter (fun c => works p.fuses (96 * d + c))).foldl (fun n c => n + 2 ^ c) 0
  let core := fun (c : Nat) => ((macrosOf p.fuses c).map (2 ^ ·)).sum + ((chansOf p.fuses c).map (2 ^ ·)).sum * 2 ^ 16
  natBytes 4 1 ++
  natBytes 4 (p.bucode % 256 * 2 ^ 24 + p.modeB.toNat * 2 ^ 16 + s.partner.getD pkg pkg % 256 * 2 ^ 8 + pkg % 32) ++
  natBytes 4 s.domain ++ natBytes 4 (p.vers.getD p.active 0) ++
  (List.range 4).flatMap (fun d => natBytes 16 (die d)) ++ (List.range 384).flatMap (fun c => natBytes 4 (core c))

/-- The block is written to the page that maps offset 0 of the control range; where none does, nothing is recorded. -/
def writeDib (s : State) (pkg : Nat) : State :=
  match (walk s (pkg * 4) 0 false (BitVec.ofNat 64 (pkg * 2 ^ 57))).2 with
  | .leaf e =>
    let a := pkg * 2 ^ 40 + entPa e.word
    (dibBytes s pkg).zipIdx.foldl (fun s b => s.wrB (kidOf s (a / 128) e.word) (a + b.2) b.1) s
  | _ => s

/-! ### Package reset (R203, R204, R468) -/

/-- A measurement register is extended. -/
def Pkg.measure (p : Pkg) (complex slot : Nat) (digest : BitVec 256) : Pkg :=
  let k := complex * 8 + slot
  { p with meas := p.meas.put k (sha256 (Sha.bigEndian 32 (p.meas.getD k 0).toNat ++ Sha.bigEndian 32 digest.toNat)) }

/-- An image passes the check of R203: the key that it comes with has the fused digest, and its signature fits its bytes. -/
def imageGood (fused : BitVec 256) (img : Image) : Bool :=
  sha256 (Config.keyBytes img.modulus img.exponent) == fused && rsaFits img.modulus img.exponent img.sig img.bytes

/-- A complex runs an image that has passed its check: register 0 takes the digest of its bytes. -/
def Pkg.runImage (p : Pkg) (complex : Nat) (img : Image) : Pkg :=
  { p with vers := p.vers.put complex img.version }.measure complex 0 (sha256 img.bytes)

/-- The package that an initiator of requests is in (R24). -/
def Initiator.pkg (s : State) : Initiator → Nat
  | .group k => pkgOfCore (s.grp k).core
  | .tile core => pkgOfCore core
  | .solver die => die / 4
  | .coll die => die / 4
  | .hub p => p

/-- The state of a package's units is gone, and no byte of its memory has been written since (R547). -/
def clearPkg (s : State) (pkg : Nat) : State :=
  let out := fun {α : Type} (k : Nat → Nat) (t : Tab α) => t.filter (fun e => k e.1 != pkg)
  let line := fun (l : Nat) (cl : Option Nat) => homePkgOf l != pkg && cl.map pkgOfCluster != some pkg
  let dead := s.ctrs.filter (fun c => c.2.home == pkg)
  { s with
    mem := out (· / 2 ^ 40) s.mem
    seals := out (· / 2 ^ 33) s.seals
    groups := s.groups.filter (fun e => pkgOfCore e.2.core != pkg)
    cores := out pkgOfCore s.cores
    cohorts := s.cohorts.filter (fun e => pkgOfCore e.2.core != pkg)
    clusters := out pkgOfCluster s.clusters
    dies := out (· / 4) s.dies
    homes := out homePkgOf s.homes
    flight := s.flight.filter (fun m => line m.line m.dest)
    attempts := s.attempts.filter (fun a => line a.line (some a.cluster))
    owners := s.owners.filter (fun e => e.1 / 2 ^ 40 != pkg && e.2.cluster.map pkgOfCluster != some pkg)
    asids := out (· / 4096) s.asids
    descs := out (· / 64) s.descs
    slots := out (· / 8192) s.slots
    ctrs := s.ctrs.filter (fun c => c.2.home != pkg)
    amsgs := s.amsgs.filter (fun m => m.cl.map pkgOfCluster != some pkg && !dead.any (fun e => e.1 == m.va))
    colldirs := s.colldirs.filter (fun d => !d.joined.any (fun j => j.2.1 / 4 == pkg))
    carb := out (· / 24) s.carb
    ports := out (· / 24) s.ports
    flowcfg := out (· / 16) s.flowcfg
    refused := s.refused.filter (fun r => waiterPkg s r.who != pkg)
    refusals := s.refusals.filter (fun e => e.1.pkg s != pkg)
    worlds := out (· / 432) s.worlds
    snaps := out id s.snaps
    counters := out (· / 32 / 432) s.counters
    records := out (· / 32 / 432) s.records
    owlOut := s.owlOut.filter (fun m => m.dest != pkg)
    pkgs := out id s.pkgs
    launches := s.launches.filter (fun e => e.2.home != pkg)
    saved := s.saved.filter (fun e => e.2.die / 4 != pkg)
    gmsgs := s.gmsgs.filter (fun m => m.src != pkg && m.dest != pkg)
    decls := s.decls.filter (fun d => d.1 != pkg)
    lost := out id s.lost
    partner := out id s.partner }

/-- The bring-up stops at a step. -/
def bringFail (s : State) (pkg step : Nat) : State := s.putPkg pkg { s.pkg pkg with bucode := step }

/-- Step 2: memory is trained, and firmware writes the system mapping, under key slot 0, and the region descriptors. -/
def bringMemory (s : State) (pkg : Nat) (b : Boot) : State :=
  let s := b.tables.foldl (fun s w => s.wr64 (s.keyId pkg 0) (pkg * 2 ^ 40 + w.1 % 2 ^ 40) w.2) s
  let s := { s with descs := (b.regions.filter (fun (r : Nat × Dword × Dword × Dword) => decide (r.1 < 64))).foldl (fun (t : Tab RegionDesc) (r : Nat × Dword × Dword × Dword) =>
    t.put (pkg * 64 + r.1) { base := r.2.1, limit := r.2.2.1, attr := r.2.2.2 }) s.descs }
  s.putAsid pkg 0 { en := true, root := [(0, b.root)] }

/-- Firmware makes the world bits of blocks non-secure (R53). -/
def openBlocks (s : State) (pkg : Nat) (blocks : List Nat) : State :=
  { s with worlds := (blocks.filter (· < 432)).foldl (fun t b => t.put (pkg * 432 + b) false) s.worlds }

/-- Step 4: the ports train, and the domain is agreed. -/
def bringPorts (s : State) (pkg : Nat) (b : Boot) : State :=
  let s := { s with
    ports := (b.peers.filter (fun (p : Nat × Nat) => decide (p.1 < 24))).foldl (fun (t : Tab Port) (p : Nat × Nat) => t.put (pkg * 24 + p.1) { present := true, st := .up, peer := some p.2 }) s.ports
    domain := max 1 (min 32 b.domain)
    partner := match b.partner with
      | some p => s.partner.put pkg p
      | none => s.partner }
  s.putPkg pkg { s.pkg pkg with modeB := b.modeB, gang := b.gang }

/-- PACKAGE_RESET: the package's state is cleared, and bring-up runs as far as it comes. -/
def packageReset (s : State) (pkg : Nat) (b : Boot) : State :=
  let old := s.pkg pkg
  let p : Pkg := {
    born := s.clock, epoch := if old = {} then 0 else old.epoch + 1, pcie := { root := b.rootPort }, keyDigest := b.keyDigest, attKey := b.attKey }
  let good := fun (img : Image) => imageGood b.keyDigest img
  let p := if good b.images.1 then p.runImage 0 b.images.1 else p
  let p := if good b.images.2 then p.runImage 1 b.images.2 else p
  let s := (clearPkg s pkg).putPkg pkg p
  if !(good b.images.1 && good b.images.2) then bringFail s pkg 1
  else if !b.memory then bringFail s pkg 2
  else
    let s := bringMemory s pkg b
    if !b.fusesRead then writeDib (bringFail s pkg 3) pkg
    else
      let s := s.putPkg pkg { s.pkg pkg with fuses := b.fuses, serial := b.serial }
      if !b.ports then writeDib (bringFail s pkg 4) pkg
      else
        let s := writeDib (openBlocks (bringPorts s pkg b) pkg b.open_) pkg
        s.putPkg pkg { s.pkg pkg with up := true }

/-! ### The two complexes (R204, R466, R467) -/

/-- A quiescent packet boundary (R466). -/
def quiescent (s : State) (pkg : Nat) : Bool :=
  let p := s.pkg pkg
  p.ctxs.all (fun c => c.2.queues.all (fun q => q.2.st != .run && q.2.st != .resetting)) &&
  p.slots.all (fun w => !w.2.begun) && p.lead.isNone && (match p.gst with
    | .run _ => true
    | _ => false)

/-- LIVE_UPDATE: an image that fails its check, or whose converter does not start at the running version, is refused; at a
quiescent boundary the den takes over, unless the conversion fails. -/
def liveUpdate (s : State) (pkg : Nat) (img : Image) : State :=
  let p := s.pkg pkg
  if !(p.up && imageGood p.keyDigest img && img.starts == p.vers.getD p.active 0 && quiescent s pkg && img.converts) then s
  else
    let den := 1 - p.active
    let s := s.putPkg pkg { p.runImage den img with active := den }
    owlError (writeDib s pkg) pkg 12

/-- A queue resumes at its RIDX in memory, and the packet of a BLOCKED one is processed again. -/
def resumeQueue (s : State) (pkg a i : Nat) : State :=
  match s.queue? pkg a i, s.ctx? pkg a with
  | some q, some c =>
    let r := cpNum s (fwReq s pkg (Dword.plus (c.qdesc i) 0x10)) 4
    putQueue r.1 pkg a i { q with ridx := r.2.getD q.ridx, st := if q.st = .blocked then .run else q.st }
  | _, _ => s

/-- HEARTBEAT_TAKEOVER: the den becomes the active complex, with its own image. -/
def takeover (s : State) (pkg : Nat) : State :=
  let p := s.pkg pkg
  if !p.up then s
  else
    let s := s.putPkg pkg { p with
      active := 1 - p.active
      slots := p.slots.map (fun (w : Nat × WinSlot) => if w.2.begun then w else (w.1, { w.2 with req := none })) }
    let s := p.ctxs.foldl (fun s c => (List.range (c.2.nq + 1)).foldl (fun s i => resumeQueue s pkg c.1 i) s) s
    writeDib s pkg

/-- The fuse map as bytes: the CORES and core words of R469. -/
def fuseBytes (f : Fuses) : List Byte :=
  (List.range 384).flatMap (fun c =>
    natBytes 4 (((macrosOf f c).map (2 ^ ·)).sum + ((chansOf f c).map (2 ^ ·)).sum * 2 ^ 16 + (works f c).toNat * 2 ^ 31))

/-- ATTESTATION_REQUEST, with a nonce of 32 bytes (R204). -/
def attest (s : State) (pkg : Nat) (nonce : List Byte) : State :=
  let p := s.pkg pkg
  if !p.up || nonce.length != 32 then s
  else
    let regs := (List.range 8).map (fun m => p.meas.getD (p.active * 8 + m) 0)
    let version := p.vers.getD p.active 0
    let body := regs.flatMap (fun r => Sha.bigEndian 32 r.toNat) ++ nonce ++ fuseBytes p.fuses ++ natBytes 4 version ++ natBytes 8 p.serial.toNat
    let rep : Report := {
      regs := regs, nonce := nonce, fuses := p.fuses, version := version, serial := p.serial, sig := rsaSign p.attKey.1 p.attKey.2 body }
    s.putPkg pkg { p with reports := p.reports ++ [rep] }

/-! ### The PCI Express port (R545, R546) -/

/-- The request of an inbound access through a BAR: BAR0 maps 128 KiB, privileged; BAR2 the primary 64 GiB. -/
def barReq (s : State) (pkg bar off n : Nat) : Option TransReq :=
  let size := if bar = 0 then 0x20000 else if bar = 2 then 2 ^ 36 else 0
  if n = 0 ∨ size < off + n then none
  else some { fwReq s pkg (BitVec.ofNat 64 (pkg * 2 ^ 57 + off)) with world := false, privileged := bar == 0 }

/-- An endpoint's link is up. -/
def Pcie.serves (x : Pcie) : Bool := x.up && !x.root

/-- A TLP is received; whether AER has corrected an error of its link is open (R211). -/
def tlpIn (s : State) (pkg : Nat) : State :=
  let s := s.bump pkg 425 0
  if Config.raceBytes s.free (2 ^ 220 + pkg) then s.bump pkg 425 2 else s

/-- An inbound write TLP, received whole: at most 512 bytes. -/
def pcieWrite (s : State) (pkg bar off : Nat) (data : List Byte) : State :=
  match barReq s pkg bar off data.length with
  | some r =>
    if (s.pkg pkg).pcie.serves && decide (data.length ≤ 512) then (cpWrite (tlpIn s pkg) r data).1 else s
  | none => s

/-- An inbound read TLP: its completion carries the bytes, or, where the access faults, none. -/
def pcieRead (s : State) (pkg bar off n : Nat) : State :=
  match barReq s pkg bar off n with
  | some r =>
    if (s.pkg pkg).pcie.serves && decide (n ≤ 4096) then
      let p := cpRead ((tlpIn s pkg).bump pkg 425 1) r n
      let x := p.1.pkg pkg
      p.1.putPkg pkg { x with pcie := { x.pcie with cpls := x.pcie.cpls ++ [(off, p.2)] } }
    else s
  | none => s

/-- The link goes down (R546). -/
def pcieDown (s : State) (pkg : Nat) : State :=
  let x := s.pkg pkg
  let p := x.pcie
  if !p.up then s
  else
    let p := { p with up := false, rate := 0, width := 0, cpls := [] }
    let p := if p.root then { p with dpc := true, ones := p.ones ++ p.outbound, outbound := [] } else p
    (s.putPkg pkg { x with pcie := p }).bump pkg 425 3

/-- The link comes up in FLIT mode, at a rate and a width that the port supports. -/
def pcieUp (s : State) (pkg rate width : Nat) : State :=
  let x := s.pkg pkg
  if x.pcie.up || !([128, 64, 32].contains rate && [16, 8, 4].contains width) then s
  else s.putPkg pkg { x with pcie := { x.pcie with up := true, rate := rate, width := width, dpc := false } }

end Sys2Proof.Machine
end

