-- ==== Sys2Proof/Machine/Work.lean ====
section
/-!
DEFINITION. The pieces of the command processor's and the firmware's work that access memory: each takes effect whole, and one whose
request is refused is done again after the hint (R23, R24).
-/

namespace Sys2Proof.Machine

/-- A packet is of a kind: its TYPE, or 7 and 8 for the two FUNC of a GANGCTL (R443). -/
def isKind (k n : Nat) : Bool := if k < 7 then n % 256 == k else n % 256 == 7 && bits n 32 4 == k - 7

/-- The command of a slot (R448); kind 5: an invalid one. -/
def commandDo (s : State) (pkg kind slot : Nat) : State :=
  match kind with
  | 1 => winCmd s pkg slot (· == 1) (ctxReg s pkg slot)
  | 2 => winCmd s pkg slot (· == 2) (ctxDereg s pkg slot)
  | 3 => winCmd s pkg slot (· == 3) (qstart s pkg slot)
  | 4 => winCmd s pkg slot (· == 4) (qresetCmd s pkg slot)
  | _ => winCmd s pkg slot (fun c => c == 0 || decide (5 ≤ c)) (fun _ => answer s pkg slot 7 0)

/-- A piece of work. -/
def cpWork (s : State) (pkg : Nat) (w : CpWork) : State :=
  match w with
  | .packet kind a i => packetEvent s pkg a i (isKind kind)
  | .widx a i => readWidx s pkg a i
  | .met a i => waitMet s pkg a i
  | .ticket slot => ticket s pkg slot
  | .command kind slot => commandDo s pkg kind slot
  | .reset a i => queueReset s pkg a i
  | .resetEnd a i => resetDone s pkg a i
  | .take core => pendingTake s core
  | .accept n => launchAccept s pkg n
  | .restore ck core => restore s ck core
  | .takeover => takeover s pkg
  | .pcieWrite bar off data => pcieWrite s pkg bar off data
  | .pcieRead bar off n => pcieRead s pkg bar off n

/-- A piece of work is done, or refused. -/
def cpRun (s : State) (pkg : Nat) (w : CpWork) : State := cpDo (.cp pkg w) (fun s => cpWork s pkg w) s

end Sys2Proof.Machine
end

