-- ==== Sys2Proof/Machine/CommandProcessor.lean ====
section
/-!
DEFINITION. The command processor's instructions and events (R198, R232, R439 to R465), and EXIT.
-/

namespace Sys2Proof.Machine

/-! ### EXIT (R225, R232) -/

/-- What EXIT waits for: long-latency instructions, .comm reductions, copies, RATOM requests, burrow entries and AGIVEs of the group. -/
def exitBusy (s : State) (g : Group) : Bool :=
  !g.pend.isEmpty || !g.comm.isEmpty || !g.ratoms.isEmpty || decide (0 < g.gives) || hasBurrow s s.cur || copyOf s g.core s.cur

/-- EXIT: a full pending-trap register is delivered first, outside a handler; then the group ends. -/
def exitGroup (ck : Checks) (sh : Shape) (o : EOps) (s : State) : Out :=
  match issueC ck.closing sh o (fun s g =>
    let s := commAll (s.putG g) s.cur
    let g := s.grp s.cur
    if exitBusy s g then heldWith s
    else if !g.trap.h && !g.trap.pending.isEmpty then .ok { s := s, g := g.deliver, done := true }
    else .ok { s := s, g := { g with run := .exited, wait := .none }, done := true }) s with
  | .next t => .next (reap t s.cur)
  | x => x

/-! ### LAUNCH and LSTAT (R459, R460) -/

/-- A request of the command processor for the current instruction has been refused: nothing of the instruction happens, and the group
is held until the hint has passed (R23, R24). -/
def cpHold (s : State) (r : TransReq × Nat × Nat) : Res Eff :=
  .ok { s := (cpWalk s r.1 r.2.1).refuse (.group s.cur) r.2.2, g := { s.grp s.cur with wait := .held 0 }, done := true }

/-- LAUNCH and LAUNCH.GO. -/
def launchI (go : Bool) (ck : Checks) (sh : Shape) (o : EOps) (s : State) : Out :=
  issueC ck.closing sh o (fun s g =>
    let va := g.s2 s.free o.a.toNat
    let p : Pend := { id := 0, dests := writesOf sh o }
    let cause := if va.toNat % 256 ≠ 0 then some causeAlign
      else if spaceOf va = .reserved then some causeAccess
      else if spaceOf va ≠ .control then some causeSpace
      else if s.domain ≤ vaPkg va then some causeAccess
      else none
    match cause with
    | some c => trapOf g c 0 va
    | none =>
      relReady 6 s g (fun s g =>
      if g.deny.contains (va.toNat / 65536) then
        okPend s { g with deny := [] } { p with cause := some (0, { cause := causeAccess, addr := va, lanes := g.em, seq := g.seq }) }
      else
        let r := g.req 0 va
        match xlate (s.putG g) r with
        | (_, .cause c) => trapOf g c 0 va
        | (s, .fault d fva) => .ok { s := holdFault s d { r with va := fva } (.group s.cur), g := { g with wait := .held d }, done := true }
        | (s, .refuse h) =>
          .ok { s := s.refuse (.group s.cur) h, g := { g with wait := .held 0 }, done := true }
        | (s, .ok _ _) =>
          let x := queueLaunch (wbTensor s (clusterOf g.core)) s.cur va
          match x.1.cpStop with
          | some r => cpHold s r
          | none =>
            let s := if go then plRelease x.1 g.core else x.1
            okPend s (s.grp s.cur).fenceErr { p with outs := [(sKey o.d.toNat, x.2.1), (sKey (o.d.toNat + 1), BitVec.ofNat 32 x.2.2)] })) s

/-- The state word of a handle (R460): 7 where the entry is another handle's, or cannot be read. -/
def lstatWord (s : State) (g : Group) (h : Word) : State × Word :=
  match s.ctx? g.id.pkg g.id.ctx with
  | none => (s, 7)
  | some c =>
    if h = 0 then (s, 7)
    else
      match cpNum s (cpReq s g.id (c.statusAddr h)) 8 with
      | (s, some v) => (s, if bits v 0 32 = h.toNat then BitVec.ofNat 32 (bits v 32 32) else 7)
      | (s, none) => (s, 7)

def lstatState (ck : Checks) (sh : Shape) (o : EOps) (s : State) : Out :=
  issueC ck sh o (fun s g =>
    let x := lstatWord (s.putG g) g (g.uB32 s.free o)
    match x.1.cpStop with
    | some r => cpHold (s.putG g) r
    | none => okOuts x.1 (x.1.grp s.cur) [(sKey o.d.toNat, x.2)]) s

def lstatSelf (ck : Checks) (sh : Shape) (o : EOps) (s : State) : Out :=
  issueC ck sh o (fun s g => okOuts s g [(sKey o.d.toNat, g.id.handle)]) s

/-- E-form EXIT, which may be predicated (R232). -/
def execExit (o : EOps) (s : State) : Out :=
  exitGroup {} shRet o s

/-- Waits for every long-latency instruction, copy, RATOM and burrow entry of the group, then ends the group (R232). -/
def execExitB3 (o : B3Ops) (s : State) : Out :=
  exitGroup (b3Checks 0x05 shRet o) shRet (b3AsE 0x05 shRet o) s

/-- Queues a device-side launch record, returning a handle and a status (R459). -/
def execLaunch (o : EOps) (s : State) : Out :=
  launchI false {} shAreadExact o s

/-- Queues a device-side launch and releases the pending queue (R459). -/
def execLaunchGo (o : EOps) (s : State) : Out :=
  launchI true {} shAreadExact o s

/-- Reads the status entry of a launch handle (R460). -/
def execLstatState (o : EOps) (s : State) : Out :=
  lstatState {} shLstatState o s

/-- Returns the group's own launch handle (R460). -/
def execLstatSelf (o : EOps) (s : State) : Out :=
  lstatSelf {} shMaskGet o s

/-- At a release, the CP takes every pending and spilled launch record of the core (R457). -/
def execPendingQueueTake (core : Nat) (s : State) : Out :=
  .next (cpRun s (pkgOfCore core) (.take core))

/-- The CP reads and checks a launch record and enters it in the dispatcher list, or rejects it (R450). -/
def execLaunchAccept (pkg n : Nat) (s : State) : Out :=
  .next (cpRun s pkg (.accept n))

/-- The CP observes a new WIDX of a queue and starts consuming its packets (R441). -/
def execWidxAdvance (pkg ctx queue : Nat) (s : State) : Out :=
  .next (cpRun s pkg (.widx ctx queue))

/-- NOP packet, consumed at once (R443). -/
def execPacketNop (pkg ctx queue : Nat) (s : State) : Out :=
  .next (cpRun s pkg (.packet 0 ctx queue))

/-- LAUNCH packet: accepts or rejects a launch record and writes the handle (R443). -/
def execPacketLaunch (pkg ctx queue : Nat) (s : State) : Out :=
  .next (cpRun s pkg (.packet 1 ctx queue))

/-- COPY packet: starts a copy on a hub-die channel (R444). -/
def execPacketCopy (pkg ctx queue : Nat) (s : State) : Out :=
  .next (cpRun s pkg (.packet 2 ctx queue))

/-- SIGNAL packet: performs a store or add as a release at .dom (R443). -/
def execPacketSignal (pkg ctx queue : Nat) (s : State) : Out :=
  .next (cpRun s pkg (.packet 3 ctx queue))

/-- WAIT packet: blocks the queue until a masked comparison holds (R443). -/
def execPacketWait (pkg ctx queue : Nat) (s : State) : Out :=
  .next (cpRun s pkg (.packet 4 ctx queue))

/-- BARRIER-AND packet: blocks until up to three barrier phases pass (R443). -/
def execPacketBarrierAnd (pkg ctx queue : Nat) (s : State) : Out :=
  .next (cpRun s pkg (.packet 5 ctx queue))

/-- QRESET packet: resets another queue of the context (R443). -/
def execPacketQreset (pkg ctx queue : Nat) (s : State) : Out :=
  .next (cpRun s pkg (.packet 6 ctx queue))

/-- Switches the gang slice through the PROPOSE, ACK and COMMIT protocol (R464). -/
def execGangctlSwitch (pkg ctx queue : Nat) (s : State) : Out :=
  .next (cpRun s pkg (.packet 7 ctx queue))

/-- Triggers the owl line as source 2 with a tag (R205). -/
def execGangctlSnap (pkg ctx queue : Nat) (s : State) : Out :=
  .next (cpRun s pkg (.packet 8 ctx queue))

/-- A watched line changes so that a blocked head packet's condition holds, and the packet is consumed (R446). -/
def execWaitConditionMet (pkg ctx queue : Nat) (s : State) : Out :=
  .next (cpRun s pkg (.met ctx queue))

/-- The CP sees a TICKET that differs from DONE, serves the request and writes STATUS, RESULT and DONE (R447). -/
def execRegistrationTicket (pkg slot : Nat) (s : State) : Out :=
  .next (cpRun s pkg (.ticket slot))

/-- Registers a context from a descriptor (R448). -/
def execCtxreg (pkg slot : Nat) (s : State) : Out :=
  .next (cpRun s pkg (.command 1 slot))

/-- Removes a context (R448). -/
def execCtxdereg (pkg slot : Nat) (s : State) : Out :=
  .next (cpRun s pkg (.command 2 slot))

/-- Starts a queue (R448). -/
def execQstart (pkg slot : Nat) (s : State) : Out :=
  .next (cpRun s pkg (.command 3 slot))

/-- Resets a queue through the registration window (R448). -/
def execQresetCommand (pkg slot : Nat) (s : State) : Out :=
  .next (cpRun s pkg (.command 4 slot))

/-- An unlisted OPC returns status 7 (R448). -/
def execInvalidCommand (pkg slot : Nat) (s : State) : Out :=
  .next (cpRun s pkg (.command 5 slot))

/-- A queue enters RESETTING, its generation advances, and its launches and engine work are ended (R462). -/
def execQueueReset (pkg ctx queue : Nat) (s : State) : Out :=
  .next (cpRun s pkg (.reset ctx queue))

/-- When the old generation's acknowledgements are in, RIDX is set to WIDX and the queue becomes STOPPED (R462). -/
def execQueueResetComplete (pkg ctx queue : Nat) (s : State) : Out :=
  .next (cpRun s pkg (.resetEnd ctx queue))

/-- A ramp step boundary: the CP starts and stops cohorts within the limits and places waiting units (R198). -/
def execRampStep (pkg : Nat) (s : State) : Out :=
  .next (rampStep s pkg)

/-- The CP pre-empts a cohort at its pre-emption points and saves its context (R73). -/
def execPreempt (cohort : Nat) (s : State) : Out :=
  .next (preempt s cohort .other)

/-- The CP restores a saved cohort on a core that fits and reloads the binding table (R76). -/
def execCohortRestore (cohort core : Nat) (s : State) : Out :=
  .next (cpRun s (pkgOfCore core) (.restore cohort core))

/-- A member receives PROPOSE and drains its current slice (R465). -/
def execGangPropose (n : Nat) (s : State) : Out :=
  .next (gangPropose s n)

/-- A member's cohorts of the old slice are saved, and it sends ACK (R465). -/
def execGangSliceSaved (pkg : Nat) (s : State) : Out :=
  .next (gangSaved s pkg)

/-- The leader receives an ACK and sends COMMIT when every ACK is in (R464). -/
def execGangAck (n : Nat) (s : State) : Out :=
  .next (gangAck s n)

/-- A member receives COMMIT and starts the new slice (R465). -/
def execGangCommit (n : Nat) (s : State) : Out :=
  .next (gangCommit s n)

end Sys2Proof.Machine
end

