-- ==== Sys2Proof/Machine/Contain.lean ====
section
/-!
DEFINITION. The completion of long-latency instructions (R104, R218), soft errors (R515 to R528), and the end of a launch by a
group that has halted (R456).
-/

namespace Sys2Proof.Machine

/-! ### Completion (R104, R249, R268) -/

/-- The conditions that a completion reports (R249); a halted group's registers are frozen (R221). -/
def Group.completeFp (g : Group) (p : Pend) : Group :=
  match g.run, p.fp with
  | .running, _ :: _ =>
    match fpReport g p.fp with
    | (g, some t) => g.post { t with seq := p.seq }
    | (g, none) => g
  | _, _ => g

/-- A pending instruction completes: its results are written, which no older value of the window covers (R107, R109); its flag
falls; its conditions and its cause are reported; a rollback that waited for the last one runs (R523). -/
def Group.complete (g : Group) (p : Pend) : Group :=
  let outs := p.outs ++ p.qouts.flatMap (fun q => g.qOut q.1 p.lanes q.2)
  let strip := fun (e : WinEntry) => { e with outs := e.outs.filter (fun o => !outs.any (fun q => q.1 == o.1)) }
  let g := { g with window := g.window.map strip }.putRegs outs
  let g := p.vpbits.foldl (fun (g : Group) b => g.setVpstat b.1 b.2) g
  let g := if p.flag < 12 then g.putFlag p.flag (g.flag p.flag - 1) else g
  let g := g.completeFp p
  let g := match p.cause with
    | some c => g.post c.2
    | none => g
  let g := { g with pend := g.pend.filter (fun q => q.id != p.id) }
  if g.region.due && g.pend.isEmpty then g.rollback else g

/-- What a pending instruction waits for has come; VP instructions of a group complete in their order (R275). -/
def Group.completable (g : Group) (p : Pend) : Bool :=
  p.wait == .ready && !(p.vp && g.pend.any (fun q => q.vp && decide (q.id < p.id)))

def complete (s : State) (gk n : Nat) : State :=
  match s.groups.get? gk with
  | none => s
  | some g =>
    match g.pend.find? (fun p => p.id == n) with
    | none => s
    | some p =>
      if g.completable p then
        s.putGrp gk (g.complete p)
      else s

/-! ### Errors of group scope (R518, R523 to R525) -/

/-- A code word of a register goes bad: one bad symbol, or more (R515). -/
def Group.markUnit (g : Group) (u : Nat) (uncorrectable : Bool) : Group :=
  let old := g.ecc.get? u
  let m := match old with
    | some .poison => EccMark.poison
    | some .uncorrectable => .uncorrectable
    | _ => if uncorrectable then .uncorrectable else .correctable
  { g with ecc := g.ecc.put u m }

/-- FILE and UNIT of the first register that an instruction writes (R532, log 30). -/
def Pend.place (g : Group) (p : Pend) : Nat × Nat :=
  match p.dests.headD (.v 0) with
  | .v n => (0, n)
  | .s n => (1, n)
  | .w j => (0, vpSlice g j 0)
  | _ => (0, 0)

/-- The results of some lanes are discarded; those of a uniform instruction whole. -/
def Pend.drop (p : Pend) (lanes : Half) : Pend :=
  if p.lanes = 0 then { p with outs := [], vpbits := [] }
  else
    { p with
      outs := p.outs.filter (fun o => !lanes.getLsbD (o.1 % 16))
      vpbits := p.vpbits.filter (fun b => !lanes.getLsbD b.1) }

/-- Returned data of some lanes is bad: the group rolls back, escalates, or takes ECC_UNCORRECTED with the completion. -/
def eccData (s : State) (gk n : Nat) (bad : Half) : State :=
  match s.groups.get? gk with
  | none => s
  | some g =>
    match g.pend.find? (fun p => p.id == n) with
    | none => s
    | some p =>
      let both := if g.info.prot then maskOf (fun l => bad.getLsbD (l / 2 * 2) || bad.getLsbD (l / 2 * 2 + 1)) else bad
      let hit := if p.lanes = 0 then bad else both &&& p.lanes
      if p.vas = [] ∨ p.wait ≠ .ready ∨ hit = 0 then s
      else
        let log := fun (o : Nat) => (s.uecnt g.core 1).ctnLog g.core 1 o g.slot (p.place g).1 (p.place g).2
        let swap := fun (q : Pend) => { g with pend := g.pend.map (fun x => if x.id == n then q else x) }
        let q := p.drop hit
        match g.run with
        | .running =>
          if g.region.opened then
            if g.region.rb < 2 then
              let s := log 1
              (if g.region.due then s else s.rollcnt g.core 1).putGrp gk (swap q).rollSoon
            else ((log 3).esccnt g.core 1).putGrp gk ((swap q).halt causeEcc 1)
          else
            let addr := match p.vas.find? (fun a => p.lanes == 0 || hit.getLsbD a.1) with
              | some a => a.2
              | none => 0
            let t : Trap := { cause := causeEcc, addr := addr, lanes := if p.lanes = 0 then g.em else g.fold hit, seq := p.seq }
            (log 2).putGrp gk (match p.cause with
              | none => swap { q with cause := some (0, t) }
              | some _ => (swap q).post t)
        | _ => (log 0).putGrp gk (swap q)

/-- ECC_UNCORRECTED_CONSUME: a register's code word goes bad, which its next reader consumes; or returned data is bad. -/
def eccEvent (s : State) (gk : Nat) (bad : EccBad) : State :=
  match bad with
  | .unit u uncorrectable =>
    match s.groups.get? gk with
    | none => s
    | some g => if u < 1024 ∨ (16384 ≤ u ∧ u < 16384 + 64) then s.putGrp gk (g.markUnit u uncorrectable) else s
  | .data n lanes => eccData s gk n lanes

/-! ### Errors of core scope (R528) -/

/-- The bad entry is discarded: the state, and the entry's index; none: there is no such entry. -/
def dropEntry (s : State) (core : Nat) (e : CoreEntry) : Option (State × Nat) :=
  let c := s.core core
  match e with
  | .burrow n => if n < c.burrow.length then some (s.putCore core { c with burrow := c.burrow.eraseIdx n }, n) else none
  | .write => some (s, 0)
  | .launch n => if n < c.plq.length then some (s.putCore core { c with plq := c.plq.eraseIdx n }, n) else none
  | .stash n =>
    let all := (s.residents core).flatMap (fun x => x.2.stash.map (fun b => (x.1, b)))
    match all[n]? with
    | none => none
    | some (ck, b) =>
      let idx := (c.stash.filter (fun x => decide (b.so / 128 ≤ x.1) && decide (x.1 < (b.so + b.len) / 128))).map (·.1)
      let s := idx.foldl (fun s i => stashDrop s core i) s
      let k := s.cohort ck
      some (s.putCohort ck { k with stash := k.stash.filter (fun x => x != b) }, n)

/-- The groups of a core, by key. -/
def coreGroups (s : State) (core : Nat) : List Nat := (s.groups.filter (fun e => s.onCore e.2 core)).map (·.1)

/-- The groups of every launch that has a cohort on a core. -/
def launchGroups (s : State) (core : Nat) : List Nat :=
  let ls := (s.residents core).map (fun c => c.2.launch)
  (s.groups.filter (fun e => ls.contains (s.cohort e.2.cohort).launch)).map (·.1)

/-- Every resident group rolls back, or the error escalates for every launch of the core, once for it. -/
def coreEntryError (s : State) (core : Nat) (e : CoreEntry) : State :=
  match dropEntry s core e with
  | none => s
  | some (s, i) =>
    let gs := coreGroups s core
    let roll := gs.all (fun gk => (s.grp gk).canRoll)
    let outcome := if gs.isEmpty then 0 else if roll then 1 else 3
    let s := (s.uecnt core 1).ctnLog core 3 outcome 0 3 i
    if gs.isEmpty then s
    else if roll then gs.foldl (fun s gk => strikeGroup s gk 3 true) s
    else
      (launchGroups s core).foldl (fun s gk =>
        match (s.grp gk).run with
        | .running => s.putGrp gk ((s.grp gk).halt causeEcc 3)
        | _ => s) (s.esccnt core 1)

/-! ### A halted group ends its launch (R456) -/

/-- LAUNCH_FAULT_END: the cohort of a halted group stays as it is, the others stop, and the launch ends when they have drained. -/
def launchFaultEnd (s : State) (gk : Nat) : State :=
  match s.groups.get? gk with
  | none => s
  | some g =>
    match g.run with
    | .halted code sub =>
      let lk := (s.cohort g.cohort).launch
      match s.launches.get? lk with
      | none => s
      | some l =>
        if l.st = .running then
          let pkg := pkgOfCore g.core
          let s := if code = causeDouble then owlError s pkg 8 else if code = causeEcc ∧ sub ≠ 0 then owlError s pkg 9 else s
          let s := (s.cohort g.cohort).groups.foldl (fun (s : State) k =>
            match (s.grp k).run with
            | .running => s.putGrp k ((s.grp k).halt 0 0)
            | _ => s) s
          launchFail s lk code sub
        else launchCheck s lk
    | _ => s

end Sys2Proof.Machine
end

