-- ==== Sys2Proof/Machine/Containment.lean ====
section
/-!
DEFINITION. Completion events, the containment engine's events (R515 to R528), and the end of a launch by a halted group (R456).
-/

namespace Sys2Proof.Machine

/-- A long-latency instruction completes: its result is written, its flag count falls by 1, and any asynchronous cause goes to a pending-trap register (R104). -/
def execLongLatencyCompletion (grp n : Nat) (s : State) : Out :=
  .next (complete s grp n)

/-- An instruction consumes an uncorrectable error of group scope (R518). -/
def execEccUncorrectedConsume (grp : Nat) (bad : EccBad) (s : State) : Out :=
  .next (eccEvent s grp bad)

/-- An uncorrectable core entry is discarded, and the core's groups roll back or escalate (R528). -/
def execCoreEntryError (core : Nat) (entry : CoreEntry) (s : State) : Out :=
  .next (coreEntryError s core entry)

/-- A double fault, unhandled trap or escalation ends the whole launch as FAULTED (R456). -/
def execLaunchFaultEnd (grp : Nat) (s : State) : Out :=
  .next (launchFaultEnd s grp)

end Sys2Proof.Machine
end

