-- ==== Sys2Proof/Machine/Copy.lean ====
section
/-!
DEFINITION. The copy engine's instructions and events (R351 to R376).
-/

namespace Sys2Proof.Machine

/-! ### CPY, CPY2, CPYG (R366 to R369) -/

/-- The ranges of a copy, each with its bytes (R367). -/
def CopyJob.ranges (j : CopyJob) : List (Dword × Nat) :=
  match j.kind with
  | .line => [(j.src, j.n), (j.dst, j.n)]
  | .rect => [(j.src, (j.rows - 1) * j.sstr + j.n), (j.dst, (j.rows - 1) * j.dstr + j.n)]
  | .gather => [(j.dst, j.n * j.rows), (j.idx, 4 * j.rows)]
  | .scatter => [(j.src, j.n * j.rows), (j.idx, 4 * j.rows)]

/-- The limits of R369 that raise ILLEGAL_OP. -/
def CopyJob.bad (j : CopyJob) : Bool :=
  match j.kind with
  | .line => false
  | .rect => decide (2 ^ 32 ≤ j.bytes)
  | _ => !([1, 2, 4, 8, 16, 32, 64, 128, 256].contains j.n) || decide (2 ^ 24 < j.rows)

/-- The copy that the registers describe. -/
def copyJobOf (k : CopyKind) (g : Group) (free : Nat) (o : EOps) : CopyJob :=
  let b := fun i => (g.s1 free (o.b.toNat + i)).toNat
  let bar := if o.x.getLsbD 3 then some (g.s2 free o.c.toNat) else none
  let base : CopyJob :=
    { grp := 0, seq := g.seq, batch := 0, kind := k, dst := g.s2 free o.d.toNat, src := g.s2 free o.a.toNat, n := 0, bar := bar
      hint := o.hint.toNat % 4, id := g.id }
  match k with
  | .line => { base with n := (g.uB32 free o).toNat }
  | .rect => { base with n := b 0, rows := b 1, sstr := b 2, dstr := b 3 }
  | _ => { base with n := b 0, rows := b 1, idx := g.s1 free (o.b.toNat + 3) ++ g.s1 free (o.b.toNat + 2) }

/-- The checks of R51 at issue: the ranges, unless there are no bytes, then the barrier object. DESIGN CHOICE: where several ranges fail,
the one reported is the source's, then the destination's or the index list's, then the barrier object's, each with all its checks (log 95). -/
def copyCheck (s : State) (g : Group) (j : CopyJob) : Option (Nat × Dword) :=
  match (if j.bytes = 0 then none else j.ranges.findSome? (fun r => extentCheck s g copyAllow r.1 r.2)) with
  | some x => some x
  | none =>
    match j.bar with
    | some va => accCheck s g .bar va 16 16
    | none => none

/-- The role's physical channel (R78). -/
def chanOf (s : State) (g : Group) (o : EOps) : Nat := (s.cohort g.cohort).chans.getD (xField o 0 3) (xField o 0 3)

def roleChan (ck : Checks) (o : EOps) : Checks := { ck with role := fun _ g => decide (g.info.chan ≤ xField o 0 3) }

/-- A copy waits for the group's earlier stores, those of the burrow, of .comm reductions and of tile instructions (R173, R319, R337, R368),
and for its fences. -/
def copyHeld (s : State) (g : Group) : Bool :=
  hasBurrow s s.cur || !g.comm.isEmpty || (tileOpen s s.cur g.seq).any (fun j => j.op.writes) || fenceWait s g { loads := true, stores := true }

def copyI (k : CopyKind) (ck : Checks) (sh : Shape) (o : EOps) (s : State) : Out :=
  issueC { roleChan ck.closing o with illegal := fun s g => ck.illegal s g || (g.regsIn sh o && (copyJobOf k g s.free o).bad) } sh o
    (fun s g =>
      let j := { copyJobOf k g s.free o with grp := s.cur }
      match copyCheck s g j with
      | some (c, a) => trapOf g c 0 a
      | none =>
        let chan := chanOf s g o
        let s := commAll (s.putG g) s.cur
        let g := s.grp s.cur
        if copyHeld s g || (decide (j.bytes ≠ 0) && decide (16 ≤ (s.chan g.core chan).queue.length)) then heldWith s
        else
          let s := copyAccept s s.cur g.core chan j
          .ok { s := s, g := s.grp s.cur }) s

/-! ### Batches (R357, R358, R370, R371) -/

/-- CSEAL: a record is made for the open batch; where all 16 are in use the oldest complete one is freed. -/
def cseal (ck : Checks) (sh : Shape) (o : EOps) (s : State) : Out :=
  issueC ck sh o (fun s g =>
    let b := g.batches
    let num := b.openNum
    let record := fun (g : Group) (recs : List Batch) =>
      okOuts s { g with batches := { cur := { num := 0 }, newest := num, recs := recs ++ [{ b.cur with num := num }] } }
        [(sKey o.d.toNat, BitVec.ofNat 32 num)]
    if b.recs.length < 16 then record g b.recs
    else
      match b.recs.find? (·.complete) with
      | none => .hold .suspended
      | some r =>
        let g := if r.peer then g.setErr 1#32 else g
        let g := if r.other then g.setErr 4#32 else g
        record g (b.recs.filter (fun x => x.num != r.num))) s

/-- The records that CWAIT n targets (R371). -/
def cwaitTarget (b : Batches) (n : Nat) : List Batch :=
  if n = 0 then []
  else
    let back := fun m => (b.newest + 2 ^ 32 - m) % 2 ^ 32
    let n := if b.newest = 0 ∨ 2 ^ 31 ≤ back n then b.newest else n
    b.recs.filter (fun r => decide (back n ≤ back r.num))

/-- CWAIT n waits for the batch numbered m (R174, R371). -/
def Batches.covers (b : Batches) (n m : Nat) : Bool :=
  let back := fun m => (b.newest + 2 ^ 32 - m) % 2 ^ 32
  let n := if b.newest = 0 ∨ 2 ^ 31 ≤ back n then b.newest else n
  decide (n ≠ 0) && decide (m ≠ b.openNum) && decide (back n ≤ back m)

/-- What the copies of the batches up to n have landed is settled (R173, R356). -/
def Group.waited (g : Group) (n : Nat) : Group :=
  if n = 0 then g
  else { g with landed := g.landed.filter (fun l => match l.by_ with
    | .copy m _ => !g.batches.covers n m
    | .tile _ => true) }

/-- The bytes of complete batches become visible to the group's lanes (R174): the cluster's tensor lines and stash entries are read anew. -/
def seeCopies (s : State) (g : Group) : State :=
  invTensor (stashEvent s (clusterOf g.core) (fun e => !tagCtl e.tag) true) (clusterOf g.core)

/-- A class of errors is cleared in the targeted records. -/
def clearClass (b : Batches) (nums : List Nat) (f : Batch → Batch) : Batches :=
  { b with recs := b.recs.map (fun r => if nums.contains r.num then f r else r) }

/-- CWAIT when every targeted batch is complete (R371). -/
def cwaitDone (s : State) (g : Group) (target : List Batch) : Res Eff :=
  let nums := target.map (·.num)
  let trap := fun (g : Group) (t : Trap) => Res.ok ({ s := s, g := g.trapHere { t with lanes := g.em }, done := true } : Eff)
  let peer := target.find? (·.peer)
  let other := target.find? (·.other)
  let g1 := match peer with
    | some _ => { g with batches := clearClass g.batches nums (fun r => { r with peer := false }) }
    | none => g
  match peer, g.trap.trapen.getLsbD 1 with
  | some r, true => trap g1 { cause := causePeer, addr := r.peerAddr }
  | _, _ =>
    let g2 := match peer with
      | some _ => g1.setErr 1#32
      | none => g1
    let g3 := match other with
      | some _ => { g2 with batches := clearClass g2.batches nums (fun r => { r with other := false }) }
      | none => g2
    match other, g.trap.trapen.getLsbD 3 with
    | some r, true => trap g3 { cause := causeCopy, sub := r.sub, addr := r.otherAddr }
    | _, _ =>
      let g4 := match other with
        | some _ => g3.setErr 4#32
        | none => g3
      okOuts s { g4 with batches := { g4.batches with recs := g4.batches.recs.filter (fun r => !nums.contains r.num) } } []

def cwait (ck : Checks) (sh : Shape) (o : EOps) (s : State) : Out :=
  issueC ck sh o (fun s g =>
    let n := (g.uB32 s.free o).toNat
    let target := cwaitTarget g.batches n
    if target.all (·.complete) then cwaitDone (seeCopies s g) (g.waited n) target
    else .ok { s := plRelease s g.core, g := { g with wait := .cwait n }, done := true }) s

def cwaitTest (ck : Checks) (sh : Shape) (o : EOps) (s : State) : Out :=
  issueC ck sh o (fun s g =>
    let n := (g.uB32 s.free o).toNat
    let ok := (cwaitTarget g.batches n).all (·.complete)
    okOuts (if ok then seeCopies s g else s) ((if ok then g.waited n else g).putK o.d.toNat ok) []) s

/-! ### CWPTR (R355, R372) -/

/-- WPTR: the head's destination while no piece of it has landed. -/
def Chan.writePtr (c : Chan) : Dword :=
  match c.queue with
  | j :: _ => if j.flow.prog = 0 then j.dst else c.wptr
  | [] => c.wptr

def Chan.progress (c : Chan) : Nat :=
  match c.queue with
  | j :: _ => j.flow.prog
  | [] => 0

def cwptr (see : Bool) (f : Chan → List Word) (ck : Checks) (sh : Shape) (o : EOps) (s : State) : Out :=
  issueC (roleChan ck o) sh o (fun s g =>
    let ws := f (s.chan g.core (chanOf s g o))
    okOuts (if see then seeCopies s g else s) g (ws.zipIdx.map (fun p => (sKey (o.d.toNat + p.2), p.1)))) s

/-! ### RATOM and TFENCE (R373 to R376) -/

/-- RATOM: one request a line joins the open batch; the returning form is pending until they are acknowledged. -/
def ratom (ret : Bool) (op : AtomOp) (n : Nat) (ck : Checks) (sh : Shape) (o : EOps) (s : State) : Out :=
  laneAccess true true (fun g f v => vaDiffer g f o v || dataB g f o n (2 * v) != dataB g f o n (2 * v + 1) ||
      (op == .cas && dataC g f o n (2 * v) != dataC g f o n (2 * v + 1))) ck.closing sh o
    (fun s g m ls =>
      match laneChecks s g .ratom n n (ls.map (fun l => (l, laneVa g s.free o l))) with
      | some t => .trap t
      | none =>
        let accs := ls.map (fun l => ({
          lane := l
          va := laneVa g s.free o l
          b := BitVec.ofNat 128 (dataB g s.free o n l)
          c := if op = .cas then BitVec.ofNat 128 (dataC g s.free o n l) else 0 } : LaneAcc))
        let reqs := ratomSplit accs
        let reach := accs.map (fun a => (a.lane, a.va, n))
        let s := commBefore (s.putG g) s.cur reach
        let g := s.grp s.cur
        if decide (256 < ratomsOut s g.core + reqs.length) || loadWaitsTile s s.cur reach || storeWaitsTile s s.cur reach then heldWith s
        else
          let num := g.batches.openNum
          let new := reqs.zipIdx.map (fun p => ({
            num := g.seq * 16 + p.2, seq := g.seq, op := op, n := n, accs := p.1, batch := num, dst := o.d.toNat
            order := s.order + p.2, pend := if ret then some g.seq else none } : RatomReq))
          let b := reqs.foldl (fun (b : Batches) _ => b.update num Batch.join) g.batches
          let pend : Pend := { id := g.seq, dests := writesOf sh o, lanes := m, wait := .ratom reqs.length, vas := accs.map (fun a => (a.lane, a.va)) }
          let s := new.foldl (fun s r => transmit s (pkgOfCore g.core) r.pkg vcTreq (r.accs.length * n)) { s with order := s.order + reqs.length }
          .ok { s := s, g := { g with ratoms := g.ratoms ++ new, batches := b }, pend := if ret then some pend else none }) s

/-- TFENCE (R177, R376). -/
def tfence (ck : Checks) (sh : Shape) (o : EOps) (s : State) : Out :=
  issueC ck.closing sh o (fun s g => fenceStart .tfence true true s g) s

/-! ### Events -/

/-- Requests that have not reached a die's memory-side ports: group key and place. -/
def dieRatoms (s : State) (die : Nat) : List (Nat × Nat) :=
  s.groups.flatMap (fun e =>
    (List.range e.2.ratoms.length).filterMap (fun i => match e.2.ratoms[i]? with
      | some r => if !r.done && r.die == die then some (e.1, i) else none
      | none => none))

/-- The three answers to the first piece in flight, for a core's channel and for a hub die's (R359, R360, R365, R444). -/
def pieceDo (s : State) (ch : CopyChan) (f : Stream → State → State) : State :=
  match ch with
  | .core core chan => onHead s core chan f
  | .hub pkg n => onHub s pkg n f

/-- Queues a linear copy on a channel role, joining the open batch (R369). -/
def execCpy (o : EOps) (s : State) : Out :=
  copyI .line {} (shCpy o) o s

/-- Queues a two-dimensional strided copy (R369). -/
def execCpy2 (o : EOps) (s : State) : Out :=
  copyI .rect {} (shCpy2 o) o s

/-- Queues an indexed gather copy (R369). -/
def execCpygGather (o : EOps) (s : State) : Out :=
  copyI .gather {} (shCpy2 o) o s

/-- Queues an indexed scatter copy (R369). -/
def execCpygScatter (o : EOps) (s : State) : Out :=
  copyI .scatter {} (shCpy2 o) o s

/-- A piece lands: WPTR, LCNT and any barrier count advance, and the copy completes after its last piece (R365). -/
def execCopyPieceLand (ch : CopyChan) (s : State) : Out :=
  .next (pieceDo s ch Stream.landHead)

/-- A piece is refused, REF rises and the channel enters HOLD (R360). -/
def execCopyPieceRefused (ch : CopyChan) (hint : Byte) (s : State) : Out :=
  .next (pieceDo s ch (fun x s => x.refuseHead s hint.toNat))

/-- An error answer records the error in the copy's batch and stops further pieces (R359). -/
def execCopyErrorAnswer (ch : CopyChan) (sub : Byte) (s : State) : Out :=
  .next (pieceDo s ch (fun x s => x.failHead s (min sub.toNat 5)))

/-- Seals the open batch and returns its number (R370). -/
def execCseal (o : EOps) (s : State) : Out :=
  cseal {} shCseal o s

/-- Waits until the targeted batches complete, then reports and clears their errors (R371). -/
def execCwait (o : EOps) (s : State) : Out :=
  cwait {} shCwait o s

/-- Sets a k predicate when the targeted batches are complete (R371). -/
def execCwaitTest (o : EOps) (s : State) : Out :=
  cwaitTest {} shCwaitTest o s

/-- Reads a channel's WPTR (R372). -/
def execCwptrAddr (o : EOps) (s : State) : Out :=
  cwptr true (fun c => twoWords c.writePtr) {} shCwptrAddr o s

/-- Reads a channel's LCNT (R372). -/
def execCwptrCnt (o : EOps) (s : State) : Out :=
  cwptr true (fun c => twoWords c.lcnt) {} shCwptrAddr o s

/-- Reads PROG of the head copy (R372). -/
def execCwptrProg (o : EOps) (s : State) : Out :=
  cwptr false (fun c => [BitVec.ofNat 32 c.progress]) {} shCwptrProg o s

/-- Reads a channel's refusal count (R372). -/
def execCwptrRef (o : EOps) (s : State) : Out :=
  cwptr false (fun c => [c.ref]) {} shCwptrProg o s

/-- Non-returning atomic operation on tensor space at the owning MSC, with op and size as ATOM (R374). -/
def execRatom (op : AtomOp) (sz : ASz) (o : EOps) (s : State) : Out :=
  ratom false op sz.bytes {} (shRatom op sz) o s

/-- Returning remote atomic operation, long-latency (R374). -/
def execRatomRet (op : AtomOp) (sz : ASz) (o : EOps) (s : State) : Out :=
  ratom true op sz.bytes {} (shRatomRet op sz) o s

/-- A RATOM acknowledgement returns, completing its batch entry and releasing the next request to the line (R375). -/
def execRatomAck (grp n : Nat) (s : State) : Out :=
  .next (ratomEnd s grp n)

/-- Waits for the group's tensor write-backs, copies and RATOMs before later control-space stores (R376). -/
def execTfence (o : EOps) (s : State) : Out :=
  tfence {} shTfence o s

end Sys2Proof.Machine
end

