-- ==== Sys2Proof/Machine/Fabric.lean ====
section
/-!
DEFINITION. The fabric engine's port events (R534 to R541).
-/

namespace Sys2Proof.Machine

/-- A flit arrives: it is checked, acknowledged, and its XOFF and payload are applied, or it is dropped (R534). -/
def execFlitReceive (pkg port : Nat) (flit : Flit) (s : State) : Out :=
  .next (flitReceive s pkg port flit)

/-- A NAK makes the sender resend from the flit after the last good sequence (R538). -/
def execNakReceive (pkg port : Nat) (seq : Nat) (s : State) : Out :=
  .next (s.putPort pkg port (nakReceive (s.port pkg port) seq))

/-- Sixteen NAKs within 1 µs send the port to RETRAIN (R541). -/
def execNakBurst (pkg port : Nat) (s : State) : Out :=
  .next (nakBurst s pkg port)

/-- A lane fails, and the port remaps it to the spare or retrains (R541). -/
def execLaneFail (pkg port lane : Nat) (s : State) : Out :=
  .next (laneFail s pkg port lane)

/-- Port training completes, and the port is UP with flits resuming (R541). -/
def execTrainingComplete (pkg port : Nat) (s : State) : Out :=
  .next (trained s pkg port)

/-- After 100 µs in RETRAIN, the port goes DOWN (R541). -/
def execRetrainTimeout (pkg port : Nat) (s : State) : Out :=
  .next (retrainTimeout s pkg port)

/-- The presence contact opens, and the port goes DOWN and is removed from the routes (R541). -/
def execPresentFall (pkg port : Nat) (s : State) : Out :=
  .next (presentFall s pkg port)

/-- The presence contact closes, and the port starts training on MGMT only (R541). -/
def execPresentRise (pkg port : Nat) (s : State) : Out :=
  .next (presentRise s pkg port)

end Sys2Proof.Machine
end

