-- ==== Sys2Proof/Machine/Loss.lean ====
section
/-!
DEFINITION. The loss of a package (R362, R394, R465, R509, R542, R543): which packages declare which, and how a survivor settles
what is outstanding.
-/

namespace Sys2Proof.Machine

/-! ### Control-space reads (R543) -/

/-- All-ones data of a lane, in the registers that the load writes; none for an action that writes memory. -/
def onesOuts (g : Group) (op : MemOp) (a : LaneAcc) : Option (List (Nat × Word)) :=
  match op.act with
  | .load n signed => some (loadOuts g op.dst a.lane (wordsOf n (2 ^ (8 * n) - 1) signed))
  | .uload n signed => some ((wordsOf n (2 ^ (8 * n) - 1) signed).zipIdx.map (fun p => (sKey (op.dst + p.2), p.1)))
  | .loadLocked n => some (loadOuts g op.dst a.lane (wordsOf n (2 ^ (8 * n) - 1) false))
  | .vpLoad => some ((List.range g.info.vpc).map (fun i => (vKey (vpSlice g op.dst i) a.lane, 0xFFFFFFFF#32)))
  | .storeCond _ => none
  | .atomic _ _ => none

/-- A held read of a lost package's control range completes in its lanes. -/
def loadLoss (s : State) (q gk n : Nat) : State :=
  let g := s.grp gk
  match g.pend.find? (fun p => p.id == n) with
  | none => s
  | some p =>
    match p.mop with
    | none => s
    | some op =>
      let gone := fun (a : LaneAcc) =>
        decide (spaceOf (xlVa s g a.lane a.va) = .control) && vaPkg (xlVa s g a.lane a.va) == q && (onesOuts g op a).isSome
      let out := op.accs.filter gone
      let rest := op.accs.filter (fun a => !gone a)
      if out.isEmpty then s
      else
        let on := g.trap.trapen.getLsbD 1
        let t : Trap := {
          cause := causePeer
          addr := (out.map (·.va)).headD 0
          lanes := if p.lanes = 0 then g.em else g.fold (maskOf (fun l => out.any (fun a => a.lane == l)))
          seq := p.seq }
        let p' : Pend := {
          p with
          outs := p.outs ++ out.flatMap (fun a => (onesOuts g op a).getD [])
          cause := match p.cause with
            | some c => some c
            | none => if on then some (2, t) else none
          wait := if rest.isEmpty then .ready else p.wait
          mop := if rest.isEmpty then none else some { op with accs := rest } }
        let g := if on then g else g.setErr 1#32
        let g := { g with
          pend := g.pend.map (fun x => if x.id == n then p' else x)
          wait := if rest.isEmpty then .none else g.wait }
        let s := s.putGrp gk g
        if rest.isEmpty then dropWaiters s (fun w => w == .load gk n) else s

/-! ### Copies and RATOMs (R362) -/

/-- The copies of a channel that have lost an end complete: those behind the head, then the head. -/
def chanLoss (s : State) (core chan : Nat) : State :=
  let pkg := pkgOfCore core
  let c := s.chan core chan
  match c.queue with
  | [] => s
  | j :: rest =>
    let gone := rest.filter (fun x => (x.lost s pkg).isSome)
    let s := s.putChan core chan { c with queue := j :: rest.filter (fun x => (x.lost s pkg).isNone) }
    let s := gone.foldl (fun (s : State) x =>
      fenceCheck (batchDone (batchErr (fenceLost s x ((x.lost s pkg).getD 0)) x.grp x.batch 0 x.dst) x.grp x.batch) x.grp) s
    match j.lost s pkg with
    | none => s
    | some p =>
      let s := if c.st = .grant then powerWithdraw s (dieOfCore core) (.copy core chan) else s
      copyPeer (dropWaiters s (fun w => w == .copy core chan)) core chan j p (j.flow.at_ (j.carrier core chan))

/-- The RATOM requests of a group to a lost package complete. -/
def ratomLoss (q gk : Nat) : Nat → State → State
  | 0, s => s
  | f + 1, s =>
    let g := s.grp gk
    match (List.range g.ratoms.length).find? (fun i => match g.ratoms[i]? with
      | some r => r.pkg == q
      | none => false) with
    | none => s
    | some i =>
      match g.ratoms[i]? with
      | none => s
      | some r =>
        let s := dropWaiters (setRatom s gk { r with done := false, held := false } i) (fun w => w == .ratom gk r.num)
        ratomLoss q gk f (ratomEnd s gk i)

/-- A hub-die copy that has lost an end completes. -/
def hubLoss (s : State) (pkg n : Nat) (c : HubCopy) : State :=
  match [c.dst, c.src].findSome? (lostVa s pkg) with
  | none => s
  | some p => onHub (dropWaiters s (fun w => w == .hub pkg n)) pkg n (fun x s => x.peer s p (c.flow.at_ (c.carrier pkg)))

/-! ### The gang (R465) -/

/-- A slice that a member is changing to. -/
def GangSt.next : GangSt → Option Nat
  | .run _ => none
  | .drain _ n => some n
  | .acked _ n => some n

/-- The leader drops the lost member; when the leader is lost, the lowest surviving member proposes again. -/
def gangLoss (s : State) (pkg q : Nat) (led : Bool) : State :=
  let s := { s with gmsgs := s.gmsgs.filter (fun m => !((m.dest == q && m.src == pkg) || (m.src == q && m.dest == pkg))) }
  match (s.pkg pkg).lead with
  | some l => gangReady (s.putPkg pkg { (s.pkg pkg) with lead := some { l with waits := l.waits.filter (· != q) } }) pkg
  | none =>
    if led && leaderOf s pkg == pkg then
      match ((gangOf s pkg).filter (fun m => !s.lostTo pkg m)).findSome? (fun m => (s.pkg m).gst.next) with
      | some n => proposeAll s pkg n true none
      | none => s
    else s

/-! ### A declaration (R542, R543) -/

/-- What a package has outstanding with a lost one is settled. -/
def settleLoss (s : State) (pkg q : Nat) (led : Bool) : State :=
  let groups := (s.groups.filter (fun e => pkgOfCore e.2.core == pkg)).map (·.1)
  let chans := (s.cores.filter (fun c => pkgOfCore c.1 == pkg)).flatMap (fun c => c.2.chans.map (fun x => (c.1, x.1)))
  let s := chans.foldl (fun s c => chanLoss s c.1 c.2) s
  let s := groups.foldl (fun s gk => ratomLoss q gk (s.grp gk).ratoms.length s) s
  let s := (s.pkg pkg).hub.foldl (fun s h => hubLoss s pkg h.1 h.2) s
  let colls := (s.dies.filter (fun d => d.1 / 4 == pkg)).flatMap (fun d => d.2.colls.map (fun c => (d.1, c.1)))
  let s := colls.foldl (fun s c => collAbortEvent s c.1 c.2 1) s
  let s := groups.foldl (fun s gk => (s.grp gk).pend.foldl (fun s p => loadLoss s q gk p.id) s) s
  let s := giveLoss (counterLoss s q (s.partner.getD q pkg)) pkg q
  let s := gangLoss (cohLoss s pkg q) pkg q led
  let hit := s.launches.filter (fun e => (e.2.home == pkg || e.2.members.contains pkg) && (e.2.home == q || e.2.members.contains q))
  hit.foldl (fun s e => launchFail s e.1 causePeer 0) s

/-- The bits of packages that a package has been told are lost. -/
def markLost (s : State) (pkg : Nat) (qs : List Nat) : State :=
  { s with lost := s.lost.put pkg (qs.foldl (fun w q => setBit w q true) (s.lost.getD pkg 0)) }

/-- A package takes itself as lost (R542). -/
def selfLoss (s : State) (pkg : Nat) : State :=
  let all := List.range s.domain
  let s := markLost s pkg (pkg :: all)
  let s := (s.launches.filter (fun e => e.2.home == pkg)).foldl (fun s e => launchFail s e.1 causePeer 0) s
  (all.filter (· != pkg)).foldl (fun s q => settleLoss s pkg q false) s

/-- LOSS_DECLARATION: a package applies a declaration, once. -/
def applyLoss (s : State) (pkg q : Nat) : State :=
  let s := { s with decls := s.decls.erase (pkg, q) }
  if s.lostTo pkg q ∨ s.lostTo pkg pkg then s
  else if pkg = q then owlError (selfLoss s pkg) pkg 10
  else
    let led := leaderOf s pkg == q
    let s := settleLoss (markLost s pkg [q]) pkg q led
    owlError { s with partner := if s.partner.get? pkg = some q then s.partner.del pkg else s.partner } pkg 10

/-- The packages that a package takes its part to be: those not lost that it still reaches, and hears from (R542). -/
def partOf (s : State) (pkg silent : Nat) (live : List Nat) : List Nat :=
  live.filter (fun p => p == pkg || (p != silent && reaches s Port.routed pkg p))

/-- A part survives with more than half of the packages, or with half and the lowest-numbered (R542). -/
def survives (live part : List Nat) : Bool :=
  decide (live.length < 2 * part.length) || (live.length == 2 * part.length && part.contains (live.foldl min (live.headD 0)))

/-- A declaration goes to the other packages of a part, on MGMT. -/
def declare (s : State) (pkg q : Nat) (part : List Nat) : State :=
  part.foldl (fun s p => transmit { s with decls := s.decls ++ [(p, q)] } pkg p vcMgmt) s

/-- PEER_HEARTBEAT_TIMEOUT: the surviving part declares every package outside it lost; a package outside it, itself. -/
def heartbeatTimeout (s : State) (pkg peer : Nat) : State :=
  if pkg = peer ∨ s.domain ≤ pkg ∨ s.domain ≤ peer ∨ s.lostTo pkg peer ∨ s.lostTo pkg pkg then s
  else
    let live := (List.range s.domain).filter (fun p => !s.lostTo pkg p)
    let part := partOf s pkg peer live
    if survives live part then
      (live.filter (fun p => !part.contains p)).foldl (fun s q =>
        applyLoss (declare s pkg q (part.filter (· != pkg))) pkg q) s
    else applyLoss s pkg pkg

/-- BLADE_ADMISSION: firmware gives the peer of a port a free package number and a mirror partner. -/
def admitBlade (s : State) (pkg port peer partner : Nat) : State :=
  let x := s.port pkg port
  let free := decide (peer < 32) && peer != pkg && !(s.pkg peer).up && !s.lost.any (fun e => e.2.getLsbD peer)
  if x.present && x.mgmtOnly && free then
    { (s.putPort pkg port { x with peer := some peer, mgmtOnly := false, removed := false }) with partner := s.partner.put peer partner }
  else s

end Sys2Proof.Machine
end

