-- ==== Sys2Proof/Machine/Firmware.lean ====
section
/-!
DEFINITION. The firmware complexes' events (R203 to R210, R466 to R468), loss and admission of packages (R542, R543), and the PCI
Express port's events (R545, R546).
-/

namespace Sys2Proof.Machine

/-- A firmware write to a register that has no row of its own (R210). -/
def execRegisterWrite (pkg : Nat) (den : Bool) (off width : Nat) (value : BitVec 64) (s : State) : Out :=
  .next (regWrite s pkg den off width value)

/-- A write of key material to a slot is taken while EN is 0 and ignored otherwise (R210). -/
def execKeyMaterialWrite (pkg slot word : Nat) (value : Word) (s : State) : Out :=
  .next (keyWrite s pkg slot word value)

/-- Writing 1 to BUSY re-arms the owl line and clears DROPS (R208). -/
def execSnapshotRearm (pkg : Nat) (s : State) : Out :=
  .next (rearm s pkg)

/-- Writing 1 to VALID clears the containment log (R532). -/
def execCtnlogClear (core : Nat) (s : State) : Out :=
  .next (ctnClear s core)

/-- The external trigger pin pulls the owl line when PINEN is 1 (R205). -/
def execOwlPinTrigger (pkg : Nat) (s : State) : Out :=
  .next (pinTrigger s pkg)

/-- A trigger forwarded by a gang peer arrives and latches as source 5 (R207). -/
def execOwlForwardReceive (n : Nat) (s : State) : Out :=
  .next (forwardReceive s n)

/-- Package reset runs bring-up: image verification, training, fuses, links and the DIB (R468). -/
def execPackageReset (pkg : Nat) (boot : Boot) (s : State) : Out :=
  .next (packageReset s pkg boot)

/-- The den verifies a new image, and at a quiescent boundary imports the state table and takes over (R466). -/
def execLiveUpdate (pkg : Nat) (img : Image) (s : State) : Out :=
  .next (liveUpdate s pkg img)

/-- After 1 ms without a heartbeat from the active complex, the den takes over from the last exported table (R467). -/
def execHeartbeatTakeover (pkg : Nat) (s : State) : Out :=
  .next (cpRun s pkg .takeover)

/-- On request, the active complex returns an attestation report that holds the measurement registers, the requester's nonce, the fuse map, the image version and the serial number, signed with the attestation key (R204). -/
def execAttestationRequest (pkg : Nat) (nonce : List Byte) (s : State) : Out :=
  .next (attest s pkg nonce)

/-- A peer sends no heartbeat for 100 µs, or no route reaches it, and it is declared lost (R542). -/
def execPeerHeartbeatTimeout (pkg peer : Nat) (s : State) : Out :=
  .next (heartbeatTimeout s pkg peer)

/-- A survivor applies a loss declaration and settles every outstanding access to the lost package (R543). -/
def execLossDeclaration (pkg peer : Nat) (s : State) : Out :=
  .next (applyLoss s pkg peer)

/-- Firmware admits an inserted blade's peer, assigning it a free package number and a mirror partner, and the port stops being limited to MGMT traffic (R542). -/
def execBladeAdmission (pkg port peer partner : Nat) (s : State) : Out :=
  .next (admitBlade s pkg port peer partner)

/-- An inbound write TLP is performed when received whole (R546). -/
def execPcieInboundWrite (pkg bar off : Nat) (data : List Byte) (s : State) : Out :=
  .next (cpRun s pkg (.pcieWrite bar off data))

/-- An inbound read TLP is served through a BAR and completed (R545). -/
def execPcieInboundRead (pkg bar off len : Nat) (s : State) : Out :=
  .next (cpRun s pkg (.pcieRead bar off len))

/-- The PCI Express link goes down: partial writes are dropped and outstanding requests are completed or discarded (R546). -/
def execPcieLinkDown (pkg : Nat) (s : State) : Out :=
  .next (pcieDown s pkg)

/-- The PCI Express link trains and comes up in FLIT mode at the best supported rate and width, including after firmware releases a DPC hold (R545). -/
def execPcieLinkUp (pkg : Nat) (rate width : Nat) (s : State) : Out :=
  .next (pcieUp s pkg rate width)

end Sys2Proof.Machine
end

