-- ==== Sys2Proof/Machine/Precision.lean ====
section
/-!
DEFINITION. The precision engine (R265 to R286): %prec, VP arithmetic with its capacity check and its guard, conversions, and
VP loads and stores.
-/

namespace Sys2Proof.Machine

/-! ### VPREC and VPGET (R278, R279) -/

/-- The low byte of P as VPREC stores it: a P above 255 is corrected to 224, before the corrections of R265 (R278). -/
def vpPField (w : Word) : Nat := if 224 < w.toNat then 255 else w.toNat

/-- VPREC: some fields of %prec, in each active lane. -/
def vprec (setP setMode : Bool) (ck : Checks) (sh : Shape) (o : EOps) (s : State) : Out :=
  issueC ck sh o (fun s g =>
    okOuts s ((lanesOf (g.active sh o s.free)).foldl (fun g l =>
      let old := (g.precOf l).toNat
      let p := if setP then vpPField (g.b32 s.free o l) else old % 256
      let hi := if setMode then xField o 4 8 * 4096 + xField o 3 1 * 2048 + xField o 0 3 * 256 else old / 256 % 4096 * 256
      g.putPrec l (BitVec.ofNat 32 (hi + p))) g) []) s

/-- The slice number of VPGET.SLICE lies inside the capacity (R279). -/
def vpgetChecks (o : EOps) : Checks := { illegal := fun _ g => decide (g.info.vpc ≤ xField o 0 3) }

def vpgetHead (ck : Checks) (sh : Shape) (o : EOps) (s : State) : Out :=
  issueC ck sh o (fun s g => okOuts s g (outsOf o (g.active sh o s.free) (fun l => [g.vpWord s.free o.a.toNat 0 l]))) s

def vpgetSlice (_ck : Checks) (sh : Shape) (o : EOps) (s : State) : Out :=
  issueC (vpgetChecks o) sh o (fun s g =>
    okOuts s g (outsOf o (g.active sh o s.free) (fun l => [g.vpWord s.free o.a.toNat (xField o 0 3) l]))) s

/-! ### The shell of VP instructions (R267 to R277) -/

/-- What a lane of a VP instruction computes: words for the destination, a predicate bit, bits of %vpstat, a guard trip. -/
structure VpLane where
  outs : List (Nat × Word) := []
  bit : Bool := false
  bits : Word := 0
  trip : Bool := false

/-- The lanes of a VP instruction: source heads are checked, then capacity, then the engine's room; results and conditions come
at completion (R143, R268, R270, R273, R275, R277). -/
def vpIssue (srcs : List (BitVec 10)) (vpDst : Bool) (f : State → Group → Nat → VpLane) (ck : Checks) (sh : Shape) (o : EOps)
    (s : State) : Out :=
  issueC ck sh o (fun s g =>
    let m := g.active sh o s.free
    let bad := maskOf (fun l => m.getLsbD l && srcs.any (fun j => VpElt.badHead (g.vpWord s.free j.toNat 0 l)))
    let cap := if vpDst then maskOf (fun l => m.getLsbD l && decide (g.lmax < g.precP l) && !g.precSat l) else 0
    if bad ≠ 0 then .trap { cause := causeIllegal, lanes := g.fold bad }
    else if cap ≠ 0 then .trap { cause := causePrec, sub := 1, lanes := g.fold cap }
    else if vpFull s then .hold .suspended
    else
      let trips := maskOf (fun l => m.getLsbD l && (f s g l).trip)
      let p : Pend := { id := 0, dests := writesOf sh o, lanes := m, vp := true }
      okPend s g
        (if trips ≠ 0 then
          { p with cause := some (1, { cause := causePrec, sub := 3, addr := pcOf g, lanes := g.fold trips }) }
        else
          { p with
            outs := (lanesOf m).flatMap (fun l => (f s g l).outs)
            qouts := (match sh.d with
              | .qd => [(o.d.toNat, maskOf (fun l => m.getLsbD l && (f s g l).bit))]
              | _ => [])
            vpbits := (lanesOf m).map (fun l => (l, (f s g l).bits)) })) s

/-- The length a result is rounded at, and whether it was clamped (R270). -/
def Group.resLen (g : Group) (l : Nat) : Nat × Bool :=
  if g.lmax < g.precP l then (g.lmax, true) else (g.precP l, false)

/-- A rounded VP result of an exact value with its own conditions. -/
def vpResult (g : Group) (o : EOps) (l : Nat) (len : Nat) (clamp : Bool) (x : XReal × Conds) : VpLane :=
  let r := roundVP x.1 len (g.vpMode o l)
  { outs := g.vpOuts o.d.toNat l r.1, bits := vpBits (r.2.or x.2) clamp }

/-- The exact values of A, B and C. -/
def Group.vpA (g : Group) (free : Nat) (o : EOps) (l : Nat) : XReal := (g.vpElt free o.a.toNat l).value
def Group.vpB (g : Group) (free : Nat) (o : EOps) (l : Nat) : XReal := (g.vpElt free o.b.toNat l).value
def Group.vpC (g : Group) (free : Nat) (o : EOps) (l : Nat) : XReal := (g.vpElt free o.c.toNat l).value

/-- VPADD and VPADD.SUB (R272, R280). DESIGN CHOICE: the guard compares with P in a lane that SAT clamps too, as R272 says; the
chapter's worked case takes Lmax (log 102). -/
def vpadd (sub : Bool) (ck : Checks) (sh : Shape) (o : EOps) (s : State) : Out :=
  vpIssue [o.a, o.b] true (fun s g l =>
    let x := g.vpA s.free o l
    let y := if sub then (g.vpB s.free o l).negate else g.vpB s.free o l
    let r := g.resLen l
    { vpResult g o l r.1 r.2 (vpAddR (g.vpMode o l) x y) with trip := guardTrips (g.precP l) (g.precGuard l) x y }) ck sh o s

def vpmul (ck : Checks) (sh : Shape) (o : EOps) (s : State) : Out :=
  vpIssue [o.a, o.b] true (fun s g l =>
    let r := g.resLen l
    vpResult g o l r.1 r.2 (vpMulR (g.vpA s.free o l) (g.vpB s.free o l))) ck sh o s

/-- VPFMA and VPFMA.NEG: the guard's terms are the exact product and C (R272). -/
def vpfma (neg : Bool) (ck : Checks) (sh : Shape) (o : EOps) (s : State) : Out :=
  vpIssue [o.a, o.b, o.c] true (fun s g l =>
    let x := g.vpA s.free o l
    let y := g.vpB s.free o l
    let z := g.vpC s.free o l
    let p := if neg then (XReal.mul x y).negate else XReal.mul x y
    let r := g.resLen l
    { vpResult g o l r.1 r.2 (vpFmaR (g.vpMode o l) neg x y z) with trip := guardTrips (g.precP l) (g.precGuard l) p z })
    ck sh o s

def vpdiv (ck : Checks) (sh : Shape) (o : EOps) (s : State) : Out :=
  vpIssue [o.a, o.b] true (fun s g l =>
    let r := g.resLen l
    vpResult g o l r.1 r.2 (vpDivR r.1 (g.vpA s.free o l) (g.vpB s.free o l))) ck sh o s

def vpsqrt (ck : Checks) (sh : Shape) (o : EOps) (s : State) : Out :=
  vpIssue [o.a] true (fun s g l =>
    let r := g.resLen l
    vpResult g o l r.1 r.2 (vpSqrtR r.1 (g.vpA s.free o l))) ck sh o s

/-- VPCMP: the truth values and NV cases of FCMP on exact values (R258, R280). -/
def vpcmp (cc : FCmp) (ck : Checks) (sh : Shape) (o : EOps) (s : State) : Out :=
  vpIssue [o.a, o.b] false (fun s g l =>
    let r := fCompare cc (g.vpA s.free o l) (g.vpB s.free o l)
    { bit := r.1, bits := vpBits { nv := r.2 } false }) ck sh o s

/-- VPRND.INT (R281): rounded once to the nearest integer with P fraction bits. -/
def vprndInt (ck : Checks) (sh : Shape) (o : EOps) (s : State) : Out :=
  vpIssue [o.a] true (fun s g l =>
    let r := g.resLen l
    match g.vpA s.free o l with
    | .fin n m e =>
      let y := roundUnit (.fin n m e) (max 0 (flog2 m e - r.1)) (g.vpMode o l)
      let v := roundVP y r.1 (g.vpMode o l)
      { outs := g.vpOuts o.d.toNat l v.1, bits := vpBits { nx := !(XReal.eq y (.fin n m e)) } r.2 }
    | x => vpResult g o l r.1 r.2 (x, { nv := x.isSnan })) ck sh o s

/-- VPRND.LEN (R281): rounded at min(n, P), or min(n, Lmax) where P is clamped (R270). -/
def vprndLen (ck : Checks) (sh : Shape) (o : EOps) (s : State) : Out :=
  vpIssue [o.a] true (fun s g l =>
    let r := g.resLen l
    let x := g.vpA s.free o l
    vpResult g o l (min (xField o 0 8) r.1) r.2 (x, { nv := x.isSnan })) ck sh o s

/-- Conversions into a VP register (R282). -/
def vpFrom (f : State → Group → Nat → XReal × Conds) (ck : Checks) (sh : Shape) (o : EOps) (s : State) : Out :=
  vpIssue [] true (fun s g l =>
    let r := g.resLen l
    vpResult g o l r.1 r.2 (f s g l)) ck sh o s

/-- Conversions out of a VP register (R282): the words, and the conditions. -/
def vpTo (f : RMode → XReal → List Word × Conds) (ck : Checks) (sh : Shape) (o : EOps) (s : State) : Out :=
  vpIssue [o.a] false (fun s g l =>
    let r := f (g.vpMode o l) (g.vpA s.free o l)
    { outs := laneOuts o.d.toNat l r.1, bits := vpBits r.2 false }) ck sh o s

def floatIn (x : XReal) : XReal × Conds := (x, { nv := x.isSnan })

/-- To binary32 or binary64. -/
def floatOut (f : FFmt) (mode : RMode) (x : XReal) : Nat × Conds :=
  let r := roundFBits x f mode
  (r.1, { r.2 with nv := x.isSnan })

/-- To int64: NaN gives 0 with NV, beyond the range the nearest end with NV. DESIGN CHOICE: NX is not set beside NV (log 104). -/
def vpToS64 (mode : RMode) (x : XReal) : List Word × Conds :=
  let r := toIntClamp x mode (-(2 ^ 63)) (2 ^ 63 - 1)
  (twoWords (BitVec.ofInt 64 r.1), r.2)

/-- To T16e1: NaN and infinities give NaR with NV; NX when the value changes. -/
def vpToT16 (x : XReal) : List Word × Conds :=
  let p := taperedEncode x 16 1
  match x with
  | .nan _ => ([BitVec.ofNat 32 p], { nv := true })
  | .inf _ => ([BitVec.ofNat 32 p], { nv := true })
  | x => ([BitVec.ofNat 32 p], { nx := !(XReal.eq (taperedDecode p 16 1) x) })

/-- VPMOV: a bit copy with a change of sign (R283). -/
def vpmov (f : Bool → Bool) (ck : Checks) (sh : Shape) (o : EOps) (s : State) : Out :=
  vpIssue [o.a] false (fun s g l =>
    let v := g.vpElt s.free o.a.toNat l
    { outs := g.vpOuts o.d.toNat l { v with neg := f v.neg } }) ck sh o s

/-! ### VPLD and VPST (R284 to R286) -/

/-- How the elements of VPLD and VPST are addressed (R284). -/
inductive VpAddr where
  | plain
  | strided
  | indexed
  | packed
  deriving DecidableEq, Repr

/-- The address of lane l's element, but for the packed form; l is the visible lane (R284, R529). -/
def vpAddrOf (k : VpAddr) (g : Group) (free : Nat) (o : EOps) (l : Nat) : Dword :=
  let base := g.a64 free o l
  match k with
  | .strided => base + BitVec.ofInt 64 ((g.vis l : Int) * (match o.lit with
      | some w => (w.setWidth 32 : Word).toInt
      | none => (g.s1 free o.b.toNat).toInt))
  | .indexed => base + (g.src32 free (uB o) o.b l).setWidth 64
  | _ => base

/-- VPLD: heads are read and checked before it issues, then the elements follow (R285). -/
def vpld (k : VpAddr) (ck : Checks) (sh : Shape) (o : EOps) (s : State) : Out :=
  issueC ck sh o (fun s g =>
    let m := g.active sh o s.free
    let ls := accLanes g m
    let diff := g.mismatch (g.fold m) (fun v => vpAddrOf k g s.free o (2 * v) != vpAddrOf k g s.free o (2 * v + 1))
    if diff ≠ 0 then shadowHit s g diff (fun v => vpAddrOf k g s.free o (2 * v))
    else if vpFull s || fenceWait s g { loads := true } then .hold .suspended
    else vpldHeads (s.putG g) (decide (k = .packed)) (ls.map (fun l => (l, vpAddrOf k g s.free o l))) o sh m) s

/-- VPST: each lane's element at the store length (R286). It is accepted when its group's earlier VP instructions have completed, which
keeps them in issue order (R275, log 93). -/
def vpst (k : VpAddr) (ck : Checks) (sh : Shape) (o : EOps) (s : State) : Out :=
  issueC ck sh o (fun s g =>
    let m := g.active sh o s.free
    let bad := maskOf (fun l => m.getLsbD l && VpElt.badHead (g.vpWord s.free o.c.toNat 0 l))
    let one := fun l =>
      let v := g.vpElt s.free o.c.toNat l
      let n := if xField o 0 8 = 0 then g.precP l else xField o 0 8
      if v.cls = 1 then roundVP v.value n (g.precMode l) else (VpElt.special v.cls v.neg n, {})
    let addrs := (accLanes g m).foldl (fun (a : List (Nat × Dword)) l =>
      match k, a.getLast? with
      | .packed, some (p, va) => a ++ [(l, va + BitVec.ofNat 64 ((one p).1.bytes.length))]
      | _, _ => a ++ [(l, vpAddrOf k g s.free o l)]) []
    let diff := g.mismatch (g.fold m) (fun v =>
      vpAddrOf k g s.free o (2 * v) != vpAddrOf k g s.free o (2 * v + 1) || (one (2 * v)).1.bytes != (one (2 * v + 1)).1.bytes)
    let addrOf := fun l => ((addrs.find? (fun p => p.1 == l)).map (·.2)).getD 0
    if bad ≠ 0 then .trap { cause := causeIllegal, lanes := g.fold bad }
    else if diff ≠ 0 then shadowHit s g diff (fun v => addrOf (2 * v))
    else if vpFull s || g.pend.any (·.vp) || fenceWait s g { stores := true, ctl := addrs.any (fun a => ctlPlace s g a.2) } then .hold .suspended
    else
      storeLike .ldst 1 (o.hint.toNat % 4) .bytes
        (addrs.map (fun p => { lane := p.1, va := p.2, bytes := (one p.1).1.bytes }))
        (fun g => (lanesOf m).foldl (fun g l => if (one l).2.any then g.setVpstat l (vpBits (one l).2 false) else g) g) s g) s

/-- Writes P, MODE, SAT and GUARD of %prec in each active lane (R278). -/
def execVprecSet (o : EOps) (s : State) : Out :=
  vprec true true {} shVprecSet o s

/-- Writes only P of %prec (R278). -/
def execVprecP (o : EOps) (s : State) : Out :=
  vprec true false {} shVprecP o s

/-- Writes MODE, SAT and GUARD of %prec (R278). -/
def execVprecMode (o : EOps) (s : State) : Out :=
  vprec false true {} shVprecMode o s

/-- Copies the head slice of a VP register to a lane register (R279). -/
def execVpgetHead (o : EOps) (s : State) : Out :=
  vpgetHead {} shVpgetHead o s

/-- Copies body slice j of a VP register to a lane register (R279). -/
def execVpgetSlice (o : EOps) (s : State) : Out :=
  vpgetSlice {} shVpgetSlice o s

/-- VP add rounded once with RoundVP, with the significance guard (R280). -/
def execVpadd (o : EOps) (s : State) : Out :=
  vpadd false {} shVpadd o s

/-- VP subtract rounded once, with the significance guard (R280). -/
def execVpaddSub (o : EOps) (s : State) : Out :=
  vpadd true {} shVpadd o s

/-- VP multiply rounded once (R280). -/
def execVpmul (o : EOps) (s : State) : Out :=
  vpmul {} shVpadd o s

/-- VP fused multiply-add with one rounding and the guard (R280). -/
def execVpfma (o : EOps) (s : State) : Out :=
  vpfma false {} shVpfma o s

/-- VP negated-product fused multiply-add (R280). -/
def execVpfmaNeg (o : EOps) (s : State) : Out :=
  vpfma true {} shVpfma o s

/-- VP divide rounded once (R280). -/
def execVpdiv (o : EOps) (s : State) : Out :=
  vpdiv {} shVpadd o s

/-- VP square root rounded once (R280). -/
def execVpsqrt (o : EOps) (s : State) : Out :=
  vpsqrt {} shVpsqrt o s

/-- VP comparison under condition cc, written to a q predicate (R280). -/
def execVpcmp (cc : FCmp) (o : EOps) (s : State) : Out :=
  vpcmp cc {} shVpcmp o s

/-- Rounds a VP value to an integer at P bits (R281). -/
def execVprndInt (o : EOps) (s : State) : Out :=
  vprndInt {} shVpsqrt o s

/-- Rounds a VP value to min(n, P) fraction bits (R281). -/
def execVprndLen (o : EOps) (s : State) : Out :=
  vprndLen {} shVprndLen o s

/-- Converts binary32 to VP (R282). -/
def execVpcvtVpF32 (o : EOps) (s : State) : Out :=
  (fun ck sh o s => vpFrom (fun s g l => floatIn (val32 (g.a32 s.free o l))) ck sh o s) {} shVpcvtVpF32 o s

/-- Converts VP to binary32 (R282). -/
def execVpcvtF32Vp (o : EOps) (s : State) : Out :=
  vpTo (fun m x => ([BitVec.ofNat 32 (floatOut fp32 m x).1], (floatOut fp32 m x).2)) {} shVpcvtF32Vp o s

/-- Converts binary64 to VP (R282). -/
def execVpcvtVpF64 (o : EOps) (s : State) : Out :=
  (fun ck sh o s => vpFrom (fun s g l => floatIn (fp64.decode (g.a64 s.free o l).toNat)) ck sh o s) {} shVpcvtVpF64 o s

/-- Converts VP to binary64 (R282). -/
def execVpcvtF64Vp (o : EOps) (s : State) : Out :=
  vpTo (fun m x => (twoWords (BitVec.ofNat 64 (floatOut fp64 m x).1), (floatOut fp64 m x).2)) {} shVpcvtF64Vp o s

/-- Converts int64 to VP (R282). -/
def execVpcvtVpS64 (o : EOps) (s : State) : Out :=
  (fun ck sh o s => vpFrom (fun s g l => (XReal.ofInt (g.a64 s.free o l).toInt 0 false, {})) ck sh o s) {} shVpcvtVpF64 o s

/-- Converts VP to int64 with saturation (R282). -/
def execVpcvtS64Vp (o : EOps) (s : State) : Out :=
  vpTo vpToS64 {} shVpcvtF64Vp o s

/-- Converts T16e1 to VP (R282). -/
def execVpcvtVpT16 (o : EOps) (s : State) : Out :=
  (fun ck sh o s => vpFrom (fun s g l => (taperedDecode (elt 0 (g.a32 s.free o l)) 16 1, {})) ck sh o s) {} shVpcvtVpF32 o s

/-- Converts VP to T16e1 (R282). -/
def execVpcvtT16Vp (o : EOps) (s : State) : Out :=
  vpTo (fun _ x => vpToT16 x) {} shVpcvtT16Vp o s

/-- Copies a VP register unchanged (R283). -/
def execVpmov (o : EOps) (s : State) : Out :=
  vpmov (fun b => b) {} shVpmov o s

/-- Copies a VP register with the sign inverted (R283). -/
def execVpmovNeg (o : EOps) (s : State) : Out :=
  vpmov (fun b => !b) {} shVpmov o s

/-- Copies a VP register with the sign cleared (R283). -/
def execVpmovAbs (o : EOps) (s : State) : Out :=
  vpmov (fun _ => false) {} shVpmov o s

/-- Loads one VP element per lane from the lane's base address (R285). -/
def execVpld (o : EOps) (s : State) : Out :=
  vpld .plain {} shVpld o s

/-- Loads VP elements at a uniform base plus lane times a stride (R285). -/
def execVpldStr (o : EOps) (s : State) : Out :=
  vpld .strided {} shVpldStr o s

/-- Loads VP elements at a base plus a per-lane byte index (R285). -/
def execVpldIdx (o : EOps) (s : State) : Out :=
  vpld .indexed {} shVpldIdx o s

/-- Loads VP elements packed one after another across the active lanes (R285). -/
def execVpldPack (o : EOps) (s : State) : Out :=
  vpld .packed {} shVpldPack o s

/-- Stores one VP element per lane, rounded to the store length (R286). -/
def execVpst (o : EOps) (s : State) : Out :=
  vpst .plain {} shVpst o s

/-- Stores VP elements at a base plus lane times a stride (R286). -/
def execVpstStr (o : EOps) (s : State) : Out :=
  vpst .strided {} shVpstStr o s

/-- Stores VP elements at a base plus a per-lane index (R286). -/
def execVpstIdx (o : EOps) (s : State) : Out :=
  vpst .indexed {} shVpstIdx o s

/-- Stores VP elements packed one after another (R286). -/
def execVpstPack (o : EOps) (s : State) : Out :=
  vpst .packed {} shVpstPack o s

end Sys2Proof.Machine
end

