-- ==== Sys2Proof/Machine/Solver.lean ====
section
/-!
DEFINITION. The solver engine's instructions and events (R409 to R421).
-/

namespace Sys2Proof.Machine

/-- The batch number that X names. -/
def batchOf (o : EOps) : Nat := xField o 0 3

/-- The checks of SCONF at issue, before its translation (R418). -/
def sconfCheck (s : State) (g : Group) (va : Dword) : Option Nat :=
  let die := dieOfCore g.core
  if va.toNat % 128 ≠ 0 then some causeAlign
  else if spaceOf va = .reserved then some causeAccess
  else if !(inTensor die va 128 || inControl (die / 4) va 128) then some causeSpace
  else if s.domain ≤ vaPkg va then some causeAccess
  else none

/-- SCONF, which waits as every instruction that reaches the solver engine for the group's burrow and for the equivalent of FENCE.rel.pkg.t
(R417, R418). -/
def sconf (ck : Checks) (sh : Shape) (o : EOps) (s : State) : Out :=
  issueC ck.closing sh o (fun s g =>
    let va := g.s2 s.free o.a.toNat
    let die := dieOfCore g.core
    let p : Pend := { id := 0, dests := writesOf sh o }
    match sconfCheck s g va with
    | some c => trapOf g c 0 va
    | none =>
      relReady 5 s g (fun s g =>
      if g.deny.contains (va.toNat / 65536) then
        .ok { s := s, g := { g with deny := [] }, pend := some { p with cause := some (0, { cause := causeAccess, addr := va, lanes := g.em, seq := g.seq }) } }
      else
        let r := g.req 0 va
        match pocOpen (s.putG g) r with
        | (_, .stop (.cause c)) => trapOf g c 0 va
        | (s, .stop (.fault d _)) => .ok { s := holdFault s d r (.group s.cur), g := { g with wait := .held d }, done := true }
        | (s, .stop (.refuse h)) =>
          .ok { s := s.refuse (.group s.cur) h, g := { g with wait := .held 0 }, done := true }
        | (_, .stop (.ok _ _)) => .hold .suspended
        | (s, .ok _) =>
          match g.clause with
          | none => .ok { s := s, g := g }
          | some c =>
            let s := wbTensor s (clusterOf g.core)
            let s := applyEff c true { s := s, g := s.grp s.cur, pend := some { p with wait := .solver die (batchOf o) va va } }
            let s := confRun s s.cur g.seq
            .ok { s := s, g := s.grp s.cur, done := true })) s

/-- SSTART and SCTL (R413, R417, R419, R421). -/
def solverCmd (c : SolvCtl) (ck : Checks) (sh : Shape) (o : EOps) (s : State) : Out :=
  issueC ck.closing sh o (fun s g =>
    relReady 5 s g (fun s g =>
      let s := solvSend (wbTensor s (clusterOf g.core)) (dieOfCore g.core) (batchOf o) c (some s.cur)
      .ok { s := s, g := s.grp s.cur })) s

/-- A batch that the group may see (R420). -/
def batchSeen (g : Group) (x : SolverBatch) : Bool := x.st != .free && x.id.asid == g.id.asid && x.id.world == g.id.world

def BatchSt.code : BatchSt → Nat
  | .free => 0
  | .conf => 1
  | .run => 2
  | .paused => 3
  | .ended => 4

/-- SSTAT.SAMP (R420). -/
def sstatSamp (ck : Checks) (sh : Shape) (o : EOps) (s : State) : Out :=
  issueC ck sh o (fun s g =>
    let n := (g.uB32 s.free o).toNat
    let ws := match (s.die (dieOfCore g.core)).solver.findSome? (fun e => if batchSeen g e.2 then e.2.samples.get? n else none) with
      | some p => p.words.take 4
      | none => [0, 0, 0, 0]
    okPend s g { id := 0, dests := writesOf sh o, outs := ws.zipIdx.map (fun p => (sKey (o.d.toNat + p.2), p.1)) }) s

/-- SSTAT.BATCH (R420). -/
def sstatBatch (ck : Checks) (sh : Shape) (o : EOps) (s : State) : Out :=
  issueC ck sh o (fun s g =>
    let x := s.solver (dieOfCore g.core) (batchOf o)
    let ws : List Word :=
      if batchSeen g x then
        [BitVec.ofNat 32 ((x.samples.filter (fun e => e.2.status == 2)).length * 1024 + x.ecode * 16 + x.st.code), BitVec.ofNat 32 x.r]
      else [0, 0]
    okPend s g { id := 0, dests := writesOf sh o, outs := ws.zipIdx.map (fun p => (sKey (o.d.toNat + p.2), p.1)) }) s

/-- Configures a solver batch from a descriptor (R418). -/
def execSconf (o : EOps) (s : State) : Out :=
  sconf {} shSconf o s

/-- Starts a configured solver batch (R419). -/
def execSstart (o : EOps) (s : State) : Out :=
  solverCmd .start {} shSstart o s

/-- Reads a sample slot's record fields (R420). -/
def execSstatSamp (o : EOps) (s : State) : Out :=
  sstatSamp {} shSstatSamp o s

/-- Reads a batch's state, ECODE and round (R420). -/
def execSstatBatch (o : EOps) (s : State) : Out :=
  sstatBatch {} shSstatBatch o s

/-- Pauses a running batch (R421). -/
def execSctlPause (o : EOps) (s : State) : Out :=
  solverCmd .pause {} shSstart o s

/-- Resumes a paused batch (R421). -/
def execSctlResume (o : EOps) (s : State) : Out :=
  solverCmd .resume {} shSstart o s

/-- Stops a batch through action 4 (R421). -/
def execSctlStop (o : EOps) (s : State) : Out :=
  solverCmd .stop {} shSstart o s

/-- Frees a batch (R421). -/
def execSctlFree (o : EOps) (s : State) : Out :=
  solverCmd .free {} shSstart o s

/-- Action 1: writes the stage inputs and list, then arrives on READY (R409). -/
def execSolverStageInput (die batch : Nat) (s : State) : Out :=
  .next (solvAction s die batch .input)

/-- Action 2: when DONEEV passes, copies the derivatives into the work areas (R409). -/
def execSolverStageCollect (die batch : Nat) (s : State) : Out :=
  .next (solvAction s die batch .collect)

/-- Action 3: decides each sample, resizes h and writes its record (R408). -/
def execSolverDecide (die batch : Nat) (s : State) : Out :=
  .next (solvAction s die batch .decide)

/-- Action 4: writes the end header and arrives on READY and BDONE (R409). -/
def execSolverEnd (die batch : Nat) (s : State) : Out :=
  .next (solvAction s die batch .finish)

/-- A solver access is declared invalid or meets a fault, and the sample or the batch is ended (R414). -/
def execSolverAccessFault (die batch sample : Nat) (s : State) : Out :=
  .next (solvFault s die batch sample)

end Sys2Proof.Machine
end

