-- ==== Sys2Proof/Machine/Tile.lean ====
section
/-!
DEFINITION. The tile engine's instructions (R339 to R350, R548): the checks at issue, and the acceptance of an instruction with
everything it takes from the group.
-/

namespace Sys2Proof.Machine

/-! ### Checks (R326, R339, R340, R548) -/

/-- A TCTX.RESTORE of the core has not completed (R548). -/
def restorePending (s : State) (g : Group) : Bool :=
  (s.tile g.core).jobs.any (fun j => match j.op with
    | .restore _ _ _ => true
    | _ => false)

/-- The checks every tile instruction shares; `ill` and `role` are the entry's own, `role` beside a MACRO count of 0. -/
def tileChecks (ck : Checks) (ill role : State → Group → Bool) : Checks :=
  { ck with
    hold := restorePending
    illegal := fun s g => ck.illegal s g || ill s g
    role := fun s g => g.info.macros == 0 || role s g }

/-- A format that the launch may use (R137, R341). -/
def fmtBad (g : Group) (f : Nat) : Bool := decide (13 < f) || (g.info.check && decide (4 ≤ f))

/-- Start and stride aligned, and the extent of `lines` lines of `bytes` bytes (R340), where there are any. -/
def operandCheck (s : State) (g : Group) (allow : Space → Bool → Bool) (align : Nat) (addr : Dword) (stride lines bytes : Nat) :
    Option (Nat × Dword) :=
  if addr.toNat % align ≠ 0 ∨ stride % align ≠ 0 then some (causeAlign, addr)
  else if lines = 0 ∨ bytes = 0 then none
  else extentCheck s g allow addr ((lines - 1) * stride + bytes)

/-- An instruction is accepted, or held while 16 have not completed (R335). One that writes comes after its group's .comm reductions
(R152). -/
def tileAccept (s : State) (g : Group) (op : TileOp) (f : TileEng → TileEng) : Res Eff :=
  let s := if op.writes then commAll (s.putG g) s.cur else s.putG g
  let g := s.grp s.cur
  let t := s.tile g.core
  if 16 ≤ t.jobs.length ∨ (op.writes ∧ g.comm ≠ []) then heldWith s
  else
    let t := f t
    let t := { t with jobs := t.jobs ++ [{ num := t.next, grp := s.cur, pend := g.seq, op := op, dest := op.dest }], next := t.next + 1 }
    .ok { s := s.putTile g.core t, g := g, pend := some { id := 0, wait := .tile (t.next - 1) } }

/-- The same, with the registers and lanes that the instruction will write. -/
def Res.writing (r : Res Eff) (dests : List RegId) (m : Half) : Res Eff :=
  match r with
  | .ok e => .ok { e with pend := e.pend.map (fun p => { p with dests := dests, lanes := m }) }
  | x => x

def tileCheckThen (c : Option (Nat × Dword)) (g : Group) (k : Res Eff) : Res Eff :=
  match c with
  | some (n, a) => trapOf g n 0 a
  | none => k

/-! ### TLDB and TLDA (R341, R342) -/

/-- A count field: 0 or above full is full (R341). -/
def fullCount (n full : Nat) : Nat := if n = 0 ∨ full < n then full else n

/-- The two counts of s(C), or full. -/
def countsOf (g : Group) (free : Nat) (o : EOps) : Nat × Nat :=
  if o.x.getLsbD 9 then let w := (g.s1 free o.c.toNat).toNat; (bits w 0 8, bits w 16 8) else (0, 0)

def setMacFmt (role f : Nat) (t : TileEng) : TileEng := { t with macs := t.macs.put role { (t.macs.getD role {}) with fmt := f } }
def setBufFmt (buf f p : Nat) (t : TileEng) : TileEng := { t with bufs := t.bufs.put buf { (t.bufs.getD buf {}) with fmt := f, p := p } }

def tldb (ck : Checks) (sh : Shape) (o : EOps) (s : State) : Out :=
  let role := xField o 0 4
  let fmt := xField o 4 4
  issueC (tileChecks ck (fun _ g => fmtBad g fmt) (fun _ g => decide (g.info.macros ≤ role))) sh o (fun s g =>
    let c := countsOf g s.free o
    let k := fullCount c.1 96
    let n := fullCount c.2 (macWidth fmt)
    let nmaj := o.x.getLsbD 8
    let addr := g.s2 s.free o.a.toNat
    let stride := (g.uB32 s.free o).toNat
    let bytes := ((if nmaj then k else n) * fmtBits fmt + 7) / 8
    tileCheckThen (operandCheck s g tileSource (fmtAlign fmt) addr stride (if nmaj then n else k) bytes) g
      (tileAccept s g (.ldb role fmt nmaj addr stride k n) (setMacFmt role fmt))) s

/-- P and MODE that a VP operand takes (R342). -/
def vpInOf (g : Group) : VpIn := { p := g.precP 0, mode := g.precMode 0 }

def tlda (ck : Checks) (sh : Shape) (o : EOps) (s : State) : Out :=
  let buf := xField o 0 1
  let fmt := xField o 4 4
  issueC (tileChecks ck (fun _ g => fmtBad g fmt) (fun _ _ => false)) sh o (fun s g =>
    let c := countsOf g s.free o
    let rows := fullCount c.1 16
    let k := fullCount c.2 96
    let addr := g.s2 s.free o.a.toNat
    let stride := (g.uB32 s.free o).toNat
    let bytes := if fmt = 13 then 4 else (k * fmtBits fmt + 7) / 8
    tileCheckThen (operandCheck s g tileSource (fmtAlign fmt) addr stride rows bytes) g
      (tileAccept s g (.lda buf fmt (vpInOf g) addr stride rows k) (setBufFmt buf fmt (if fmt = 13 then g.precP 0 else 0)))) s

/-! ### TMMA and TSCA (R343, R344) -/

/-- The checks of TMMA against the engine's formats, mode and triangle register (R343, R548). -/
def tmmaIll (block tri : Bool) (o : EOps) (s : State) (g : Group) : Bool :=
  let t := s.tile g.core
  let roles := (List.range (xField o 4 4 + 1)).map (fun i => xField o 0 4 + i)
  (tri && !t.tri.en) || (block && t.int) || (!t.int && o.hint.getLsbD 0) ||
  (t.int && (fmtFloating (t.bufs.getD (xField o 8 1) {}).fmt || roles.any (fun m => fmtFloating (t.macs.getD m {}).fmt)))

def tmma (block tri : Bool) (ck : Checks) (sh : Shape) (o : EOps) (s : State) : Out :=
  let m := xField o 0 4
  let cnt := xField o 4 4 + 1
  issueC (tileChecks ck (tmmaIll block tri o) (fun _ g => decide (g.info.macros < m + cnt))) sh o (fun s g =>
    let t := s.tile g.core
    let b := xField o 8 1
    let org := g.s2 s.free o.a.toNat
    tileAccept s g
      (.mma m cnt b o.d.toNat block (o.hint.getLsbD 0) t.int (if tri then some t.tri else none)
        (if tri then (loWord org).toNat else 0) (if tri then (hiWord org).toNat else 0)
        (t.bufs.getD b {}).fmt (t.bufs.getD b {}).p ((List.range cnt).map (fun i => (t.macs.getD (m + i) {}).fmt)))
      id) s

def tsca (tri : Bool) (ck : Checks) (sh : Shape) (o : EOps) (s : State) : Out :=
  issueC (tileChecks ck (fun s g => (s.tile g.core).int || (tri && !(s.tile g.core).tri.en) || (g.info.prot && !(uA o && uB o)))
      (fun _ _ => false)) sh o (fun s g =>
    let t := s.tile g.core
    let f := s.free
    let rows := (List.range 64).map (fun i =>
      if uA o then g.s1 f (o.a.toNat + i / 16) else g.v1 f (o.a.toNat + i / 16) (i % 16))
    let cols := (List.range 512).map (fun i =>
      if uB o then g.s1 f (o.b.toNat + i / 128) else g.v1 f (o.b.toNat + 8 * (i / 128) + i % 128 / 16) (i % 16))
    let org := g.s2 f o.c.toNat
    tileAccept s g
      (.sca o.d.toNat (xField o 0 4) (if tri then some t.tri else none) (if tri then (loWord org).toNat else 0)
        (if tri then (hiWord org).toNat else 0) rows cols) id) s

/-! ### TACC (R345) -/

def taccZero (ck : Checks) (sh : Shape) (o : EOps) (s : State) : Out :=
  issueC (tileChecks ck (fun _ _ => false) (fun _ _ => false)) sh o (fun s g => tileAccept s g (.zero (o.x.setWidth 16)) id) s

/-- TACC.RD: a predicated lane is not written; a protected launch has sixteen column groups (R345, R529). -/
def taccRd (val : Bool) (ck : Checks) (sh : Shape) (o : EOps) (s : State) : Out :=
  issueC (tileChecks ck (fun _ g => !g.info.prot && decide (8 ≤ xField o 8 4)) (fun _ _ => false)) sh o (fun s g =>
    let m := g.active sh o s.free
    (tileAccept s g (.rd val (s.tile g.core).int (xField o 0 4) (xField o 4 4) (xField o 8 4) o.d.toNat m) id).writing (writesOf sh o) m) s

def taccSt (ck : Checks) (sh : Shape) (o : EOps) (s : State) : Out :=
  let form := xField o 4 2
  issueC (tileChecks ck (fun s g => (s.tile g.core).int != decide (form = 2)) (fun _ _ => false)) sh o (fun s g =>
    let addr := g.s2 s.free o.a.toNat
    let stride := (g.uB32 s.free o).toNat
    let size := formSize form
    tileCheckThen (operandCheck s g tileTarget size addr stride 16 (128 * size)) g
      (tileAccept s g (.st form (xField o 0 4) addr stride) id)) s

def taccMode (ck : Checks) (sh : Shape) (o : EOps) (s : State) : Out :=
  let int := o.x.getLsbD 0
  issueC (tileChecks ck (fun _ g => g.info.check && !int) (fun _ _ => false)) sh o (fun s g =>
    tileAccept s g .mode (fun t => { t with int := int })) s

def taccTri (ck : Checks) (sh : Shape) (o : EOps) (s : State) : Out :=
  issueC (tileChecks ck (fun _ _ => false) (fun _ _ => false)) sh o (fun s g =>
    let r : TriReg := { en := o.x.getLsbD 1, side := o.x.getLsbD 0, d := g.s1 s.free o.a.toNat, fill := g.uB32 s.free o }
    tileAccept s g .tri (fun t => { t with tri := if r.en then r else { t.tri with en := false, side := r.side } })) s

/-! ### TGEMM (R346) -/

/-- The descriptor's words. -/
def descOf (g : Group) (free : Nat) (o : EOps) : List Word := (List.range 16).map (fun i => g.s1 free (o.a.toNat + i))

def gemmIll (o : EOps) (sh : Shape) (s : State) (g : Group) : Bool :=
  let w := descOf g s.free o
  let d := Gemm.ofDesc w
  let int := (s.tile g.core).int
  g.regsIn sh o &&
    (decide (2 ^ 25 ≤ (w.getD 12 0).toNat) || w.getD 15 0 != 0 || fmtBad g d.fa || fmtBad g d.fb || d.fb == 13 || d.out == 3 ||
      (int != decide (d.out = 2)) || (int && (fmtFloating d.fa || fmtFloating d.fb)) || (!int && o.hint.getLsbD 0) ||
      decide (16 < d.role + d.c) || decide (16 < d.tile + d.c) || decide (2 ^ 32 - 1 < d.total))

/-- The extents of A, B and the output over M, N and K (R340, R346). -/
def gemmExtents (s : State) (g : Group) (d : Gemm) : Option (Nat × Dword) :=
  let aBytes := if d.k = 0 then 0 else if d.fa = 13 then 4 else (d.k * fmtBits d.fa + 7) / 8
  let bBytes := ((if d.nmaj then d.k else d.n) * fmtBits d.fb + 7) / 8
  let size := formSize d.out
  match operandCheck s g tileSource (fmtAlign d.fa) d.aAddr d.aStr d.m aBytes with
  | some x => some x
  | none =>
    match operandCheck s g tileSource (fmtAlign d.fb) d.bAddr d.bStr (if d.nmaj then d.n else d.k) bBytes with
    | some x => some x
    | none => operandCheck s g tileTarget size d.oAddr d.oStr d.m (d.n * size)

def tgemm (ck : Checks) (sh : Shape) (o : EOps) (s : State) : Out :=
  issueC (tileChecks ck (gemmIll o sh) (fun s g =>
      let d := Gemm.ofDesc (descOf g s.free o)
      decide (g.info.macros < d.role + d.c))) sh o (fun s g =>
    let w := descOf g s.free o
    let d := Gemm.ofDesc w
    tileCheckThen (gemmExtents s g d) g
      (tileAccept s g (.gemm w (o.hint.getLsbD 0) (s.tile g.core).int (vpInOf g)) (fun t =>
        if d.empty then t
        else
          let p := if d.fa = 13 then g.precP 0 else 0
          (List.range d.c).foldl (fun t i => setMacFmt (d.role + i) d.fb t) (setBufFmt 1 d.fa p (setBufFmt 0 d.fa p t))))) s

/-! ### TCTX and TPROG (R349, R350) -/

/-- A role of a mask lies at or above the MACRO count. -/
def maskRole (o : EOps) (g : Group) : Bool := (maskBits (o.x.extractLsb' 16 16)).any (fun m => decide (g.info.macros ≤ m))

/-- The ranges of the area that the masks name. -/
def areaCheck (s : State) (g : Group) (addr : Dword) (tmask mmask : Half) : Option (Nat × Dword) :=
  if addr.toNat % 256 ≠ 0 then some (causeAlign, addr)
  else
    (areaParts addr tmask mmask).findSome? (fun p => extentCheck s g tileTarget p.1 p.2)

def tctx (save : Bool) (ck : Checks) (sh : Shape) (o : EOps) (s : State) : Out :=
  issueC (tileChecks ck (fun _ _ => false) (fun _ g => maskRole o g)) sh o (fun s g =>
    let addr := g.s2 s.free o.a.toNat
    let tmask : Half := o.x.extractLsb' 0 16
    let mmask : Half := o.x.extractLsb' 16 16
    let t := s.tile g.core
    tileCheckThen (areaCheck s g addr tmask mmask) g
      (tileAccept s g
        (if save then
          .save addr tmask mmask t.int t.tri ((List.range 2).map (fun b => ((t.bufs.getD b {}).fmt, (t.bufs.getD b {}).p)))
            ((List.range 16).map (fun m => (t.macs.getD m {}).fmt))
         else .restore addr tmask mmask) id)) s

def tprog (f : TileEng → Nat) (ck : Checks) (sh : Shape) (o : EOps) (s : State) : Out :=
  issueC (tileChecks ck (fun _ _ => false) (fun _ _ => false)) sh o (fun s g =>
    okOuts s g [(sKey o.d.toNat, BitVec.ofNat 32 (f (s.tile g.core)))]) s

/-! ### Errors of the engine (R527) -/

/-- The engine takes the state of R325, but keeps its mode; its accepted instructions are discarded. -/
def TileEng.cleared (t : TileEng) : TileEng := { int := t.int, next := t.next }

/-- A tile-engine error (R527): the groups of the discarded instructions roll back, or every one that cannot escalates. -/
def tileError (s : State) (core : Nat) : State :=
  let t := s.tile core
  let grps := (t.jobs.map (·.grp)).eraseDups
  let s := t.jobs.foldl (fun s j =>
    let s := if j.op.units = 0 then s else powerCease s (dieOfCore core) (.tile core j.num)
    unhold (finishPend s j.grp j.pend (fun p => { p with outs := [], dests := [] })) j.grp) s
  let s := s.putTile core t.cleared
  let s := s.uecnt core 1
  let ok := fun (gk : Nat) => (s.grp gk).canRoll
  let s := grps.foldl (fun s gk => strikeGroup s gk 2 (ok gk)) s
  s.ctnLog core 2 (if grps.all ok then 1 else 3) 0 2 0

/-- Loads a B sub-tile into a macro role (R341). -/
def execTldb (o : EOps) (s : State) : Out :=
  tldb {} (shTldb o) o s

/-- Loads an A block into a row buffer (R341). -/
def execTlda (o : EOps) (s : State) : Out :=
  tlda {} (shTlda o) o s

/-- Plain pass of a buffer through cnt macros, accumulating into tiles (R343). -/
def execTmma (o : EOps) (s : State) : Out :=
  tmma false false {} shTmma o s

/-- Block-mode pass that writes four partial tiles per macro (R343). -/
def execTmmaBlock (o : EOps) (s : State) : Out :=
  tmma true false {} shTmmaBlock o s

/-- Triangular plain pass with masking and fill (R343). -/
def execTmmaTri (o : EOps) (s : State) : Out :=
  tmma false true {} shTmmaTri o s

/-- Triangular block-mode pass that skips wholly masked sub-tiles (R343). -/
def execTmmaBlockTri (o : EOps) (s : State) : Out :=
  tmma true true {} shTmmaBlockTri o s

/-- Scales four partial tiles by row and column scales and accumulates them into a tile (R344). -/
def execTsca (o : EOps) (s : State) : Out :=
  tsca false {} shTsca o s

/-- Triangular scale-and-accumulate with fill (R344). -/
def execTscaTri (o : EOps) (s : State) : Out :=
  tsca true {} shTscaTri o s

/-- Zeroes the masked tiles (R345). -/
def execTaccZero (o : EOps) (s : State) : Out :=
  taccZero {} shTaccZero o s

/-- Reads accumulator pairs of a row into lane register pairs (R345). -/
def execTaccRdPair (o : EOps) (s : State) : Out :=
  taccRd false {} shTaccRdPair o s

/-- Reads collapsed accumulator values of a row into lane registers (R345). -/
def execTaccRdVal (o : EOps) (s : State) : Out :=
  taccRd true {} shTaccRdVal o s

/-- Stores a tile to memory as pairs, FP32 or INT32 (R345). -/
def execTaccSt (o : EOps) (s : State) : Out :=
  taccSt {} shTaccSt o s

/-- Sets the accumulator mode and zeroes every tile (R345). -/
def execTaccMode (o : EOps) (s : State) : Out :=
  taccMode {} shTaccMode o s

/-- Loads the triangle register (R345). -/
def execTaccTri (o : EOps) (s : State) : Out :=
  taccTri {} shTaccTri o s

/-- Starts a whole M by N by K product from a descriptor in s registers (R346). -/
def execTgemm (o : EOps) (s : State) : Out :=
  tgemm {} shTgemm o s

/-- The tile sequencer performs one chunk or store step and reaches an interruption point (R347). -/
def execTgemmStep (core : Nat) (s : State) : Out :=
  .next (gemmStep s core)

/-- Saves the tile engine state to an area (R349). -/
def execTctxSave (o : EOps) (s : State) : Out :=
  tctx true {} shTctxSave o s

/-- Restores the tile engine state from an area (R349). -/
def execTctxRestore (o : EOps) (s : State) : Out :=
  tctx false {} shTctxSave o s

/-- Reads STEP of the running or last TGEMM (R350). -/
def execTprogStep (o : EOps) (s : State) : Out :=
  tprog (·.step) {} shTprogStep o s

/-- Reads TOTAL of the running or last TGEMM (R350). -/
def execTprogTotal (o : EOps) (s : State) : Out :=
  tprog (·.total) {} shTprogStep o s

/-- An accepted tile instruction starts once every earlier instruction sharing its resources has completed (R336). -/
def execTileInstructionStart (core n : Nat) (s : State) : Out :=
  .next (tileStart s core n)

/-- An uncorrectable tile-engine word discards pending tile instructions and rolls back or escalates their groups (R527). -/
def execTileEngineError (core : Nat) (s : State) : Out :=
  .next (tileError s core)

/-- The arbiter grants the head request when INUSE plus its units fit BUDGET, or when INUSE is 0 (R194). -/
def execPowerGrant (die : Nat) (s : State) : Out :=
  .next (copyGranted (powerServe s die) die)

/-- An operation ends and returns its units to the arbiter (R195). -/
def execPowerRelease (die op : Nat) (s : State) : Out :=
  .next (powerReturn s die op)

/-- A write to BUDGET changes the arbiter limit without revoking grants (R196). -/
def execBudgetWrite (die : Nat) (value : Word) (s : State) : Out :=
  .next (s.putDie die { (s.die die) with budget := value.toNat % 2048 })

end Sys2Proof.Machine
end

