-- ==== Sys2Proof/Machine/Xlate.lean ====
section
/-!
DEFINITION. The translation engine's instructions and events, the re-send of refused requests, and the memory-side ports'
requests (R23, R295, R470 to R495).
-/

namespace Sys2Proof.Machine

/-- The checks of R495 on a VA, in the order of R51 (R52); `span` is what it must be aligned to. -/
def tlbVaCheck (s : State) (g : Group) (va : Dword) (span : Nat) (tensorOnly : Bool) : Option Nat :=
  if va.toNat % span ≠ 0 then some causeAlign
  else if spaceOf va = .reserved then some causeAccess
  else if !(spaceOf va).global || vaPkg va ≠ pkgOfCore g.core || (tensorOnly && spaceOf va == .control) then some causeSpace
  else if s.domain ≤ vaPkg va then some causeAccess
  else none

/-- A TLBOP: its checks, then the operation at once, with the words that it writes to D (R492). -/
def tlbOp (early : State → Group → Option (Nat × Dword)) (run : State → Group → State × List Word) (ck : Checks) (sh : Shape) (o : EOps)
    (s : State) : Out :=
  issueC ck.closing sh o (fun s g =>
    match early s g with
    | some (c, va) => trapOf g c 0 va
    | none =>
      let r := run (s.putG g) g
      okPend r.1 (r.1.grp s.cur) {
        id := 0, dests := writesOf sh o, outs := r.2.zipIdx.map (fun p => (sKey (o.d.toNat + p.2), p.1)) }) s

def tlbAsid (g : Group) (free : Nat) (o : EOps) : Nat := (g.s1 free o.c.toNat).toNat % 4096
def tlbVa (g : Group) (free : Nat) (o : EOps) : Dword := g.s2 free o.a.toNat

/-- The die of the issuing package that B names. -/
def tlbDie (g : Group) (free : Nat) (o : EOps) : Nat := pkgOfCore g.core * 4 + (g.uB32 free o).toNat % 4
def tlbEntry (g : Group) (free : Nat) (o : EOps) : Nat := bits (g.uB32 free o).toNat 8 3

def mapTier (o : EOps) : Nat := xField o 0 3

/-- TLBOP.MAP: a tier of 5 to 7, which gives no span to be aligned to, raises ILLEGAL_OP after the checks of R101 (R495, log 39). -/
def tlbopMap (ck : Checks) (sh : Shape) (o : EOps) (s : State) : Out :=
  tlbOp (fun s' g =>
      let va := tlbVa g s'.free o
      if 4 < mapTier o then some (causeIllegal, 0)
      else (tlbVaCheck s' g va (2 ^ tierShift (mapTier o)) false).map (fun c => (c, va)))
    (fun s g =>
      let r := tlbMap s (pkgOfCore g.core) (tlbAsid g s.free o) (tlbVa g s.free o) (g.s2 s.free o.b.toNat) (mapTier o)
        (decide (xField o 3 1 = 1)) (xField o 4 2)
      (r.1, [BitVec.ofNat 32 r.2])) ck sh o s

def tlbopVa (tensorOnly : Bool) (run : State → Nat → Nat → Dword → State) (ck : Checks) (sh : Shape) (o : EOps) (s : State) : Out :=
  tlbOp (fun s g => (tlbVaCheck s g (tlbVa g s.free o) 65536 tensorOnly).map (fun c => (c, tlbVa g s.free o)))
    (fun s g => (run s (pkgOfCore g.core) (tlbAsid g s.free o) (tlbVa g s.free o), [])) ck sh o s

def tlbopInvAsid (ck : Checks) (sh : Shape) (o : EOps) (s : State) : Out :=
  tlbOp (fun _ _ => none) (fun s g => (tlbInvAsid s (pkgOfCore g.core) (tlbAsid g s.free o), [])) ck sh o s

def tlbopAll (ck : Checks) (sh : Shape) (o : EOps) (s : State) : Out :=
  tlbOp (fun _ _ => none) (fun s g => (tlbAll s (pkgOfCore g.core), [])) ck sh o s

def tlbopReplay (ck : Checks) (sh : Shape) (o : EOps) (s : State) : Out :=
  tlbOp (fun _ _ => none) (fun s g => (replayDie s (tlbDie g s.free o), [])) ck sh o s

def tlbopReplayAll (ck : Checks) (sh : Shape) (o : EOps) (s : State) : Out :=
  tlbOp (fun _ _ => none) (fun s g => ((List.range 4).foldl (fun s d => replayDie s (pkgOfCore g.core * 4 + d)) s, [])) ck sh o s

def tlbopDeny (ck : Checks) (sh : Shape) (o : EOps) (s : State) : Out :=
  tlbOp (fun _ _ => none)
    (fun s g =>
      let dk := tlbDie g s.free o
      let e := tlbEntry g s.free o
      if ((s.die dk).faults.get? e).isNone then (s, [1]) else (denyEntry s dk e, [0])) ck sh o s

def tlbopFread (ck : Checks) (sh : Shape) (o : EOps) (s : State) : Out :=
  tlbOp (fun _ _ => none) (fun s g => (s, faultWords ((s.die (tlbDie g s.free o)).faults.get? (tlbEntry g s.free o)))) ck sh o s

def tlbopFstat (ck : Checks) (sh : Shape) (o : EOps) (s : State) : Out :=
  tlbOp (fun _ _ => none) (fun s g => (s, statWords (s.die (tlbDie g s.free o)))) ck sh o s

def tlbopNewgen (ck : Checks) (sh : Shape) (o : EOps) (s : State) : Out :=
  tlbOp (fun _ _ => none)
    (fun s g =>
      let r := tlbNewgen s (pkgOfCore g.core) (tlbAsid g s.free o)
      (r.1, [BitVec.ofNat 32 r.2])) ck sh o s

/-- The n-th request that waits at a die's memory side (R374). -/
def mscServe (s : State) (die n : Nat) : State :=
  match (dieRatoms s die)[n]? with
  | some (gk, i) => mscRequest s die gk i
  | none => s

/-- RETRY_HINT_EXPIRY: a refused request is sent again; the command processor does its work again (R23). -/
def retryExpiry (s : State) (n : Nat) : State :=
  match s.refused[n]? with
  | some { who := .launch _ lk, hint := _ } => launchCheck (resend s n) lk
  | some { who := .cp pkg w, hint := _ } => cpRun (resend s n) pkg w
  | _ => resend s n

/-- Writes a page-table entry at a tier, invalidating the old mapping (R494). -/
def execTlbopMap (o : EOps) (s : State) : Out :=
  tlbopMap {} shTlbopMap o s

/-- Removes a page's lines and translations (R494). -/
def execTlbopInv (o : EOps) (s : State) : Out :=
  tlbopVa false tlbInv {} shTlbopInv o s

/-- Removes every page's lines and translations for an ASID (R493). -/
def execTlbopInvAsid (o : EOps) (s : State) : Out :=
  tlbopInvAsid {} shTlbopInvAsid o s

/-- Removes every translation and stale-generation line and clears NCNT (R493). -/
def execTlbopAll (o : EOps) (s : State) : Out :=
  tlbopAll {} shTlbopAll o s

/-- Frees the die's fault buffer and retries every held access of the die (R488). -/
def execTlbopReplay (o : EOps) (s : State) : Out :=
  tlbopReplay {} shTlbopReplay o s

/-- Replays every die of the package, die 0 first (R488). -/
def execTlbopReplayAll (o : EOps) (s : State) : Out :=
  tlbopReplayAll {} shTlbopAll o s

/-- Declares every access on a fault entry's wait list invalid (R489). -/
def execTlbopDeny (o : EOps) (s : State) : Out :=
  tlbopDeny {} shTlbopDeny o s

/-- Reads a fault buffer entry as four words (R483). -/
def execTlbopFread (o : EOps) (s : State) : Out :=
  tlbopFread {} shTlbopFread o s

/-- Reads a die's fault buffer status, WAITERS and SPEC_DROP (R485). -/
def execTlbopFstat (o : EOps) (s : State) : Out :=
  tlbopFstat {} shTlbopFread o s

/-- Marks a tensor page MOVING and drains its lines and accesses (R491). -/
def execTlbopMove (o : EOps) (s : State) : Out :=
  tlbopVa true tlbMove {} shTlbopInv o s

/-- Advances an ASID's generation on every package after writing back its old dirty lines (R480). -/
def execTlbopNewgen (o : EOps) (s : State) : Out :=
  tlbopNewgen {} shTlbopNewgen o s

/-- A request arrives at the translating die's MTLB and is translated, walked, refused or faulted (R471). -/
def execMtlbRequest (die : Nat) (req : TransReq) (s : State) : Out :=
  .next (mtlbRequest s die req)

/-- A page-table walk ends, filling the MTLBs or recording a fault for the waiting request (R472). -/
def execWalkComplete (die : Nat) (req : TransReq) (s : State) : Out :=
  .next (walkComplete s die req)

/-- A refused request's hint expires, and the initiator re-sends it (R23). -/
def execRetryHintExpiry (n : Nat) (s : State) : Out :=
  .next (retryExpiry s n)

/-- A request arrives at a memory-side port and joins its write queue, or is refused with hint 8 when the queue is full (R295). -/
def execMscRequest (die n : Nat) (s : State) : Out :=
  .next (mscServe s die n)

end Sys2Proof.Machine
end

