-- ==== Sys2Proof/Machine/Dispatch.lean ====
section
/-!
DEFINITION. One arm for each constructor of Instr: its meaning, called directly.
-/

namespace Sys2Proof.Machine

def exec (i : Instr) (s : State) : Host.Outcome State Fault Refusal :=
  match i with
  | .clause h => Sys2Proof.Machine.execClause h s
  | .clauseTmask h lit => Sys2Proof.Machine.execClauseTmask h lit s
  | .clauseExtended h w1 w2 => Sys2Proof.Machine.execClauseExtended h w1 w2 s
  | .braBj cnd off => Sys2Proof.Machine.execBraBj cnd off s
  | .braBjLiteral cnd off lit => Sys2Proof.Machine.execBraBjLiteral cnd off lit s
  | .bra o => Sys2Proof.Machine.execBra o s
  | .callBj cnd off => Sys2Proof.Machine.execCallBj cnd off s
  | .callBjLiteral cnd off lit => Sys2Proof.Machine.execCallBjLiteral cnd off lit s
  | .call o => Sys2Proof.Machine.execCall o s
  | .brx o => Sys2Proof.Machine.execBrx o s
  | .brxIdx o => Sys2Proof.Machine.execBrxIdx o s
  | .retB3 o => Sys2Proof.Machine.execRetB3 o s
  | .ret o => Sys2Proof.Machine.execRet o s
  | .exitB3 o => Sys2Proof.Machine.execExitB3 o s
  | .exit o => Sys2Proof.Machine.execExit o s
  | .yieldB3 o => Sys2Proof.Machine.execYieldB3 o s
  | .yield o => Sys2Proof.Machine.execYield o s
  | .trap o => Sys2Proof.Machine.execTrap o s
  | .tretB3 o => Sys2Proof.Machine.execTretB3 o s
  | .tret o => Sys2Proof.Machine.execTret o s
  | .maskSet o => Sys2Proof.Machine.execMaskSet o s
  | .maskGet o => Sys2Proof.Machine.execMaskGet o s
  | .maskIf o => Sys2Proof.Machine.execMaskIf o s
  | .maskElse o => Sys2Proof.Machine.execMaskElse o s
  | .maskEnd o => Sys2Proof.Machine.execMaskEnd o s
  | .voteAny o => Sys2Proof.Machine.execVoteAny o s
  | .voteAll o => Sys2Proof.Machine.execVoteAll o s
  | .voteBal o => Sys2Proof.Machine.execVoteBal o s
  | .voteCnt o => Sys2Proof.Machine.execVoteCnt o s
  | .voteUni o => Sys2Proof.Machine.execVoteUni o s
  | .sysr o => Sys2Proof.Machine.execSysr o s
  | .sysw o => Sys2Proof.Machine.execSysw o s
  | .roleCnt o => Sys2Proof.Machine.execRoleCnt o s
  | .rolePhys o => Sys2Proof.Machine.execRolePhys o s
  | .roleTest o => Sys2Proof.Machine.execRoleTest o s
  | .regnB o => Sys2Proof.Machine.execRegnB o s
  | .regnE o => Sys2Proof.Machine.execRegnE o s
  | .regnStat o => Sys2Proof.Machine.execRegnStat o s
  | .snap o => Sys2Proof.Machine.execSnap o s
  | .snapGang o => Sys2Proof.Machine.execSnapGang o s
  | .uaddB3 o => Sys2Proof.Machine.execUaddB3 o s
  | .uaddSubB3 o => Sys2Proof.Machine.execUaddSubB3 o s
  | .uadd o => Sys2Proof.Machine.execUadd o s
  | .uaddSub o => Sys2Proof.Machine.execUaddSub o s
  | .uaddSat o => Sys2Proof.Machine.execUaddSat o s
  | .uaddSubSat o => Sys2Proof.Machine.execUaddSubSat o s
  | .uadd64 o => Sys2Proof.Machine.execUadd64 o s
  | .uaddSub64 o => Sys2Proof.Machine.execUaddSub64 o s
  | .umulLoB3 o => Sys2Proof.Machine.execUmulLoB3 o s
  | .umulHiB3 o => Sys2Proof.Machine.execUmulHiB3 o s
  | .umulHiuB3 o => Sys2Proof.Machine.execUmulHiuB3 o s
  | .umulLo o => Sys2Proof.Machine.execUmulLo o s
  | .umulHi o => Sys2Proof.Machine.execUmulHi o s
  | .umulHiu o => Sys2Proof.Machine.execUmulHiu o s
  | .ulogAndB3 o => Sys2Proof.Machine.execUlogAndB3 o s
  | .ulogOrB3 o => Sys2Proof.Machine.execUlogOrB3 o s
  | .ulogXorB3 o => Sys2Proof.Machine.execUlogXorB3 o s
  | .ulogAndnB3 o => Sys2Proof.Machine.execUlogAndnB3 o s
  | .ulogAnd o => Sys2Proof.Machine.execUlogAnd o s
  | .ulogOr o => Sys2Proof.Machine.execUlogOr o s
  | .ulogXor o => Sys2Proof.Machine.execUlogXor o s
  | .ulogAndn o => Sys2Proof.Machine.execUlogAndn o s
  | .ulogKand o => Sys2Proof.Machine.execUlogKand o s
  | .ulogKor o => Sys2Proof.Machine.execUlogKor o s
  | .ulogKxor o => Sys2Proof.Machine.execUlogKxor o s
  | .ulogKandn o => Sys2Proof.Machine.execUlogKandn o s
  | .ushfShlB3 o => Sys2Proof.Machine.execUshfShlB3 o s
  | .ushfShrB3 o => Sys2Proof.Machine.execUshfShrB3 o s
  | .ushfSarB3 o => Sys2Proof.Machine.execUshfSarB3 o s
  | .ushfRotB3 o => Sys2Proof.Machine.execUshfRotB3 o s
  | .ushfShl o => Sys2Proof.Machine.execUshfShl o s
  | .ushfShr o => Sys2Proof.Machine.execUshfShr o s
  | .ushfSar o => Sys2Proof.Machine.execUshfSar o s
  | .ushfRot o => Sys2Proof.Machine.execUshfRot o s
  | .ucmp cc o => Sys2Proof.Machine.execUcmp cc o s
  | .umovB3 o => Sys2Proof.Machine.execUmovB3 o s
  | .umov o => Sys2Proof.Machine.execUmov o s
  | .umov64 o => Sys2Proof.Machine.execUmov64 o s
  | .umovFirst o => Sys2Proof.Machine.execUmovFirst o s
  | .usel o => Sys2Proof.Machine.execUsel o s
  | .uminmaxMin o => Sys2Proof.Machine.execUminmaxMin o s
  | .uminmaxMax o => Sys2Proof.Machine.execUminmaxMax o s
  | .uminmaxMinu o => Sys2Proof.Machine.execUminmaxMinu o s
  | .uminmaxMaxu o => Sys2Proof.Machine.execUminmaxMaxu o s
  | .ubitPopc o => Sys2Proof.Machine.execUbitPopc o s
  | .ubitClz o => Sys2Proof.Machine.execUbitClz o s
  | .ubitCtz o => Sys2Proof.Machine.execUbitCtz o s
  | .ubitBrev o => Sys2Proof.Machine.execUbitBrev o s
  | .ubitExtr o => Sys2Proof.Machine.execUbitExtr o s
  | .ubitExtrs o => Sys2Proof.Machine.execUbitExtrs o s
  | .ulea o => Sys2Proof.Machine.execUlea o s
  | .uleaS o => Sys2Proof.Machine.execUleaS o s
  | .iaddB3 o => Sys2Proof.Machine.execIaddB3 o s
  | .iaddSubB3 o => Sys2Proof.Machine.execIaddSubB3 o s
  | .iaddSatB3 o => Sys2Proof.Machine.execIaddSatB3 o s
  | .iaddSubSatB3 o => Sys2Proof.Machine.execIaddSubSatB3 o s
  | .iadd o => Sys2Proof.Machine.execIadd o s
  | .iaddSub o => Sys2Proof.Machine.execIaddSub o s
  | .iaddSat o => Sys2Proof.Machine.execIaddSat o s
  | .iaddSubSat o => Sys2Proof.Machine.execIaddSubSat o s
  | .iadd64 o => Sys2Proof.Machine.execIadd64 o s
  | .iaddSub64 o => Sys2Proof.Machine.execIaddSub64 o s
  | .iaddSatu o => Sys2Proof.Machine.execIaddSatu o s
  | .iaddSubSatu o => Sys2Proof.Machine.execIaddSubSatu o s
  | .imulLoB3 o => Sys2Proof.Machine.execImulLoB3 o s
  | .imulHiB3 o => Sys2Proof.Machine.execImulHiB3 o s
  | .imulHiuB3 o => Sys2Proof.Machine.execImulHiuB3 o s
  | .imulLo o => Sys2Proof.Machine.execImulLo o s
  | .imulHi o => Sys2Proof.Machine.execImulHi o s
  | .imulHiu o => Sys2Proof.Machine.execImulHiu o s
  | .imulWide o => Sys2Proof.Machine.execImulWide o s
  | .imulWideu o => Sys2Proof.Machine.execImulWideu o s
  | .imadLo o => Sys2Proof.Machine.execImadLo o s
  | .imadWide o => Sys2Proof.Machine.execImadWide o s
  | .imadWideu o => Sys2Proof.Machine.execImadWideu o s
  | .ilogAndB3 o => Sys2Proof.Machine.execIlogAndB3 o s
  | .ilogOrB3 o => Sys2Proof.Machine.execIlogOrB3 o s
  | .ilogXorB3 o => Sys2Proof.Machine.execIlogXorB3 o s
  | .ilogAndnB3 o => Sys2Proof.Machine.execIlogAndnB3 o s
  | .ilogAnd o => Sys2Proof.Machine.execIlogAnd o s
  | .ilogOr o => Sys2Proof.Machine.execIlogOr o s
  | .ilogXor o => Sys2Proof.Machine.execIlogXor o s
  | .ilogAndn o => Sys2Proof.Machine.execIlogAndn o s
  | .ilogLut o => Sys2Proof.Machine.execIlogLut o s
  | .ishfShlB3 o => Sys2Proof.Machine.execIshfShlB3 o s
  | .ishfShrB3 o => Sys2Proof.Machine.execIshfShrB3 o s
  | .ishfSarB3 o => Sys2Proof.Machine.execIshfSarB3 o s
  | .ishfRotB3 o => Sys2Proof.Machine.execIshfRotB3 o s
  | .ishfShl o => Sys2Proof.Machine.execIshfShl o s
  | .ishfShr o => Sys2Proof.Machine.execIshfShr o s
  | .ishfSar o => Sys2Proof.Machine.execIshfSar o s
  | .ishfRot o => Sys2Proof.Machine.execIshfRot o s
  | .ishfShl64 o => Sys2Proof.Machine.execIshfShl64 o s
  | .ishfShr64 o => Sys2Proof.Machine.execIshfShr64 o s
  | .ishfSar64 o => Sys2Proof.Machine.execIshfSar64 o s
  | .iminmaxMin o => Sys2Proof.Machine.execIminmaxMin o s
  | .iminmaxMax o => Sys2Proof.Machine.execIminmaxMax o s
  | .iminmaxMinu o => Sys2Proof.Machine.execIminmaxMinu o s
  | .iminmaxMaxu o => Sys2Proof.Machine.execIminmaxMaxu o s
  | .iminmaxAbs o => Sys2Proof.Machine.execIminmaxAbs o s
  | .iminmaxAbsSat o => Sys2Proof.Machine.execIminmaxAbsSat o s
  | .icmp cc o => Sys2Proof.Machine.execIcmp cc o s
  | .icmp64 cc o => Sys2Proof.Machine.execIcmp64 cc o s
  | .isel o => Sys2Proof.Machine.execIsel o s
  | .isel64 o => Sys2Proof.Machine.execIsel64 o s
  | .ibitPopc o => Sys2Proof.Machine.execIbitPopc o s
  | .ibitClz o => Sys2Proof.Machine.execIbitClz o s
  | .ibitCtz o => Sys2Proof.Machine.execIbitCtz o s
  | .ibitBrev o => Sys2Proof.Machine.execIbitBrev o s
  | .ibitExtr o => Sys2Proof.Machine.execIbitExtr o s
  | .ibitExtrs o => Sys2Proof.Machine.execIbitExtrs o s
  | .ibitIns o => Sys2Proof.Machine.execIbitIns o s
  | .lea o => Sys2Proof.Machine.execLea o s
  | .leaS o => Sys2Proof.Machine.execLeaS o s
  | .icvtSext w o => Sys2Proof.Machine.execIcvtSext w o s
  | .icvtZext w o => Sys2Proof.Machine.execIcvtZext w o s
  | .icvtSatS w o => Sys2Proof.Machine.execIcvtSatS w o s
  | .icvtSatU w o => Sys2Proof.Machine.execIcvtSatU w o s
  | .icvtSext64 o => Sys2Proof.Machine.execIcvtSext64 o s
  | .icvtZext64 o => Sys2Proof.Machine.execIcvtZext64 o s
  | .icvtSatS32 o => Sys2Proof.Machine.execIcvtSatS32 o s
  | .icvtSatU32 o => Sys2Proof.Machine.execIcvtSatU32 o s
  | .movB3 o => Sys2Proof.Machine.execMovB3 o s
  | .mov o => Sys2Proof.Machine.execMov o s
  | .mov64 o => Sys2Proof.Machine.execMov64 o s
  | .movxLd o => Sys2Proof.Machine.execMovxLd o s
  | .movxSt o => Sys2Proof.Machine.execMovxSt o s
  | .xset o => Sys2Proof.Machine.execXset o s
  | .xsetAdd o => Sys2Proof.Machine.execXsetAdd o s
  | .xget o => Sys2Proof.Machine.execXget o s
  | .shflIdx o => Sys2Proof.Machine.execShflIdx o s
  | .shflUp o => Sys2Proof.Machine.execShflUp o s
  | .shflDown o => Sys2Proof.Machine.execShflDown o s
  | .shflXor o => Sys2Proof.Machine.execShflXor o s
  | .faddF32B3 o => Sys2Proof.Machine.execFaddF32B3 o s
  | .faddSubF32B3 o => Sys2Proof.Machine.execFaddSubF32B3 o s
  | .faddF16x2B3 o => Sys2Proof.Machine.execFaddF16x2B3 o s
  | .faddSubF16x2B3 o => Sys2Proof.Machine.execFaddSubF16x2B3 o s
  | .fadd fmt o => Sys2Proof.Machine.execFadd fmt o s
  | .faddSub fmt o => Sys2Proof.Machine.execFaddSub fmt o s
  | .fmulF32B3 o => Sys2Proof.Machine.execFmulF32B3 o s
  | .fmulF16x2B3 o => Sys2Proof.Machine.execFmulF16x2B3 o s
  | .fmul fmt o => Sys2Proof.Machine.execFmul fmt o s
  | .ffmaF32B3 o => Sys2Proof.Machine.execFfmaF32B3 o s
  | .ffmaF16x2B3 o => Sys2Proof.Machine.execFfmaF16x2B3 o s
  | .ffma fmt o => Sys2Proof.Machine.execFfma fmt o s
  | .fminmaxMin fmt o => Sys2Proof.Machine.execFminmaxMin fmt o s
  | .fminmaxMax fmt o => Sys2Proof.Machine.execFminmaxMax fmt o s
  | .fcmp cc fmt o => Sys2Proof.Machine.execFcmp cc fmt o s
  | .frnd fmt o => Sys2Proof.Machine.execFrnd fmt o s
  | .fscale fmt o => Sys2Proof.Machine.execFscale fmt o s
  | .fdp2 fmt o => Sys2Proof.Machine.execFdp2 fmt o s
  | .fclass fmt o => Sys2Proof.Machine.execFclass fmt o s
  | .fclassPred fmt o => Sys2Proof.Machine.execFclassPred fmt o s
  | .fcvtF16F32 o => Sys2Proof.Machine.execFcvtF16F32 o s
  | .fcvtBf16F32 o => Sys2Proof.Machine.execFcvtBf16F32 o s
  | .fcvtF32F16 o => Sys2Proof.Machine.execFcvtF32F16 o s
  | .fcvtF32Bf16 o => Sys2Proof.Machine.execFcvtF32Bf16 o s
  | .fcvtS32F32 o => Sys2Proof.Machine.execFcvtS32F32 o s
  | .fcvtU32F32 o => Sys2Proof.Machine.execFcvtU32F32 o s
  | .fcvtF32S32 o => Sys2Proof.Machine.execFcvtF32S32 o s
  | .fcvtF32U32 o => Sys2Proof.Machine.execFcvtF32U32 o s
  | .fcvtF16x2F32 o => Sys2Proof.Machine.execFcvtF16x2F32 o s
  | .fcvtBf16x2F32 o => Sys2Proof.Machine.execFcvtBf16x2F32 o s
  | .fcvtTpF32 o => Sys2Proof.Machine.execFcvtTpF32 o s
  | .fcvtF32Tp o => Sys2Proof.Machine.execFcvtF32Tp o s
  | .fspecRcp o => Sys2Proof.Machine.execFspecRcp o s
  | .fspecRsq o => Sys2Proof.Machine.execFspecRsq o s
  | .fspecSqrt o => Sys2Proof.Machine.execFspecSqrt o s
  | .fspecExp2 o => Sys2Proof.Machine.execFspecExp2 o s
  | .fspecLog2 o => Sys2Proof.Machine.execFspecLog2 o s
  | .fspecSin o => Sys2Proof.Machine.execFspecSin o s
  | .fspecCos o => Sys2Proof.Machine.execFspecCos o s
  | .fspecTanh o => Sys2Proof.Machine.execFspecTanh o s
  | .longLatencyCompletion grp n => Sys2Proof.Machine.execLongLatencyCompletion grp n s
  | .vprecSet o => Sys2Proof.Machine.execVprecSet o s
  | .vprecP o => Sys2Proof.Machine.execVprecP o s
  | .vprecMode o => Sys2Proof.Machine.execVprecMode o s
  | .vpgetHead o => Sys2Proof.Machine.execVpgetHead o s
  | .vpgetSlice o => Sys2Proof.Machine.execVpgetSlice o s
  | .vpadd o => Sys2Proof.Machine.execVpadd o s
  | .vpaddSub o => Sys2Proof.Machine.execVpaddSub o s
  | .vpmul o => Sys2Proof.Machine.execVpmul o s
  | .vpfma o => Sys2Proof.Machine.execVpfma o s
  | .vpfmaNeg o => Sys2Proof.Machine.execVpfmaNeg o s
  | .vpdiv o => Sys2Proof.Machine.execVpdiv o s
  | .vpsqrt o => Sys2Proof.Machine.execVpsqrt o s
  | .vpcmp cc o => Sys2Proof.Machine.execVpcmp cc o s
  | .vprndInt o => Sys2Proof.Machine.execVprndInt o s
  | .vprndLen o => Sys2Proof.Machine.execVprndLen o s
  | .vpcvtVpF32 o => Sys2Proof.Machine.execVpcvtVpF32 o s
  | .vpcvtF32Vp o => Sys2Proof.Machine.execVpcvtF32Vp o s
  | .vpcvtVpF64 o => Sys2Proof.Machine.execVpcvtVpF64 o s
  | .vpcvtF64Vp o => Sys2Proof.Machine.execVpcvtF64Vp o s
  | .vpcvtVpS64 o => Sys2Proof.Machine.execVpcvtVpS64 o s
  | .vpcvtS64Vp o => Sys2Proof.Machine.execVpcvtS64Vp o s
  | .vpcvtVpT16 o => Sys2Proof.Machine.execVpcvtVpT16 o s
  | .vpcvtT16Vp o => Sys2Proof.Machine.execVpcvtT16Vp o s
  | .vpmov o => Sys2Proof.Machine.execVpmov o s
  | .vpmovNeg o => Sys2Proof.Machine.execVpmovNeg o s
  | .vpmovAbs o => Sys2Proof.Machine.execVpmovAbs o s
  | .vpld o => Sys2Proof.Machine.execVpld o s
  | .vpldStr o => Sys2Proof.Machine.execVpldStr o s
  | .vpldIdx o => Sys2Proof.Machine.execVpldIdx o s
  | .vpldPack o => Sys2Proof.Machine.execVpldPack o s
  | .vpst o => Sys2Proof.Machine.execVpst o s
  | .vpstStr o => Sys2Proof.Machine.execVpstStr o s
  | .vpstIdx o => Sys2Proof.Machine.execVpstIdx o s
  | .vpstPack o => Sys2Proof.Machine.execVpstPack o s
  | .uld sz o => Sys2Proof.Machine.execUld sz o s
  | .ld32B3 o => Sys2Proof.Machine.execLd32B3 o s
  | .ld64B3 o => Sys2Proof.Machine.execLd64B3 o s
  | .ld128B3 o => Sys2Proof.Machine.execLd128B3 o s
  | .ld sz o => Sys2Proof.Machine.execLd sz o s
  | .st32B3 o => Sys2Proof.Machine.execSt32B3 o s
  | .st64B3 o => Sys2Proof.Machine.execSt64B3 o s
  | .st128B3 o => Sys2Proof.Machine.execSt128B3 o s
  | .st sz o => Sys2Proof.Machine.execSt sz o s
  | .atomAdd sz o => Sys2Proof.Machine.execAtomAdd sz o s
  | .atomMin sz o => Sys2Proof.Machine.execAtomMin sz o s
  | .atomMax sz o => Sys2Proof.Machine.execAtomMax sz o s
  | .atomMinu sz o => Sys2Proof.Machine.execAtomMinu sz o s
  | .atomMaxu sz o => Sys2Proof.Machine.execAtomMaxu sz o s
  | .atomAnd sz o => Sys2Proof.Machine.execAtomAnd sz o s
  | .atomOr sz o => Sys2Proof.Machine.execAtomOr sz o s
  | .atomXor sz o => Sys2Proof.Machine.execAtomXor sz o s
  | .atomExch sz o => Sys2Proof.Machine.execAtomExch sz o s
  | .atomCas sz o => Sys2Proof.Machine.execAtomCas sz o s
  | .atomFadd o => Sys2Proof.Machine.execAtomFadd o s
  | .atomFmin o => Sys2Proof.Machine.execAtomFmin o s
  | .atomFmax o => Sys2Proof.Machine.execAtomFmax o s
  | .redAdd sz o => Sys2Proof.Machine.execRedAdd sz o s
  | .redMin sz o => Sys2Proof.Machine.execRedMin sz o s
  | .redMax sz o => Sys2Proof.Machine.execRedMax sz o s
  | .redMinu sz o => Sys2Proof.Machine.execRedMinu sz o s
  | .redMaxu sz o => Sys2Proof.Machine.execRedMaxu sz o s
  | .redAnd sz o => Sys2Proof.Machine.execRedAnd sz o s
  | .redOr sz o => Sys2Proof.Machine.execRedOr sz o s
  | .redXor sz o => Sys2Proof.Machine.execRedXor sz o s
  | .redFadd o => Sys2Proof.Machine.execRedFadd o s
  | .redFmin o => Sys2Proof.Machine.execRedFmin o s
  | .redFmax o => Sys2Proof.Machine.execRedFmax o s
  | .ldx sz o => Sys2Proof.Machine.execLdx sz o s
  | .stx sz o => Sys2Proof.Machine.execStx sz o s
  | .fenceAcq o => Sys2Proof.Machine.execFenceAcq o s
  | .fenceRel o => Sys2Proof.Machine.execFenceRel o s
  | .fenceAr o => Sys2Proof.Machine.execFenceAr o s
  | .cmaintWb o => Sys2Proof.Machine.execCmaintWb o s
  | .cmaintInv o => Sys2Proof.Machine.execCmaintInv o s
  | .cmaintDemote o => Sys2Proof.Machine.execCmaintDemote o s
  | .prefL1 o => Sys2Proof.Machine.execPrefL1 o s
  | .prefClc o => Sys2Proof.Machine.execPrefClc o s
  | .stashMap o => Sys2Proof.Machine.execStashMap o s
  | .stashUnmap o => Sys2Proof.Machine.execStashUnmap o s
  | .stashFlush o => Sys2Proof.Machine.execStashFlush o s
  | .barInit o => Sys2Proof.Machine.execBarInit o s
  | .barArrive o => Sys2Proof.Machine.execBarArrive o s
  | .barExpect o => Sys2Proof.Machine.execBarExpect o s
  | .barWait o => Sys2Proof.Machine.execBarWait o s
  | .barTest o => Sys2Proof.Machine.execBarTest o s
  | .mscRequest die n => Sys2Proof.Machine.execMscRequest die n s
  | .retryHintExpiry n => Sys2Proof.Machine.execRetryHintExpiry n s
  | .tldb o => Sys2Proof.Machine.execTldb o s
  | .tlda o => Sys2Proof.Machine.execTlda o s
  | .tmma o => Sys2Proof.Machine.execTmma o s
  | .tmmaBlock o => Sys2Proof.Machine.execTmmaBlock o s
  | .tmmaTri o => Sys2Proof.Machine.execTmmaTri o s
  | .tmmaBlockTri o => Sys2Proof.Machine.execTmmaBlockTri o s
  | .tsca o => Sys2Proof.Machine.execTsca o s
  | .tscaTri o => Sys2Proof.Machine.execTscaTri o s
  | .taccZero o => Sys2Proof.Machine.execTaccZero o s
  | .taccRdPair o => Sys2Proof.Machine.execTaccRdPair o s
  | .taccRdVal o => Sys2Proof.Machine.execTaccRdVal o s
  | .taccSt o => Sys2Proof.Machine.execTaccSt o s
  | .taccMode o => Sys2Proof.Machine.execTaccMode o s
  | .taccTri o => Sys2Proof.Machine.execTaccTri o s
  | .tgemm o => Sys2Proof.Machine.execTgemm o s
  | .tgemmStep core => Sys2Proof.Machine.execTgemmStep core s
  | .tctxSave o => Sys2Proof.Machine.execTctxSave o s
  | .tctxRestore o => Sys2Proof.Machine.execTctxRestore o s
  | .tprogStep o => Sys2Proof.Machine.execTprogStep o s
  | .tprogTotal o => Sys2Proof.Machine.execTprogTotal o s
  | .tileInstructionStart core n => Sys2Proof.Machine.execTileInstructionStart core n s
  | .powerGrant die => Sys2Proof.Machine.execPowerGrant die s
  | .powerRelease die op => Sys2Proof.Machine.execPowerRelease die op s
  | .budgetWrite die value => Sys2Proof.Machine.execBudgetWrite die value s
  | .cpy o => Sys2Proof.Machine.execCpy o s
  | .cpy2 o => Sys2Proof.Machine.execCpy2 o s
  | .cpygGather o => Sys2Proof.Machine.execCpygGather o s
  | .cpygScatter o => Sys2Proof.Machine.execCpygScatter o s
  | .copyPieceLand ch => Sys2Proof.Machine.execCopyPieceLand ch s
  | .copyPieceRefused ch hint => Sys2Proof.Machine.execCopyPieceRefused ch hint s
  | .copyErrorAnswer ch sub => Sys2Proof.Machine.execCopyErrorAnswer ch sub s
  | .cseal o => Sys2Proof.Machine.execCseal o s
  | .cwait o => Sys2Proof.Machine.execCwait o s
  | .cwaitTest o => Sys2Proof.Machine.execCwaitTest o s
  | .cwptrAddr o => Sys2Proof.Machine.execCwptrAddr o s
  | .cwptrCnt o => Sys2Proof.Machine.execCwptrCnt o s
  | .cwptrProg o => Sys2Proof.Machine.execCwptrProg o s
  | .cwptrRef o => Sys2Proof.Machine.execCwptrRef o s
  | .ratom op sz o => Sys2Proof.Machine.execRatom op sz o s
  | .ratomRet op sz o => Sys2Proof.Machine.execRatomRet op sz o s
  | .ratomAck grp n => Sys2Proof.Machine.execRatomAck grp n s
  | .tfence o => Sys2Proof.Machine.execTfence o s
  | .acrtNew o => Sys2Proof.Machine.execAcrtNew o s
  | .acrtFree o => Sys2Proof.Machine.execAcrtFree o s
  | .atake o => Sys2Proof.Machine.execAtake o s
  | .agive o => Sys2Proof.Machine.execAgive o s
  | .areadExact o => Sys2Proof.Machine.execAreadExact o s
  | .areadApprox o => Sys2Proof.Machine.execAreadApprox o s
  | .allowanceServe obj => Sys2Proof.Machine.execAllowanceServe obj s
  | .allowanceGrant n => Sys2Proof.Machine.execAllowanceGrant n s
  | .allowanceRefusal n => Sys2Proof.Machine.execAllowanceRefusal n s
  | .exactReadReply n => Sys2Proof.Machine.execExactReadReply n s
  | .allowanceRecall n => Sys2Proof.Machine.execAllowanceRecall n s
  | .recallAnswer n => Sys2Proof.Machine.execRecallAnswer n s
  | .allowanceReturn n => Sys2Proof.Machine.execAllowanceReturn n s
  | .giveUp n => Sys2Proof.Machine.execGiveUp n s
  | .sconf o => Sys2Proof.Machine.execSconf o s
  | .sstart o => Sys2Proof.Machine.execSstart o s
  | .sstatSamp o => Sys2Proof.Machine.execSstatSamp o s
  | .sstatBatch o => Sys2Proof.Machine.execSstatBatch o s
  | .sctlPause o => Sys2Proof.Machine.execSctlPause o s
  | .sctlResume o => Sys2Proof.Machine.execSctlResume o s
  | .sctlStop o => Sys2Proof.Machine.execSctlStop o s
  | .sctlFree o => Sys2Proof.Machine.execSctlFree o s
  | .solverStageInput die batch => Sys2Proof.Machine.execSolverStageInput die batch s
  | .solverStageCollect die batch => Sys2Proof.Machine.execSolverStageCollect die batch s
  | .solverDecide die batch => Sys2Proof.Machine.execSolverDecide die batch s
  | .solverEnd die batch => Sys2Proof.Machine.execSolverEnd die batch s
  | .solverAccessFault die batch sample => Sys2Proof.Machine.execSolverAccessFault die batch sample s
  | .coll o => Sys2Proof.Machine.execColl o s
  | .collw o => Sys2Proof.Machine.execCollw o s
  | .collwTest o => Sys2Proof.Machine.execCollwTest o s
  | .carbSet o => Sys2Proof.Machine.execCarbSet o s
  | .carbGet o => Sys2Proof.Machine.execCarbGet o s
  | .collJoin die rec => Sys2Proof.Machine.execCollJoin die rec s
  | .bucketReady die rec => Sys2Proof.Machine.execBucketReady die rec s
  | .segmentReceive die rec n => Sys2Proof.Machine.execSegmentReceive die rec n s
  | .collComplete die rec => Sys2Proof.Machine.execCollComplete die rec s
  | .collAbort die rec status => Sys2Proof.Machine.execCollAbort die rec status s
  | .launch o => Sys2Proof.Machine.execLaunch o s
  | .launchGo o => Sys2Proof.Machine.execLaunchGo o s
  | .lstatState o => Sys2Proof.Machine.execLstatState o s
  | .lstatSelf o => Sys2Proof.Machine.execLstatSelf o s
  | .pendingQueueTake core => Sys2Proof.Machine.execPendingQueueTake core s
  | .launchAccept pkg n => Sys2Proof.Machine.execLaunchAccept pkg n s
  | .widxAdvance pkg ctx queue => Sys2Proof.Machine.execWidxAdvance pkg ctx queue s
  | .packetNop pkg ctx queue => Sys2Proof.Machine.execPacketNop pkg ctx queue s
  | .packetLaunch pkg ctx queue => Sys2Proof.Machine.execPacketLaunch pkg ctx queue s
  | .packetCopy pkg ctx queue => Sys2Proof.Machine.execPacketCopy pkg ctx queue s
  | .packetSignal pkg ctx queue => Sys2Proof.Machine.execPacketSignal pkg ctx queue s
  | .packetWait pkg ctx queue => Sys2Proof.Machine.execPacketWait pkg ctx queue s
  | .packetBarrierAnd pkg ctx queue => Sys2Proof.Machine.execPacketBarrierAnd pkg ctx queue s
  | .packetQreset pkg ctx queue => Sys2Proof.Machine.execPacketQreset pkg ctx queue s
  | .gangctlSwitch pkg ctx queue => Sys2Proof.Machine.execGangctlSwitch pkg ctx queue s
  | .gangctlSnap pkg ctx queue => Sys2Proof.Machine.execGangctlSnap pkg ctx queue s
  | .waitConditionMet pkg ctx queue => Sys2Proof.Machine.execWaitConditionMet pkg ctx queue s
  | .registrationTicket pkg slot => Sys2Proof.Machine.execRegistrationTicket pkg slot s
  | .ctxreg pkg slot => Sys2Proof.Machine.execCtxreg pkg slot s
  | .ctxdereg pkg slot => Sys2Proof.Machine.execCtxdereg pkg slot s
  | .qstart pkg slot => Sys2Proof.Machine.execQstart pkg slot s
  | .qresetCommand pkg slot => Sys2Proof.Machine.execQresetCommand pkg slot s
  | .invalidCommand pkg slot => Sys2Proof.Machine.execInvalidCommand pkg slot s
  | .queueReset pkg ctx queue => Sys2Proof.Machine.execQueueReset pkg ctx queue s
  | .queueResetComplete pkg ctx queue => Sys2Proof.Machine.execQueueResetComplete pkg ctx queue s
  | .rampStep pkg => Sys2Proof.Machine.execRampStep pkg s
  | .preempt cohort => Sys2Proof.Machine.execPreempt cohort s
  | .cohortRestore cohort core => Sys2Proof.Machine.execCohortRestore cohort core s
  | .launchFaultEnd grp => Sys2Proof.Machine.execLaunchFaultEnd grp s
  | .gangPropose n => Sys2Proof.Machine.execGangPropose n s
  | .gangSliceSaved pkg => Sys2Proof.Machine.execGangSliceSaved pkg s
  | .gangAck n => Sys2Proof.Machine.execGangAck n s
  | .gangCommit n => Sys2Proof.Machine.execGangCommit n s
  | .liveUpdate pkg img => Sys2Proof.Machine.execLiveUpdate pkg img s
  | .heartbeatTakeover pkg => Sys2Proof.Machine.execHeartbeatTakeover pkg s
  | .packageReset pkg boot => Sys2Proof.Machine.execPackageReset pkg boot s
  | .tlbopMap o => Sys2Proof.Machine.execTlbopMap o s
  | .tlbopInv o => Sys2Proof.Machine.execTlbopInv o s
  | .tlbopInvAsid o => Sys2Proof.Machine.execTlbopInvAsid o s
  | .tlbopAll o => Sys2Proof.Machine.execTlbopAll o s
  | .tlbopReplay o => Sys2Proof.Machine.execTlbopReplay o s
  | .tlbopReplayAll o => Sys2Proof.Machine.execTlbopReplayAll o s
  | .tlbopDeny o => Sys2Proof.Machine.execTlbopDeny o s
  | .tlbopFread o => Sys2Proof.Machine.execTlbopFread o s
  | .tlbopFstat o => Sys2Proof.Machine.execTlbopFstat o s
  | .tlbopMove o => Sys2Proof.Machine.execTlbopMove o s
  | .tlbopNewgen o => Sys2Proof.Machine.execTlbopNewgen o s
  | .mtlbRequest die req => Sys2Proof.Machine.execMtlbRequest die req s
  | .walkComplete die req => Sys2Proof.Machine.execWalkComplete die req s
  | .pclassQuery o => Sys2Proof.Machine.execPclassQuery o s
  | .pclassSet o => Sys2Proof.Machine.execPclassSet o s
  | .pclassHint o => Sys2Proof.Machine.execPclassHint o s
  | .pclassLine o => Sys2Proof.Machine.execPclassLine o s
  | .pclassClear o => Sys2Proof.Machine.execPclassClear o s
  | .cohReadRequest cluster line => Sys2Proof.Machine.execCohReadRequest cluster line s
  | .cohWriteRequest cluster line => Sys2Proof.Machine.execCohWriteRequest cluster line s
  | .cohRecall cluster line => Sys2Proof.Machine.execCohRecall cluster line s
  | .cohTokenAnswer n => Sys2Proof.Machine.execCohTokenAnswer n s
  | .cohEviction cluster tag => Sys2Proof.Machine.execCohEviction cluster tag s
  | .dirtyNotice cluster line => Sys2Proof.Machine.execDirtyNotice cluster line s
  | .pdirtyNotice cluster frame => Sys2Proof.Machine.execPdirtyNotice cluster frame s
  | .dirtyWriteback cluster line => Sys2Proof.Machine.execDirtyWriteback cluster line s
  | .persistentRequest cluster line write => Sys2Proof.Machine.execPersistentRequest cluster line write s
  | .classConflict cluster va write => Sys2Proof.Machine.execClassConflict cluster va write s
  | .censusReport line => Sys2Proof.Machine.execCensusReport line s
  | .eccUncorrectedConsume grp bad => Sys2Proof.Machine.execEccUncorrectedConsume grp bad s
  | .tileEngineError core => Sys2Proof.Machine.execTileEngineError core s
  | .coreEntryError core entry => Sys2Proof.Machine.execCoreEntryError core entry s
  | .flitReceive pkg port flit => Sys2Proof.Machine.execFlitReceive pkg port flit s
  | .nakReceive pkg port seq => Sys2Proof.Machine.execNakReceive pkg port seq s
  | .nakBurst pkg port => Sys2Proof.Machine.execNakBurst pkg port s
  | .laneFail pkg port lane => Sys2Proof.Machine.execLaneFail pkg port lane s
  | .trainingComplete pkg port => Sys2Proof.Machine.execTrainingComplete pkg port s
  | .retrainTimeout pkg port => Sys2Proof.Machine.execRetrainTimeout pkg port s
  | .presentFall pkg port => Sys2Proof.Machine.execPresentFall pkg port s
  | .presentRise pkg port => Sys2Proof.Machine.execPresentRise pkg port s
  | .peerHeartbeatTimeout pkg peer => Sys2Proof.Machine.execPeerHeartbeatTimeout pkg peer s
  | .lossDeclaration pkg peer => Sys2Proof.Machine.execLossDeclaration pkg peer s
  | .owlPinTrigger pkg => Sys2Proof.Machine.execOwlPinTrigger pkg s
  | .owlForwardReceive n => Sys2Proof.Machine.execOwlForwardReceive n s
  | .snapshotRearm pkg => Sys2Proof.Machine.execSnapshotRearm pkg s
  | .keyMaterialWrite pkg slot word value => Sys2Proof.Machine.execKeyMaterialWrite pkg slot word value s
  | .ctnlogClear core => Sys2Proof.Machine.execCtnlogClear core s
  | .pcieInboundWrite pkg bar off data => Sys2Proof.Machine.execPcieInboundWrite pkg bar off data s
  | .pcieInboundRead pkg bar off len => Sys2Proof.Machine.execPcieInboundRead pkg bar off len s
  | .pcieLinkDown pkg => Sys2Proof.Machine.execPcieLinkDown pkg s
  | .registerWrite pkg den off width value => Sys2Proof.Machine.execRegisterWrite pkg den off width value s
  | .attestationRequest pkg nonce => Sys2Proof.Machine.execAttestationRequest pkg nonce s
  | .bladeAdmission pkg port peer partner => Sys2Proof.Machine.execBladeAdmission pkg port peer partner s
  | .pcieLinkUp pkg rate width => Sys2Proof.Machine.execPcieLinkUp pkg rate width s

end Sys2Proof.Machine
end

