-- ==== Sys2Proof/Machine/Issue.lean ====
section
/-!
DEFINITION. What a quarter does in its turn (R100, R101, R212 to R216, R224): the choice of a group, the start of a clause, the
issue of one instruction.
-/

namespace Sys2Proof.Machine

/-! ### The model's clocks (log 5, log 8) -/

/-- Cycles pass: every step takes a fresh number of them, and a fresh free value. -/
def tick (s : State) : State :=
  let n := fun (i : Nat) => BitVec.ofNat 64 (1 + Config.cycles (s.free * 16384 + i))
  { s with
    clock := s.clock + n 0
    cores := s.cores.map (fun (c : Nat × Core) => (c.1, { c.2 with cyc := c.2.cyc + n (c.1 + 1) }))
    free := s.free + 1 }

/-! ### Slots -/

/-- The group in place i of a quarter (R64). -/
def placeOf (s : State) (core q i : Nat) : Option Nat :=
  (s.groups.find? (fun e => s.onCore e.2 core && e.2.slot == q * 64 + i)).map (·.1)

/-- The next instruction of a group's clause may issue. -/
def Group.canIssue (g : Group) : Bool :=
  g.run == .running && g.clause.isSome && g.wait == .none && !g.region.due

/-- An event row: what the hardware does of itself, or what comes from outside. -/
def isEvent (i : Instr) : Bool :=
  match form i with
  | .event => true
  | _ => false

/-- A clause header. -/
def isHeader (i : Instr) : Bool :=
  match form i with
  | .clause _ => true
  | .clauseLit _ _ => true
  | .clauseExt _ _ _ => true
  | _ => false

/-! ### One instruction, or the start of a clause -/

/-- The instruction that is due in the open clause; an encoding that is none raises ILLEGAL_OP at issue (R100). -/
noncomputable def issueNext (s : State) (gk : Nat) : Out :=
  let s := { s with cur := gk }
  let g := s.grp gk
  match g.clause.bind (·.item) with
  | none => .next (s.putGrp gk { g with wait := .none, clause := none })
  | some it =>
    match decodeWords it.words with
    | .ok (i, _) => exec i s
    | .error _ => .next (s.putGrp gk ({ g with wait := .none }.trapEm causeIllegal))

/-- The start of a clause at the group's PC: a word that is no header raises CLAUSE_FAULT (R102); a header that R100 does not
allow is one with `bad`. -/
noncomputable def startNext (s : State) (gk : Nat) : Out :=
  let s := { s with cur := gk }
  let g := s.grp gk
  match fetchInstr gk g.pc s with
  | (s, .trap c a) => .next (fetchStop s gk (.trap c a))
  | (s, .hold x) => .next (fetchStop s gk (.hold x))
  | (s, .ok ws) =>
    match decodeWords ws with
    | .ok (i, _) => if isHeader i then exec i s else .next (s.putGrp gk ((s.grp gk).trapEm causeClause))
    | .error _ =>
      if opOf ws = 0 then
        let h := headerOf (ws.headD 0)
        .next (startClause s gk h.wait.toNat h.seta.toNat h.setb.toNat h.n.toNat 0 ws.length true)
      else .next (s.putGrp gk ((s.grp gk).trapEm causeClause))

/-- What the chosen group does: its open clause goes on, or its next clause starts. -/
noncomputable def actNext (s : State) (gk : Nat) : Out :=
  if (s.grp gk).clause.isSome then issueNext s gk else startNext s gk

/-! ### Ready groups (R215) -/

/-- The next clause of a group may start: it has been fetched, or its fetch comes to a fault, and every flag in its WAIT mask is
clear (R215). -/
def headerReady (s : State) (gk : Nat) : Bool :=
  let g := s.grp gk
  let clear := match g.fetchedWord g.pc with
    | some w => opOf [w] != 0 || g.flagsClear (headerOf w).wait.toNat
    | none => true
  clear && (match g.missing with
    | none => true
    | some a => match (fetchLine s gk a).2 with
      | .trap _ _ => true
      | _ => false)

/-- A suspended clause would go on. -/
noncomputable def resumes (s : State) (gk : Nat) : Bool :=
  match issueNext s gk with
  | .next t => !((t.grp gk).wait == .suspended && (t.grp gk).clause == (s.grp gk).clause && (t.groups.get? gk).isSome)
  | _ => true

noncomputable def ready (s : State) (gk : Nat) : Bool :=
  let g := s.grp gk
  if g.run != .running || g.region.due || g.trapDue || !mayIssue s g.cohort then false
  else
    match g.clause, g.wait with
    | some _, .none => true
    | some _, .suspended => resumes s gk
    | none, .none => !(s.cohort g.cohort).stop && headerReady s gk
    | _, _ => false

/-! ### The choice (R216) -/

/-- A place comes before another: larger AGE, then the lower number at or after NEXT, taken circularly. -/
def passes (age : Nat → Nat) (next a b : Nat) : Bool :=
  decide (age b < age a) || (age a == age b && decide ((a + 64 - next) % 64 < (b + 64 - next) % 64))

def bestOf (age : Nat → Nat) (next : Nat) : List Nat → Option Nat
  | [] => none
  | a :: t =>
    match bestOf age next t with
    | none => some a
    | some b => if passes age next b a then some b else some a

/-- The place that a quarter chooses among those that are ready. DESIGN CHOICE: where all of them are yielding and no AGE is 63, the
rule on AGE and NEXT chooses among them (log 87). -/
def chooseFrom (x : Quarter) (rs : List Nat) : Option Nat :=
  let age := fun i => x.age.getD i 0
  let free := rs.filter (fun i => !(x.yielding.getD i false) || age i == 63)
  bestOf age x.next (if free.isEmpty then rs else free)

/-- The quarter's state after a choice. -/
def Quarter.chosen (x : Quarter) (rs : List Nat) (i : Nat) : Quarter :=
  { x with
    age := rs.foldl (fun (t : Tab Nat) j => if j = i then t else t.put j (min (x.age.getD j 0 + 1) 63)) []
    yielding := x.yielding.del i
    next := (i + 1) % 64 }

/-- The ready places of a quarter. -/
noncomputable def readyPlaces (s : State) (core q : Nat) : List Nat :=
  (List.range 64).filter (fun i => match placeOf s core q i with
    | some gk => ready s gk
    | none => false)

/-! ### What the hardware does at once -/

/-- The errors that a group's writes have met are counted (R516, R517). -/
def countTally (s : State) (g : Group) : State :=
  let s := if g.tally.lane = 0 then s else s.celane g.core g.tally.lane
  let s := if g.tally.other = 0 then s else s.ceother g.core g.tally.other
  if g.tally.ue = 0 then s else s.uecnt g.core g.tally.ue

/-- A resident group takes a held trap that is due (R224). -/
def settleGroup (s : State) (e : Nat × Group) : Nat × Group :=
  let g := { e.2 with tally := {} }
  (e.1, if (s.cohorts.get? g.cohort).isSome && g.trapDue then g.deliver else g)

/-- A place that is not ready holds AGE at 0 (R216). -/
noncomputable def settleAge (s : State) (core q : Nat) (x : Quarter) : Quarter :=
  { x with age := x.age.filter (fun a => match placeOf s core q a.1 with
      | some gk => ready s gk
      | none => false) }

/-- What is on its way moves as it may: copies, write queues, waiting reductions, flits; fences whose conditions are met become
ready. -/
def stirAll (s : State) : State :=
  let s := s.cores.foldl (fun s c => c.2.chans.foldl (fun s x => copyStir s c.1 x.1) s) s
  let s := s.pkgs.foldl (fun s p => p.2.hub.foldl (fun s h => onHub s p.1 h.1 Stream.stir) s) s
  let s := s.groups.foldl (fun s e => commStir s e.1) (drainQueues s)
  s.groups.foldl (fun s e => fenceCheck s e.1) (sendAll s)

/-- What has come about since the last turn takes effect: what moves by itself, counts of register errors, traps that are due, and
AGE. No request of the command processor is refused before it is made. -/
noncomputable def settleAll (s : State) : State :=
  let s := stirAll s
  let s := s.groups.foldl (fun s e => countTally s e.2) s
  let s := { s with groups := s.groups.map (settleGroup s) }
  { s with cpStop := none, cores := s.cores.map (fun (c : Nat × Core) => (c.1, { c.2 with
      quarters := c.2.quarters.map (fun (q : Nat × Quarter) => (q.1, settleAge s c.1 q.1 q.2)) })) }

/-! ### A quarter's turn -/

/-- An instruction of the clause was not its last one, or there was none. -/
def Group.midClause (g : Group) : Bool :=
  match g.clause with
  | some c => decide (c.idx + 1 < c.body.length)
  | none => true

/-- After a group has acted: a clause that has not issued its last instruction goes on in the quarter's next turns (R215); a clause
that TRET resumes competes for the slot (R216); a clause start is counted (R211). -/
def afterTurn (core q i gk : Nat) (before : Group) (t : State) : State :=
  let g := t.grp gk
  let on := (t.groups.get? gk).isSome && g.canIssue && before.midClause
  let t := t.putQuarter core q { t.quarter core q with running := if on then some i else none }
  if on && before.clause.isNone then t.bump (pkgOfCore core) (core % 384) (4 + q) else t

/-- Continues a step's outcome. -/
def thenState (o : Out) (f : State → State) : Out :=
  match o with
  | .next t => .next (f t)
  | .fault e => .fault e
  | .refused r => .refused r

noncomputable def runPlace (s : State) (core q i gk : Nat) (act : State → Nat → Out) : Out :=
  thenState (act s gk) (afterTurn core q i gk (s.grp gk))

/-- A group's open clause has gone on, or its next one has started. -/
def started (before : Group) (gk : Nat) (o : Out) : Bool :=
  before.clause.isSome || (match o with
    | .next t => (t.grp gk).clause.isSome
    | _ => false)

/-- The groups of a quarter that stand at a clause boundary fetch ahead (R87). -/
def quarterFetch (s : State) (core q : Nat) : State :=
  (List.range 64).foldl (fun s i => match placeOf s core q i with
    | some gk => fetchAhead s gk
    | none => s) s

/-- A quarter chooses a ready group, which acts; the choice counts where a clause starts or resumes (R216). -/
noncomputable def quarterPick (s : State) (core q : Nat) : Out :=
  let x := s.quarter core q
  let rs := readyPlaces s core q
  match chooseFrom x rs with
  | none => .next s
  | some i =>
    match placeOf s core q i with
    | none => .next s
    | some gk =>
      let begun := fun (x : Quarter) => beginCohort (s.putQuarter core q { x with running := none }) (s.grp gk).cohort
      let o := runPlace (begun (x.chosen rs i)) core q i gk actNext
      if started (s.grp gk) gk o then o else runPlace (s.putQuarter core q { x with running := none }) core q i gk actNext

/-- The running clause issues its next instruction; else the quarter chooses a ready group, which acts. -/
noncomputable def quarterTurn (s : State) (core q : Nat) : Out :=
  let s := quarterFetch s core q
  let x := s.quarter core q
  let pick := fun (s : State) => quarterPick s core q
  match x.running with
  | none => pick s
  | some i =>
    match placeOf s core q i with
    | none => pick s
    | some gk => if (s.grp gk).canIssue then runPlace s core q i gk issueNext else pick s

/-- The quarters that hold groups, as core × 4 + quarter. -/
def busyQuarters (s : State) : List Nat :=
  ((s.groups.filter (fun e => (s.cohorts.get? e.2.cohort).isSome)).map (fun e => e.2.core * 4 + e.2.slot / 64)).eraseDups

/-! ### Placing one instruction (log 2) -/

/-- What stands for the work of the command processor when an instruction is placed: a launch record of one group with every kind
of register and role. -/
def placedRecord : Record :=
  { entry := 0x1000, n32 := 64, nu := 512, vpn := 16, vpc := 4, scr := 0x40000, memch := 8, chan := 8, macros := 16, world := true }

/-- The group that runs a placed instruction. -/
def placedGroup (ck : Nat) : Group :=
  { info := placedRecord, id := { handle := 1, world := true, privileged := true }, cohort := ck, pc := 0x1000 }

/-- UADD s0, s0, s0 in its base form: what a header that is placed has as its body. -/
def fillWord : Word := 0x08000000#32

/-- One cohort with one group is resident on core 0; the instruction is its clause's only one, or, a header, stands at its PC in
the quarter's instruction cache with a body of `fillWord`s. -/
def placeInstr (s : State) (ws : List Word) : State :=
  let ck := s.nextKey
  let gk := ck + 1
  let c : Cohort := {
    id := { handle := 1, world := true, privileged := true }, groups := [gk], scrLimit := 0x40000, macros := List.range 16
    neigh := [ck], chans := List.range 8, memch := List.range 8, begun := true }
  let g := placedGroup ck
  let header := opOf ws = 0
  let item : Item := { addr := 0x1004, words := ws, ll := opLL ws }
  let g := if header then g
    else { g with
      pc := 0x1004
      clause := some { head := 0x1000, seta := 15, setb := 15, tmask := 0, body := [item], idx := 0, after := Dword.plus 0x1004 (4 * ws.length) } }
  let line : ILine := { leaf := 0xA3#64, words := (ws ++ List.replicate 32 fillWord).take 32 }
  let q : Quarter := { running := if header then none else some 0, icache := if header then [(0x20, line)] else [] }
  let s := { s with groups := [(gk, g)], cohorts := [(ck, c)], nextKey := ck + 2, agenda := [], turn := 0, cur := gk }
  s.putQuarter 0 0 q

end Sys2Proof.Machine
end

