-- ==== Sys2Proof/Machine/Progress.lean ====
section
/-!
DEFINITION. What the hardware may do of itself (log 3): the events that the state holds work for. A step takes them in turn with
the quarters when its agenda names nothing; each leaves the state as it is where its own condition does not hold.
-/

namespace Sys2Proof.Machine

noncomputable section

def groupEvents (s : State) : List Instr :=
  s.groups.flatMap (fun e =>
    (e.2.pend.filter e.2.completable).map (fun p => .longLatencyCompletion e.1 p.id) ++
    (List.range e.2.ratoms.length).map (fun i => .ratomAck e.1 i) ++
    (match e.2.run with
     | .halted _ _ => [.launchFaultEnd e.1]
     | _ => []))

def coreEvents (s : State) : List Instr :=
  s.cores.flatMap (fun c =>
    c.2.tile.jobs.map (fun j => .tileInstructionStart c.1 j.num) ++
    (if c.2.tile.jobs.isEmpty then [] else [.tgemmStep c.1]) ++
    (c.2.chans.filter (fun x => !x.2.queue.isEmpty)).map (fun x => .copyPieceLand (.core c.1 x.1)) ++
    (if c.2.plq.any (·.released) then [.pendingQueueTake c.1] else []))

def solverEvents (die : Nat) (e : Nat × SolverBatch) : List Instr :=
  match e.2.act with
  | .input => [.solverStageInput die e.1]
  | .collect => [.solverStageCollect die e.1]
  | .decide => [.solverDecide die e.1]
  | .finish => [.solverEnd die e.1]
  | .start => [.solverStageInput die e.1]
  | .idle => []

def dieEvents (s : State) : List Instr :=
  s.dies.flatMap (fun d =>
    (if d.2.powerq.isEmpty then [] else [.powerGrant d.1]) ++
    (List.range d.2.granted.length).map (fun i => .powerRelease d.1 i) ++
    d.2.walks.map (fun r => .walkComplete d.1 r) ++
    d.2.solver.flatMap (solverEvents d.1) ++
    d.2.colls.flatMap (fun c =>
      [.collJoin d.1 c.1, .bucketReady d.1 c.1, .segmentReceive d.1 c.1 0, .collComplete d.1 c.1, .collAbort d.1 c.1 1]))

/-- Requests that have not reached a memory side, by die. -/
def mscEvents (s : State) : List Instr :=
  ((s.groups.flatMap (fun e => e.2.ratoms.map (fun r => r.pkg * 4 + (match r.accs with
    | a :: _ => vaDie a.va
    | [] => 0)))).eraseDups).map (fun d => .mscRequest d 0)

def allowEvents (s : State) : List Instr :=
  (s.ctrs.filter (fun c => !c.2.queue.isEmpty)).map (fun c => .allowanceServe c.1) ++
  s.amsgs.zipIdx.map (fun m => match m.1.word with
    | .grant _ _ _ => .allowanceGrant m.2
    | .refusal _ => .allowanceRefusal m.2
    | .reply _ => .exactReadReply m.2
    | .recall => .allowanceRecall m.2
    | .answer _ => .recallAnswer m.2
    | .giveBack _ _ => .allowanceReturn m.2
    | .giveUp _ _ => .giveUp m.2)

/-- A queue's events. -/
def queueEvents (pkg a i : Nat) (q : Queue) : List Instr :=
  match q.st with
  | .stopped => []
  | .error => []
  | .idle => [.widxAdvance pkg a i]
  | .run =>
    [.packetNop pkg a i, .packetLaunch pkg a i, .packetCopy pkg a i, .packetSignal pkg a i, .packetWait pkg a i, .packetBarrierAnd pkg a i,
      .packetQreset pkg a i, .gangctlSwitch pkg a i, .gangctlSnap pkg a i, .widxAdvance pkg a i]
  | .blocked => [.waitConditionMet pkg a i]
  | .resetting => [.queueReset pkg a i, .queueResetComplete pkg a i]

def slotEvents (pkg n : Nat) (w : WinSlot) : List Instr :=
  match w.req with
  | none => [.registrationTicket pkg n]
  | some r =>
    match r.opc with
    | 1 => [.ctxreg pkg n]
    | 2 => [.ctxdereg pkg n]
    | 3 => [.qstart pkg n]
    | 4 => [.qresetCommand pkg n]
    | _ => [.invalidCommand pkg n]

def pkgEvents (s : State) : List Instr :=
  s.pkgs.flatMap (fun p =>
    [.rampStep p.1, .gangSliceSaved p.1] ++
    (if p.2.work.isEmpty then [] else [.launchAccept p.1 0]) ++
    p.2.slots.flatMap (fun w => slotEvents p.1 w.1 w.2) ++
    p.2.ctxs.flatMap (fun c => c.2.queues.flatMap (fun q => queueEvents p.1 c.1 q.1 q.2)) ++
    p.2.hub.map (fun h => .copyPieceLand (.hub p.1 h.1)))

def cohortEvents (s : State) : List Instr :=
  (s.cohorts.filter (fun c => c.2.stop)).map (fun c => .preempt c.1) ++
  s.saved.flatMap (fun c => (List.range 96).map (fun i => .cohortRestore c.1 (c.2.die * 96 + i)))

def linkEvents (s : State) : List Instr :=
  (List.range s.flight.length).map (fun n => .cohTokenAnswer n) ++
  (s.homes.filter (fun h => h.2.census)).map (fun h => .censusReport h.1) ++
  (List.range s.refused.length).map (fun n => .retryHintExpiry n) ++
  s.gmsgs.zipIdx.map (fun m => match m.1.word with
    | .propose _ _ => .gangPropose m.2
    | .ack _ => .gangAck m.2
    | .commit _ => .gangCommit m.2) ++
  s.decls.map (fun d => .lossDeclaration d.1 d.2) ++
  (List.range s.owlOut.length).map (fun n => .owlForwardReceive n)

/-- Every event that the state holds work for. -/
def inner (s : State) : List Instr :=
  groupEvents s ++ coreEvents s ++ dieEvents s ++ mscEvents s ++ allowEvents s ++ pkgEvents s ++ cohortEvents s ++ linkEvents s

/-- The n-th turn of a machine whose agenda names nothing: the quarters that hold groups in order, then one event. -/
def freeTurn (s : State) (n : Nat) : Out :=
  let qs := busyQuarters s
  match qs[n % (qs.length + 1)]? with
  | some q => quarterTurn s (q / 4) (q % 4)
  | none =>
    match (inner s)[n / (qs.length + 1) % (inner s).length]? with
    | some i => exec i s
    | none => .next s

end

end Sys2Proof.Machine
end

