-- ==== Sys2Proof/Machine/Step.lean ====
section
/-!
DEFINITION. One step of the machine (log 3), and the placing of one instruction where the next step runs it (log 2).
-/

namespace Sys2Proof.Machine

/-- One step: cycles pass, what has come about takes effect, and the turn that the agenda names is taken; with an empty agenda,
the next turn of the rotation. -/
noncomputable def step (s0 : State) : Host.Outcome State Fault Refusal :=
  let s := settleAll (tick s0)
  match s.agenda with
  | .event i :: rest => if isEvent i then exec i { s with agenda := rest } else .next { s with agenda := rest }
  | .quarter q :: rest => quarterTurn { s with agenda := rest } (q / 4) (q % 4)
  | [] => freeTurn { s with turn := s.turn + 1 } s.turn

/-- The machine with one instruction as the body of a clause that is open on a resident group, or with one header at that
group's PC (log 2). -/
def State.withFetchWord (s : State) (nbits w : Nat) : State := placeInstr s (tableWords nbits w)

end Sys2Proof.Machine
end

