-- ==== Sys2Proof/Safety.lean ====
section
/-!
DEFINITION. What the claims are stated in: the canonical form of memory, the conditions under which an instruction of an open
clause has its own effect (R101), and what a group is after it.
-/

namespace Sys2Proof.Machine

/-- The canonical form of memory: addresses strictly rising. What an unlisted address reads as is free (R547), so that no listed byte
is one that it is known to read as (log 1). -/
def Memory.wf (m : Tab Byte) : Bool := m.rising

/-- The state's memory is in its canonical form. -/
def State.memWf (s : State) : Bool := Memory.wf s.mem

/-- Memory is in its canonical form, and the keys of the lines' seals and of the groups are strictly rising. -/
def State.tablesOk (s : State) : Bool := s.memWf && (s.seals.rising && s.groups.rising)

/-- The instruction `o` of shape `sh`, with the checks `ck` that its entry adds, is the next one of the clause `c` that group `g`
has open, and nothing of R101 comes before its own effect: the group runs and is not held, the encoding is one, the mode
allows it, its registers are inside the allocation, its predicate lets it act, no earlier result for a register that it
writes is pending (R107), no register error meets it (R515), no read race is to be trapped (R106), and its flag has room
(R103). -/
structure Runs (ck : Checks) (sh : Shape) (o : EOps) (s : State) (g : Group) (c : Clause) : Prop where
  here : s.groups.get? s.cur = some g
  running : g.run = .running
  opened : g.clause = some c
  free : g.wait = .none ∨ g.wait = .suspended
  due : g.region.due = false
  hold : ck.hold s { g with wait := .none } = false
  form : shapeOk sh o = true
  legal : ck.illegal s { g with wait := .none } = false
  mode : sh.priv = true → g.id.privileged = true
  regs : (readsOf sh o ++ writesOf sh o ++ (ck.reads ++ ck.writes)).all g.regIn = true
  role : ck.role s { g with wait := .none } = false
  acts : g.acts sh o s.free = true
  locks : g.interlocked (ck.writes ++ writesOf sh o) = false
  region : ck.closes = true → g.regionBusy = false
  clean : g.ecc = []
  race : g.trap.trapen.getLsbD 0 = true → ({ g with wait := .none } : Group).raceAll ck sh o s = 0 ∧ g.raceUni (ck.reads ++ readsOf sh o) = false
  room : sh.ll = true → c.llFlag < 12 → g.flag c.llFlag < 15

/-- The current group may issue the next instruction of the clause that it has open: whatever that instruction is, R101 begins. -/
structure Issues (s : State) (g : Group) (c : Clause) : Prop where
  here : s.groups.get? s.cur = some g
  running : g.run = .running
  opened : g.clause = some c
  free : g.wait = .none ∨ g.wait = .suspended
  due : g.region.due = false

/-- The place after the instruction that issues: the next one of the clause, or the word after the clause (R86, R102). -/
def Clause.nextPc (c : Clause) : Dword :=
  if c.idx + 1 < c.body.length then ({ c with idx := c.idx + 1 } : Clause).here else c.after

/-- The clause after the instruction that issues; after its last one there is none. -/
def Clause.next (c : Clause) : Option Clause :=
  if c.idx + 1 < c.body.length then some { c with idx := c.idx + 1 } else none

/-- The group after an instruction of its clause `c` that has the register results `outs` (R109, R110): they are the newest of the
eight of the window; if the instruction is not transient they are in the register file too; nothing else of the group
changes. -/
def Group.wrote (g : Group) (c : Clause) (outs : List (Nat × Word)) : Group :=
  { g with
    wait := .none
    regs := if c.isTransient then g.regs else (g.setRegs outs).regs
    q := if c.isTransient then g.q else (g.setRegs outs).q
    window := ({ outs := outs, transient := c.isTransient } :: g.window).take 8
    seq := g.seq + 1
    clause := c.next
    pc := c.nextPc }

/-- The group after an instruction of its clause that sends control to `a`. -/
def Group.jumped (g : Group) (c : Clause) (outs : List (Nat × Word)) (a : Dword) : Group :=
  { g.wrote c outs with clause := none, pc := a }

/-- The group after a long-latency instruction of its clause has issued: its operation `p` is pending, with the instruction's number,
address and flag, and the flag counts it (R103). -/
def Group.started (g : Group) (c : Clause) (p : Pend) : Group :=
  { g.wrote c [] with
    pend := g.pend ++ [{ p with id := g.seq, seq := g.seq, flag := c.llFlag, addr := c.here }]
    flags := if c.llFlag < 12 then g.flags.store 0 c.llFlag (g.flag c.llFlag + 1) else g.flags }

/-- The state in which `g'` stands for the current group and nothing else is changed. -/
def State.with (s : State) (g' : Group) : State := { s with groups := s.groups.put s.cur g' }

/-- Every extended-form instruction that `mk` builds has, where nothing of R101 comes before its effect, the register results
`outs`, a group changed by `f` before them, and no other effect. -/
def DoesE (mk : EOps → Instr) (ck : EOps → Checks) (sh : EOps → Shape) (f : State → Group → EOps → Group)
    (outs : State → Group → EOps → List (Nat × Word)) : Prop :=
  ∀ o s g c, Runs (ck o) (sh o) o s g c → exec (mk o) s = .next (s.with ((f s g o).wrote c (outs s g o)))

/-- The same with register results alone. -/
def WritesE (mk : EOps → Instr) (sh : Shape) (outs : State → Group → EOps → List (Nat × Word)) : Prop :=
  ∀ o s g c, Runs {} sh o s g c → exec (mk o) s = .next (s.with (g.wrote c (outs s g o)))

/-- The same for a base form of opcode `op`. -/
def WritesB3 (mk : B3Ops → Instr) (op : Nat) (sh : Shape) (outs : State → Group → EOps → List (Nat × Word)) : Prop :=
  ∀ o s g c, Runs (b3Checks op sh o) sh (b3AsE op sh o) s g c →
    exec (mk o) s = .next (s.with (g.wrote c (outs s g (b3AsE op sh o))))

/-- Lane results: in each lane that the instruction acts on, consecutive registers from D take the words of `f`. -/
def laneOutsE (sh : Shape) (f : State → Group → EOps → Nat → List Word) (s : State) (g : Group) (o : EOps) : List (Nat × Word) :=
  outsOf o (g.active sh o s.free) (f s g o)

/-- A lane instruction in its extended form, and in its base form. -/
def LaneE (mk : EOps → Instr) (sh : Shape) (f : State → Group → EOps → Nat → List Word) : Prop := WritesE mk sh (laneOutsE sh f)
def LaneB3 (mk : B3Ops → Instr) (op : Nat) (sh : Shape) (f : State → Group → EOps → Nat → List Word) : Prop :=
  WritesB3 mk op sh (laneOutsE sh f)

/-- A lane instruction of one word from the words A, B and C, in its extended form and in its base form. -/
def LaneE1 (mk : EOps → Instr) (sh : Shape) (f : EOps → Word → Word → Word → Word) : Prop :=
  LaneE mk sh (fun s g o l => [f o (g.a32 s.free o l) (g.b32 s.free o l) (g.c32 s.free o l)])
def LaneB1 (mk : B3Ops → Instr) (op : Nat) (sh : Shape) (f : EOps → Word → Word → Word → Word) : Prop :=
  LaneB3 mk op sh (fun s g o l => [f o (g.a32 s.free o l) (g.b32 s.free o l) (g.c32 s.free o l)])

/-- A uniform instruction of one word from the words A and B, in its extended form and in its base form. -/
def UniE1 (mk : EOps → Instr) (sh : Shape) (f : Word → Word → Word) : Prop :=
  WritesE mk sh (fun s g o => [(sKey o.d.toNat, f (g.s1 s.free o.a.toNat) (g.uB32 s.free o))])
def UniB1 (mk : B3Ops → Instr) (op : Nat) (sh : Shape) (f : Word → Word → Word) : Prop :=
  WritesB3 mk op sh (fun s g o => [(sKey o.d.toNat, f (g.s1 s.free o.a.toNat) (g.uB32 s.free o))])

/-- A pair of words, the low one first. -/
def wordsOf64 (d : Dword) : List Word := [d.setWidth 32, d.extractLsb' 32 32]

/-- The results of a uniform pair. -/
def uniPair (o : EOps) (d : Dword) : List (Nat × Word) := [(sKey o.d.toNat, d.setWidth 32), (sKey (o.d.toNat + 1), d.extractLsb' 32 32)]

end Sys2Proof.Machine
end

