-- ==== Sys2Proof/Certificates/Slice0/Obligations.lean ====
section
/-!
DEFINITION. The statements for the provers. Each cites the rule of spec/ that it formalises.
-/

open Sys2Proof Sys2Proof.Machine

/-! ### Uniform arithmetic (R238) -/

/-- R238: the sums and differences of the uniform path. -/
def Parts.UniformSums : Prop :=
  UniE1 .uadd shUadd (fun a b => a + b) ∧
  UniB1 .uaddB3 0x10 shUadd (fun a b => a + b) ∧
  UniE1 .uaddSub shUadd (fun a b => a - b) ∧
  UniB1 .uaddSubB3 0x10 shUadd (fun a b => a - b) ∧
  UniE1 .uaddSat shUadd (fun a b => BitVec.ofInt 32 (max (-2 ^ 31) (min (2 ^ 31 - 1) (a.toInt + b.toInt)))) ∧
  UniE1 .uaddSubSat shUadd (fun a b => BitVec.ofInt 32 (max (-2 ^ 31) (min (2 ^ 31 - 1) (a.toInt - b.toInt)))) ∧
  WritesE .uadd64 shUadd64 (fun s g o => uniPair o (g.s2 s.free o.a.toNat + g.uB64 s.free o)) ∧
  WritesE .uaddSub64 shUadd64 (fun s g o => uniPair o (g.s2 s.free o.a.toNat - g.uB64 s.free o))

/-- R238: products and bitwise logic of the uniform path, on registers and on uniform predicates. -/
def Parts.UniformProductsAndLogic : Prop :=
  UniE1 .umulLo shUadd (fun a b => a * b) ∧
  UniB1 .umulLoB3 0x11 shUadd (fun a b => a * b) ∧
  UniE1 .umulHi shUadd (fun a b => (a.signExtend 64 * b.signExtend 64).extractLsb' 32 32) ∧
  UniB1 .umulHiB3 0x11 shUadd (fun a b => (a.signExtend 64 * b.signExtend 64).extractLsb' 32 32) ∧
  UniE1 .umulHiu shUadd (fun a b => (a.setWidth 64 * b.setWidth 64).extractLsb' 32 32) ∧
  UniB1 .umulHiuB3 0x11 shUadd (fun a b => (a.setWidth 64 * b.setWidth 64).extractLsb' 32 32) ∧
  UniE1 .ulogAnd shUadd (fun a b => a &&& b) ∧
  UniB1 .ulogAndB3 0x12 shUadd (fun a b => a &&& b) ∧
  UniE1 .ulogOr shUadd (fun a b => a ||| b) ∧
  UniB1 .ulogOrB3 0x12 shUadd (fun a b => a ||| b) ∧
  UniE1 .ulogXor shUadd (fun a b => a ^^^ b) ∧
  UniB1 .ulogXorB3 0x12 shUadd (fun a b => a ^^^ b) ∧
  UniE1 .ulogAndn shUadd (fun a b => a &&& ~~~b) ∧
  UniB1 .ulogAndnB3 0x12 shUadd (fun a b => a &&& ~~~b) ∧
  DoesE .ulogKand (fun _ => {}) (fun _ => shUlogKand) (fun _ g o => g.putK o.d.toNat (g.rdk o.a.toNat && g.rdk o.b.toNat)) (fun _ _ _ => []) ∧
  DoesE .ulogKor (fun _ => {}) (fun _ => shUlogKand) (fun _ g o => g.putK o.d.toNat (g.rdk o.a.toNat || g.rdk o.b.toNat)) (fun _ _ _ => []) ∧
  DoesE .ulogKxor (fun _ => {}) (fun _ => shUlogKand) (fun _ g o => g.putK o.d.toNat (xor (g.rdk o.a.toNat) (g.rdk o.b.toNat))) (fun _ _ _ => []) ∧
  DoesE .ulogKandn (fun _ => {}) (fun _ => shUlogKand) (fun _ g o => g.putK o.d.toNat (g.rdk o.a.toNat && !g.rdk o.b.toNat)) (fun _ _ _ => [])

/-- R238: shifts, rotations, minima and maxima, and single-operand bit operations of the uniform path. -/
def Parts.UniformShiftsAndBits : Prop :=
  UniE1 .ushfShl shUadd (fun a b => a <<< b.toNat) ∧
  UniB1 .ushfShlB3 0x13 shUadd (fun a b => a <<< b.toNat) ∧
  UniE1 .ushfShr shUadd (fun a b => a >>> b.toNat) ∧
  UniB1 .ushfShrB3 0x13 shUadd (fun a b => a >>> b.toNat) ∧
  UniE1 .ushfSar shUadd (fun a b => a.sshiftRight b.toNat) ∧
  UniB1 .ushfSarB3 0x13 shUadd (fun a b => a.sshiftRight b.toNat) ∧
  UniE1 .ushfRot shUadd (fun a b => a.rotateLeft (b.toNat % 32)) ∧
  UniB1 .ushfRotB3 0x13 shUadd (fun a b => a.rotateLeft (b.toNat % 32)) ∧
  UniE1 .uminmaxMin shUadd (fun a b => if a.slt b then a else b) ∧
  UniE1 .uminmaxMax shUadd (fun a b => if a.slt b then b else a) ∧
  UniE1 .uminmaxMinu shUadd (fun a b => if a.ult b then a else b) ∧
  UniE1 .uminmaxMaxu shUadd (fun a b => if a.ult b then b else a) ∧
  UniE1 .ubitPopc shUbitPopc (fun a _ => BitVec.ofNat 32 ((List.range 32).countP (fun i => a.getLsbD i))) ∧
  UniE1 .ubitClz shUbitPopc (fun a _ => BitVec.ofNat 32 ((List.range 32).takeWhile (fun i => !a.getLsbD (31 - i))).length) ∧
  UniE1 .ubitCtz shUbitPopc (fun a _ => BitVec.ofNat 32 ((List.range 32).takeWhile (fun i => !a.getLsbD i)).length) ∧
  UniE1 .ubitBrev shUbitPopc (fun a _ => a.reverse)

/-- R238: UBIT.EXTR and UBIT.EXTRS for every position and length, and their result as a field of the operand. -/
def Parts.UniformFields : Prop :=
  UniE1 .ubitExtr shUadd (bitExtr false) ∧ UniE1 .ubitExtrs shUadd (bitExtr true) ∧
  (∀ a b : Word,
    let pos := b.toNat % 32
    let len := min (b.toNat / 256 % 64) (32 - pos)
    (∀ i < 32, (bitExtr false a b).getLsbD i = (decide (i < len) && a.getLsbD (pos + i))) ∧
    (∀ i < 32, (bitExtr true a b).getLsbD i = (if len = 0 then false else a.getLsbD (pos + min i (len - 1)))))

/-- The meaning of a comparison code of UCMP and ICMP (R238). -/
def ccHolds {w : Nat} (cc : CC) (a b : BitVec w) : Bool :=
  match cc with
  | .eq => decide (a = b)
  | .ne => decide (a ≠ b)
  | .lt => a.slt b
  | .le => a.sle b
  | .gt => b.slt a
  | .ge => b.sle a
  | .ltu => a.ult b
  | .leu => a.ule b
  | .gtu => b.ult a
  | .geu => b.ule a

/-- R238: comparison, select, moves and addresses of the uniform path. -/
def Parts.UniformCompareAndMove : Prop :=
  (∀ cc, DoesE (.ucmp cc) (fun _ => {}) (fun _ => shUcmp)
    (fun s g o => g.putK o.d.toNat (ccHolds cc (g.s1 s.free o.a.toNat) (g.uB32 s.free o))) (fun _ _ _ => [])) ∧
  WritesE .usel shUsel (fun s g o =>
    [(sKey o.d.toNat, if g.rdk o.c.toNat then g.s1 s.free o.a.toNat else g.uB32 s.free o)]) ∧
  WritesE .umov shUmov (fun s g o => [(sKey o.d.toNat, g.uA32 s.free o)]) ∧
  WritesB3 .umovB3 0x15 shUmov (fun s g o => [(sKey o.d.toNat, g.uA32 s.free o)]) ∧
  WritesE .umov64 shUmov64 (fun s g o => uniPair o (g.uA64 s.free o)) ∧
  WritesE .ulea shUlea (fun s g o =>
    uniPair o (g.s2 s.free o.a.toNat + ((g.uB32 s.free o).setWidth 64 <<< (o.x.toNat % 8)))) ∧
  WritesE .uleaS shUleaS (fun s g o =>
    uniPair o (g.s2 s.free o.a.toNat + ((g.uB32 s.free o).signExtend 64 <<< (o.x.toNat % 8))))

/-- R238, R530: UMOV.FIRST writes the lane register of the lowest lane of %em, or 0 when %em is 0; in a protected launch whose two
physical lanes differ it counts a mismatch and traps. -/
def Parts.UniformMoveFirst : Prop :=
  (∀ o s g c, Runs {} shUmovFirst o s g c → g.info.prot = false ∨ g.em = 0 →
    exec (.umovFirst o) s = .next (s.with (g.wrote c [(sKey o.d.toNat,
      match (List.range 16).find? (fun l => g.em.getLsbD l) with
      | some l => g.v1 s.free o.a.toNat l
      | none => 0)]))) ∧
  (∀ o s g c v, Runs {} shUmovFirst o s g c → g.info.prot = true →
    (List.range 16).find? (fun l => g.em.getLsbD l) = some v →
    (g.v1 s.free o.a.toNat (2 * v) = g.v1 s.free o.a.toNat (2 * v + 1) →
      exec (.umovFirst o) s = .next (s.with (g.wrote c [(sKey o.d.toNat, g.v1 s.free o.a.toNat (2 * v))]))) ∧
    (g.v1 s.free o.a.toNat (2 * v) ≠ g.v1 s.free o.a.toNat (2 * v + 1) →
      exec (.umovFirst o) s = .next ((s.mmcnt g.core 1).with
        (({ g with wait := .none } : Machine.Group).trapHere { cause := causeShadow, lanes := 1#16 <<< v }))))

/-! ### Lane integer arithmetic (R250 to R255) -/

/-- R250: the sums and differences of the lane path. -/
def Parts.LaneSums : Prop :=
  LaneE1 .iadd shIadd (fun _ a b _ => a + b) ∧
  LaneB1 .iaddB3 0x20 shIadd (fun _ a b _ => a + b) ∧
  LaneE1 .iaddSub shIadd (fun _ a b _ => a - b) ∧
  LaneB1 .iaddSubB3 0x20 shIadd (fun _ a b _ => a - b) ∧
  LaneE1 .iaddSat shIadd (fun _ a b _ => BitVec.ofInt 32 (max (-2 ^ 31) (min (2 ^ 31 - 1) (a.toInt + b.toInt)))) ∧
  LaneB1 .iaddSatB3 0x20 shIadd (fun _ a b _ => BitVec.ofInt 32 (max (-2 ^ 31) (min (2 ^ 31 - 1) (a.toInt + b.toInt)))) ∧
  LaneE1 .iaddSubSat shIadd (fun _ a b _ => BitVec.ofInt 32 (max (-2 ^ 31) (min (2 ^ 31 - 1) (a.toInt - b.toInt)))) ∧
  LaneB1 .iaddSubSatB3 0x20 shIadd (fun _ a b _ => BitVec.ofInt 32 (max (-2 ^ 31) (min (2 ^ 31 - 1) (a.toInt - b.toInt)))) ∧
  LaneE1 .iaddSatu shIadd (fun _ a b _ => BitVec.ofNat 32 (min (2 ^ 32 - 1) (a.toNat + b.toNat))) ∧
  LaneE1 .iaddSubSatu shIadd (fun _ a b _ => BitVec.ofNat 32 (a.toNat - b.toNat)) ∧
  LaneE .iadd64 shIadd64 (fun s g o l => wordsOf64 (g.a64 s.free o l + g.b64 s.free o l)) ∧
  LaneE .iaddSub64 shIadd64 (fun s g o l => wordsOf64 (g.a64 s.free o l - g.b64 s.free o l))

/-- R250: products and multiply-adds of the lane path. -/
def Parts.LaneProducts : Prop :=
  LaneE1 .imulLo shIadd (fun _ a b _ => a * b) ∧
  LaneB1 .imulLoB3 0x21 shIadd (fun _ a b _ => a * b) ∧
  LaneE1 .imulHi shIadd (fun _ a b _ => (a.signExtend 64 * b.signExtend 64).extractLsb' 32 32) ∧
  LaneB1 .imulHiB3 0x21 shIadd (fun _ a b _ => (a.signExtend 64 * b.signExtend 64).extractLsb' 32 32) ∧
  LaneE1 .imulHiu shIadd (fun _ a b _ => (a.setWidth 64 * b.setWidth 64).extractLsb' 32 32) ∧
  LaneB1 .imulHiuB3 0x21 shIadd (fun _ a b _ => (a.setWidth 64 * b.setWidth 64).extractLsb' 32 32) ∧
  LaneE .imulWide shImulWide (fun s g o l => wordsOf64 ((g.a32 s.free o l).signExtend 64 * (g.b32 s.free o l).signExtend 64)) ∧
  LaneE .imulWideu shImulWide (fun s g o l => wordsOf64 ((g.a32 s.free o l).setWidth 64 * (g.b32 s.free o l).setWidth 64)) ∧
  LaneE1 .imadLo shImadLo (fun _ a b c => a * b + c) ∧
  LaneE .imadWide shImadWide (fun s g o l =>
    wordsOf64 ((g.a32 s.free o l).signExtend 64 * (g.b32 s.free o l).signExtend 64 + g.c64 s.free o l)) ∧
  LaneE .imadWideu shImadWide (fun s g o l =>
    wordsOf64 ((g.a32 s.free o l).setWidth 64 * (g.b32 s.free o l).setWidth 64 + g.c64 s.free o l))

/-- R250: bitwise logic of the lane path; ILOG.LUT takes bit i of its result from X by the three source bits. -/
def Parts.LaneLogic : Prop :=
  LaneE1 .ilogAnd shIadd (fun _ a b _ => a &&& b) ∧
  LaneB1 .ilogAndB3 0x23 shIadd (fun _ a b _ => a &&& b) ∧
  LaneE1 .ilogOr shIadd (fun _ a b _ => a ||| b) ∧
  LaneB1 .ilogOrB3 0x23 shIadd (fun _ a b _ => a ||| b) ∧
  LaneE1 .ilogXor shIadd (fun _ a b _ => a ^^^ b) ∧
  LaneB1 .ilogXorB3 0x23 shIadd (fun _ a b _ => a ^^^ b) ∧
  LaneE1 .ilogAndn shIadd (fun _ a b _ => a &&& ~~~b) ∧
  LaneB1 .ilogAndnB3 0x23 shIadd (fun _ a b _ => a &&& ~~~b) ∧
  LaneE1 .ilogLut shIlogLut (fun o a b c => lut o.x a b c) ∧
  (∀ (x a b c : Word), ∀ i < 32,
    (lut x a b c).getLsbD i = x.getLsbD (4 * (a.getLsbD i).toNat + 2 * (b.getLsbD i).toNat + (c.getLsbD i).toNat))

/-- R250: shifts and rotations of the lane path; a count of the width or more shifts everything out. -/
def Parts.LaneShifts : Prop :=
  LaneE1 .ishfShl shIadd (fun _ a b _ => a <<< b.toNat) ∧
  LaneB1 .ishfShlB3 0x24 shIadd (fun _ a b _ => a <<< b.toNat) ∧
  LaneE1 .ishfShr shIadd (fun _ a b _ => a >>> b.toNat) ∧
  LaneB1 .ishfShrB3 0x24 shIadd (fun _ a b _ => a >>> b.toNat) ∧
  LaneE1 .ishfSar shIadd (fun _ a b _ => a.sshiftRight b.toNat) ∧
  LaneB1 .ishfSarB3 0x24 shIadd (fun _ a b _ => a.sshiftRight b.toNat) ∧
  LaneE1 .ishfRot shIadd (fun _ a b _ => a.rotateLeft (b.toNat % 32)) ∧
  LaneB1 .ishfRotB3 0x24 shIadd (fun _ a b _ => a.rotateLeft (b.toNat % 32)) ∧
  LaneE .ishfShl64 shIshfShl64 (fun s g o l => wordsOf64 (g.a64 s.free o l <<< (g.b32 s.free o l).toNat)) ∧
  LaneE .ishfShr64 shIshfShl64 (fun s g o l => wordsOf64 (g.a64 s.free o l >>> (g.b32 s.free o l).toNat)) ∧
  LaneE .ishfSar64 shIshfShl64 (fun s g o l => wordsOf64 ((g.a64 s.free o l).sshiftRight (g.b32 s.free o l).toNat))

/-- R250: minima, maxima, absolute values, bit counts and fields of the lane path. -/
def Parts.LaneMinMaxAndBits : Prop :=
  LaneE1 .iminmaxMin shIadd (fun _ a b _ => if a.slt b then a else b) ∧
  LaneE1 .iminmaxMax shIadd (fun _ a b _ => if a.slt b then b else a) ∧
  LaneE1 .iminmaxMinu shIadd (fun _ a b _ => if a.ult b then a else b) ∧
  LaneE1 .iminmaxMaxu shIadd (fun _ a b _ => if a.ult b then b else a) ∧
  LaneE1 .iminmaxAbs shIminmaxAbs (fun _ a _ _ => if a.slt 0 then -a else a) ∧
  LaneE1 .iminmaxAbsSat shIminmaxAbs (fun _ a _ _ => if a = 0x80000000#32 then 0x7FFFFFFF#32 else if a.slt 0 then -a else a) ∧
  LaneE1 .ibitPopc shIminmaxAbs (fun _ a _ _ => BitVec.ofNat 32 ((List.range 32).countP (fun i => a.getLsbD i))) ∧
  LaneE1 .ibitClz shIminmaxAbs (fun _ a _ _ =>
    BitVec.ofNat 32 ((List.range 32).takeWhile (fun i => !a.getLsbD (31 - i))).length) ∧
  LaneE1 .ibitCtz shIminmaxAbs (fun _ a _ _ => BitVec.ofNat 32 ((List.range 32).takeWhile (fun i => !a.getLsbD i)).length) ∧
  LaneE1 .ibitBrev shIminmaxAbs (fun _ a _ _ => a.reverse) ∧
  LaneE1 .ibitExtr shIadd (fun _ a b _ => bitExtr false a b) ∧
  LaneE1 .ibitExtrs shIadd (fun _ a b _ => bitExtr true a b) ∧
  LaneE1 .ibitIns shImadLo (fun _ a b c => bitIns a b c) ∧
  (∀ a b c : Word,
    let pos := b.toNat % 32
    let len := min (b.toNat / 256 % 64) (32 - pos)
    ∀ i < 32, (bitIns a b c).getLsbD i = (if pos ≤ i ∧ i < pos + len then c.getLsbD (i - pos) else a.getLsbD i))

/-- R250: comparisons, selects, addresses and moves of the lane path. -/
def Parts.LaneCompareAndMove : Prop :=
  (∀ cc, WritesE (.icmp cc) shIcmp (fun s g o => g.qOut o.d.toNat (g.active shIcmp o s.free)
    (maskOf (fun l => ccHolds cc (g.a32 s.free o l) (g.b32 s.free o l))))) ∧
  (∀ cc, WritesE (.icmp64 cc) shIcmp64 (fun s g o => g.qOut o.d.toNat (g.active shIcmp64 o s.free)
    (maskOf (fun l => ccHolds cc (g.a64 s.free o l) (g.b64 s.free o l))))) ∧
  LaneE .isel shIsel (fun s g o l => [if (g.rdq s.free o.c.toNat).getLsbD l then g.a32 s.free o l else g.b32 s.free o l]) ∧
  LaneE .isel64 shIsel64 (fun s g o l =>
    wordsOf64 (if (g.rdq s.free o.c.toNat).getLsbD l then g.a64 s.free o l else g.b64 s.free o l)) ∧
  LaneE .lea shLea (fun s g o l => wordsOf64 (g.a64 s.free o l + ((g.b32 s.free o l).setWidth 64 <<< (o.x.toNat % 8)))) ∧
  LaneE .leaS shLea (fun s g o l => wordsOf64 (g.a64 s.free o l + ((g.b32 s.free o l).signExtend 64 <<< (o.x.toNat % 8)))) ∧
  LaneE .mov shMov (fun s g o l => [g.la32 s.free o l]) ∧
  LaneB3 .movB3 0x2B shMov (fun s g o l => [g.la32 s.free o l]) ∧
  LaneE .mov64 shMov64 (fun s g o l => wordsOf64 (g.la64 s.free o l))

/-- The signed and the unsigned clamp to a width (R9). -/
def clampS (w : Nat) (n : Int) : Int := if n < -2 ^ (w - 1) then -2 ^ (w - 1) else if 2 ^ (w - 1) - 1 < n then 2 ^ (w - 1) - 1 else n
def clampU (w : Nat) (n : Int) : Int := if n < 0 then 0 else if 2 ^ w - 1 < n then 2 ^ w - 1 else n

/-- R251: the integer conversions of the lane path. -/
def Parts.LaneIntegerConversions : Prop :=
  LaneE1 (.icvtSext .w8) shIminmaxAbs (fun _ a _ _ => (a.extractLsb' 0 8).signExtend 32) ∧
  LaneE1 (.icvtSext .w16) shIminmaxAbs (fun _ a _ _ => (a.extractLsb' 0 16).signExtend 32) ∧
  LaneE1 (.icvtZext .w8) shIminmaxAbs (fun _ a _ _ => a &&& 0xFF) ∧
  LaneE1 (.icvtZext .w16) shIminmaxAbs (fun _ a _ _ => a &&& 0xFFFF) ∧
  LaneE1 (.icvtSatS .w8) shIminmaxAbs (fun _ a _ _ => BitVec.ofInt 32 (clampS 8 a.toInt)) ∧
  LaneE1 (.icvtSatS .w16) shIminmaxAbs (fun _ a _ _ => BitVec.ofInt 32 (clampS 16 a.toInt)) ∧
  LaneE1 (.icvtSatU .w8) shIminmaxAbs (fun _ a _ _ => BitVec.ofInt 32 (clampU 8 a.toInt)) ∧
  LaneE1 (.icvtSatU .w16) shIminmaxAbs (fun _ a _ _ => BitVec.ofInt 32 (clampU 16 a.toInt)) ∧
  LaneE .icvtSext64 shIcvtSext64 (fun s g o l => wordsOf64 ((g.a32 s.free o l).signExtend 64)) ∧
  LaneE .icvtZext64 shIcvtSext64 (fun s g o l => wordsOf64 ((g.a32 s.free o l).setWidth 64)) ∧
  LaneE .icvtSatS32 shIcvtSatS32 (fun s g o l => [BitVec.ofInt 32 (clampS 32 (g.a64 s.free o l).toInt)]) ∧
  LaneE .icvtSatU32 shIcvtSatS32 (fun s g o l => [BitVec.ofInt 32 (clampU 32 (g.a64 s.free o l).toInt)])

/-- What XSET puts into an index register of lane `l`: a literal, or the low half of register A (R254). -/
def xsetValue (s : State) (g : Machine.Group) (o : EOps) (l : Nat) : Half :=
  match o.lit with
  | some w => w.setWidth 16
  | none => (g.v1 s.free o.a.toNat l).setWidth 16

/-- R254: the index registers are written and read in each lane that the instruction acts on; XSET.ADD adds modulo 2^16; a number of
an index register above 3, and a literal beside a register or above 16 bits, raise ILLEGAL_OP. -/
def Obligations.IndexRegisters : Prop :=
  DoesE .xset (fun _ => {}) (fun _ => shXset) (fun s g o => (lanesOf (g.active shXset o s.free)).foldl
    (fun g' l => g'.putX o.d.toNat l (xsetValue s g o l)) g) (fun _ _ _ => []) ∧
  DoesE .xsetAdd (fun _ => {}) (fun _ => shXset) (fun s g o => (lanesOf (g.active shXset o s.free)).foldl
    (fun g' l => g'.putX o.d.toNat l (g.xr o.d.toNat l + xsetValue s g o l)) g) (fun _ _ _ => []) ∧
  LaneE .xget shXget (fun _ g o l => [(g.xr o.a.toNat l).setWidth 32]) ∧
  (∀ o s g c, Issues s g c →
    (4 ≤ o.d.toNat ∨ (∃ w, o.lit = some w ∧ (o.a ≠ 0 ∨ 65536 ≤ w.toNat)) →
      exec (.xset o) s = .next (s.with (({ g with wait := .none } : Machine.Group).trapEm causeIllegal)) ∧
      exec (.xsetAdd o) s = .next (s.with (({ g with wait := .none } : Machine.Group).trapEm causeIllegal))) ∧
    (4 ≤ o.a.toNat → exec (.xget o) s = .next (s.with (({ g with wait := .none } : Machine.Group).trapEm causeIllegal))))

/-- R253: MOVX.LD reads, and MOVX.ST writes, the lane register that each lane's index and the base name, where no long-latency write
to a register that a lane reaches is pending (R106, R107: for MOVX.LD its own check of races says it); if the index of a lane is not below N32, the instruction moves nothing and
raises REG_BOUND with the failing lanes. -/
def Obligations.IndexedMoves : Prop :=
  (∀ o s g c, Runs (movxChecks false shMovxLd o {}) shMovxLd o s g c →
    let m := g.active shMovxLd o s.free
    let idx := fun (l : Nat) => (g.xr (o.x.toNat % 4) l).toNat + o.a.toNat
    ((∀ l < 16, m.getLsbD l = true → idx l < g.info.n32) →
      exec (.movxLd o) s = .next (s.with (g.wrote c ((lanesOf m).map (fun l => (vKey o.d.toNat l, g.v1 s.free (idx l) l)))))) ∧
    (∀ l < 16, m.getLsbD l = true → g.info.n32 ≤ idx l →
      exec (.movxLd o) s = .next (s.with (({ g with wait := .none } : Machine.Group).trapHere {
        cause := causeRegBound, lanes := g.fold (maskOf (fun l => m.getLsbD l && decide (g.info.n32 ≤ idx l))) })))) ∧
  (∀ o s g c, Runs {} shMovxSt o s g c →
    let m := g.active shMovxSt o s.free
    let idx := fun (l : Nat) => (g.xr (o.x.toNat % 4) l).toNat + o.d.toNat
    ((∀ l < 16, m.getLsbD l = true → idx l < g.info.n32) →
      (g.interlocked ((lanesOf m).map (fun l => .v (idx l))) = false →
        exec (.movxSt o) s = .next (s.with (g.wrote c ((lanesOf m).map (fun l => (vKey (idx l) l, g.v1 s.free o.a.toNat l)))))) ∧
      (g.interlocked ((lanesOf m).map (fun l => .v (idx l))) = true →
        exec (.movxSt o) s = .next (s.with { g with wait := .suspended }))) ∧
    (∀ l < 16, m.getLsbD l = true → g.info.n32 ≤ idx l →
      exec (.movxSt o) s = .next (s.with (({ g with wait := .none } : Machine.Group).trapHere {
        cause := causeRegBound, lanes := g.fold (maskOf (fun l => m.getLsbD l && decide (g.info.n32 ≤ idx l))) }))))

/-- The lane that lane `l` of SHFL reads, of `n` lanes (R255); none where the source does not exist. -/
def shuffled (kind : Nat) (n l b : Nat) : Option Nat :=
  match kind with
  | 0 => some (b % n)
  | 1 => if b ≤ l then some (l - b) else none
  | 2 => if l + b < n then some (l + b) else none
  | _ => some (l ^^^ (b % n))

/-- The physical lane that physical lane `l` reads: in a protected launch the one of its own place in the source's pair (R529). -/
def shuffledLane (g : Machine.Group) (kind l b : Nat) : Nat :=
  if g.info.prot then
    match shuffled kind 8 (l / 2) b with
    | some v => 2 * v + l % 2
    | none => l
  else (shuffled kind 16 l b).getD l

/-- R255: SHFL reads register A of the source lane, whether that lane is active or not, or of its own lane where the source does not
exist. -/
def Obligations.LaneExchange : Prop :=
  ∀ o s g c,
    let res := fun (kind : Nat) => laneOutsE shShflIdx
      (fun s g o l => [g.v1 s.free o.a.toNat (shuffledLane g kind l (g.b32 s.free o l).toNat)]) s g o
    let runs := fun (kind : Nat) => Runs { race := some (shflRace kind shShflIdx o) } shShflIdx o s g c
    (runs 0 → exec (.shflIdx o) s = .next (s.with (g.wrote c (res 0)))) ∧
    (runs 1 → exec (.shflUp o) s = .next (s.with (g.wrote c (res 1)))) ∧
    (runs 2 → exec (.shflDown o) s = .next (s.with (g.wrote c (res 2)))) ∧
    (runs 3 → exec (.shflXor o) s = .next (s.with (g.wrote c (res 3))))

/-! ### Control flow, traps, masks and special registers (chapters 3, 4 and 8) -/

/-- The instruction sends control to `t` after register results `outs` and calls for 4-byte alignment first (R86). -/
def JumpsTo (i : Instr) (s : State) (g : Machine.Group) (c : Clause) (t : Dword) : Prop :=
  (t.toNat % 4 = 0 → exec i s = .next (s.with (g.jumped c [] t))) ∧
  (t.toNat % 4 ≠ 0 → exec i s = .next (s.with (({ g with wait := .none } : Machine.Group).trapHere
    { cause := causeAlign, addr := t, lanes := g.em })))

/-- The same for a call, which writes the address after its clause to s510 and stays in its 4 GiB half (R231). -/
def CallsTo (i : Instr) (s : State) (g : Machine.Group) (c : Clause) (t : Dword) : Prop :=
  (t.toNat % 4 = 0 → c.after.extractLsb' 32 32 = t.extractLsb' 32 32 →
    exec i s = .next (s.with (g.jumped c [(sKey 510, c.after.setWidth 32)] t))) ∧
  (t.toNat % 4 = 0 → c.after.extractLsb' 32 32 ≠ t.extractLsb' 32 32 →
    exec i s = .next (s.with (({ g with wait := .none } : Machine.Group).trapHere
      { cause := causeAccess, addr := t, lanes := g.em }))) ∧
  (t.toNat % 4 ≠ 0 → exec i s = .next (s.with (({ g with wait := .none } : Machine.Group).trapHere
    { cause := causeAlign, addr := t, lanes := g.em })))

/-- The checks of the BJ form (R91): a reserved CND, and an OFF beside a literal, are no instruction. -/
def bjChecks (ck : Checks) (cnd : BitVec 4) (off : BitVec 19) (lit : Bool) : Checks :=
  { ck with illegal := fun _ _ => cnd == 8 || (lit && off != 0) }

/-- The shape of the BJ form: no operand field, no predicate. -/
def bjShape : Shape := { shBj with qs := .none }

/-- R86, R91, R230: the branches go to their target where their condition holds, and only to the next clause where it does not. -/
def Parts.BranchTargets : Prop :=
  (∀ o s g c, Runs {} shBra o s g c → JumpsTo (.bra o) s g c (match o.lit with
    | some w => w
    | none => c.here + 4 * o.x.signExtend 64)) ∧
  (∀ cnd off s g c, Runs (bjChecks {} cnd off false) bjShape {} s g c →
    (cndHolds g cnd = true → JumpsTo (.braBj cnd off) s g c (c.here + 4 * off.signExtend 64)) ∧
    (cndHolds g cnd = false → exec (.braBj cnd off) s = .next (s.with (g.wrote c [])))) ∧
  (∀ cnd off lit s g c, Runs (bjChecks {} cnd off true) bjShape {} s g c →
    (cndHolds g cnd = true → JumpsTo (.braBjLiteral cnd off lit) s g c lit) ∧
    (cndHolds g cnd = false → exec (.braBjLiteral cnd off lit) s = .next (s.with (g.wrote c [])))) ∧
  (∀ o s g c, Runs {} shBrx o s g c → JumpsTo (.brx o) s g c (g.s2 s.free o.a.toNat)) ∧
  (∀ o s g c, Runs {} shBrxIdx o s g c →
    JumpsTo (.brxIdx o) s g c (g.s2 s.free o.a.toNat + 4 * (g.uB32 s.free o).setWidth 64)) ∧
  (∀ g : Machine.Group, cndHolds g 0 = true ∧
    ∀ n : Nat, 1 ≤ n → n < 8 → (cndHolds g (BitVec.ofNat 4 n) = g.rdk n ∧ cndHolds g (BitVec.ofNat 4 (n + 8)) = !g.rdk n))

/-- R231: the calls write the return address to s510 and go to their target; R230: the returns go to the address that s510 and the
upper half of the PC make. -/
def Parts.CallsAndReturns : Prop :=
  (∀ o s g c, Runs (Checks.calls {}) shBra o s g c → CallsTo (.call o) s g c (match o.lit with
    | some w => w
    | none => c.here + 4 * o.x.signExtend 64)) ∧
  (∀ cnd off s g c, Runs (bjChecks (Checks.calls {}) cnd off false) bjShape {} s g c →
    (cndHolds g cnd = true → CallsTo (.callBj cnd off) s g c (c.here + 4 * off.signExtend 64)) ∧
    (cndHolds g cnd = false → exec (.callBj cnd off) s = .next (s.with (g.wrote c [])))) ∧
  (∀ cnd off lit s g c, Runs (bjChecks (Checks.calls {}) cnd off true) bjShape {} s g c →
    (cndHolds g cnd = true → CallsTo (.callBjLiteral cnd off lit) s g c lit) ∧
    (cndHolds g cnd = false → exec (.callBjLiteral cnd off lit) s = .next (s.with (g.wrote c [])))) ∧
  (∀ o s g c, Runs (Checks.returns {}) shRet o s g c →
    JumpsTo (.ret o) s g c (c.here.extractLsb' 32 32 ++ g.s1 s.free 510)) ∧
  (∀ o s g c, Runs (Checks.returns (b3Checks 0x04 shRet o)) shRet (b3AsE 0x04 shRet o) s g c →
    JumpsTo (.retB3 o) s g c (c.here.extractLsb' 32 32 ++ g.s1 s.free 510))

/-- R232: YIELD marks the group's slot as yielding and does nothing else; TRAP raises SOFTWARE with its code. -/
def Parts.YieldAndTrap : Prop :=
  (∀ o s g c, Runs {} shRet o s g c → exec (.yield o) s = .next ((s.putQuarter g.core (g.slot / 64)
    { s.quarter g.core (g.slot / 64) with yielding := (s.quarter g.core (g.slot / 64)).yielding.put (g.slot % 64) true }).with
      (g.wrote c []))) ∧
  (∀ o s g c, Runs (b3Checks 0x0C shRet o) shRet (b3AsE 0x0C shRet o) s g c →
    exec (.yieldB3 o) s = .next ((s.putQuarter g.core (g.slot / 64)
      { s.quarter g.core (g.slot / 64) with yielding := (s.quarter g.core (g.slot / 64)).yielding.put (g.slot % 64) true }).with
        (g.wrote c []))) ∧
  (∀ o s g c, Runs {} shTrap o s g c → exec (.trap o) s = .next (s.with (({ g with wait := .none } : Machine.Group).trapHere
    { cause := causeSoftware, sub := o.x.toNat % 256, lanes := g.em })))

/-- R223: TRET clears H; with no pending cause it goes back to %tpc, in the saved clause where %tpc is an instruction boundary of it
that has not been passed, and else at the start of a clause. Outside a handler it is no instruction. -/
def Parts.TrapReturn : Prop :=
  (∀ o s g c, Runs {} shRet o s g c → g.trap.h = true → g.trap.pending = [] →
    exec (.tret o) s = .next (s.with { g.wrote { c with tmask := 0 } [] with
      trap := { g.trap with h := false, saved := none }
      pc := g.trap.tpc
      clause := g.trap.saved.bind (fun k => (k.indexOf g.trap.tpc).map (fun i => { k with idx := i })) })) ∧
  (∀ o s g c, Runs (b3Checks 0x0B shRet o) shRet (b3AsE 0x0B shRet o) s g c → g.trap.h = true → g.trap.pending = [] →
    exec (.tretB3 o) s = .next (s.with { g.wrote { c with tmask := 0 } [] with
      trap := { g.trap with h := false, saved := none }
      pc := g.trap.tpc
      clause := g.trap.saved.bind (fun k => (k.indexOf g.trap.tpc).map (fun i => { k with idx := i })) })) ∧
  (∀ o s g c, Runs {} shRet o s g c → g.trap.h = false →
    exec (.tret o) s = .next (s.with (({ g with wait := .none } : Machine.Group).trapHere { cause := causeIllegal, lanes := g.em }))) ∧
  (∀ o s g c, Runs (b3Checks 0x0B shRet o) shRet (b3AsE 0x0B shRet o) s g c → g.trap.h = false →
    exec (.tretB3 o) s = .next (s.with (({ g with wait := .none } : Machine.Group).trapHere { cause := causeIllegal, lanes := g.em })))

/-- R223: a cause that is pending when TRET runs is delivered at once: the lowest class first, with %tpc and the saved clause as they
were, the asynchronous bit of %tcause set, and control at %tba. -/
def Parts.TrapReturnDelivers : Prop :=
  ∀ o s g c k t rest, Runs {} shRet o s g c → g.trap.h = true → g.trap.pending = (k, t) :: rest → g.trap.tba ≠ 0 →
    ∃ g' : Machine.Group, exec (.tret o) s = .next (s.with g') ∧
      g'.trap.h = true ∧ g'.trap.tpc = g.trap.tpc ∧ g'.trap.saved = g.trap.saved ∧ g'.pc = g.trap.tba ∧ g'.clause = none ∧
      g'.trap.tcause = BitVec.ofNat 32 (65536 + t.sub % 256 * 256 + t.cause % 256) ∧ g'.trap.taddr = t.addr ∧
      g'.trap.tmask = t.lanes ∧ g'.trap.pending = g.trap.pending.del k

/-- R220: a trap at an instruction of an open clause outside a handler saves its address in %tpc and the clause context, records the
cause, the address and the lanes, sets H, closes the region, writes the whole window to the register file, and starts
the handler at %tba; no other register changes. -/
def Parts.TrapEntry : Prop :=
  ∀ (g : Machine.Group) (c : Clause) (t : Trap), g.clause = some c → g.trap.h = false → g.trap.tba ≠ 0 →
    g.trapHere t = { g with
      regs := g.flushWindow.regs
      q := g.flushWindow.q
      ecc := g.flushWindow.ecc
      tally := g.flushWindow.tally
      window := []
      pc := g.trap.tba
      clause := none
      wait := .none
      region := { g.region with opened := false }
      trap := { g.trap with
        h := true
        saved := some c
        tpc := c.here
        tcause := BitVec.ofNat 32 (t.sub % 256 * 256 + t.cause % 256)
        taddr := t.addr
        tmask := t.lanes } }

/-- R221, R222: a synchronous trap inside a handler halts the group with DOUBLE_FAULT and the second cause; with %tba zero, a trap
halts the group with its own cause. A halted group keeps its trap registers. -/
def Parts.TrapHalts : Prop :=
  ∀ (g : Machine.Group) (t : Trap),
    (g.trap.h = true → (g.trapHere t).run = .halted 0x18 t.cause ∧ (g.trapHere t).trap = g.trap) ∧
    (g.trap.h = false → g.trap.tba = 0 → (g.trapHere t).run = .halted t.cause t.sub ∧ (g.trapHere t).trap = g.trap)

/-- R218, R219: an asynchronous cause fills the pending register of its class; where that is full, it is discarded and OVERRUN is
set in %err; the registers of a halted group do not change. -/
def Obligations.PendingCauses : Prop :=
  ∀ (g : Machine.Group) (t : Trap),
    (g.run = .running → g.trap.pending.get? (trapClass t.cause) = none →
      g.post t = { g with trap := { g.trap with pending := g.trap.pending.put (trapClass t.cause) t } }) ∧
    (g.run = .running → g.trap.pending.get? (trapClass t.cause) ≠ none →
      g.post t = { g with trap := { g.trap with err := g.trap.err ||| 0x10000#32 } }) ∧
    (g.run ≠ .running → g.post t = g) ∧
    (∀ cause ∈ ([0x0C, 0x0D] : List Nat), trapClass cause = 1) ∧
    (∀ cause ∈ ([0x10, 0x11, 0x12, 0x13] : List Nat), trapClass cause = 2) ∧
    (∀ cause ∈ ([0x0F, 0x14, 0x15, 0x16] : List Nat), trapClass cause = 3)

/-- The value that %em takes (R233, R529). -/
def emOf (g : Machine.Group) (v : Half) : Half := if g.info.prot then v &&& 0xFF else v

/-- R233: the MASK instructions write %em, save both halves, and set the uniform predicate that X names. -/
def Parts.MaskInstructions : Prop :=
  DoesE .maskSet (fun _ => {}) (fun _ => shMaskSet) (fun s g o => { g with em := emOf g ((g.uA32 s.free o).setWidth 16) }) (fun _ _ _ => []) ∧
  WritesE .maskGet shMaskGet (fun _ g o => [(sKey o.d.toNat, g.em.setWidth 32)]) ∧
  (∀ o s g c, Runs {} shMaskIf o s g c → qDiffer g s.free o = 0 →
    let yes := g.em &&& qVote g s.free o
    exec (.maskIf o) s = .next (s.with ((({ g with em := emOf g yes } : Machine.Group).putK (o.x.toNat % 8) (yes != 0)).wrote c
      [(sKey o.d.toNat, (g.em &&& ~~~(qVote g s.free o)) ++ g.em)]))) ∧
  DoesE .maskElse (fun _ => {}) (fun _ => shMaskElse) (fun s g o =>
    ({ g with em := emOf g ((g.s1 s.free o.a.toNat).extractLsb' 16 16) } : Machine.Group).putK (o.x.toNat % 8)
      (emOf g ((g.s1 s.free o.a.toNat).extractLsb' 16 16) != 0)) (fun _ _ _ => []) ∧
  DoesE .maskEnd (fun _ => {}) (fun _ => shMaskEnd) (fun s g o => { g with em := emOf g ((g.s1 s.free o.a.toNat).setWidth 16) })
    (fun _ _ _ => []) ∧
  (∀ (g : Machine.Group) free (o : EOps), g.info.prot = false → qDiffer g free o = 0 ∧
    qVote g free o = if o.hint.getLsbD 0 then ~~~(g.rdq free o.a.toNat) else g.rdq free o.a.toNat)

/-- The visible lanes of %em whose two physical lanes hold different values of register A (R530). -/
def uniDiffer (s : State) (g : Machine.Group) (o : EOps) : Half :=
  g.mismatch g.em (fun v => g.v1 s.free o.a.toNat (2 * v) != g.v1 s.free o.a.toNat (2 * v + 1))

/-- R234: the votes over the lanes of %em. -/
def Parts.VoteInstructions : Prop :=
  (∀ o s g c, Runs {} shVoteAny o s g c → qDiffer g s.free o = 0 →
    exec (.voteAny o) s = .next (s.with ((g.putK o.d.toNat (decide (g.em &&& qVote g s.free o ≠ 0))).wrote c [])) ∧
    exec (.voteAll o) s = .next (s.with ((g.putK o.d.toNat (decide (g.em &&& ~~~(qVote g s.free o) = 0))).wrote c []))) ∧
  (∀ o s g c, Runs {} shVoteBal o s g c → qDiffer g s.free o = 0 →
    exec (.voteBal o) s = .next (s.with (g.wrote c [(sKey o.d.toNat, (g.em &&& qVote g s.free o).setWidth 32)])) ∧
    exec (.voteCnt o) s = .next (s.with (g.wrote c [(sKey o.d.toNat,
      BitVec.ofNat 32 ((List.range 32).countP (fun i => ((g.em &&& qVote g s.free o).setWidth 32).getLsbD i)))]))) ∧
  (∀ o s g c, Runs {} shVoteUni o s g c → uniDiffer s g o = 0 →
    exec (.voteUni o) s = .next (s.with ((g.putK o.d.toNat (decide (∀ l ∈ lanesOf g.emPhys, ∀ m ∈ lanesOf g.emPhys,
      g.v1 s.free o.a.toNat l = g.v1 s.free o.a.toNat m))).wrote c [])))

/-- SHADOW_MISMATCH: counted, with the visible lanes that differ and an address (R531). -/
def shadowTrap (s : State) (g : Machine.Group) (lanes : Half) (addr : Nat → Dword) : State :=
  (s.mmcnt g.core 1).with (({ g with wait := .none } : Machine.Group).trapHere
    { cause := causeShadow, lanes := lanes, addr := addr ((lanesOf lanes).headD 0) })

/-- The visible lanes of a mask of physical lanes whose addresses differ. -/
def addressesDiffer (s : State) (g : Machine.Group) (o : EOps) (m : Half) : Half := g.mismatch (g.fold m) (vaDiffer g s.free o)

/-- R529 to R531: of a protected launch's visible lanes, those of the mask whose two physical lanes differ disagree, and no others;
where some do, an instruction that would take the lanes' value out of them raises SHADOW_MISMATCH before anything else. -/
def Parts.ShadowMismatches : Prop :=
  (∀ (g : Machine.Group) (m : Half) (d : Nat → Bool) (v : Nat), v < 16 →
    (g.mismatch m d).getLsbD v = (g.info.prot && decide (v < 8) && m.getLsbD v && d v)) ∧
  (∀ (g : Machine.Group) (m : Half) (l : Nat), l < 16 →
    (g.spread m).getLsbD l = (if g.info.prot then m.getLsbD (l / 2) else m.getLsbD l)) ∧
  (∀ (g : Machine.Group) (m : Half) (v : Nat), v < 16 →
    (g.fold m).getLsbD v = (if g.info.prot then decide (v < 8) && m.getLsbD (2 * v) else m.getLsbD v)) ∧
  (∀ o s g c, Runs {} shMaskIf o s g c → qDiffer g s.free o ≠ 0 →
    exec (.maskIf o) s = .next (shadowTrap s g (qDiffer g s.free o) (fun _ => 0))) ∧
  (∀ o s g c, Runs {} shVoteAny o s g c → qDiffer g s.free o ≠ 0 →
    exec (.voteAny o) s = .next (shadowTrap s g (qDiffer g s.free o) (fun _ => 0)) ∧
    exec (.voteAll o) s = .next (shadowTrap s g (qDiffer g s.free o) (fun _ => 0))) ∧
  (∀ o s g c, Runs {} shVoteBal o s g c → qDiffer g s.free o ≠ 0 →
    exec (.voteBal o) s = .next (shadowTrap s g (qDiffer g s.free o) (fun _ => 0)) ∧
    exec (.voteCnt o) s = .next (shadowTrap s g (qDiffer g s.free o) (fun _ => 0))) ∧
  (∀ o s g c, Runs {} shVoteUni o s g c → uniDiffer s g o ≠ 0 →
    exec (.voteUni o) s = .next (shadowTrap s g (uniDiffer s g o) (fun _ => 0))) ∧
  (∀ (sz : LdSz) o s g c, Runs {} (shLd sz) o s g c → addressesDiffer s g o (g.active (shLd sz) o s.free) ≠ 0 →
    exec (.ld sz o) s = .next (shadowTrap s g (addressesDiffer s g o (g.active (shLd sz) o s.free)) (fun v => laneVa g s.free o (2 * v)))) ∧
  (∀ (sz : StSz) o s g c, Runs {} (shSt sz) o s g c →
    let d := g.mismatch (g.fold (g.active (shSt sz) o s.free))
      (fun v => vaDiffer g s.free o v || dataB g s.free o sz.bytes (2 * v) != dataB g s.free o sz.bytes (2 * v + 1))
    d ≠ 0 → exec (.st sz o) s = .next (shadowTrap s g d (fun v => laneVa g s.free o (2 * v)))) ∧
  (∀ (sz : XSz) o s g c, Runs { closes := true } (shLdx sz) o s g c → addressesDiffer s g o (g.active (shLdx sz) o s.free) ≠ 0 →
    exec (.ldx sz o) s = .next (shadowTrap s g (addressesDiffer s g o (g.active (shLdx sz) o s.free)) (fun v => laneVa g s.free o (2 * v)))) ∧
  (∀ o s g c, Runs {} shPrefL1 o s g c → addressesDiffer s g o (g.active shPrefL1 o s.free) ≠ 0 →
    let t := shadowTrap s g (addressesDiffer s g o (g.active shPrefL1 o s.free)) (fun v => laneVa g s.free o (2 * v))
    exec (.prefL1 o) s = .next t ∧ exec (.prefClc o) s = .next t)

/-- The registers of R112 that SYSR reads, by number, in lane `l`; numbers 0x010 to 0x017 are the levels. -/
def sysrValue (s : State) (g : Machine.Group) (n l : Nat) : Dword :=
  if n = 0x000 ∨ n = 0x010 then BitVec.ofNat 64 (if g.info.prot then l / 2 else l)
  else if n = 0x001 then BitVec.ofNat 64 g.num
  else if n = 0x002 then BitVec.ofNat 64 g.cohortNum
  else if 0x011 ≤ n ∧ n ≤ 0x017 then (g.coords.getD (n - 0x010) 0).setWidth 64
  else if n = 0x020 then BitVec.ofNat 64 (g.core % 96)
  else if n = 0x021 then BitVec.ofNat 64 (g.core / 96 % 4)
  else if n = 0x022 then BitVec.ofNat 64 (g.core / 384)
  else if n = 0x030 then (g.prec.getD l (BitVec.ofNat 32 g.info.prec0)).setWidth 64
  else if n = 0x031 then (g.vpstat.getD l 0).setWidth 64
  else if n = 0x040 then g.trap.tpc
  else if n = 0x041 then g.trap.tcause.setWidth 64
  else if n = 0x042 then g.trap.taddr
  else if n = 0x043 then g.trap.tmask.setWidth 64
  else if n = 0x044 then g.trap.tba
  else if n = 0x045 then g.trap.trapen.setWidth 64
  else if n = 0x050 then g.trap.err.setWidth 64
  else (s.core g.core).cyc

/-- R112, R235: SYSR reads a register that is held for each lane into a lane register, in the lanes of %em; a 64-bit one into a
uniform pair; any other into a uniform register. -/
def Parts.SpecialRegisterReads : Prop :=
  ∀ o s g c, Runs {} (shSysr o) o s g c →
    let n := o.x.toNat % 4096
    exec (.sysr o) s = .next (s.with (g.wrote c (
      if n ∈ [0x000, 0x010, 0x030, 0x031] then
        (lanesOf g.emPhys).map (fun l => (vKey o.d.toNat l, (sysrValue s g n l).setWidth 32))
      else if n ∈ [0x040, 0x042, 0x044, 0x060] then uniPair o (sysrValue s g n 0)
      else [(sKey o.d.toNat, (sysrValue s g n 0).setWidth 32)])))

/-- The shape of SYSW: privileged for %tba and %trapen (R112). -/
def sysWShape (o : EOps) : Shape := { shSysw o with priv := decide (o.x.toNat % 4096 = 0x044 ∨ o.x.toNat % 4096 = 0x045) }

/-- R112, R236: SYSW of %tpc, %tba, %trapen and %err; an address that is not on 4 bytes raises ALIGN, and %err is cleared by ones.
In user mode, SYSW of %tba and %trapen raises PRIVILEGE. -/
def Parts.SpecialRegisterWrites : Prop :=
  ∀ o s g c,
    (Runs {} (sysWShape o) o s g c →
      (o.x.toNat % 4096 = 0x040 → (g.uA64 s.free o).toNat % 4 = 0 →
        exec (.sysw o) s = .next (s.with (({ g with trap := { g.trap with tpc := g.uA64 s.free o } } : Machine.Group).wrote c []))) ∧
      (o.x.toNat % 4096 = 0x044 → (g.uA64 s.free o).toNat % 4 = 0 →
        exec (.sysw o) s = .next (s.with (({ g with trap := { g.trap with tba := g.uA64 s.free o } } : Machine.Group).wrote c []))) ∧
      (o.x.toNat % 4096 = 0x040 ∨ o.x.toNat % 4096 = 0x044 → (g.uA64 s.free o).toNat % 4 ≠ 0 →
        exec (.sysw o) s = .next (s.with (({ g with wait := .none } : Machine.Group).trapHere
          { cause := causeAlign, addr := g.uA64 s.free o, lanes := g.em }))) ∧
      (o.x.toNat % 4096 = 0x045 →
        exec (.sysw o) s = .next (s.with (({ g with trap := { g.trap with trapen := g.uA32 s.free o &&& 0x1F0F } } : Machine.Group).wrote c []))) ∧
      (o.x.toNat % 4096 = 0x050 →
        exec (.sysw o) s = .next (s.with (({ g with trap := { g.trap with err := g.trap.err &&& ~~~(g.uA32 s.free o) } } : Machine.Group).wrote c [])))) ∧
    (s.groups.get? s.cur = some g → g.run = .running → g.clause = some c → g.wait = .none → g.region.due = false →
      shapeOk (shSysw o) o = true → (o.x.toNat % 4096 = 0x044 ∨ o.x.toNat % 4096 = 0x045) → g.id.privileged = false →
        exec (.sysw o) s = .next (s.with (g.trapHere { cause := causePriv, lanes := g.em })))

/-- R236, R265: SYSW of %prec corrects a precision and a rounding mode out of range and sets CLAMP for it; SYSW of %vpstat clears by
ones; both in the lanes of %em. -/
def Parts.LaneSpecialWrites : Prop :=
  (∀ o s g c, Runs {} (sysWShape o) o s g c → o.x.toNat % 4096 = 0x030 →
    exec (.sysw o) s = .next (s.with (((lanesOf g.emPhys).foldl (fun g' l => g'.putPrec l (g.la32 s.free o l)) g).wrote c []))) ∧
  (∀ o s g c, Runs {} (sysWShape o) o s g c → o.x.toNat % 4096 = 0x031 →
    exec (.sysw o) s = .next (s.with (((lanesOf g.emPhys).foldl (fun (g' : Machine.Group) l =>
      { g' with vpstat := g'.vpstat.store 0 l (g'.vpstat.getD l 0 &&& ~~~(g.la32 s.free o l)) }) g).wrote c []))) ∧
  (∀ w : Word,
    let p := w.toNat % 256
    let m := w.toNat / 256 % 8
    let p' := if p = 0 then 1 else if p > 224 then 224 else p
    let m' := if m ≥ 5 then 0 else m
    (precFix w).1.toNat % 256 = p' ∧ (precFix w).1.toNat / 256 % 8 = m' ∧ (precFix w).2 = decide (p' ≠ p ∨ m' ≠ m))

/-- R237: ROLE.CNT, ROLE.PHYS and ROLE.TEST by the declared counts; R78: the physical unit of a role. -/
def Parts.RoleInstructions : Prop :=
  (∀ o s g c, Runs {} shRoleCnt o s g c →
    exec (.roleCnt o) s = .next (s.with (g.wrote c [(sKey o.d.toNat, BitVec.ofNat 32 (roleCount g (o.x.toNat % 4)))]))) ∧
  (∀ o s g c, Runs {} shRolePhys o s g c →
    ((g.uB32 s.free o).toNat < roleCount g (o.x.toNat % 4) → exec (.rolePhys o) s = .next (s.with (g.wrote c
      [(sKey o.d.toNat, BitVec.ofNat 32 (roleUnit s g (o.x.toNat % 4) (g.uB32 s.free o).toNat))]))) ∧
    (roleCount g (o.x.toNat % 4) ≤ (g.uB32 s.free o).toNat → exec (.rolePhys o) s = .next (s.with
      (({ g with wait := .none } : Machine.Group).trapHere { cause := causeRoleBound, lanes := g.em })))) ∧
  (∀ o s g c, Runs {} shRoleTest o s g c → exec (.roleTest o) s = .next (s.with
    ((g.putK o.d.toNat (decide ((g.uB32 s.free o).toNat < roleCount g (o.x.toNat % 4)))).wrote c []))) ∧
  (∀ g : Machine.Group, roleCount g 0 = g.info.macros ∧ roleCount g 1 = g.info.neigh ∧ roleCount g 2 = g.info.chan ∧
    roleCount g 3 = g.info.memch)

/-- R520 to R522, R533: REGN.B opens a region at the end of its clause with the next clause as its entry, REGN.E closes it, REGN.STAT
reads RB and OPEN. -/
def Parts.RegionInstructions : Prop :=
  (∀ o s g c, Runs { illegal := fun _ g => g.acts shRet o s.free && !isLast g } shRet o s g c →
    exec (.regnB o) s = .next (s.with (({ g with region :=
      { opened := true, rb := 0, entry := c.after, em := g.em, k := g.k, since := g.seq + 1 } } : Machine.Group).wrote c []))) ∧
  (∀ o s g c, Runs { closes := true } shRet o s g c →
    exec (.regnE o) s = .next (s.with (({ g with region := { g.region with opened := false } } : Machine.Group).wrote c []))) ∧
  (∀ o s g c, Runs {} shMaskGet o s g c →
    exec (.regnStat o) s = .next (s.with (g.wrote c
      [(sKey o.d.toNat, BitVec.ofNat 32 (g.region.rb * 2 + (if g.region.opened then 1 else 0)))])))

/-- R209: SNAP and SNAP.GANG pull the owl line of the group's package with the tag of X when SNAPEN is 1, and do nothing else. -/
def Parts.SnapInstructions : Prop :=
  ∀ o s g c, Runs {} shSnap o s g c →
    let pkg := g.core / 384
    ((s.snap pkg).snapen = true →
      exec (.snap o) s = .next ((owlTrigger s pkg 1 (BitVec.ofNat 16 o.x.toNat) pkg false).with (g.wrote c [])) ∧
      exec (.snapGang o) s = .next ((owlTrigger s pkg 1 (BitVec.ofNat 16 o.x.toNat) pkg true).with (g.wrote c []))) ∧
    ((s.snap pkg).snapen = false → exec (.snap o) s = .next (s.with (g.wrote c [])) ∧
      exec (.snapGang o) s = .next (s.with (g.wrote c [])))

/-- A group stands at a clause boundary and may start a clause: it runs, is not held, has no cause to deliver, and the flags of the
header's WAIT mask are clear (R87, R105, R224). -/
structure AtHeader (s : State) (g : Machine.Group) (h : Header) : Prop where
  here : s.groups.get? s.cur = some g
  running : g.run = .running
  boundary : g.clause = none
  free : g.wait = .none
  due : g.region.due = false
  quiet : g.trap.h = true ∨ g.trap.pending = []
  clear : ∀ i < 12, h.wait.getLsbD i = true → g.flag i = 0

/-- R87, R88, R102: a clause header whose N + 1 instructions are fetched and break no rule opens its clause: SETA, SETB and TMASK are
taken, the first instruction is due, and the address after the clause is kept. -/
def Obligations.ClauseHeaders : Prop :=
  ∀ s g h lit w1 w2 t body after (len tmask : Nat) (i : Instr), AtHeader s g h →
    ((i = .clause h ∧ len = 1 ∧ tmask = 0) ∨
     (i = .clauseTmask h lit ∧ len = 3 ∧ tmask = lit.toNat ∧ lit.toNat < 256) ∨
     (i = .clauseExtended h w1 w2 ∧ len = 3 ∧ tmask = w1.toNat ∧ w1.toNat < 256 ∧ w2 = 0)) →
    fetchBody s.cur (h.n.toNat + 1) (g.pc + BitVec.ofNat 64 (4 * len)) s = (t, .ok (body, after)) →
    tmaskBad tmask body = false → clauseBroken body = false →
    ∃ g' : Machine.Group, exec i s = .next { t with groups := t.groups.put s.cur g' } ∧
      g'.clause = some { head := (t.grp s.cur).pc, seta := h.seta.toNat, setb := h.setb.toNat, tmask := tmask, body := body, idx := 0, after := after } ∧
      (∀ x xs, body = x :: xs → g'.pc = x.addr)

/-! ### When the checks of R51 pass, and a translation answers (chapters 2 and 18) -/

/-- R48, R49, R51: a range of n bytes passes checks 2 to 7: it lies in one region, its space may be used, a global space's package is in the
domain, and each byte of a local window is there. -/
structure RangePasses (s : State) (g : Machine.Group) (allow : Space → Bool → Bool) (va : Dword) (n : Nat) : Prop where
  some_ : 0 < n
  known : spaceOf va ≠ .reserved
  region : va.toNat / regionSpan va = (va.toNat + n - 1) / regionSpan va
  may : allow (spaceOf va) (decide (vaPkg va = pkgOfCore g.core)) = true
  domain : (spaceOf va).global = true → vaPkg va < s.domain
  scratch : spaceOf va = .scratch → vaOff va + n ≤ g.info.scr
  private_ : spaceOf va = .priv → vaOff va + n ≤ g.info.priv
  stash : spaceOf va = .stash → vaOff va + n ≤ stashLimit s g.core ∧
    ∃ b, (s.cohort g.cohort).bindingOf (vaOff va) = some b ∧ vaOff va + n ≤ b.so + b.len
  neighbour : spaceOf va = .neigh → vaOff va + n ≤ g.info.neigh * 0x40000 ∧ g.info.neigh ≤ 24 ∧
    ∀ i < n, (vaOff va + i) % 0x40000 < neighLimit s (s.cohort g.cohort) ((vaOff va + i) / 0x40000)

/-- R340: a tile operand's lines pass. -/
def OperandPasses (s : State) (g : Machine.Group) (allow : Space → Bool → Bool) (align : Nat) (addr : Dword) (stride lines bytes : Nat) : Prop :=
  addr.toNat % align = 0 ∧ stride % align = 0 ∧ (lines = 0 ∨ bytes = 0 ∨ RangePasses s g allow addr ((lines - 1) * stride + bytes))

/-- R52, R367: a copy's ranges pass, where it has bytes, and so does its barrier object. -/
def CopyPasses (s : State) (g : Machine.Group) (j : CopyJob) : Prop :=
  (j.bytes = 0 ∨ ∀ r ∈ j.ranges, RangePasses s g copyAllow r.1 r.2) ∧
  ∀ va, j.bar = some va → va.toNat % 16 = 0 ∧ RangePasses s g (spaceAllowed .bar) va 16

/-- R470 to R479: the page of a request is mapped by a leaf that its die's MTLB holds, that allows it, and whose A and D bits need no
change. -/
structure Mapped (s : State) (r : TransReq) (e : TlbEnt) : Prop where
  asid : asidOk s (transDie r.va) r = true
  hit : (s.die (transDie r.va)).lookup (if spaceOf r.va = .control then 0 else r.asid) false r.va = some e
  still : entMoving e.word = false ∧ entFwd e.word = false
  place : ∃ d, s.region (transDie r.va / 4) (entPa e.word + r.va.toNat % 2 ^ tierShift e.tier) = some d ∧
    d.attr.getLsbD 0 = decide (spaceOf r.va = .control) ∧ (d.attr.getLsbD 1 = true → r.world = true)
  memory : if spaceOf r.va = .control then primaryHome (entPa e.word + r.va.toNat % 2 ^ tierShift e.tier) = true
    else bits (entPa e.word + r.va.toNat % 2 ^ tierShift e.tier) 37 3 = transDie r.va % 4
  world : entWorld e.word = true → r.world = true
  read : r.read = true → entR e.word = true
  write : r.write = true → entW e.word = true ∧ entD e.word = true
  fetch : r.fetch = true → entX e.word = true
  privileged : entPriv e.word = true → r.privileged = true
  key : (s.slot (transDie r.va / 4) (entKey e.word)).en = true ∧
    ((s.slot (transDie r.va / 4) (entKey e.word)).world = true → entWorld e.word = true)
  marked : entA e.word = true

/-- The address that a mapped request has, and the state after its translation: the leaf is the newest of the MTLB. -/
def mappedPa (r : TransReq) (e : TlbEnt) : Nat := transDie r.va / 4 * 2 ^ 40 + (entPa e.word + r.va.toNat % 2 ^ tierShift e.tier)
def mappedState (s : State) (r : TransReq) (e : TlbEnt) : State :=
  s.putDie (transDie r.va) ((s.die (transDie r.va)).fillTlb r.va [e])

/-- A mapped control line that an engine may read or write without a change of its page's class (R499, R506, R508). -/
def MappedControl (s : State) (r : TransReq) (e : TlbEnt) : Prop :=
  Mapped s r e ∧ spaceOf r.va = .control ∧ (r.read = true → (s.home (mappedPa r e / 128)).poisoned = false) ∧
    (entClass e.word = classShared ∨ (entClass e.word = classReadOnly ∧ r.write = false))

/-- What the checks of a tile instruction ask of its operands (R340, R346, R349). -/
def OperandOk (s : State) (g : Machine.Group) (allow : Space → Bool → Bool) (align : Nat) (addr : Dword) (stride lines bytes : Nat) : Prop :=
  operandCheck s g allow align addr stride lines bytes = none ∨ OperandPasses s g allow align addr stride lines bytes
def GemmOk (s : State) (g : Machine.Group) (d : Gemm) : Prop :=
  gemmExtents s g d = none ∨
  (OperandPasses s g tileSource (fmtAlign d.fa) d.aAddr d.aStr d.m (if d.k = 0 then 0 else if d.fa = 13 then 4 else (d.k * fmtBits d.fa + 7) / 8) ∧
   OperandPasses s g tileSource (fmtAlign d.fb) d.bAddr d.bStr (if d.nmaj then d.n else d.k) (((if d.nmaj then d.k else d.n) * fmtBits d.fb + 7) / 8) ∧
   OperandPasses s g tileTarget (formSize d.out) d.oAddr d.oStr d.m (d.n * formSize d.out))
def AreaOk (s : State) (g : Machine.Group) (addr : Dword) (tm mm : Half) : Prop :=
  areaCheck s g addr tm mm = none ∨ (addr.toNat % 256 = 0 ∧ ∀ p ∈ areaParts addr tm mm, RangePasses s g tileTarget p.1 p.2)

/-- A translation answers, whatever the MTLB holds, or because the page is mapped as `Mapped` says. -/
def TranslatesTo (s : State) (r : TransReq) (t : State) (pa : Nat) (e : TlbEnt) : Prop :=
  xlate s r = (t, .ok pa e) ∨ (Mapped s r e ∧ t = mappedState s r e ∧ pa = mappedPa r e)
def OpensAt (s : State) (r : TransReq) (t : State) (x : Nat × Dword) : Prop :=
  pocOpen s r = (t, .ok x) ∨ ∃ e, MappedControl s r e ∧ t = pocLine (mappedState s r e) (mappedPa r e / 128) r.write ∧ x = (mappedPa r e, e.word)
def LeafAt (s : State) (gk : Nat) (va : Dword) (wr : Bool) (t : State) (e : TlbEnt) : Prop :=
  classLeaf s gk va wr = (t, .ok e) ∨
  let r := { (s.grp gk).req 0 va with read := false, write := wr }
  Mapped s r e ∧ spaceOf va = .control ∧ t = mappedState s r e

/-- Bytes of the group's own scratchpad, which its world may read (R38, R55). -/
def ReadsScratch (s : State) (g : Machine.Group) (va : Dword) (n : Nat) (t : State) (bs : List Byte) : Prop :=
  spaceOf va = .scratch ∧ (g.id.world = true ∨ (s.cohort g.cohort).id.world = false) ∧ t = s.with { g with wait := .none } ∧
    bs = (List.range n).map (fun i => (s.cohort g.cohort).scr.getD (va.toNat % 2 ^ 60 + i) 0)

/-! ### The memory port (chapters 6 and 11) -/

/-- What a load-like instruction with the operation `op` issues as, where the group has nothing in the burrow: its lanes are run in
ascending order at their execution point, and the instruction is pending with what they brought (R103, R162, R299); lanes that did not
translate hold the group (R321). -/
def loadIssued (s : State) (g : Machine.Group) (c : Clause) (closes : Bool) (op : MemOp) (dests : List RegId) (m : Half)
    (domRel : Bool) : State :=
  let x := opRun (s.with { g with wait := .none }) s.cur g.seq op
  let g1 := x.s.grp s.cur
  let g2 := if x.left.isEmpty then g1 else { g1 with wait := .held x.die }
  applyEff c closes {
    s := x.s
    g := if domRel then g2.fenceErr else g2
    pend := some {
      id := g.seq, dests := dests, lanes := m, outs := x.outs, vpbits := x.vpbits, cause := deniedTrap g1 x.causes g.seq, denied := x.causes
      wait := if x.left.isEmpty then .ready else .fault x.die
      mop := if x.left.isEmpty then none else some { op with accs := x.left }
      vas := op.accs.map (fun a => (a.lane, a.va)) } }

/-- The bytes that each lane of a per-lane access of `n` bytes reaches. -/
def laneReach (s : State) (g : Machine.Group) (o : EOps) (m : Half) (n : Nat) : List (Nat × Dword × Nat) :=
  (accLanes g m).map (fun l => (l, laneVa g s.free o l, n))

/-- The state in which an instruction of the group has its effect: the group is no longer suspended. -/
def issuing (s : State) (g : Machine.Group) : State := s.with { g with wait := .none }

/-- A per-lane access as the group's earlier fences see it: it loads, it stores, it stores to control space, it is a release (R296). -/
def laneLater (s : State) (g : Machine.Group) (o : EOps) (m : Half) (rd wr : Bool) : Later :=
  { loads := rd, stores := wr, ctl := wr && (accLanes g m).any (fun l => ctlPlace (issuing s g) g (laneVa g s.free o l)), rel := isRel o
    scope := scopeOf g o }

/-- The conditions on the operands of a per-lane access that loads (`rd`), stores (`wr`), or stores after the .comm reductions of its
group (`after`): shadow lanes agree (R530), no fence or release of the group holds it (R163, R182, R376, R390), nor a tile instruction, a
RATOM or a full port (R157, R295, R337), it has no burrow entry (R317), and checks 1 to 7 of R51 pass in every lane. -/
structure LaneAccessOk (s : State) (g : Machine.Group) (o : EOps) (m : Half) (differ : Nat → Bool) (rd wr after : Bool) (kind : AccKind)
    (n align : Nat) : Prop where
  agree : g.mismatch (g.fold m) differ = 0
  free : fenceWait (issuing s g) { g with wait := .none } (laneLater s g o m rd wr) = false
  loads : rd = true → loadsHeld (issuing s g) s.cur (decide (m = 0)) (laneReach s g o m n) = false
  stores : wr = true → storesHeld (issuing s g) s.cur false (laneReach s g o m n) = false
  order : isRel o = true ∨ after = true → g.comm = []
  dry : burrowOf s s.cur = []
  checks : laneChecks s g kind align n ((accLanes g m).map (fun l => (l, laneVa g s.free o l))) = none

/-- The accesses of a per-lane instruction: the address of each lane, and the operands that it carries. -/
def laneAccs (s : State) (g : Machine.Group) (o : EOps) (m : Half) (b c : Nat → BitVec 128) : List LaneAcc :=
  (accLanes g m).map (fun l => { lane := l, va := laneVa g s.free o l, b := b l, c := c l })

/-- A release at .dom (R66, R544). -/
def domRelease (g : Machine.Group) (o : EOps) : Bool := isRel o && decide (scopeOf g o = 6)

/-- R299, R300, R301: LD in every size and in its base forms. -/
def Parts.LoadsStart : Prop :=
  (∀ (sz : LdSz) o s g c, Runs {} (shLd sz) o s g c →
    LaneAccessOk s g o (g.active (shLd sz) o s.free) (vaDiffer g s.free o) true false false .ldst sz.bytes.1 (alignOf sz.bytes.1) →
    exec (.ld sz o) s = .next (loadIssued s g c false
      { act := .load sz.bytes.1 sz.bytes.2, dst := o.d.toNat, hint := o.hint.toNat % 4
        accs := laneAccs s g o (g.active (shLd sz) o s.free) (fun _ => 0) (fun _ => 0) }
      (writesOf (shLd sz) o) (g.active (shLd sz) o s.free) (domRelease g o))) ∧
  (∀ (mk : B3Ops → Instr) (sz : LdSz), (mk, sz) ∈ [((fun o => Instr.ld32B3 o), LdSz.b32), ((fun o => .ld64B3 o), .b64), ((fun o => .ld128B3 o), .b128)] →
    ∀ o3 s g c,
    let o := b3AsE 0x50 (shLd sz) o3
    Runs (b3Checks 0x50 (shLd sz) o3) (shLd sz) o s g c →
    LaneAccessOk s g o (g.active (shLd sz) o s.free) (vaDiffer g s.free o) true false false .ldst sz.bytes.1 (alignOf sz.bytes.1) →
    exec (mk o3) s = .next (loadIssued s g c false
      { act := .load sz.bytes.1 sz.bytes.2, dst := o.d.toNat, hint := o.hint.toNat % 4
        accs := laneAccs s g o (g.active (shLd sz) o s.free) (fun _ => 0) (fun _ => 0) }
      (writesOf (shLd sz) o) (g.active (shLd sz) o s.free) (domRelease g o))) ∧
  (∀ (sz : LdSz) o s g c, Runs {} (shUld sz) o s g c → burrowOf s s.cur = [] →
    fenceWait (issuing s g) { g with wait := .none } { loads := true } = false →
    loadsHeld (issuing s g) s.cur true [(0, g.s2 s.free o.a.toNat + memOff o, sz.bytes.1)] = false →
    laneChecks s g .uld (alignOf sz.bytes.1) sz.bytes.1 [(0, g.s2 s.free o.a.toNat + memOff o)] = none →
    exec (.uld sz o) s = .next (loadIssued s g c false
      { act := .uload sz.bytes.1 sz.bytes.2, dst := o.d.toNat, hint := o.hint.toNat % 4
        accs := [{ lane := 0, va := g.s2 s.free o.a.toNat + memOff o }] } (writesOf (shUld sz) o) 0 false))

/-- A per-lane atomic of operation `op` on `n` bytes (R303). -/
def AtomicStarts (mk : EOps → Instr) (sh : Shape) (op : AtomOp) (n : Nat) : Prop :=
  ∀ o s g c, Runs { closes := true } sh o s g c →
    LaneAccessOk s g o (g.active sh o s.free) (fun v => vaDiffer g s.free o v || dataB g s.free o n (2 * v) != dataB g s.free o n (2 * v + 1) ||
      dataC g s.free o n (2 * v) != dataC g s.free o n (2 * v + 1)) true true true .atom n n →
    exec (mk o) s = .next (loadIssued s g c true
      { act := .atomic op n, dst := o.d.toNat, hint := o.hint.toNat % 4
        accs := laneAccs s g o (g.active sh o s.free) (fun l => BitVec.ofNat 128 (dataB g s.free o n l)) (fun l => BitVec.ofNat 128 (dataC g s.free o n l)) }
      (writesOf sh o) (g.active sh o s.free) (domRelease g o))

/-- R302, R303: ATOM for every operation and size: a load-like instruction that closes a region. -/
def Parts.AtomicsStart : Prop :=
  (∀ sz : XSz, AtomicStarts (.atomAdd sz) (shAtomAdd sz) .add sz.bytes ∧ AtomicStarts (.atomMin sz) (shAtomAdd sz) .min sz.bytes ∧
    AtomicStarts (.atomMax sz) (shAtomAdd sz) .max sz.bytes ∧ AtomicStarts (.atomMinu sz) (shAtomAdd sz) .minu sz.bytes ∧
    AtomicStarts (.atomMaxu sz) (shAtomAdd sz) .maxu sz.bytes ∧ AtomicStarts (.atomAnd sz) (shAtomAdd sz) .band sz.bytes ∧
    AtomicStarts (.atomOr sz) (shAtomAdd sz) .bor sz.bytes ∧ AtomicStarts (.atomXor sz) (shAtomAdd sz) .bxor sz.bytes ∧
    AtomicStarts (.atomExch sz) (shAtomAdd sz) .exch sz.bytes) ∧
  (∀ sz : ASz, AtomicStarts (.atomCas sz) (shAtomCas sz) .cas sz.bytes) ∧
  AtomicStarts .atomFadd shAtomFadd .fadd 4 ∧ AtomicStarts .atomFmin shAtomFadd .fmin 4 ∧ AtomicStarts .atomFmax shAtomFadd .fmax 4

/-- R302: the new value of each integer atomic operation on values of w bits. -/
def Parts.AtomicResults : Prop :=
  ∀ (w : Nat) (a b c : BitVec w),
    let f := fun (op : AtomOp) => BitVec.ofNat w (atomNew op w a.toNat b.toNat c.toNat)
    f .add = a + b ∧ f .min = (if a.slt b then a else b) ∧ f .max = (if a.slt b then b else a) ∧
    f .minu = (if a.ult b then a else b) ∧ f .maxu = (if a.ult b then b else a) ∧ f .band = a &&& b ∧ f .bor = a ||| b ∧
    f .bxor = a ^^^ b ∧ f .exch = b ∧ f .cas = (if a = c then b else a)

/-- R305, R307: LDX and STX are load-like instructions of control space that close a region; STX in a lane without a reservation stores
nothing and writes status 1. -/
def Obligations.LockedAccesses : Prop :=
  (∀ (sz : XSz) o s g c, Runs { closes := true } (shLdx sz) o s g c →
    LaneAccessOk s g o (g.active (shLdx sz) o s.free) (vaDiffer g s.free o) true false false .locked sz.bytes sz.bytes →
    exec (.ldx sz o) s = .next (loadIssued s g c true
      { act := .loadLocked sz.bytes, dst := o.d.toNat, hint := o.hint.toNat % 4
        accs := laneAccs s g o (g.active (shLdx sz) o s.free) (fun _ => 0) (fun _ => 0) }
      (writesOf (shLdx sz) o) (g.active (shLdx sz) o s.free) (domRelease g o))) ∧
  (∀ (sz : XSz) o s g c, Runs { closes := true } (shStx sz) o s g c →
    LaneAccessOk s g o (g.active (shStx sz) o s.free)
      (fun v => vaDiffer g s.free o v || dataB g s.free o sz.bytes (2 * v) != dataB g s.free o sz.bytes (2 * v + 1)) true true true .locked sz.bytes sz.bytes →
    exec (.stx sz o) s = .next (loadIssued s g c true
      { act := .storeCond sz.bytes, dst := o.d.toNat, hint := o.hint.toNat % 4
        accs := laneAccs s g o (g.active (shStx sz) o s.free) (fun l => BitVec.ofNat 128 (dataB g s.free o sz.bytes l)) (fun _ => 0) }
      (writesOf (shStx sz) o) (g.active (shStx sz) o s.free) (domRelease g o))) ∧
  (∀ s gk pid n (op : MemOp) a, (s.grp gk).info.prot = false → (s.grp gk).resv.get? a.lane = none → op.act = .storeCond n →
    ∃ r, laneDo s gk pid op a = (s, .ok r) ∧ r.outs = [(vKey op.dst a.lane, 1)])

/-- What a store-like instruction with lanes `ls` issues as, where the group has nothing in the burrow and the burrow has room: each
lane is performed in lane order; the lanes that did not translate are logged in one burrow entry (R317, R318, R320). -/
def storeIssued (s : State) (g : Machine.Group) (c : Clause) (closes : Bool) (hint : Nat) (act : StoreAct) (ls : List BurrowLane)
    (domRel : Bool) : State :=
  let x := storeRun (s.with { g with wait := .none }) s.cur g.seq act hint ls
  let s1 := postCauses x.s s.cur x.causes g.seq
  let g1 := if domRel then (s1.grp s.cur).fenceErr else s1.grp s.cur
  applyEff c closes {
    s := if x.lanes.all (·.done) then s1 else s1.putCore g.core { (s1.core g.core) with
      burrow := (s1.core g.core).burrow ++ [{ grp := s.cur, act := act, hint := hint, seq := g.seq, lanes := x.lanes }] }
    g := g1 }

/-- The lanes of a store of `n` bytes of operand B. -/
def storeLanes (s : State) (g : Machine.Group) (o : EOps) (m : Half) (n : Nat) : List BurrowLane :=
  (accLanes g m).map (fun l => { lane := l, va := laneVa g s.free o l, bytes := natBytes n (dataB g s.free o n l) })

/-- A store-like action other than a .comm reduction. -/
def inOrder (act : StoreAct) : Bool :=
  match act with
  | .comm _ _ => false
  | _ => true

/-- A store-like instruction issues. -/
def StoreStarts (i : Instr) (ck : Checks) (sh : Shape) (o : EOps) (kind : AccKind) (n align : Nat) (act : StoreAct) : Prop :=
  ∀ s g c, Runs ck sh o s g c → (s.core g.core).burrow.length < 64 →
    LaneAccessOk s g o (g.active sh o s.free)
      (fun v => vaDiffer g s.free o v || dataB g s.free o n (2 * v) != dataB g s.free o n (2 * v + 1)) false true (inOrder act) kind n align →
    exec i s = .next (storeIssued s g c ck.closes (o.hint.toNat % 4) act (storeLanes s g o (g.active sh o s.free) n) (domRelease g o))

/-- R300, R301, R317: ST in every size and in its base forms. -/
def Parts.StoresStart : Prop :=
  (∀ (sz : StSz) o, StoreStarts (.st sz o) {} (shSt sz) o .ldst sz.bytes (alignOf sz.bytes) .bytes) ∧
  (∀ o, StoreStarts (.st32B3 o) (b3Checks 0x51 (shSt .b32) o) (shSt .b32) (b3AsE 0x51 (shSt .b32) o) .ldst 4 4 .bytes) ∧
  (∀ o, StoreStarts (.st64B3 o) (b3Checks 0x51 (shSt .b64) o) (shSt .b64) (b3AsE 0x51 (shSt .b64) o) .ldst 8 8 .bytes) ∧
  (∀ o, StoreStarts (.st128B3 o) (b3Checks 0x51 (shSt .b128) o) (shSt .b128) (b3AsE 0x51 (shSt .b128) o) .ldst 16 4 .bytes)

/-- R304: RED for every operation and size, with .comm and without, is a store-like instruction that closes a region. -/
def Parts.ReductionsStart : Prop :=
  (∀ (sz : XSz) (o : EOps),
    StoreStarts (.redAdd sz o) { closes := true } (shRedAdd sz) o .atom sz.bytes sz.bytes (redAct .add sz.bytes o) ∧
    StoreStarts (.redMin sz o) { closes := true } (shRedAdd sz) o .atom sz.bytes sz.bytes (redAct .min sz.bytes o) ∧
    StoreStarts (.redMax sz o) { closes := true } (shRedAdd sz) o .atom sz.bytes sz.bytes (redAct .max sz.bytes o) ∧
    StoreStarts (.redMinu sz o) { closes := true } (shRedAdd sz) o .atom sz.bytes sz.bytes (redAct .minu sz.bytes o) ∧
    StoreStarts (.redMaxu sz o) { closes := true } (shRedAdd sz) o .atom sz.bytes sz.bytes (redAct .maxu sz.bytes o) ∧
    StoreStarts (.redAnd sz o) { closes := true } (shRedAdd sz) o .atom sz.bytes sz.bytes (redAct .band sz.bytes o) ∧
    StoreStarts (.redOr sz o) { closes := true } (shRedAdd sz) o .atom sz.bytes sz.bytes (redAct .bor sz.bytes o) ∧
    StoreStarts (.redXor sz o) { closes := true } (shRedAdd sz) o .atom sz.bytes sz.bytes (redAct .bxor sz.bytes o)) ∧
  (∀ o : EOps, StoreStarts (.redFadd o) { closes := true } shRedFadd o .atom 4 4 (redAct .fadd 4 o) ∧
    StoreStarts (.redFmin o) { closes := true } shRedFadd o .atom 4 4 (redAct .fmin 4 o) ∧
    StoreStarts (.redFmax o) { closes := true } shRedFadd o .atom 4 4 (redAct .fmax 4 o))

/-- R179: a .comm reduction is applied at its execution point, or it waits; one that waits is applied later, as the reduction that it is;
and the integer operations leave the same bytes in either order. So a load of the group meets any subset of those that wait. -/
def Parts.CommutativeReductions : Prop :=
  (∀ s gk seq op n hint (l : BurrowLane),
    storeDo s gk seq (.comm op n) hint l = storeDo s gk seq (.reduce op n) hint l ∨
    ((storeDo s gk seq (.reduce op n) hint l).2 = .ok () ∧ storeDo s gk seq (.comm op n) hint l =
      (s.noteComm gk { lane := l.lane, va := l.va, op := op, n := n, val := bytesNat l.bytes, hint := hint, seq := seq }, .ok ()))) ∧
  (∀ s gk i (x : CommRed) t, (s.grp gk).comm[i]? = some x →
    storeDo s gk x.seq (.reduce x.op x.n) x.hint { lane := x.lane, va := x.va, bytes := natBytes x.n x.val } = (t, .ok ()) →
    commOne s gk i = { t with groups := t.groups.put gk { t.grp gk with comm := (t.grp gk).comm.eraseIdx i } }) ∧
  (∀ s gk, (s.grp gk).comm = [] → commAll s gk = s) ∧
  (∀ op ∈ ([.add, .min, .max, .minu, .maxu, .band, .bor, .bxor] : List AtomOp), ∀ n a b old, old.length = n →
    atomBytes op n a 0 (atomBytes op n b 0 old) = atomBytes op n b 0 (atomBytes op n a 0 old))

/-- R38, R39, R301: a 32-bit load from the group's own scratchpad brings, in each lane, the four bytes at the lane's offset, lowest byte
first, and the access changes nothing. -/
def Parts.ScratchpadLoads : Prop :=
  ∀ s gk pid hint dst (a : LaneAcc),
    let g := s.grp gk
    spaceOf a.va = .scratch → g.info.prot = false → (g.id.world = true ∨ (s.cohort g.cohort).id.world = false) →
    let byte := fun (i : Nat) => (s.cohort g.cohort).scr.getD (a.va.toNat % 2 ^ 60 + i) 0
    ∃ r, laneDo s gk pid { act := .load 4 false, dst := dst, accs := [], hint := hint } a = (s, .ok r) ∧
      r.outs = [(vKey dst a.lane, byte 3 ++ byte 2 ++ byte 1 ++ byte 0)]

/-- A table of bytes after bytes are stored from an address on. -/
def storedBytes (m : Tab Byte) (a : Nat) (bs : List Byte) : Tab Byte :=
  (List.range bs.length).foldl (fun (m : Tab Byte) i => m.store 0 (a + i) (bs.getD i 0)) m

/-- R55, R301: a store of bytes to the group's own scratchpad writes exactly those bytes of the cohort's scratchpad; every byte of
memory, every other cohort, and every group stay as they are, where no copy or tile instruction of the group races with it. A non-secure
group may not write a secure cohort's. -/
def Parts.ScratchpadStores : Prop :=
  ∀ s gk seq hint (l : BurrowLane) c,
    let g := s.grp gk
    s.calm gk = true → spaceOf l.va = .scratch → s.saved.get? g.cohort = none → s.cohorts.get? g.cohort = some c → l.bytes ≠ [] →
    (g.id.world = true ∨ c.id.world = false → ∃ t, storeDo s gk seq .bytes hint l = (t, .ok ()) ∧ t.mem = s.mem ∧ t.groups = s.groups ∧
      (∀ k, k ≠ g.cohort → t.cohorts.get? k = s.cohorts.get? k) ∧
      t.cohorts.get? g.cohort = some { c with scr := storedBytes c.scr (l.va.toNat % 2 ^ 60) l.bytes }) ∧
    (g.id.world = false → c.id.world = true → storeDo s gk seq .bytes hint l = (s, .stop (.cause causeSecurity)))

/-- The state after the cache actions of a fence that has .t and a scope of at least .die: write-backs on its release side, then
invalidations on its acquire side (R163, R170). -/
def fenceCaches (acq rel : Bool) (s : State) (cl : Nat) : State :=
  let s := if rel then wbTensor s cl else s
  if acq then invTensor s cl else s

/-- A fence covers something of its group that is open: a tile instruction of it that reads or writes memory (R337), a RATOM request where
it is a release at .dom (R182), one that returns a value on its acquire side (R308). -/
def fenceCovers (s : State) (g : Machine.Group) (k : FenceKind) (dom : Bool) : Prop :=
  (∃ j ∈ (s.core g.core).tile.jobs, j.grp = s.cur ∧ j.pend ≤ g.seq ∧ j.op.memory = true) ∨
  (∃ r ∈ g.ratoms, r.seq ≤ g.seq ∧ (dom = true ∨ (k.acquires = true ∧ r.pend ≠ none ∧ r.done = false)))

/-- R163, R170, R182, R308, R337: a fence starts as a long-latency instruction once the group's burrow is empty and its .comm reductions
have been applied. It is complete after the cache actions of its sides, at once where it covers nothing that is open, and waits where it
does. -/
def Parts.FencesStart : Prop :=
  ∀ (mk : EOps → Instr) (k : FenceKind),
    (mk, k) ∈ [((fun o => Instr.fenceAcq o), FenceKind.acq), ((fun o => .fenceRel o), .rel), ((fun o => .fenceAr o), .full)] →
    ∀ o s g c, Runs {} shFenceAcq o s g c → burrowOf s s.cur = [] → g.comm = [] →
      (k ≠ .acq → g.gives = 0 ∧ g.fenced g.seq { rel := true } = false) →
      let dom := decide (k ≠ .acq) && decide (scopeOf g o = 6)
      let wide := memFlag o && decide (3 ≤ scopeOf g o)
      let t := fenceCaches (k.acquires && wide) (decide (k ≠ .acq) && wide) (issuing s g) (clusterOf g.core)
      (fenceCovers s g k dom → exec (mk o) s = .next (s.with (g.started c { id := 0, wait := .fence k dom wide g.seq }))) ∧
      (¬ fenceCovers s g k dom → exec (mk o) s = .next (applyEff c false
        { s := t, g := if dom then (t.grp s.cur).fenceErr else t.grp s.cur, pend := some { id := 0 } }))

/-- R309: CMAINT over an empty range does nothing but start and complete; over a range that passes checks 2 to 5 of R51 it acts on the
lines of the range in the group's cluster, once the group's burrow is empty; a range that fails traps. -/
def Parts.CacheMaintenance : Prop :=
  ∀ (mk : EOps → Instr) (k : Maint),
    (mk, k) ∈ [((fun o => Instr.cmaintWb o), Maint.wb), ((fun o => .cmaintInv o), .inv), ((fun o => .cmaintDemote o), .demote)] →
    ∀ o s g c, Runs {} shCmaintWb o s g c →
      let va := g.s2 s.free o.a.toNat
      let len := (g.uB32 s.free o).toNat
      (len = 0 → exec (mk o) s = .next (s.with (g.started c { id := 0 }))) ∧
      (len ≠ 0 → cmaintCheck s g va len = none → burrowOf s s.cur = [] → g.fenced g.seq { loads := decide (k = .inv) } = false →
        exec (mk o) s = .next ((cmaintDo k s g va len).with (g.started c { id := 0 }))) ∧
      (∀ cause a, len ≠ 0 → cmaintCheck s g va len = some (cause, a) →
        exec (mk o) s = .next (s.with (({ g with wait := .none } : Machine.Group).trapHere { cause := cause, addr := a, lanes := g.em })))

/-- R310: a prefetch is made in each lane and never traps; it is no long-latency instruction and writes no register. -/
def Parts.PrefetchesRun : Prop :=
  ∀ o s g c, Runs {} shPrefL1 o s g c → g.mismatch (g.fold (g.active shPrefL1 o s.free)) (vaDiffer g s.free o) = 0 → isRel o = false →
    let run := fun (l1 : Bool) => (accLanes g (g.active shPrefL1 o s.free)).foldl
      (fun st l => prefLane l1 (o.hint.toNat % 4) s.cur st (laneVa g s.free o l)) (s.with { g with wait := .none })
    exec (.prefL1 o) s = .next (applyEff c false { s := run true, g := (run true).grp s.cur }) ∧
    exec (.prefClc o) s = .next (applyEff c false { s := run false, g := (run false).grp s.cur })

/-- R290, R311: STASH.MAP adds a binding where its checks pass, and traps with their cause where one fails; STASH.UNMAP removes the
binding at its offset, STASH.FLUSH keeps it; where there is none, both raise ACCESS_VIOLATION at the window address. -/
def Obligations.StashInstructions : Prop :=
  (∀ o s g c, Runs {} shStashMap o s g c →
    let va := g.s2 s.free o.a.toNat
    let len := (g.uB32 s.free o).toNat
    let so := (g.s1 s.free o.c.toNat).toNat
    let k := s.cohort g.cohort
    (va.toNat % 128 = 0 → so % 128 = 0 → len % 128 = 0 → len ≠ 0 →
      spaceOf va = .control ∨ (spaceOf va = .tensor ∧ vaPkg va = g.core / 384) → regionKey va = regionKey (va + BitVec.ofNat 64 (len - 1)) →
      vaPkg va < s.domain → so + len ≤ stashLimit s g.core → k.stash.length < 8 →
      (∀ x ∈ s.cohorts, x.2.core = g.core → ∀ b ∈ x.2.stash, (so + len ≤ b.so ∨ b.so + b.len ≤ so) ∧
        (va.toNat + len ≤ b.g.toNat ∨ b.g.toNat + b.len ≤ va.toNat)) → stashMapCheck s g va so len = none) ∧
    (stashMapCheck s g va so len = none → burrowOf s s.cur = [] →
      exec (.stashMap o) s = .next ((s.putCohort g.cohort { k with stash := k.stash ++ [{ so := so, g := va, len := len }] }).with (g.wrote c []))) ∧
    (∀ cause a, stashMapCheck s g va so len = some (cause, a) →
      exec (.stashMap o) s = .next (s.with (({ g with wait := .none } : Machine.Group).trapHere { cause := cause, addr := a, lanes := g.em })))) ∧
  (∀ o s g c, Runs {} shStashUnmap o s g c →
    let so := (g.s1 s.free o.c.toNat).toNat
    let k := s.cohort g.cohort
    (∀ b, k.stash.find? (fun b => b.so == so) = some b → burrowOf s s.cur = [] →
      (∃ t : State, exec (.stashUnmap o) s = .next (t.with (g.wrote c [])) ∧ (t.cohort g.cohort).stash = k.stash.filter (fun x => x.so != so)) ∧
      (∃ t : State, exec (.stashFlush o) s = .next (t.with (g.wrote c [])))) ∧
    (k.stash.find? (fun b => b.so == so) = none →
      let trap := ({ g with wait := .none } : Machine.Group).trapHere
        { cause := causeAccess, addr := 0xB000000000000000#64 + BitVec.ofNat 64 so, lanes := g.em }
      exec (.stashUnmap o) s = .next (s.with trap) ∧ exec (.stashFlush o) s = .next (s.with trap)))

/-- The state after a BAR instruction that has read its object: the object is written back, its waiters are woken if the operation says
so, a predicate is written and an error is posted; or, blocked, the group waits at the instruction (R313 to R315). -/
def barDone (s1 : State) (gk : Nat) (g : Machine.Group) (c : Clause) (va : Dword) (r : TransReq) (write : Bool) (bs : List Byte)
    (e : BarEnd) (domRel : Bool) : State :=
  let s2 := if !write && e.bar = Bar.ofBytes bs then s1 else (laneWrite s1 gk g.seq { r with write := true } 16 0 e.bar.bytes).1
  let s3 := if e.wake then wakeBar s2 (bytePlace s2 g 0 va) else s2
  let g3 := s3.grp gk
  match e.block with
  | some w => (plRelease s3 g3.core).with (if domRel then ({ g3 with wait := w } : Machine.Group).fenceErr else { g3 with wait := w })
  | none =>
    let g4 := match e.k with
      | some (n, b) => g3.putK n b
      | none => g3
    let g5 := match e.error with
      | some n => g4.post { cause := causeBar, sub := n, addr := va, lanes := g4.em, seq := g4.seq }
      | none => g4
    applyEff c true { s := s3, g := if domRel then g5.fenceErr else g5 }

/-- What a BAR operation does with an object that it has read. -/
def barInitEnd (n : Nat) : BarEnd := { bar := { expa := n } }
def barWaitEnd (x : Bar) (va : Dword) (p : Nat) (swap : Bool) : BarEnd :=
  let y := if x.expa = 0 ∨ x.expa < x.arr then { x with err := true } else x
  let wake := decide (x.expa = 0 ∨ x.expa < x.arr)
  if y.passed p then { bar := y, wake := wake }
  else if y.err then { bar := y, wake := wake, error := some 4 }
  else { bar := y, wake := wake, block := some (.bar va p swap) }
def barTestEnd (x : Bar) (p k : Nat) : BarEnd :=
  let y := if x.expa = 0 ∨ x.expa < x.arr then { x with err := true } else x
  { bar := y, wake := decide (x.expa = 0 ∨ x.expa < x.arr), k := some (k, y.passed p), error := if !y.passed p && y.err then some 4 else none }

/-- R312 to R315: the BAR instructions act on the object that they read at its point of coherence; a count of 0 or above 65535 raises
BAR_ERROR with subcode 1. -/
def Parts.BarrierInstructions : Prop :=
  ∀ (i : Instr) (sh : Shape) o s g c s1 bs (write : Bool) (e : BarEnd),
    let va := g.s2 s.free o.a.toNat
    let n := (g.uB32 s.free o).toNat
    let r := { g.req 2 va with write := write }
    let acc := [(0, va, 16)]
    let rel := match i with
      | .barArrive _ => true
      | _ => false
    Runs { closes := true } sh o s g c → (accCheck s g .bar va 16 16 = none ∨ (va.toNat % 16 = 0 ∧ RangePasses s g (spaceAllowed .bar) va 16)) → burrowOf s s.cur = [] → g.deny = [] →
    (write = true → g.comm = []) → loadsHeld (issuing s g) s.cur true acc = false →
    (write = true → storesHeld (issuing s g) s.cur true acc = false) →
    let later : Later :=
      { loads := true, stores := write, ctl := write && decide (spaceOf va = .control), rel := rel, scope := scopeOf g o }
    fenceWait (issuing s g) { g with wait := .none } later = false →
    (laneRead (issuing s g) s.cur r 0 0 16 = (s1, .ok bs) ∨ ReadsScratch s g va 16 s1 bs) →
    ((i = .barInit o ∧ sh = shBarInit ∧ write = true ∧ 1 ≤ n ∧ n ≤ 0xFFFF ∧ e = barInitEnd n) ∨
     (i = .barArrive o ∧ sh = shBarArrive ∧ write = true ∧ 1 ≤ n ∧ n ≤ 0xFFFF ∧ e = ((Bar.ofBytes bs).arrive n).toEnd) ∨
     (i = .barExpect o ∧ sh = shBarInit ∧ write = true ∧ e = ((Bar.ofBytes bs).expect n).toEnd) ∨
     (i = .barWait o ∧ sh = shBarWait ∧ write = false ∧ e = barWaitEnd (Bar.ofBytes bs) va (n % 65536) (o.hint.getLsbD 2)) ∨
     (i = .barTest o ∧ sh = shBarTest ∧ write = false ∧ e = barTestEnd (Bar.ofBytes bs) (n % 65536) o.d.toNat)) →
    exec i s = .next (barDone s1 s.cur g c va r write bs e (rel && decide (scopeOf g o = 6)))

/-- R313: ARRIVE adds arrivals, and a complete phase advances the phase number, clears the counts, wakes the waiters and is passed by
a wait for the old phase; too many arrivals change nothing and are an error; bytes that land are counted, and an object whose bytes
exceed what is expected is in error. -/
def Parts.BarrierPhases : Prop :=
  (∀ (x : Bar) n, x.expa ≠ 0 → x.arr ≤ x.expa → x.err = false → x.phase < 65536 →
    (x.expa < x.arr + n → x.arrive n = { bar := x, error := some 1 }) ∧
    (x.arr + n < x.expa → x.arrive n = { bar := { x with arr := x.arr + n } }) ∧
    (x.arr + n = x.expa → x.landed = x.expb →
      x.arrive n = { bar := { x with phase := (x.phase + 1) % 65536, arr := 0, expb := 0, landed := 0 }, wake := true } ∧
      (x.arrive n).bar.passed x.phase = true) ∧
    (x.arr + n = x.expa → x.landed < x.expb → x.arrive n = { bar := { x with arr := x.arr + n } }) ∧
    (x.arr + n = x.expa → x.expb < x.landed → x.arrive n = { bar := { x with arr := x.arr + n, err := true }, wake := true, error := some 3 })) ∧
  (∀ x : Bar, x.phase < 65536 → x.passed x.phase = false) ∧
  (∀ x : Bar, x.phase < 65536 → x.expa < 65536 → x.arr < 65536 → x.expb < 2 ^ 32 → x.landed < 2 ^ 32 → Bar.ofBytes x.bytes = x)

/-! ### Lane floating point (chapters 5 and 9) -/

/-- The conditions that the active lanes raise. -/
def raisedBy (sh : Shape) (f : State → Group → EOps → Nat → Word × Conds) (s : State) (g : Machine.Group) (o : EOps) : List (Nat × Nat) :=
  (lanesOf (g.active sh o s.free)).map (fun l => (l, (f s g o l).2.bits.toNat))

/-- A floating instruction with one word a lane: with no condition of %trapen enabled, it writes its results and records the conditions
in %err[12:8]; with an enabled condition raised, it traps with FP_EXCEPTION before any result, with the enabled conditions in the
subcode and the lanes that raised them (R226, R227, R248, R249). -/
def FloatDoes (i : Instr) (ck : Checks) (sh : Shape) (o : EOps) (f : State → Group → EOps → Nat → Word × Conds) : Prop :=
  ∀ s g c, Runs ck sh o s g c →
    let all := allConds (raisedBy sh f s g o)
    let en := all &&& (g.trap.trapen.toNat / 256 % 32)
    let g' := g.setErr (BitVec.ofNat 32 ((all &&& (31 - g.trap.trapen.toNat / 256 % 32)) * 256))
    (en = 0 → exec i s = .next (s.with (g'.wrote c (laneOutsE sh (fun s g o l => [(f s g o l).1]) s g o)))) ∧
    (en ≠ 0 → exec i s = .next (s.with (({ g' with wait := .none } : Machine.Group).trapHere {
      cause := causeFp
      sub := en
      lanes := g.fold (maskOf (fun l => (raisedBy sh f s g o).any (fun p => p.1 == l && (p.2 &&& (g.trap.trapen.toNat / 256 % 32)) != 0))) })))

def FloatE (mk : EOps → Instr) (sh : Shape) (f : State → Group → EOps → Nat → Word × Conds) : Prop := ∀ o, FloatDoes (mk o) {} sh o f
def FloatB3 (mk : B3Ops → Instr) (op : Nat) (sh : Shape) (f : State → Group → EOps → Nat → Word × Conds) : Prop :=
  ∀ o, FloatDoes (mk o) (b3Checks op sh o) sh (b3AsE op sh o) f

/-- An operation on the elements of the format, from A, B and C. -/
def onElts (fmt : LFmt) (f : EOps → FFmt → Nat → Nat → Nat → Nat × Conds) (s : State) (g : Machine.Group) (o : EOps) (l : Nat) : Word × Conds :=
  perElt fmt (f o) (g.a32 s.free o l) (g.b32 s.free o l) (g.c32 s.free o l)

/-- R248, R256, R257: the floating sums, products, fused products, minima and maxima, in every format and form. -/
def Obligations.FloatArithmetic : Prop :=
  (∀ fmt, FloatE (.fadd fmt) shFadd (onElts fmt (fun o f a b _ => fAdd (hintMode o) f a b)) ∧
    FloatE (.faddSub fmt) shFadd (onElts fmt (fun o f a b _ => fSub (hintMode o) f a b)) ∧
    FloatE (.fmul fmt) shFadd (onElts fmt (fun o f a b _ => fMul (hintMode o) f a b)) ∧
    FloatE (.ffma fmt) shFfma (onElts fmt (fun o f a b c => fFma (hintMode o) f a b c)) ∧
    FloatE (.fminmaxMin fmt) shFminmaxMin (onElts fmt (fun _ f a b _ => fMinMax f false a b)) ∧
    FloatE (.fminmaxMax fmt) shFminmaxMin (onElts fmt (fun _ f a b _ => fMinMax f true a b))) ∧
  FloatB3 .faddF32B3 0x30 shFadd (onElts .f32 (fun _ f a b _ => fAdd .rne f a b)) ∧
  FloatB3 .faddF16x2B3 0x30 shFadd (onElts .f16 (fun _ f a b _ => fAdd .rne f a b)) ∧
  FloatB3 .faddSubF32B3 0x30 shFadd (onElts .f32 (fun _ f a b _ => fSub .rne f a b)) ∧
  FloatB3 .faddSubF16x2B3 0x30 shFadd (onElts .f16 (fun _ f a b _ => fSub .rne f a b)) ∧
  FloatB3 .fmulF32B3 0x31 shFadd (onElts .f32 (fun _ f a b _ => fMul .rne f a b)) ∧
  FloatB3 .fmulF16x2B3 0x31 shFadd (onElts .f16 (fun _ f a b _ => fMul .rne f a b)) ∧
  FloatB3 .ffmaF32B3 0x32 shFfma (onElts .f32 (fun _ f a b c => fFma .rne f a b c)) ∧
  FloatB3 .ffmaF16x2B3 0x32 shFfma (onElts .f16 (fun _ f a b c => fFma .rne f a b c))

/-- The scalar operand of a format (R259, R260): [31:0], or [15:0] of a 16-bit format. -/
def scalar (fmt : LFmt) (w : Word) : Nat := if fmt = .f32 then w.toNat else w.toNat % 65536

/-- R259 to R262: rounding to integral values, scaling, dot products, and classes; FCLASS raises no condition. -/
def Parts.FloatScalars : Prop :=
  (∀ fmt, FloatE (.frnd fmt) shFrnd (fun s g o l =>
      let r := fRnd (hintMode o) (fmtOf fmt) (scalar fmt (g.a32 s.free o l))
      (BitVec.ofNat 32 r.1, r.2)) ∧
    FloatE (.fscale fmt) shFscale (fun s g o l =>
      let r := fScale (hintMode o) (fmtOf fmt) (scalar fmt (g.a32 s.free o l)) (g.b32 s.free o l).toInt
      (BitVec.ofNat 32 r.1, r.2)) ∧
    LaneE (.fclass fmt) shFclass (fun s g o l => [BitVec.ofNat 32 (fClass (fmtOf fmt) (scalar fmt (g.a32 s.free o l)))]) ∧
    WritesE (.fclassPred fmt) shFclassPred (fun s g o => g.qOut o.d.toNat (g.active shFclassPred o s.free)
      (maskOf (fun l => (fClass (fmtOf fmt) (scalar fmt (g.a32 s.free o l)) &&& (o.x.toNat % 1024)) != 0)))) ∧
  (∀ fmt, FloatE (.fdp2 fmt) shFfma (fun s g o l =>
      let r := fDot2 (hintMode o) (pfmtOf fmt) (g.a32 s.free o l) (g.b32 s.free o l) (g.c32 s.free o l)
      (BitVec.ofNat 32 r.1, r.2)))

/-- R258: FCMP writes a lane predicate, with NV before any bit is written: with no enabled condition, %err records NV and the predicate's
active lanes take the comparison. -/
def Parts.FloatCompare : Prop :=
  ∀ cc fmt o s g c, Runs {} shFcmp o s g c → g.trap.trapen.toNat / 256 % 2 = 0 →
    let val := fun (w : Word) => (fmtOf fmt).decode (scalar fmt w)
    let r := fun (l : Nat) => fCompare cc (val (g.a32 s.free o l)) (val (g.b32 s.free o l))
    let nv := decide (∃ l ∈ lanesOf (g.active shFcmp o s.free), (r l).2 = true)
    exec (.fcmp cc fmt o) s = .next (s.with ((g.setErr (if nv then 0x100 else 0)).wrote c (g.qOut o.d.toNat (g.active shFcmp o s.free)
      (maskOf (fun l => (r l).1)))))

/-- R263: the conversions. -/
def Parts.FloatConversions : Prop :=
  let a := fun (s : State) (g : Machine.Group) (o : EOps) (l : Nat) => g.la32 s.free o l
  let one := fun (r : Nat × Conds) => ((BitVec.ofNat 32 r.1, r.2) : Word × Conds)
  FloatE .fcvtF16F32 shFcvtF16F32 (fun s g o l => one (toF16 fp16 (hintMode o) (a s g o l))) ∧
  FloatE .fcvtBf16F32 shFcvtF16F32 (fun s g o l => one (toF16 bf16 (hintMode o) (a s g o l))) ∧
  FloatE .fcvtF32F16 shFrnd (fun s g o l => fromF16 fp16 (g.a32 s.free o l)) ∧
  FloatE .fcvtF32Bf16 shFrnd (fun s g o l => fromF16 bf16 (g.a32 s.free o l)) ∧
  FloatE .fcvtS32F32 shFcvtF16F32 (fun s g o l => toInt32 (-2 ^ 31) (2 ^ 31 - 1) (hintMode o) (a s g o l)) ∧
  FloatE .fcvtU32F32 shFcvtF16F32 (fun s g o l => toInt32 0 (2 ^ 32 - 1) (hintMode o) (a s g o l)) ∧
  FloatE .fcvtF32S32 shFcvtF32S32 (fun s g o l => fromInt32 (hintMode o) (a s g o l).toInt) ∧
  FloatE .fcvtF32U32 shFcvtF32S32 (fun s g o l => fromInt32 (hintMode o) (a s g o l).toNat) ∧
  FloatE .fcvtF16x2F32 shFadd (fun s g o l => cvtPair fp16 (hintMode o) (g.a32 s.free o l) (g.b32 s.free o l)) ∧
  FloatE .fcvtBf16x2F32 shFadd (fun s g o l => cvtPair bf16 (hintMode o) (g.a32 s.free o l) (g.b32 s.free o l)) ∧
  FloatE .fcvtTpF32 shFcvtTpF32 (fun s g o l => toTapered (o.x.toNat % 16) (a s g o l)) ∧
  FloatE .fcvtF32Tp shFcvtF32Tp (fun s g o l => fromTapered (o.x.toNat % 16) (g.a32 s.free o l))

/-- R129, R131, R133, R135: reading a pattern and encoding its value gives the pattern again, for every IEEE format but for NaNs, which
become the canonical NaN, and for the tapered formats of 6 and 8 bits. -/
def Obligations.FormatRoundTrips : Prop :=
  (∀ f ∈ ([fp16, bf16, fp32, fp64] : List FFmt), ∀ p < 2 ^ f.width,
    f.encode (f.decode p) = if (f.decode p).isNan then f.cnan else p) ∧
  (∀ e ∈ ([(6, 0), (6, 1), (8, 0), (8, 1), (8, 2)] : List (Nat × Nat)), ∀ p < 2 ^ e.1, taperedEncode (taperedDecode p e.1 e.2) e.1 e.2 = p)

/-- R264: FSPEC is a long-latency instruction that brings, in each active lane, the value and the conditions of its function; at a
special operand the value is the table's. -/
def Obligations.SpecialFunctions : Prop :=
  (∀ (mk : EOps → Instr) (fn : SpecFn), (mk, fn) ∈ [((fun o => Instr.fspecRcp o), SpecFn.rcp), ((fun o => .fspecRsq o), .rsq),
      ((fun o => .fspecSqrt o), .sqrt), ((fun o => .fspecExp2 o), .exp2), ((fun o => .fspecLog2 o), .log2),
      ((fun o => .fspecSin o), .sin), ((fun o => .fspecCos o), .cos), ((fun o => .fspecTanh o), .tanh)] →
    ∀ o s g c, Runs {} shFspecRcp o s g c →
      let m := g.active shFspecRcp o s.free
      let r := fun (l : Nat) => fspecVal fn (s.free * 16 + l) (g.specArg s.free o l)
      exec (mk o) s = .next (s.with (g.started c { id := 0
                                                   dests := [.v o.d.toNat]
                                                   lanes := m
                                                   outs := outsOf o m (fun l => [(r l).1])
                                                   fp := (lanesOf m).map (fun l => (l, (r l).2.bits.toNat)) }))) ∧
  (∀ free, fspecVal .rcp free 0 = (0x7F800000#32, { dz := true }) ∧ fspecVal .rcp free 0x80000000#32 = (0xFF800000#32, { dz := true }) ∧
    fspecVal .rsq free 0 = (0x7F800000#32, { dz := true }) ∧ fspecVal .sqrt free 0x80000000#32 = (0x80000000#32, {}) ∧
    fspecVal .sqrt free 0xBF800000#32 = (0x7FC00000#32, { nv := true }) ∧ fspecVal .exp2 free 0 = (0x3F800000#32, {}) ∧
    fspecVal .log2 free 0 = (0xFF800000#32, { dz := true }) ∧ fspecVal .log2 free 0x3F800000#32 = (0, {}) ∧
    fspecVal .sin free 0x3F800000#32 = (0, {}) ∧ fspecVal .cos free 0 = (0x3F800000#32, {}) ∧
    fspecVal .tanh free 0x7F800000#32 = (0x3F800000#32, {}) ∧ fspecVal .sin free 0x7F800000#32 = (0x7FC00000#32, { nv := true }))

/-! ### The precision engine (chapter 10) -/

/-- What the lanes of a VP instruction meet before it starts (R143, R270, R275): valid source heads, a precision inside the capacity
or SAT, and room in the engine. -/
structure VpReady (s : State) (g : Machine.Group) (m : Half) (srcs : List (BitVec 10)) (vpDst : Bool) : Prop where
  heads : maskOf (fun l => m.getLsbD l && srcs.any (fun j => VpElt.badHead (g.vpWord s.free j.toNat 0 l))) = 0
  fits : vpDst = true → maskOf (fun l => m.getLsbD l && decide (g.lmax < g.precP l) && !g.precSat l) = 0
  room : vpFull s = false

/-- A VP instruction: where no lane trips the guard it starts with the lanes' words, predicate bits and bits of %vpstat; where a lane
does, it starts with PRECISION subcode 3 and no result (R268, R272, R273, R277). -/
def VpDoes (i : Instr) (sh : Shape) (o : EOps) (srcs : List (BitVec 10)) (vpDst : Bool) (f : State → Group → Nat → VpLane) : Prop :=
  ∀ s g c, Runs {} sh o s g c → VpReady s g (g.active sh o s.free) srcs vpDst →
    let m := g.active sh o s.free
    let trips := maskOf (fun l => m.getLsbD l && (f s g l).trip)
    let p : Pend := { id := 0, dests := writesOf sh o, lanes := m, vp := true }
    (trips = 0 → exec i s = .next (s.with (g.started c { p with
      outs := (lanesOf m).flatMap (fun l => (f s g l).outs)
      qouts := if sh.d = .qd then [(o.d.toNat, maskOf (fun l => m.getLsbD l && (f s g l).bit))] else []
      vpbits := (lanesOf m).map (fun l => (l, (f s g l).bits)) }))) ∧
    (trips ≠ 0 → exec i s = .next (s.with (g.started c { p with
      cause := some (1, { cause := causePrec, sub := 3, addr := c.here, lanes := g.fold trips }) })))

/-- The result of a VP operation with exact value `x.1` and conditions `x.2` of its own: rounded once to the lane's P bits, or to the
capacity with CLAMP (R270, R271, R274). -/
def vpRounded (g : Machine.Group) (o : EOps) (l : Nat) (x : XReal × Conds) : VpLane :=
  let big := decide (g.lmax < g.precP l)
  let r := roundVP x.1 (if big then g.lmax else g.precP l) (g.vpMode o l)
  { outs := g.vpOuts o.d.toNat l r.1, bits := vpBits (r.2.or x.2) big }

/-- R270 to R274, R280, R283: VP sums, products, fused products, quotients, roots, comparisons and moves. -/
def Obligations.PrecisionArithmetic : Prop :=
  ∀ o,
    let a := fun (s : State) (g : Machine.Group) l => g.vpA s.free o l
    let b := fun (s : State) (g : Machine.Group) l => g.vpB s.free o l
    let z := fun (s : State) (g : Machine.Group) l => g.vpC s.free o l
    VpDoes (.vpadd o) shVpadd o [o.a, o.b] true (fun s g l =>
      { vpRounded g o l (vpAddR (g.vpMode o l) (a s g l) (b s g l)) with trip := guardTrips (g.precP l) (g.precGuard l) (a s g l) (b s g l) }) ∧
    VpDoes (.vpaddSub o) shVpadd o [o.a, o.b] true (fun s g l =>
      { vpRounded g o l (vpAddR (g.vpMode o l) (a s g l) (b s g l).negate) with
        trip := guardTrips (g.precP l) (g.precGuard l) (a s g l) (b s g l).negate }) ∧
    VpDoes (.vpmul o) shVpadd o [o.a, o.b] true (fun s g l => vpRounded g o l (vpMulR (a s g l) (b s g l))) ∧
    VpDoes (.vpfma o) shVpfma o [o.a, o.b, o.c] true (fun s g l =>
      { vpRounded g o l (vpFmaR (g.vpMode o l) false (a s g l) (b s g l) (z s g l)) with
        trip := guardTrips (g.precP l) (g.precGuard l) (XReal.mul (a s g l) (b s g l)) (z s g l) }) ∧
    VpDoes (.vpfmaNeg o) shVpfma o [o.a, o.b, o.c] true (fun s g l =>
      { vpRounded g o l (vpFmaR (g.vpMode o l) true (a s g l) (b s g l) (z s g l)) with
        trip := guardTrips (g.precP l) (g.precGuard l) (XReal.mul (a s g l) (b s g l)).negate (z s g l) }) ∧
    VpDoes (.vpdiv o) shVpadd o [o.a, o.b] true (fun s g l => vpRounded g o l (vpDivR (min (g.precP l) g.lmax) (a s g l) (b s g l))) ∧
    VpDoes (.vpsqrt o) shVpsqrt o [o.a] true (fun s g l => vpRounded g o l (vpSqrtR (min (g.precP l) g.lmax) (a s g l))) ∧
    (∀ cc, VpDoes (.vpcmp cc o) shVpcmp o [o.a, o.b] false (fun s g l =>
      { bit := (fCompare cc (a s g l) (b s g l)).1, bits := vpBits { nv := (fCompare cc (a s g l) (b s g l)).2 } false })) ∧
    VpDoes (.vpmov o) shVpmov o [o.a] false (fun s g l => { outs := g.vpOuts o.d.toNat l (g.vpElt s.free o.a.toNat l) }) ∧
    VpDoes (.vpmovNeg o) shVpmov o [o.a] false (fun s g l =>
      { outs := g.vpOuts o.d.toNat l { g.vpElt s.free o.a.toNat l with neg := !(g.vpElt s.free o.a.toNat l).neg } }) ∧
    VpDoes (.vpmovAbs o) shVpmov o [o.a] false (fun s g l => { outs := g.vpOuts o.d.toNat l { g.vpElt s.free o.a.toNat l with neg := false } })

/-- R281, R282: VP rounding and conversions. -/
def Parts.PrecisionConversions : Prop :=
  ∀ o,
    let a := fun (s : State) (g : Machine.Group) l => g.vpA s.free o l
    let into := fun (x : XReal) => ((x, { nv := x.isSnan }) : XReal × Conds)
    VpDoes (.vprndInt o) shVpsqrt o [o.a] true (fun s g l =>
      match a s g l with
      | .fin n m e =>
        let y := roundUnit (.fin n m e) (max 0 (flog2 m e - (min (g.precP l) g.lmax : Nat))) (g.vpMode o l)
        { outs := g.vpOuts o.d.toNat l (roundVP y (min (g.precP l) g.lmax) (g.vpMode o l)).1
          bits := vpBits { nx := !(XReal.eq y (.fin n m e)) } (decide (g.lmax < g.precP l)) }
      | x => vpRounded g o l (into x)) ∧
    VpDoes (.vprndLen o) shVprndLen o [o.a] true (fun s g l =>
      let r := roundVP (a s g l) (min (o.x.toNat % 256) (min (g.precP l) g.lmax)) (g.vpMode o l)
      { outs := g.vpOuts o.d.toNat l r.1, bits := vpBits (r.2.or (into (a s g l)).2) (decide (g.lmax < g.precP l)) }) ∧
    VpDoes (.vpcvtVpF32 o) shVpcvtVpF32 o [] true (fun s g l => vpRounded g o l (into (fp32.decode (g.a32 s.free o l).toNat))) ∧
    VpDoes (.vpcvtVpF64 o) shVpcvtVpF64 o [] true (fun s g l => vpRounded g o l (into (fp64.decode (g.a64 s.free o l).toNat))) ∧
    VpDoes (.vpcvtVpS64 o) shVpcvtVpF64 o [] true (fun s g l => vpRounded g o l (XReal.ofInt (g.a64 s.free o l).toInt 0 false, {})) ∧
    VpDoes (.vpcvtVpT16 o) shVpcvtVpF32 o [] true (fun s g l => vpRounded g o l (taperedDecode ((g.a32 s.free o l).toNat % 65536) 16 1, {})) ∧
    VpDoes (.vpcvtF32Vp o) shVpcvtF32Vp o [o.a] false (fun s g l =>
      let r := roundFBits (a s g l) fp32 (g.vpMode o l)
      { outs := [(vKey o.d.toNat l, BitVec.ofNat 32 r.1)], bits := vpBits { r.2 with nv := (a s g l).isSnan } false }) ∧
    VpDoes (.vpcvtF64Vp o) shVpcvtF64Vp o [o.a] false (fun s g l =>
      let r := roundFBits (a s g l) fp64 (g.vpMode o l)
      { outs := laneOuts o.d.toNat l (wordsOf64 (BitVec.ofNat 64 r.1)), bits := vpBits { r.2 with nv := (a s g l).isSnan } false }) ∧
    VpDoes (.vpcvtS64Vp o) shVpcvtF64Vp o [o.a] false (fun s g l =>
      let r := toIntClamp (a s g l) (g.vpMode o l) (-2 ^ 63) (2 ^ 63 - 1)
      { outs := laneOuts o.d.toNat l (wordsOf64 (BitVec.ofInt 64 r.1)), bits := vpBits r.2 false }) ∧
    VpDoes (.vpcvtT16Vp o) shVpcvtT16Vp o [o.a] false (fun s g l =>
      { outs := [(vKey o.d.toNat l, BitVec.ofNat 32 (taperedEncode (a s g l) 16 1))]
        bits := vpBits (match a s g l with
          | .nan _ => { nv := true }
          | .inf _ => { nv := true }
          | x => { nx := !(XReal.eq (taperedDecode (taperedEncode x 16 1) 16 1) x) }) false })

/-- R265, R278, R279: VPREC writes fields of %prec in the active lanes; VPGET reads a head or a slice. -/
def Parts.PrecisionControl : Prop :=
  let field := fun (setP setMode : Bool) (s : State) (o : EOps) (g0 g : Machine.Group) (l : Nat) =>
    let old := (g.precOf l).toNat
    let w := (g0.b32 s.free o l).toNat
    let p := if setP then (if 224 < w then 255 else w) else old % 256
    let hi := if setMode then o.x.toNat / 16 % 256 * 4096 + o.x.toNat / 8 % 2 * 2048 + o.x.toNat % 8 * 256 else old / 256 % 4096 * 256
    g.putPrec l (BitVec.ofNat 32 (hi + p))
  let after := fun (setP setMode : Bool) (sh : Shape) (s : State) (g : Machine.Group) (o : EOps) =>
    (lanesOf (g.active sh o s.free)).foldl (fun g' l => field setP setMode s o g' g' l) g
  DoesE .vprecSet (fun _ => {}) (fun _ => shVprecSet) (after true true shVprecSet) (fun _ _ _ => []) ∧
  DoesE .vprecP (fun _ => {}) (fun _ => shVprecP) (after true false shVprecP) (fun _ _ _ => []) ∧
  DoesE .vprecMode (fun _ => {}) (fun _ => shVprecMode) (after false true shVprecMode) (fun _ _ _ => []) ∧
  LaneE .vpgetHead shVpgetHead (fun s g o l => [g.vpWord s.free o.a.toNat 0 l]) ∧
  (∀ o s g c, Runs { illegal := fun _ g => decide (g.info.vpc ≤ o.x.toNat % 8) } shVpgetSlice o s g c →
    exec (.vpgetSlice o) s = .next (s.with (g.wrote c (laneOutsE shVpgetSlice (fun s g o l => [g.vpWord s.free o.a.toNat (o.x.toNat % 8) l]) s g o))))

/-- The head of an element in the scratchpad of the group's cohort, lowest byte first, and its fraction bytes (R269). -/
def scrHead (s : State) (g : Machine.Group) (va : Dword) : Word :=
  let byte := fun (i : Nat) => (s.cohort g.cohort).scr.getD (va.toNat % 2 ^ 60 + i) 0
  byte 3 ++ byte 2 ++ byte 1 ++ byte 0
def scrBody (s : State) (g : Machine.Group) (va : Dword) : List Byte :=
  (List.range (((scrHead s g va).toNat % 256 + 7) / 8)).map (fun i => (s.cohort g.cohort).scr.getD (va.toNat % 2 ^ 60 + 4 + i) 0)

/-- The elements that VPLD reads from the scratchpad: each lane's at its own address, or, packed, where the element before it ended. -/
def scrElts (k : VpAddr) (s : State) (g : Machine.Group) (o : EOps) : List Nat → Option Dword → List (Nat × Dword)
  | [], _ => []
  | l :: ls, next =>
    let va := match k, next with
      | .packed, some a => a
      | _, _ => vpAddrOf k g s.free o l
    (l, va) :: scrElts k s g o ls (some (va + BitVec.ofNat 64 (4 + (scrBody s g va).length)))

/-- R284, R285: VPLD in each of its four forms completes: where every lane's element lies in the group's scratchpad, passes the checks, has a
valid head, and fits the capacity or the lane has SAT, it starts with the elements as its results (R143, R301). -/
def Parts.PrecisionLoadsComplete : Prop :=
  ∀ f ∈ ([((fun o => .vpld o), .plain, shVpld), ((fun o => .vpldStr o), .strided, shVpldStr), ((fun o => .vpldIdx o), .indexed, shVpldIdx),
      ((fun o => .vpldPack o), .packed, shVpldPack)] : List ((EOps → Instr) × VpAddr × Shape)),
    ∀ o s g c, Runs {} f.2.2 o s g c → vpFull s = false →
    let g0 : Machine.Group := { g with wait := .none }
    fenceWait (issuing s g) g0 { loads := true } = false → burrowOf s s.cur = [] → g.ratoms = [] → (s.core g.core).tile.jobs = [] →
    g.deny = [] → g.info.prot = false → (g.id.world = true ∨ (s.cohort g.cohort).id.world = false) →
    let m := g.active f.2.2 o s.free
    let es := scrElts f.2.1 s g o (lanesOf m) none
    (∀ e ∈ es, spaceOf e.2 = .scratch ∧ accCheck (issuing s g) g0 .ldst e.2 4 1 = none ∧
      accCheck (issuing s g) g0 .ldst e.2 (4 + (scrBody s g e.2).length) 1 = none ∧ VpElt.badHead (scrHead s g e.2) = false ∧
      ((scrHead s g e.2).toNat % 256 ≤ g.lmax ∨ g.precSat e.1 = true)) →
    let r := fun (e : Nat × Dword) => vpLoadOuts g o.d.toNat e.1 (g.precOf e.1) (VpElt.ofBytes (scrHead s g e.2) (scrBody s g e.2))
    exec (f.1 o) s = .next (s.with (g.started c { id := 0, dests := writesOf f.2.2 o, lanes := m, vp := true, outs := es.flatMap (fun e => (r e).outs)
                                                  vpbits := es.flatMap (fun e => (r e).vpbits), vas := es }))

/-- R284, R285: VPLD reads the heads of its lanes' elements, and where all are read and valid and none of them waits, starts as a load of
the elements, from memory of any kind. -/
def Parts.PrecisionLoads : Prop :=
  ∀ f ∈ ([((fun o => .vpld o), .plain, shVpld), ((fun o => .vpldStr o), .strided, shVpldStr), ((fun o => .vpldIdx o), .indexed, shVpldIdx),
      ((fun o => .vpldPack o), .packed, shVpldPack)] : List ((EOps → Instr) × VpAddr × Shape)),
    ∀ o s g c, Runs {} f.2.2 o s g c → vpFull s = false →
    let m := g.active f.2.2 o s.free
    let g0 : Machine.Group := { g with wait := .none }
    fenceWait (issuing s g) g0 { loads := true } = false →
    g.mismatch (g.fold m) (fun v => vpAddrOf f.2.1 g s.free o (2 * v) != vpAddrOf f.2.1 g s.free o (2 * v + 1)) = 0 →
    let p := headLoop (decide (f.2.1 = .packed)) (o.hint.toNat % 4) ((accLanes g m).map (fun l => (l, vpAddrOf f.2.1 g s.free o l))) none
      (issuing s g)
    (∀ accs, p.2 = accs.map (fun a => HeadRes.ok a none) → p.1.cur = s.cur →
      let t := p.1.with { p.1.grp s.cur with deny := [] }
      let x := opRun t s.cur (t.grp s.cur).seq { act := .vpLoad, dst := o.d.toNat, accs := accs, hint := o.hint.toNat % 4 }
      x.left = [] →
      exec (f.1 o) s = .next (applyEff c false {
        s := x.s
        g := x.s.grp s.cur
        pend := some {
          id := (t.grp s.cur).seq, dests := writesOf f.2.2 o, lanes := m, vp := true, outs := x.outs, vpbits := x.vpbits
          cause := deniedTrap (x.s.grp s.cur) x.causes (t.grp s.cur).seq, denied := x.causes
          vas := accs.map (fun a => (a.lane, a.va)) } }))

/-- The element of lane `l` that VPST stores: rounded to the store length where it is finite (R286). -/
def vpStored (s : State) (g : Machine.Group) (o : EOps) (l : Nat) : VpElt × Conds :=
  let v := g.vpElt s.free o.c.toNat l
  let n := if o.x.toNat % 256 = 0 then g.precP l else o.x.toNat % 256
  if v.cls = 1 then roundVP v.value n (g.precMode l) else (VpElt.special v.cls v.neg n, {})

/-- The lanes of VPST: each at its own address, or, packed, where the element before it ended (R284). -/
def vpStoreLanes (k : VpAddr) (s : State) (g : Machine.Group) (o : EOps) : List Nat → Option Dword → List BurrowLane
  | [], _ => []
  | l :: ls, next =>
    let bs := (vpStored s g o l).1.bytes
    let va := match k, next with
      | .packed, some a => a
      | _, _ => vpAddrOf k g s.free o l
    { lane := l, va := va, bytes := bs } :: vpStoreLanes k s g o ls (some (va + BitVec.ofNat 64 bs.length))

/-- R284, R286: VPST is a store-like instruction whose lanes carry their elements at the store length; the conditions of rounding are
recorded in %vpstat as it issues. It comes after its group's earlier VP instructions (R275). -/
def Parts.PrecisionStores : Prop :=
  ∀ f ∈ ([((fun o => .vpst o), .plain, shVpst), ((fun o => .vpstStr o), .strided, shVpstStr), ((fun o => .vpstIdx o), .indexed, shVpstIdx),
      ((fun o => .vpstPack o), .packed, shVpstPack)] : List ((EOps → Instr) × VpAddr × Shape)),
    ∀ o s g c, Runs {} f.2.2 o s g c → burrowOf s s.cur = [] → (s.core g.core).burrow.length < 64 → g.comm = [] →
    vpFull s = false → (∀ p ∈ g.pend, p.vp = false) → g.info.prot = false →
    let m := g.active f.2.2 o s.free
    let ls := vpStoreLanes f.2.1 s g o (accLanes g m) none
    fenceWait (issuing s g) { g with wait := .none } { stores := true, ctl := ls.any (fun l => ctlPlace (issuing s g) g l.va) } = false →
    storesHeld (issuing s g) s.cur false (ls.map (fun l => (l.lane, l.va, l.bytes.length))) = false →
    maskOf (fun l => m.getLsbD l && VpElt.badHead (g.vpWord s.free o.c.toNat 0 l)) = 0 →
    (∀ l ∈ ls, accCheck s g .ldst l.va l.bytes.length 1 = none) →
    let g' := (lanesOf m).foldl (fun (g' : Machine.Group) l =>
      if (vpStored s g o l).2.any then g'.setVpstat l (vpBits (vpStored s g o l).2 false) else g') g
    exec (f.1 o) s = .next (storeIssued s g' c false (o.hint.toNat % 4) .bytes ls false)


/-! ### The end of a group, device-side launches, and the command processor (chapters 3, 8, 18) -/

/-- R225, R232: EXIT waits for nothing that is still under way and delivers no cause: the group leaves its slot and its cohort; where it
was the last of its cohort, the cohort and then the launch are looked at. With a pending cause outside a handler, EXIT delivers
that cause instead. -/
def Parts.GroupsExit : Prop :=
  (∀ (i : Instr) ck o s g c, ((i = .exit o ∧ ck = {}) ∨ ∃ b : B3Ops, i = .exitB3 b ∧ o = b3AsE 0x05 shRet b ∧ ck = b3Checks 0x05 shRet b) →
    Runs (Checks.closing ck) shRet o s g c → g.pend = [] → g.comm = [] → g.ratoms = [] → g.gives = 0 → burrowOf s s.cur = [] → copyOf s g.core s.cur = false →
    let g0 : Machine.Group := { g with wait := .none }
    (g.trap.h = true ∨ g.trap.pending = [] →
      exec i s = .next (reap (s.with { g0 with run := .exited }) s.cur)) ∧
    (g.trap.h = false → ∀ k t rest, g.trap.pending = (k, t) :: rest → g.trap.tba ≠ 0 →
      exec i s = .next (s.with (({ g0 with trap := { g.trap with pending := g.trap.pending.del k } } : Machine.Group).trapHere t)))) ∧
  (∀ s gk (g : Machine.Group) k, s.groups.rising = true → s.groups.get? gk = some g → g.run = .exited → s.cohorts.get? g.cohort = some k →
    s.saved.get? g.cohort = none → k.groups.filter (fun x => x != gk) ≠ [] → g.trap.pending = [] →
    (reap s gk).groups.get? gk = none ∧ ((reap s gk).cohort g.cohort).groups = k.groups.filter (fun x => x != gk))

/-- The state after an engine's instruction that brings the words `outs` with its completion. -/
def broughtBy (c : Clause) (closes : Bool) (t : State) (g : Machine.Group) (dests : List RegId) (outs : List (Nat × Word)) : State :=
  applyEff c closes { s := t, g := g, pend := some { id := 0, dests := dests, outs := outs } }

/-- A control-space record address that passes the checks of R52 (R459). -/
def recordOk (s : State) (va : Dword) : Prop := va.toNat % 256 = 0 ∧ spaceOf va = .control ∧ vaPkg va < s.domain

/-- R457 to R460: LAUNCH queues its record and brings a handle and a status; LAUNCH.GO releases the core's queue with it; LSTAT.STATE
reads the entry of a handle, LSTAT.SELF the group's own handle. A record takes one of the four places of the core's pending queue
and its entry becomes PENDING. -/
def Parts.DeviceLaunches : Prop :=
  (∀ o s g c s1 pa e, Runs ({} : Checks).closing shAreadExact o s g c →
    let g0 : Machine.Group := { g with wait := .none }
    let va := g.s2 s.free o.a.toNat
    recordOk s va → burrowOf s s.cur = [] → g.comm = [] → fenceWait (issuing s g) g0 { rel := true, scope := 6 } = false → g.deny = [] →
    TranslatesTo (issuing s g) (g.req 0 va) s1 pa e →
    let q := queueLaunch (wbTensor s1 (clusterOf g.core)) s1.cur va
    q.1.cpStop = none →
    let end_ := fun (t : State) => broughtBy c true t (t.grp t.cur).fenceErr (writesOf shAreadExact o)
      [(sKey o.d.toNat, q.2.1), (sKey (o.d.toNat + 1), BitVec.ofNat 32 q.2.2)]
    exec (.launch o) s = .next (end_ q.1) ∧ exec (.launchGo o) s = .next (end_ (plRelease q.1 g.core))) ∧
  (∀ s gk va s1 h, takeHandle s (pkgOfCore (s.grp gk).core) (s.grp gk).id = (s1, some h) → (s1.core (s.grp gk).core).plq.length < 4 →
    queueLaunch s gk va =
      (putStatus (s1.putCore (s.grp gk).core { (s1.core (s.grp gk).core) with
          plq := (s1.core (s.grp gk).core).plq ++ [{ addr := va, handle := h, parent := (s.grp gk).id, grp := gk, num := (s.grp gk).num, seen := recordSeen s1 (s.grp gk).id va }] })
        { (s.grp gk).id with handle := h } stPending 0 0, h, 0)) ∧
  (∀ o s g c x t v, Runs {} shLstatState o s g c → s.ctx? g.id.pkg g.id.ctx = some x →
    let g0 : Machine.Group := { g with wait := .none }
    let h := g.uB32 s.free o
    h ≠ 0 → cpNum (s.with g0) (cpReq (s.with g0) g.id (x.statusAddr h)) 8 = (t, some v) → t.cpStop = none →
    exec (.lstatState o) s = .next (applyEff c false { s := t, g := t.grp t.cur, outs := [(sKey o.d.toNat,
      if bits v 0 32 = h.toNat then BitVec.ofNat 32 (bits v 32 32) else 7)] })) ∧
  (∀ o s g c, Runs {} shLstatState o s g c → g.uB32 s.free o = 0 → s.cpStop = none →
    exec (.lstatState o) s = .next (s.with (g.wrote c [(sKey o.d.toNat, 7)]))) ∧
  WritesE .lstatSelf shMaskGet (fun _ g o => [(sKey o.d.toNat, g.id.handle)])

/-- An event of the command processor that would leave the state `t` by the piece `w` of its work: that is the next state where none of its
requests is refused; where one is, nothing but the translation of that one comes about, and the piece is done again after the hint
(R23, R24). A piece that waits for its hint is not done again before. -/
def Serves (i : Instr) (s : State) (pkg : Nat) (w : CpWork) (t : State) : Prop :=
  (s.refused.any (fun r => r.who == .cp pkg w) = true → exec i s = .next s) ∧
  (s.refused.any (fun r => r.who == .cp pkg w) = false →
    (t.cpStop = none → exec i s = .next t) ∧
    (∀ r n h, t.cpStop = some (r, n, h) → exec i s = .next ((cpWalk s r n).refuse (.cp pkg w) h)))

/-- The head packet of a running queue: it is read at an address, as the number of its first 60 bytes, and it is valid. -/
structure HeadIs (s : State) (pkg a i : Nat) (t : State) (at_ : Dword) (n : Nat) : Prop where
  run : ∃ q, s.queue? pkg a i = some q ∧ q.st = .run ∧ q.ridx ≠ q.widx ∧ headPacket s pkg a i q = (t, .ok (at_, n))
  valid : packetBad t pkg a i n = 0

/-- R443 to R446: each packet at the head of a running queue is carried out and consumed with its RESULT, or blocks the queue. -/
def Parts.PacketsProcessed : Prop :=
  ∀ s pkg a i t at_ n, HeadIs s pkg a i t at_ n →
    let k32 := n.testBit 32
    let r := fun (u : State) => pktReq u pkg a i (pktD n 8)
    (n % 256 = 0 → Serves (.packetNop pkg a i) s pkg (.packet 0 a i) (consume t pkg a i at_ n 0)) ∧
    (n % 256 = 1 → ∀ u h, pktLaunch t pkg a i n = (u, .done h) → Serves (.packetLaunch pkg a i) s pkg (.packet 1 a i) (consume u pkg a i at_ n h)) ∧
    (n % 256 = 1 → 256 ≤ t.listLen pkg → Serves (.packetLaunch pkg a i) s pkg (.packet 1 a i) (packetEnd t pkg a i at_ n .wait)) ∧
    (n % 256 = 2 → Serves (.packetCopy pkg a i) s pkg (.packet 2 a i) (consume (hubStart t pkg a i (((t.queue? pkg a i).getD {}).ridx % 2 ^ 24)
      (pktD n 8) (pktD n 0x10) (bits n 192 32) (pktD n 0x20)) pkg a i at_ n 0)) ∧
    (n % 256 = 3 → n.testBit 33 = false → ∀ u, cpWrite t (r t) (natBytes (if k32 then 8 else 4) (bits n 128 64)) = (u, some ()) →
      Serves (.packetSignal pkg a i) s pkg (.packet 3 a i) (consume u pkg a i at_ n 0)) ∧
    (n % 256 = 3 → n.testBit 33 = true → ∀ u v, cpUpdate t (r t) (if k32 then 8 else 4) (fun old => old + bits n 128 64) = (u, some v) →
      Serves (.packetSignal pkg a i) s pkg (.packet 3 a i) (consume u pkg a i at_ n 0)) ∧
    (n % 256 = 4 → ∀ u v,
      let k := if n.testBit 34 then 8 else 4
      let x := v &&& (bits n 192 64 % 2 ^ (8 * k))
      let y := bits n 128 64 % 2 ^ (8 * k)
      let met := (bits n 32 2 = 0 ∧ x = y) ∨ (bits n 32 2 = 1 ∧ x ≠ y) ∨ (bits n 32 2 = 2 ∧ y ≤ x) ∨ (bits n 32 2 = 3 ∧ x < y)
      cpNum t (r t) k = (u, some v) →
      (met → Serves (.packetWait pkg a i) s pkg (.packet 4 a i) (consume u pkg a i at_ n 0)) ∧
      (¬ met → Serves (.packetWait pkg a i) s pkg (.packet 4 a i) (packetEnd u pkg a i at_ n .wait))) ∧
    (n % 256 = 5 → ∀ u, pktBarrier t pkg a i n = (u, .done 0) → Serves (.packetBarrierAnd pkg a i) s pkg (.packet 5 a i) (consume u pkg a i at_ n 0)) ∧
    (n % 256 = 6 → Serves (.packetQreset pkg a i) s pkg (.packet 6 a i) (packetEnd (beginReset t pkg a (bits n 32 6) (.packet i)) pkg a i at_ n .wait)) ∧
    (n % 256 = 7 → bits n 32 4 = 0 → (t.pkg pkg).lead = none → Serves (.gangctlSwitch pkg a i) s pkg (.packet 7 a i) (packetEnd (proposeAll t pkg (bits n 64 8) false (some (a, i))) pkg a i at_ n .wait)) ∧
    (n % 256 = 7 → bits n 32 4 = 1 → Serves (.gangctlSnap pkg a i) s pkg (.packet 8 a i) (consume (owlTrigger t pkg 2 (BitVec.ofNat 16 (bits n 64 16)) pkg false) pkg a i at_ n 0))

/-- R441, R446, R462: WIDX is observed, a blocked head is processed again, and a queue is reset and stopped. -/
def Parts.QueueEvents : Prop :=
  (∀ s pkg a i q x t w u d, s.queue? pkg a i = some q → s.ctx? pkg a = some x → q.st = .idle →
    cpNum s (fwReq s pkg (Dword.plus (x.qdesc i) 0x80)) 4 = (t, some w) → readQDesc t pkg a i = (u, .ok d) →
    (w + 2 ^ 32 - q.ridx) % 2 ^ 32 ≤ 2 ^ d.szlog → w ≠ q.ridx →
    Serves (.widxAdvance pkg a i) s pkg (.widx a i) (putQueue u pkg a i { q with st := .run, widx := w })) ∧
  (∀ s pkg a i q t at_ n, s.queue? pkg a i = some q → q.st = .blocked → headPacket s pkg a i q = (t, .ok (at_, n)) →
    n % 256 = 1 ∨ n % 256 = 4 ∨ n % 256 = 5 →
    Serves (.waitConditionMet pkg a i) s pkg (.met a i) (packetEnd (packetDo t pkg a i n).1 pkg a i at_ n (packetDo t pkg a i n).2)) ∧
  (∀ s pkg a i q, s.queue? pkg a i = some q → q.st = .resetting → q.struck = false →
    let t := abortRecords (putQueue (settleStores s) pkg a i { q with gen := (q.gen + 1) % 2 ^ 16, struck := true }) pkg a i
    t.launches = [] → (t.pkg pkg).hub = [] → Serves (.queueReset pkg a i) s pkg (.reset a i) t) ∧
  (∀ s pkg a i q x t w, s.queue? pkg a i = some q → s.ctx? pkg a = some x → q.st = .resetting → q.struck = true → q.startDue = false →
    q.waiters = [] → s.launches = [] → cpNum s (fwReq s pkg (Dword.plus (x.qdesc i) 0x80)) 4 = (t, some w) →
    Serves (.queueResetComplete pkg a i) s pkg (.resetEnd a i) (putQueue t pkg a i { q with st := .stopped, ridx := w, widx := w, struck := false, startDue := false, waiters := [] }))

/-- The request of a registration slot is the command OPC, and is not under way. -/
def SlotAsks (s : State) (pkg slot : Nat) (r : WinReq) (opc : Nat) : Prop :=
  (s.winSlot pkg slot).req = some r ∧ (s.winSlot pkg slot).begun = false ∧ r.opc = opc

/-- R447, R448: a ticket is taken up, and each command of the registration window is answered with its status. -/
def Obligations.RegistrationCommands : Prop :=
  (∀ s pkg slot t v, (s.pkg pkg).up = true → slot < 16 → (s.winSlot pkg slot).req = none →
    cpNum s (fwReq s pkg (slotAddr pkg slot)) 0x84 = (t, some v) → bits v 0 32 ≠ bits v 1024 32 →
    Serves (.registrationTicket pkg slot) s pkg (.ticket slot) (t.putSlotReq pkg slot (some {
      ticket := BitVec.ofNat 32 v, opc := bits v 32 8, arg0 := BitVec.ofNat 64 (bits v 64 64), arg1 := BitVec.ofNat 64 (bits v 128 64)
      world := (t.winSlot pkg slot).world }) false)) ∧
  (∀ s pkg slot r t n u, SlotAsks s pkg slot r 1 → ctlAddr s r.arg0 64 = true →
    cpNum s { fwReq s pkg r.arg0 with world := r.world } 0x34 = (t, some n) →
    let x := parseCtx r.arg0 n
    let a := bits n 64 12
    ctxOk t x n = true → (x.world = true → r.world = true) → t.ctx? pkg a = none →
    openQueues pkg a x (x.nq + 1) (t.putCtx pkg a x) = (u, true) →
    Serves (.ctxreg pkg slot) s pkg (.command 1 slot) (answer u pkg slot 0 a)) ∧
  (∀ s pkg slot r x, SlotAsks s pkg slot r 2 → namedCtx s pkg r = .ok x →
    (∀ i ≤ x.nq, (x.queues.getD i {}).st = .stopped) → s.launches = [] →
    Serves (.ctxdereg pkg slot) s pkg (.command 2 slot) (answer (s.putPkg pkg { (s.pkg pkg) with ctxs := (s.pkg pkg).ctxs.del r.arg0.toNat }) pkg slot 0 0)) ∧
  (∀ s pkg slot r x, namedCtx s pkg r = .ok x → r.arg1.toNat ≤ x.nq →
    (SlotAsks s pkg slot r 3 → Serves (.qstart pkg slot) s pkg (.command 3 slot) (answer (startQueue s pkg r.arg0.toNat r.arg1.toNat) pkg slot 0 0)) ∧
    (SlotAsks s pkg slot r 4 → Serves (.qresetCommand pkg slot) s pkg (.command 4 slot) ((beginReset s pkg r.arg0.toNat r.arg1.toNat (.slot slot)).putSlotReq pkg slot (some r) true))) ∧
  (∀ s pkg slot r opc, SlotAsks s pkg slot r opc → opc = 0 ∨ 5 ≤ opc →
    Serves (.invalidCommand pkg slot) s pkg (.command 5 slot) (answer s pkg slot 7 0))

/-- R450, R452, R457, R73 to R76: records are taken from a released queue and accepted; a ramp step counts starts anew and the
next unit of a launch is placed; a cohort that is pre-empted stops, and is saved once it stands at its pre-emption points, and a saved one
is restored. -/
def Parts.DispatcherEvents : Prop :=
  (∀ s core, let x := s.core core
    let p := s.pkg (pkgOfCore core)
    x.plq.filter (fun e => e.released) ≠ [] → p.spills.filter (fun e => e.released) = [] →
    Serves (.pendingQueueTake core) s (pkgOfCore core) (.take core) ((s.putCore core { x with plq := x.plq.filter (fun e => !e.released) }).putPkg (pkgOfCore core)
      { p with spills := p.spills.filter (fun e => !e.released), work := p.work ++ x.plq.filter (fun e => e.released) })) ∧
  (∀ s pkg e rest t, (s.pkg pkg).work = e :: rest → s.listLen pkg < 256 →
    acceptLaunch (s.putPkg pkg { (s.pkg pkg) with work := rest }) pkg e.addr { e.parent with handle := e.handle } e.parent.handle e.seen = (t, true) →
    Serves (.launchAccept pkg 0) s pkg (.accept 0) t) ∧
  (∀ s pkg e rest t g, (s.pkg pkg).work = e :: rest → s.listLen pkg < 256 →
    acceptLaunch (s.putPkg pkg { (s.pkg pkg) with work := rest }) pkg e.addr { e.parent with handle := e.handle } e.parent.handle e.seen = (t, false) →
    t.groups.get? e.grp = some g → t.onCore g g.core = true →
    Serves (.launchAccept pkg 0) s pkg (.accept 0) { t with groups := t.groups.put e.grp (g.post { cause := causeLaunch, lanes := g.em, seq := g.seq }) }) ∧
  (∀ s pkg, s.cohorts = [] → s.launches = [] →
    exec (.rampStep pkg) s = .next (s.putPkg pkg { s.pkg pkg with rampNow := (s.pkg pkg).ramp, starts := [] })) ∧
  (∀ s pkg lk l, s.cohorts = [] → s.launches = [(lk, l)] → l.st = .running → l.takers.contains pkg = true →
    exec (.rampStep pkg) s =
      .next (serveLaunch pkg [] (lk, l) (s.putPkg pkg { s.pkg pkg with rampNow := (s.pkg pkg).ramp, starts := [] }))) ∧
  (∀ s lk l pkg d cs, s.launches.get? lk = some l → l.st = .running → l.due pkg ≠ l.info.cohorts → sliceOk s l pkg = true →
    (diesFor s l pkg (l.due pkg)).findSome? (fun d => (placeOn s l (l.due pkg) d).map (fun cs => (d, cs))) = some (d, cs) →
    placeNext s lk pkg [] = some (startUnit s lk l pkg (l.due pkg) cs)) ∧
  (∀ s ck c l c', s.cohorts.get? ck = some c → s.launches.get? c.launch = some l → l.st = .running →
    let t := c.groups.foldl commAll (stopCohort s ck)
    t.cohorts.get? ck = some c' →
    (savable t c' = true → exec (.preempt ck) s = .next (saveCohort t ck .other)) ∧
    (savable t c' = false → exec (.preempt ck) s = .next t)) ∧
  (∀ s ck core x l, s.saved.get? ck = some x → s.launches.get? x.cohort.launch = some l → l.st = .running → l.info.nw = 0 →
    x.cohort.neigh = [] → x.why = .other → dieOfCore core = x.die → (∀ gk ∈ x.cohort.groups, burrowOf s gk = []) →
    fitsCore s l.info x.cohort.stash core = true → sliceOk s l (pkgOfCore core) = true →
    Serves (.cohortRestore ck core) s (pkgOfCore core) (.restore ck core) (restoreOne s ck core []))

/-- R198: a cohort that has issued nothing since it became resident issues only where the ramp step has room for the starts of its unit,
and its first issue counts them; a unit of more cohorts than STARTMAX starts alone, and STARTMAX 0 sets no limit. -/
def Parts.StartsCounted : Prop :=
  (∀ s dk n, mayStart s dk n = true ↔
    let m := (s.pkg (dk / 4)).rampNow.toNat % 256
    let used := (s.pkg (dk / 4)).starts.getD (dk % 4) 0
    m = 0 ∨ used + n ≤ m ∨ (m < n ∧ used = 0)) ∧
  (∀ s ck c, s.cohorts.get? ck = some c → c.begun = false → c.neigh = [] →
    (mayStart s (dieOfCore c.core) 1 = false → ∀ gk, (s.grp gk).cohort = ck → ready s gk = false) ∧
    beginCohort s ck = countStart { s with cohorts := s.cohorts.put ck { c with begun := true } } (dieOfCore c.core) 1) ∧
  (∀ s ck c, s.cohorts.get? ck = some c → c.begun = true → mayIssue s ck = true ∧ beginCohort s ck = s)

/-- R464, R465: PROPOSE, the saving of a slice, ACK and COMMIT move a member from one slice to the next. -/
def Parts.GangProtocol : Prop :=
  (∀ s n m slice again cur, s.gmsgs[n]? = some m → m.word = .propose slice again → (s.pkg m.dest).gst = .run cur → ¬ (again = true ∧ cur = slice) →
    let t := { s with gmsgs := s.gmsgs.eraseIdx n }
    let u := t.putPkg m.dest { (s.pkg m.dest) with gst := .drain cur slice }
    exec (.gangPropose n) s = .next ((sliceCohorts t m.dest cur).foldl stopCohort u)) ∧
  (∀ s pkg cur next, (s.pkg pkg).gst = .drain cur next → sliceCohorts s pkg cur = [] →
    exec (.gangSliceSaved pkg) s = .next (sendGang (s.putPkg pkg { (s.pkg pkg) with gst := .acked cur next }) pkg (leaderOf s pkg) (.ack next))) ∧
  (∀ s n m slice l, s.gmsgs[n]? = some m → m.word = .ack slice → (s.pkg m.dest).lead = some l → l.slice = slice →
    l.waits.filter (fun x => x != m.src) ≠ [] →
    exec (.gangAck n) s = .next (({ s with gmsgs := s.gmsgs.eraseIdx n }).putPkg m.dest
      { (s.pkg m.dest) with lead := some { l with waits := l.waits.filter (fun x => x != m.src) } })) ∧
  (∀ s n m slice cur, s.gmsgs[n]? = some m → m.word = .commit slice → (s.pkg m.dest).gst = .acked cur slice →
    exec (.gangCommit n) s = .next (({ s with gmsgs := s.gmsgs.eraseIdx n }).putPkg m.dest { (s.pkg m.dest) with gst := .run slice }))


/-! ### The tile engine and the power arbiter (chapters 7 and 12) -/

/-- A tile instruction whose checks pass is accepted while fewer than 16 have not completed (R335), one that stores after the .comm
reductions of its group (R152): with the operation that it takes from the group, the bytes that it is to store to, and the engine changed
by `set`; it is pending until the engine has done it. -/
def TileStarts (i : Instr) (sh : Shape) (o : EOps) (ill role : State → Machine.Group → Bool) (passes : State → Machine.Group → Prop)
    (op : State → Machine.Group → TileOp) (set : State → Machine.Group → TileEng → TileEng) (dests : List RegId) (lanes : State → Machine.Group → Half) : Prop :=
  ∀ s g c, Runs (tileChecks {} ill role) sh o s g c → passes s g → (s.tile g.core).jobs.length < 16 →
    ((op s g).writes = true → g.comm = []) →
    let t := set s g (s.tile g.core)
    exec i s = .next ((s.putTile g.core { t with
      jobs := t.jobs ++ [{ num := t.next, grp := s.cur, pend := g.seq, op := op s g, dest := (op s g).dest }], next := t.next + 1 }).with
        (g.started c { id := 0, wait := .tile t.next, dests := dests, lanes := lanes s g }))

/-- A count field of TLDB and TLDA (R341): 0, or more than there are, means all. -/
def countOf (n full : Nat) : Nat := if n = 0 ∨ full < n then full else n

/-- The two counts of TLDB and TLDA: from register C where X[9] is set, else all (R341). -/
def loadCounts (s : State) (g : Machine.Group) (o : EOps) : Nat × Nat :=
  if o.x.getLsbD 9 then (bits (g.s1 s.free o.c.toNat).toNat 0 8, bits (g.s1 s.free o.c.toNat).toNat 16 8) else (0, 0)

/-- R335, R341 to R345, R349, R350: the tile instructions are accepted with what they take from the group. -/
def Obligations.TileInstructionsStart : Prop :=
  (∀ o : EOps,
    let role := xField o 0 4
    let fmt := xField o 4 4
    let nmaj := o.x.getLsbD 8
    let addr := fun (s : State) (g : Machine.Group) => g.s2 s.free o.a.toNat
    let stride := fun (s : State) (g : Machine.Group) => (g.uB32 s.free o).toNat
    let k := fun s g => countOf (loadCounts s g o).1 96
    let n := fun s g => countOf (loadCounts s g o).2 (macWidth fmt)
    TileStarts (.tldb o) (shTldb o) o (fun _ g => fmtBad g fmt) (fun _ g => decide (g.info.macros ≤ role))
      (fun s g => OperandOk s g tileSource (fmtAlign fmt) (addr s g) (stride s g) (if nmaj then n s g else k s g)
        (((if nmaj then k s g else n s g) * fmtBits fmt + 7) / 8))
      (fun s g => .ldb role fmt nmaj (addr s g) (stride s g) (k s g) (n s g)) (fun _ _ => setMacFmt role fmt) [] (fun _ _ => 0)) ∧
  (∀ o : EOps,
    let buf := xField o 0 1
    let fmt := xField o 4 4
    let addr := fun (s : State) (g : Machine.Group) => g.s2 s.free o.a.toNat
    let stride := fun (s : State) (g : Machine.Group) => (g.uB32 s.free o).toNat
    let rows := fun s g => countOf (loadCounts s g o).1 16
    let k := fun s g => countOf (loadCounts s g o).2 96
    TileStarts (.tlda o) (shTlda o) o (fun _ g => fmtBad g fmt) (fun _ _ => false)
      (fun s g => OperandOk s g tileSource (fmtAlign fmt) (addr s g) (stride s g) (rows s g) (if fmt = 13 then 4 else (k s g * fmtBits fmt + 7) / 8))
      (fun s g => .lda buf fmt { p := g.precP 0, mode := g.precMode 0 } (addr s g) (stride s g) (rows s g) (k s g))
      (fun _ g => setBufFmt buf fmt (if fmt = 13 then g.precP 0 else 0)) [] (fun _ _ => 0)) ∧
  (∀ o : EOps,
    let m := xField o 0 4
    let cnt := xField o 4 4 + 1
    let b := xField o 8 1
    let run := fun (i : Instr) (block tri : Bool) => ∀ sh, (sh = if block then (if tri then shTmmaBlockTri else shTmmaBlock) else if tri then shTmmaTri else shTmma) →
      TileStarts i sh o (tmmaIll block tri o) (fun _ g => decide (g.info.macros < m + cnt)) (fun _ _ => True)
        (fun s g =>
          let t := s.tile g.core
          let org := g.s2 s.free o.a.toNat
          .mma m cnt b o.d.toNat block (o.hint.getLsbD 0) t.int (if tri then some t.tri else none)
            (if tri then (org.setWidth 32).toNat else 0) (if tri then (org.extractLsb' 32 32).toNat else 0)
            (t.bufs.getD b {}).fmt (t.bufs.getD b {}).p ((List.range cnt).map (fun i => (t.macs.getD (m + i) {}).fmt)))
        (fun _ _ t => t) [] (fun _ _ => 0)
    run (.tmma o) false false ∧ run (.tmmaBlock o) true false ∧ run (.tmmaTri o) false true ∧ run (.tmmaBlockTri o) true true) ∧
  (∀ o : EOps,
    let run := fun (i : Instr) (tri : Bool) => ∀ sh, (sh = if tri then shTscaTri else shTsca) →
      TileStarts i sh o (fun s g => (s.tile g.core).int || (tri && !(s.tile g.core).tri.en) || (g.info.prot && !(uA o && uB o))) (fun _ _ => false)
        (fun _ _ => True)
        (fun s g =>
          let org := g.s2 s.free o.c.toNat
          .sca o.d.toNat (xField o 0 4) (if tri then some (s.tile g.core).tri else none) (if tri then (org.setWidth 32).toNat else 0)
            (if tri then (org.extractLsb' 32 32).toNat else 0)
            ((List.range 64).map (fun i => if uA o then g.s1 s.free (o.a.toNat + i / 16) else g.v1 s.free (o.a.toNat + i / 16) (i % 16)))
            ((List.range 512).map (fun i => if uB o then g.s1 s.free (o.b.toNat + i / 128)
              else g.v1 s.free (o.b.toNat + 8 * (i / 128) + i % 128 / 16) (i % 16))))
        (fun _ _ t => t) [] (fun _ _ => 0)
    run (.tsca o) false ∧ run (.tscaTri o) true) ∧
  (∀ o : EOps,
    TileStarts (.taccZero o) shTaccZero o (fun _ _ => false) (fun _ _ => false) (fun _ _ => True) (fun _ _ => .zero (o.x.setWidth 16)) (fun _ _ t => t) []
      (fun _ _ => 0) ∧
    (∀ val, TileStarts (if val then .taccRdVal o else .taccRdPair o) (if val then shTaccRdVal else shTaccRdPair) o
      (fun _ g => !g.info.prot && decide (8 ≤ xField o 8 4)) (fun _ _ => false) (fun _ _ => True)
      (fun s g => .rd val (s.tile g.core).int (xField o 0 4) (xField o 4 4) (xField o 8 4) o.d.toNat
        (g.active (if val then shTaccRdVal else shTaccRdPair) o s.free))
      (fun _ _ t => t) (writesOf (if val then shTaccRdVal else shTaccRdPair) o) (fun s g => g.active (if val then shTaccRdVal else shTaccRdPair) o s.free)) ∧
    (let form := xField o 4 2
     TileStarts (.taccSt o) shTaccSt o (fun s g => (s.tile g.core).int != decide (form = 2)) (fun _ _ => false)
      (fun s g => OperandOk s g tileTarget (formSize form) (g.s2 s.free o.a.toNat) (g.uB32 s.free o).toNat 16 (128 * formSize form))
      (fun s g => .st form (xField o 0 4) (g.s2 s.free o.a.toNat) (g.uB32 s.free o).toNat) (fun _ _ t => t) [] (fun _ _ => 0)) ∧
    TileStarts (.taccMode o) shTaccMode o (fun _ g => g.info.check && !o.x.getLsbD 0) (fun _ _ => false) (fun _ _ => True) (fun _ _ => .mode)
      (fun _ _ t => { t with int := o.x.getLsbD 0 }) [] (fun _ _ => 0) ∧
    TileStarts (.taccTri o) shTaccTri o (fun _ _ => false) (fun _ _ => false) (fun _ _ => True) (fun _ _ => .tri)
      (fun s g t => { t with tri := if o.x.getLsbD 1 then { en := true, side := o.x.getLsbD 0, d := g.s1 s.free o.a.toNat, fill := g.uB32 s.free o }
                                     else { t.tri with en := false, side := o.x.getLsbD 0 } }) [] (fun _ _ => 0)) ∧
  (∀ (save : Bool) (o : EOps),
    let addr := fun (s : State) (g : Machine.Group) => g.s2 s.free o.a.toNat
    let tm : Half := o.x.extractLsb' 0 16
    let mm : Half := o.x.extractLsb' 16 16
    TileStarts (if save then .tctxSave o else .tctxRestore o) shTctxSave o (fun _ _ => false) (fun _ g => maskRole o g)
      (fun s g => AreaOk s g (addr s g) tm mm)
      (fun s g =>
        let t := s.tile g.core
        if save then .save (addr s g) tm mm t.int t.tri ((List.range 2).map (fun b => ((t.bufs.getD b {}).fmt, (t.bufs.getD b {}).p)))
          ((List.range 16).map (fun m => (t.macs.getD m {}).fmt))
        else .restore (addr s g) tm mm)
      (fun _ _ t => t) [] (fun _ _ => 0)) ∧
  (∀ o s g c, Runs (tileChecks {} (fun _ _ => false) (fun _ _ => false)) shTprogStep o s g c →
    exec (.tprogStep o) s = .next (s.with (g.wrote c [(sKey o.d.toNat, BitVec.ofNat 32 (s.tile g.core).step)])) ∧
    exec (.tprogTotal o) s = .next (s.with (g.wrote c [(sKey o.d.toNat, BitVec.ofNat 32 (s.tile g.core).total)])))

/-- R346, R347: TGEMM is accepted with its descriptor; its sequencer does a chunk or an output step at a time, and completes after the
last. -/
def Parts.TileProducts : Prop :=
  (∀ o : EOps,
    let desc := fun (s : State) (g : Machine.Group) => (List.range 16).map (fun i => g.s1 s.free (o.a.toNat + i))
    TileStarts (.tgemm o) shTgemm o (gemmIll o shTgemm) (fun s g => decide (g.info.macros < (Gemm.ofDesc (desc s g)).role + (Gemm.ofDesc (desc s g)).c))
      (fun s g => GemmOk s g (Gemm.ofDesc (desc s g)))
      (fun s g => .gemm (desc s g) (o.hint.getLsbD 0) (s.tile g.core).int { p := g.precP 0, mode := g.precMode 0 })
      (fun s g t =>
        let d := Gemm.ofDesc (desc s g)
        if d.empty then t
        else
          let p := if d.fa = 13 then g.precP 0 else 0
          (List.range d.c).foldl (fun t i => setMacFmt (d.role + i) d.fb t) (setBufFmt 1 d.fa p (setBufFmt 0 d.fa p t)))
      [] (fun _ _ => 0)) ∧
  (∀ s core (j : TileJob) desc sat int vp,
    let t := s.tile core
    let d := Gemm.ofDesc desc
    let rb := d.rb t.step
    let cg := d.cg t.step
    let kc := d.kc t.step
    t.jobs.find? (fun j => j.running && !j.held) = some j → j.op = .gemm desc sat int vp →
    (s.die (dieOfCore core)).powerHeld (.tile core j.num) = true →
    (∀ u p, kc < d.nkc →
      runLoads core j (d.lines vp rb cg kc) (if kc = 0 ∧ j.pos = 0 then s.putTile core (d.clear t cg) else s) = { s := u, pos := p } →
      exec (.tgemmStep core) s = .next (gemmNext (u.putTile core (d.pass vp sat int (u.tile core) rb cg kc)) core j)) ∧
    (∀ u p, d.nkc ≤ kc →
      let v := if j.pos = 0 then s.putTile core (d.fills t rb cg) else s
      runStores j (d.elts (v.tile core) rb cg) v = { s := u, pos := p } →
      exec (.tgemmStep core) s = .next (gemmNext u core j))) ∧
  (∀ s core (j : TileJob),
    let t := { (s.tile core) with step := (s.tile core).step + 1 }
    let u := s.putTile core (t.setJob { j with pos := 0 })
    gemmNext s core j = if t.step < t.total then u else tileDone u core { j with pos := 0 } [] none)

/-- R195, R328, R332, R334, R336, R338, R343: an accepted instruction starts when the earlier ones that share its resources have completed,
its accesses are due and it has its power units; of a cohort that is to be pre-empted, a TGEMM that nothing else waits for asks for none; a
plain pass adds to each element, block by block, the block sums of its row and column; masked elements take
the fill, and every other element of the engine stays. -/
def Parts.TilePasses : Prop :=
  (∀ s core n j, (s.tile core).jobs.find? (fun j => decide (j.num = n)) = some j → j.running = false → tileFree s core j = true →
    ((s.cohort (s.grp j.grp).cohort).stop = true → (∀ x ∈ (s.tile core).jobs, n ≤ x.num → x.op.isGemm = true) →
      exec (.tileInstructionStart core n) s = .next s) ∧
    (tileStays s core j = false → j.op.units = 0 ∨ (s.die (dieOfCore core)).powerHeld (.tile core n) = true → exec (.tileInstructionStart core n) s = .next (tileDo s core j)) ∧
    (tileStays s core j = false → j.op.units ≠ 0 → (s.die (dieOfCore core)).powerHeld (.tile core n) = false →
      exec (.tileInstructionStart core n) s = .next (powerAsk s (dieOfCore core) (.tile core n) j.op.units))) ∧
  (∀ (t : TileEng) tile w (f : Nat → Nat → Pair → Pair) tile' r c, t.tiles.rising = true → w ≤ 128 → r < 16 → c < 128 →
    (t.mapTile tile w f).elt tile' r c = if tile' = tile ∧ c < w then f r c (t.elt tile r c) else t.elt tile' r c) ∧
  (∀ (t : TileEng) buf mac d bfmt p mfmt sat tri row0 col r c, t.tiles.rising = true → r < 16 → c < macWidth mfmt → triWhole tri row0 col (macWidth mfmt) = false →
    let a := fun b => (t.bufs.getD buf {}).block r b
    let e := fun b => (t.macs.getD mac {}).block mfmt c b
    let add := fun (q : Pair) b => twoSum q (blockPair (blockSum (if bfmt = 13 then p + 1 else 24) (a b) (e b))).value
    (macPass t buf mac d bfmt p mfmt false sat false tri row0 col).elt d r c =
      if triMasked tri (row0 + r) (col + c) then (tri.getD {}).fillElt else add (add (add (add (t.elt d r c) 0) 1) 2) 3) ∧
  (∀ a e : List XReal, (a.zip e).any (fun p => p.1.isNan || p.2.isNan || XReal.mulInvalid p.1 p.2) = true → ∀ wa, blockSum wa a e = .nan false)

/-- R194 to R196, R365: the arbiter grants the head request when it fits the budget or nothing is in use, and a channel whose head copy has
its grant runs; the arbiter takes back the units of an operation
that has ended, and takes a new budget without revoking anything. -/
def Obligations.PowerArbiter : Prop :=
  (∀ s die r rest, (s.die die).powerq = r :: rest →
    ((s.die die).inuse + r.units ≤ (s.die die).budget ∨ (s.die die).inuse = 0 → exec (.powerGrant die) s = .next (copyGranted (s.putDie die { (s.die die) with
      powerq := rest, granted := (s.die die).granted ++ [r], inuse := (s.die die).inuse + r.units, grants := (s.die die).grants + 1 }) die)) ∧
    ((s.die die).budget < (s.die die).inuse + r.units → (s.die die).inuse ≠ 0 → exec (.powerGrant die) s = .next (copyGranted s die))) ∧
  (∀ s die r core chan, r ∈ (s.die die).granted → r.who = .copy core chan → r.ended = false → (s.chan core chan).st = .grant →
    ((copyGranted s die).chan core chan).st = .run) ∧
  (∀ s die op r, (s.die die).granted[op]? = some r → r.ended = true → exec (.powerRelease die op) s =
    .next (s.putDie die { (s.die die) with granted := (s.die die).granted.eraseIdx op, inuse := (s.die die).inuse - r.units })) ∧
  (∀ s die value, exec (.budgetWrite die value) s = .next (s.putDie die { (s.die die) with budget := value.toNat % 2048 }))

/-! ### The copy engine (chapter 13) -/

/-- A copy whose checks pass is accepted when its channel's queue has room, and when nothing that the group issued before holds it: its
fences, its burrow entries, its .comm reductions, its tile stores (R51, R173, R319, R337, R351, R367, R368). -/
def CopyStarts (i : Instr) (k : CopyKind) (sh : Shape) (o : EOps) : Prop :=
  ∀ s g c,
    let g0 : Machine.Group := { g with wait := .none }
    let j := { copyJobOf k g0 s.free o with grp := s.cur }
    let chan := chanOf s g o
    Runs { roleChan ({} : Checks).closing o with illegal := fun s g => g.regsIn sh o && (copyJobOf k g s.free o).bad } sh o s g c →
    (copyCheck s g0 j = none ∨ CopyPasses s g0 j) → g.comm = [] → copyHeld (issuing s g) g0 = false → (j.bytes = 0 ∨ (s.chan g.core chan).queue.length < 16) →
    let t := copyAccept (issuing s g) s.cur g.core chan j
    exec i s = .next (applyEff c true { s := t, g := t.grp t.cur })

/-- Every byte of a piece in flight has been read from `src` on and written from `dst` on. -/
def Moved (p : Piece) (dst src : Dword) : Prop := p.ends = some (dst, src) ∧ p.unread = [] ∧ p.got = []

/-- A message to the owner of an address leaves the package of a core; none does for an address of its own package, or of no package. -/
def Home (pkg : Nat) (va : Dword) : Prop := (spaceOf va).global = false ∨ vaPkg va = pkg

/-- A copy whose pieces in flight change is over where each of them has been answered and no more is to be sent: then it completes (R359). -/
def copyGoesOn (s : State) (core chan : Nat) (f : Flow) (last : Nat) : State :=
  if f.fly = [] ∧ (f.err ≠ none ∨ last ≤ f.sent) then copyDone s core chan else s

/-- R354, R355, R359, R360, R363, R365, R367, R369, R444: copies are accepted; a copy of up to 64 KiB on an idle channel runs at once and
joins the open batch; the first piece in flight lands once its bytes have been moved, which advances WPTR and LCNT by its bytes and PROG
over it; a refused one raises REF and puts the channel in HOLD; an error answer takes a piece away, is recorded in the copy's batch, and
lets no more be sent. A hub die's copies do the same without the registers. -/
def Parts.CopiesRun : Prop :=
  (∀ o, CopyStarts (.cpy o) .line (shCpy o) o ∧ CopyStarts (.cpy2 o) .rect (shCpy2 o) o ∧
    CopyStarts (.cpygGather o) .gather (shCpy2 o) o ∧ CopyStarts (.cpygScatter o) .scatter (shCpy2 o) o) ∧
  (∀ s gk g core chan (j : CopyJob), s.groups.get? gk = some g →
    let t := copyAccept s gk core chan j
    let b := g.batches
    let num := if b.newest = 2 ^ 32 - 1 then 1 else b.newest + 1
    j.bytes ≠ 0 → j.bytes ≤ 0x10000 → (s.chan core chan).queue = [] → (s.chan core chan).st = .idle →
    (∀ q, s.lostTo (pkgOfCore core) q = false) →
    (t.grp gk).batches = { b with cur := { b.cur with left := b.cur.left + 1 } } ∧
    t.chan core chan = { (s.chan core chan) with queue := [{ j with batch := num }], st := .run }) ∧
  (∀ s core chan (j : CopyJob) rest p more dst src,
    let x := s.chan core chan
    x.queue = j :: rest → j.flow.fly = p :: more → (∀ q ∈ more, q.lo ≠ p.lo) → p.st = .go → Moved p dst src → p.lo = j.flow.prog →
    j.bar = none → Home (pkgOfCore core) (j.near p.lo) → x.st ≠ .hold →
    let f : Flow := { j.flow with fly := more, prog := p.hi }
    exec (.copyPieceLand (.core core chan)) s = .next (copyGoesOn (s.putChan core chan { x with
      wptr := dst + BitVec.ofNat 64 p.n, lcnt := x.lcnt + BitVec.ofNat 64 p.n, queue := { j with flow := f } :: rest }) core chan f j.last)) ∧
  (∀ s core chan (hint : Byte) (j : CopyJob) rest p more, (s.chan core chan).queue = j :: rest → j.flow.fly = p :: more →
    (∀ va, p.st ≠ .held va) → (s.chan core chan).st = .run →
    let x := s.chan core chan
    let t := s.putChan core chan { x with
      ref := if x.ref = 0xFFFFFFFF#32 then x.ref else x.ref + 1, st := .hold, queue := { j with flow := j.flow.put { p with st := .refused none } } :: rest }
    exec (.copyPieceRefused (.core core chan) hint) s =
      .next (({ t with refused := s.refused.filter (fun r => r.who != .copy core chan) } : State).refuse (.copy core chan) hint.toNat)) ∧
  (∀ s core chan (sub : Byte) (j : CopyJob) rest p more dst src,
    let x := s.chan core chan
    x.queue = j :: rest → j.flow.fly = p :: more → Moved p dst src → x.st ≠ .hold → sub ≠ 0 →
    let n := min sub.toNat 5
    let f : Flow := { j.flow with fly := j.flow.fly.filter (fun q => q.lo != p.lo), err := some (j.flow.err.getD (n, dst)) }
    exec (.copyErrorAnswer (.core core chan) sub) s =
      .next (copyGoesOn (batchErr (s.putChan core chan { x with queue := { j with flow := f } :: rest }) j.grp j.batch n dst) core chan f j.last)) ∧
  (∀ s pkg k (x : HubCopy) p more dst src (hint : Byte), (s.pkg pkg).hub.get? k = some x → x.flow.fly = p :: more →
    (∀ q ∈ more, q.lo ≠ p.lo) → p.lo = x.flow.prog →
    (p.st = .go → Moved p dst src → x.bar = none → Home pkg (Dword.plus x.dst p.lo) → more ≠ [] ∨ p.hi < x.n → x.flow.err = none →
      p.hi ≤ x.flow.sent → x.flow.sent < x.n →
      exec (.copyPieceLand (.hub pkg k)) s = .next (putHub s pkg k { x with flow := { x.flow with fly := more, prog := p.hi } })) ∧
    ((∀ va, p.st ≠ .held va) → exec (.copyPieceRefused (.hub pkg k) hint) s =
      .next (({ putHub s pkg k { x with flow := x.flow.put { p with st := .refused none } } with
        refused := s.refused.filter (fun r => r.who != .hub pkg k) } : State).refuse (.hub pkg k) hint.toNat)))

/-- R353, R354, R356, R359, R369: pieces are sent in delivery order, each of at most what is left of a destination page of 4 KiB, and none
after an error; the bytes of a piece are read and written one by one, each written as it was read. -/
def Parts.CopyPieces : Prop :=
  (∀ c order (f : Flow), f.err ≠ none ∨ c.last ≤ f.sent → f.send c order = f) ∧
  (∀ c order (f : Flow), f.err = none → f.sent < c.last →
    let x := c.cut f.sent
    f.send c order = { f with
      sent := x.2, fly := f.fly ++ [{ lo := f.sent, hi := x.2, n := x.1, unread := List.range x.1, order := order }] }) ∧
  (∀ core chan (j : CopyJob) off, j.kind = .line → off < j.n →
    let x := (j.carrier core chan).cut off
    x.1 = min (4096 - (j.dst + BitVec.ofNat 64 off).toNat % 4096) (j.n - off) ∧ x.2 = off + x.1 ∧ 0 < x.1 ∧
    (∀ s, (j.carrier core chan).ends s off = (s, .ok (j.dst + BitVec.ofNat 64 off, j.src + BitVec.ofNat 64 off)))) ∧
  (∀ core chan (j : CopyJob) s p dst src i b t, p.ends = some (dst, src) →
    copyFetch s core j (copyReq core chan j (src + BitVec.ofNat 64 i)) = (t, .ok [b]) →
    (j.carrier core chan).readOne { s := s, p := p } i = { s := t, p := { p with unread := p.unread.erase i, got := p.got.put i b } }) ∧
  (∀ core chan (j : CopyJob) s p dst src i b t, p.ends = some (dst, src) → p.got.get? i = some b →
    copyPut s core chan j { copyReq core chan j (dst + BitVec.ofNat 64 i) with write := true, read := false } [b] = (t, .ok ()) →
    (j.carrier core chan).writeOne { s := s, p := p } i = { s := t, p := { p with got := p.got.del i } }) ∧
  (∀ (c : Carrier) rd wr s p, (c.moves (c.open_ { s := s, p := p }) = false → c.move rd wr s p = c.open_ { s := s, p := p }) ∧
    (∀ i ∈ (c.move rd wr s p).p.unread, i ∈ p.unread))

/-- R173, R337, R356: a byte that a group's store and an own copy or tile instruction both touch has one of the two values. A store of a
group with nothing under way and nothing unwaited writes its bytes; so does a copy that meets no race, which is remembered until a CWAIT
covers its batch. -/
def Parts.OwnRaces : Prop :=
  (∀ q free k at_ (old new : List Byte) i, old.length = new.length → at_.length = new.length → i < new.length →
    let out := eitherBytes q free k at_ old new
    out.length = new.length ∧ (out[i]? = new[i]? ∨ (∃ p, at_[i]? = some p ∧ q p = true) ∧ out[i]? = old[i]?)) ∧
  (∀ (g : Machine.Group) free seq at_ (bs : List Byte) i, at_.length = bs.length → i < bs.length →
    let out := g.seenBytes free seq at_ bs
    out.length = bs.length ∧ (out[i]? = bs[i]? ∨ ∃ w ∈ g.stores, at_[i]? = some w.place ∧ seq < w.seq ∧ out[i]? = some w.old)) ∧
  (∀ (s : State) gk, s.calm gk = true ↔ (s.grp gk).landed = [] ∧ s.racing gk none = false) ∧
  (∀ s gk seq r lane hint bs, s.calm gk = true → ownWrite s gk seq r lane hint bs = laneWrite s gk seq r lane hint bs) ∧
  (∀ s gk seq r lane hint bs old u, s.calm gk = false →
    let at_ := placesOf s gk lane r.va bs.length
    (laneRead s gk { r with read := true, write := false } lane hint bs.length).2 = .ok old →
    laneWrite s gk seq r lane hint (eitherBytes ((s.grp gk).landedBy (fun _ => true)) s.free 0 at_ old bs) = (u, .ok ()) →
    ownWrite s gk seq r lane hint bs = (u.noteStore gk seq none at_ old, .ok ())) ∧
  (∀ s core chan (j : CopyJob) r bs u, (s.grp j.grp).stores = [] → (s.grp j.grp).landed = [] → copyWrite s core j.grp j.seq r j.hint bs = (u, .ok ()) →
    copyPut s core chan j r bs = (u.noteLanded j.grp (.copy j.batch chan) (placesOf s j.grp 0 r.va bs.length), .ok ())) ∧
  (∀ (g : Machine.Group) n l, l ∈ (g.waited n).landed ↔ l ∈ g.landed ∧ ¬(n ≠ 0 ∧ ∃ m c, l.by_ = .copy m c ∧ g.batches.covers n m = true))

/-- R357, R358, R370 to R372: CSEAL makes a record of the open batch and answers its number; CWAIT goes on when every targeted batch is
complete and frees their records, or blocks; CWAIT.TEST says so in a predicate; CWPTR reads a channel's registers. What has landed is then
read anew from the MSC: the cluster's tensor-bound stash entries are written back and its clean tensor lines and written-back dirty ones
dropped (R174). -/
def Parts.BatchInstructions : Prop :=
  (∀ o s g c, Runs {} shCseal o s g c → g.batches.recs.length < 16 →
    let b := g.batches
    let num := if b.newest = 2 ^ 32 - 1 then 1 else b.newest + 1
    exec (.cseal o) s = .next (s.with (({ g with batches := { cur := { num := 0 }, newest := num, recs := b.recs ++ [{ b.cur with num := num }] } } :
      Machine.Group).wrote c [(sKey o.d.toNat, BitVec.ofNat 32 num)]))) ∧
  (∀ o s g c, Runs {} shCwait o s g c →
    let n := (g.uB32 s.free o).toNat
    let target := cwaitTarget g.batches n
    ((∀ r ∈ target, r.left = 0 ∧ r.peer = false ∧ r.other = false) →
      exec (.cwait o) s = .next ((seeCopies s g).with (({ g.waited n with batches := { g.batches with
        recs := g.batches.recs.filter (fun r => !(target.map (fun r => r.num)).contains r.num) } } : Machine.Group).wrote c []))) ∧
    ((∃ r ∈ target, r.left ≠ 0) → exec (.cwait o) s = .next ((plRelease s g.core).with { g with wait := .cwait n }))) ∧
  (∀ o s g c, Runs {} shCwaitTest o s g c →
    let n := (g.uB32 s.free o).toNat
    let ok := (cwaitTarget g.batches n).all (fun r => r.left == 0)
    exec (.cwaitTest o) s = .next ((if ok then seeCopies s g else s).with (((if ok then g.waited n else g).putK o.d.toNat ok).wrote c []))) ∧
  (∀ o s g c, Runs (roleChan {} o) shCwptrAddr o s g c →
    let x := s.chan g.core (chanOf s g o)
    exec (.cwptrAddr o) s = .next ((seeCopies s g).with (g.wrote c (uniPair o x.writePtr))) ∧
    exec (.cwptrCnt o) s = .next ((seeCopies s g).with (g.wrote c (uniPair o x.lcnt)))) ∧
  (∀ o s g c, Runs (roleChan {} o) shCwptrProg o s g c →
    let x := s.chan g.core (chanOf s g o)
    exec (.cwptrProg o) s = .next (s.with (g.wrote c [(sKey o.d.toNat, BitVec.ofNat 32 (match x.queue with
      | j :: _ => j.flow.prog
      | [] => 0))])) ∧
    exec (.cwptrRef o) s = .next (s.with (g.wrote c [(sKey o.d.toNat, x.ref)])))

/-- R182, R337, R374, R375: RATOM splits its lanes into one request a line, in lane order, which join the open batch; nothing that the group
issued before but its fences, its tile stores, and the 256 requests of its core holds it. A memory side performs a request as one atomic
step in each of its lanes, unless its queue is full; an acknowledgement ends it. -/
def Parts.RemoteRequests : Prop :=
  (∀ (ret : Bool) op (sz : ASz) o s g c,
    let sh := if ret then shRatomRet op sz else shRatom op sz
    let n := sz.bytes
    let m := g.active sh o s.free
    let u := issuing s g
    let accs := (accLanes g m).map (fun l => ({ lane := l, va := laneVa g s.free o l, b := BitVec.ofNat 128 (dataB g s.free o n l)
                                                c := if op = .cas then BitVec.ofNat 128 (dataC g s.free o n l) else 0 } : LaneAcc))
    let reqs := ratomSplit accs
    Runs ({} : Checks).closing sh o s g c →
    g.mismatch (g.fold m) (fun v => vaDiffer g s.free o v || dataB g s.free o n (2 * v) != dataB g s.free o n (2 * v + 1) ||
      (op == .cas && dataC g s.free o n (2 * v) != dataC g s.free o n (2 * v + 1))) = 0 →
    fenceWait u { g with wait := .none } (laneLater s g o m true true) = false → g.comm = [] →
    laneChecks s g .ratom n n ((accLanes g m).map (fun l => (l, laneVa g s.free o l))) = none →
    loadWaitsTile u s.cur (laneReach s g o m n) = false → storeWaitsTile u s.cur (laneReach s g o m n) = false →
    ratomsOut u g.core + reqs.length ≤ 256 →
    let new := reqs.zipIdx.map (fun p => ({
      num := g.seq * 16 + p.2, seq := g.seq, op := op, n := n, accs := p.1, batch := g.batches.openNum, dst := o.d.toNat
      order := s.order + p.2, pend := if ret then some g.seq else none } : RatomReq))
    let g1 : Machine.Group := { g with
      wait := .none, ratoms := g.ratoms ++ new
      batches := reqs.foldl (fun (b : Batches) _ => b.update g.batches.openNum Batch.join) g.batches }
    exec (if ret then .ratomRet op sz o else .ratom op sz o) s = .next (applyEff c true {
      s := new.foldl (fun s r => transmit s (pkgOfCore g.core) r.pkg vcTreq (r.accs.length * n)) { u with order := s.order + reqs.length }
      g := if domRelease g o then g1.fenceErr else g1
      pend := if ret then some { id := g.seq, dests := writesOf sh o, lanes := m, wait := .ratom reqs.length, vas := accs.map (fun a => (a.lane, a.va)) }
              else none })) ∧
  (∀ s die n gk i r, (dieRatoms s die)[n]? = some (gk, i) → (s.grp gk).ratoms[i]? = some r → exec (.mscRequest die n) s = .next (ratomPerform s gk i) ∧
    ∀ t outs,
      let g := s.grp gk
      r.done = false → r.held = false → (∀ x ∈ g.ratoms.take i, x.line ≠ r.line) → ratomLogged s gk r = false →
      s.lostTo (pkgOfCore g.core) r.pkg = false → pathUp s (pkgOfCore g.core) r.pkg = true → dieHolds s (dieOfCore g.core) r.pkg r.order = false →
      eachAcc (ratomLane gk r) r.accs s = (t, .ok outs) →
      exec (.mscRequest die n) s = .next (fenceCheck (setRatom t gk { r with done := true, outs := if r.pend.isSome then outs.flatten else [] } i) gk)) ∧
  (∀ s core r hint n f u pa e,
    let t := dropLine (stashEvent s (clusterOf core) (fun e => e.tag == reqTag s r) true) (clusterOf core) (reqTag s r)
    let m := mscOf (pa / 128)
    xlate t r = (u, .ok pa e) → (pa / 128) ∉ (u.die m.1).wq m.2 → 256 ≤ ((u.die m.1).wq m.2).length →
    (memSide s core r hint n none f).2 = .stop (.refuse 8)) ∧
  (∀ s gk n g r, s.groups.get? gk = some g → g.ratoms[n]? = some r → r.done = true → r.pend = none →
    exec (.ratomAck gk n) s = .next (fenceCheck (batchDone
      (transmit { s with groups := s.groups.put gk { g with ratoms := g.ratoms.eraseIdx n } } r.pkg (pkgOfCore g.core) vcTdat (r.accs.length * r.n))
      gk r.batch) gk)) ∧
  (∀ s n r gk g d, s.refused[n]? = some r → r.who = .group gk → s.groups.get? gk = some g → g.wait = .held d →
    ∃ t : State, exec (.retryHintExpiry n) s = .next t ∧ t.groups.get? gk = some { g with wait := .none } ∧ t.refused = s.refused.eraseIdx n)

/-- R177, R376: a TFENCE starts once the group's burrow is empty and its .comm reductions have been applied. It waits while a tile
instruction of the group that accesses memory, a RATOM request or a copy of it is outstanding; then the cluster's dirty tensor lines are
written back. -/
def Parts.TensorFences : Prop :=
  ∀ o s g c, Runs ({} : Checks).closing shTfence o s g c → burrowOf s s.cur = [] → g.comm = [] → g.gives = 0 →
    g.fenced g.seq { rel := true } = false →
    let busy := fenceCovers s g .tfence true ∨ ∃ x ∈ (s.core g.core).chans, ∃ j ∈ x.2.queue, j.grp = s.cur ∧ j.seq ≤ g.seq
    let t := fenceCaches false true (issuing s g) (clusterOf g.core)
    (busy → exec (.tfence o) s = .next (applyEff c true { s := issuing s g, g := { g with wait := .none }, pend := some { id := 0, wait := .fence .tfence true true g.seq } })) ∧
    (¬ busy → exec (.tfence o) s = .next (applyEff c true { s := t, g := (t.grp s.cur).fenceErr, pend := some { id := 0 } }))


/-! ### Allowances (chapter 14) -/

/-- An allowance instruction whose object passes R395 and that nothing holds does its operation at once (R390, R395). -/
def AllowanceStarts (i : Instr) (sh : Shape) (o : EOps) (ll : Bool) (op : State → Machine.Group → AOp) (ready : State → Nat → AOp → Bool)
    (run : State → Nat → AOp → State) : Prop :=
  ∀ s g c, Runs ({} : Checks).closing sh o s g c → burrowOf s s.cur = [] → g.allowBusy = false →
    let va := g.s2 s.free o.a.toNat
    let a := { op s g with grp := s.cur, core := g.core, pend := g.seq, id := g.id }
    va.toNat % 64 = 0 → spaceOf va = .control → vaPkg va < s.domain → ready s va.toNat a = true →
    let g0 : Machine.Group := { g with wait := .none }
    let t := run (applyEff c true { s := s, g := g0, pend := if ll then some { id := 0, dests := writesOf sh o, wait := .allowance } else none }) va.toNat a
    exec i s = .next (t.putG (t.grp s.cur))

/-- R390, R393, R396 to R399: ATAKE, AGIVE, AREAD and ACRT start; ACRT.NEW with a quantum of 0, a quantum above the limit, or a value above
2^48 - 1 raises ALLOWANCE_ERROR with subcode 1. -/
def Parts.AllowanceInstructions : Prop :=
  (∀ o,
    AllowanceStarts (.atake o) shAtake o true (fun s g => { kind := .take, n := (g.uB32 s.free o).toNat, grp := 0, core := 0 })
      (fun s va op => op.n == 0 || slotReady s va op) (fun s va op => if op.n = 0 then allowStatus s op 0 else sendOp s va op) ∧
    AllowanceStarts (.agive o) shBrxIdx o false (fun s g => { kind := .give, n := (g.uB32 s.free o).toNat, grp := 0, core := 0 })
      (fun s va op => op.n == 0 || slotReady s va op) (fun s va op => if op.n = 0 then s else sendOp (countGive s op) va op) ∧
    AllowanceStarts (.areadExact o) shAreadExact o true (fun _ _ => { kind := .exact, grp := 0, core := 0 }) slotReady sendOp ∧
    AllowanceStarts (.areadApprox o) shAreadExact o true (fun _ _ => { kind := .approx, grp := 0, core := 0 }) (fun _ _ _ => true) readApprox ∧
    AllowanceStarts (.acrtFree o) shAcrtFree o true (fun _ _ => { kind := .free, grp := 0, core := 0 }) (fun _ _ _ => true) acrtRun) ∧
  (∀ o s g c, Runs ({} : Checks).closing shAcrtNew o s g c →
    let q := (g.s1 s.free (o.b.toNat + 2)).toNat
    let m := (g.s1 s.free (o.b.toNat + 3)).toNat
    let v := (g.s1 s.free (o.b.toNat + 1) ++ g.s1 s.free o.b.toNat).toNat
    let va := g.s2 s.free o.a.toNat
    let g0 : Machine.Group := { g with wait := .none }
    (q = 0 ∨ m < q ∨ 2 ^ 48 - 1 < v → exec (.acrtNew o) s = .next (s.with (g0.trapHere { cause := causeAllowance, sub := 1, addr := va, lanes := g.em }))) ∧
    (0 < q → q ≤ m → v ≤ 2 ^ 48 - 1 → burrowOf s s.cur = [] → g.allowBusy = false → va.toNat % 64 = 0 → spaceOf va = .control → vaPkg va < s.domain →
      let t := acrtRun (applyEff c true { s := s, g := g0, pend := some { id := 0, dests := writesOf shAcrtNew o, wait := .allowance } }) va.toNat
        { kind := .create q m, n := v, grp := s.cur, core := g.core, pend := g.seq, id := g.id }
      exec (.acrtNew o) s = .next (t.putG (t.grp s.cur)))) ∧
  (∀ s cl va home (x : Slot) (op : AOp), x.st = .held →
    (op.kind = .take → op.n ≤ x.a → slotApply s cl va home x op = allowStatus (s.putSlot cl va { x with a := x.a - op.n }) op 0) ∧
    (op.kind = .give → x.a + op.n ≤ (s.ctrs.getD va {}).m → slotApply s cl va home x op = giveDone (s.putSlot cl va { x with a := x.a + op.n }) op))

/-- A message of the allowance engine arrives, no earlier one of its ends and direction being under way (R384). -/
def MsgIs (s : State) (n : Nat) (m : AMsg) : Prop :=
  s.amsgs[n]? = some m ∧ ∀ x ∈ s.amsgs.take n, holdsBack s m x = false

/-- R385, R387, R388: the home grants the head of a counter's queue from RESERVE, or recalls the holders; the messages take their effects at
slots and homes. -/
def Parts.AllowanceMessages : Prop :=
  (∀ s va x r rest s1 phys leaf, s.ctrs.get? va = some x → x.awaited = 0 → x.queue = r :: rest → x.live = true → x.broken = false →
    r.op.kind = .take → homeCheck s r.op va = (s1, some (.ok (phys, leaf))) →
    let y := { x with phys := phys, leaf := leaf }
    let d := r.op.n - r.loc
    let count := fun (t : State) => if queuedAt t va < x.queue.length then t.bump x.home 430 0 else t
    (∀ j, r.cl = some j → d ≤ x.reserve →
      let q := max d (min x.q x.reserve)
      exec (.allowanceServe va) s = .next (count ((putCtr s1 va { y with
        reserve := x.reserve - q, hold := setBit x.hold (holdBit j) true, queue := rest, round := false }).send
          { va := va, cl := some j, word := .grant r.op.n r.loc q }))) ∧
    (r.cl = none → d ≤ x.reserve → exec (.allowanceServe va) s =
      .next (count (allowStatus (putCtr s1 va { y with reserve := x.reserve - d, queue := rest, round := false }) r.op 0))) ∧
    (x.reserve < d → x.round = false → exec (.allowanceServe va) s = .next (count (recallRound s1 va y r.cl)))) ∧
  (∀ s n va cl x op, s.slotOf cl va = some x → x.op = some op →
    let t := { s with amsgs := s.amsgs.eraseIdx n }
    (∀ m loc q, MsgIs s n { va := va, cl := some cl, word := .grant m loc q } →
      exec (.allowanceGrant n) s = .next (allowStatus (slotFree t cl va { x with st := .held, a := loc + q - m, loc := 0, op := none }) op 0)) ∧
    (∀ held, MsgIs s n { va := va, cl := some cl, word := .refusal held } →
      exec (.allowanceRefusal n) s =
        .next (allowStatus (slotFree t cl va { x with st := if held then .held else .bound, a := x.loc, loc := 0, op := none }) op 1)) ∧
    (∀ v, v ≤ 2 ^ 48 - 1 → MsgIs s n { va := va, cl := some cl, word := .reply v } →
      exec (.exactReadReply n) s = .next (allowValue (slotFree t cl va { x with st := .bound, a := 0, loc := 0, op := none }) op v))) ∧
  (∀ s n va cl x, s.slotOf cl va = some x → MsgIs s n { va := va, cl := some cl, word := .recall } →
    let t := { s with amsgs := s.amsgs.eraseIdx n }
    (x.st = .wait → exec (.allowanceRecall n) s = .next ((t.putSlot cl va { x with loc := 0 }).send { va := va, cl := some cl, word := .answer x.loc })) ∧
    (x.st ≠ .wait → exec (.allowanceRecall n) s =
      .next ((t.putSlot cl va { x with a := 0, st := .bound }).send { va := va, cl := some cl, word := .answer x.a }))) ∧
  (∀ s n va x, s.ctrs.get? va = some x →
    let t := { s with amsgs := s.amsgs.eraseIdx n }
    (∀ cl v, MsgIs s n { va := va, cl := some cl, word := .answer v } → exec (.recallAnswer n) s = .next (putCtr t va { x with
      reserve := min (x.reserve + v) (2 ^ 48 - 1), hold := setBit x.hold (holdBit cl) false, awaited := x.awaited - 1
      queue := x.queue.map (fun r => if r.cl = some cl then { r with loc := 0 } else r) })) ∧
    (∀ cl v op, MsgIs s n { va := va, cl := some cl, word := .giveUp v op } → x.reserve + v ≤ 2 ^ 48 - 1 → exec (.giveUp n) s =
      .next (putCtr t va { x with reserve := x.reserve + v, hold := setBit x.hold (holdBit cl) false })) ∧
    (∀ cl v op t1 pl, MsgIs s n { va := va, cl := cl, word := .giveBack v op } → x.live = true → x.broken = false →
      homeCheck t op va = (t1, some (.ok pl)) → t1.ctrs.get? va = some x → x.reserve + v ≤ 2 ^ 48 - 1 →
      exec (.allowanceReturn n) s = .next (giveDone (putCtr t1 va { x with reserve := x.reserve + v }) op)) ∧
    (∀ v op, MsgIs s n { va := va, cl := none, word := .giveBack v op } → x.live = true → x.broken = true →
      exec (.allowanceReturn n) s = .next (allowErr t op va causeAllowance 3)))

/-! ### The solver engine (chapter 15) -/

/-- What the group is to publish before an engine acts for it has come about: its burrow entries, its .comm reductions, and what a release
at the scope covers (R163, R319). -/
def Published (s : State) (g : Machine.Group) (scope : Nat) : Prop :=
  burrowOf s s.cur = [] ∧ g.comm = [] ∧ fenceWait (issuing s g) { g with wait := .none } { rel := true, scope := scope } = false

/-- A control of the solver engine goes to it at issue, after what the group publishes at .pkg and the cluster's tensor lines are written
back (R417). -/
def ControlSent (i : Instr) (k : SolvCtl) (o : EOps) : Prop :=
  ∀ s g c, Runs ({} : Checks).closing shSstart o s g c → Published s g 5 →
    let t := solvSend (wbTensor (s.with { g with wait := .none }) (clusterOf g.core)) (dieOfCore g.core) (xField o 0 3) k (some s.cur)
    exec i s = .next (applyEff c true { s := t, g := t.grp t.cur })

/-- R412, R413, R417 to R421: SCONF is carried out at the engine; the controls change a batch of the group's own context as their table says,
and bring SOLVER_ERROR with subcode 2 for another's; SSTAT reads a batch and a sample. -/
def Parts.SolverInstructions : Prop :=
  (∀ o s g c s1 x, Runs ({} : Checks).closing shSconf o s g c →
    let g0 : Machine.Group := { g with wait := .none }
    let va := g.s2 s.free o.a.toNat
    let die := dieOfCore g.core
    sconfCheck s g0 va = none → Published s g 5 → g.deny = [] → OpensAt (s.with g0) (g.req 0 va) s1 x →
    let t := wbTensor s1 (clusterOf g.core)
    let u := applyEff c true { s := t, g := t.grp t.cur, pend := some { id := 0, dests := writesOf shSconf o, wait := .solver die (xField o 0 3) va va } }
    let v := confRun u u.cur g.seq
    exec (.sconf o) s = .next (v.putG (v.grp v.cur))) ∧
  (∀ o, ControlSent (.sstart o) .start o ∧ ControlSent (.sctlPause o) .pause o ∧ ControlSent (.sctlResume o) .resume o ∧
    ControlSent (.sctlStop o) .stop o ∧ ControlSent (.sctlFree o) .free o) ∧
  (∀ s die b gk, let x := s.solver die b
    let mine := x.id.asid = (s.grp gk).id.asid ∧ x.id.world = (s.grp gk).id.world
    (mine → x.st = .conf → solvCtl s die b .start (some gk) =
      s.putSolver die b { x with st := .run, act := .start, samples := x.samples.map (fun e => (e.1, startSample x e.2)) }) ∧
    (mine → x.st = .run → solvCtl s die b .pause (some gk) = s.putSolver die b { x with st := .paused }) ∧
    (mine → x.st = .paused → solvCtl s die b .resume (some gk) = s.putSolver die b { x with st := .run }) ∧
    (mine → x.st = .run ∨ x.st = .paused ∨ x.st = .conf → x.act ≠ .finish → solvCtl s die b .stop (some gk) = solvEnd s die b 3 none) ∧
    (mine → x.st = .conf ∨ x.st = .ended → solvCtl s die b .free (some gk) = s.putSolver die b {}) ∧
    (¬ mine → x.st ≠ .free → ∀ k, solvCtl s die b k (some gk) = solvError s (some gk) b)) ∧
  (∀ o s g c, Runs {} shSstatBatch o s g c →
    let x := s.solver (dieOfCore g.core) (xField o 0 3)
    let ws : List Word := if batchSeen g x then
        [BitVec.ofNat 32 ((x.samples.filter (fun e => e.2.status == 2)).length * 1024 + x.ecode * 16 + x.st.code), BitVec.ofNat 32 x.r]
      else [0, 0]
    exec (.sstatBatch o) s = .next (s.with (g.started c { id := 0, dests := writesOf shSstatBatch o
                                                          outs := [(sKey o.d.toNat, ws.getD 0 0), (sKey (o.d.toNat + 1), ws.getD 1 0)] }))) ∧
  (∀ o s g c, Runs {} shSstatSamp o s g c →
    let n := (g.uB32 s.free o).toNat
    let found := (s.die (dieOfCore g.core)).solver.findSome? (fun e => if batchSeen g e.2 then e.2.samples.get? n else none)
    let ws := match found with
      | some p => p.words.take 4
      | none => [0, 0, 0, 0]
    exec (.sstatSamp o) s = .next (s.with (g.started c { id := 0, dests := writesOf shSstatSamp o
                                                         outs := ws.zipIdx.map (fun p => (sKey (o.d.toNat + p.2), p.1)) })))

/-- The state in which an action of a batch is taken. -/
def solverAt (s : State) (die b : Nat) : State := s.putSolver die b { (s.solver die b) with held := false }

/-- R408, R409, R413, R414: the engine takes the action that its batch is at; an action that ends is counted, and the next is due. A
vector of an ACTIVE sample that meets an error is marked. -/
def Parts.SolverActions : Prop :=
  (∀ s die b t, let x := s.solver die b
    let u := solverAt s die b
    let done := fun (t : State) => t.putSolver die b { (t.solver die b) with ctls := [], deny := [] }
    x.held = false → (t.solver die b).ctls = [] →
    (x.st = .run → x.act = .input → doInput u die b = (t, .ok ()) → exec (.solverStageInput die b) s = .next (done t)) ∧
    (x.st = .run ∨ x.st = .paused → x.act = .collect → doCollect u die b = (t, .ok ()) → exec (.solverStageCollect die b) s = .next (done t)) ∧
    (x.st = .run ∨ x.st = .paused → x.act = .decide → doDecide u die b = (t, .ok ()) → exec (.solverDecide die b) s = .next (done t)) ∧
    (x.st = .run ∨ x.st = .paused → x.act = .finish → doFinish u die b = (t, .ok ()) → exec (.solverEnd die b) s = .next (done t))) ∧
  (∀ s die b, (s.solver die b).act = .input → (s.solver die b).st = .paused → exec (.solverStageInput die b) s = .next s) ∧
  (∀ s die b n p, let x := s.solver die b
    x.st = .run ∨ x.st = .paused → x.act ≠ .idle → x.act ≠ .finish → n < 1024 → x.samples.get? n = some p → p.status = 2 →
    exec (.solverAccessFault die b n) s = .next (putSample s die b n { p with faulted := true }))

/-! ### The collective engine (chapter 16) -/

/-- R425 to R437: COLL takes a record of its die and answers its handle; COLLW and COLLW.TEST answer its status; CARB writes and reads the
weights of a port; the engine's events join, make ready, send and complete. -/
def Obligations.Collectives : Prop :=
  (∀ o s g c s1 x i, Runs ({} : Checks).closing shColl o s g c →
    let g0 : Machine.Group := { g with wait := .none }
    let va := g.s2 s.free o.a.toNat
    let die := dieOfCore g.core
    descCheck s va 64 = none → Published s g 4 → g.deny = [] →
    OpensAt (s.with g0) (g.req 0 va) s1 x → freeColl s1 die = some i →
    let t := wbTensor s1 (clusterOf g.core)
    let r : CollRec := { grp := t.cur, seq := (t.die die).collSeq, id := g.id, addr := va }
    let u := (t.putDie die { (t.die die) with collSeq := ((t.die die).collSeq + 1) % 2 ^ 24 }).putColl die i r
    exec (.coll o) s = .next (applyEff c true { s := u, g := u.grp u.cur, outs := [(sKey o.d.toNat, collHandle die i r)] })) ∧
  (∀ o s g c, let h := g.uB32 s.free o
    let gives := fun (t : State) sh n => State.with t (g.started c { id := 0, dests := writesOf sh o, outs := [(sKey o.d.toNat, BitVec.ofNat 32 n)] })
    (Runs {} shCollw o s g c →
      (collOf s g h = none → exec (.collw o) s = .next (gives s shCollw 5)) ∧
      (∀ die r x, collOf s g h = some (die, r, x) →
        (x.st = .done → x.status ≠ 1 →
          exec (.collw o) s = .next (gives (s.putDie die { (s.die die) with colls := (s.die die).colls.del r }) shCollw x.status)) ∧
        (x.st ≠ .done → exec (.collw o) s = .next (s.with (g.started c { id := 0, dests := writesOf shCollw o, wait := .coll h }))))) ∧
    (Runs {} shCollw o s g c →
      (collOf s g h = none → exec (.collwTest o) s = .next (gives s shCollw 5)) ∧
      (∀ die r x, collOf s g h = some (die, r, x) →
        exec (.collwTest o) s = .next (gives s shCollw (if x.st = .done then x.status else 2 ^ 32 - 1))))) ∧
  (∀ o s g c, Runs ({} : Checks).closing shCarbSet o s g c →
    let w := BitVec.ofNat 32 (xField o 8 8 * 256)
    let ports := if xField o 0 5 = 31 then List.range 24 else [xField o 0 5]
    let g1 : Machine.Group := { g with region := { g.region with opened := false } }
    exec (.carbSet o) s = .next ({ s with carb := ports.foldl (fun t p => t.store 0x8800#32 (pkgOfCore g.core * 24 + p) w) s.carb }.with (g1.wrote c []))) ∧
  (∀ o s g c, Runs ({} : Checks).closing shCarbGet o s g c →
    let g1 : Machine.Group := { g with region := { g.region with opened := false } }
    exec (.carbGet o) s = .next (s.with (g1.wrote c [(sKey o.d.toNat, s.carb.getD (pkgOfCore g.core * 24 + xField o 0 5) 0x8800#32)]))) ∧
  (∀ s die r x s1 bs, s.coll die r = some x → x.st = .issued → x.held = false → collActive s die r = true →
    collRead s die r x x.addr 64 = (s1, .ok bs) →
    let y := { x with words := (List.range 16).map (fun i => BitVec.ofNat 32 (bytesNat ((bs.drop (4 * i)).take 4))) }
    (y.invalid die = true → exec (.collJoin die r) s = .next (collFinish s1 die r 4)) ∧
    (∀ s2 ms, y.invalid die = false → collRead s1 die r y y.members (4 * y.nm) = (s2, .ok ms) →
      bytesNat ((ms.drop (4 * y.rank)).take 4) = die / 4 * 256 + die % 4 →
      let pkgs := ((List.range y.nm).map (fun k => bytesNat ((ms.drop (4 * k)).take 4) / 256)).eraseDups
      pkgs.any (s2.lostTo (die / 4)) = false → exec (.collJoin die r) s = .next (collEnter s2 die r { y with pkgs := pkgs }))) ∧
  (∀ s die r x, s.coll die r = some x → x.held = false →
    (∀ s1 bs, x.nb ≠ 0 → x.st = .running ∨ x.st = .joined → collRead s die r x x.signal 4 = (s1, .ok bs) →
      exec (.bucketReady die r) s = .next (collPower (collReady s1 die r (min (bytesNat bs) x.nb)) die r)) ∧
    (∀ n seg s1 bs, x.st = .running → x.nm = 1 ∨ (s.die die).powerHeld (.seg r) = true → x.sendq[n]? = some seg →
      (∀ m ∈ collDests x seg, pathUp s (die / 4) (m.1 / 4) = true) → segHeld s die n x seg = false →
      collRead s die r x (x.src + BitVec.ofNat 64 ((seg.block * x.count + seg.lo) * x.z)) (seg.n * x.z) = (s1, .ok bs) →
      let data := (List.range seg.n).map (fun i => bytesNat ((bs.drop (i * x.z)).take x.z))
      let t := (s1.putColl die r { x with sendq := x.sendq.eraseIdx n }).bump (die / 4) (396 + die % 4) 0
      let u := if 1 < x.nm then powerEnd t die (.seg r) else t
      exec (.segmentReceive die r n) s = .next (collPower ((collDests x seg).foldl (fun s m =>
        collLand (transmit s (die / 4) (m.1 / 4) vcColl (seg.n * x.z)) x.rank seg data m) u) die r)) ∧
    (x.st = .running → x.left = 0 → x.sendq = [] → (if x.nb = 0 then 1 else x.nb) ≤ x.ready ∨ x.count = 0 → x.bar = 0 →
      exec (.collComplete die r) s = .next (collFinish s die r 0))) ∧
  (∀ s die r x, s.coll die r = some x → x.st ≠ .done → x.st ≠ .issued →
    exec (.collAbort die r 2) s = .next (collAbort s die r 2) ∧
    (x.pkgs.any (s.lostTo (die / 4)) = true → exec (.collAbort die r 1) s = .next (collAbort s die r 1)))

/-! ### Page classes and the coherence engine (chapter 19) -/

/-- A PCLASS whose address passes its checks and translates brings the word of its operation (R512 to R514). -/
def ClassDoes (i : Instr) (sh : Shape) (o : EOps) (wr closes : Bool) (run : State → Machine.Group → Dword → TlbEnt → State × Nat) : Prop :=
  ∀ s g c s1 e, Runs (if closes then ({} : Checks).closing else {}) sh o s g c →
    let g0 : Machine.Group := { g with wait := .none }
    let va := g.s2 s.free o.a.toNat
    spaceOf va = .control → vaPkg va < s.domain → g.deny = [] → (closes = true → burrowOf s s.cur = [] ∧ g.fenced g.seq { ctl := true, stores := true } = false) →
    LeafAt (s.with g0) s.cur va wr s1 e →
    let r := run s1 g0 va e
    exec i s = .next (broughtBy c closes r.1 (r.1.grp r.1.cur) (writesOf sh o) [(sKey o.d.toNat, BitVec.ofNat 32 r.2)])

/-- R511 to R514: PCLASS.QUERY answers the class and the owner, .SET writes the class unless the page has it, .HINT may do so, .LINE
answers the cluster's tokens and state of a line, .CLEAR makes a poisoned line zero. -/
def Parts.PageClasses : Prop :=
  (∀ o, ClassDoes (.pclassQuery o) shAcrtFree o false false classWord ∧
    ClassDoes (.pclassSet o) shPclassSet o true false (classSet (xField o 0 2)) ∧
    ClassDoes (.pclassHint o) shPclassHint o false false (classHint (xField o 0 2)) ∧
    ClassDoes (.pclassLine o) shAcrtFree o false false lineWord ∧
    ClassDoes (.pclassClear o) shPclassClear o true true lineClear) ∧
  (∀ s g va e cls, (entClass e.word = cls → classSet cls s g va e = (s, 1)) ∧
    (entClass e.word ≠ cls → classSet cls s g va e = (setClass s va e cls (some (clusterOf g.core)), 0))) ∧
  (∀ s g va e, (s.home (leafLine va e)).poisoned = false → lineClear s g va e = (s, 1))

/-- R496, R499 to R510: each event of the coherence engine moves tokens, notices and page classes as its rule says. -/
def Parts.CoherenceEvents : Prop :=
  (∀ s cl line, (s.home line).census = false →
    ((s.tok cl line).count = 0 → inFlight s cl line = false →
      let p := answerRead s line
      exec (.cohReadRequest cl line) s = .next (cohServed (sendTok (askFor p.1 cl line false) line (some cl) p.2) line 0)) ∧
    ((s.tok cl line).count ≠ 0 → exec (.cohReadRequest cl line) s = .next s) ∧
    ((s.tok cl line).count ≠ 4096 →
      let h := s.home line
      exec (.cohWriteRequest cl line) s = .next (cohServed (sendTok ((askFor s cl line true).putHome line { h with count := 0, owner := false })
        line (some cl) { count := h.count, owner := h.owner }) line 0))) ∧
  (∀ s cl line, (s.tok cl line).count ≠ 0 → let p := surrender s cl line
    exec (.cohRecall cl line) s = .next (vecClear (sendTok p.1 line (recallDest s cl line) p.2) (pkgOfCluster cl) line)) ∧
  (∀ s n m, s.flight[n]? = some m → m.dest = none → exec (.cohTokenAnswer n) s = .next (deliverTok { s with flight := s.flight.eraseIdx n } m)) ∧
  (∀ s n m cl, s.flight[n]? = some m → m.dest = some cl → s.attempts = [] →
    let t := deliverTok { s with flight := s.flight.eraseIdx n } m
    t.attempts = [] → exec (.cohTokenAnswer n) s = .next t) ∧
  (∀ s cl tag l, (s.cluster cl).lines.get? tag = some l → tagCtl tag = true → let p := surrender s cl l.phys
    exec (.cohEviction cl tag) s = .next (vecClear (transmit (sendTok (dropLine p.1 cl tag) l.phys none p.2)
      (pkgOfCluster cl) (homePkgOf l.phys) vcCrsp 128) (pkgOfCluster cl) l.phys)) ∧
  (∀ s cl line, (s.tok cl line).count = 4096 → exec (.dirtyNotice cl line) s = .next (s.putHome line { (s.home line) with dirty := true })) ∧
  (∀ s cl frame x, s.owners.get? frame = some x → x.cluster = some cl →
    exec (.pdirtyNotice cl frame) s = .next { s with owners := s.owners.put frame { x with pdirty := true } }) ∧
  (∀ s cl line, (s.tok cl line).owner = true → (s.tok cl line).dirty = true →
    let t := stashEvent s cl (fun e => e.phys == line && tagCtl e.tag) false
    exec (.dirtyWriteback cl line) s = .next ((t.putTok cl line { (s.tok cl line) with dirty := false }).putHome line
      { ((t.putTok cl line { (s.tok cl line) with dirty := false }).home line) with dirty := false })) ∧
  (∀ s cl line, (s.home line).census = false → s.attempts = [] →
    let t := cohServed { s with attempts := [{ cluster := cl, line := line, write := true, persistent := true }] } line 1
    let p := answerWrite t (some cl) line
    exec (.persistentRequest cl line true) s = .next (sendTok p.1 line (some cl) p.2)) ∧
  (∀ s cl va wr t e, spaceOf va = .control → leafAt s (transDie va) 0 false va = (t, .leaf e) →
    (conflicts t cl { va := va, read := !wr, write := wr } e.word = true → exec (.classConflict cl va wr) s = .next (setClass t va e classShared none)) ∧
    (conflicts t cl { va := va, read := !wr, write := wr } e.word = false → exec (.classConflict cl va wr) s = .next t)) ∧
  (∀ s line, (s.home line).census = true → exec (.censusReport line) s = .next (cohServed (censusLine s line) line 2))


/-! ### The translation engine (chapter 18) -/

/-- A page address that passes the checks of R495. -/
def tlbVaOk (s : State) (g : Machine.Group) (va : Dword) (span : Nat) (tensorOnly : Bool) : Prop :=
  ((spaceOf va = .tensor) ∨ (spaceOf va = .control ∧ tensorOnly = false)) ∧ vaPkg va = pkgOfCore g.core ∧ vaPkg va < s.domain ∧
    va.toNat % span = 0

/-- A TLBOP that closes a region, with the words that it brings to D. -/
def TlbDone (i : Instr) (sh : Shape) (o : EOps) (s : State) (c : Clause) (r : State × List Word) : Prop :=
  exec i s = .next (broughtBy c true r.1 (r.1.grp s.cur) (writesOf sh o) (r.2.zipIdx.map (fun p => (sKey (o.d.toNat + p.2), p.1))))

/-- A TLBOP that names no page does its operation at once (R492). -/
def TlbDoes (i : Instr) (sh : Shape) (o : EOps) (run : State → Machine.Group → State × List Word) : Prop :=
  ∀ s g c, Runs ({} : Checks).closing sh o s g c →
    let g0 : Machine.Group := { g with wait := .none }
    TlbDone i sh o s c (run (s.with g0) g0)

/-- A TLBOP that names a page does its operation when the address is a page's start in a table of the issuing package, and traps
otherwise, in the order of R51 (R52, R492, R495). -/
def TlbPage (i : Instr) (sh : Shape) (o : EOps) (span : Nat) (tensorOnly : Bool) (run : State → Machine.Group → Dword → State × List Word) : Prop :=
  ∀ s g c, Runs ({} : Checks).closing sh o s g c →
    let g0 : Machine.Group := { g with wait := .none }
    let va := g.s2 s.free o.a.toNat
    let traps := fun cause => exec i s = .next (s.with (g0.trapHere { cause := cause, lanes := g.em, addr := va }))
    (tlbVaOk s g va span tensorOnly → TlbDone i sh o s c (run (s.with g0) g0 va)) ∧
    (va.toNat % span ≠ 0 → traps causeAlign) ∧
    (va.toNat % span = 0 → spaceOf va = .reserved → traps causeAccess) ∧
    (va.toNat % span = 0 → spaceOf va ≠ .reserved → (spaceOf va).global = false ∨ vaPkg va ≠ pkgOfCore g.core ∨ (tensorOnly = true ∧ spaceOf va = .control) →
      traps causeSpace)

/-- R483, R488, R489, R491 to R495: the TLBOP instructions. -/
def Parts.TableInstructions : Prop :=
  (∀ o, mapTier o ≤ 4 → TlbPage (.tlbopMap o) shTlbopMap o (2 ^ tierShift (mapTier o)) false (fun s g va =>
    let r := tlbMap s (pkgOfCore g.core) ((g.s1 s.free o.c.toNat).toNat % 4096) va (g.s2 s.free o.b.toNat) (mapTier o)
      (decide (xField o 3 1 = 1)) (xField o 4 2)
    (r.1, [BitVec.ofNat 32 r.2]))) ∧
  (∀ o s g c, 4 < mapTier o → Runs ({} : Checks).closing shTlbopMap o s g c →
    exec (.tlbopMap o) s = .next (s.with (({ g with wait := .none } : Machine.Group).trapHere { cause := causeIllegal, lanes := g.em, addr := 0 }))) ∧
  (∀ o,
    let asid := fun (s : State) (g : Machine.Group) => (g.s1 s.free o.c.toNat).toNat % 4096
    let die := fun (s : State) (g : Machine.Group) => pkgOfCore g.core * 4 + (g.uB32 s.free o).toNat % 4
    let entry := fun (s : State) (g : Machine.Group) => (g.uB32 s.free o).toNat / 256 % 8
    TlbPage (.tlbopInv o) shTlbopInv o 65536 false (fun s g va => (tlbInv s (pkgOfCore g.core) (asid s g) va, [])) ∧
    TlbPage (.tlbopMove o) shTlbopInv o 65536 true (fun s g va => (tlbMove s (pkgOfCore g.core) (asid s g) va, [])) ∧
    TlbDoes (.tlbopInvAsid o) shTlbopInvAsid o (fun s g => (tlbInvAsid s (pkgOfCore g.core) (asid s g), [])) ∧
    TlbDoes (.tlbopAll o) shTlbopAll o (fun s g => (tlbAll s (pkgOfCore g.core), [])) ∧
    TlbDoes (.tlbopReplay o) shTlbopReplay o (fun s g => (replayDie s (die s g), [])) ∧
    TlbDoes (.tlbopReplayAll o) shTlbopAll o (fun s g =>
      let d := pkgOfCore g.core * 4
      (replayDie (replayDie (replayDie (replayDie s d) (d + 1)) (d + 2)) (d + 3), [])) ∧
    TlbDoes (.tlbopDeny o) shTlbopDeny o (fun s g =>
      if ((s.die (die s g)).faults.get? (entry s g)).isNone then (s, [1]) else (denyEntry s (die s g) (entry s g), [0])) ∧
    TlbDoes (.tlbopFread o) shTlbopFread o (fun s g => (s, faultWords ((s.die (die s g)).faults.get? (entry s g)))) ∧
    TlbDoes (.tlbopFstat o) shTlbopFread o (fun s g => (s, statWords (s.die (die s g)))) ∧
    TlbDoes (.tlbopNewgen o) shTlbopNewgen o (fun s g =>
      ((tlbNewgen s (pkgOfCore g.core) (asid s g)).1, [BitVec.ofNat 32 (tlbNewgen s (pkgOfCore g.core) (asid s g)).2])))

/-- R480, R488, R491, R494: what MAP, NEWGEN and REPLAY leave in the tables and the fault buffer. -/
def Parts.TableOperations : Prop :=
  (∀ s pkg asid va entry tier back bdie,
    let ctl : Bool := decide (spaceOf va = .control)
    let root := if back then (s.asid pkg asid).broot.getD bdie 0 else (s.asid pkg asid).root.getD (if ctl then 0 else vaDie va) 0
    let m := tlbMap s pkg asid va entry tier back bdie
    ((asid = 0 ∧ ctl = false) ∨ (asid ≠ 0 ∧ ctl = true) → m = (s, 2)) ∧
    ((asid = 0 ↔ ctl = true) → mapBad ctl tier entry = true → m = (s, 2)) ∧
    ((asid = 0 ↔ ctl = true) → mapBad ctl tier entry = false → root = 0 → m = (s, 1)) ∧
    (∀ ent slot, (asid = 0 ↔ ctl = true) → mapBad ctl tier entry = false → root ≠ 0 →
      mapPlace s pkg ctl va [0, 1, 2, 3, 4] tier root.toNat 0 = some (ent, slot) →
      let kid := s.keyId pkg slot
      entV (s.rd64 kid ent) = false → ent % 8 = 0 → s.seals.rising = true → m.2 = 0 ∧ m.1.rd64 kid ent = entry)) ∧
  (∀ s pkg asid, 15 ≤ (s.asid pkg asid).ncnt → tlbNewgen s pkg asid = (s, 1)) ∧
  (∀ s pkg asid, (s.asid pkg asid).ncnt < 15 → s.clusters = [] → s.domain = 1 → s.lostTo pkg 0 = false →
    tlbNewgen s pkg asid =
      (s.putAsid 0 asid { (s.asid 0 asid) with gen := ((s.asid 0 asid).gen + 1) % 16, ncnt := (s.asid 0 asid).ncnt + 1 }, 0)) ∧
  (∀ s dk, (s.die dk).held = [] → replayDie s dk = s.putDie dk { (s.die dk) with faults := [], held := [], dropped := false, dcnt := 0 }) ∧
  (∀ s pkg, s.clusters = [] → ∀ d < 4,
    ((tlbAll s pkg).die (pkg * 4 + d)).mtlb1a = [] ∧ ((tlbAll s pkg).die (pkg * 4 + d)).mtlb1b = [] ∧ ((tlbAll s pkg).die (pkg * 4 + d)).mtlb2 = [])

/-- R471, R472, R476, R481, R484, R487: a request that misses starts a walk; a walk that ends fills the MTLBs or records a fault, which
is coalesced with one of its granule, takes the lowest free entry, or is dropped. -/
def Obligations.WalksAndFaults : Prop :=
  (∀ s dk (r : TransReq), transDie r.va = dk → (spaceOf r.va).global = true → asidOk s dk r = true →
    let asid := if spaceOf r.va = .control then 0 else r.asid
    ((s.die dk).lookup asid false r.va = none → (s.die dk).walks.length < 16 →
      exec (.mtlbRequest dk r) s = .next (s.putDie dk { (s.die dk) with walks := (s.die dk).walks ++ [r] })) ∧
    (∀ e t pa, (s.die dk).lookup asid false r.va = some e → xlate s r = (t, .ok pa e) → exec (.mtlbRequest dk r) s = .next t)) ∧
  (∀ s dk (r : TransReq), (s.die dk).walks.contains r = true →
    let asid := if spaceOf r.va = .control then 0 else r.asid
    let u := s.putDie dk { (s.die dk) with walks := (s.die dk).walks.erase r }
    (∀ t e, leafAt u dk asid false r.va = (t, .leaf e) → r.who.pkg ≠ dk / 4 → exec (.walkComplete dk r) s = .next t) ∧
    (∀ t, leafAt u dk asid false r.va = (t, .fault) → r.spec = false → exec (.walkComplete dk r) s = .next (recordFault t dk r).1) ∧
    (∀ t, leafAt u dk asid false r.va = (t, .fault) → r.spec = true →
      exec (.walkComplete dk r) s = .next (t.putDie dk { (t.die dk) with specDrop := (t.die dk).specDrop + 1 }))) ∧
  (∀ s dk (r : TransReq), let d := s.die dk
    (∀ i e, d.faultOf r.asid r.va = some i → d.faults.get? i = some e →
      recordFault s dk r = (s.putDie dk { d with faults := d.faults.put i { e with count := min (e.count + 1) 4095, wr := e.wr || r.write } }, some i)) ∧
    (∀ i, d.faultOf r.asid r.va = none → d.freeFault = some i → d.faults ≠ [] →
      let e : FaultEnt := { va := r.va &&& ~~~0xFFFF#64, asid := r.asid, gen := r.gen, wr := r.write, ty := r.ty, who := r.who }
      recordFault s dk r = (s.putDie dk { d with faults := d.faults.put i e }, some i)) ∧
    (d.faultOf r.asid r.va = none → d.freeFault = none → d.dropped = true →
      recordFault s dk r = (s.putDie dk { d with dropped := true, dcnt := min (d.dcnt + 1) 65535 }, none)))

/-! ### Completion, soft errors, and the end of a launch (chapters 3, 8, 20) -/

/-- R104, R218: a pending instruction whose data has come completes: its registers take its results, its flag falls by 1, and it is
pending no more. -/
def Obligations.Completion : Prop :=
  (∀ s gk n (g : Machine.Group) p, s.groups.get? gk = some g → g.pend.find? (fun p => p.id == n) = some p → g.ecc = [] →
    (p.wait = .ready → p.vp = false → exec (.longLatencyCompletion gk n) s = .next (s.putGrp gk (g.complete p))) ∧
    (p.wait ≠ .ready → exec (.longLatencyCompletion gk n) s = .next s)) ∧
  (∀ (g : Machine.Group) (p : Pend), g.region.due = false → g.window = [] → g.ecc = [] → p.fp = [] → p.qouts = [] → p.vpbits = [] →
    (g.complete p).pend = g.pend.filter (fun q => q.id != p.id) ∧
    (g.complete p).regs = (g.setRegs p.outs).regs ∧
    (p.flag < 12 → g.flags.rising = true → (g.complete p).flag p.flag = g.flag p.flag - 1) ∧
    (p.cause = none → (g.complete p).trap = g.trap) ∧
    (∀ k t, p.cause = some (k, t) → g.run = .running →
      (g.trap.pending.get? (trapClass t.cause) = none → (g.complete p).trap = { g.trap with pending := g.trap.pending.put (trapClass t.cause) t }) ∧
      (g.trap.pending.get? (trapClass t.cause) ≠ none → (g.complete p).trap = { g.trap with err := g.trap.err ||| 0x10000#32 })))

/-- R515, R518, R523 to R525, R527, R528: a register's code word goes bad; bad data rolls its group back, escalates, or comes with
ECC_UNCORRECTED; an error of the tile engine or of a core rolls groups back or ends their launches. -/
def Parts.SoftErrors : Prop :=
  (∀ s gk (g : Machine.Group) u, s.groups.get? gk = some g → g.ecc = [] → u < 1024 →
    exec (.eccUncorrectedConsume gk (.unit u true)) s = .next (s.putGrp gk { g with ecc := [(u, .uncorrectable)] })) ∧
  (∀ s gk n (bad : Half) (g : Machine.Group) p, s.groups.get? gk = some g → g.pend.find? (fun p => p.id == n) = some p → p.wait = .ready → p.vas ≠ [] →
    g.info.prot = false → g.run = .running → p.lanes ≠ 0 → bad &&& p.lanes ≠ 0 → p.cause = none →
    let q : Pend := { p with outs := p.outs.filter (fun o => !(bad &&& p.lanes).getLsbD (o.1 % 16))
                             vpbits := p.vpbits.filter (fun b => !(bad &&& p.lanes).getLsbD b.1) }
    let g1 : Machine.Group := { g with pend := g.pend.map (fun x => if x.id == n then q else x) }
    let log := fun o => (s.uecnt g.core 1).ctnLog g.core 1 o g.slot (p.place g).1 (p.place g).2
    (g.region.opened = true → g.region.rb < 2 → g.region.due = false →
      exec (.eccUncorrectedConsume gk (.data n bad)) s = .next (((log 1).rollcnt g.core 1).putGrp gk g1.rollSoon)) ∧
    (g.region.opened = true → 2 ≤ g.region.rb →
      exec (.eccUncorrectedConsume gk (.data n bad)) s = .next (((log 3).esccnt g.core 1).putGrp gk (g1.halt causeEcc 1))) ∧
    (g.region.opened = false → ∃ t : Trap, t.cause = causeEcc ∧ t.lanes = g.fold (bad &&& p.lanes) ∧ t.seq = p.seq ∧
      exec (.eccUncorrectedConsume gk (.data n bad)) s =
        .next ((log 2).putGrp gk { g with pend := g.pend.map (fun x => if x.id == n then { q with cause := some (0, t) } else x) }))) ∧
  (∀ s core, (s.tile core).jobs = [] →
    exec (.tileEngineError core) s = .next (((s.putTile core { int := (s.tile core).int, next := (s.tile core).next }).uecnt core 1).ctnLog core 2 1 0 2 0)) ∧
  (∀ s core gk j, (s.tile core).jobs = [j] → j.grp = gk →
    let u := unhold (finishPend (if j.op.units = 0 then s else powerCease s (dieOfCore core) (.tile core j.num)) gk j.pend
      (fun p => { p with outs := [], dests := [] })) gk
    let v := (u.putTile core { int := (s.tile core).int, next := (s.tile core).next }).uecnt core 1
    ∀ g, v.groups.get? gk = some g → g.run = .running → g.core = core →
    (g.region.opened = true ∧ g.region.rb < 2 → g.region.due = false →
      ∃ t, exec (.tileEngineError core) s = .next t ∧ t.groups = v.groups.put gk g.rollSoon ∧ t.launches = v.launches) ∧
    (g.region.opened = false ∨ 2 ≤ g.region.rb →
      ∃ t, exec (.tileEngineError core) s = .next t ∧ t.groups = v.groups.put gk (g.halt causeEcc 2))) ∧
  (∀ s core, s.groups = [] →
    exec (.coreEntryError core .write) s = .next ((s.uecnt core 1).ctnLog core 3 0 0 3 0)) ∧
  (∀ s core n, s.groups = [] → n < (s.core core).burrow.length →
    exec (.coreEntryError core (.burrow n)) s =
      .next (((s.putCore core { (s.core core) with burrow := (s.core core).burrow.eraseIdx n }).uecnt core 1).ctnLog core 3 0 0 3 n)) ∧
  (∀ s core gk g, s.groups = [(gk, g)] → s.onCore g core = true → g.run = .running → g.core = core → g.region.opened = true → g.region.rb < 2 → g.region.due = false →
    ∃ t, exec (.coreEntryError core .write) s = .next t ∧ t.groups = [(gk, g.rollSoon)])

/-- R523: a rollback restores %em, the uniform predicates and the place of the region's entry, and counts itself; nothing else of
the registers changes, and memory stays as it is. -/
def Parts.Rollbacks : Prop :=
  ∀ g : Machine.Group, (g.rollback).em = g.region.em ∧ (g.rollback).k = g.region.k ∧ (g.rollback).pc = g.region.entry ∧ (g.rollback).clause = none ∧
    (g.rollback).region.rb = g.region.rb + 1 ∧ (g.rollback).region.due = false ∧ (g.rollback).regs = g.flushWindow.regs ∧ (g.rollback).q = g.flushWindow.q ∧
    (g.rollback).flags = g.flags ∧ (g.rollback).trap.h = g.trap.h

/-- R221, R456: a halted group ends its launch as FAULTED: the other groups of its cohort halt too, and the launch fails with its
code. -/
def Parts.LaunchEnds : Prop :=
  (∀ s gk (g : Machine.Group) code sub lk l, s.groups.get? gk = some g → g.run = .halted code sub → (s.cohort g.cohort).launch = lk → s.launches.get? lk = some l →
    l.st = .running → (s.cohort g.cohort).groups = [gk] → code ≠ causeDouble → (code = causeEcc → sub = 0) →
    exec (.launchFaultEnd gk) s = .next (launchFail s lk code sub)) ∧
  (∀ s gk (g : Machine.Group), s.groups.get? gk = some g → g.run = .running → exec (.launchFaultEnd gk) s = .next s)

/-! ### Spewlink ports (chapter 21) -/

/-- R534 to R538: a flit that fails its check, or is out of order, is dropped and answered with a NAK of the last good SEQ; a good
data flit in order is taken; an acknowledgement and a NAK empty the replay buffer up to their SEQ. -/
def Parts.Flits : Prop :=
  (∀ s pkg p (f : Flit), let x := s.port pkg p
    (x.st ≠ .up → exec (.flitReceive pkg p f) s = .next s) ∧
    (x.st = .up → f.good = false ∨ 3 < f.ty.toNat ∨ 7 < f.vc.toNat ∨ 4095 < f.seq.toNat ∨ 4095 < f.ack.toNat ∨ f.last ≠ 0 →
      exec (.flitReceive pkg p f) s = .next (s.putPort pkg p { x with dropping := true, nak := some ((x.rxSeq + 4095) % 4096) })) ∧
    (x.st = .up → flitBroken f = false →
      let y := { x.acked f.ack.toNat with xoffRx := f.xoff }
      (f.ty.toNat = 1 → f.seq.toNat ≠ x.rxSeq →
        exec (.flitReceive pkg p f) s = .next (s.putPort pkg p { y with dropping := true, nak := some ((x.rxSeq + 4095) % 4096) })) ∧
      (f.ty.toNat = 1 → f.seq.toNat = x.rxSeq → 5 < f.vc.toNat →
        exec (.flitReceive pkg p f) s = .next (s.putPort pkg p { y with rxSeq := (x.rxSeq + 1) % 4096, dropping := false, nak := none })) ∧
      (f.ty.toNat = 1 → f.seq.toNat = x.rxSeq → f.vc.toNat ≤ 5 → x.mgmtOnly = false →
        ∃ n ≤ y.occ.getD f.vc.toNat 0 + 1, exec (.flitReceive pkg p f) s = .next
          ((s.putPort pkg p (({ y with rxSeq := (x.rxSeq + 1) % 4096, dropping := false, nak := none } : Port).setOcc f.vc.toNat n)).bump
            pkg (400 + p) 1)) ∧
      (f.ty.toNat = 2 → exec (.flitReceive pkg p f) s = .next (s.putPort pkg p (nakReceive y f.ack.toNat))) ∧
      (f.ty.toNat = 0 ∨ f.ty.toNat = 3 → exec (.flitReceive pkg p f) s = .next (s.putPort pkg p y)))) ∧
  (∀ s pkg p good, let y := (s.port pkg p).acked good
    exec (.nakReceive pkg p good) s = .next (s.putPort pkg p { y with resend := y.replay.length, replays := min (y.replays + 1) 65535 })) ∧
  (∀ (x : Port) ack f, f ∈ (x.acked ack).replay ↔ f ∈ x.replay ∧ 2048 ≤ (ack + 4096 - f.2.seq.toNat) % 4096)

/-- R436 to R438, R536, R538: what a port that is UP sends next: a NAK that is due, then what is to be sent again, then, while its replay
buffer has room, a new flit, which takes the next SEQ and stays in that buffer. MGMT comes before every other channel; of the others one
that has weight left in the round, a new round beginning where none has, and one of weight 0 where no other has a flit that may go. A
channel whose newest XOFF is on is skipped. -/
def Parts.PortSends : Prop :=
  (∀ s pkg p, let x := s.port pkg p
    let sent := fun (y : Port) => (s.putPort pkg p y).bump pkg (400 + p) 0
    (x.st ≠ .up → portSend s pkg p = s) ∧
    (x.st = .up → x.nak ≠ none → portSend s pkg p = sent { x with nak := none }) ∧
    (x.st = .up → x.nak = none → 0 < x.resend → portSend s pkg p = sent { x with resend := x.resend - 1 }) ∧
    (x.st = .up → x.nak = none → x.resend = 0 → 256 ≤ x.replay.length → portSend s pkg p = s) ∧
    (∀ q f rest, x.st = .up → x.nak = none → x.resend = 0 → x.replay.length < 256 → x.offers vcMgmt = true → x.queue vcMgmt = (q, f) :: rest →
      portSend s pkg p = sent { (x.putQueue vcMgmt rest) with
        txSeq := (x.txSeq + 1) % 4096, replay := x.replay ++ [(q, { x.stamp f with seq := BitVec.ofNat 16 x.txSeq })] })) ∧
  (∀ (x : Port) w pick vc used, x.next w pick = some (vc, used) →
    x.offers vc = true ∧ (x.queue vc ≠ [] ∧ x.xoffRx.getLsbD vc = false) ∧ (x.offers vcMgmt = true → vc = vcMgmt) ∧
    (x.offers vcMgmt = false →
      let lane := fun v => v ∈ [vcCreq, vcCrsp, vcTreq, vcTdat, vcColl] ∧ x.offers v = true
      ((∃ v, lane v ∧ x.usedBy v < shareWeight w v) → x.usedBy vc < shareWeight w vc ∧ used = x.used) ∧
      ((∃ v, lane v ∧ shareWeight w v ≠ 0) → shareWeight w vc ≠ 0))) ∧
  (∀ w : Word, shareWeight w vcCreq = 8 ∧ shareWeight w vcCrsp = 8 ∧ shareWeight w vcTreq = w.toNat / 4096 % 16 ∧
    shareWeight w vcTdat = w.toNat / 4096 % 16 ∧ shareWeight w vcColl = w.toNat / 256 % 16)

/-- R540, R541: the states of a port. -/
def Parts.PortStates : Prop :=
  ∀ s pkg p, let x := s.port pkg p
    let retrain := owlError (s.putPort pkg p { x with st := .retrain, retrains := min (x.retrains + 1) 255 }) pkg 11
    (x.st = .up ∨ x.st = .spare → exec (.nakBurst pkg p) s = .next retrain) ∧
    (∀ lane, x.st = .up → x.badlane = 7 → exec (.laneFail pkg p lane) s = .next (s.putPort pkg p { x with st := .spare, badlane := lane % 4 })) ∧
    (∀ lane, (x.st = .up ∧ x.badlane ≠ 7) ∨ x.st = .spare → exec (.laneFail pkg p lane) s = .next retrain) ∧
    (x.st = .retrain ∨ x.st = .spare → exec (.trainingComplete pkg p) s = .next (s.putPort pkg p { x with st := .up, resend := x.replay.length })) ∧
    (x.st = .train → exec (.trainingComplete pkg p) s = .next (s.putPort pkg p { x with st := .up, resend := x.replay.length, removed := false })) ∧
    (x.st = .retrain → ∃ t, exec (.retrainTimeout pkg p) s = .next t ∧
      (t.port pkg p).st = .down ∧ (t.port pkg p).removed = true ∧ (t.port pkg p).present = x.present) ∧
    (x.st = .retrain → x.replay = [] → x.txq = [] →
      exec (.retrainTimeout pkg p) s = .next (s.putPort pkg p { x with st := .down, removed := true, resend := 0 })) ∧
    (x.st = .down → exec (.presentFall pkg p) s = .next (s.putPort pkg p { x with present := false })) ∧
    (x.st ≠ .down → ∃ t, exec (.presentFall pkg p) s = .next t ∧
      (t.port pkg p).st = .down ∧ (t.port pkg p).removed = true ∧ (t.port pkg p).present = false) ∧
    (x.st = .down → exec (.presentRise pkg p) s = .next (s.putPort pkg p { x with
      present := true, st := .train, mgmtOnly := true, peer := none, replay := [], resend := 0, txq := [], used := [], rxSeq := 0, txSeq := 0, dropping := false, nak := none })) ∧
    (x.st ≠ .down → exec (.presentRise pkg p) s = .next (s.putPort pkg p { x with present := true }))

/-! ### Firmware (chapters 7 and 18) -/

/-- R205 to R208, R211: the pin and a forward of the gang pull the owl line where they are enabled; a pull latches when BUSY is 0 and
is counted when it is 1; writing BUSY re-arms. -/
def Parts.OwlLine : Prop :=
  (∀ s pkg, (s.snap pkg).pinen = true → exec (.owlPinTrigger pkg) s = .next (owlTrigger s pkg 4 0 pkg false)) ∧
  (∀ s pkg, (s.snap pkg).pinen = false → exec (.owlPinTrigger pkg) s = .next s) ∧
  (∀ s n m, s.owlOut[n]? = some m →
    exec (.owlForwardReceive n) s = .next (owlTrigger { s with owlOut := s.owlOut.eraseIdx n } m.dest 5 m.tag m.origin false)) ∧
  (∀ s pkg, exec (.snapshotRearm pkg) s = .next (s.putSnap pkg { (s.snap pkg) with busy := false, drops := 0 })) ∧
  (∀ s pkg source tag origin gang, (s.snap pkg).busy = true →
    owlTrigger s pkg source tag origin gang = s.putSnap pkg { (s.snap pkg) with drops := min ((s.snap pkg).drops + 1) 255 }) ∧
  (∀ s pkg source tag origin gang, (s.snap pkg).busy = false →
    (owlTrigger s pkg source tag origin gang).snap pkg =
      { (s.snap pkg) with seq := ((s.snap pkg).seq + 1) % 256, busy := true, source := source, tag := tag, tagPkg := origin, latch := s.free })

/-- R210, R532: a write of a register takes the width that the register has; the den's writes and writes that name no register have
no effect; key material is taken while the slot is not enabled, and reads as 0. -/
def Parts.RegisterSpace : Prop :=
  (∀ s pkg off width v, (regAt off = none → exec (.registerWrite pkg false off width v) s = .next s) ∧
    exec (.registerWrite pkg true off width v) s = .next s) ∧
  (∀ s pkg off width v r w, regAt off = some (r, w) →
    (width ≠ w → exec (.registerWrite pkg false off width v) s = .next s) ∧
    (width = w → exec (.registerWrite pkg false off width v) s = .next (r.write s pkg (v &&& BitVec.ofNat 64 (2 ^ w - 1))))) ∧
  (∀ s pkg k w v, k < 8192 → w < 16 →
    ((s.slot pkg k).en = false → exec (.keyMaterialWrite pkg k w v) s =
      .next (s.putKey pkg k { (s.slot pkg k) with words := (s.slot pkg k).words.put w v })) ∧
    ((s.slot pkg k).en = true → exec (.keyMaterialWrite pkg k w v) s = .next s) ∧
    regRead s pkg (0x200020 + 0x80 * k + 4 * w) 32 = 0) ∧
  (∀ s core, exec (.ctnlogClear core) s = .next (s.putCore core { (s.core core) with ctnlog := (s.core core).ctnlog &&& 0x7FFFFFFF#32 })) ∧
  (∀ s pkg, ∀ d < 4, ∀ v : Dword, exec (.registerWrite pkg false (0x100000 + 0x1000 * d) 32 v) s =
    exec (.budgetWrite (pkg * 4 + d) (v.setWidth 32)) s)

/-- R203, R204, R466 to R468: bring-up stops where it fails, and otherwise brings the package up; an update or a silent complex hands
over to the den; a report holds the measurements, the nonce and the signature. -/
def Parts.FirmwareComplexes : Prop :=
  (∀ s pkg (b : Boot), imageGood b.keyDigest b.images.1 = false ∨ imageGood b.keyDigest b.images.2 = false →
    ∃ t, exec (.packageReset pkg b) s = .next t ∧ (t.pkg pkg).up = false ∧ (t.pkg pkg).bucode = 1) ∧
  (∀ s pkg (b : Boot), imageGood b.keyDigest b.images.1 = true → imageGood b.keyDigest b.images.2 = true → b.memory = false →
    ∃ t, exec (.packageReset pkg b) s = .next t ∧ (t.pkg pkg).up = false ∧ (t.pkg pkg).bucode = 2) ∧
  (∀ s pkg (b : Boot), imageGood b.keyDigest b.images.1 = true → imageGood b.keyDigest b.images.2 = true → b.memory = true →
    b.fusesRead = true → b.ports = true →
    ∃ t, exec (.packageReset pkg b) s = .next t ∧ (t.pkg pkg).up = true ∧ (t.pkg pkg).fuses = b.fuses ∧ (t.pkg pkg).serial = b.serial ∧
      (t.pkg pkg).keyDigest = b.keyDigest ∧ t.domain = max 1 (min 32 b.domain) ∧ (∀ e ∈ t.groups, pkgOfCore e.2.core ≠ pkg) ∧
      (∀ k ∈ b.open_, k < 432 → t.worlds.get? (pkg * 432 + k) = some false)) ∧
  (∀ s pkg img, (s.pkg pkg).up = true → imageGood (s.pkg pkg).keyDigest img = true → img.starts = (s.pkg pkg).vers.getD (s.pkg pkg).active 0 → quiescent s pkg = true → img.converts = true →
    let den := 1 - (s.pkg pkg).active
    exec (.liveUpdate pkg img) s =
      .next (owlError (writeDib (s.putPkg pkg { ((s.pkg pkg).runImage den img) with active := den }) pkg) pkg 12)) ∧
  (∀ s pkg img, (s.pkg pkg).up = false ∨ imageGood (s.pkg pkg).keyDigest img = false ∨ img.converts = false ∨ img.starts ≠ (s.pkg pkg).vers.getD (s.pkg pkg).active 0 →
    exec (.liveUpdate pkg img) s = .next s) ∧
  (∀ s pkg, (s.pkg pkg).up = true → (s.pkg pkg).ctxs = [] → (s.pkg pkg).slots = [] →
    Serves (.heartbeatTakeover pkg) s pkg .takeover
      (writeDib (s.putPkg pkg { (s.pkg pkg) with active := 1 - (s.pkg pkg).active, slots := [] }) pkg)) ∧
  (∀ s pkg nonce, (s.pkg pkg).up = true → nonce.length = 32 →
    ∃ r : Report, r.regs = (List.range 8).map (fun m => (s.pkg pkg).meas.getD ((s.pkg pkg).active * 8 + m) 0) ∧ r.nonce = nonce ∧
      r.fuses = (s.pkg pkg).fuses ∧ r.version = (s.pkg pkg).vers.getD (s.pkg pkg).active 0 ∧ r.serial = (s.pkg pkg).serial ∧
      r.sig = rsaSign (s.pkg pkg).attKey.1 (s.pkg pkg).attKey.2
        (r.regs.flatMap (fun x => Sha.bigEndian 32 x.toNat) ++ nonce ++ fuseBytes r.fuses ++ natBytes 4 r.version ++ natBytes 8 r.serial.toNat) ∧
      exec (.attestationRequest pkg nonce) s = .next (s.putPkg pkg { (s.pkg pkg) with reports := (s.pkg pkg).reports ++ [r] }))

/-- R542, R543: a declaration is applied once: the package is marked as lost and everything outstanding with it is settled; the
part with more than half of the packages survives; firmware admits the peer of a port. -/
def Obligations.LossOfPackages : Prop :=
  (∀ s pkg q, s.lostTo pkg q = true ∨ s.lostTo pkg pkg = true → exec (.lossDeclaration pkg q) s = .next { s with decls := s.decls.erase (pkg, q) }) ∧
  (∀ s pkg q, s.lostTo pkg q = false → s.lostTo pkg pkg = false → pkg ≠ q →
    let t := { s with decls := s.decls.erase (pkg, q) }
    let u := settleLoss (markLost t pkg [q]) pkg q (leaderOf t pkg == q)
    exec (.lossDeclaration pkg q) s =
      .next (owlError { u with partner := if u.partner.get? pkg = some q then u.partner.del pkg else u.partner } pkg 10)) ∧
  (∀ s pkg q, (markLost s pkg [q]).lostTo pkg q = decide (q < 32)) ∧
  (∀ s pkg peer, pkg ≠ peer → s.domain = 2 → pkg < 2 → peer < 2 → s.lost = [] →
    (pkg = 0 → exec (.peerHeartbeatTimeout pkg peer) s = exec (.lossDeclaration pkg peer) s) ∧
    (pkg = 1 → exec (.peerHeartbeatTimeout pkg peer) s = exec (.lossDeclaration pkg pkg) s)) ∧
  (∀ live part : List Nat, live.length < 2 * part.length → survives live part = true) ∧
  (∀ live part : List Nat, 2 * part.length < live.length → survives live part = false) ∧
  (∀ s pkg port peer partner, let x := s.port pkg port
    x.present = true → x.mgmtOnly = true → peer < 32 → peer ≠ pkg → (s.pkg peer).up = false → (∀ e ∈ s.lost, e.2.getLsbD peer = false) →
    exec (.bladeAdmission pkg port peer partner) s =
      .next { (s.putPort pkg port { x with peer := some peer, mgmtOnly := false, removed := false }) with partner := s.partner.put peer partner })

/-- R545, R546: inbound requests through a BAR are performed while the link of an endpoint is up; a link that goes down drops them and
holds; a link comes up at a supported rate and width. -/
def Parts.PciExpress : Prop :=
  (∀ s pkg bar off (data : List Byte), (bar = 0 ∧ off + data.length ≤ 0x20000) ∨ (bar = 2 ∧ off + data.length ≤ 2 ^ 36) → data ≠ [] → data.length ≤ 512 →
    (s.pkg pkg).pcie.up = true → (s.pkg pkg).pcie.root = false →
    Serves (.pcieInboundWrite pkg bar off data) s pkg (.pcieWrite bar off data)
      (cpWrite (tlpIn s pkg) { fwReq s pkg (BitVec.ofNat 64 (pkg * 2 ^ 57 + off)) with world := false, privileged := bar == 0 } data).1) ∧
  (∀ s pkg bar off n, (bar = 0 ∧ off + n ≤ 0x20000) ∨ (bar = 2 ∧ off + n ≤ 2 ^ 36) → 0 < n → n ≤ 4096 →
    (s.pkg pkg).pcie.up = true → (s.pkg pkg).pcie.root = false →
    let p := cpRead ((tlpIn s pkg).bump pkg 425 1) { fwReq s pkg (BitVec.ofNat 64 (pkg * 2 ^ 57 + off)) with world := false, privileged := bar == 0 } n
    Serves (.pcieInboundRead pkg bar off n) s pkg (.pcieRead bar off n)
      (p.1.putPkg pkg { (p.1.pkg pkg) with pcie := { (p.1.pkg pkg).pcie with cpls := (p.1.pkg pkg).pcie.cpls ++ [(off, p.2)] } })) ∧
  (∀ s pkg bar off (data : List Byte), s.cpStop = none → (s.pkg pkg).pcie.up = false → exec (.pcieInboundWrite pkg bar off data) s = .next s) ∧
  (∀ s pkg, (s.pkg pkg).pcie.up = true → let p := (s.pkg pkg).pcie
    (p.root = false → exec (.pcieLinkDown pkg) s =
      .next ((s.putPkg pkg { (s.pkg pkg) with pcie := { p with up := false, rate := 0, width := 0, cpls := [] } }).bump pkg 425 3)) ∧
    (p.root = true → exec (.pcieLinkDown pkg) s =
      .next ((s.putPkg pkg { (s.pkg pkg) with pcie := { p with up := false, rate := 0, width := 0, cpls := [], dpc := true, ones := p.ones ++ p.outbound, outbound := [] } }).bump pkg 425 3))) ∧
  (∀ s pkg rate width, (s.pkg pkg).pcie.up = false → rate ∈ [128, 64, 32] → width ∈ [16, 8, 4] →
    exec (.pcieLinkUp pkg rate width) s =
      .next (s.putPkg pkg { (s.pkg pkg) with pcie := { (s.pkg pkg).pcie with up := true, rate := rate, width := width, dpc := false } }))


/-! ### Decoding and encoding (R85 to R100) -/

/-- Words written out in the spec's own encodings and the instructions that they are (R85, R88 to R99, and the worked
encodings of the chapters). -/
def Obligations.WordsDecode : Prop :=
  -- chapter 5: a header with TMASK, base and extended forms, a branch
  decodeWords [0x400008FA#32, 0x00000002#32, 0x00000000#32] = .ok (.clauseTmask { wait := 1, seta := 1, setb := 15, n := 2 } 2#64, []) ∧
  decodeWords [0x000007F8#32] = .ok (.clause { wait := 0, seta := 15, setb := 15, n := 0 }, []) ∧
  decodeWords [0x28080401#32] = .ok (.ld64B3 { d := 8, a := 2, b := 0 }, []) ∧
  decodeWords [0x10040A18#32] = .ok (.iaddB3 { d := 4, a := 5, b := 6 }, []) ∧
  decodeWords [0x90258022#32, 0x01800000#32, 0#32] = .ok (.iadd { d := 300, a := 4, b := 6, qs := 2 }, []) ∧
  decodeWords [0x9000E040#32, 0x4B000000#32, 0#32] = .ok (.iadd { d := 7, a := 8, b := 300 }, []) ∧
  decodeWords [0x00C80005#32] = .ok (.braBj 9 5, []) ∧
  decodeWords [0x02800000#32] = .ok (.exitB3 {}, []) ∧
  -- chapter 8: the uniform path, masks and regions
  decodeWords [0x08030814#32] = .ok (.uaddB3 { d := 3, a := 4, b := 5 }, []) ∧
  decodeWords [0xC8258022#32, 0x20#32, 0#32, 0xFFFFFFFF#32, 0xFFFFFFFF#32] =
    .ok (.uaddSat { d := 300, a := 4, qs := 2, lit := some 0xFFFFFFFFFFFFFFFF#64 }, []) ∧
  decodeWords [0x83028008#32, 0x20#32, 1#32] = .ok (.maskIf { d := 20, a := 1, x := 1 }, []) ∧
  decodeWords [0x830000A0#32, 0x30#32, 1#32] = .ok (.maskElse { a := 20, x := 1 }, []) ∧
  decodeWords [0x830000A0#32, 0x40#32, 0#32] = .ok (.maskEnd { a := 20 }, []) ∧
  decodeWords [0x87000000#32, 0x10#32, 0#32] = .ok (.regnE {}, []) ∧
  decodeWords [0x87808000#32, 0x10#32, 0x1234#32] = .error .badField ∧
  decodeWords [0x87800000#32, 0x10#32, 0x1234#32] = .ok (.snapGang { x := 0x1234 }, []) ∧
  -- chapters 9 to 11: lanes, precision, memory, fences and barriers
  decodeWords [0x9600A0A0#32, 0#32, 1#32] = .ok (.movxLd { d := 5, a := 20, x := 1 }, []) ∧
  decodeWords [0xA1006018#32, 0x00800010#32, 0#32] = .ok (.vpaddSub { d := 3, a := 3, b := 2 }, []) ∧
  decodeWords [0xAB000000#32, 0x10#32, 0x1C400000#32] = .ok (.fenceRel { x := 0x1C400000 }, []) ∧
  decodeWords [0xA8014010#32, 0#32, 0x14800040#32] = .ok (.ld .b32 { d := 10, a := 2, x := 0x14800040 }, []) ∧
  decodeWords [0xA9800020#32, 0x01800000#32, 0x80400000#32] = .ok (.redAdd .s32 { a := 4, b := 6, x := 0x80400000 }, []) ∧
  decodeWords [0xED000020#32, 0x34#32, 0#32, 0#32, 0#32] = .ok (.barWait { a := 4, hint := 4, lit := some 0#64 }, []) ∧
  -- chapters 12 to 14: tiles, copies, remote atomics and allowances
  decodeWords [0xF0000020#32, 0#32, 0x170#32, 0x80#32, 0#32] = .ok (.tldb { a := 4, x := 0x170, lit := some 0x80#64 }, []) ∧
  decodeWords [0xB280_0058#32, 0x03000050#32, 2#32] = .ok (.taccTri { a := 11, b := 12, x := 2 }, []) ∧
  decodeWords [0xF4004030#32, 0#32, 0#32, 0x1000#32, 0#32] = .ok (.cpy { d := 2, a := 6, lit := some 0x1000#64 }, []) ∧
  decodeWords [0xF6000000#32, 0#32, 0#32, 3#32, 0#32] = .ok (.cwait { lit := some 3#64 }, []) ∧
  decodeWords [0xB7000010#32, 0x01000000#32, 0#32] = .ok (.ratom .add .s32 { a := 2, b := 4 }, []) ∧
  decodeWords [0xB700C010#32, 0x01000400#32, 0#32] = .ok (.ratomRet .add .s32 { d := 6, a := 2, b := 4 }, []) ∧
  decodeWords [0xB7800000#32, 0#32, 0#32] = .ok (.tfence {}, []) ∧
  decodeWords [0xB8804000#32, 0x04400000#32, 0#32] = .ok (.atake { d := 2, b := 17 }, []) ∧
  -- chapters 15 to 20: solver, collectives, launches, translation and classes
  decodeWords [0xBB010000#32, 0x05000000#32, 0#32] = .ok (.sstatSamp { d := 8, b := 20 }, []) ∧
  decodeWords [0xBB800000#32, 0x20#32, 2#32] = .ok (.sctlStop { x := 2 }, []) ∧
  decodeWords [0xBC80A000#32, 0x01000010#32, 0#32] = .ok (.collwTest { d := 5, b := 4 }, []) ∧
  decodeWords [0xBD000000#32, 0#32, 0x4C03#32] = .ok (.carbSet { x := 0x4C03 }, []) ∧
  decodeWords [0xBE054000#32, 0x06800000#32, 0#32] = .ok (.lstatState { d := 42, b := 26 }, []) ∧
  decodeWords [0xBE84A0E0#32, 0x09824000#32, 4#32] = .ok (.tlbopMap { d := 37, a := 28, b := 38, c := 36, x := 4 }, []) ∧
  decodeWords [0xBF00C020#32, 0x10#32, 2#32] = .ok (.pclassSet { d := 6, a := 4, x := 2 }, []) ∧
  -- what is no instruction (R85, R88, R90, R100)
  decodeWords [] = .error .truncated ∧
  decodeWords [0x90258022#32, 0x01800000#32] = .error .truncated ∧
  decodeWords [0x00C00005#32] = .error .badField ∧
  decodeWords [0x01800000#32 ||| 0x3F800000#32] = .error .reservedOp ∧
  decodeWords [0xC00007F8#32, 0#32, 0#32, 0#32, 0#32] = .error .headerLen

/-- R85 to R99: for every well-formed instruction the decoder reads back its words, whatever follows them, with every field at
every value that the encoding admits; what the decoder reads from words it encodes back to them; and the same of bytes. -/
def Obligations.DecodeEncode : Prop :=
  (∀ (i : Instr) (rest : List Word), wellFormed i = true → isEvent i = false → decodeWords (encode i ++ rest) = .ok (i, rest)) ∧
  (∀ (ws rest : List Word) (i : Instr), decodeWords ws = .ok (i, rest) →
    wellFormed i = true ∧ isEvent i = false ∧ encode i ++ rest = ws) ∧
  (∀ (i : Instr) (bs : List Byte), wellFormed i = true → isEvent i = false →
    decode ((encode i).flatMap bytesOfWord ++ bs) = .ok (i, bs))

/-! ### A step of the machine (R85, R86, R100, R212 to R216; log 3) -/

/-- The quarter k (core × 4 + quarter) has its turn in a step from `s`, and acts in the state `s1`, after its groups have fetched
ahead: the agenda names it, or, with an empty agenda, the rotation does (log 3). -/
noncomputable def QuarterDue (s : State) (k : Nat) (s1 : State) : Prop :=
  (∃ rest, (settleAll (tick s)).agenda = .quarter k :: rest ∧ s1 = quarterFetch { settleAll (tick s) with agenda := rest } (k / 4) (k % 4)) ∨
  ((settleAll (tick s)).agenda = [] ∧ ∃ s0, s0 = { settleAll (tick s) with turn := (settleAll (tick s)).turn + 1 } ∧ s1 = quarterFetch s0 (k / 4) (k % 4) ∧
    (busyQuarters s0)[(settleAll (tick s)).turn % ((busyQuarters s0).length + 1)]? = some k)

/-- The running clause of a quarter is that of the group gk in place p, its next instruction may issue, and its words are `ws`. -/
def RunsClause (s : State) (k p gk : Nat) (ws : List Word) : Prop :=
  (s.quarter (k / 4) (k % 4)).running = some p ∧ placeOf s (k / 4) (k % 4) p = some gk ∧ (s.grp gk).canIssue = true ∧
  ((s.grp gk).clause.bind Clause.item).map Item.words = some ws

/-- The quarter runs no clause, and of its ready groups it chooses gk, in place p, at a clause boundary. -/
def StartsClause (s : State) (k p gk : Nat) : Prop :=
  (s.quarter (k / 4) (k % 4)).running = none ∧ chooseFrom (s.quarter (k / 4) (k % 4)) (readyPlaces s (k / 4) (k % 4)) = some p ∧
  placeOf s (k / 4) (k % 4) p = some gk ∧ (s.grp gk).clause = none

/-- The state in which the chosen group acts: the quarter's ages, marks and NEXT are those after the choice (R216), and the first issue of
its cohort has been counted (R198). -/
noncomputable def chosenState (s : State) (k p gk : Nat) : State :=
  let q := { (s.quarter (k / 4) (k % 4)).chosen (readyPlaces s (k / 4) (k % 4)) p with running := none }
  { beginCohort (s.putQuarter (k / 4) (k % 4) q) (s.grp gk).cohort with cur := gk }

/-- The state in which a chosen group acts whose clause does not start: the choice leaves no trace (R216). -/
def unchosenState (s : State) (k gk : Nat) : State :=
  { s.putQuarter (k / 4) (k % 4) { s.quarter (k / 4) (k % 4) with running := none } with cur := gk }

/-- A step runs the decoded instruction: the words of the running clause's next instruction decode to i, and the step is exec of
i on its group, after which only the quarter's choice of its running clause is set; words that are no instruction raise
ILLEGAL_OP at issue; at a clause start that opens the clause the step is exec of the header fetched at the PC, and a word that is
no header raises CLAUSE_FAULT; an event named by the agenda is exec of it, and an agenda entry that names no event only passes. -/
def Obligations.StepRunsDecoded : Prop :=
  (∀ s k s1 p gk ws i rest, QuarterDue s k s1 → RunsClause s1 k p gk ws → decodeWords ws = .ok (i, rest) →
    step s = thenState (exec i { s1 with cur := gk }) (afterTurn (k / 4) (k % 4) p gk (s1.grp gk))) ∧
  (∀ s k s1 p gk ws e, QuarterDue s k s1 → RunsClause s1 k p gk ws → decodeWords ws = .error e →
    step s = .next (afterTurn (k / 4) (k % 4) p gk (s1.grp gk)
      ({ s1 with cur := gk }.putGrp gk ({ s1.grp gk with wait := .none }.trapEm causeIllegal)))) ∧
  (∀ s k s1 p gk ws s2 i rest, QuarterDue s k s1 → StartsClause s1 k p gk →
    fetchInstr gk (s1.grp gk).pc (chosenState s1 k p gk) = (s2, .ok ws) → decodeWords ws = .ok (i, rest) → isHeader i = true →
    ∀ t : State, exec i s2 = .next t → t.groups.get? gk = some (t.grp gk) → (t.grp gk).clause.isSome = true →
    step s = .next (afterTurn (k / 4) (k % 4) p gk (s1.grp gk) t)) ∧
  (∀ s k s1 p gk ws s2 s3, QuarterDue s k s1 → StartsClause s1 k p gk →
    fetchInstr gk (s1.grp gk).pc (chosenState s1 k p gk) = (s3, .ok ws) → (s3.grp gk).clause = none →
    fetchInstr gk (s1.grp gk).pc (unchosenState s1 k gk) = (s2, .ok ws) → opOf ws ≠ 0 →
    step s = .next (afterTurn (k / 4) (k % 4) p gk (s1.grp gk) (s2.putGrp gk ((s2.grp gk).trapEm causeClause)))) ∧
  (∀ s i rest, (settleAll (tick s)).agenda = .event i :: rest →
    step s = if isEvent i then exec i { settleAll (tick s) with agenda := rest } else .next { settleAll (tick s) with agenda := rest })

/-! ### What holds of every state -/

/-- The invariant that every step keeps, from every state that has it: memory is in its canonical form, and the keys of the seals
and of the groups are strictly rising. -/
def Obligations.StepKeepsTables : Prop := ∀ s t : State, s.tablesOk = true → step s = .next t → t.tablesOk = true

/-- Every step of a machine whose tables are in their form answers a next state; an event always does, and an instruction of a
group does wherever the group is there. -/
def Obligations.StepAlwaysAnswers : Prop :=
  (∀ s : State, s.tablesOk = true → ∃ t : State, step s = .next t) ∧
  (∀ (i : Instr) (s : State), isEvent i = true → ∃ t : State, exec i s = .next t) ∧
  (∀ (i : Instr) (s : State) (g : Machine.Group), s.groups.get? s.cur = some g → ∃ t : State, exec i s = .next t) ∧
  (∀ (i : Instr) (s : State), isEvent i = false → s.groups.get? s.cur = none → exec i s = .fault .noGroup)

/-- R5, R17, R32, R200, R202: a byte written under a key is what a read under that key gives; no other byte of its line reads otherwise
under it, and under any key none of a line that none of its copies, primary and mirror, serves; a raw write changes its places alone; what
was written to the primary is what the mirror serves once the package is lost; and the forms are kept. -/
def Obligations.MemoryReadAfterWrite : Prop :=
  (∀ (s : State) (kid a : Nat) (b : Byte), s.memWf = true → s.seals.rising = true →
    (s.wrB kid a b).rdB kid a = b ∧
    (∀ j, j ≠ a → j / 128 = a / 128 → (s.wrB kid a b).rdB kid j = s.rdB kid j) ∧
    (∀ j k', j / 128 ≠ a / 128 → (∀ x ∈ placesAt s a, servedAt s j / 128 ≠ x / 128) → (s.wrB kid a b).rdB k' j = s.rdB k' j) ∧
    (s.wrB kid a b).memWf = true ∧ (s.wrB kid a b).seals.rising = true ∧
    (s.rawPut a b).raw a = b ∧ (∀ j, servedAt s j ∉ placesAt s a → (s.rawPut a b).raw j = s.raw j) ∧ (s.rawPut a b).memWf = true ∧
    (s.rawPut a b).seals = s.seals) ∧
  (∀ (s u : State) a m b, gonePkg s (a / 2 ^ 40) = false → mirrorOf s a = some m → u.mem = (s.rawPut a b).mem → gonePkg u (a / 2 ^ 40) = true →
    mirrorOf u a = some m → u.raw a = b)

/-! ### Arithmetic: the frame (R97, R107, R109, R110, R515) -/

/-- The opcode, the shape and the extended-form operands of an instruction that is no header, branch or event. -/
def laneForm (i : Instr) : Option (Nat × Shape × EOps) :=
  match form i with
  | .e op _ o sh => some (op, sh, o)
  | .b3 op _ o sh => some (op, sh, b3AsE op sh o)
  | _ => none

/-- The opcodes of integer arithmetic, uniform and by lane; and those with floating and precision arithmetic beside them. -/
def intOp (op : Nat) : Prop := (0x10 ≤ op ∧ op ≤ 0x19) ∨ (0x20 ≤ op ∧ op ≤ 0x2E)
def arithOp (op : Nat) : Prop := intOp op ∨ (0x30 ≤ op ∧ op ≤ 0x3A) ∨ (0x40 ≤ op ∧ op ≤ 0x49) ∨ op = 0x4C

/-- R97, R107, R109: an arithmetic instruction changes no state but its own group's and its core's error counters: no memory, no
other group, no table of the chip. Where no register error meets it and it takes no trap, an integer one leaves everything of its
group but the window, the issue number, the place in the clause and its destination registers and predicates, and of the lane
file only the destination in lanes that it acts on (MOVX.ST's destination is chosen by lane: IndexedMoves says it). -/
def Obligations.ArithmeticFrame : Prop :=
  (∀ (i : Instr) (op : Nat) (sh : Shape) (o : EOps) (s t : State), laneForm i = some (op, sh, o) → arithOp op → exec i s = .next t →
    t = { s with groups := t.groups, cores := t.cores } ∧
    (∀ k, k ≠ s.cur → t.groups.get? k = s.groups.get? k) ∧
    (∀ k, ∃ c l, t.core k = { s.core k with ctncnt := c, ctnlog := l })) ∧
  (∀ (i : Instr) (op : Nat) (sh : Shape) (o : EOps) (s t : State) (g h : Machine.Group), laneForm i = some (op, sh, o) → intOp op →
    s.groups.get? s.cur = some g → g.ecc = [] → exec i s = .next t → t.groups.get? s.cur = some h → h.trap = g.trap → h.run = g.run →
    t = { s with groups := t.groups } ∧
    h = { g with pc := h.pc, regs := h.regs, q := h.q, k := h.k, x := h.x, clause := h.clause, window := h.window, seq := h.seq, wait := h.wait } ∧
    (∀ n, h.q.get? n ≠ g.q.get? n → .q n ∈ writesOf sh o) ∧
    (∀ n < 8, h.k.getLsbD n ≠ g.k.getLsbD n → .k n ∈ writesOf sh o) ∧
    (op ≠ 0x2C → ∀ key, h.regs.get? key ≠ g.regs.get? key →
      (∃ n, .s n ∈ writesOf sh o ∧ key = sKey n) ∨
      (∃ n l, .v n ∈ writesOf sh o ∧ key = vKey n l ∧ (g.active sh o s.free).getLsbD l = true)))

/-! ### What comes before an instruction's own effect (R98, R101, R107) -/

/-- R98, R100, R101: the order of the checks. A bad encoding raises ILLEGAL_OP whatever else holds; a privileged form in
unprivileged mode PRIV; a register outside the allocation REG_BOUND; then, where its predicate does not let it act, the
instruction only moves on, and where an earlier long-latency result for a register that it writes is pending it is held
(R107). A group that is held, or rolls back, issues nothing. -/
def Obligations.TrapOrder : Prop :=
  ∀ (i : Instr) (op sub : Nat) (o : EOps) (sh : Shape) (s : State) (g : Machine.Group) (c : Clause), form i = .e op sub o sh →
    let g0 : Machine.Group := { g with wait := .none }
    (Issues s g c → op < 0x60 → op ≠ 5 → shapeOk sh o = false → exec i s = .next (s.with (g0.trapEm causeIllegal))) ∧
    (Issues s g c → shapeOk sh o = true → sh.priv = true → g.id.privileged = false → exec i s = .next (s.with (g0.trapEm causePriv))) ∧
    (∀ r : SpecReg, Issues s g c → i = .sysw o → shapeOk sh o = true → SpecReg.ofNum (xField o 0 12) = some r → r.privileged = true →
      g.id.privileged = false → exec i s = .next (s.with (g0.trapEm causePriv))) ∧
    (Issues s g c → intOp op ∨ (0x30 ≤ op ∧ op ≤ 0x3A) → shapeOk sh o = true →
      (readsOf sh o ++ writesOf sh o).all g.regIn = false → exec i s = .next (s.with (g0.trapEm causeRegBound))) ∧
    (Issues s g c → intOp op ∨ (0x30 ≤ op ∧ op ≤ 0x3A) → shapeOk sh o = true →
      (readsOf sh o ++ writesOf sh o).all g.regIn = true → g.acts sh o s.free = false → exec i s = .next (s.with (g.wrote c []))) ∧
    (Issues s g c → intOp op ∨ (0x30 ≤ op ∧ op ≤ 0x3A) → shapeOk sh o = true →
      (readsOf sh o ++ writesOf sh o).all g.regIn = true → g.acts sh o s.free = true → g.interlocked (writesOf sh o) = true →
      exec i s = .next (s.with { g with wait := .suspended })) ∧
    (∀ d, s.groups.get? s.cur = some g → op < 0x60 → op ≠ 5 → (g.wait = .held d ∨ g.region.due = true) → exec i s = .next s)

/-! ### Translation (R33, R51, R54, R473 to R477, R491) -/

/-- R51, R54, R473, R475 to R477: where a translation answers an address, the request's ASID agrees with the table's; the leaf is
valid, not MOVING, in its key slot's and region's worlds; it allows the access that was asked for; and the address is that of the
page with the low bits of the VA. -/
def Obligations.TranslationChecks : Prop :=
  ∀ (s t : State) (r : TransReq) (pa : Nat) (e : TlbEnt), xlate s r = (t, .ok pa e) →
    let pkg := transDie r.va / 4
    asidOk s (transDie r.va) r = true ∧
    pa = pkg * 2 ^ 40 + entPa e.word + r.va.toNat % 2 ^ tierShift e.tier ∧
    entMoving e.word = false ∧
    (r.read = true → entR e.word = true) ∧ (r.write = true → entW e.word = true) ∧
    (r.fetch = true → entX e.word = true) ∧
    (entPriv e.word = true → r.privileged = true) ∧
    (entWorld e.word = true → r.world = true) ∧
    (∃ d, s.region pkg (entPa e.word + r.va.toNat % 2 ^ tierShift e.tier) = some d ∧
      d.attr.getLsbD 0 = decide (spaceOf r.va = .control) ∧ (d.attr.getLsbD 1 = true → r.world = true)) ∧
    (r.spec = false → entA e.word = true ∧ (r.write = true → entD e.word = true))

/-! ### Reset -/

/-- What the register maps give after reset (R197, R199, R201, R204, R208, R437, R446, R478, R482, R487, R532, R540): each package's firmware
registers; no context, no record, no measurement; no group, launch or record of memory. Which bytes memory holds, one package in
the domain and what no map names are the model's (log 1, log 7). -/
def Obligations.ResetState : Prop :=
  State.reset.groups = [] ∧ State.reset.launches = [] ∧ State.reset.tablesOk = true ∧
  (∀ pkg, ∀ d < 4, regRead State.reset pkg (0x100000 + 0x1000 * d) 32 = 2047#64) ∧
  (∀ pkg, regRead State.reset pkg 0x108000 32 = 0x0808#64) ∧
  (∀ pkg, regRead State.reset pkg 0x200000 32 = 0x80000000#64) ∧
  (∀ pkg k, 0 < k → k < 8192 → regRead State.reset pkg (0x200000 + 0x80 * k) 32 = 0) ∧
  (∀ pkg, regRead State.reset pkg 0x300000 32 = 2#64 ∧ regRead State.reset pkg 0x300004 32 = 0) ∧
  (∀ pkg c, c < 384 → regRead State.reset pkg (0x400000 + 0x4000 * (c / 96) + 0x20 * (c % 96)) 64 = 0 ∧
    regRead State.reset pkg (0x400000 + 0x4000 * (c / 96) + 0x20 * (c % 96) + 8) 32 = 0) ∧
  (∀ pkg, ∀ p < 24, regRead State.reset pkg (0x500000 + 0x40 * p) 32 = 0x4E000000#64 ∧
    regRead State.reset pkg (0x500000 + 0x40 * p + 4) 32 = 0x8800#64) ∧
  (∀ pkg, ∀ d < 4, regRead State.reset pkg (0x600000 + 0x1000 * d) 32 = 0x041000#64) ∧
  (∀ pkg, ∀ a < 4096, regRead State.reset pkg (0x700000 + 0x80 * a) 32 = 0 ∧
    ∀ d < 4, regRead State.reset pkg (0x700008 + 0x80 * a + 8 * d) 64 = 0 ∧ regRead State.reset pkg (0x700028 + 0x80 * a + 8 * d) 64 = 0) ∧
  (∀ pkg, (State.reset.pkg pkg).ctxs = [] ∧ (State.reset.pkg pkg).meas = [] ∧ (State.reset.pkg pkg).up = false) ∧
  (∀ die, (State.reset.die die).faults = [] ∧ (State.reset.die die).granted = [])

/-! ### The checks of R51, and translations, that pass -/

/-- R48 to R52, R309, R340, R349, R367, R418, R434: ranges that pass checks 1 to 7 raise nothing. -/
def Parts.ChecksPass : Prop :=
  (∀ s g allow va n, RangePasses s g allow va n → extentCheck s g allow va n = none) ∧
  (∀ s g kind va n align, va.toNat % align = 0 → RangePasses s g (spaceAllowed kind) va n → accCheck s g kind va n align = none) ∧
  (∀ s g allow align addr stride lines bytes, OperandPasses s g allow align addr stride lines bytes →
    operandCheck s g allow align addr stride lines bytes = none) ∧
  (∀ s g addr tm mm, addr.toNat % 256 = 0 → (∀ p ∈ areaParts addr tm mm, RangePasses s g tileTarget p.1 p.2) → areaCheck s g addr tm mm = none) ∧
  (∀ s g j, CopyPasses s g j → copyCheck s g j = none) ∧
  (∀ s g va, va.toNat % 128 = 0 → spaceOf va = .control ∨ (spaceOf va = .tensor ∧ vaDie va = dieOfCore g.core % 4) →
    vaPkg va = dieOfCore g.core / 4 → vaPkg va < s.domain → sconfCheck s g va = none) ∧
  (∀ s va align, va.toNat % align = 0 → spaceOf va = .control → vaPkg va < s.domain → descCheck s va align = none) ∧
  (∀ s g va len, spaceOf va ≠ .reserved → regionKey va = regionKey (va + BitVec.ofNat 64 (len - 1)) →
    (spaceOf va = .tensor → vaPkg va = pkgOfCore g.core) → (spaceOf va = .control → vaPkg va < s.domain) → cmaintCheck s g va len = none)

/-- R470 to R477, R508: a mapped request translates, and changes nothing but the order of the MTLB's entries; so does a line at its point of
coherence open, the bytes of a line are read there, and a PCLASS finds its leaf. -/
def Parts.TranslationsPass : Prop :=
  (∀ s r e, Mapped s r e → xlate s r = (mappedState s r e, .ok (mappedPa r e) e)) ∧
  (∀ s r e, MappedControl s r e → pocOpen s r = (pocLine (mappedState s r e) (mappedPa r e / 128) r.write, .ok (mappedPa r e, e.word))) ∧
  (∀ s r e, Mapped s r e → spaceOf r.va = .tensor → r.write = false → pocOpen s r = (mappedState s r e, .ok (mappedPa r e, e.word))) ∧
  (∀ s r e n t, 0 < n → r.va.toNat % 128 + n ≤ 128 → pocOpen s r = (t, .ok (mappedPa r e, e.word)) →
    pocRead s r n = (touchMsc t (mappedPa r e / 128) 0 false, .ok (physRead t (mappedPa r e) e.word n)) ∧
    cpNum s r n = (touchMsc t (mappedPa r e / 128) 0 false, some (bytesNat (physRead t (mappedPa r e) e.word n)))) ∧
  (∀ s gk va wr e, let r := { (s.grp gk).req 0 va with read := false, write := wr }
    Mapped s r e → spaceOf va = .control → classLeaf s gk va wr = (mappedState s r e, .ok e))

/-! ### The statements that are made of parts -/

/-- Every uniform arithmetic instruction has its result and no other effect. -/
def Obligations.UniformPath : Prop :=
  Parts.UniformSums ∧ Parts.UniformProductsAndLogic ∧ Parts.UniformShiftsAndBits ∧ Parts.UniformFields ∧ Parts.UniformCompareAndMove ∧ Parts.UniformMoveFirst

/-- Every integer instruction of the lane path has its result in the active lanes and no other effect. -/
def Obligations.LaneIntegerArithmetic : Prop :=
  Parts.LaneSums ∧ Parts.LaneProducts ∧ Parts.LaneLogic ∧ Parts.LaneShifts ∧ Parts.LaneMinMaxAndBits

/-- Lane comparisons, selects, addresses, moves and integer conversions. -/
def Obligations.LaneCompareAndConvert : Prop :=
  Parts.LaneCompareAndMove ∧ Parts.LaneIntegerConversions

/-- Branches, calls and returns go to their target, or trap on it. -/
def Obligations.BranchesAndCalls : Prop :=
  Parts.BranchTargets ∧ Parts.CallsAndReturns

/-- YIELD, TRAP and TRET. -/
def Obligations.TrapInstructionsAndReturns : Prop :=
  Parts.YieldAndTrap ∧ Parts.TrapReturn ∧ Parts.TrapReturnDelivers

/-- What trap entry saves and where it goes, and when it halts the group. -/
def Obligations.TakingATrap : Prop :=
  Parts.TrapEntry ∧ Parts.TrapHalts

/-- MASK and VOTE, and the mismatch of a protected launch's lanes. -/
def Obligations.MasksVotesAndShadows : Prop :=
  Parts.MaskInstructions ∧ Parts.VoteInstructions ∧ Parts.ShadowMismatches

/-- SYSR and SYSW of every special register, with the checks of each. -/
def Obligations.SpecialRegisters : Prop :=
  Parts.SpecialRegisterReads ∧ Parts.SpecialRegisterWrites ∧ Parts.LaneSpecialWrites

/-- ROLE, REGN and SNAP. -/
def Obligations.RolesRegionsSnapshots : Prop :=
  Parts.RoleInstructions ∧ Parts.RegionInstructions ∧ Parts.SnapInstructions

/-- LD, ULD and ATOM start as load-like instructions; what each atomic computes. -/
def Obligations.LoadsAndAtomics : Prop :=
  Parts.LoadsStart ∧ Parts.AtomicsStart ∧ Parts.AtomicResults

/-- ST and RED start as store-like instructions; what a .comm reduction lets its own group see. -/
def Obligations.StoresAndReductions : Prop :=
  Parts.StoresStart ∧ Parts.ReductionsStart ∧ Parts.CommutativeReductions

/-- A scratchpad load reads its own bytes and a scratchpad store writes exactly its own bytes. -/
def Obligations.ScratchpadAccesses : Prop :=
  Parts.ScratchpadLoads ∧ Parts.ScratchpadStores

/-- FENCE, CMAINT and PREF. -/
def Obligations.FencesAndCaches : Prop :=
  Parts.FencesStart ∧ Parts.CacheMaintenance ∧ Parts.PrefetchesRun

/-- The BAR instructions and the phases of a barrier object. -/
def Obligations.Barriers : Prop :=
  Parts.BarrierInstructions ∧ Parts.BarrierPhases

/-- Rounding, scaling, dot products, classes, comparisons and conversions of floating numbers. -/
def Obligations.FloatScalarsAndConversions : Prop :=
  Parts.FloatScalars ∧ Parts.FloatCompare ∧ Parts.FloatConversions

/-- VPRND, VPCVT, VPREC and VPGET. -/
def Obligations.PrecisionConversionsAndControl : Prop :=
  Parts.PrecisionConversions ∧ Parts.PrecisionControl

/-- VPLD and VPST. -/
def Obligations.PrecisionMemory : Prop :=
  Parts.PrecisionLoadsComplete ∧ Parts.PrecisionLoads ∧ Parts.PrecisionStores

/-- EXIT, LAUNCH and LSTAT. -/
def Obligations.ExitAndDeviceLaunches : Prop :=
  Parts.GroupsExit ∧ Parts.DeviceLaunches

/-- What each packet and each event of a queue does. -/
def Obligations.QueuesAndPackets : Prop :=
  Parts.PacketsProcessed ∧ Parts.QueueEvents

/-- Launches are accepted, placed, saved and restored; the gang changes its slice. -/
def Obligations.DispatcherAndGang : Prop :=
  Parts.DispatcherEvents ∧ Parts.StartsCounted ∧ Parts.GangProtocol

/-- TGEMM, and what an accepted tile instruction does when it starts. -/
def Obligations.TileExecution : Prop :=
  Parts.TileProducts ∧ Parts.TilePasses

/-- Copies are accepted and land; batches are sealed and waited for; racing bytes take either value. -/
def Obligations.CopiesAndBatches : Prop :=
  Parts.CopiesRun ∧ Parts.CopyPieces ∧ Parts.OwnRaces ∧ Parts.BatchInstructions

/-- RATOM in every operation, its requests, and TFENCE. -/
def Obligations.RemoteAtomics : Prop :=
  Parts.RemoteRequests ∧ Parts.TensorFences

/-- The allowance instructions and the messages of the engine. -/
def Obligations.AllowanceEngine : Prop :=
  Parts.AllowanceInstructions ∧ Parts.AllowanceMessages

/-- The solver instructions and the actions of the engine. -/
def Obligations.SolverEngine : Prop :=
  Parts.SolverInstructions ∧ Parts.SolverActions

/-- PCLASS, and the events of the coherence engine. -/
def Obligations.PageClassesAndCoherence : Prop :=
  Parts.PageClasses ∧ Parts.CoherenceEvents

/-- Every TLBOP, and what it leaves in the tables. -/
def Obligations.TranslationTables : Prop :=
  Parts.TableInstructions ∧ Parts.TableOperations

/-- What an error strikes, what a rollback restores, and how a halted group ends its launch. -/
def Obligations.ErrorsAndRollbacks : Prop :=
  Parts.SoftErrors ∧ Parts.Rollbacks ∧ Parts.LaunchEnds

/-- Flits on a link, and the states of a port. -/
def Obligations.FabricLinks : Prop :=
  Parts.Flits ∧ Parts.PortSends ∧ Parts.PortStates

/-- Triggers of the owl line, and writes of the firmware registers. -/
def Obligations.OwlLineAndRegisters : Prop :=
  Parts.OwlLine ∧ Parts.RegisterSpace

/-- Bring-up, updates, take-over and attestation; requests and link events of PCI Express. -/
def Obligations.FirmwareAndPciExpress : Prop :=
  Parts.FirmwareComplexes ∧ Parts.PciExpress

/-- When the checks of an access and its translation raise nothing. -/
def Obligations.PassingChecks : Prop :=
  Parts.ChecksPass ∧ Parts.TranslationsPass
end

