-- ==== Sys2Proof/Laws/Arith.lean ====
section
/-!
SUPPORT. What the integer functions of the uniform and lane paths compute, as bit-vector operations or bit by bit.
-/

namespace Sys2Proof.Machine

theorem hiWord_wideMul (a b : Word) : hiWord (wideMul a b) = (a.signExtend 64 * b.signExtend 64).extractLsb' 32 32 := by
  rw [hiWord, wideMul, BitVec.ofInt_mul]; rfl

theorem wideMul_eq (a b : Word) : wideMul a b = a.signExtend 64 * b.signExtend 64 := by
  rw [wideMul, BitVec.ofInt_mul]; rfl

theorem wideMulU_eq (a b : Word) : wideMulU a b = a.setWidth 64 * b.setWidth 64 := by
  apply BitVec.eq_of_toNat_eq
  simp [wideMulU, BitVec.toNat_mul]

theorem shl_eq (a b : Word) : shl a b = a <<< b.toNat := by
  unfold shl; split
  · exact (BitVec.shiftLeft_eq_zero (by assumption)).symm
  · rfl

theorem shr_eq (a b : Word) : shr a b = a >>> b.toNat := by
  unfold shr; split
  · exact (BitVec.ushiftRight_eq_zero (by assumption)).symm
  · rfl

theorem shl64_eq (a : Dword) (b : Word) : shl64 a b = a <<< b.toNat := by
  unfold shl64; split
  · exact (BitVec.shiftLeft_eq_zero (by assumption)).symm
  · rfl

theorem shr64_eq (a : Dword) (b : Word) : shr64 a b = a >>> b.toNat := by
  unfold shr64; split
  · exact (BitVec.ushiftRight_eq_zero (by assumption)).symm
  · rfl

theorem sshiftRight_min {w : Nat} (a : BitVec w) (n : Nat) : a.sshiftRight (min n w) = a.sshiftRight n := by
  by_cases h : n ≤ w
  · rw [Nat.min_eq_left h]
  · rw [Nat.min_eq_right (by omega)]
    ext i hi
    simp only [BitVec.getElem_sshiftRight]
    have h1 : ¬ w + i < w := by omega
    have h2 : ¬ n + i < w := by omega
    simp [h1, h2]

theorem sar_eq (a b : Word) : sar a b = a.sshiftRight b.toNat := sshiftRight_min a _
theorem sar64_eq (a : Dword) (b : Word) : sar64 a b = a.sshiftRight b.toNat := sshiftRight_min a _

theorem minS_eq (a b : Word) : minS a b = if a.slt b then a else b := by
  simp only [minS, BitVec.slt_eq_decide, decide_eq_true_eq]
  rcases lt_trichotomy a.toInt b.toInt with h | h | h
  · rw [if_pos (le_of_lt h), if_pos h]
  · rw [if_pos (le_of_eq h), if_neg (by omega)]; exact BitVec.eq_of_toInt_eq h
  · rw [if_neg (by omega), if_neg (by omega)]

theorem maxS_eq (a b : Word) : maxS a b = if a.slt b then b else a := by
  simp only [maxS, BitVec.slt_eq_decide, decide_eq_true_eq]
  rcases lt_trichotomy a.toInt b.toInt with h | h | h
  · rw [if_pos (le_of_lt h), if_pos h]
  · rw [if_pos (le_of_eq h), if_neg (by omega)]; exact (BitVec.eq_of_toInt_eq h).symm
  · rw [if_neg (by omega), if_neg (by omega)]

theorem minU_eq (a b : Word) : minU a b = if a.ult b then a else b := by
  simp only [minU, BitVec.ult_eq_decide, decide_eq_true_eq]
  rcases lt_trichotomy a.toNat b.toNat with h | h | h
  · rw [if_pos (le_of_lt h), if_pos h]
  · rw [if_pos (le_of_eq h), if_neg (by omega)]; exact BitVec.eq_of_toNat_eq h
  · rw [if_neg (by omega), if_neg (by omega)]

theorem maxU_eq (a b : Word) : maxU a b = if a.ult b then b else a := by
  simp only [maxU, BitVec.ult_eq_decide, decide_eq_true_eq]
  rcases lt_trichotomy a.toNat b.toNat with h | h | h
  · rw [if_pos (le_of_lt h), if_pos h]
  · rw [if_pos (le_of_eq h), if_neg (by omega)]; exact (BitVec.eq_of_toNat_eq h).symm
  · rw [if_neg (by omega), if_neg (by omega)]

theorem onesBelow_eq (a : Word) (n : Nat) : onesBelow a n = (List.range n).countP (fun i => a.getLsbD i) := by
  induction n with
  | zero => rfl
  | succ n ih =>
    rw [onesBelow, ih, List.range_succ, List.countP_append]
    cases h : a.getLsbD n <;> simp [h]

theorem popc_eq (a : Word) : popc a = BitVec.ofNat 32 ((List.range 32).countP (fun i => a.getLsbD i)) := by
  rw [popc, onesBelow_eq]

/-- The zeros from bit n − 1 down are those that a scan from the top passes. -/
theorem zerosFrom_eq (a : Word) (n : Nat) :
    zerosFrom a n = ((List.range n).takeWhile (fun i => !a.getLsbD (n - 1 - i))).length := by
  induction n with
  | zero => rfl
  | succ n ih =>
    rw [zerosFrom, List.range_succ_eq_map, List.takeWhile_cons]
    cases h : a.getLsbD n
    · simp only [Nat.add_sub_cancel, Nat.sub_zero, h, Bool.not_false, if_true, List.length_cons, Bool.false_eq_true, if_false]
      rw [ih, List.takeWhile_map, List.length_map]
      congr 3
      funext i
      simp only [Function.comp]
      congr 2
      omega
    · simp [h]

theorem clz_eq (a : Word) :
    clz a = BitVec.ofNat 32 ((List.range 32).takeWhile (fun i => !a.getLsbD (31 - i))).length := by
  rw [clz, zerosFrom_eq]

theorem takeWhile_agree {α : Type} {p q : α → Bool} : ∀ {l : List α}, (∀ x ∈ l, p x = q x) → l.takeWhile p = l.takeWhile q
  | [], _ => rfl
  | x :: l, h => by
    have hx := h x (by simp)
    have hl := takeWhile_agree (l := l) (fun y hy => h y (by simp [hy]))
    rw [List.takeWhile_cons, List.takeWhile_cons, hx, hl]

theorem ctz_eq (a : Word) :
    ctz a = BitVec.ofNat 32 ((List.range 32).takeWhile (fun i => !a.getLsbD i)).length := by
  rw [ctz, clz_eq, brev]
  congr 2
  refine takeWhile_agree fun i hi => ?_
  have : i < 32 := List.mem_range.mp hi
  rw [BitVec.getLsbD_reverse, BitVec.getMsbD]
  have h1 : 31 - i < 32 := by omega
  have h2 : 32 - 1 - (31 - i) = i := by omega
  simp [h1, h2]

theorem satuAdd_eq (a b : Word) : satuAdd a b = BitVec.ofNat 32 (min (2 ^ 32 - 1) (a.toNat + b.toNat)) := by
  rw [satuAdd, satU]
  apply BitVec.eq_of_toInt_eq
  rw [← BitVec.ofInt_natCast]
  congr 2
  push_cast
  omega

theorem satuSub_eq (a b : Word) : satuSub a b = BitVec.ofNat 32 (a.toNat - b.toNat) := by
  rw [satuSub, satU, ← BitVec.ofInt_natCast]
  congr 1
  have := a.isLt
  omega

theorem absWrap_eq (a : Word) : absWrap a = if a.slt 0 then -a else a := by
  rw [absWrap]
  have : a.slt 0 = a.getLsbD 31 := BitVec.slt_zero_eq_msb
  rw [this]
  simp

theorem absSat_eq (a : Word) : absSat a = if a = 0x80000000#32 then 0x7FFFFFFF#32 else if a.slt 0 then -a else a := by
  have hs : a.slt 0 = decide (a.toInt < 0) := by rw [BitVec.slt_eq_decide]; rfl
  have h1 := a.toInt_lt
  have h2 := a.le_toInt
  norm_num at h1 h2
  rw [absSat, sat, hs]
  by_cases hm : a = 0x80000000#32
  · subst hm; decide
  · have hne : a.toInt ≠ -2147483648 := by
      intro h; apply hm; apply BitVec.eq_of_toInt_eq; rw [h]; decide
    rw [if_neg hm]
    by_cases hn : a.toInt < 0
    · simp only [hn, decide_true, if_true]
      apply BitVec.eq_of_toInt_eq
      have e : max (-(2 ^ (32 - 1) : Int)) (min (2 ^ (32 - 1) - 1) (a.toInt.natAbs : Int)) = -a.toInt := by
        show max (-2147483648 : Int) (min 2147483647 (a.toInt.natAbs : Int)) = -a.toInt
        omega
      rw [e, BitVec.ofInt_neg, BitVec.ofInt_toInt]
    · simp only [hn, decide_false, Bool.false_eq_true, if_false]
      have e : max (-(2 ^ (32 - 1) : Int)) (min (2 ^ (32 - 1) - 1) (a.toInt.natAbs : Int)) = a.toInt := by
        show max (-2147483648 : Int) (min 2147483647 (a.toInt.natAbs : Int)) = a.toInt
        omega
      rw [e, BitVec.ofInt_toInt]

theorem lut_bit (x a b c : Word) (i : Nat) (h : i < 32) :
    (lut x a b c).getLsbD i = x.getLsbD (4 * (a.getLsbD i).toNat + 2 * (b.getLsbD i).toNat + (c.getLsbD i).toNat) := by
  have key : ∀ (k : Nat) (m : Word), (if x.getLsbD k then m else 0).getLsbD i = (x.getLsbD k && m.getLsbD i) := by
    intro k m; cases x.getLsbD k <;> simp
  simp only [lut, BitVec.getLsbD_or, key, BitVec.getLsbD_and, BitVec.getLsbD_not, h, decide_true, Bool.true_and]
  cases a.getLsbD i <;> cases b.getLsbD i <;> cases c.getLsbD i <;> simp

theorem cmpCC_bits {w : Nat} (a b : BitVec w) :
    cmpCC .eq a b = decide (a = b) ∧ cmpCC .ne a b = decide (a ≠ b) ∧ cmpCC .lt a b = a.slt b ∧ cmpCC .le a b = a.sle b ∧
    cmpCC .gt a b = b.slt a ∧ cmpCC .ge a b = b.sle a ∧ cmpCC .ltu a b = a.ult b ∧ cmpCC .leu a b = a.ule b ∧
    cmpCC .gtu a b = b.ult a ∧ cmpCC .geu a b = b.ule a := by
  refine ⟨?_, ?_, ?_, ?_, ?_, ?_, ?_, ?_, ?_, ?_⟩ <;> simp [cmpCC, BitVec.slt, BitVec.sle, BitVec.ult, BitVec.ule, bne]
  · by_cases h : a = b <;> simp [h]
  · by_cases h : a = b <;> simp [h]

/-- The length of the field of UBIT.EXTR and IBIT.INS. -/
def fieldLen (b : Word) : Nat := min (b.toNat / 256 % 64) (32 - b.toNat % 32)

theorem bitExtr_unsigned (a b : Word) (i : Nat) (hi : i < 32) :
    (bitExtr false a b).getLsbD i = (decide (i < fieldLen b) && a.getLsbD (b.toNat % 32 + i)) := by
  unfold bitExtr fieldLen
  simp only [Bool.false_and, Bool.false_eq_true, if_false]
  split
  · next h => simp [h]
  · rw [BitVec.getLsbD_ofNat, Nat.testBit_mod_two_pow, Nat.testBit_div_two_pow, Nat.add_comm]
    simp [hi, BitVec.getLsbD]

theorem bitExtr_signed (a b : Word) (i : Nat) (hi : i < 32) :
    (bitExtr true a b).getLsbD i =
      (if fieldLen b = 0 then false else a.getLsbD (b.toNat % 32 + min i (fieldLen b - 1))) := by
  have hbit : ∀ n j, j < n → ((a.toNat / 2 ^ (b.toNat % 32)) % 2 ^ n).testBit j = a.getLsbD (b.toNat % 32 + j) := by
    intro n j h
    rw [Nat.testBit_mod_two_pow, Nat.testBit_div_two_pow]
    simp [h, BitVec.getLsbD, Nat.add_comm]
  unfold bitExtr
  simp only [Bool.true_and]
  change (if fieldLen b = 0 then (0 : Word) else _).getLsbD i = _
  by_cases h0 : fieldLen b = 0
  · simp [h0]
  · rw [if_neg h0, if_neg h0]
    have hl : fieldLen b ≤ 32 := le_trans (Nat.min_le_right _ _) (Nat.sub_le _ _)
    change (if (a.toNat / 2 ^ (b.toNat % 32) % 2 ^ fieldLen b).testBit (fieldLen b - 1) = true then
      BitVec.ofNat 32 (a.toNat / 2 ^ (b.toNat % 32) % 2 ^ fieldLen b + (2 ^ 32 - 2 ^ fieldLen b))
      else BitVec.ofNat 32 (a.toNat / 2 ^ (b.toNat % 32) % 2 ^ fieldLen b)).getLsbD i = _
    have htop := hbit (fieldLen b) (fieldLen b - 1) (by omega)
    have hlt : a.toNat / 2 ^ (b.toNat % 32) % 2 ^ fieldLen b < 2 ^ fieldLen b := Nat.mod_lt _ (Nat.two_pow_pos _)
    generalize hf : a.toNat / 2 ^ (b.toNat % 32) % 2 ^ fieldLen b = f at *
    have hlow : ∀ j, j < fieldLen b → f.testBit j = a.getLsbD (b.toNat % 32 + j) := by
      intro j hj; rw [← hf]; exact hbit _ j hj
    split
    · next ht =>
      have e : f + (2 ^ 32 - 2 ^ fieldLen b) = 2 ^ fieldLen b * (2 ^ (32 - fieldLen b) - 1) + f := by
        have : 2 ^ fieldLen b * 2 ^ (32 - fieldLen b) = 2 ^ 32 := by rw [← Nat.pow_add]; congr 1; omega
        rw [Nat.mul_sub, this]; omega
      rw [BitVec.getLsbD_ofNat, e, Nat.testBit_two_pow_mul_add _ hlt]
      simp only [hi, decide_true, Bool.true_and, Nat.testBit_two_pow_sub_one]
      by_cases hj : i < fieldLen b
      · rw [if_pos hj, hlow i hj, Nat.min_eq_left (by omega)]
      · rw [if_neg hj, Nat.min_eq_right (by omega), ← htop, ht]
        simp; omega
    · next ht =>
      rw [BitVec.getLsbD_ofNat]
      simp only [hi, decide_true, Bool.true_and]
      by_cases hj : i < fieldLen b
      · rw [hlow i hj, Nat.min_eq_left (by omega)]
      · rw [Nat.min_eq_right (by omega), ← htop, Nat.testBit_lt_two_pow (lt_of_lt_of_le hlt (Nat.pow_le_pow_right (by omega) (by omega)))]
        simpa using ht

theorem bitIns_bit (a b c : Word) (i : Nat) (hi : i < 32) :
    (bitIns a b c).getLsbD i =
      (if b.toNat % 32 ≤ i ∧ i < b.toNat % 32 + fieldLen b then c.getLsbD (i - b.toNat % 32) else a.getLsbD i) := by
  have hm : (BitVec.ofNat 32 ((2 ^ fieldLen b - 1) * 2 ^ (b.toNat % 32))).getLsbD i =
      decide (b.toNat % 32 ≤ i ∧ i < b.toNat % 32 + fieldLen b) := by
    rw [BitVec.getLsbD_ofNat, Nat.mul_comm, Nat.testBit_two_pow_mul, Nat.testBit_two_pow_sub_one]
    simp only [hi, decide_true, Bool.true_and, ge_iff_le, Bool.decide_and]
    by_cases h : b.toNat % 32 ≤ i
    · simp only [h, decide_true, Bool.true_and]; congr 1; simp; omega
    · simp [h]
  unfold bitIns
  change (if fieldLen b = 0 then a else _ : Word).getLsbD i = _
  by_cases h0 : fieldLen b = 0
  · rw [if_pos h0, if_neg (by omega)]
  · rw [if_neg h0]
    change ((a &&& ~~~BitVec.ofNat 32 ((2 ^ fieldLen b - 1) * 2 ^ (b.toNat % 32))) |||
      ((c <<< (b.toNat % 32)) &&& BitVec.ofNat 32 ((2 ^ fieldLen b - 1) * 2 ^ (b.toNat % 32)))).getLsbD i = _
    rw [BitVec.getLsbD_or, BitVec.getLsbD_and, BitVec.getLsbD_and, BitVec.getLsbD_not, hm, BitVec.getLsbD_shiftLeft]
    by_cases h : b.toNat % 32 ≤ i ∧ i < b.toNat % 32 + fieldLen b
    · simp [h, hi]
    · simp [h, hi]

end Sys2Proof.Machine
end

