-- ==== Sys2Proof/Laws/Issue.lean ====
section
/-!
SUPPORT. What the shell of an instruction does, said once: where `Runs` holds, an instruction's effect alone decides the next
state.
-/

namespace Sys2Proof.Machine

variable {ck : Checks} {sh : Shape} {o : EOps} {s : State} {g : Group} {c : Clause}

theorem Runs.not_held (h : Runs ck sh o s g c) : g.wait.isHeld = false := by
  rcases h.free with h | h <;> rw [h] <;> rfl

theorem badUnits_clean (h : g.ecc = []) (rs : List RegId) (lost : Bool) : g.badUnits rs lost = [] := by
  simp [Group.badUnits, h]

theorem countFixed_clean (h : g.ecc = []) (s : State) (g' : Group) : s.countFixed g g' = s := by
  simp [State.countFixed, h, State.celane, State.ceother, State.countCtn]

/-- What an instruction's effect makes of the state (the end of `issueG`). -/
def issueEnd (ck : Checks) (c : Clause) (s : State) (g : Group) (r : Res Eff) : State :=
  match r with
  | .trap t => s.putG (g.trapHere t)
  | .hold w => s.putG { g with wait := w }
  | .ok e => applyEff c ck.closes e

theorem issueG_clear (body : State → Group → Res Eff) (hr : g.run = .running) (ho : g.clause = some c)
    (hhold : ck.hold s g = false) (hform : (!shapeOk sh o || ck.illegal s g) = false)
    (hpriv : (sh.priv && !g.id.privileged) = false)
    (hregs : (!(g.regsIn sh o && (ck.reads ++ ck.writes).all g.regIn)) = false)
    (hrole : ck.role s g = false) (hacts : g.acts sh o s.free = true)
    (hlock : (g.interlocked (ck.writes ++ writesOf sh o) || (ck.closes && g.regionBusy)) = false)
    (hecc : g.ecc = [])
    (hrace : (g.trap.trapen.getLsbD 0 && (g.raceAll ck sh o s != 0)) = false)
    (hrace2 : (g.trap.trapen.getLsbD 0 && g.raceUni (ck.reads ++ readsOf sh o)) = false)
    (hroom : (sh.ll && decide (c.llFlag < 12) && decide (15 ≤ g.flag c.llFlag)) = false) :
    issueG ck sh o body s g = issueEnd ck c s g (body s g) := by
  have hf : ∀ p : Nat × EccMark → Bool, ({ g with ecc := g.ecc.filter p } : Group) = g := by
    intro p
    rcases g with ⟨⟩
    dsimp only at hecc
    subst hecc
    rfl
  unfold issueG
  simp only [hf]
  simp only [hr, ho, hhold, hform, hpriv, hregs, hrole, hacts, hlock, badUnits_clean hecc, hrace, hrace2, hroom,
    countFixed_clean hecc, Bool.false_eq_true, if_false, List.isEmpty_nil, Bool.not_true, Bool.true_or]
  rcases body s g with e | t | w
  · rfl
  · rfl
  · simp only [issueEnd, hecc, List.filter_nil, hr, ho]

/-- Where nothing of R101 comes first, an instruction does what its own effect says. -/
theorem issueC_runs (h : Runs ck sh o s g c) (body : State → Group → Res Eff) :
    issueC ck sh o body s = .next (issueEnd ck c s { g with wait := .none } (body s { g with wait := .none })) := by
  simp only [issueC, h.here, h.not_held, h.due, Bool.or_self, Bool.false_eq_true, if_false]
  congr 1
  refine issueG_clear body h.running h.opened h.hold ?_ ?_ ?_ h.role ?_ ?_ h.clean ?_ ?_ ?_
  · simp [h.form, h.legal]
  · rcases hp : sh.priv with _ | _
    · rfl
    · have := h.mode hp
      simpa using this
  · have := h.regs
    have e : ({ g with wait := .none } : Group).regIn = g.regIn := by funext r; cases r <;> rfl
    rw [Group.regsIn, ← List.all_append, e, this]; rfl
  · exact h.acts
  · rw [show ∀ ws, ({ g with wait := .none } : Group).interlocked ws = g.interlocked ws from fun _ => rfl, h.locks,
      show ({ g with wait := .none } : Group).regionBusy = g.regionBusy from rfl]
    rcases hp : ck.closes with _ | _
    · rfl
    · simp [h.region hp]
  · rcases ht : g.trap.trapen.getLsbD 0 with _ | _
    · rfl
    · rw [(h.race ht).1]; rfl
  · show (g.trap.trapen.getLsbD 0 && g.raceUni (ck.reads ++ readsOf sh o)) = false
    rcases ht : g.trap.trapen.getLsbD 0 with _ | _
    · rfl
    · rw [(h.race ht).2]; rfl
  · rcases hl : sh.ll with _ | _
    · rfl
    · by_cases h12 : c.llFlag < 12
      · have := h.room hl h12
        show (true && decide (c.llFlag < 12) && decide (15 ≤ g.flag c.llFlag)) = false
        simp [this]
      · simp [h12]

theorem putRegs_clean (h : g.ecc = []) (outs : List (Nat × Word)) :
    g.putRegs outs = g.setRegs outs := by
  simp [Group.putRegs, eccAfter, Group.setRegs, h]

/-- An instruction retires: the group is `wrote`. -/
theorem retire_wrote (hc : g.clause = some c) (he : g.ecc = []) (hw : g.wait = .none) (outs : List (Nat × Word)) :
    g.retire outs = g.wrote c outs := by
  simp only [Group.retire, hc, Group.pushWindow, putRegs_clean he, Group.wrote, Clause.next, Clause.nextPc]
  rcases ht : c.isTransient with _ | _ <;> by_cases hl : c.idx + 1 < c.body.length <;>
    simp [Group.advance, Group.setRegs, hc, hl, hw]

/-- The state after an effect that writes register results and changes nothing outside the group. -/
theorem issueEnd_okOuts (hk : ck.closes = false) (hc : g.clause = some c) (he : g.ecc = []) (hw : g.wait = .none)
    (s0 s : State) (g0 : Group) (outs : List (Nat × Word)) :
    issueEnd ck c s0 g0 (okOuts s g outs) = s.with (g.wrote c outs) := by
  have h := retire_wrote hc he hw outs
  have hw' : { g.wrote c outs with wait := .none } = g.wrote c outs := rfl
  simp only [issueEnd, okOuts, applyEff, hk, Bool.false_eq_true, if_false, h, hw, hw']
  rfl

/-- An effect that changes the group and has register results. -/
theorem issueC_changes (h : Runs ck sh o s g c) (hk : ck.closes = false) {body : State → Group → Res Eff} {g' : Group}
    {outs : List (Nat × Word)} (hb : body s { g with wait := .none } = okOuts s { g' with wait := .none } outs)
    (hc : g'.clause = g.clause) (he : g'.ecc = g.ecc) :
    issueC ck sh o body s = .next (s.with (g'.wrote c outs)) := by
  rw [issueC_runs h, hb]
  exact congrArg Host.Outcome.next
    (issueEnd_okOuts (g := { g' with wait := .none }) hk (hc.trans h.opened) (he.trans h.clean) rfl s s _ outs)

/-- An effect that has register results alone. -/
theorem issueC_writes (h : Runs ck sh o s g c) (hk : ck.closes = false) {body : State → Group → Res Eff}
    {outs : List (Nat × Word)} (hb : body s { g with wait := .none } = okOuts s { g with wait := .none } outs) :
    issueC ck sh o body s = .next (s.with (g.wrote c outs)) :=
  issueC_changes h hk hb rfl rfl

/-- An effect that is a trap. -/
theorem issueC_traps (h : Runs ck sh o s g c) {body : State → Group → Res Eff} {t : Trap}
    (hb : body s { g with wait := .none } = .trap t) :
    issueC ck sh o body s = .next (s.with (({ g with wait := .none } : Group).trapHere t)) := by
  rw [issueC_runs h, hb]; rfl

end Sys2Proof.Machine
end

