-- ==== Sys2Proof/Laws/PerInstr.lean ====
section
/-!
SUPPORT. For every instruction, what its layout says: the operation codes of its form lie in their fields, and the opcode map gives
the instruction back from them (R85 to R100).
-/

namespace Sys2Proof.Laws.Layout

open Sys2Proof Sys2Proof.Machine

/-- The opcode map reads the instruction back from the codes and fields of its form. -/
def Statement (i : Instr) : Prop :=
  match form i with
  | .event => True
  | .clause h => i = .clause h
  | .clauseLit h l => i = .clauseTmask h l
  | .clauseExt h w1 w2 => i = .clauseExtended h w1 w2
  | .bj op cnd off none => (op = 1 ∧ i = .braBj cnd off) ∨ (op = 3 ∧ i = .callBj cnd off)
  | .bj op cnd off (some l) => (op = 1 ∧ i = .braBjLiteral cnd off l) ∨ (op = 3 ∧ i = .callBjLiteral cnd off l)
  | .b3 op m o _ => (3 < op ∧ op < 128) ∧ m < 4 ∧ (wellFormed i = true → b3Instr op m o = some (some i))
  | .e op sub o _ => (0 < op ∧ op < 128) ∧ sub < 128 ∧ (wellFormed i = true → eInstr op sub o = some (some i))

theorem clause (h : Header) : Statement (.clause h) := rfl
theorem clauseTmask (h : Header) (lit : BitVec 64) : Statement (.clauseTmask h lit) := rfl
theorem clauseExtended (h : Header) (w1 : Word) (w2 : Word) : Statement (.clauseExtended h w1 w2) := rfl
theorem braBj (cnd : BitVec 4) (off : BitVec 19) : Statement (.braBj cnd off) := Or.inl ⟨rfl, rfl⟩
theorem braBjLiteral (cnd : BitVec 4) (off : BitVec 19) (lit : BitVec 64) : Statement (.braBjLiteral cnd off lit) := Or.inl ⟨rfl, rfl⟩
theorem bra (o : EOps) : Statement (.bra o) := ⟨by decide, by decide, fun _ => rfl⟩
theorem callBj (cnd : BitVec 4) (off : BitVec 19) : Statement (.callBj cnd off) := Or.inr ⟨rfl, rfl⟩
theorem callBjLiteral (cnd : BitVec 4) (off : BitVec 19) (lit : BitVec 64) : Statement (.callBjLiteral cnd off lit) := Or.inr ⟨rfl, rfl⟩
theorem call (o : EOps) : Statement (.call o) := ⟨by decide, by decide, fun _ => rfl⟩
theorem brx (o : EOps) : Statement (.brx o) := ⟨by decide, by decide, fun _ => rfl⟩
theorem brxIdx (o : EOps) : Statement (.brxIdx o) := ⟨by decide, by decide, fun _ => rfl⟩
theorem retB3 (o : B3Ops) : Statement (.retB3 o) := ⟨by decide, by decide, fun _ => rfl⟩
theorem ret (o : EOps) : Statement (.ret o) := ⟨by decide, by decide, fun _ => rfl⟩
theorem exitB3 (o : B3Ops) : Statement (.exitB3 o) := ⟨by decide, by decide, fun _ => rfl⟩
theorem exit (o : EOps) : Statement (.exit o) := ⟨by decide, by decide, fun _ => rfl⟩
theorem yieldB3 (o : B3Ops) : Statement (.yieldB3 o) := ⟨by decide, by decide, fun _ => rfl⟩
theorem yield (o : EOps) : Statement (.yield o) := ⟨by decide, by decide, fun _ => rfl⟩
theorem trap (o : EOps) : Statement (.trap o) := ⟨by decide, by decide, fun _ => rfl⟩
theorem tretB3 (o : B3Ops) : Statement (.tretB3 o) := ⟨by decide, by decide, fun _ => rfl⟩
theorem tret (o : EOps) : Statement (.tret o) := ⟨by decide, by decide, fun _ => rfl⟩
theorem maskSet (o : EOps) : Statement (.maskSet o) := ⟨by decide, by decide, fun _ => rfl⟩
theorem maskGet (o : EOps) : Statement (.maskGet o) := ⟨by decide, by decide, fun _ => rfl⟩
theorem maskIf (o : EOps) : Statement (.maskIf o) := ⟨by decide, by decide, fun _ => rfl⟩
theorem maskElse (o : EOps) : Statement (.maskElse o) := ⟨by decide, by decide, fun _ => rfl⟩
theorem maskEnd (o : EOps) : Statement (.maskEnd o) := ⟨by decide, by decide, fun _ => rfl⟩
theorem voteAny (o : EOps) : Statement (.voteAny o) := ⟨by decide, by decide, fun _ => rfl⟩
theorem voteAll (o : EOps) : Statement (.voteAll o) := ⟨by decide, by decide, fun _ => rfl⟩
theorem voteBal (o : EOps) : Statement (.voteBal o) := ⟨by decide, by decide, fun _ => rfl⟩
theorem voteCnt (o : EOps) : Statement (.voteCnt o) := ⟨by decide, by decide, fun _ => rfl⟩
theorem voteUni (o : EOps) : Statement (.voteUni o) := ⟨by decide, by decide, fun _ => rfl⟩
theorem sysr (o : EOps) : Statement (.sysr o) := ⟨by decide, by decide, fun _ => rfl⟩
theorem sysw (o : EOps) : Statement (.sysw o) := ⟨by decide, by decide, fun _ => rfl⟩
theorem roleCnt (o : EOps) : Statement (.roleCnt o) := ⟨by decide, by decide, fun _ => rfl⟩
theorem rolePhys (o : EOps) : Statement (.rolePhys o) := ⟨by decide, by decide, fun _ => rfl⟩
theorem roleTest (o : EOps) : Statement (.roleTest o) := ⟨by decide, by decide, fun _ => rfl⟩
theorem regnB (o : EOps) : Statement (.regnB o) := ⟨by decide, by decide, fun _ => rfl⟩
theorem regnE (o : EOps) : Statement (.regnE o) := ⟨by decide, by decide, fun _ => rfl⟩
theorem regnStat (o : EOps) : Statement (.regnStat o) := ⟨by decide, by decide, fun _ => rfl⟩
theorem snap (o : EOps) : Statement (.snap o) := ⟨by decide, by decide, fun _ => rfl⟩
theorem snapGang (o : EOps) : Statement (.snapGang o) := ⟨by decide, by decide, fun _ => rfl⟩
theorem uaddB3 (o : B3Ops) : Statement (.uaddB3 o) := ⟨by decide, by decide, fun _ => rfl⟩
theorem uaddSubB3 (o : B3Ops) : Statement (.uaddSubB3 o) := ⟨by decide, by decide, fun _ => rfl⟩
theorem uadd (o : EOps) : Statement (.uadd o) := ⟨by decide, by decide, fun _ => rfl⟩
theorem uaddSub (o : EOps) : Statement (.uaddSub o) := ⟨by decide, by decide, fun _ => rfl⟩
theorem uaddSat (o : EOps) : Statement (.uaddSat o) := ⟨by decide, by decide, fun _ => rfl⟩
theorem uaddSubSat (o : EOps) : Statement (.uaddSubSat o) := ⟨by decide, by decide, fun _ => rfl⟩
theorem uadd64 (o : EOps) : Statement (.uadd64 o) := ⟨by decide, by decide, fun _ => rfl⟩
theorem uaddSub64 (o : EOps) : Statement (.uaddSub64 o) := ⟨by decide, by decide, fun _ => rfl⟩
theorem umulLoB3 (o : B3Ops) : Statement (.umulLoB3 o) := ⟨by decide, by decide, fun _ => rfl⟩
theorem umulHiB3 (o : B3Ops) : Statement (.umulHiB3 o) := ⟨by decide, by decide, fun _ => rfl⟩
theorem umulHiuB3 (o : B3Ops) : Statement (.umulHiuB3 o) := ⟨by decide, by decide, fun _ => rfl⟩
theorem umulLo (o : EOps) : Statement (.umulLo o) := ⟨by decide, by decide, fun _ => rfl⟩
theorem umulHi (o : EOps) : Statement (.umulHi o) := ⟨by decide, by decide, fun _ => rfl⟩
theorem umulHiu (o : EOps) : Statement (.umulHiu o) := ⟨by decide, by decide, fun _ => rfl⟩
theorem ulogAndB3 (o : B3Ops) : Statement (.ulogAndB3 o) := ⟨by decide, by decide, fun _ => rfl⟩
theorem ulogOrB3 (o : B3Ops) : Statement (.ulogOrB3 o) := ⟨by decide, by decide, fun _ => rfl⟩
theorem ulogXorB3 (o : B3Ops) : Statement (.ulogXorB3 o) := ⟨by decide, by decide, fun _ => rfl⟩
theorem ulogAndnB3 (o : B3Ops) : Statement (.ulogAndnB3 o) := ⟨by decide, by decide, fun _ => rfl⟩
theorem ulogAnd (o : EOps) : Statement (.ulogAnd o) := ⟨by decide, by decide, fun _ => rfl⟩
theorem ulogOr (o : EOps) : Statement (.ulogOr o) := ⟨by decide, by decide, fun _ => rfl⟩
theorem ulogXor (o : EOps) : Statement (.ulogXor o) := ⟨by decide, by decide, fun _ => rfl⟩
theorem ulogAndn (o : EOps) : Statement (.ulogAndn o) := ⟨by decide, by decide, fun _ => rfl⟩
theorem ulogKand (o : EOps) : Statement (.ulogKand o) := ⟨by decide, by decide, fun _ => rfl⟩
theorem ulogKor (o : EOps) : Statement (.ulogKor o) := ⟨by decide, by decide, fun _ => rfl⟩
theorem ulogKxor (o : EOps) : Statement (.ulogKxor o) := ⟨by decide, by decide, fun _ => rfl⟩
theorem ulogKandn (o : EOps) : Statement (.ulogKandn o) := ⟨by decide, by decide, fun _ => rfl⟩
theorem ushfShlB3 (o : B3Ops) : Statement (.ushfShlB3 o) := ⟨by decide, by decide, fun _ => rfl⟩
theorem ushfShrB3 (o : B3Ops) : Statement (.ushfShrB3 o) := ⟨by decide, by decide, fun _ => rfl⟩
theorem ushfSarB3 (o : B3Ops) : Statement (.ushfSarB3 o) := ⟨by decide, by decide, fun _ => rfl⟩
theorem ushfRotB3 (o : B3Ops) : Statement (.ushfRotB3 o) := ⟨by decide, by decide, fun _ => rfl⟩
theorem ushfShl (o : EOps) : Statement (.ushfShl o) := ⟨by decide, by decide, fun _ => rfl⟩
theorem ushfShr (o : EOps) : Statement (.ushfShr o) := ⟨by decide, by decide, fun _ => rfl⟩
theorem ushfSar (o : EOps) : Statement (.ushfSar o) := ⟨by decide, by decide, fun _ => rfl⟩
theorem ushfRot (o : EOps) : Statement (.ushfRot o) := ⟨by decide, by decide, fun _ => rfl⟩
theorem ucmp (cc : CC) (o : EOps) : Statement (.ucmp cc o) := by
  cases cc <;> exact ⟨by decide, by decide, fun _ => rfl⟩
theorem umovB3 (o : B3Ops) : Statement (.umovB3 o) := ⟨by decide, by decide, fun _ => rfl⟩
theorem umov (o : EOps) : Statement (.umov o) := ⟨by decide, by decide, fun _ => rfl⟩
theorem umov64 (o : EOps) : Statement (.umov64 o) := ⟨by decide, by decide, fun _ => rfl⟩
theorem umovFirst (o : EOps) : Statement (.umovFirst o) := ⟨by decide, by decide, fun _ => rfl⟩
theorem usel (o : EOps) : Statement (.usel o) := ⟨by decide, by decide, fun _ => rfl⟩
theorem uminmaxMin (o : EOps) : Statement (.uminmaxMin o) := ⟨by decide, by decide, fun _ => rfl⟩
theorem uminmaxMax (o : EOps) : Statement (.uminmaxMax o) := ⟨by decide, by decide, fun _ => rfl⟩
theorem uminmaxMinu (o : EOps) : Statement (.uminmaxMinu o) := ⟨by decide, by decide, fun _ => rfl⟩
theorem uminmaxMaxu (o : EOps) : Statement (.uminmaxMaxu o) := ⟨by decide, by decide, fun _ => rfl⟩
theorem ubitPopc (o : EOps) : Statement (.ubitPopc o) := ⟨by decide, by decide, fun _ => rfl⟩
theorem ubitClz (o : EOps) : Statement (.ubitClz o) := ⟨by decide, by decide, fun _ => rfl⟩
theorem ubitCtz (o : EOps) : Statement (.ubitCtz o) := ⟨by decide, by decide, fun _ => rfl⟩
theorem ubitBrev (o : EOps) : Statement (.ubitBrev o) := ⟨by decide, by decide, fun _ => rfl⟩
theorem ubitExtr (o : EOps) : Statement (.ubitExtr o) := ⟨by decide, by decide, fun _ => rfl⟩
theorem ubitExtrs (o : EOps) : Statement (.ubitExtrs o) := ⟨by decide, by decide, fun _ => rfl⟩
theorem ulea (o : EOps) : Statement (.ulea o) := ⟨by decide, by decide, fun _ => rfl⟩
theorem uleaS (o : EOps) : Statement (.uleaS o) := ⟨by decide, by decide, fun _ => rfl⟩
theorem iaddB3 (o : B3Ops) : Statement (.iaddB3 o) := ⟨by decide, by decide, fun _ => rfl⟩
theorem iaddSubB3 (o : B3Ops) : Statement (.iaddSubB3 o) := ⟨by decide, by decide, fun _ => rfl⟩
theorem iaddSatB3 (o : B3Ops) : Statement (.iaddSatB3 o) := ⟨by decide, by decide, fun _ => rfl⟩
theorem iaddSubSatB3 (o : B3Ops) : Statement (.iaddSubSatB3 o) := ⟨by decide, by decide, fun _ => rfl⟩
theorem iadd (o : EOps) : Statement (.iadd o) := ⟨by decide, by decide, fun _ => rfl⟩
theorem iaddSub (o : EOps) : Statement (.iaddSub o) := ⟨by decide, by decide, fun _ => rfl⟩
theorem iaddSat (o : EOps) : Statement (.iaddSat o) := ⟨by decide, by decide, fun _ => rfl⟩
theorem iaddSubSat (o : EOps) : Statement (.iaddSubSat o) := ⟨by decide, by decide, fun _ => rfl⟩
theorem iadd64 (o : EOps) : Statement (.iadd64 o) := ⟨by decide, by decide, fun _ => rfl⟩
theorem iaddSub64 (o : EOps) : Statement (.iaddSub64 o) := ⟨by decide, by decide, fun _ => rfl⟩
theorem iaddSatu (o : EOps) : Statement (.iaddSatu o) := ⟨by decide, by decide, fun _ => rfl⟩
theorem iaddSubSatu (o : EOps) : Statement (.iaddSubSatu o) := ⟨by decide, by decide, fun _ => rfl⟩
theorem imulLoB3 (o : B3Ops) : Statement (.imulLoB3 o) := ⟨by decide, by decide, fun _ => rfl⟩
theorem imulHiB3 (o : B3Ops) : Statement (.imulHiB3 o) := ⟨by decide, by decide, fun _ => rfl⟩
theorem imulHiuB3 (o : B3Ops) : Statement (.imulHiuB3 o) := ⟨by decide, by decide, fun _ => rfl⟩
theorem imulLo (o : EOps) : Statement (.imulLo o) := ⟨by decide, by decide, fun _ => rfl⟩
theorem imulHi (o : EOps) : Statement (.imulHi o) := ⟨by decide, by decide, fun _ => rfl⟩
theorem imulHiu (o : EOps) : Statement (.imulHiu o) := ⟨by decide, by decide, fun _ => rfl⟩
theorem imulWide (o : EOps) : Statement (.imulWide o) := ⟨by decide, by decide, fun _ => rfl⟩
theorem imulWideu (o : EOps) : Statement (.imulWideu o) := ⟨by decide, by decide, fun _ => rfl⟩
theorem imadLo (o : EOps) : Statement (.imadLo o) := ⟨by decide, by decide, fun _ => rfl⟩
theorem imadWide (o : EOps) : Statement (.imadWide o) := ⟨by decide, by decide, fun _ => rfl⟩
theorem imadWideu (o : EOps) : Statement (.imadWideu o) := ⟨by decide, by decide, fun _ => rfl⟩
theorem ilogAndB3 (o : B3Ops) : Statement (.ilogAndB3 o) := ⟨by decide, by decide, fun _ => rfl⟩
theorem ilogOrB3 (o : B3Ops) : Statement (.ilogOrB3 o) := ⟨by decide, by decide, fun _ => rfl⟩
theorem ilogXorB3 (o : B3Ops) : Statement (.ilogXorB3 o) := ⟨by decide, by decide, fun _ => rfl⟩
theorem ilogAndnB3 (o : B3Ops) : Statement (.ilogAndnB3 o) := ⟨by decide, by decide, fun _ => rfl⟩
theorem ilogAnd (o : EOps) : Statement (.ilogAnd o) := ⟨by decide, by decide, fun _ => rfl⟩
theorem ilogOr (o : EOps) : Statement (.ilogOr o) := ⟨by decide, by decide, fun _ => rfl⟩
theorem ilogXor (o : EOps) : Statement (.ilogXor o) := ⟨by decide, by decide, fun _ => rfl⟩
theorem ilogAndn (o : EOps) : Statement (.ilogAndn o) := ⟨by decide, by decide, fun _ => rfl⟩
theorem ilogLut (o : EOps) : Statement (.ilogLut o) := ⟨by decide, by decide, fun _ => rfl⟩
theorem ishfShlB3 (o : B3Ops) : Statement (.ishfShlB3 o) := ⟨by decide, by decide, fun _ => rfl⟩
theorem ishfShrB3 (o : B3Ops) : Statement (.ishfShrB3 o) := ⟨by decide, by decide, fun _ => rfl⟩
theorem ishfSarB3 (o : B3Ops) : Statement (.ishfSarB3 o) := ⟨by decide, by decide, fun _ => rfl⟩
theorem ishfRotB3 (o : B3Ops) : Statement (.ishfRotB3 o) := ⟨by decide, by decide, fun _ => rfl⟩
theorem ishfShl (o : EOps) : Statement (.ishfShl o) := ⟨by decide, by decide, fun _ => rfl⟩
theorem ishfShr (o : EOps) : Statement (.ishfShr o) := ⟨by decide, by decide, fun _ => rfl⟩
theorem ishfSar (o : EOps) : Statement (.ishfSar o) := ⟨by decide, by decide, fun _ => rfl⟩
theorem ishfRot (o : EOps) : Statement (.ishfRot o) := ⟨by decide, by decide, fun _ => rfl⟩
theorem ishfShl64 (o : EOps) : Statement (.ishfShl64 o) := ⟨by decide, by decide, fun _ => rfl⟩
theorem ishfShr64 (o : EOps) : Statement (.ishfShr64 o) := ⟨by decide, by decide, fun _ => rfl⟩
theorem ishfSar64 (o : EOps) : Statement (.ishfSar64 o) := ⟨by decide, by decide, fun _ => rfl⟩
theorem iminmaxMin (o : EOps) : Statement (.iminmaxMin o) := ⟨by decide, by decide, fun _ => rfl⟩
theorem iminmaxMax (o : EOps) : Statement (.iminmaxMax o) := ⟨by decide, by decide, fun _ => rfl⟩
theorem iminmaxMinu (o : EOps) : Statement (.iminmaxMinu o) := ⟨by decide, by decide, fun _ => rfl⟩
theorem iminmaxMaxu (o : EOps) : Statement (.iminmaxMaxu o) := ⟨by decide, by decide, fun _ => rfl⟩
theorem iminmaxAbs (o : EOps) : Statement (.iminmaxAbs o) := ⟨by decide, by decide, fun _ => rfl⟩
theorem iminmaxAbsSat (o : EOps) : Statement (.iminmaxAbsSat o) := ⟨by decide, by decide, fun _ => rfl⟩
theorem icmp (cc : CC) (o : EOps) : Statement (.icmp cc o) := by
  cases cc <;> exact ⟨by decide, by decide, fun _ => rfl⟩
theorem icmp64 (cc : CC) (o : EOps) : Statement (.icmp64 cc o) := by
  cases cc <;> exact ⟨by decide, by decide, fun _ => rfl⟩
theorem isel (o : EOps) : Statement (.isel o) := ⟨by decide, by decide, fun _ => rfl⟩
theorem isel64 (o : EOps) : Statement (.isel64 o) := ⟨by decide, by decide, fun _ => rfl⟩
theorem ibitPopc (o : EOps) : Statement (.ibitPopc o) := ⟨by decide, by decide, fun _ => rfl⟩
theorem ibitClz (o : EOps) : Statement (.ibitClz o) := ⟨by decide, by decide, fun _ => rfl⟩
theorem ibitCtz (o : EOps) : Statement (.ibitCtz o) := ⟨by decide, by decide, fun _ => rfl⟩
theorem ibitBrev (o : EOps) : Statement (.ibitBrev o) := ⟨by decide, by decide, fun _ => rfl⟩
theorem ibitExtr (o : EOps) : Statement (.ibitExtr o) := ⟨by decide, by decide, fun _ => rfl⟩
theorem ibitExtrs (o : EOps) : Statement (.ibitExtrs o) := ⟨by decide, by decide, fun _ => rfl⟩
theorem ibitIns (o : EOps) : Statement (.ibitIns o) := ⟨by decide, by decide, fun _ => rfl⟩
theorem lea (o : EOps) : Statement (.lea o) := ⟨by decide, by decide, fun _ => rfl⟩
theorem leaS (o : EOps) : Statement (.leaS o) := ⟨by decide, by decide, fun _ => rfl⟩
theorem icvtSext (w : NarrowW) (o : EOps) : Statement (.icvtSext w o) := by
  cases w <;> exact ⟨by decide, by decide, fun _ => rfl⟩
theorem icvtZext (w : NarrowW) (o : EOps) : Statement (.icvtZext w o) := by
  cases w <;> exact ⟨by decide, by decide, fun _ => rfl⟩
theorem icvtSatS (w : NarrowW) (o : EOps) : Statement (.icvtSatS w o) := by
  cases w <;> exact ⟨by decide, by decide, fun _ => rfl⟩
theorem icvtSatU (w : NarrowW) (o : EOps) : Statement (.icvtSatU w o) := by
  cases w <;> exact ⟨by decide, by decide, fun _ => rfl⟩
theorem icvtSext64 (o : EOps) : Statement (.icvtSext64 o) := ⟨by decide, by decide, fun _ => rfl⟩
theorem icvtZext64 (o : EOps) : Statement (.icvtZext64 o) := ⟨by decide, by decide, fun _ => rfl⟩
theorem icvtSatS32 (o : EOps) : Statement (.icvtSatS32 o) := ⟨by decide, by decide, fun _ => rfl⟩
theorem icvtSatU32 (o : EOps) : Statement (.icvtSatU32 o) := ⟨by decide, by decide, fun _ => rfl⟩
theorem movB3 (o : B3Ops) : Statement (.movB3 o) := ⟨by decide, by decide, fun _ => rfl⟩
theorem mov (o : EOps) : Statement (.mov o) := ⟨by decide, by decide, fun _ => rfl⟩
theorem mov64 (o : EOps) : Statement (.mov64 o) := ⟨by decide, by decide, fun _ => rfl⟩
theorem movxLd (o : EOps) : Statement (.movxLd o) := ⟨by decide, by decide, fun _ => rfl⟩
theorem movxSt (o : EOps) : Statement (.movxSt o) := ⟨by decide, by decide, fun _ => rfl⟩
theorem xset (o : EOps) : Statement (.xset o) := ⟨by decide, by decide, fun _ => rfl⟩
theorem xsetAdd (o : EOps) : Statement (.xsetAdd o) := ⟨by decide, by decide, fun _ => rfl⟩
theorem xget (o : EOps) : Statement (.xget o) := ⟨by decide, by decide, fun _ => rfl⟩
theorem shflIdx (o : EOps) : Statement (.shflIdx o) := ⟨by decide, by decide, fun _ => rfl⟩
theorem shflUp (o : EOps) : Statement (.shflUp o) := ⟨by decide, by decide, fun _ => rfl⟩
theorem shflDown (o : EOps) : Statement (.shflDown o) := ⟨by decide, by decide, fun _ => rfl⟩
theorem shflXor (o : EOps) : Statement (.shflXor o) := ⟨by decide, by decide, fun _ => rfl⟩
theorem faddF32B3 (o : B3Ops) : Statement (.faddF32B3 o) := ⟨by decide, by decide, fun _ => rfl⟩
theorem faddSubF32B3 (o : B3Ops) : Statement (.faddSubF32B3 o) := ⟨by decide, by decide, fun _ => rfl⟩
theorem faddF16x2B3 (o : B3Ops) : Statement (.faddF16x2B3 o) := ⟨by decide, by decide, fun _ => rfl⟩
theorem faddSubF16x2B3 (o : B3Ops) : Statement (.faddSubF16x2B3 o) := ⟨by decide, by decide, fun _ => rfl⟩
theorem fadd (fmt : LFmt) (o : EOps) : Statement (.fadd fmt o) := by
  cases fmt <;> exact ⟨by decide, by decide, fun _ => rfl⟩
theorem faddSub (fmt : LFmt) (o : EOps) : Statement (.faddSub fmt o) := by
  cases fmt <;> exact ⟨by decide, by decide, fun _ => rfl⟩
theorem fmulF32B3 (o : B3Ops) : Statement (.fmulF32B3 o) := ⟨by decide, by decide, fun _ => rfl⟩
theorem fmulF16x2B3 (o : B3Ops) : Statement (.fmulF16x2B3 o) := ⟨by decide, by decide, fun _ => rfl⟩
theorem fmul (fmt : LFmt) (o : EOps) : Statement (.fmul fmt o) := by
  cases fmt <;> exact ⟨by decide, by decide, fun _ => rfl⟩
theorem ffmaF32B3 (o : B3Ops) : Statement (.ffmaF32B3 o) := ⟨by decide, by decide, fun _ => rfl⟩
theorem ffmaF16x2B3 (o : B3Ops) : Statement (.ffmaF16x2B3 o) := ⟨by decide, by decide, fun _ => rfl⟩
theorem ffma (fmt : LFmt) (o : EOps) : Statement (.ffma fmt o) := by
  cases fmt <;> exact ⟨by decide, by decide, fun _ => rfl⟩
theorem fminmaxMin (fmt : LFmt) (o : EOps) : Statement (.fminmaxMin fmt o) := by
  cases fmt <;> exact ⟨by decide, by decide, fun _ => rfl⟩
theorem fminmaxMax (fmt : LFmt) (o : EOps) : Statement (.fminmaxMax fmt o) := by
  cases fmt <;> exact ⟨by decide, by decide, fun _ => rfl⟩
theorem fcmp (cc : FCmp) (fmt : LFmt) (o : EOps) : Statement (.fcmp cc fmt o) := by
  cases cc <;> cases fmt <;> exact ⟨by decide, by decide, fun _ => rfl⟩
theorem frnd (fmt : LFmt) (o : EOps) : Statement (.frnd fmt o) := by
  cases fmt <;> exact ⟨by decide, by decide, fun _ => rfl⟩
theorem fscale (fmt : LFmt) (o : EOps) : Statement (.fscale fmt o) := by
  cases fmt <;> exact ⟨by decide, by decide, fun _ => rfl⟩
theorem fdp2 (fmt : PFmt) (o : EOps) : Statement (.fdp2 fmt o) := by
  cases fmt <;> exact ⟨by decide, by decide, fun _ => rfl⟩
theorem fclass (fmt : LFmt) (o : EOps) : Statement (.fclass fmt o) := by
  cases fmt <;> exact ⟨by decide, by decide, fun _ => rfl⟩
theorem fclassPred (fmt : LFmt) (o : EOps) : Statement (.fclassPred fmt o) := by
  cases fmt <;> exact ⟨by decide, by decide, fun _ => rfl⟩
theorem fcvtF16F32 (o : EOps) : Statement (.fcvtF16F32 o) := ⟨by decide, by decide, fun _ => rfl⟩
theorem fcvtBf16F32 (o : EOps) : Statement (.fcvtBf16F32 o) := ⟨by decide, by decide, fun _ => rfl⟩
theorem fcvtF32F16 (o : EOps) : Statement (.fcvtF32F16 o) := ⟨by decide, by decide, fun _ => rfl⟩
theorem fcvtF32Bf16 (o : EOps) : Statement (.fcvtF32Bf16 o) := ⟨by decide, by decide, fun _ => rfl⟩
theorem fcvtS32F32 (o : EOps) : Statement (.fcvtS32F32 o) := ⟨by decide, by decide, fun _ => rfl⟩
theorem fcvtU32F32 (o : EOps) : Statement (.fcvtU32F32 o) := ⟨by decide, by decide, fun _ => rfl⟩
theorem fcvtF32S32 (o : EOps) : Statement (.fcvtF32S32 o) := ⟨by decide, by decide, fun _ => rfl⟩
theorem fcvtF32U32 (o : EOps) : Statement (.fcvtF32U32 o) := ⟨by decide, by decide, fun _ => rfl⟩
theorem fcvtF16x2F32 (o : EOps) : Statement (.fcvtF16x2F32 o) := ⟨by decide, by decide, fun _ => rfl⟩
theorem fcvtBf16x2F32 (o : EOps) : Statement (.fcvtBf16x2F32 o) := ⟨by decide, by decide, fun _ => rfl⟩
theorem fcvtTpF32 (o : EOps) : Statement (.fcvtTpF32 o) := ⟨by decide, by decide, fun _ => rfl⟩
theorem fcvtF32Tp (o : EOps) : Statement (.fcvtF32Tp o) := ⟨by decide, by decide, fun _ => rfl⟩
theorem fspecRcp (o : EOps) : Statement (.fspecRcp o) := ⟨by decide, by decide, fun _ => rfl⟩
theorem fspecRsq (o : EOps) : Statement (.fspecRsq o) := ⟨by decide, by decide, fun _ => rfl⟩
theorem fspecSqrt (o : EOps) : Statement (.fspecSqrt o) := ⟨by decide, by decide, fun _ => rfl⟩
theorem fspecExp2 (o : EOps) : Statement (.fspecExp2 o) := ⟨by decide, by decide, fun _ => rfl⟩
theorem fspecLog2 (o : EOps) : Statement (.fspecLog2 o) := ⟨by decide, by decide, fun _ => rfl⟩
theorem fspecSin (o : EOps) : Statement (.fspecSin o) := ⟨by decide, by decide, fun _ => rfl⟩
theorem fspecCos (o : EOps) : Statement (.fspecCos o) := ⟨by decide, by decide, fun _ => rfl⟩
theorem fspecTanh (o : EOps) : Statement (.fspecTanh o) := ⟨by decide, by decide, fun _ => rfl⟩
theorem longLatencyCompletion (grp : Nat) (n : Nat) : Statement (.longLatencyCompletion grp n) := trivial
theorem vprecSet (o : EOps) : Statement (.vprecSet o) := ⟨by decide, by decide, fun _ => rfl⟩
theorem vprecP (o : EOps) : Statement (.vprecP o) := ⟨by decide, by decide, fun _ => rfl⟩
theorem vprecMode (o : EOps) : Statement (.vprecMode o) := ⟨by decide, by decide, fun _ => rfl⟩
theorem vpgetHead (o : EOps) : Statement (.vpgetHead o) := ⟨by decide, by decide, fun _ => rfl⟩
theorem vpgetSlice (o : EOps) : Statement (.vpgetSlice o) := ⟨by decide, by decide, fun _ => rfl⟩
theorem vpadd (o : EOps) : Statement (.vpadd o) := ⟨by decide, by decide, fun _ => rfl⟩
theorem vpaddSub (o : EOps) : Statement (.vpaddSub o) := ⟨by decide, by decide, fun _ => rfl⟩
theorem vpmul (o : EOps) : Statement (.vpmul o) := ⟨by decide, by decide, fun _ => rfl⟩
theorem vpfma (o : EOps) : Statement (.vpfma o) := ⟨by decide, by decide, fun _ => rfl⟩
theorem vpfmaNeg (o : EOps) : Statement (.vpfmaNeg o) := ⟨by decide, by decide, fun _ => rfl⟩
theorem vpdiv (o : EOps) : Statement (.vpdiv o) := ⟨by decide, by decide, fun _ => rfl⟩
theorem vpsqrt (o : EOps) : Statement (.vpsqrt o) := ⟨by decide, by decide, fun _ => rfl⟩
theorem vpcmp (cc : FCmp) (o : EOps) : Statement (.vpcmp cc o) := by
  cases cc <;> exact ⟨by decide, by decide, fun _ => rfl⟩
theorem vprndInt (o : EOps) : Statement (.vprndInt o) := ⟨by decide, by decide, fun _ => rfl⟩
theorem vprndLen (o : EOps) : Statement (.vprndLen o) := ⟨by decide, by decide, fun _ => rfl⟩
theorem vpcvtVpF32 (o : EOps) : Statement (.vpcvtVpF32 o) := ⟨by decide, by decide, fun _ => rfl⟩
theorem vpcvtF32Vp (o : EOps) : Statement (.vpcvtF32Vp o) := ⟨by decide, by decide, fun _ => rfl⟩
theorem vpcvtVpF64 (o : EOps) : Statement (.vpcvtVpF64 o) := ⟨by decide, by decide, fun _ => rfl⟩
theorem vpcvtF64Vp (o : EOps) : Statement (.vpcvtF64Vp o) := ⟨by decide, by decide, fun _ => rfl⟩
theorem vpcvtVpS64 (o : EOps) : Statement (.vpcvtVpS64 o) := ⟨by decide, by decide, fun _ => rfl⟩
theorem vpcvtS64Vp (o : EOps) : Statement (.vpcvtS64Vp o) := ⟨by decide, by decide, fun _ => rfl⟩
theorem vpcvtVpT16 (o : EOps) : Statement (.vpcvtVpT16 o) := ⟨by decide, by decide, fun _ => rfl⟩
theorem vpcvtT16Vp (o : EOps) : Statement (.vpcvtT16Vp o) := ⟨by decide, by decide, fun _ => rfl⟩
theorem vpmov (o : EOps) : Statement (.vpmov o) := ⟨by decide, by decide, fun _ => rfl⟩
theorem vpmovNeg (o : EOps) : Statement (.vpmovNeg o) := ⟨by decide, by decide, fun _ => rfl⟩
theorem vpmovAbs (o : EOps) : Statement (.vpmovAbs o) := ⟨by decide, by decide, fun _ => rfl⟩
theorem vpld (o : EOps) : Statement (.vpld o) := ⟨by decide, by decide, fun _ => rfl⟩
theorem vpldStr (o : EOps) : Statement (.vpldStr o) := ⟨by decide, by decide, fun _ => rfl⟩
theorem vpldIdx (o : EOps) : Statement (.vpldIdx o) := ⟨by decide, by decide, fun _ => rfl⟩
theorem vpldPack (o : EOps) : Statement (.vpldPack o) := ⟨by decide, by decide, fun _ => rfl⟩
theorem vpst (o : EOps) : Statement (.vpst o) := ⟨by decide, by decide, fun _ => rfl⟩
theorem vpstStr (o : EOps) : Statement (.vpstStr o) := ⟨by decide, by decide, fun _ => rfl⟩
theorem vpstIdx (o : EOps) : Statement (.vpstIdx o) := ⟨by decide, by decide, fun _ => rfl⟩
theorem vpstPack (o : EOps) : Statement (.vpstPack o) := ⟨by decide, by decide, fun _ => rfl⟩
theorem uld (sz : LdSz) (o : EOps) : Statement (.uld sz o) := by
  cases sz <;> exact ⟨by decide, by decide, fun _ => rfl⟩
theorem ld32B3 (o : B3Ops) : Statement (.ld32B3 o) := ⟨by decide, by decide, fun _ => rfl⟩
theorem ld64B3 (o : B3Ops) : Statement (.ld64B3 o) := ⟨by decide, by decide, fun _ => rfl⟩
theorem ld128B3 (o : B3Ops) : Statement (.ld128B3 o) := ⟨by decide, by decide, fun _ => rfl⟩
theorem ld (sz : LdSz) (o : EOps) : Statement (.ld sz o) := by
  cases sz <;> exact ⟨by decide, by decide, fun _ => rfl⟩
theorem st32B3 (o : B3Ops) : Statement (.st32B3 o) := ⟨by decide, by decide, fun _ => rfl⟩
theorem st64B3 (o : B3Ops) : Statement (.st64B3 o) := ⟨by decide, by decide, fun _ => rfl⟩
theorem st128B3 (o : B3Ops) : Statement (.st128B3 o) := ⟨by decide, by decide, fun _ => rfl⟩
theorem st (sz : StSz) (o : EOps) : Statement (.st sz o) := by
  cases sz <;> exact ⟨by decide, by decide, fun _ => rfl⟩
theorem atomAdd (sz : XSz) (o : EOps) : Statement (.atomAdd sz o) := by
  cases sz <;> exact ⟨by decide, by decide, fun _ => rfl⟩
theorem atomMin (sz : XSz) (o : EOps) : Statement (.atomMin sz o) := by
  cases sz <;> exact ⟨by decide, by decide, fun _ => rfl⟩
theorem atomMax (sz : XSz) (o : EOps) : Statement (.atomMax sz o) := by
  cases sz <;> exact ⟨by decide, by decide, fun _ => rfl⟩
theorem atomMinu (sz : XSz) (o : EOps) : Statement (.atomMinu sz o) := by
  cases sz <;> exact ⟨by decide, by decide, fun _ => rfl⟩
theorem atomMaxu (sz : XSz) (o : EOps) : Statement (.atomMaxu sz o) := by
  cases sz <;> exact ⟨by decide, by decide, fun _ => rfl⟩
theorem atomAnd (sz : XSz) (o : EOps) : Statement (.atomAnd sz o) := by
  cases sz <;> exact ⟨by decide, by decide, fun _ => rfl⟩
theorem atomOr (sz : XSz) (o : EOps) : Statement (.atomOr sz o) := by
  cases sz <;> exact ⟨by decide, by decide, fun _ => rfl⟩
theorem atomXor (sz : XSz) (o : EOps) : Statement (.atomXor sz o) := by
  cases sz <;> exact ⟨by decide, by decide, fun _ => rfl⟩
theorem atomExch (sz : XSz) (o : EOps) : Statement (.atomExch sz o) := by
  cases sz <;> exact ⟨by decide, by decide, fun _ => rfl⟩
theorem atomCas (sz : ASz) (o : EOps) : Statement (.atomCas sz o) := by
  cases sz <;> exact ⟨by decide, by decide, fun _ => rfl⟩
theorem atomFadd (o : EOps) : Statement (.atomFadd o) := ⟨by decide, by decide, fun _ => rfl⟩
theorem atomFmin (o : EOps) : Statement (.atomFmin o) := ⟨by decide, by decide, fun _ => rfl⟩
theorem atomFmax (o : EOps) : Statement (.atomFmax o) := ⟨by decide, by decide, fun _ => rfl⟩
theorem redAdd (sz : XSz) (o : EOps) : Statement (.redAdd sz o) := by
  cases sz <;> exact ⟨by decide, by decide, fun _ => rfl⟩
theorem redMin (sz : XSz) (o : EOps) : Statement (.redMin sz o) := by
  cases sz <;> exact ⟨by decide, by decide, fun _ => rfl⟩
theorem redMax (sz : XSz) (o : EOps) : Statement (.redMax sz o) := by
  cases sz <;> exact ⟨by decide, by decide, fun _ => rfl⟩
theorem redMinu (sz : XSz) (o : EOps) : Statement (.redMinu sz o) := by
  cases sz <;> exact ⟨by decide, by decide, fun _ => rfl⟩
theorem redMaxu (sz : XSz) (o : EOps) : Statement (.redMaxu sz o) := by
  cases sz <;> exact ⟨by decide, by decide, fun _ => rfl⟩
theorem redAnd (sz : XSz) (o : EOps) : Statement (.redAnd sz o) := by
  cases sz <;> exact ⟨by decide, by decide, fun _ => rfl⟩
theorem redOr (sz : XSz) (o : EOps) : Statement (.redOr sz o) := by
  cases sz <;> exact ⟨by decide, by decide, fun _ => rfl⟩
theorem redXor (sz : XSz) (o : EOps) : Statement (.redXor sz o) := by
  cases sz <;> exact ⟨by decide, by decide, fun _ => rfl⟩
theorem redFadd (o : EOps) : Statement (.redFadd o) := ⟨by decide, by decide, fun _ => rfl⟩
theorem redFmin (o : EOps) : Statement (.redFmin o) := ⟨by decide, by decide, fun _ => rfl⟩
theorem redFmax (o : EOps) : Statement (.redFmax o) := ⟨by decide, by decide, fun _ => rfl⟩
theorem ldx (sz : XSz) (o : EOps) : Statement (.ldx sz o) := by
  cases sz <;> exact ⟨by decide, by decide, fun _ => rfl⟩
theorem stx (sz : XSz) (o : EOps) : Statement (.stx sz o) := by
  cases sz <;> exact ⟨by decide, by decide, fun _ => rfl⟩
theorem fenceAcq (o : EOps) : Statement (.fenceAcq o) := ⟨by decide, by decide, fun _ => rfl⟩
theorem fenceRel (o : EOps) : Statement (.fenceRel o) := ⟨by decide, by decide, fun _ => rfl⟩
theorem fenceAr (o : EOps) : Statement (.fenceAr o) := ⟨by decide, by decide, fun _ => rfl⟩
theorem cmaintWb (o : EOps) : Statement (.cmaintWb o) := ⟨by decide, by decide, fun _ => rfl⟩
theorem cmaintInv (o : EOps) : Statement (.cmaintInv o) := ⟨by decide, by decide, fun _ => rfl⟩
theorem cmaintDemote (o : EOps) : Statement (.cmaintDemote o) := ⟨by decide, by decide, fun _ => rfl⟩
theorem prefL1 (o : EOps) : Statement (.prefL1 o) := ⟨by decide, by decide, fun _ => rfl⟩
theorem prefClc (o : EOps) : Statement (.prefClc o) := ⟨by decide, by decide, fun _ => rfl⟩
theorem stashMap (o : EOps) : Statement (.stashMap o) := ⟨by decide, by decide, fun _ => rfl⟩
theorem stashUnmap (o : EOps) : Statement (.stashUnmap o) := ⟨by decide, by decide, fun _ => rfl⟩
theorem stashFlush (o : EOps) : Statement (.stashFlush o) := ⟨by decide, by decide, fun _ => rfl⟩
theorem barInit (o : EOps) : Statement (.barInit o) := ⟨by decide, by decide, fun _ => rfl⟩
theorem barArrive (o : EOps) : Statement (.barArrive o) := ⟨by decide, by decide, fun _ => rfl⟩
theorem barExpect (o : EOps) : Statement (.barExpect o) := ⟨by decide, by decide, fun _ => rfl⟩
theorem barWait (o : EOps) : Statement (.barWait o) := ⟨by decide, by decide, fun _ => rfl⟩
theorem barTest (o : EOps) : Statement (.barTest o) := ⟨by decide, by decide, fun _ => rfl⟩
theorem mscRequest (die : Nat) (n : Nat) : Statement (.mscRequest die n) := trivial
theorem retryHintExpiry (n : Nat) : Statement (.retryHintExpiry n) := trivial
theorem tldb (o : EOps) : Statement (.tldb o) := ⟨by decide, by decide, fun _ => rfl⟩
theorem tlda (o : EOps) : Statement (.tlda o) := ⟨by decide, by decide, fun _ => rfl⟩
theorem tmma (o : EOps) : Statement (.tmma o) := ⟨by decide, by decide, fun _ => rfl⟩
theorem tmmaBlock (o : EOps) : Statement (.tmmaBlock o) := ⟨by decide, by decide, fun _ => rfl⟩
theorem tmmaTri (o : EOps) : Statement (.tmmaTri o) := ⟨by decide, by decide, fun _ => rfl⟩
theorem tmmaBlockTri (o : EOps) : Statement (.tmmaBlockTri o) := ⟨by decide, by decide, fun _ => rfl⟩
theorem tsca (o : EOps) : Statement (.tsca o) := ⟨by decide, by decide, fun _ => rfl⟩
theorem tscaTri (o : EOps) : Statement (.tscaTri o) := ⟨by decide, by decide, fun _ => rfl⟩
theorem taccZero (o : EOps) : Statement (.taccZero o) := ⟨by decide, by decide, fun _ => rfl⟩
theorem taccRdPair (o : EOps) : Statement (.taccRdPair o) := ⟨by decide, by decide, fun _ => rfl⟩
theorem taccRdVal (o : EOps) : Statement (.taccRdVal o) := ⟨by decide, by decide, fun _ => rfl⟩
theorem taccSt (o : EOps) : Statement (.taccSt o) := ⟨by decide, by decide, fun _ => rfl⟩
theorem taccMode (o : EOps) : Statement (.taccMode o) := ⟨by decide, by decide, fun _ => rfl⟩
theorem taccTri (o : EOps) : Statement (.taccTri o) := ⟨by decide, by decide, fun _ => rfl⟩
theorem tgemm (o : EOps) : Statement (.tgemm o) := ⟨by decide, by decide, fun _ => rfl⟩
theorem tgemmStep (core : Nat) : Statement (.tgemmStep core) := trivial
theorem tctxSave (o : EOps) : Statement (.tctxSave o) := ⟨by decide, by decide, fun _ => rfl⟩
theorem tctxRestore (o : EOps) : Statement (.tctxRestore o) := ⟨by decide, by decide, fun _ => rfl⟩
theorem tprogStep (o : EOps) : Statement (.tprogStep o) := ⟨by decide, by decide, fun _ => rfl⟩
theorem tprogTotal (o : EOps) : Statement (.tprogTotal o) := ⟨by decide, by decide, fun _ => rfl⟩
theorem tileInstructionStart (core : Nat) (n : Nat) : Statement (.tileInstructionStart core n) := trivial
theorem powerGrant (die : Nat) : Statement (.powerGrant die) := trivial
theorem powerRelease (die : Nat) (op : Nat) : Statement (.powerRelease die op) := trivial
theorem budgetWrite (die : Nat) (value : Word) : Statement (.budgetWrite die value) := trivial
theorem cpy (o : EOps) : Statement (.cpy o) := ⟨by decide, by decide, fun _ => rfl⟩
theorem cpy2 (o : EOps) : Statement (.cpy2 o) := ⟨by decide, by decide, fun _ => rfl⟩
theorem cpygGather (o : EOps) : Statement (.cpygGather o) := ⟨by decide, by decide, fun _ => rfl⟩
theorem cpygScatter (o : EOps) : Statement (.cpygScatter o) := ⟨by decide, by decide, fun _ => rfl⟩
theorem copyPieceLand (ch : CopyChan) : Statement (.copyPieceLand ch) := trivial
theorem copyPieceRefused (ch : CopyChan) (hint : Byte) : Statement (.copyPieceRefused ch hint) := trivial
theorem copyErrorAnswer (ch : CopyChan) (sub : Byte) : Statement (.copyErrorAnswer ch sub) := trivial
theorem cseal (o : EOps) : Statement (.cseal o) := ⟨by decide, by decide, fun _ => rfl⟩
theorem cwait (o : EOps) : Statement (.cwait o) := ⟨by decide, by decide, fun _ => rfl⟩
theorem cwaitTest (o : EOps) : Statement (.cwaitTest o) := ⟨by decide, by decide, fun _ => rfl⟩
theorem cwptrAddr (o : EOps) : Statement (.cwptrAddr o) := ⟨by decide, by decide, fun _ => rfl⟩
theorem cwptrCnt (o : EOps) : Statement (.cwptrCnt o) := ⟨by decide, by decide, fun _ => rfl⟩
theorem cwptrProg (o : EOps) : Statement (.cwptrProg o) := ⟨by decide, by decide, fun _ => rfl⟩
theorem cwptrRef (o : EOps) : Statement (.cwptrRef o) := ⟨by decide, by decide, fun _ => rfl⟩
theorem ratom (op : AtomOp) (sz : ASz) (o : EOps) : Statement (.ratom op sz o) := by
  cases op <;> cases sz <;> first | exact ⟨by decide, by decide, fun _ => rfl⟩ | exact ⟨by decide, by decide, fun h => absurd h (by simp [wellFormed, form, formOk, shapeOk, shRatom, extraOk, atomSizeOk])⟩
theorem ratomRet (op : AtomOp) (sz : ASz) (o : EOps) : Statement (.ratomRet op sz o) := by
  cases op <;> cases sz <;> first | exact ⟨by decide, by decide, fun _ => rfl⟩ | exact ⟨by decide, by decide, fun h => absurd h (by simp [wellFormed, form, formOk, shapeOk, shRatomRet, extraOk, atomSizeOk])⟩
theorem ratomAck (grp : Nat) (n : Nat) : Statement (.ratomAck grp n) := trivial
theorem tfence (o : EOps) : Statement (.tfence o) := ⟨by decide, by decide, fun _ => rfl⟩
theorem acrtNew (o : EOps) : Statement (.acrtNew o) := ⟨by decide, by decide, fun _ => rfl⟩
theorem acrtFree (o : EOps) : Statement (.acrtFree o) := ⟨by decide, by decide, fun _ => rfl⟩
theorem atake (o : EOps) : Statement (.atake o) := ⟨by decide, by decide, fun _ => rfl⟩
theorem agive (o : EOps) : Statement (.agive o) := ⟨by decide, by decide, fun _ => rfl⟩
theorem areadExact (o : EOps) : Statement (.areadExact o) := ⟨by decide, by decide, fun _ => rfl⟩
theorem areadApprox (o : EOps) : Statement (.areadApprox o) := ⟨by decide, by decide, fun _ => rfl⟩
theorem allowanceServe (obj : Nat) : Statement (.allowanceServe obj) := trivial
theorem allowanceGrant (n : Nat) : Statement (.allowanceGrant n) := trivial
theorem allowanceRefusal (n : Nat) : Statement (.allowanceRefusal n) := trivial
theorem exactReadReply (n : Nat) : Statement (.exactReadReply n) := trivial
theorem allowanceRecall (n : Nat) : Statement (.allowanceRecall n) := trivial
theorem recallAnswer (n : Nat) : Statement (.recallAnswer n) := trivial
theorem allowanceReturn (n : Nat) : Statement (.allowanceReturn n) := trivial
theorem giveUp (n : Nat) : Statement (.giveUp n) := trivial
theorem sconf (o : EOps) : Statement (.sconf o) := ⟨by decide, by decide, fun _ => rfl⟩
theorem sstart (o : EOps) : Statement (.sstart o) := ⟨by decide, by decide, fun _ => rfl⟩
theorem sstatSamp (o : EOps) : Statement (.sstatSamp o) := ⟨by decide, by decide, fun _ => rfl⟩
theorem sstatBatch (o : EOps) : Statement (.sstatBatch o) := ⟨by decide, by decide, fun _ => rfl⟩
theorem sctlPause (o : EOps) : Statement (.sctlPause o) := ⟨by decide, by decide, fun _ => rfl⟩
theorem sctlResume (o : EOps) : Statement (.sctlResume o) := ⟨by decide, by decide, fun _ => rfl⟩
theorem sctlStop (o : EOps) : Statement (.sctlStop o) := ⟨by decide, by decide, fun _ => rfl⟩
theorem sctlFree (o : EOps) : Statement (.sctlFree o) := ⟨by decide, by decide, fun _ => rfl⟩
theorem solverStageInput (die : Nat) (batch : Nat) : Statement (.solverStageInput die batch) := trivial
theorem solverStageCollect (die : Nat) (batch : Nat) : Statement (.solverStageCollect die batch) := trivial
theorem solverDecide (die : Nat) (batch : Nat) : Statement (.solverDecide die batch) := trivial
theorem solverEnd (die : Nat) (batch : Nat) : Statement (.solverEnd die batch) := trivial
theorem solverAccessFault (die : Nat) (batch : Nat) (sample : Nat) : Statement (.solverAccessFault die batch sample) := trivial
theorem coll (o : EOps) : Statement (.coll o) := ⟨by decide, by decide, fun _ => rfl⟩
theorem collw (o : EOps) : Statement (.collw o) := ⟨by decide, by decide, fun _ => rfl⟩
theorem collwTest (o : EOps) : Statement (.collwTest o) := ⟨by decide, by decide, fun _ => rfl⟩
theorem carbSet (o : EOps) : Statement (.carbSet o) := ⟨by decide, by decide, fun _ => rfl⟩
theorem carbGet (o : EOps) : Statement (.carbGet o) := ⟨by decide, by decide, fun _ => rfl⟩
theorem collJoin (die : Nat) (rec : Nat) : Statement (.collJoin die rec) := trivial
theorem bucketReady (die : Nat) (rec : Nat) : Statement (.bucketReady die rec) := trivial
theorem segmentReceive (die : Nat) (rec : Nat) (n : Nat) : Statement (.segmentReceive die rec n) := trivial
theorem collComplete (die : Nat) (rec : Nat) : Statement (.collComplete die rec) := trivial
theorem collAbort (die : Nat) (rec : Nat) (status : Nat) : Statement (.collAbort die rec status) := trivial
theorem launch (o : EOps) : Statement (.launch o) := ⟨by decide, by decide, fun _ => rfl⟩
theorem launchGo (o : EOps) : Statement (.launchGo o) := ⟨by decide, by decide, fun _ => rfl⟩
theorem lstatState (o : EOps) : Statement (.lstatState o) := ⟨by decide, by decide, fun _ => rfl⟩
theorem lstatSelf (o : EOps) : Statement (.lstatSelf o) := ⟨by decide, by decide, fun _ => rfl⟩
theorem pendingQueueTake (core : Nat) : Statement (.pendingQueueTake core) := trivial
theorem launchAccept (pkg : Nat) (n : Nat) : Statement (.launchAccept pkg n) := trivial
theorem widxAdvance (pkg : Nat) (ctx : Nat) (queue : Nat) : Statement (.widxAdvance pkg ctx queue) := trivial
theorem packetNop (pkg : Nat) (ctx : Nat) (queue : Nat) : Statement (.packetNop pkg ctx queue) := trivial
theorem packetLaunch (pkg : Nat) (ctx : Nat) (queue : Nat) : Statement (.packetLaunch pkg ctx queue) := trivial
theorem packetCopy (pkg : Nat) (ctx : Nat) (queue : Nat) : Statement (.packetCopy pkg ctx queue) := trivial
theorem packetSignal (pkg : Nat) (ctx : Nat) (queue : Nat) : Statement (.packetSignal pkg ctx queue) := trivial
theorem packetWait (pkg : Nat) (ctx : Nat) (queue : Nat) : Statement (.packetWait pkg ctx queue) := trivial
theorem packetBarrierAnd (pkg : Nat) (ctx : Nat) (queue : Nat) : Statement (.packetBarrierAnd pkg ctx queue) := trivial
theorem packetQreset (pkg : Nat) (ctx : Nat) (queue : Nat) : Statement (.packetQreset pkg ctx queue) := trivial
theorem gangctlSwitch (pkg : Nat) (ctx : Nat) (queue : Nat) : Statement (.gangctlSwitch pkg ctx queue) := trivial
theorem gangctlSnap (pkg : Nat) (ctx : Nat) (queue : Nat) : Statement (.gangctlSnap pkg ctx queue) := trivial
theorem waitConditionMet (pkg : Nat) (ctx : Nat) (queue : Nat) : Statement (.waitConditionMet pkg ctx queue) := trivial
theorem registrationTicket (pkg : Nat) (slot : Nat) : Statement (.registrationTicket pkg slot) := trivial
theorem ctxreg (pkg : Nat) (slot : Nat) : Statement (.ctxreg pkg slot) := trivial
theorem ctxdereg (pkg : Nat) (slot : Nat) : Statement (.ctxdereg pkg slot) := trivial
theorem qstart (pkg : Nat) (slot : Nat) : Statement (.qstart pkg slot) := trivial
theorem qresetCommand (pkg : Nat) (slot : Nat) : Statement (.qresetCommand pkg slot) := trivial
theorem invalidCommand (pkg : Nat) (slot : Nat) : Statement (.invalidCommand pkg slot) := trivial
theorem queueReset (pkg : Nat) (ctx : Nat) (queue : Nat) : Statement (.queueReset pkg ctx queue) := trivial
theorem queueResetComplete (pkg : Nat) (ctx : Nat) (queue : Nat) : Statement (.queueResetComplete pkg ctx queue) := trivial
theorem rampStep (pkg : Nat) : Statement (.rampStep pkg) := trivial
theorem preempt (cohort : Nat) : Statement (.preempt cohort) := trivial
theorem cohortRestore (cohort : Nat) (core : Nat) : Statement (.cohortRestore cohort core) := trivial
theorem launchFaultEnd (grp : Nat) : Statement (.launchFaultEnd grp) := trivial
theorem gangPropose (n : Nat) : Statement (.gangPropose n) := trivial
theorem gangSliceSaved (pkg : Nat) : Statement (.gangSliceSaved pkg) := trivial
theorem gangAck (n : Nat) : Statement (.gangAck n) := trivial
theorem gangCommit (n : Nat) : Statement (.gangCommit n) := trivial
theorem liveUpdate (pkg : Nat) (img : Image) : Statement (.liveUpdate pkg img) := trivial
theorem heartbeatTakeover (pkg : Nat) : Statement (.heartbeatTakeover pkg) := trivial
theorem packageReset (pkg : Nat) (boot : Boot) : Statement (.packageReset pkg boot) := trivial
theorem tlbopMap (o : EOps) : Statement (.tlbopMap o) := ⟨by decide, by decide, fun _ => rfl⟩
theorem tlbopInv (o : EOps) : Statement (.tlbopInv o) := ⟨by decide, by decide, fun _ => rfl⟩
theorem tlbopInvAsid (o : EOps) : Statement (.tlbopInvAsid o) := ⟨by decide, by decide, fun _ => rfl⟩
theorem tlbopAll (o : EOps) : Statement (.tlbopAll o) := ⟨by decide, by decide, fun _ => rfl⟩
theorem tlbopReplay (o : EOps) : Statement (.tlbopReplay o) := ⟨by decide, by decide, fun _ => rfl⟩
theorem tlbopReplayAll (o : EOps) : Statement (.tlbopReplayAll o) := ⟨by decide, by decide, fun _ => rfl⟩
theorem tlbopDeny (o : EOps) : Statement (.tlbopDeny o) := ⟨by decide, by decide, fun _ => rfl⟩
theorem tlbopFread (o : EOps) : Statement (.tlbopFread o) := ⟨by decide, by decide, fun _ => rfl⟩
theorem tlbopFstat (o : EOps) : Statement (.tlbopFstat o) := ⟨by decide, by decide, fun _ => rfl⟩
theorem tlbopMove (o : EOps) : Statement (.tlbopMove o) := ⟨by decide, by decide, fun _ => rfl⟩
theorem tlbopNewgen (o : EOps) : Statement (.tlbopNewgen o) := ⟨by decide, by decide, fun _ => rfl⟩
theorem mtlbRequest (die : Nat) (req : TransReq) : Statement (.mtlbRequest die req) := trivial
theorem walkComplete (die : Nat) (req : TransReq) : Statement (.walkComplete die req) := trivial
theorem pclassQuery (o : EOps) : Statement (.pclassQuery o) := ⟨by decide, by decide, fun _ => rfl⟩
theorem pclassSet (o : EOps) : Statement (.pclassSet o) := ⟨by decide, by decide, fun _ => rfl⟩
theorem pclassHint (o : EOps) : Statement (.pclassHint o) := ⟨by decide, by decide, fun _ => rfl⟩
theorem pclassLine (o : EOps) : Statement (.pclassLine o) := ⟨by decide, by decide, fun _ => rfl⟩
theorem pclassClear (o : EOps) : Statement (.pclassClear o) := ⟨by decide, by decide, fun _ => rfl⟩
theorem cohReadRequest (cluster : Nat) (line : Nat) : Statement (.cohReadRequest cluster line) := trivial
theorem cohWriteRequest (cluster : Nat) (line : Nat) : Statement (.cohWriteRequest cluster line) := trivial
theorem cohRecall (cluster : Nat) (line : Nat) : Statement (.cohRecall cluster line) := trivial
theorem cohTokenAnswer (n : Nat) : Statement (.cohTokenAnswer n) := trivial
theorem cohEviction (cluster : Nat) (tag : Nat) : Statement (.cohEviction cluster tag) := trivial
theorem dirtyNotice (cluster : Nat) (line : Nat) : Statement (.dirtyNotice cluster line) := trivial
theorem pdirtyNotice (cluster : Nat) (frame : Nat) : Statement (.pdirtyNotice cluster frame) := trivial
theorem dirtyWriteback (cluster : Nat) (line : Nat) : Statement (.dirtyWriteback cluster line) := trivial
theorem persistentRequest (cluster : Nat) (line : Nat) (write : Bool) : Statement (.persistentRequest cluster line write) := trivial
theorem classConflict (cluster : Nat) (va : BitVec 64) (write : Bool) : Statement (.classConflict cluster va write) := trivial
theorem censusReport (line : Nat) : Statement (.censusReport line) := trivial
theorem eccUncorrectedConsume (grp : Nat) (bad : EccBad) : Statement (.eccUncorrectedConsume grp bad) := trivial
theorem tileEngineError (core : Nat) : Statement (.tileEngineError core) := trivial
theorem coreEntryError (core : Nat) (entry : CoreEntry) : Statement (.coreEntryError core entry) := trivial
theorem flitReceive (pkg : Nat) (port : Nat) (flit : Flit) : Statement (.flitReceive pkg port flit) := trivial
theorem nakReceive (pkg : Nat) (port : Nat) (seq : Nat) : Statement (.nakReceive pkg port seq) := trivial
theorem nakBurst (pkg : Nat) (port : Nat) : Statement (.nakBurst pkg port) := trivial
theorem laneFail (pkg : Nat) (port : Nat) (lane : Nat) : Statement (.laneFail pkg port lane) := trivial
theorem trainingComplete (pkg : Nat) (port : Nat) : Statement (.trainingComplete pkg port) := trivial
theorem retrainTimeout (pkg : Nat) (port : Nat) : Statement (.retrainTimeout pkg port) := trivial
theorem presentFall (pkg : Nat) (port : Nat) : Statement (.presentFall pkg port) := trivial
theorem presentRise (pkg : Nat) (port : Nat) : Statement (.presentRise pkg port) := trivial
theorem peerHeartbeatTimeout (pkg : Nat) (peer : Nat) : Statement (.peerHeartbeatTimeout pkg peer) := trivial
theorem lossDeclaration (pkg : Nat) (peer : Nat) : Statement (.lossDeclaration pkg peer) := trivial
theorem owlPinTrigger (pkg : Nat) : Statement (.owlPinTrigger pkg) := trivial
theorem owlForwardReceive (n : Nat) : Statement (.owlForwardReceive n) := trivial
theorem snapshotRearm (pkg : Nat) : Statement (.snapshotRearm pkg) := trivial
theorem keyMaterialWrite (pkg : Nat) (slot : Nat) (word : Nat) (value : Word) : Statement (.keyMaterialWrite pkg slot word value) := trivial
theorem ctnlogClear (core : Nat) : Statement (.ctnlogClear core) := trivial
theorem pcieInboundWrite (pkg : Nat) (bar : Nat) (off : Nat) (data : List Byte) : Statement (.pcieInboundWrite pkg bar off data) := trivial
theorem pcieInboundRead (pkg : Nat) (bar : Nat) (off : Nat) (len : Nat) : Statement (.pcieInboundRead pkg bar off len) := trivial
theorem pcieLinkDown (pkg : Nat) : Statement (.pcieLinkDown pkg) := trivial
theorem registerWrite (pkg : Nat) (den : Bool) (off : Nat) (width : Nat) (value : BitVec 64) : Statement (.registerWrite pkg den off width value) := trivial
theorem attestationRequest (pkg : Nat) (nonce : List Byte) : Statement (.attestationRequest pkg nonce) := trivial
theorem bladeAdmission (pkg : Nat) (port : Nat) (peer : Nat) (partner : Nat) : Statement (.bladeAdmission pkg port peer partner) := trivial
theorem pcieLinkUp (pkg : Nat) (rate : Nat) (width : Nat) : Statement (.pcieLinkUp pkg rate width) := trivial

/-- The statement for every instruction. -/
theorem all (i : Instr) : Statement i := by
  cases i with
  | clause h => exact clause h
  | clauseTmask h lit => exact clauseTmask h lit
  | clauseExtended h w1 w2 => exact clauseExtended h w1 w2
  | braBj cnd off => exact braBj cnd off
  | braBjLiteral cnd off lit => exact braBjLiteral cnd off lit
  | bra o => exact bra o
  | callBj cnd off => exact callBj cnd off
  | callBjLiteral cnd off lit => exact callBjLiteral cnd off lit
  | call o => exact call o
  | brx o => exact brx o
  | brxIdx o => exact brxIdx o
  | retB3 o => exact retB3 o
  | ret o => exact ret o
  | exitB3 o => exact exitB3 o
  | exit o => exact exit o
  | yieldB3 o => exact yieldB3 o
  | yield o => exact yield o
  | trap o => exact trap o
  | tretB3 o => exact tretB3 o
  | tret o => exact tret o
  | maskSet o => exact maskSet o
  | maskGet o => exact maskGet o
  | maskIf o => exact maskIf o
  | maskElse o => exact maskElse o
  | maskEnd o => exact maskEnd o
  | voteAny o => exact voteAny o
  | voteAll o => exact voteAll o
  | voteBal o => exact voteBal o
  | voteCnt o => exact voteCnt o
  | voteUni o => exact voteUni o
  | sysr o => exact sysr o
  | sysw o => exact sysw o
  | roleCnt o => exact roleCnt o
  | rolePhys o => exact rolePhys o
  | roleTest o => exact roleTest o
  | regnB o => exact regnB o
  | regnE o => exact regnE o
  | regnStat o => exact regnStat o
  | snap o => exact snap o
  | snapGang o => exact snapGang o
  | uaddB3 o => exact uaddB3 o
  | uaddSubB3 o => exact uaddSubB3 o
  | uadd o => exact uadd o
  | uaddSub o => exact uaddSub o
  | uaddSat o => exact uaddSat o
  | uaddSubSat o => exact uaddSubSat o
  | uadd64 o => exact uadd64 o
  | uaddSub64 o => exact uaddSub64 o
  | umulLoB3 o => exact umulLoB3 o
  | umulHiB3 o => exact umulHiB3 o
  | umulHiuB3 o => exact umulHiuB3 o
  | umulLo o => exact umulLo o
  | umulHi o => exact umulHi o
  | umulHiu o => exact umulHiu o
  | ulogAndB3 o => exact ulogAndB3 o
  | ulogOrB3 o => exact ulogOrB3 o
  | ulogXorB3 o => exact ulogXorB3 o
  | ulogAndnB3 o => exact ulogAndnB3 o
  | ulogAnd o => exact ulogAnd o
  | ulogOr o => exact ulogOr o
  | ulogXor o => exact ulogXor o
  | ulogAndn o => exact ulogAndn o
  | ulogKand o => exact ulogKand o
  | ulogKor o => exact ulogKor o
  | ulogKxor o => exact ulogKxor o
  | ulogKandn o => exact ulogKandn o
  | ushfShlB3 o => exact ushfShlB3 o
  | ushfShrB3 o => exact ushfShrB3 o
  | ushfSarB3 o => exact ushfSarB3 o
  | ushfRotB3 o => exact ushfRotB3 o
  | ushfShl o => exact ushfShl o
  | ushfShr o => exact ushfShr o
  | ushfSar o => exact ushfSar o
  | ushfRot o => exact ushfRot o
  | ucmp cc o => exact ucmp cc o
  | umovB3 o => exact umovB3 o
  | umov o => exact umov o
  | umov64 o => exact umov64 o
  | umovFirst o => exact umovFirst o
  | usel o => exact usel o
  | uminmaxMin o => exact uminmaxMin o
  | uminmaxMax o => exact uminmaxMax o
  | uminmaxMinu o => exact uminmaxMinu o
  | uminmaxMaxu o => exact uminmaxMaxu o
  | ubitPopc o => exact ubitPopc o
  | ubitClz o => exact ubitClz o
  | ubitCtz o => exact ubitCtz o
  | ubitBrev o => exact ubitBrev o
  | ubitExtr o => exact ubitExtr o
  | ubitExtrs o => exact ubitExtrs o
  | ulea o => exact ulea o
  | uleaS o => exact uleaS o
  | iaddB3 o => exact iaddB3 o
  | iaddSubB3 o => exact iaddSubB3 o
  | iaddSatB3 o => exact iaddSatB3 o
  | iaddSubSatB3 o => exact iaddSubSatB3 o
  | iadd o => exact iadd o
  | iaddSub o => exact iaddSub o
  | iaddSat o => exact iaddSat o
  | iaddSubSat o => exact iaddSubSat o
  | iadd64 o => exact iadd64 o
  | iaddSub64 o => exact iaddSub64 o
  | iaddSatu o => exact iaddSatu o
  | iaddSubSatu o => exact iaddSubSatu o
  | imulLoB3 o => exact imulLoB3 o
  | imulHiB3 o => exact imulHiB3 o
  | imulHiuB3 o => exact imulHiuB3 o
  | imulLo o => exact imulLo o
  | imulHi o => exact imulHi o
  | imulHiu o => exact imulHiu o
  | imulWide o => exact imulWide o
  | imulWideu o => exact imulWideu o
  | imadLo o => exact imadLo o
  | imadWide o => exact imadWide o
  | imadWideu o => exact imadWideu o
  | ilogAndB3 o => exact ilogAndB3 o
  | ilogOrB3 o => exact ilogOrB3 o
  | ilogXorB3 o => exact ilogXorB3 o
  | ilogAndnB3 o => exact ilogAndnB3 o
  | ilogAnd o => exact ilogAnd o
  | ilogOr o => exact ilogOr o
  | ilogXor o => exact ilogXor o
  | ilogAndn o => exact ilogAndn o
  | ilogLut o => exact ilogLut o
  | ishfShlB3 o => exact ishfShlB3 o
  | ishfShrB3 o => exact ishfShrB3 o
  | ishfSarB3 o => exact ishfSarB3 o
  | ishfRotB3 o => exact ishfRotB3 o
  | ishfShl o => exact ishfShl o
  | ishfShr o => exact ishfShr o
  | ishfSar o => exact ishfSar o
  | ishfRot o => exact ishfRot o
  | ishfShl64 o => exact ishfShl64 o
  | ishfShr64 o => exact ishfShr64 o
  | ishfSar64 o => exact ishfSar64 o
  | iminmaxMin o => exact iminmaxMin o
  | iminmaxMax o => exact iminmaxMax o
  | iminmaxMinu o => exact iminmaxMinu o
  | iminmaxMaxu o => exact iminmaxMaxu o
  | iminmaxAbs o => exact iminmaxAbs o
  | iminmaxAbsSat o => exact iminmaxAbsSat o
  | icmp cc o => exact icmp cc o
  | icmp64 cc o => exact icmp64 cc o
  | isel o => exact isel o
  | isel64 o => exact isel64 o
  | ibitPopc o => exact ibitPopc o
  | ibitClz o => exact ibitClz o
  | ibitCtz o => exact ibitCtz o
  | ibitBrev o => exact ibitBrev o
  | ibitExtr o => exact ibitExtr o
  | ibitExtrs o => exact ibitExtrs o
  | ibitIns o => exact ibitIns o
  | lea o => exact lea o
  | leaS o => exact leaS o
  | icvtSext w o => exact icvtSext w o
  | icvtZext w o => exact icvtZext w o
  | icvtSatS w o => exact icvtSatS w o
  | icvtSatU w o => exact icvtSatU w o
  | icvtSext64 o => exact icvtSext64 o
  | icvtZext64 o => exact icvtZext64 o
  | icvtSatS32 o => exact icvtSatS32 o
  | icvtSatU32 o => exact icvtSatU32 o
  | movB3 o => exact movB3 o
  | mov o => exact mov o
  | mov64 o => exact mov64 o
  | movxLd o => exact movxLd o
  | movxSt o => exact movxSt o
  | xset o => exact xset o
  | xsetAdd o => exact xsetAdd o
  | xget o => exact xget o
  | shflIdx o => exact shflIdx o
  | shflUp o => exact shflUp o
  | shflDown o => exact shflDown o
  | shflXor o => exact shflXor o
  | faddF32B3 o => exact faddF32B3 o
  | faddSubF32B3 o => exact faddSubF32B3 o
  | faddF16x2B3 o => exact faddF16x2B3 o
  | faddSubF16x2B3 o => exact faddSubF16x2B3 o
  | fadd fmt o => exact fadd fmt o
  | faddSub fmt o => exact faddSub fmt o
  | fmulF32B3 o => exact fmulF32B3 o
  | fmulF16x2B3 o => exact fmulF16x2B3 o
  | fmul fmt o => exact fmul fmt o
  | ffmaF32B3 o => exact ffmaF32B3 o
  | ffmaF16x2B3 o => exact ffmaF16x2B3 o
  | ffma fmt o => exact ffma fmt o
  | fminmaxMin fmt o => exact fminmaxMin fmt o
  | fminmaxMax fmt o => exact fminmaxMax fmt o
  | fcmp cc fmt o => exact fcmp cc fmt o
  | frnd fmt o => exact frnd fmt o
  | fscale fmt o => exact fscale fmt o
  | fdp2 fmt o => exact fdp2 fmt o
  | fclass fmt o => exact fclass fmt o
  | fclassPred fmt o => exact fclassPred fmt o
  | fcvtF16F32 o => exact fcvtF16F32 o
  | fcvtBf16F32 o => exact fcvtBf16F32 o
  | fcvtF32F16 o => exact fcvtF32F16 o
  | fcvtF32Bf16 o => exact fcvtF32Bf16 o
  | fcvtS32F32 o => exact fcvtS32F32 o
  | fcvtU32F32 o => exact fcvtU32F32 o
  | fcvtF32S32 o => exact fcvtF32S32 o
  | fcvtF32U32 o => exact fcvtF32U32 o
  | fcvtF16x2F32 o => exact fcvtF16x2F32 o
  | fcvtBf16x2F32 o => exact fcvtBf16x2F32 o
  | fcvtTpF32 o => exact fcvtTpF32 o
  | fcvtF32Tp o => exact fcvtF32Tp o
  | fspecRcp o => exact fspecRcp o
  | fspecRsq o => exact fspecRsq o
  | fspecSqrt o => exact fspecSqrt o
  | fspecExp2 o => exact fspecExp2 o
  | fspecLog2 o => exact fspecLog2 o
  | fspecSin o => exact fspecSin o
  | fspecCos o => exact fspecCos o
  | fspecTanh o => exact fspecTanh o
  | longLatencyCompletion grp n => exact longLatencyCompletion grp n
  | vprecSet o => exact vprecSet o
  | vprecP o => exact vprecP o
  | vprecMode o => exact vprecMode o
  | vpgetHead o => exact vpgetHead o
  | vpgetSlice o => exact vpgetSlice o
  | vpadd o => exact vpadd o
  | vpaddSub o => exact vpaddSub o
  | vpmul o => exact vpmul o
  | vpfma o => exact vpfma o
  | vpfmaNeg o => exact vpfmaNeg o
  | vpdiv o => exact vpdiv o
  | vpsqrt o => exact vpsqrt o
  | vpcmp cc o => exact vpcmp cc o
  | vprndInt o => exact vprndInt o
  | vprndLen o => exact vprndLen o
  | vpcvtVpF32 o => exact vpcvtVpF32 o
  | vpcvtF32Vp o => exact vpcvtF32Vp o
  | vpcvtVpF64 o => exact vpcvtVpF64 o
  | vpcvtF64Vp o => exact vpcvtF64Vp o
  | vpcvtVpS64 o => exact vpcvtVpS64 o
  | vpcvtS64Vp o => exact vpcvtS64Vp o
  | vpcvtVpT16 o => exact vpcvtVpT16 o
  | vpcvtT16Vp o => exact vpcvtT16Vp o
  | vpmov o => exact vpmov o
  | vpmovNeg o => exact vpmovNeg o
  | vpmovAbs o => exact vpmovAbs o
  | vpld o => exact vpld o
  | vpldStr o => exact vpldStr o
  | vpldIdx o => exact vpldIdx o
  | vpldPack o => exact vpldPack o
  | vpst o => exact vpst o
  | vpstStr o => exact vpstStr o
  | vpstIdx o => exact vpstIdx o
  | vpstPack o => exact vpstPack o
  | uld sz o => exact uld sz o
  | ld32B3 o => exact ld32B3 o
  | ld64B3 o => exact ld64B3 o
  | ld128B3 o => exact ld128B3 o
  | ld sz o => exact ld sz o
  | st32B3 o => exact st32B3 o
  | st64B3 o => exact st64B3 o
  | st128B3 o => exact st128B3 o
  | st sz o => exact st sz o
  | atomAdd sz o => exact atomAdd sz o
  | atomMin sz o => exact atomMin sz o
  | atomMax sz o => exact atomMax sz o
  | atomMinu sz o => exact atomMinu sz o
  | atomMaxu sz o => exact atomMaxu sz o
  | atomAnd sz o => exact atomAnd sz o
  | atomOr sz o => exact atomOr sz o
  | atomXor sz o => exact atomXor sz o
  | atomExch sz o => exact atomExch sz o
  | atomCas sz o => exact atomCas sz o
  | atomFadd o => exact atomFadd o
  | atomFmin o => exact atomFmin o
  | atomFmax o => exact atomFmax o
  | redAdd sz o => exact redAdd sz o
  | redMin sz o => exact redMin sz o
  | redMax sz o => exact redMax sz o
  | redMinu sz o => exact redMinu sz o
  | redMaxu sz o => exact redMaxu sz o
  | redAnd sz o => exact redAnd sz o
  | redOr sz o => exact redOr sz o
  | redXor sz o => exact redXor sz o
  | redFadd o => exact redFadd o
  | redFmin o => exact redFmin o
  | redFmax o => exact redFmax o
  | ldx sz o => exact ldx sz o
  | stx sz o => exact stx sz o
  | fenceAcq o => exact fenceAcq o
  | fenceRel o => exact fenceRel o
  | fenceAr o => exact fenceAr o
  | cmaintWb o => exact cmaintWb o
  | cmaintInv o => exact cmaintInv o
  | cmaintDemote o => exact cmaintDemote o
  | prefL1 o => exact prefL1 o
  | prefClc o => exact prefClc o
  | stashMap o => exact stashMap o
  | stashUnmap o => exact stashUnmap o
  | stashFlush o => exact stashFlush o
  | barInit o => exact barInit o
  | barArrive o => exact barArrive o
  | barExpect o => exact barExpect o
  | barWait o => exact barWait o
  | barTest o => exact barTest o
  | mscRequest die n => exact mscRequest die n
  | retryHintExpiry n => exact retryHintExpiry n
  | tldb o => exact tldb o
  | tlda o => exact tlda o
  | tmma o => exact tmma o
  | tmmaBlock o => exact tmmaBlock o
  | tmmaTri o => exact tmmaTri o
  | tmmaBlockTri o => exact tmmaBlockTri o
  | tsca o => exact tsca o
  | tscaTri o => exact tscaTri o
  | taccZero o => exact taccZero o
  | taccRdPair o => exact taccRdPair o
  | taccRdVal o => exact taccRdVal o
  | taccSt o => exact taccSt o
  | taccMode o => exact taccMode o
  | taccTri o => exact taccTri o
  | tgemm o => exact tgemm o
  | tgemmStep core => exact tgemmStep core
  | tctxSave o => exact tctxSave o
  | tctxRestore o => exact tctxRestore o
  | tprogStep o => exact tprogStep o
  | tprogTotal o => exact tprogTotal o
  | tileInstructionStart core n => exact tileInstructionStart core n
  | powerGrant die => exact powerGrant die
  | powerRelease die op => exact powerRelease die op
  | budgetWrite die value => exact budgetWrite die value
  | cpy o => exact cpy o
  | cpy2 o => exact cpy2 o
  | cpygGather o => exact cpygGather o
  | cpygScatter o => exact cpygScatter o
  | copyPieceLand ch => exact copyPieceLand ch
  | copyPieceRefused ch hint => exact copyPieceRefused ch hint
  | copyErrorAnswer ch sub => exact copyErrorAnswer ch sub
  | cseal o => exact cseal o
  | cwait o => exact cwait o
  | cwaitTest o => exact cwaitTest o
  | cwptrAddr o => exact cwptrAddr o
  | cwptrCnt o => exact cwptrCnt o
  | cwptrProg o => exact cwptrProg o
  | cwptrRef o => exact cwptrRef o
  | ratom op sz o => exact ratom op sz o
  | ratomRet op sz o => exact ratomRet op sz o
  | ratomAck grp n => exact ratomAck grp n
  | tfence o => exact tfence o
  | acrtNew o => exact acrtNew o
  | acrtFree o => exact acrtFree o
  | atake o => exact atake o
  | agive o => exact agive o
  | areadExact o => exact areadExact o
  | areadApprox o => exact areadApprox o
  | allowanceServe obj => exact allowanceServe obj
  | allowanceGrant n => exact allowanceGrant n
  | allowanceRefusal n => exact allowanceRefusal n
  | exactReadReply n => exact exactReadReply n
  | allowanceRecall n => exact allowanceRecall n
  | recallAnswer n => exact recallAnswer n
  | allowanceReturn n => exact allowanceReturn n
  | giveUp n => exact giveUp n
  | sconf o => exact sconf o
  | sstart o => exact sstart o
  | sstatSamp o => exact sstatSamp o
  | sstatBatch o => exact sstatBatch o
  | sctlPause o => exact sctlPause o
  | sctlResume o => exact sctlResume o
  | sctlStop o => exact sctlStop o
  | sctlFree o => exact sctlFree o
  | solverStageInput die batch => exact solverStageInput die batch
  | solverStageCollect die batch => exact solverStageCollect die batch
  | solverDecide die batch => exact solverDecide die batch
  | solverEnd die batch => exact solverEnd die batch
  | solverAccessFault die batch sample => exact solverAccessFault die batch sample
  | coll o => exact coll o
  | collw o => exact collw o
  | collwTest o => exact collwTest o
  | carbSet o => exact carbSet o
  | carbGet o => exact carbGet o
  | collJoin die rec => exact collJoin die rec
  | bucketReady die rec => exact bucketReady die rec
  | segmentReceive die rec n => exact segmentReceive die rec n
  | collComplete die rec => exact collComplete die rec
  | collAbort die rec status => exact collAbort die rec status
  | launch o => exact launch o
  | launchGo o => exact launchGo o
  | lstatState o => exact lstatState o
  | lstatSelf o => exact lstatSelf o
  | pendingQueueTake core => exact pendingQueueTake core
  | launchAccept pkg n => exact launchAccept pkg n
  | widxAdvance pkg ctx queue => exact widxAdvance pkg ctx queue
  | packetNop pkg ctx queue => exact packetNop pkg ctx queue
  | packetLaunch pkg ctx queue => exact packetLaunch pkg ctx queue
  | packetCopy pkg ctx queue => exact packetCopy pkg ctx queue
  | packetSignal pkg ctx queue => exact packetSignal pkg ctx queue
  | packetWait pkg ctx queue => exact packetWait pkg ctx queue
  | packetBarrierAnd pkg ctx queue => exact packetBarrierAnd pkg ctx queue
  | packetQreset pkg ctx queue => exact packetQreset pkg ctx queue
  | gangctlSwitch pkg ctx queue => exact gangctlSwitch pkg ctx queue
  | gangctlSnap pkg ctx queue => exact gangctlSnap pkg ctx queue
  | waitConditionMet pkg ctx queue => exact waitConditionMet pkg ctx queue
  | registrationTicket pkg slot => exact registrationTicket pkg slot
  | ctxreg pkg slot => exact ctxreg pkg slot
  | ctxdereg pkg slot => exact ctxdereg pkg slot
  | qstart pkg slot => exact qstart pkg slot
  | qresetCommand pkg slot => exact qresetCommand pkg slot
  | invalidCommand pkg slot => exact invalidCommand pkg slot
  | queueReset pkg ctx queue => exact queueReset pkg ctx queue
  | queueResetComplete pkg ctx queue => exact queueResetComplete pkg ctx queue
  | rampStep pkg => exact rampStep pkg
  | preempt cohort => exact preempt cohort
  | cohortRestore cohort core => exact cohortRestore cohort core
  | launchFaultEnd grp => exact launchFaultEnd grp
  | gangPropose n => exact gangPropose n
  | gangSliceSaved pkg => exact gangSliceSaved pkg
  | gangAck n => exact gangAck n
  | gangCommit n => exact gangCommit n
  | liveUpdate pkg img => exact liveUpdate pkg img
  | heartbeatTakeover pkg => exact heartbeatTakeover pkg
  | packageReset pkg boot => exact packageReset pkg boot
  | tlbopMap o => exact tlbopMap o
  | tlbopInv o => exact tlbopInv o
  | tlbopInvAsid o => exact tlbopInvAsid o
  | tlbopAll o => exact tlbopAll o
  | tlbopReplay o => exact tlbopReplay o
  | tlbopReplayAll o => exact tlbopReplayAll o
  | tlbopDeny o => exact tlbopDeny o
  | tlbopFread o => exact tlbopFread o
  | tlbopFstat o => exact tlbopFstat o
  | tlbopMove o => exact tlbopMove o
  | tlbopNewgen o => exact tlbopNewgen o
  | mtlbRequest die req => exact mtlbRequest die req
  | walkComplete die req => exact walkComplete die req
  | pclassQuery o => exact pclassQuery o
  | pclassSet o => exact pclassSet o
  | pclassHint o => exact pclassHint o
  | pclassLine o => exact pclassLine o
  | pclassClear o => exact pclassClear o
  | cohReadRequest cluster line => exact cohReadRequest cluster line
  | cohWriteRequest cluster line => exact cohWriteRequest cluster line
  | cohRecall cluster line => exact cohRecall cluster line
  | cohTokenAnswer n => exact cohTokenAnswer n
  | cohEviction cluster tag => exact cohEviction cluster tag
  | dirtyNotice cluster line => exact dirtyNotice cluster line
  | pdirtyNotice cluster frame => exact pdirtyNotice cluster frame
  | dirtyWriteback cluster line => exact dirtyWriteback cluster line
  | persistentRequest cluster line write => exact persistentRequest cluster line write
  | classConflict cluster va write => exact classConflict cluster va write
  | censusReport line => exact censusReport line
  | eccUncorrectedConsume grp bad => exact eccUncorrectedConsume grp bad
  | tileEngineError core => exact tileEngineError core
  | coreEntryError core entry => exact coreEntryError core entry
  | flitReceive pkg port flit => exact flitReceive pkg port flit
  | nakReceive pkg port seq => exact nakReceive pkg port seq
  | nakBurst pkg port => exact nakBurst pkg port
  | laneFail pkg port lane => exact laneFail pkg port lane
  | trainingComplete pkg port => exact trainingComplete pkg port
  | retrainTimeout pkg port => exact retrainTimeout pkg port
  | presentFall pkg port => exact presentFall pkg port
  | presentRise pkg port => exact presentRise pkg port
  | peerHeartbeatTimeout pkg peer => exact peerHeartbeatTimeout pkg peer
  | lossDeclaration pkg peer => exact lossDeclaration pkg peer
  | owlPinTrigger pkg => exact owlPinTrigger pkg
  | owlForwardReceive n => exact owlForwardReceive n
  | snapshotRearm pkg => exact snapshotRearm pkg
  | keyMaterialWrite pkg slot word value => exact keyMaterialWrite pkg slot word value
  | ctnlogClear core => exact ctnlogClear core
  | pcieInboundWrite pkg bar off data => exact pcieInboundWrite pkg bar off data
  | pcieInboundRead pkg bar off len => exact pcieInboundRead pkg bar off len
  | pcieLinkDown pkg => exact pcieLinkDown pkg
  | registerWrite pkg den off width value => exact registerWrite pkg den off width value
  | attestationRequest pkg nonce => exact attestationRequest pkg nonce
  | bladeAdmission pkg port peer partner => exact bladeAdmission pkg port peer partner
  | pcieLinkUp pkg rate width => exact pcieLinkUp pkg rate width

end Sys2Proof.Laws.Layout
end

