-- ==== Sys2Proof/Laws/Tab.lean ====
section
/-!
SUPPORT. Tables: a read after a write, and the canonical form that every operation keeps.
-/

namespace Sys2Proof.Tab

open Sys2Proof.Machine

variable {α : Type}

@[simp] theorem get?_put_self (t : Tab α) (k : Nat) (v : α) : (t.put k v).get? k = some v := by
  induction t with
  | nil => simp [put, get?]
  | cons e t ih =>
    unfold put
    split
    · simp [get?]
    · split
      · simp [get?]
      · rename_i h1 h2
        simp [get?, h1, h2, ih]

theorem get?_put_ne (t : Tab α) {k j : Nat} (v : α) (h : j ≠ k) : (t.put k v).get? j = t.get? j := by
  induction t with
  | nil => simp only [put, get?]; split <;> simp_all
  | cons e t ih =>
    unfold put
    split
    · simp only [get?]
      split <;> simp_all
    · split
      · rename_i h1 h2
        simp only [get?, h, if_false]
        by_cases hj : j < k
        · simp [hj, show j ≠ e.1 by omega, show j < e.1 by omega]
        · simp [hj]
      · simp only [get?, ih]

theorem get?_put (t : Tab α) (k j : Nat) (v : α) : (t.put k v).get? j = if j = k then some v else t.get? j := by
  by_cases h : j = k
  · simp [h]
  · simp [h, get?_put_ne]

@[simp] theorem getD_put_self (t : Tab α) (k : Nat) (v d : α) : (t.put k v).getD k d = v := by simp [getD]

theorem getD_put_ne (t : Tab α) {k j : Nat} (v d : α) (h : j ≠ k) : (t.put k v).getD j d = t.getD j d := by
  simp [getD, get?_put_ne, h]

@[simp] theorem put_put (t : Tab α) (k : Nat) (v w : α) : (t.put k v).put k w = t.put k w := by
  induction t with
  | nil => simp [put]
  | cons e t ih =>
    by_cases h1 : k = e.1
    · simp [put, h1]
    · by_cases h2 : k < e.1
      · simp [put, h1, h2]
      · simp [put, h1, h2, ih]

/-- Keys above a bound are above a lower one. -/
theorem above_mono {lo lo' : Nat} {t : Tab α} (h : above lo t = true) (hl : lo' ≤ lo) : above lo' t = true := by
  cases t with
  | nil => rfl
  | cons e t =>
    simp only [above, Bool.and_eq_true, decide_eq_true_eq] at h ⊢
    exact ⟨by omega, h.2⟩

theorem rising_of_above {lo : Nat} {t : Tab α} (h : above lo t = true) : t.rising = true := by
  cases t with
  | nil => rfl
  | cons e t => simp only [above, Bool.and_eq_true] at h; exact h.2

theorem get?_of_above {lo j : Nat} {t : Tab α} (h : above lo t = true) (hj : j ≤ lo) : t.get? j = none := by
  cases t with
  | nil => rfl
  | cons e t =>
    simp only [above, Bool.and_eq_true, decide_eq_true_eq] at h
    simp [get?, show j ≠ e.1 by omega, show j < e.1 by omega]

theorem above_put {lo k : Nat} {t : Tab α} {v : α} (h : above lo t = true) (hk : lo < k) : above lo (t.put k v) = true := by
  induction t generalizing lo with
  | nil => simp [put, above, hk]
  | cons e t ih =>
    simp only [above, Bool.and_eq_true, decide_eq_true_eq] at h
    unfold put
    split
    · rename_i e'; simp [above, hk, e' ▸ h.2]
    · split
      · simp_all [above]
      · simp only [above, Bool.and_eq_true, decide_eq_true_eq]
        exact ⟨h.1, ih h.2 (by omega)⟩

theorem above_del {lo k : Nat} {t : Tab α} (h : above lo t = true) : above lo (t.del k) = true := by
  induction t generalizing lo with
  | nil => rfl
  | cons e t ih =>
    have h0 := h
    simp only [above, Bool.and_eq_true, decide_eq_true_eq] at h
    unfold del
    split
    · exact above_mono h.2 (by omega)
    · split
      · exact h0
      · simp only [above, Bool.and_eq_true, decide_eq_true_eq]
        exact ⟨h.1, ih h.2⟩

theorem rising_put {t : Tab α} (h : t.rising = true) (k : Nat) (v : α) : (t.put k v).rising = true := by
  cases t with
  | nil => rfl
  | cons e t =>
    simp only [rising] at h
    unfold put
    split
    · rename_i e'; simpa [rising, e'] using h
    · split
      · simp_all [rising, above]
      · exact above_put h (by omega)

theorem rising_del {t : Tab α} (h : t.rising = true) (k : Nat) : (t.del k).rising = true := by
  cases t with
  | nil => rfl
  | cons e t =>
    simp only [rising] at h
    unfold del
    split
    · exact rising_of_above h
    · split
      · exact h
      · exact above_del h

theorem get?_del_self {t : Tab α} (h : t.rising = true) (k : Nat) : (t.del k).get? k = none := by
  induction t with
  | nil => rfl
  | cons e t ih =>
    simp only [rising] at h
    unfold del
    split
    · rename_i e'; exact get?_of_above h (by omega)
    · split
      · simp_all [get?]
      · rename_i h1 h2
        simp only [get?, h1, h2, if_false]
        exact ih (rising_of_above h)

theorem get?_del_ne {t : Tab α} (h : t.rising = true) {k j : Nat} (hj : j ≠ k) : (t.del k).get? j = t.get? j := by
  induction t with
  | nil => rfl
  | cons e t ih =>
    simp only [rising] at h
    unfold del
    split
    · rename_i e'
      simp only [get?]
      by_cases h1 : j < e.1
      · simp [h1, show j ≠ e.1 by omega, get?_of_above h (by omega : j ≤ e.1)]
      · simp [h1, show j ≠ e.1 by omega]
    · split
      · rfl
      · simp only [get?, ih (rising_of_above h)]

section Store

variable [DecidableEq α]

/-- A read of a table after a store: the stored value at its key, the old one elsewhere. -/
theorem getD_store {t : Tab α} (h : t.rising = true) (d : α) (k j : Nat) (v : α) :
    (t.store d k v).getD j d = if j = k then v else t.getD j d := by
  unfold store
  by_cases hj : j = k <;> by_cases hv : v = d <;> simp [getD, hj, hv, get?_del_self h, get?_del_ne h, get?_put_ne]

theorem rising_store {t : Tab α} (h : t.rising = true) (d : α) (k : Nat) (v : α) : (t.store d k v).rising = true := by
  unfold store
  split
  · exact rising_del h k
  · exact rising_put h k v

theorem tight_put {t : Tab α} {d : α} (h : t.tight d = true) (k : Nat) {v : α} (hv : v ≠ d) : (t.put k v).tight d = true := by
  induction t with
  | nil => simp [put, tight, hv]
  | cons e t ih =>
    simp only [tight, List.all_cons, Bool.and_eq_true, decide_eq_true_eq] at h ih ⊢
    unfold put
    split
    · simpa [hv] using h.2
    · split
      · simpa [hv] using h
      · simpa [h.1] using ih h.2

theorem tight_del {t : Tab α} {d : α} (h : t.tight d = true) (k : Nat) : (t.del k).tight d = true := by
  induction t with
  | nil => rfl
  | cons e t ih =>
    simp only [tight, List.all_cons, Bool.and_eq_true, decide_eq_true_eq] at h ih ⊢
    unfold del
    split
    · exact h.2
    · split
      · simpa using h
      · simpa [h.1] using ih h.2

theorem tight_store {t : Tab α} {d : α} (h : t.tight d = true) (k : Nat) (v : α) : (t.store d k v).tight d = true := by
  unfold store
  split
  · exact tight_del h k
  · rename_i hv; exact tight_put h k hv

end Store

end Sys2Proof.Tab

namespace Sys2Proof.Machine

/-- A write keeps the canonical form of memory. -/
theorem Memory.wf_put {m : Tab Byte} (h : Memory.wf m = true) (a : Nat) (b : Byte) : Memory.wf (m.put a b) = true :=
  Tab.rising_put h a b

theorem Memory.wf_foldl {β : Type} {f : Tab Byte → β → Tab Byte} (hf : ∀ m x, Memory.wf m = true → Memory.wf (f m x) = true) (l : List β)
    {m : Tab Byte} (h : Memory.wf m = true) : Memory.wf (l.foldl f m) = true := by
  induction l generalizing m with
  | nil => exact h
  | cons x l ih => exact ih (hf m x h)

theorem State.memWf_reset : State.reset.memWf = true := by decide

theorem State.memWf_rawPut {s : State} (h : s.memWf = true) (a : Nat) (b : Byte) : (s.rawPut a b).memWf = true :=
  Memory.wf_foldl (fun _ x hm => Memory.wf_put hm x b) (placesAt s a) h

theorem State.memWf_reseal {s : State} (h : s.memWf = true) (kid line : Nat) : (s.reseal kid line).memWf = true := by
  unfold State.reseal
  split
  · exact h
  · rename_i hs
    clear hs
    show State.memWf _ = true
    generalize (s.lineUnder kid line).zipIdx = l
    induction l generalizing s with
    | nil => exact h
    | cons x l ih => exact ih (State.memWf_rawPut h _ _)

theorem State.memWf_wrB {s : State} (h : s.memWf = true) (kid a : Nat) (b : Byte) : (s.wrB kid a b).memWf = true :=
  State.memWf_rawPut (State.memWf_reseal h kid (a / 128)) a b

/-- An address's bytes are served at one of the places that its writes go to (R17, R32). -/
theorem servedAt_mem_placesAt (s : State) (a : Nat) : servedAt s a ∈ placesAt s a := by
  unfold placesAt servedAt
  split <;> simp

theorem get?_foldl_put (b : Byte) (l : List Nat) (m : Tab Byte) (j : Nat) :
    (l.foldl (fun m x => m.put x b) m).get? j = if j ∈ l then some b else m.get? j := by
  induction l generalizing m with
  | nil => simp
  | cons x l ih =>
    rw [List.foldl_cons, ih, Tab.get?_put]
    by_cases h1 : j ∈ l <;> by_cases h2 : j = x <;> simp [h1, h2]

/-- A read of one byte of memory after a write of one. -/
theorem State.raw_rawPut (s : State) (a j : Nat) (b : Byte) :
    (s.rawPut a b).raw j = if servedAt s j ∈ placesAt s a then b else s.raw j := by
  have h : ∀ k, servedAt (s.rawPut a b) k = servedAt s k := fun _ => rfl
  simp only [State.raw, h]
  rw [show (s.rawPut a b).mem = (placesAt s a).foldl (fun m x => m.put x b) s.mem from rfl, get?_foldl_put]
  by_cases hj : servedAt s j ∈ placesAt s a
  · simp [hj]
  · simp only [hj, if_false]; rfl

/-- What has been written to an address is read there. -/
theorem State.raw_rawPut_self (s : State) (a : Nat) (b : Byte) : (s.rawPut a b).raw a = b := by
  simp [State.raw_rawPut, servedAt_mem_placesAt]

end Sys2Proof.Machine
end

