-- ==== Sys2Proof/Laws/State.lean ====
section
/-!
SUPPORT. Each update of the state leaves every field but its own as it is, and what it writes is read back.
-/

namespace Sys2Proof.Machine

section Fields

variable (s : State)
@[simp] theorem State.with_cores (g : Group) : (s.with g).cores = s.cores := rfl
@[simp] theorem State.with_mem (g : Group) : (s.with g).mem = s.mem := rfl
@[simp] theorem State.with_seals (g : Group) : (s.with g).seals = s.seals := rfl
@[simp] theorem State.with_cohorts (g : Group) : (s.with g).cohorts = s.cohorts := rfl
@[simp] theorem State.with_clusters (g : Group) : (s.with g).clusters = s.clusters := rfl
@[simp] theorem State.with_dies (g : Group) : (s.with g).dies = s.dies := rfl
@[simp] theorem State.with_homes (g : Group) : (s.with g).homes = s.homes := rfl
@[simp] theorem State.with_flight (g : Group) : (s.with g).flight = s.flight := rfl
@[simp] theorem State.with_attempts (g : Group) : (s.with g).attempts = s.attempts := rfl
@[simp] theorem State.with_owners (g : Group) : (s.with g).owners = s.owners := rfl
@[simp] theorem State.with_asids (g : Group) : (s.with g).asids = s.asids := rfl
@[simp] theorem State.with_descs (g : Group) : (s.with g).descs = s.descs := rfl
@[simp] theorem State.with_slots (g : Group) : (s.with g).slots = s.slots := rfl
@[simp] theorem State.with_ctrs (g : Group) : (s.with g).ctrs = s.ctrs := rfl
@[simp] theorem State.with_amsgs (g : Group) : (s.with g).amsgs = s.amsgs := rfl
@[simp] theorem State.with_colldirs (g : Group) : (s.with g).colldirs = s.colldirs := rfl
@[simp] theorem State.with_carb (g : Group) : (s.with g).carb = s.carb := rfl
@[simp] theorem State.with_ports (g : Group) : (s.with g).ports = s.ports := rfl
@[simp] theorem State.with_flowcfg (g : Group) : (s.with g).flowcfg = s.flowcfg := rfl
@[simp] theorem State.with_worlds (g : Group) : (s.with g).worlds = s.worlds := rfl
@[simp] theorem State.with_order (g : Group) : (s.with g).order = s.order := rfl
@[simp] theorem State.with_refused (g : Group) : (s.with g).refused = s.refused := rfl
@[simp] theorem State.with_refusals (g : Group) : (s.with g).refusals = s.refusals := rfl
@[simp] theorem State.with_cpStop (g : Group) : (s.with g).cpStop = s.cpStop := rfl
@[simp] theorem State.with_msis (g : Group) : (s.with g).msis = s.msis := rfl
@[simp] theorem State.with_snaps (g : Group) : (s.with g).snaps = s.snaps := rfl
@[simp] theorem State.with_counters (g : Group) : (s.with g).counters = s.counters := rfl
@[simp] theorem State.with_records (g : Group) : (s.with g).records = s.records := rfl
@[simp] theorem State.with_owlOut (g : Group) : (s.with g).owlOut = s.owlOut := rfl
@[simp] theorem State.with_pkgs (g : Group) : (s.with g).pkgs = s.pkgs := rfl
@[simp] theorem State.with_launches (g : Group) : (s.with g).launches = s.launches := rfl
@[simp] theorem State.with_saved (g : Group) : (s.with g).saved = s.saved := rfl
@[simp] theorem State.with_gmsgs (g : Group) : (s.with g).gmsgs = s.gmsgs := rfl
@[simp] theorem State.with_nextKey (g : Group) : (s.with g).nextKey = s.nextKey := rfl
@[simp] theorem State.with_domain (g : Group) : (s.with g).domain = s.domain := rfl
@[simp] theorem State.with_lost (g : Group) : (s.with g).lost = s.lost := rfl
@[simp] theorem State.with_decls (g : Group) : (s.with g).decls = s.decls := rfl
@[simp] theorem State.with_partner (g : Group) : (s.with g).partner = s.partner := rfl
@[simp] theorem State.with_clock (g : Group) : (s.with g).clock = s.clock := rfl
@[simp] theorem State.with_cur (g : Group) : (s.with g).cur = s.cur := rfl
@[simp] theorem State.with_agenda (g : Group) : (s.with g).agenda = s.agenda := rfl
@[simp] theorem State.with_turn (g : Group) : (s.with g).turn = s.turn := rfl
@[simp] theorem State.with_free (g : Group) : (s.with g).free = s.free := rfl

@[simp] theorem State.putG_cores (g : Group) : (s.putG g).cores = s.cores := rfl
@[simp] theorem State.putG_mem (g : Group) : (s.putG g).mem = s.mem := rfl
@[simp] theorem State.putG_seals (g : Group) : (s.putG g).seals = s.seals := rfl
@[simp] theorem State.putG_cohorts (g : Group) : (s.putG g).cohorts = s.cohorts := rfl
@[simp] theorem State.putG_clusters (g : Group) : (s.putG g).clusters = s.clusters := rfl
@[simp] theorem State.putG_dies (g : Group) : (s.putG g).dies = s.dies := rfl
@[simp] theorem State.putG_homes (g : Group) : (s.putG g).homes = s.homes := rfl
@[simp] theorem State.putG_flight (g : Group) : (s.putG g).flight = s.flight := rfl
@[simp] theorem State.putG_attempts (g : Group) : (s.putG g).attempts = s.attempts := rfl
@[simp] theorem State.putG_owners (g : Group) : (s.putG g).owners = s.owners := rfl
@[simp] theorem State.putG_asids (g : Group) : (s.putG g).asids = s.asids := rfl
@[simp] theorem State.putG_descs (g : Group) : (s.putG g).descs = s.descs := rfl
@[simp] theorem State.putG_slots (g : Group) : (s.putG g).slots = s.slots := rfl
@[simp] theorem State.putG_ctrs (g : Group) : (s.putG g).ctrs = s.ctrs := rfl
@[simp] theorem State.putG_amsgs (g : Group) : (s.putG g).amsgs = s.amsgs := rfl
@[simp] theorem State.putG_colldirs (g : Group) : (s.putG g).colldirs = s.colldirs := rfl
@[simp] theorem State.putG_carb (g : Group) : (s.putG g).carb = s.carb := rfl
@[simp] theorem State.putG_ports (g : Group) : (s.putG g).ports = s.ports := rfl
@[simp] theorem State.putG_flowcfg (g : Group) : (s.putG g).flowcfg = s.flowcfg := rfl
@[simp] theorem State.putG_worlds (g : Group) : (s.putG g).worlds = s.worlds := rfl
@[simp] theorem State.putG_order (g : Group) : (s.putG g).order = s.order := rfl
@[simp] theorem State.putG_refused (g : Group) : (s.putG g).refused = s.refused := rfl
@[simp] theorem State.putG_refusals (g : Group) : (s.putG g).refusals = s.refusals := rfl
@[simp] theorem State.putG_cpStop (g : Group) : (s.putG g).cpStop = s.cpStop := rfl
@[simp] theorem State.putG_msis (g : Group) : (s.putG g).msis = s.msis := rfl
@[simp] theorem State.putG_snaps (g : Group) : (s.putG g).snaps = s.snaps := rfl
@[simp] theorem State.putG_counters (g : Group) : (s.putG g).counters = s.counters := rfl
@[simp] theorem State.putG_records (g : Group) : (s.putG g).records = s.records := rfl
@[simp] theorem State.putG_owlOut (g : Group) : (s.putG g).owlOut = s.owlOut := rfl
@[simp] theorem State.putG_pkgs (g : Group) : (s.putG g).pkgs = s.pkgs := rfl
@[simp] theorem State.putG_launches (g : Group) : (s.putG g).launches = s.launches := rfl
@[simp] theorem State.putG_saved (g : Group) : (s.putG g).saved = s.saved := rfl
@[simp] theorem State.putG_gmsgs (g : Group) : (s.putG g).gmsgs = s.gmsgs := rfl
@[simp] theorem State.putG_nextKey (g : Group) : (s.putG g).nextKey = s.nextKey := rfl
@[simp] theorem State.putG_domain (g : Group) : (s.putG g).domain = s.domain := rfl
@[simp] theorem State.putG_lost (g : Group) : (s.putG g).lost = s.lost := rfl
@[simp] theorem State.putG_decls (g : Group) : (s.putG g).decls = s.decls := rfl
@[simp] theorem State.putG_partner (g : Group) : (s.putG g).partner = s.partner := rfl
@[simp] theorem State.putG_clock (g : Group) : (s.putG g).clock = s.clock := rfl
@[simp] theorem State.putG_cur (g : Group) : (s.putG g).cur = s.cur := rfl
@[simp] theorem State.putG_agenda (g : Group) : (s.putG g).agenda = s.agenda := rfl
@[simp] theorem State.putG_turn (g : Group) : (s.putG g).turn = s.turn := rfl
@[simp] theorem State.putG_free (g : Group) : (s.putG g).free = s.free := rfl

@[simp] theorem State.putGrp_cores (k : Nat) (g : Group) : (s.putGrp k g).cores = s.cores := rfl
@[simp] theorem State.putGrp_mem (k : Nat) (g : Group) : (s.putGrp k g).mem = s.mem := rfl
@[simp] theorem State.putGrp_seals (k : Nat) (g : Group) : (s.putGrp k g).seals = s.seals := rfl
@[simp] theorem State.putGrp_cohorts (k : Nat) (g : Group) : (s.putGrp k g).cohorts = s.cohorts := rfl
@[simp] theorem State.putGrp_clusters (k : Nat) (g : Group) : (s.putGrp k g).clusters = s.clusters := rfl
@[simp] theorem State.putGrp_dies (k : Nat) (g : Group) : (s.putGrp k g).dies = s.dies := rfl
@[simp] theorem State.putGrp_homes (k : Nat) (g : Group) : (s.putGrp k g).homes = s.homes := rfl
@[simp] theorem State.putGrp_flight (k : Nat) (g : Group) : (s.putGrp k g).flight = s.flight := rfl
@[simp] theorem State.putGrp_attempts (k : Nat) (g : Group) : (s.putGrp k g).attempts = s.attempts := rfl
@[simp] theorem State.putGrp_owners (k : Nat) (g : Group) : (s.putGrp k g).owners = s.owners := rfl
@[simp] theorem State.putGrp_asids (k : Nat) (g : Group) : (s.putGrp k g).asids = s.asids := rfl
@[simp] theorem State.putGrp_descs (k : Nat) (g : Group) : (s.putGrp k g).descs = s.descs := rfl
@[simp] theorem State.putGrp_slots (k : Nat) (g : Group) : (s.putGrp k g).slots = s.slots := rfl
@[simp] theorem State.putGrp_ctrs (k : Nat) (g : Group) : (s.putGrp k g).ctrs = s.ctrs := rfl
@[simp] theorem State.putGrp_amsgs (k : Nat) (g : Group) : (s.putGrp k g).amsgs = s.amsgs := rfl
@[simp] theorem State.putGrp_colldirs (k : Nat) (g : Group) : (s.putGrp k g).colldirs = s.colldirs := rfl
@[simp] theorem State.putGrp_carb (k : Nat) (g : Group) : (s.putGrp k g).carb = s.carb := rfl
@[simp] theorem State.putGrp_ports (k : Nat) (g : Group) : (s.putGrp k g).ports = s.ports := rfl
@[simp] theorem State.putGrp_flowcfg (k : Nat) (g : Group) : (s.putGrp k g).flowcfg = s.flowcfg := rfl
@[simp] theorem State.putGrp_worlds (k : Nat) (g : Group) : (s.putGrp k g).worlds = s.worlds := rfl
@[simp] theorem State.putGrp_order (k : Nat) (g : Group) : (s.putGrp k g).order = s.order := rfl
@[simp] theorem State.putGrp_refused (k : Nat) (g : Group) : (s.putGrp k g).refused = s.refused := rfl
@[simp] theorem State.putGrp_refusals (k : Nat) (g : Group) : (s.putGrp k g).refusals = s.refusals := rfl
@[simp] theorem State.putGrp_cpStop (k : Nat) (g : Group) : (s.putGrp k g).cpStop = s.cpStop := rfl
@[simp] theorem State.putGrp_msis (k : Nat) (g : Group) : (s.putGrp k g).msis = s.msis := rfl
@[simp] theorem State.putGrp_snaps (k : Nat) (g : Group) : (s.putGrp k g).snaps = s.snaps := rfl
@[simp] theorem State.putGrp_counters (k : Nat) (g : Group) : (s.putGrp k g).counters = s.counters := rfl
@[simp] theorem State.putGrp_records (k : Nat) (g : Group) : (s.putGrp k g).records = s.records := rfl
@[simp] theorem State.putGrp_owlOut (k : Nat) (g : Group) : (s.putGrp k g).owlOut = s.owlOut := rfl
@[simp] theorem State.putGrp_pkgs (k : Nat) (g : Group) : (s.putGrp k g).pkgs = s.pkgs := rfl
@[simp] theorem State.putGrp_launches (k : Nat) (g : Group) : (s.putGrp k g).launches = s.launches := rfl
@[simp] theorem State.putGrp_saved (k : Nat) (g : Group) : (s.putGrp k g).saved = s.saved := rfl
@[simp] theorem State.putGrp_gmsgs (k : Nat) (g : Group) : (s.putGrp k g).gmsgs = s.gmsgs := rfl
@[simp] theorem State.putGrp_nextKey (k : Nat) (g : Group) : (s.putGrp k g).nextKey = s.nextKey := rfl
@[simp] theorem State.putGrp_domain (k : Nat) (g : Group) : (s.putGrp k g).domain = s.domain := rfl
@[simp] theorem State.putGrp_lost (k : Nat) (g : Group) : (s.putGrp k g).lost = s.lost := rfl
@[simp] theorem State.putGrp_decls (k : Nat) (g : Group) : (s.putGrp k g).decls = s.decls := rfl
@[simp] theorem State.putGrp_partner (k : Nat) (g : Group) : (s.putGrp k g).partner = s.partner := rfl
@[simp] theorem State.putGrp_clock (k : Nat) (g : Group) : (s.putGrp k g).clock = s.clock := rfl
@[simp] theorem State.putGrp_cur (k : Nat) (g : Group) : (s.putGrp k g).cur = s.cur := rfl
@[simp] theorem State.putGrp_agenda (k : Nat) (g : Group) : (s.putGrp k g).agenda = s.agenda := rfl
@[simp] theorem State.putGrp_turn (k : Nat) (g : Group) : (s.putGrp k g).turn = s.turn := rfl
@[simp] theorem State.putGrp_free (k : Nat) (g : Group) : (s.putGrp k g).free = s.free := rfl

@[simp] theorem State.putCore_groups (k : Nat) (x : Core) : (s.putCore k x).groups = s.groups := rfl
@[simp] theorem State.putCore_mem (k : Nat) (x : Core) : (s.putCore k x).mem = s.mem := rfl
@[simp] theorem State.putCore_seals (k : Nat) (x : Core) : (s.putCore k x).seals = s.seals := rfl
@[simp] theorem State.putCore_cohorts (k : Nat) (x : Core) : (s.putCore k x).cohorts = s.cohorts := rfl
@[simp] theorem State.putCore_clusters (k : Nat) (x : Core) : (s.putCore k x).clusters = s.clusters := rfl
@[simp] theorem State.putCore_dies (k : Nat) (x : Core) : (s.putCore k x).dies = s.dies := rfl
@[simp] theorem State.putCore_homes (k : Nat) (x : Core) : (s.putCore k x).homes = s.homes := rfl
@[simp] theorem State.putCore_flight (k : Nat) (x : Core) : (s.putCore k x).flight = s.flight := rfl
@[simp] theorem State.putCore_attempts (k : Nat) (x : Core) : (s.putCore k x).attempts = s.attempts := rfl
@[simp] theorem State.putCore_owners (k : Nat) (x : Core) : (s.putCore k x).owners = s.owners := rfl
@[simp] theorem State.putCore_asids (k : Nat) (x : Core) : (s.putCore k x).asids = s.asids := rfl
@[simp] theorem State.putCore_descs (k : Nat) (x : Core) : (s.putCore k x).descs = s.descs := rfl
@[simp] theorem State.putCore_slots (k : Nat) (x : Core) : (s.putCore k x).slots = s.slots := rfl
@[simp] theorem State.putCore_ctrs (k : Nat) (x : Core) : (s.putCore k x).ctrs = s.ctrs := rfl
@[simp] theorem State.putCore_amsgs (k : Nat) (x : Core) : (s.putCore k x).amsgs = s.amsgs := rfl
@[simp] theorem State.putCore_colldirs (k : Nat) (x : Core) : (s.putCore k x).colldirs = s.colldirs := rfl
@[simp] theorem State.putCore_carb (k : Nat) (x : Core) : (s.putCore k x).carb = s.carb := rfl
@[simp] theorem State.putCore_ports (k : Nat) (x : Core) : (s.putCore k x).ports = s.ports := rfl
@[simp] theorem State.putCore_flowcfg (k : Nat) (x : Core) : (s.putCore k x).flowcfg = s.flowcfg := rfl
@[simp] theorem State.putCore_worlds (k : Nat) (x : Core) : (s.putCore k x).worlds = s.worlds := rfl
@[simp] theorem State.putCore_order (k : Nat) (x : Core) : (s.putCore k x).order = s.order := rfl
@[simp] theorem State.putCore_refused (k : Nat) (x : Core) : (s.putCore k x).refused = s.refused := rfl
@[simp] theorem State.putCore_refusals (k : Nat) (x : Core) : (s.putCore k x).refusals = s.refusals := rfl
@[simp] theorem State.putCore_cpStop (k : Nat) (x : Core) : (s.putCore k x).cpStop = s.cpStop := rfl
@[simp] theorem State.putCore_msis (k : Nat) (x : Core) : (s.putCore k x).msis = s.msis := rfl
@[simp] theorem State.putCore_snaps (k : Nat) (x : Core) : (s.putCore k x).snaps = s.snaps := rfl
@[simp] theorem State.putCore_counters (k : Nat) (x : Core) : (s.putCore k x).counters = s.counters := rfl
@[simp] theorem State.putCore_records (k : Nat) (x : Core) : (s.putCore k x).records = s.records := rfl
@[simp] theorem State.putCore_owlOut (k : Nat) (x : Core) : (s.putCore k x).owlOut = s.owlOut := rfl
@[simp] theorem State.putCore_pkgs (k : Nat) (x : Core) : (s.putCore k x).pkgs = s.pkgs := rfl
@[simp] theorem State.putCore_launches (k : Nat) (x : Core) : (s.putCore k x).launches = s.launches := rfl
@[simp] theorem State.putCore_saved (k : Nat) (x : Core) : (s.putCore k x).saved = s.saved := rfl
@[simp] theorem State.putCore_gmsgs (k : Nat) (x : Core) : (s.putCore k x).gmsgs = s.gmsgs := rfl
@[simp] theorem State.putCore_nextKey (k : Nat) (x : Core) : (s.putCore k x).nextKey = s.nextKey := rfl
@[simp] theorem State.putCore_domain (k : Nat) (x : Core) : (s.putCore k x).domain = s.domain := rfl
@[simp] theorem State.putCore_lost (k : Nat) (x : Core) : (s.putCore k x).lost = s.lost := rfl
@[simp] theorem State.putCore_decls (k : Nat) (x : Core) : (s.putCore k x).decls = s.decls := rfl
@[simp] theorem State.putCore_partner (k : Nat) (x : Core) : (s.putCore k x).partner = s.partner := rfl
@[simp] theorem State.putCore_clock (k : Nat) (x : Core) : (s.putCore k x).clock = s.clock := rfl
@[simp] theorem State.putCore_cur (k : Nat) (x : Core) : (s.putCore k x).cur = s.cur := rfl
@[simp] theorem State.putCore_agenda (k : Nat) (x : Core) : (s.putCore k x).agenda = s.agenda := rfl
@[simp] theorem State.putCore_turn (k : Nat) (x : Core) : (s.putCore k x).turn = s.turn := rfl
@[simp] theorem State.putCore_free (k : Nat) (x : Core) : (s.putCore k x).free = s.free := rfl

@[simp] theorem State.putDie_groups (k : Nat) (x : Die) : (s.putDie k x).groups = s.groups := rfl
@[simp] theorem State.putDie_cores (k : Nat) (x : Die) : (s.putDie k x).cores = s.cores := rfl
@[simp] theorem State.putDie_mem (k : Nat) (x : Die) : (s.putDie k x).mem = s.mem := rfl
@[simp] theorem State.putDie_seals (k : Nat) (x : Die) : (s.putDie k x).seals = s.seals := rfl
@[simp] theorem State.putDie_cohorts (k : Nat) (x : Die) : (s.putDie k x).cohorts = s.cohorts := rfl
@[simp] theorem State.putDie_clusters (k : Nat) (x : Die) : (s.putDie k x).clusters = s.clusters := rfl
@[simp] theorem State.putDie_homes (k : Nat) (x : Die) : (s.putDie k x).homes = s.homes := rfl
@[simp] theorem State.putDie_flight (k : Nat) (x : Die) : (s.putDie k x).flight = s.flight := rfl
@[simp] theorem State.putDie_attempts (k : Nat) (x : Die) : (s.putDie k x).attempts = s.attempts := rfl
@[simp] theorem State.putDie_owners (k : Nat) (x : Die) : (s.putDie k x).owners = s.owners := rfl
@[simp] theorem State.putDie_asids (k : Nat) (x : Die) : (s.putDie k x).asids = s.asids := rfl
@[simp] theorem State.putDie_descs (k : Nat) (x : Die) : (s.putDie k x).descs = s.descs := rfl
@[simp] theorem State.putDie_slots (k : Nat) (x : Die) : (s.putDie k x).slots = s.slots := rfl
@[simp] theorem State.putDie_ctrs (k : Nat) (x : Die) : (s.putDie k x).ctrs = s.ctrs := rfl
@[simp] theorem State.putDie_amsgs (k : Nat) (x : Die) : (s.putDie k x).amsgs = s.amsgs := rfl
@[simp] theorem State.putDie_colldirs (k : Nat) (x : Die) : (s.putDie k x).colldirs = s.colldirs := rfl
@[simp] theorem State.putDie_carb (k : Nat) (x : Die) : (s.putDie k x).carb = s.carb := rfl
@[simp] theorem State.putDie_ports (k : Nat) (x : Die) : (s.putDie k x).ports = s.ports := rfl
@[simp] theorem State.putDie_flowcfg (k : Nat) (x : Die) : (s.putDie k x).flowcfg = s.flowcfg := rfl
@[simp] theorem State.putDie_worlds (k : Nat) (x : Die) : (s.putDie k x).worlds = s.worlds := rfl
@[simp] theorem State.putDie_order (k : Nat) (x : Die) : (s.putDie k x).order = s.order := rfl
@[simp] theorem State.putDie_refused (k : Nat) (x : Die) : (s.putDie k x).refused = s.refused := rfl
@[simp] theorem State.putDie_refusals (k : Nat) (x : Die) : (s.putDie k x).refusals = s.refusals := rfl
@[simp] theorem State.putDie_cpStop (k : Nat) (x : Die) : (s.putDie k x).cpStop = s.cpStop := rfl
@[simp] theorem State.putDie_msis (k : Nat) (x : Die) : (s.putDie k x).msis = s.msis := rfl
@[simp] theorem State.putDie_snaps (k : Nat) (x : Die) : (s.putDie k x).snaps = s.snaps := rfl
@[simp] theorem State.putDie_counters (k : Nat) (x : Die) : (s.putDie k x).counters = s.counters := rfl
@[simp] theorem State.putDie_records (k : Nat) (x : Die) : (s.putDie k x).records = s.records := rfl
@[simp] theorem State.putDie_owlOut (k : Nat) (x : Die) : (s.putDie k x).owlOut = s.owlOut := rfl
@[simp] theorem State.putDie_pkgs (k : Nat) (x : Die) : (s.putDie k x).pkgs = s.pkgs := rfl
@[simp] theorem State.putDie_launches (k : Nat) (x : Die) : (s.putDie k x).launches = s.launches := rfl
@[simp] theorem State.putDie_saved (k : Nat) (x : Die) : (s.putDie k x).saved = s.saved := rfl
@[simp] theorem State.putDie_gmsgs (k : Nat) (x : Die) : (s.putDie k x).gmsgs = s.gmsgs := rfl
@[simp] theorem State.putDie_nextKey (k : Nat) (x : Die) : (s.putDie k x).nextKey = s.nextKey := rfl
@[simp] theorem State.putDie_domain (k : Nat) (x : Die) : (s.putDie k x).domain = s.domain := rfl
@[simp] theorem State.putDie_lost (k : Nat) (x : Die) : (s.putDie k x).lost = s.lost := rfl
@[simp] theorem State.putDie_decls (k : Nat) (x : Die) : (s.putDie k x).decls = s.decls := rfl
@[simp] theorem State.putDie_partner (k : Nat) (x : Die) : (s.putDie k x).partner = s.partner := rfl
@[simp] theorem State.putDie_clock (k : Nat) (x : Die) : (s.putDie k x).clock = s.clock := rfl
@[simp] theorem State.putDie_cur (k : Nat) (x : Die) : (s.putDie k x).cur = s.cur := rfl
@[simp] theorem State.putDie_agenda (k : Nat) (x : Die) : (s.putDie k x).agenda = s.agenda := rfl
@[simp] theorem State.putDie_turn (k : Nat) (x : Die) : (s.putDie k x).turn = s.turn := rfl
@[simp] theorem State.putDie_free (k : Nat) (x : Die) : (s.putDie k x).free = s.free := rfl

@[simp] theorem State.putCluster_groups (k : Nat) (x : Cluster) : (s.putCluster k x).groups = s.groups := rfl
@[simp] theorem State.putCluster_cores (k : Nat) (x : Cluster) : (s.putCluster k x).cores = s.cores := rfl
@[simp] theorem State.putCluster_mem (k : Nat) (x : Cluster) : (s.putCluster k x).mem = s.mem := rfl
@[simp] theorem State.putCluster_seals (k : Nat) (x : Cluster) : (s.putCluster k x).seals = s.seals := rfl
@[simp] theorem State.putCluster_cohorts (k : Nat) (x : Cluster) : (s.putCluster k x).cohorts = s.cohorts := rfl
@[simp] theorem State.putCluster_dies (k : Nat) (x : Cluster) : (s.putCluster k x).dies = s.dies := rfl
@[simp] theorem State.putCluster_homes (k : Nat) (x : Cluster) : (s.putCluster k x).homes = s.homes := rfl
@[simp] theorem State.putCluster_flight (k : Nat) (x : Cluster) : (s.putCluster k x).flight = s.flight := rfl
@[simp] theorem State.putCluster_attempts (k : Nat) (x : Cluster) : (s.putCluster k x).attempts = s.attempts := rfl
@[simp] theorem State.putCluster_owners (k : Nat) (x : Cluster) : (s.putCluster k x).owners = s.owners := rfl
@[simp] theorem State.putCluster_asids (k : Nat) (x : Cluster) : (s.putCluster k x).asids = s.asids := rfl
@[simp] theorem State.putCluster_descs (k : Nat) (x : Cluster) : (s.putCluster k x).descs = s.descs := rfl
@[simp] theorem State.putCluster_slots (k : Nat) (x : Cluster) : (s.putCluster k x).slots = s.slots := rfl
@[simp] theorem State.putCluster_ctrs (k : Nat) (x : Cluster) : (s.putCluster k x).ctrs = s.ctrs := rfl
@[simp] theorem State.putCluster_amsgs (k : Nat) (x : Cluster) : (s.putCluster k x).amsgs = s.amsgs := rfl
@[simp] theorem State.putCluster_colldirs (k : Nat) (x : Cluster) : (s.putCluster k x).colldirs = s.colldirs := rfl
@[simp] theorem State.putCluster_carb (k : Nat) (x : Cluster) : (s.putCluster k x).carb = s.carb := rfl
@[simp] theorem State.putCluster_ports (k : Nat) (x : Cluster) : (s.putCluster k x).ports = s.ports := rfl
@[simp] theorem State.putCluster_flowcfg (k : Nat) (x : Cluster) : (s.putCluster k x).flowcfg = s.flowcfg := rfl
@[simp] theorem State.putCluster_worlds (k : Nat) (x : Cluster) : (s.putCluster k x).worlds = s.worlds := rfl
@[simp] theorem State.putCluster_order (k : Nat) (x : Cluster) : (s.putCluster k x).order = s.order := rfl
@[simp] theorem State.putCluster_refused (k : Nat) (x : Cluster) : (s.putCluster k x).refused = s.refused := rfl
@[simp] theorem State.putCluster_refusals (k : Nat) (x : Cluster) : (s.putCluster k x).refusals = s.refusals := rfl
@[simp] theorem State.putCluster_cpStop (k : Nat) (x : Cluster) : (s.putCluster k x).cpStop = s.cpStop := rfl
@[simp] theorem State.putCluster_msis (k : Nat) (x : Cluster) : (s.putCluster k x).msis = s.msis := rfl
@[simp] theorem State.putCluster_snaps (k : Nat) (x : Cluster) : (s.putCluster k x).snaps = s.snaps := rfl
@[simp] theorem State.putCluster_counters (k : Nat) (x : Cluster) : (s.putCluster k x).counters = s.counters := rfl
@[simp] theorem State.putCluster_records (k : Nat) (x : Cluster) : (s.putCluster k x).records = s.records := rfl
@[simp] theorem State.putCluster_owlOut (k : Nat) (x : Cluster) : (s.putCluster k x).owlOut = s.owlOut := rfl
@[simp] theorem State.putCluster_pkgs (k : Nat) (x : Cluster) : (s.putCluster k x).pkgs = s.pkgs := rfl
@[simp] theorem State.putCluster_launches (k : Nat) (x : Cluster) : (s.putCluster k x).launches = s.launches := rfl
@[simp] theorem State.putCluster_saved (k : Nat) (x : Cluster) : (s.putCluster k x).saved = s.saved := rfl
@[simp] theorem State.putCluster_gmsgs (k : Nat) (x : Cluster) : (s.putCluster k x).gmsgs = s.gmsgs := rfl
@[simp] theorem State.putCluster_nextKey (k : Nat) (x : Cluster) : (s.putCluster k x).nextKey = s.nextKey := rfl
@[simp] theorem State.putCluster_domain (k : Nat) (x : Cluster) : (s.putCluster k x).domain = s.domain := rfl
@[simp] theorem State.putCluster_lost (k : Nat) (x : Cluster) : (s.putCluster k x).lost = s.lost := rfl
@[simp] theorem State.putCluster_decls (k : Nat) (x : Cluster) : (s.putCluster k x).decls = s.decls := rfl
@[simp] theorem State.putCluster_partner (k : Nat) (x : Cluster) : (s.putCluster k x).partner = s.partner := rfl
@[simp] theorem State.putCluster_clock (k : Nat) (x : Cluster) : (s.putCluster k x).clock = s.clock := rfl
@[simp] theorem State.putCluster_cur (k : Nat) (x : Cluster) : (s.putCluster k x).cur = s.cur := rfl
@[simp] theorem State.putCluster_agenda (k : Nat) (x : Cluster) : (s.putCluster k x).agenda = s.agenda := rfl
@[simp] theorem State.putCluster_turn (k : Nat) (x : Cluster) : (s.putCluster k x).turn = s.turn := rfl
@[simp] theorem State.putCluster_free (k : Nat) (x : Cluster) : (s.putCluster k x).free = s.free := rfl

@[simp] theorem State.putAsid_groups (p a : Nat) (x : AsidEnt) : (s.putAsid p a x).groups = s.groups := rfl
@[simp] theorem State.putAsid_cores (p a : Nat) (x : AsidEnt) : (s.putAsid p a x).cores = s.cores := rfl
@[simp] theorem State.putAsid_mem (p a : Nat) (x : AsidEnt) : (s.putAsid p a x).mem = s.mem := rfl
@[simp] theorem State.putAsid_seals (p a : Nat) (x : AsidEnt) : (s.putAsid p a x).seals = s.seals := rfl
@[simp] theorem State.putAsid_cohorts (p a : Nat) (x : AsidEnt) : (s.putAsid p a x).cohorts = s.cohorts := rfl
@[simp] theorem State.putAsid_clusters (p a : Nat) (x : AsidEnt) : (s.putAsid p a x).clusters = s.clusters := rfl
@[simp] theorem State.putAsid_dies (p a : Nat) (x : AsidEnt) : (s.putAsid p a x).dies = s.dies := rfl
@[simp] theorem State.putAsid_homes (p a : Nat) (x : AsidEnt) : (s.putAsid p a x).homes = s.homes := rfl
@[simp] theorem State.putAsid_flight (p a : Nat) (x : AsidEnt) : (s.putAsid p a x).flight = s.flight := rfl
@[simp] theorem State.putAsid_attempts (p a : Nat) (x : AsidEnt) : (s.putAsid p a x).attempts = s.attempts := rfl
@[simp] theorem State.putAsid_owners (p a : Nat) (x : AsidEnt) : (s.putAsid p a x).owners = s.owners := rfl
@[simp] theorem State.putAsid_descs (p a : Nat) (x : AsidEnt) : (s.putAsid p a x).descs = s.descs := rfl
@[simp] theorem State.putAsid_slots (p a : Nat) (x : AsidEnt) : (s.putAsid p a x).slots = s.slots := rfl
@[simp] theorem State.putAsid_ctrs (p a : Nat) (x : AsidEnt) : (s.putAsid p a x).ctrs = s.ctrs := rfl
@[simp] theorem State.putAsid_amsgs (p a : Nat) (x : AsidEnt) : (s.putAsid p a x).amsgs = s.amsgs := rfl
@[simp] theorem State.putAsid_colldirs (p a : Nat) (x : AsidEnt) : (s.putAsid p a x).colldirs = s.colldirs := rfl
@[simp] theorem State.putAsid_carb (p a : Nat) (x : AsidEnt) : (s.putAsid p a x).carb = s.carb := rfl
@[simp] theorem State.putAsid_ports (p a : Nat) (x : AsidEnt) : (s.putAsid p a x).ports = s.ports := rfl
@[simp] theorem State.putAsid_flowcfg (p a : Nat) (x : AsidEnt) : (s.putAsid p a x).flowcfg = s.flowcfg := rfl
@[simp] theorem State.putAsid_worlds (p a : Nat) (x : AsidEnt) : (s.putAsid p a x).worlds = s.worlds := rfl
@[simp] theorem State.putAsid_order (p a : Nat) (x : AsidEnt) : (s.putAsid p a x).order = s.order := rfl
@[simp] theorem State.putAsid_refused (p a : Nat) (x : AsidEnt) : (s.putAsid p a x).refused = s.refused := rfl
@[simp] theorem State.putAsid_refusals (p a : Nat) (x : AsidEnt) : (s.putAsid p a x).refusals = s.refusals := rfl
@[simp] theorem State.putAsid_cpStop (p a : Nat) (x : AsidEnt) : (s.putAsid p a x).cpStop = s.cpStop := rfl
@[simp] theorem State.putAsid_msis (p a : Nat) (x : AsidEnt) : (s.putAsid p a x).msis = s.msis := rfl
@[simp] theorem State.putAsid_snaps (p a : Nat) (x : AsidEnt) : (s.putAsid p a x).snaps = s.snaps := rfl
@[simp] theorem State.putAsid_counters (p a : Nat) (x : AsidEnt) : (s.putAsid p a x).counters = s.counters := rfl
@[simp] theorem State.putAsid_records (p a : Nat) (x : AsidEnt) : (s.putAsid p a x).records = s.records := rfl
@[simp] theorem State.putAsid_owlOut (p a : Nat) (x : AsidEnt) : (s.putAsid p a x).owlOut = s.owlOut := rfl
@[simp] theorem State.putAsid_pkgs (p a : Nat) (x : AsidEnt) : (s.putAsid p a x).pkgs = s.pkgs := rfl
@[simp] theorem State.putAsid_launches (p a : Nat) (x : AsidEnt) : (s.putAsid p a x).launches = s.launches := rfl
@[simp] theorem State.putAsid_saved (p a : Nat) (x : AsidEnt) : (s.putAsid p a x).saved = s.saved := rfl
@[simp] theorem State.putAsid_gmsgs (p a : Nat) (x : AsidEnt) : (s.putAsid p a x).gmsgs = s.gmsgs := rfl
@[simp] theorem State.putAsid_nextKey (p a : Nat) (x : AsidEnt) : (s.putAsid p a x).nextKey = s.nextKey := rfl
@[simp] theorem State.putAsid_domain (p a : Nat) (x : AsidEnt) : (s.putAsid p a x).domain = s.domain := rfl
@[simp] theorem State.putAsid_lost (p a : Nat) (x : AsidEnt) : (s.putAsid p a x).lost = s.lost := rfl
@[simp] theorem State.putAsid_decls (p a : Nat) (x : AsidEnt) : (s.putAsid p a x).decls = s.decls := rfl
@[simp] theorem State.putAsid_partner (p a : Nat) (x : AsidEnt) : (s.putAsid p a x).partner = s.partner := rfl
@[simp] theorem State.putAsid_clock (p a : Nat) (x : AsidEnt) : (s.putAsid p a x).clock = s.clock := rfl
@[simp] theorem State.putAsid_cur (p a : Nat) (x : AsidEnt) : (s.putAsid p a x).cur = s.cur := rfl
@[simp] theorem State.putAsid_agenda (p a : Nat) (x : AsidEnt) : (s.putAsid p a x).agenda = s.agenda := rfl
@[simp] theorem State.putAsid_turn (p a : Nat) (x : AsidEnt) : (s.putAsid p a x).turn = s.turn := rfl
@[simp] theorem State.putAsid_free (p a : Nat) (x : AsidEnt) : (s.putAsid p a x).free = s.free := rfl

@[simp] theorem State.putPkg_groups (p : Nat) (x : Pkg) : (s.putPkg p x).groups = s.groups := rfl
@[simp] theorem State.putPkg_cores (p : Nat) (x : Pkg) : (s.putPkg p x).cores = s.cores := rfl
@[simp] theorem State.putPkg_mem (p : Nat) (x : Pkg) : (s.putPkg p x).mem = s.mem := rfl
@[simp] theorem State.putPkg_seals (p : Nat) (x : Pkg) : (s.putPkg p x).seals = s.seals := rfl
@[simp] theorem State.putPkg_cohorts (p : Nat) (x : Pkg) : (s.putPkg p x).cohorts = s.cohorts := rfl
@[simp] theorem State.putPkg_clusters (p : Nat) (x : Pkg) : (s.putPkg p x).clusters = s.clusters := rfl
@[simp] theorem State.putPkg_dies (p : Nat) (x : Pkg) : (s.putPkg p x).dies = s.dies := rfl
@[simp] theorem State.putPkg_homes (p : Nat) (x : Pkg) : (s.putPkg p x).homes = s.homes := rfl
@[simp] theorem State.putPkg_flight (p : Nat) (x : Pkg) : (s.putPkg p x).flight = s.flight := rfl
@[simp] theorem State.putPkg_attempts (p : Nat) (x : Pkg) : (s.putPkg p x).attempts = s.attempts := rfl
@[simp] theorem State.putPkg_owners (p : Nat) (x : Pkg) : (s.putPkg p x).owners = s.owners := rfl
@[simp] theorem State.putPkg_asids (p : Nat) (x : Pkg) : (s.putPkg p x).asids = s.asids := rfl
@[simp] theorem State.putPkg_descs (p : Nat) (x : Pkg) : (s.putPkg p x).descs = s.descs := rfl
@[simp] theorem State.putPkg_slots (p : Nat) (x : Pkg) : (s.putPkg p x).slots = s.slots := rfl
@[simp] theorem State.putPkg_ctrs (p : Nat) (x : Pkg) : (s.putPkg p x).ctrs = s.ctrs := rfl
@[simp] theorem State.putPkg_amsgs (p : Nat) (x : Pkg) : (s.putPkg p x).amsgs = s.amsgs := rfl
@[simp] theorem State.putPkg_colldirs (p : Nat) (x : Pkg) : (s.putPkg p x).colldirs = s.colldirs := rfl
@[simp] theorem State.putPkg_carb (p : Nat) (x : Pkg) : (s.putPkg p x).carb = s.carb := rfl
@[simp] theorem State.putPkg_ports (p : Nat) (x : Pkg) : (s.putPkg p x).ports = s.ports := rfl
@[simp] theorem State.putPkg_flowcfg (p : Nat) (x : Pkg) : (s.putPkg p x).flowcfg = s.flowcfg := rfl
@[simp] theorem State.putPkg_worlds (p : Nat) (x : Pkg) : (s.putPkg p x).worlds = s.worlds := rfl
@[simp] theorem State.putPkg_order (p : Nat) (x : Pkg) : (s.putPkg p x).order = s.order := rfl
@[simp] theorem State.putPkg_refused (p : Nat) (x : Pkg) : (s.putPkg p x).refused = s.refused := rfl
@[simp] theorem State.putPkg_refusals (p : Nat) (x : Pkg) : (s.putPkg p x).refusals = s.refusals := rfl
@[simp] theorem State.putPkg_cpStop (p : Nat) (x : Pkg) : (s.putPkg p x).cpStop = s.cpStop := rfl
@[simp] theorem State.putPkg_msis (p : Nat) (x : Pkg) : (s.putPkg p x).msis = s.msis := rfl
@[simp] theorem State.putPkg_snaps (p : Nat) (x : Pkg) : (s.putPkg p x).snaps = s.snaps := rfl
@[simp] theorem State.putPkg_counters (p : Nat) (x : Pkg) : (s.putPkg p x).counters = s.counters := rfl
@[simp] theorem State.putPkg_records (p : Nat) (x : Pkg) : (s.putPkg p x).records = s.records := rfl
@[simp] theorem State.putPkg_owlOut (p : Nat) (x : Pkg) : (s.putPkg p x).owlOut = s.owlOut := rfl
@[simp] theorem State.putPkg_launches (p : Nat) (x : Pkg) : (s.putPkg p x).launches = s.launches := rfl
@[simp] theorem State.putPkg_saved (p : Nat) (x : Pkg) : (s.putPkg p x).saved = s.saved := rfl
@[simp] theorem State.putPkg_gmsgs (p : Nat) (x : Pkg) : (s.putPkg p x).gmsgs = s.gmsgs := rfl
@[simp] theorem State.putPkg_nextKey (p : Nat) (x : Pkg) : (s.putPkg p x).nextKey = s.nextKey := rfl
@[simp] theorem State.putPkg_domain (p : Nat) (x : Pkg) : (s.putPkg p x).domain = s.domain := rfl
@[simp] theorem State.putPkg_lost (p : Nat) (x : Pkg) : (s.putPkg p x).lost = s.lost := rfl
@[simp] theorem State.putPkg_decls (p : Nat) (x : Pkg) : (s.putPkg p x).decls = s.decls := rfl
@[simp] theorem State.putPkg_partner (p : Nat) (x : Pkg) : (s.putPkg p x).partner = s.partner := rfl
@[simp] theorem State.putPkg_clock (p : Nat) (x : Pkg) : (s.putPkg p x).clock = s.clock := rfl
@[simp] theorem State.putPkg_cur (p : Nat) (x : Pkg) : (s.putPkg p x).cur = s.cur := rfl
@[simp] theorem State.putPkg_agenda (p : Nat) (x : Pkg) : (s.putPkg p x).agenda = s.agenda := rfl
@[simp] theorem State.putPkg_turn (p : Nat) (x : Pkg) : (s.putPkg p x).turn = s.turn := rfl
@[simp] theorem State.putPkg_free (p : Nat) (x : Pkg) : (s.putPkg p x).free = s.free := rfl

@[simp] theorem State.putPort_groups (p n : Nat) (x : Port) : (s.putPort p n x).groups = s.groups := rfl
@[simp] theorem State.putPort_cores (p n : Nat) (x : Port) : (s.putPort p n x).cores = s.cores := rfl
@[simp] theorem State.putPort_mem (p n : Nat) (x : Port) : (s.putPort p n x).mem = s.mem := rfl
@[simp] theorem State.putPort_seals (p n : Nat) (x : Port) : (s.putPort p n x).seals = s.seals := rfl
@[simp] theorem State.putPort_cohorts (p n : Nat) (x : Port) : (s.putPort p n x).cohorts = s.cohorts := rfl
@[simp] theorem State.putPort_clusters (p n : Nat) (x : Port) : (s.putPort p n x).clusters = s.clusters := rfl
@[simp] theorem State.putPort_dies (p n : Nat) (x : Port) : (s.putPort p n x).dies = s.dies := rfl
@[simp] theorem State.putPort_homes (p n : Nat) (x : Port) : (s.putPort p n x).homes = s.homes := rfl
@[simp] theorem State.putPort_flight (p n : Nat) (x : Port) : (s.putPort p n x).flight = s.flight := rfl
@[simp] theorem State.putPort_attempts (p n : Nat) (x : Port) : (s.putPort p n x).attempts = s.attempts := rfl
@[simp] theorem State.putPort_owners (p n : Nat) (x : Port) : (s.putPort p n x).owners = s.owners := rfl
@[simp] theorem State.putPort_asids (p n : Nat) (x : Port) : (s.putPort p n x).asids = s.asids := rfl
@[simp] theorem State.putPort_descs (p n : Nat) (x : Port) : (s.putPort p n x).descs = s.descs := rfl
@[simp] theorem State.putPort_slots (p n : Nat) (x : Port) : (s.putPort p n x).slots = s.slots := rfl
@[simp] theorem State.putPort_ctrs (p n : Nat) (x : Port) : (s.putPort p n x).ctrs = s.ctrs := rfl
@[simp] theorem State.putPort_amsgs (p n : Nat) (x : Port) : (s.putPort p n x).amsgs = s.amsgs := rfl
@[simp] theorem State.putPort_colldirs (p n : Nat) (x : Port) : (s.putPort p n x).colldirs = s.colldirs := rfl
@[simp] theorem State.putPort_carb (p n : Nat) (x : Port) : (s.putPort p n x).carb = s.carb := rfl
@[simp] theorem State.putPort_flowcfg (p n : Nat) (x : Port) : (s.putPort p n x).flowcfg = s.flowcfg := rfl
@[simp] theorem State.putPort_worlds (p n : Nat) (x : Port) : (s.putPort p n x).worlds = s.worlds := rfl
@[simp] theorem State.putPort_order (p n : Nat) (x : Port) : (s.putPort p n x).order = s.order := rfl
@[simp] theorem State.putPort_refused (p n : Nat) (x : Port) : (s.putPort p n x).refused = s.refused := rfl
@[simp] theorem State.putPort_refusals (p n : Nat) (x : Port) : (s.putPort p n x).refusals = s.refusals := rfl
@[simp] theorem State.putPort_cpStop (p n : Nat) (x : Port) : (s.putPort p n x).cpStop = s.cpStop := rfl
@[simp] theorem State.putPort_msis (p n : Nat) (x : Port) : (s.putPort p n x).msis = s.msis := rfl
@[simp] theorem State.putPort_snaps (p n : Nat) (x : Port) : (s.putPort p n x).snaps = s.snaps := rfl
@[simp] theorem State.putPort_counters (p n : Nat) (x : Port) : (s.putPort p n x).counters = s.counters := rfl
@[simp] theorem State.putPort_records (p n : Nat) (x : Port) : (s.putPort p n x).records = s.records := rfl
@[simp] theorem State.putPort_owlOut (p n : Nat) (x : Port) : (s.putPort p n x).owlOut = s.owlOut := rfl
@[simp] theorem State.putPort_pkgs (p n : Nat) (x : Port) : (s.putPort p n x).pkgs = s.pkgs := rfl
@[simp] theorem State.putPort_launches (p n : Nat) (x : Port) : (s.putPort p n x).launches = s.launches := rfl
@[simp] theorem State.putPort_saved (p n : Nat) (x : Port) : (s.putPort p n x).saved = s.saved := rfl
@[simp] theorem State.putPort_gmsgs (p n : Nat) (x : Port) : (s.putPort p n x).gmsgs = s.gmsgs := rfl
@[simp] theorem State.putPort_nextKey (p n : Nat) (x : Port) : (s.putPort p n x).nextKey = s.nextKey := rfl
@[simp] theorem State.putPort_domain (p n : Nat) (x : Port) : (s.putPort p n x).domain = s.domain := rfl
@[simp] theorem State.putPort_lost (p n : Nat) (x : Port) : (s.putPort p n x).lost = s.lost := rfl
@[simp] theorem State.putPort_decls (p n : Nat) (x : Port) : (s.putPort p n x).decls = s.decls := rfl
@[simp] theorem State.putPort_partner (p n : Nat) (x : Port) : (s.putPort p n x).partner = s.partner := rfl
@[simp] theorem State.putPort_clock (p n : Nat) (x : Port) : (s.putPort p n x).clock = s.clock := rfl
@[simp] theorem State.putPort_cur (p n : Nat) (x : Port) : (s.putPort p n x).cur = s.cur := rfl
@[simp] theorem State.putPort_agenda (p n : Nat) (x : Port) : (s.putPort p n x).agenda = s.agenda := rfl
@[simp] theorem State.putPort_turn (p n : Nat) (x : Port) : (s.putPort p n x).turn = s.turn := rfl
@[simp] theorem State.putPort_free (p n : Nat) (x : Port) : (s.putPort p n x).free = s.free := rfl

@[simp] theorem State.putSnap_groups (p : Nat) (x : Snap) : (s.putSnap p x).groups = s.groups := rfl
@[simp] theorem State.putSnap_cores (p : Nat) (x : Snap) : (s.putSnap p x).cores = s.cores := rfl
@[simp] theorem State.putSnap_mem (p : Nat) (x : Snap) : (s.putSnap p x).mem = s.mem := rfl
@[simp] theorem State.putSnap_seals (p : Nat) (x : Snap) : (s.putSnap p x).seals = s.seals := rfl
@[simp] theorem State.putSnap_cohorts (p : Nat) (x : Snap) : (s.putSnap p x).cohorts = s.cohorts := rfl
@[simp] theorem State.putSnap_clusters (p : Nat) (x : Snap) : (s.putSnap p x).clusters = s.clusters := rfl
@[simp] theorem State.putSnap_dies (p : Nat) (x : Snap) : (s.putSnap p x).dies = s.dies := rfl
@[simp] theorem State.putSnap_homes (p : Nat) (x : Snap) : (s.putSnap p x).homes = s.homes := rfl
@[simp] theorem State.putSnap_flight (p : Nat) (x : Snap) : (s.putSnap p x).flight = s.flight := rfl
@[simp] theorem State.putSnap_attempts (p : Nat) (x : Snap) : (s.putSnap p x).attempts = s.attempts := rfl
@[simp] theorem State.putSnap_owners (p : Nat) (x : Snap) : (s.putSnap p x).owners = s.owners := rfl
@[simp] theorem State.putSnap_asids (p : Nat) (x : Snap) : (s.putSnap p x).asids = s.asids := rfl
@[simp] theorem State.putSnap_descs (p : Nat) (x : Snap) : (s.putSnap p x).descs = s.descs := rfl
@[simp] theorem State.putSnap_slots (p : Nat) (x : Snap) : (s.putSnap p x).slots = s.slots := rfl
@[simp] theorem State.putSnap_ctrs (p : Nat) (x : Snap) : (s.putSnap p x).ctrs = s.ctrs := rfl
@[simp] theorem State.putSnap_amsgs (p : Nat) (x : Snap) : (s.putSnap p x).amsgs = s.amsgs := rfl
@[simp] theorem State.putSnap_colldirs (p : Nat) (x : Snap) : (s.putSnap p x).colldirs = s.colldirs := rfl
@[simp] theorem State.putSnap_carb (p : Nat) (x : Snap) : (s.putSnap p x).carb = s.carb := rfl
@[simp] theorem State.putSnap_ports (p : Nat) (x : Snap) : (s.putSnap p x).ports = s.ports := rfl
@[simp] theorem State.putSnap_flowcfg (p : Nat) (x : Snap) : (s.putSnap p x).flowcfg = s.flowcfg := rfl
@[simp] theorem State.putSnap_worlds (p : Nat) (x : Snap) : (s.putSnap p x).worlds = s.worlds := rfl
@[simp] theorem State.putSnap_order (p : Nat) (x : Snap) : (s.putSnap p x).order = s.order := rfl
@[simp] theorem State.putSnap_refused (p : Nat) (x : Snap) : (s.putSnap p x).refused = s.refused := rfl
@[simp] theorem State.putSnap_refusals (p : Nat) (x : Snap) : (s.putSnap p x).refusals = s.refusals := rfl
@[simp] theorem State.putSnap_cpStop (p : Nat) (x : Snap) : (s.putSnap p x).cpStop = s.cpStop := rfl
@[simp] theorem State.putSnap_msis (p : Nat) (x : Snap) : (s.putSnap p x).msis = s.msis := rfl
@[simp] theorem State.putSnap_counters (p : Nat) (x : Snap) : (s.putSnap p x).counters = s.counters := rfl
@[simp] theorem State.putSnap_records (p : Nat) (x : Snap) : (s.putSnap p x).records = s.records := rfl
@[simp] theorem State.putSnap_owlOut (p : Nat) (x : Snap) : (s.putSnap p x).owlOut = s.owlOut := rfl
@[simp] theorem State.putSnap_pkgs (p : Nat) (x : Snap) : (s.putSnap p x).pkgs = s.pkgs := rfl
@[simp] theorem State.putSnap_launches (p : Nat) (x : Snap) : (s.putSnap p x).launches = s.launches := rfl
@[simp] theorem State.putSnap_saved (p : Nat) (x : Snap) : (s.putSnap p x).saved = s.saved := rfl
@[simp] theorem State.putSnap_gmsgs (p : Nat) (x : Snap) : (s.putSnap p x).gmsgs = s.gmsgs := rfl
@[simp] theorem State.putSnap_nextKey (p : Nat) (x : Snap) : (s.putSnap p x).nextKey = s.nextKey := rfl
@[simp] theorem State.putSnap_domain (p : Nat) (x : Snap) : (s.putSnap p x).domain = s.domain := rfl
@[simp] theorem State.putSnap_lost (p : Nat) (x : Snap) : (s.putSnap p x).lost = s.lost := rfl
@[simp] theorem State.putSnap_decls (p : Nat) (x : Snap) : (s.putSnap p x).decls = s.decls := rfl
@[simp] theorem State.putSnap_partner (p : Nat) (x : Snap) : (s.putSnap p x).partner = s.partner := rfl
@[simp] theorem State.putSnap_clock (p : Nat) (x : Snap) : (s.putSnap p x).clock = s.clock := rfl
@[simp] theorem State.putSnap_cur (p : Nat) (x : Snap) : (s.putSnap p x).cur = s.cur := rfl
@[simp] theorem State.putSnap_agenda (p : Nat) (x : Snap) : (s.putSnap p x).agenda = s.agenda := rfl
@[simp] theorem State.putSnap_turn (p : Nat) (x : Snap) : (s.putSnap p x).turn = s.turn := rfl
@[simp] theorem State.putSnap_free (p : Nat) (x : Snap) : (s.putSnap p x).free = s.free := rfl

@[simp] theorem State.putKey_groups (p k : Nat) (x : KeySlot) : (s.putKey p k x).groups = s.groups := rfl
@[simp] theorem State.putKey_cores (p k : Nat) (x : KeySlot) : (s.putKey p k x).cores = s.cores := rfl
@[simp] theorem State.putKey_mem (p k : Nat) (x : KeySlot) : (s.putKey p k x).mem = s.mem := rfl
@[simp] theorem State.putKey_seals (p k : Nat) (x : KeySlot) : (s.putKey p k x).seals = s.seals := rfl
@[simp] theorem State.putKey_cohorts (p k : Nat) (x : KeySlot) : (s.putKey p k x).cohorts = s.cohorts := rfl
@[simp] theorem State.putKey_clusters (p k : Nat) (x : KeySlot) : (s.putKey p k x).clusters = s.clusters := rfl
@[simp] theorem State.putKey_dies (p k : Nat) (x : KeySlot) : (s.putKey p k x).dies = s.dies := rfl
@[simp] theorem State.putKey_homes (p k : Nat) (x : KeySlot) : (s.putKey p k x).homes = s.homes := rfl
@[simp] theorem State.putKey_flight (p k : Nat) (x : KeySlot) : (s.putKey p k x).flight = s.flight := rfl
@[simp] theorem State.putKey_attempts (p k : Nat) (x : KeySlot) : (s.putKey p k x).attempts = s.attempts := rfl
@[simp] theorem State.putKey_owners (p k : Nat) (x : KeySlot) : (s.putKey p k x).owners = s.owners := rfl
@[simp] theorem State.putKey_asids (p k : Nat) (x : KeySlot) : (s.putKey p k x).asids = s.asids := rfl
@[simp] theorem State.putKey_descs (p k : Nat) (x : KeySlot) : (s.putKey p k x).descs = s.descs := rfl
@[simp] theorem State.putKey_ctrs (p k : Nat) (x : KeySlot) : (s.putKey p k x).ctrs = s.ctrs := rfl
@[simp] theorem State.putKey_amsgs (p k : Nat) (x : KeySlot) : (s.putKey p k x).amsgs = s.amsgs := rfl
@[simp] theorem State.putKey_colldirs (p k : Nat) (x : KeySlot) : (s.putKey p k x).colldirs = s.colldirs := rfl
@[simp] theorem State.putKey_carb (p k : Nat) (x : KeySlot) : (s.putKey p k x).carb = s.carb := rfl
@[simp] theorem State.putKey_ports (p k : Nat) (x : KeySlot) : (s.putKey p k x).ports = s.ports := rfl
@[simp] theorem State.putKey_flowcfg (p k : Nat) (x : KeySlot) : (s.putKey p k x).flowcfg = s.flowcfg := rfl
@[simp] theorem State.putKey_worlds (p k : Nat) (x : KeySlot) : (s.putKey p k x).worlds = s.worlds := rfl
@[simp] theorem State.putKey_order (p k : Nat) (x : KeySlot) : (s.putKey p k x).order = s.order := rfl
@[simp] theorem State.putKey_refused (p k : Nat) (x : KeySlot) : (s.putKey p k x).refused = s.refused := rfl
@[simp] theorem State.putKey_refusals (p k : Nat) (x : KeySlot) : (s.putKey p k x).refusals = s.refusals := rfl
@[simp] theorem State.putKey_cpStop (p k : Nat) (x : KeySlot) : (s.putKey p k x).cpStop = s.cpStop := rfl
@[simp] theorem State.putKey_msis (p k : Nat) (x : KeySlot) : (s.putKey p k x).msis = s.msis := rfl
@[simp] theorem State.putKey_snaps (p k : Nat) (x : KeySlot) : (s.putKey p k x).snaps = s.snaps := rfl
@[simp] theorem State.putKey_counters (p k : Nat) (x : KeySlot) : (s.putKey p k x).counters = s.counters := rfl
@[simp] theorem State.putKey_records (p k : Nat) (x : KeySlot) : (s.putKey p k x).records = s.records := rfl
@[simp] theorem State.putKey_owlOut (p k : Nat) (x : KeySlot) : (s.putKey p k x).owlOut = s.owlOut := rfl
@[simp] theorem State.putKey_pkgs (p k : Nat) (x : KeySlot) : (s.putKey p k x).pkgs = s.pkgs := rfl
@[simp] theorem State.putKey_launches (p k : Nat) (x : KeySlot) : (s.putKey p k x).launches = s.launches := rfl
@[simp] theorem State.putKey_saved (p k : Nat) (x : KeySlot) : (s.putKey p k x).saved = s.saved := rfl
@[simp] theorem State.putKey_gmsgs (p k : Nat) (x : KeySlot) : (s.putKey p k x).gmsgs = s.gmsgs := rfl
@[simp] theorem State.putKey_nextKey (p k : Nat) (x : KeySlot) : (s.putKey p k x).nextKey = s.nextKey := rfl
@[simp] theorem State.putKey_domain (p k : Nat) (x : KeySlot) : (s.putKey p k x).domain = s.domain := rfl
@[simp] theorem State.putKey_lost (p k : Nat) (x : KeySlot) : (s.putKey p k x).lost = s.lost := rfl
@[simp] theorem State.putKey_decls (p k : Nat) (x : KeySlot) : (s.putKey p k x).decls = s.decls := rfl
@[simp] theorem State.putKey_partner (p k : Nat) (x : KeySlot) : (s.putKey p k x).partner = s.partner := rfl
@[simp] theorem State.putKey_clock (p k : Nat) (x : KeySlot) : (s.putKey p k x).clock = s.clock := rfl
@[simp] theorem State.putKey_cur (p k : Nat) (x : KeySlot) : (s.putKey p k x).cur = s.cur := rfl
@[simp] theorem State.putKey_agenda (p k : Nat) (x : KeySlot) : (s.putKey p k x).agenda = s.agenda := rfl
@[simp] theorem State.putKey_turn (p k : Nat) (x : KeySlot) : (s.putKey p k x).turn = s.turn := rfl
@[simp] theorem State.putKey_free (p k : Nat) (x : KeySlot) : (s.putKey p k x).free = s.free := rfl

@[simp] theorem State.putHome_groups (l : Nat) (x : HomeLine) : (s.putHome l x).groups = s.groups := rfl
@[simp] theorem State.putHome_cores (l : Nat) (x : HomeLine) : (s.putHome l x).cores = s.cores := rfl
@[simp] theorem State.putHome_mem (l : Nat) (x : HomeLine) : (s.putHome l x).mem = s.mem := rfl
@[simp] theorem State.putHome_seals (l : Nat) (x : HomeLine) : (s.putHome l x).seals = s.seals := rfl
@[simp] theorem State.putHome_cohorts (l : Nat) (x : HomeLine) : (s.putHome l x).cohorts = s.cohorts := rfl
@[simp] theorem State.putHome_clusters (l : Nat) (x : HomeLine) : (s.putHome l x).clusters = s.clusters := rfl
@[simp] theorem State.putHome_dies (l : Nat) (x : HomeLine) : (s.putHome l x).dies = s.dies := rfl
@[simp] theorem State.putHome_flight (l : Nat) (x : HomeLine) : (s.putHome l x).flight = s.flight := rfl
@[simp] theorem State.putHome_attempts (l : Nat) (x : HomeLine) : (s.putHome l x).attempts = s.attempts := rfl
@[simp] theorem State.putHome_owners (l : Nat) (x : HomeLine) : (s.putHome l x).owners = s.owners := rfl
@[simp] theorem State.putHome_asids (l : Nat) (x : HomeLine) : (s.putHome l x).asids = s.asids := rfl
@[simp] theorem State.putHome_descs (l : Nat) (x : HomeLine) : (s.putHome l x).descs = s.descs := rfl
@[simp] theorem State.putHome_slots (l : Nat) (x : HomeLine) : (s.putHome l x).slots = s.slots := rfl
@[simp] theorem State.putHome_ctrs (l : Nat) (x : HomeLine) : (s.putHome l x).ctrs = s.ctrs := rfl
@[simp] theorem State.putHome_amsgs (l : Nat) (x : HomeLine) : (s.putHome l x).amsgs = s.amsgs := rfl
@[simp] theorem State.putHome_colldirs (l : Nat) (x : HomeLine) : (s.putHome l x).colldirs = s.colldirs := rfl
@[simp] theorem State.putHome_carb (l : Nat) (x : HomeLine) : (s.putHome l x).carb = s.carb := rfl
@[simp] theorem State.putHome_ports (l : Nat) (x : HomeLine) : (s.putHome l x).ports = s.ports := rfl
@[simp] theorem State.putHome_flowcfg (l : Nat) (x : HomeLine) : (s.putHome l x).flowcfg = s.flowcfg := rfl
@[simp] theorem State.putHome_worlds (l : Nat) (x : HomeLine) : (s.putHome l x).worlds = s.worlds := rfl
@[simp] theorem State.putHome_order (l : Nat) (x : HomeLine) : (s.putHome l x).order = s.order := rfl
@[simp] theorem State.putHome_refused (l : Nat) (x : HomeLine) : (s.putHome l x).refused = s.refused := rfl
@[simp] theorem State.putHome_refusals (l : Nat) (x : HomeLine) : (s.putHome l x).refusals = s.refusals := rfl
@[simp] theorem State.putHome_cpStop (l : Nat) (x : HomeLine) : (s.putHome l x).cpStop = s.cpStop := rfl
@[simp] theorem State.putHome_msis (l : Nat) (x : HomeLine) : (s.putHome l x).msis = s.msis := rfl
@[simp] theorem State.putHome_snaps (l : Nat) (x : HomeLine) : (s.putHome l x).snaps = s.snaps := rfl
@[simp] theorem State.putHome_counters (l : Nat) (x : HomeLine) : (s.putHome l x).counters = s.counters := rfl
@[simp] theorem State.putHome_records (l : Nat) (x : HomeLine) : (s.putHome l x).records = s.records := rfl
@[simp] theorem State.putHome_owlOut (l : Nat) (x : HomeLine) : (s.putHome l x).owlOut = s.owlOut := rfl
@[simp] theorem State.putHome_pkgs (l : Nat) (x : HomeLine) : (s.putHome l x).pkgs = s.pkgs := rfl
@[simp] theorem State.putHome_launches (l : Nat) (x : HomeLine) : (s.putHome l x).launches = s.launches := rfl
@[simp] theorem State.putHome_saved (l : Nat) (x : HomeLine) : (s.putHome l x).saved = s.saved := rfl
@[simp] theorem State.putHome_gmsgs (l : Nat) (x : HomeLine) : (s.putHome l x).gmsgs = s.gmsgs := rfl
@[simp] theorem State.putHome_nextKey (l : Nat) (x : HomeLine) : (s.putHome l x).nextKey = s.nextKey := rfl
@[simp] theorem State.putHome_domain (l : Nat) (x : HomeLine) : (s.putHome l x).domain = s.domain := rfl
@[simp] theorem State.putHome_lost (l : Nat) (x : HomeLine) : (s.putHome l x).lost = s.lost := rfl
@[simp] theorem State.putHome_decls (l : Nat) (x : HomeLine) : (s.putHome l x).decls = s.decls := rfl
@[simp] theorem State.putHome_partner (l : Nat) (x : HomeLine) : (s.putHome l x).partner = s.partner := rfl
@[simp] theorem State.putHome_clock (l : Nat) (x : HomeLine) : (s.putHome l x).clock = s.clock := rfl
@[simp] theorem State.putHome_cur (l : Nat) (x : HomeLine) : (s.putHome l x).cur = s.cur := rfl
@[simp] theorem State.putHome_agenda (l : Nat) (x : HomeLine) : (s.putHome l x).agenda = s.agenda := rfl
@[simp] theorem State.putHome_turn (l : Nat) (x : HomeLine) : (s.putHome l x).turn = s.turn := rfl
@[simp] theorem State.putHome_free (l : Nat) (x : HomeLine) : (s.putHome l x).free = s.free := rfl

end Fields

/-! ### Reading what was written -/

section Reads

variable (s : State)

@[simp] theorem State.grp_with (g : Group) : (s.with g).grp s.cur = g := by simp [State.grp, State.with]
@[simp] theorem State.grp_putG (g : Group) : (s.putG g).grp s.cur = g := by simp [State.grp, State.putG]
@[simp] theorem State.get?_with (g : Group) : (s.with g).groups.get? s.cur = some g := by simp [State.with]
@[simp] theorem State.grp_putGrp (k : Nat) (g : Group) : (s.putGrp k g).grp k = g := by simp [State.grp, State.putGrp]
theorem State.grp_putGrp_ne {k j : Nat} (g : Group) (h : j ≠ k) : (s.putGrp k g).grp j = s.grp j := by
  simp [State.grp, State.putGrp, Tab.getD_put_ne, h]
@[simp] theorem State.core_putCore (k : Nat) (x : Core) : (s.putCore k x).core k = x := by simp [State.core, State.putCore]
theorem State.core_putCore_ne {k j : Nat} (x : Core) (h : j ≠ k) : (s.putCore k x).core j = s.core j := by
  simp [State.core, State.putCore, Tab.getD_put_ne, h]
@[simp] theorem State.die_putDie (k : Nat) (x : Die) : (s.putDie k x).die k = x := by simp [State.die, State.putDie]
theorem State.die_putDie_ne {k j : Nat} (x : Die) (h : j ≠ k) : (s.putDie k x).die j = s.die j := by
  simp [State.die, State.putDie, Tab.getD_put_ne, h]
@[simp] theorem State.cluster_putCluster (k : Nat) (x : Cluster) : (s.putCluster k x).cluster k = x := by simp [State.cluster, State.putCluster]
theorem State.cluster_putCluster_ne {k j : Nat} (x : Cluster) (h : j ≠ k) : (s.putCluster k x).cluster j = s.cluster j := by
  simp [State.cluster, State.putCluster, Tab.getD_put_ne, h]
@[simp] theorem State.pkg_putPkg (p : Nat) (x : Pkg) : (s.putPkg p x).pkg p = x := by simp [State.pkg, State.putPkg]
theorem State.pkg_putPkg_ne {p q : Nat} (x : Pkg) (h : q ≠ p) : (s.putPkg p x).pkg q = s.pkg q := by
  simp [State.pkg, State.putPkg, Tab.getD_put_ne, h]
@[simp] theorem State.asid_putAsid (p a : Nat) (x : AsidEnt) : (s.putAsid p a x).asid p a = x := by simp [State.asid, State.putAsid]
@[simp] theorem State.port_putPort (p n : Nat) (x : Port) : (s.putPort p n x).port p n = x := by simp [State.port, State.putPort]
@[simp] theorem State.snap_putSnap (p : Nat) (x : Snap) : (s.putSnap p x).snap p = x := by simp [State.snap, State.putSnap]
@[simp] theorem State.slot_putKey (p k : Nat) (x : KeySlot) : (s.putKey p k x).slot p k = x := by simp [State.slot, State.putKey]
@[simp] theorem State.putDie_putDie (k : Nat) (x y : Die) : (s.putDie k x).putDie k y = s.putDie k y := by simp [State.putDie]
@[simp] theorem State.putPkg_putPkg (p : Nat) (x y : Pkg) : (s.putPkg p x).putPkg p y = s.putPkg p y := by simp [State.putPkg]
@[simp] theorem State.putPort_putPort (p n : Nat) (x y : Port) : (s.putPort p n x).putPort p n y = s.putPort p n y := by simp [State.putPort]

end Reads

/-! ### The group after an instruction -/

section GroupFields

variable (g : Group) (c : Clause) (outs : List (Nat × Word)) (p : Pend) (a : Dword)

@[simp] theorem Group.wrote_info : (g.wrote c outs).info = g.info := rfl
@[simp] theorem Group.wrote_id : (g.wrote c outs).id = g.id := rfl
@[simp] theorem Group.wrote_cohort : (g.wrote c outs).cohort = g.cohort := rfl
@[simp] theorem Group.wrote_cohortNum : (g.wrote c outs).cohortNum = g.cohortNum := rfl
@[simp] theorem Group.wrote_num : (g.wrote c outs).num = g.num := rfl
@[simp] theorem Group.wrote_coords : (g.wrote c outs).coords = g.coords := rfl
@[simp] theorem Group.wrote_core : (g.wrote c outs).core = g.core := rfl
@[simp] theorem Group.wrote_slot : (g.wrote c outs).slot = g.slot := rfl
@[simp] theorem Group.wrote_em : (g.wrote c outs).em = g.em := rfl
@[simp] theorem Group.wrote_k : (g.wrote c outs).k = g.k := rfl
@[simp] theorem Group.wrote_x : (g.wrote c outs).x = g.x := rfl
@[simp] theorem Group.wrote_flags : (g.wrote c outs).flags = g.flags := rfl
@[simp] theorem Group.wrote_ahead : (g.wrote c outs).ahead = g.ahead := rfl
@[simp] theorem Group.wrote_pend : (g.wrote c outs).pend = g.pend := rfl
@[simp] theorem Group.wrote_trap : (g.wrote c outs).trap = g.trap := rfl
@[simp] theorem Group.wrote_prec : (g.wrote c outs).prec = g.prec := rfl
@[simp] theorem Group.wrote_vpstat : (g.wrote c outs).vpstat = g.vpstat := rfl
@[simp] theorem Group.wrote_region : (g.wrote c outs).region = g.region := rfl
@[simp] theorem Group.wrote_resv : (g.wrote c outs).resv = g.resv := rfl
@[simp] theorem Group.wrote_batches : (g.wrote c outs).batches = g.batches := rfl
@[simp] theorem Group.wrote_ratoms : (g.wrote c outs).ratoms = g.ratoms := rfl
@[simp] theorem Group.wrote_stores : (g.wrote c outs).stores = g.stores := rfl
@[simp] theorem Group.wrote_landed : (g.wrote c outs).landed = g.landed := rfl
@[simp] theorem Group.wrote_comm : (g.wrote c outs).comm = g.comm := rfl
@[simp] theorem Group.wrote_lostPkg : (g.wrote c outs).lostPkg = g.lostPkg := rfl
@[simp] theorem Group.wrote_gives : (g.wrote c outs).gives = g.gives := rfl
@[simp] theorem Group.wrote_privBase : (g.wrote c outs).privBase = g.privBase := rfl
@[simp] theorem Group.wrote_uncleared : (g.wrote c outs).uncleared = g.uncleared := rfl
@[simp] theorem Group.wrote_ecc : (g.wrote c outs).ecc = g.ecc := rfl
@[simp] theorem Group.wrote_tally : (g.wrote c outs).tally = g.tally := rfl
@[simp] theorem Group.wrote_deny : (g.wrote c outs).deny = g.deny := rfl
@[simp] theorem Group.wrote_run : (g.wrote c outs).run = g.run := rfl
@[simp] theorem Group.jumped_info : (g.jumped c outs a).info = g.info := rfl
@[simp] theorem Group.jumped_id : (g.jumped c outs a).id = g.id := rfl
@[simp] theorem Group.jumped_cohort : (g.jumped c outs a).cohort = g.cohort := rfl
@[simp] theorem Group.jumped_cohortNum : (g.jumped c outs a).cohortNum = g.cohortNum := rfl
@[simp] theorem Group.jumped_num : (g.jumped c outs a).num = g.num := rfl
@[simp] theorem Group.jumped_coords : (g.jumped c outs a).coords = g.coords := rfl
@[simp] theorem Group.jumped_core : (g.jumped c outs a).core = g.core := rfl
@[simp] theorem Group.jumped_slot : (g.jumped c outs a).slot = g.slot := rfl
@[simp] theorem Group.jumped_em : (g.jumped c outs a).em = g.em := rfl
@[simp] theorem Group.jumped_k : (g.jumped c outs a).k = g.k := rfl
@[simp] theorem Group.jumped_x : (g.jumped c outs a).x = g.x := rfl
@[simp] theorem Group.jumped_flags : (g.jumped c outs a).flags = g.flags := rfl
@[simp] theorem Group.jumped_ahead : (g.jumped c outs a).ahead = g.ahead := rfl
@[simp] theorem Group.jumped_pend : (g.jumped c outs a).pend = g.pend := rfl
@[simp] theorem Group.jumped_trap : (g.jumped c outs a).trap = g.trap := rfl
@[simp] theorem Group.jumped_prec : (g.jumped c outs a).prec = g.prec := rfl
@[simp] theorem Group.jumped_vpstat : (g.jumped c outs a).vpstat = g.vpstat := rfl
@[simp] theorem Group.jumped_region : (g.jumped c outs a).region = g.region := rfl
@[simp] theorem Group.jumped_resv : (g.jumped c outs a).resv = g.resv := rfl
@[simp] theorem Group.jumped_batches : (g.jumped c outs a).batches = g.batches := rfl
@[simp] theorem Group.jumped_ratoms : (g.jumped c outs a).ratoms = g.ratoms := rfl
@[simp] theorem Group.jumped_stores : (g.jumped c outs a).stores = g.stores := rfl
@[simp] theorem Group.jumped_landed : (g.jumped c outs a).landed = g.landed := rfl
@[simp] theorem Group.jumped_comm : (g.jumped c outs a).comm = g.comm := rfl
@[simp] theorem Group.jumped_lostPkg : (g.jumped c outs a).lostPkg = g.lostPkg := rfl
@[simp] theorem Group.jumped_gives : (g.jumped c outs a).gives = g.gives := rfl
@[simp] theorem Group.jumped_privBase : (g.jumped c outs a).privBase = g.privBase := rfl
@[simp] theorem Group.jumped_uncleared : (g.jumped c outs a).uncleared = g.uncleared := rfl
@[simp] theorem Group.jumped_ecc : (g.jumped c outs a).ecc = g.ecc := rfl
@[simp] theorem Group.jumped_tally : (g.jumped c outs a).tally = g.tally := rfl
@[simp] theorem Group.jumped_deny : (g.jumped c outs a).deny = g.deny := rfl
@[simp] theorem Group.jumped_run : (g.jumped c outs a).run = g.run := rfl
@[simp] theorem Group.started_info : (g.started c p).info = g.info := rfl
@[simp] theorem Group.started_id : (g.started c p).id = g.id := rfl
@[simp] theorem Group.started_cohort : (g.started c p).cohort = g.cohort := rfl
@[simp] theorem Group.started_cohortNum : (g.started c p).cohortNum = g.cohortNum := rfl
@[simp] theorem Group.started_num : (g.started c p).num = g.num := rfl
@[simp] theorem Group.started_coords : (g.started c p).coords = g.coords := rfl
@[simp] theorem Group.started_core : (g.started c p).core = g.core := rfl
@[simp] theorem Group.started_slot : (g.started c p).slot = g.slot := rfl
@[simp] theorem Group.started_em : (g.started c p).em = g.em := rfl
@[simp] theorem Group.started_k : (g.started c p).k = g.k := rfl
@[simp] theorem Group.started_x : (g.started c p).x = g.x := rfl
@[simp] theorem Group.started_ahead : (g.started c p).ahead = g.ahead := rfl
@[simp] theorem Group.started_trap : (g.started c p).trap = g.trap := rfl
@[simp] theorem Group.started_prec : (g.started c p).prec = g.prec := rfl
@[simp] theorem Group.started_vpstat : (g.started c p).vpstat = g.vpstat := rfl
@[simp] theorem Group.started_region : (g.started c p).region = g.region := rfl
@[simp] theorem Group.started_resv : (g.started c p).resv = g.resv := rfl
@[simp] theorem Group.started_batches : (g.started c p).batches = g.batches := rfl
@[simp] theorem Group.started_ratoms : (g.started c p).ratoms = g.ratoms := rfl
@[simp] theorem Group.started_stores : (g.started c p).stores = g.stores := rfl
@[simp] theorem Group.started_landed : (g.started c p).landed = g.landed := rfl
@[simp] theorem Group.started_comm : (g.started c p).comm = g.comm := rfl
@[simp] theorem Group.started_lostPkg : (g.started c p).lostPkg = g.lostPkg := rfl
@[simp] theorem Group.started_gives : (g.started c p).gives = g.gives := rfl
@[simp] theorem Group.started_privBase : (g.started c p).privBase = g.privBase := rfl
@[simp] theorem Group.started_uncleared : (g.started c p).uncleared = g.uncleared := rfl
@[simp] theorem Group.started_ecc : (g.started c p).ecc = g.ecc := rfl
@[simp] theorem Group.started_tally : (g.started c p).tally = g.tally := rfl
@[simp] theorem Group.started_deny : (g.started c p).deny = g.deny := rfl
@[simp] theorem Group.started_run : (g.started c p).run = g.run := rfl

end GroupFields

end Sys2Proof.Machine
end

