-- ==== Sys2Proof/Tests/Slice0.lean ====
section
/-!
SUPPORT. Tests: the words of the spec's encodings decode to what they stand for, each check of WellFormed refuses a term, and for
every statement with hypotheses a state and operands that meet them.
-/

open Sys2Proof Sys2Proof.Machine

namespace Sys2Proof.Tests

set_option maxRecDepth 100000
set_option Elab.async false

/-! ### A small state: one group, at the only instruction of its clause -/

def tItem : Item := { addr := 0x1004, words := [0x08000000#32] }
def tC : Clause := { head := 0x1000, seta := 15, setb := 0, tmask := 0, body := [tItem], idx := 0, after := 0x1008 }
def tK : Cohort := {
  id := { handle := 1, world := true, privileged := true }, groups := [1], scrLimit := 0x40000, macros := List.range 16
  neigh := [0], neighCores := [0], chans := List.range 8, memch := List.range 8 }

def tG : Machine.Group := { placedGroup 0 with pc := 0x1004, clause := some tC }
def stOf (g : Machine.Group) : State := { groups := [(1, g)], cohorts := [(0, tK)], cur := 1 }
def tS : State := stOf tG
def tGp : Machine.Group := { tG with info := { placedRecord with prot := true }, em := 0xFF }
def Group.lane (g : Machine.Group) (n l v : Nat) : Machine.Group := { g with regs := g.regs.put (vKey n l) (BitVec.ofNat 32 v) }
def Group.uni (g : Machine.Group) (n v : Nat) : Machine.Group := { g with regs := g.regs.put (sKey n) (BitVec.ofNat 32 v) }
def Group.lanes (g : Machine.Group) (n v : Nat) : Machine.Group := (List.range 2).foldl (fun g l => Group.lane g n l v) g

/-- The pair 16 of lanes 0 and 1, the active ones, and the uniform pair 16 hold the first scratchpad address; the pairs 18 hold the
control address 0. -/
def tGm : Machine.Group := Group.uni (Group.uni (Group.uni (Group.uni (Group.lanes (Group.lanes (Group.lanes (Group.lanes { tG with em := 3 } 16 0) 17 0x80000000) 18 0) 19 0)
  16 0) 17 0x80000000) 18 0) 19 0
def tSm : State := stOf tGm
def tLd : EOps := { d := 8, a := 16 }
def tSt : EOps := { a := 16, b := 8 }

/-- Every size of a load, of a store, and of a locked access. -/
def ldSizes : List LdSz := [.b32, .b64, .b128, .u8, .s8, .u16, .s16]
def stSizes : List StSz := [.b32, .b64, .b128, .b8, .b16]
def xSizes : List XSz := [.s32, .s64]

/-- Two lanes of lane register 8, equal and different. -/
def tGsame : Machine.Group := Group.lane (Group.lane tGp 8 0 7) 8 1 7
def tGdiff : Machine.Group := Group.lane (Group.lane tGp 8 0 7) 8 1 8

/-! ### Mapped control space: its first 512 GiB lie at 2^39, for package 0 -/

def tLeaf : Dword := 0x00008000000083E3#64
def tEnt : TlbEnt := { asid := 0, tier := 1, base := 0, back := false, word := tLeaf, ent := 2 ^ 39 + 0x700000 }
/-- Numbers of n bytes at control addresses, as bytes of memory. -/
def memOf (l : List (Nat × Nat × Nat)) : Tab Byte :=
  l.foldl (fun m e => (natBytes e.2.1 e.2.2).zipIdx.foldr (fun b m => m.put (2 ^ 39 + e.1 + b.2) b.1) m) []
def mapped (s : State) (l : List (Nat × Nat × Nat)) : State :=
  { s with
    mem := memOf l
    dies := [(0, { mtlb1a := [tEnt], mtlb1b := [tEnt], mtlb2 := [tEnt] })]
    asids := [(0, { en := true }), (1, { en := true })]
    descs := [(0, { base := 0x8000000000#64, limit := 0x8040000000#64, attr := 1 })] }

/-- The first 2 MiB of die 0's tensor space lie at 0; their first 8 bytes are 5. -/
def tEntT : TlbEnt := { asid := 0, tier := 3, base := 2 ^ 41, back := false, word := 0x83E3#64, ent := 2 ^ 39 + 0x700000 }
def tensorMapped (s : State) (q : List Nat) : State :=
  { s with
    mem := (List.range 8).map (fun i => (i, 5))
    dies := [(0, { mtlb1a := [tEntT], mtlb1b := [tEntT], mtlb2 := [tEntT], wqa := q })]
    asids := [(0, { en := true })]
    descs := [(0, { base := 0, limit := 0x200000#64, attr := 0 })] }

/-! ### Meeting `Runs` -/

/-- What `Runs` asks beside the group and its clause, as one Boolean. -/
def runsB (ck : Checks) (sh : Shape) (o : EOps) (s : State) (g : Machine.Group) (c : Clause) : Bool :=
  let g0 : Machine.Group := { g with wait := .none }
  (g.run == .running) && ((g.wait == .none || g.wait == .suspended) && (!g.region.due && (!ck.hold s g0 && (shapeOk sh o && (!ck.illegal s g0 &&
  ((!sh.priv || g.id.privileged) && ((readsOf sh o ++ writesOf sh o ++ (ck.reads ++ ck.writes)).all g.regIn && (!ck.role s g0 &&
  (g.acts sh o s.free && (!g.interlocked (ck.writes ++ writesOf sh o) && ((!ck.closes || !g.regionBusy) && (g.ecc.isEmpty &&
  ((!g.trap.trapen.getLsbD 0) && (!sh.ll || decide (12 ≤ c.llFlag) || decide (g.flag c.llFlag < 15)))))))))))))))

theorem runs_of {ck : Checks} {sh : Shape} {o : EOps} {s : State} {g : Machine.Group} {c : Clause}
    (here : s.groups.get? s.cur = some g) (opened : g.clause = some c) (h : runsB ck sh o s g c = true) : Runs ck sh o s g c := by
  simp only [runsB, Bool.and_eq_true, Bool.or_eq_true, Bool.not_eq_true', beq_iff_eq, List.isEmpty_iff, decide_eq_true_eq] at h
  obtain ⟨h1, h2, h3, h4, h5, h6, h7, h8, h9, h10, h11, h12, h13, h14, h15⟩ := h
  refine ⟨here, h1, opened, h2, h3, h4, h5, h6, ?_, h8, h9, h10, h11, ?_, h13, ?_, ?_⟩
  · rcases h7 with h | h <;> simp_all
  · rcases h12 with h | h <;> simp_all
  · simp_all
  · intro hl hf; rcases h15 with (h | h) | h
    · simp_all
    · omega
    · exact h

/-- One of the checks, the shape and the operands of a witness. -/
abbrev Case := Checks × Shape × EOps

theorem runs_all {g : Machine.Group} {c : Clause} {L : List Case} {s : State} (here : s.groups.get? s.cur = some g)
    (opened : g.clause = some c) (h : L.all (fun x => runsB x.1 x.2.1 x.2.2 s g c) = true) :
    ∀ x ∈ L, Runs x.1 x.2.1 x.2.2 s g c := fun x hx =>
  runs_of here opened (List.all_eq_true.mp h x hx)

/-- A register number of a kind. -/
def regOf : OpK → BitVec 10
  | .zero => 0
  | .qd => 2
  | .kd => 2
  | .qs => 2
  | .ks => 2
  | .xi => 2
  | .vp => 2
  | .num => 2
  | .tile => 2
  | .uni16 => 16
  | _ => 8

def opsOf (sh : Shape) : EOps := { d := regOf sh.d, a := regOf sh.a, b := regOf sh.b, c := regOf sh.c }

/-- The extended form of a shape, and a base form of an opcode. -/
def tE (sh : Shape) : Case := ({}, sh, opsOf sh)
def tB3 (sh : Shape) : B3Ops :=
  { d := (regOf sh.d).setWidth 7, a := (regOf sh.a).setWidth 7, b := (regOf sh.b).setWidth 7 }
def tB (op : Nat) (sh : Shape) : Case := (b3Checks op sh (tB3 sh), sh, b3AsE op sh (tB3 sh))

/-- There is a result, and it meets a test: of an access, a fetch, an optional value, a translation. -/
def accT {α : Type} (P : State → α → Bool) (p : State × Acc α) : Bool :=
  match p.2 with
  | .ok x => P p.1 x
  | .stop _ => false
def fetchT {α : Type} (P : State → α → Bool) (p : State × FetchRes α) : Bool :=
  match p.2 with
  | .ok x => P p.1 x
  | .trap _ _ => false
  | .hold _ => false
def optT {α : Type} (P : State → α → Bool) (p : State × Option α) : Bool :=
  match p.2 with
  | some x => P p.1 x
  | none => false
def exT {α : Type} (P : State → α → Bool) (p : State × Except Nat α) : Bool :=
  match p.2 with
  | .ok x => P p.1 x
  | .error _ => false
def xlT (P : State → Nat → TlbEnt → Bool) (p : State × Xl) : Bool :=
  match p.2 with
  | .ok a e => P p.1 a e
  | _ => false

theorem acc_ex {α : Type} {p : State × Acc α} (P : State → α → Bool) (h : accT P p = true) : ∃ t x, p = (t, .ok x) ∧ P t x = true := by
  obtain ⟨t, x⟩ := p
  cases x with
  | ok a => exact ⟨t, a, rfl, h⟩
  | stop x => cases h

theorem fetch_ex {α : Type} {p : State × FetchRes α} (P : State → α → Bool) (h : fetchT P p = true) : ∃ t x, p = (t, .ok x) ∧ P t x = true := by
  obtain ⟨t, x⟩ := p
  cases x with
  | ok a => exact ⟨t, a, rfl, h⟩
  | trap _ _ => cases h
  | hold _ => cases h

theorem opt_ex {α : Type} {p : State × Option α} (P : State → α → Bool) (h : optT P p = true) : ∃ t x, p = (t, some x) ∧ P t x = true := by
  obtain ⟨t, x⟩ := p
  cases x with
  | some a => exact ⟨t, a, rfl, h⟩
  | none => cases h

theorem ex_ex {α : Type} {p : State × Except Nat α} (P : State → α → Bool) (h : exT P p = true) : ∃ t x, p = (t, .ok x) ∧ P t x = true := by
  obtain ⟨t, x⟩ := p
  cases x with
  | ok a => exact ⟨t, a, rfl, h⟩
  | error _ => cases h

theorem true_ex {p : State × Bool} (h : p.2 = true) : ∃ t, p = (t, true) := ⟨p.1, by rw [← h]⟩

theorem xl_ex {p : State × Xl} (P : State → Nat → TlbEnt → Bool) (h : xlT P p = true) : ∃ t a e, p = (t, .ok a e) ∧ P t a e = true := by
  obtain ⟨t, x⟩ := p
  cases x with
  | ok a e => exact ⟨t, a, e, rfl, h⟩
  | fault d v => cases h
  | cause c => cases h
  | refuse n => cases h

/-- The conditions of a per-lane access. -/
def accB (s : State) (g : Machine.Group) (o : EOps) (m : Half) (differ : Nat → Bool) (rd wr after : Bool) (kind : AccKind) (n align : Nat) : Bool :=
  (g.mismatch (g.fold m) differ == 0) && (!fenceWait (issuing s g) { g with wait := .none } (laneLater s g o m rd wr) &&
  ((!rd || !loadsHeld (issuing s g) s.cur (decide (m = 0)) (laneReach s g o m n)) &&
  ((!wr || !storesHeld (issuing s g) s.cur false (laneReach s g o m n)) && ((!(isRel o || after) || g.comm.isEmpty) && ((burrowOf s s.cur).isEmpty &&
  (laneChecks s g kind align n ((accLanes g m).map (fun l => (l, laneVa g s.free o l)))).isNone)))))

theorem acc_of {s : State} {g : Machine.Group} {o : EOps} {m : Half} {differ : Nat → Bool} {rd wr after : Bool} {kind : AccKind} {n align : Nat}
    (h : accB s g o m differ rd wr after kind n align = true) : LaneAccessOk s g o m differ rd wr after kind n align := by
  simp only [accB, Bool.and_eq_true, Bool.or_eq_true, Bool.not_eq_true', beq_iff_eq, List.isEmpty_iff, Option.isNone_iff_eq_none,
    Bool.or_eq_false_iff] at h
  obtain ⟨h1, h2, h3, h4, h5, h6, h7⟩ := h
  refine ⟨h1, h2, fun hr => ?_, fun hw => ?_, fun hx => ?_, h6, h7⟩
  · simp_all
  · simp_all
  · rcases h5 with ⟨h, h'⟩ | h
    · rcases hx with hx | hx <;> simp_all
    · exact h

/-! ### Arithmetic -/

theorem witness_UniformPath : ∀ x ∈ ([tE shUadd, tE shUadd64, tE shUlogKand, tE shUcmp, tE shUsel, tE shUmov, tE shUmov64, tE shUlea, tE shUleaS,
    tE shUbitPopc, tE shUmovFirst, tB 0x10 shUadd, tB 0x11 shUadd, tB 0x12 shUadd, tB 0x13 shUadd, tB 0x15 shUmov] : List Case),
    Runs x.1 x.2.1 x.2.2 tS tG tC := runs_all rfl rfl (by decide +kernel)

theorem witness_UniformMoveFirst_empty : let g : Machine.Group := { tGp with em := 0 }
    Runs {} shUmovFirst (opsOf shUmovFirst) (stOf g) g tC ∧ g.em = 0 := ⟨runs_of rfl rfl (by decide +kernel), rfl⟩

theorem witness_UniformMoveFirst_same :
    Runs {} shUmovFirst (opsOf shUmovFirst) (stOf tGsame) tGsame tC ∧ tGsame.info.prot = true ∧
    (List.range 16).find? (fun l => tGsame.em.getLsbD l) = some 0 ∧ tGsame.v1 0 8 0 = tGsame.v1 0 8 1 :=
  ⟨runs_of rfl rfl (by decide +kernel), rfl, by decide +kernel, by decide +kernel⟩

theorem witness_UniformMoveFirst_diff :
    Runs {} shUmovFirst (opsOf shUmovFirst) (stOf tGdiff) tGdiff tC ∧ tGdiff.info.prot = true ∧
    (List.range 16).find? (fun l => tGdiff.em.getLsbD l) = some 0 ∧ tGdiff.v1 0 8 0 ≠ tGdiff.v1 0 8 1 :=
  ⟨runs_of rfl rfl (by decide +kernel), rfl, by decide +kernel, by decide +kernel⟩

theorem witness_LaneIntegerArithmetic : ∀ x ∈ ([tE shIadd, tE shIadd64, tE shImulWide, tE shImadLo, tE shImadWide, tE shIlogLut, tE shIshfShl64,
    tE shIminmaxAbs, tB 0x20 shIadd, tB 0x21 shIadd, tB 0x23 shIadd, tB 0x24 shIadd] : List Case),
    Runs x.1 x.2.1 x.2.2 tS tG tC := runs_all rfl rfl (by decide +kernel)

theorem witness_LaneCompareAndConvert : ∀ x ∈ ([tE shIcmp, tE shIcmp64, tE shIsel, tE shIsel64, tE shLea, tE shMov, tE shMov64, tE shIcvtSext64,
    tE shIcvtSatS32, tE shIminmaxAbs, tB 0x2B shMov] : List Case), Runs x.1 x.2.1 x.2.2 tS tG tC := runs_all rfl rfl (by decide +kernel)

theorem witness_IndexRegisters : (∀ x ∈ ([tE shXset, tE shXget] : List Case), Runs x.1 x.2.1 x.2.2 tS tG tC) ∧
    Issues tS tG tC ∧ 4 ≤ ({ d := 4 } : EOps).d.toNat ∧ ({ a := 8, lit := some 0 } : EOps).a ≠ 0 ∧ 65536 ≤ (0x10000#64).toNat :=
  ⟨runs_all rfl rfl (by decide +kernel), ⟨rfl, rfl, rfl, .inl rfl, rfl⟩, by decide, by decide, by decide⟩

/-- Index register 0 of a lane. -/
def Group.index (g : Machine.Group) (v : Nat) : Machine.Group := (List.range 16).foldl (fun g l => g.putX 0 l (BitVec.ofNat 16 v)) g

theorem witness_IndexedMoves :
    let o : EOps := { d := 8, a := 63 }
    let p : EOps := { d := 63, a := 8 }
    let g := Group.index tG 0
    let h := Group.index tG 1
    let held : Machine.Group := { g with pend := [{ id := 0, dests := [.v 63] }] }
    (Runs (movxChecks false shMovxLd o {}) shMovxLd o (stOf g) g tC ∧ ∀ l < 16, (g.active shMovxLd o 0).getLsbD l = true → (g.xr 0 l).toNat + 63 < g.info.n32) ∧
    (Runs (movxChecks false shMovxLd o {}) shMovxLd o (stOf h) h tC ∧ (h.active shMovxLd o 0).getLsbD 15 = true ∧ h.info.n32 ≤ (h.xr 0 15).toNat + 63) ∧
    (Runs {} shMovxSt p (stOf g) g tC ∧ g.interlocked [.v 63] = false) ∧
    (Runs {} shMovxSt p (stOf held) held tC ∧ held.interlocked [.v 63] = true) ∧
    (Runs {} shMovxSt p (stOf h) h tC ∧ (h.active shMovxSt p 0).getLsbD 15 = true ∧ h.info.n32 ≤ (h.xr 0 15).toNat + 63) :=
  ⟨⟨runs_of rfl rfl (by decide +kernel), by decide +kernel⟩, ⟨runs_of rfl rfl (by decide +kernel), by decide +kernel, by decide +kernel⟩,
   ⟨runs_of rfl rfl (by decide +kernel), by decide +kernel⟩, ⟨runs_of rfl rfl (by decide +kernel), by decide +kernel⟩,
   ⟨runs_of rfl rfl (by decide +kernel), by decide +kernel, by decide +kernel⟩⟩

theorem witness_LaneExchange : let o := opsOf shShflIdx
    let ck := fun (kind : Nat) => ({ race := some (shflRace kind shShflIdx o) } : Checks)
    (∀ k ∈ [0, 1, 2, 3], Runs (ck k) shShflIdx o tS tG tC) ∧ Runs (ck 0) shShflIdx o (stOf tGsame) tGsame tC := by
  refine ⟨?_, runs_of rfl rfl (by decide +kernel)⟩
  intro k hk
  simp only [List.mem_cons, List.not_mem_nil, or_false] at hk
  rcases hk with rfl | rfl | rfl | rfl <;> exact runs_of rfl rfl (by decide +kernel)

/-! ### Control flow, traps, masks and special registers -/

/-- A branch whose offset is 1, to a literal on 4 bytes, and to one that is not; the conditions of the BJ form. -/
theorem witness_BranchesAndCalls :
    (∀ x ∈ ([({}, shBra, { x := 1 }), ({}, shBra, { lit := some 0x2000 }), ({}, shBra, { lit := some 2 }), tE shBrx, tE shBrxIdx,
      (bjChecks {} 0 1 false, bjShape, {}), (bjChecks {} 9 1 false, bjShape, {}), (bjChecks {} 1 1 false, bjShape, {}),
      (bjChecks {} 0 0 true, bjShape, {}), (bjChecks {} 1 0 true, bjShape, {}),
      (Checks.calls {}, shBra, { x := 1 }), (Checks.calls {}, shBra, { lit := some 2 }), (Checks.calls {}, shBra, { lit := some 0x100000000 }),
      (bjChecks (Checks.calls {}) 0 1 false, bjShape, {}), (bjChecks (Checks.calls {}) 1 1 false, bjShape, {}),
      (bjChecks (Checks.calls {}) 0 0 true, bjShape, {}), (bjChecks (Checks.calls {}) 1 0 true, bjShape, {}),
      tE shRet, (Checks.returns {}, shRet, {}), (Checks.returns (b3Checks 0x04 shRet {}), shRet, b3AsE 0x04 shRet {})] : List Case),
      Runs x.1 x.2.1 x.2.2 tS tG tC) ∧
    cndHolds tG 0 = true ∧ cndHolds tG 9 = true ∧ cndHolds tG 1 = false ∧
    (tC.here + 4 * (1#32).signExtend 64).toNat % 4 = 0 ∧ (2#64).toNat % 4 ≠ 0 ∧
    tC.after.extractLsb' 32 32 ≠ (0x100000000#64).extractLsb' 32 32 ∧ tC.after.extractLsb' 32 32 = (0x2000#64).extractLsb' 32 32 :=
  ⟨runs_all rfl rfl (by decide +kernel), by decide, by decide, by decide, by decide, by decide, by decide, by decide⟩

/-- Targets from registers: on 4 bytes, and not. -/
theorem witness_RegisterTargets : let g := Group.uni (Group.uni tG 8 0x2000) 9 0
    let h := Group.uni (Group.uni tG 8 0x2002) 9 0
    let r := Group.uni tG 510 0x2001
    (Runs {} shBrx (opsOf shBrx) (stOf g) g tC ∧ (g.s2 0 8).toNat % 4 = 0) ∧ (Runs {} shBrx (opsOf shBrx) (stOf h) h tC ∧ (h.s2 0 8).toNat % 4 ≠ 0) ∧
    (Runs (Checks.returns {}) shRet {} (stOf r) r tC ∧ (tC.here.extractLsb' 32 32 ++ r.s1 0 510).toNat % 4 ≠ 0) :=
  ⟨⟨runs_of rfl rfl (by decide +kernel), by decide +kernel⟩, ⟨runs_of rfl rfl (by decide +kernel), by decide +kernel⟩,
   ⟨runs_of rfl rfl (by decide +kernel), by decide +kernel⟩⟩

def tH : Machine.Group := { tG with trap := { tG.trap with h := true, tba := 0x4000 } }
def tT : Trap := { cause := causeBar, sub := 1 }

theorem witness_TrapInstructionsAndReturns : let p : Machine.Group := { tH with trap := { tH.trap with pending := [(1, tT)] } }
    (∀ x ∈ ([tE shRet, (b3Checks 0x0C shRet {}, shRet, b3AsE 0x0C shRet {}), ({}, shTrap, { x := 255 }),
      (b3Checks 0x0B shRet {}, shRet, b3AsE 0x0B shRet {})] : List Case), Runs x.1 x.2.1 x.2.2 tS tG tC) ∧ tG.trap.h = false ∧
    (∀ x ∈ ([tE shRet, (b3Checks 0x0B shRet {}, shRet, b3AsE 0x0B shRet {})] : List Case), Runs x.1 x.2.1 x.2.2 (stOf tH) tH tC) ∧
    tH.trap.h = true ∧ tH.trap.pending = [] ∧
    Runs {} shRet {} (stOf p) p tC ∧ p.trap.pending = (1, tT) :: [] ∧ p.trap.tba ≠ 0 :=
  ⟨runs_all rfl rfl (by decide +kernel), rfl, runs_all rfl rfl (by decide +kernel), rfl, rfl, runs_of rfl rfl (by decide +kernel), rfl, by decide⟩

theorem witness_TakingATrap : let g : Machine.Group := { tG with trap := { tG.trap with tba := 4 } }
    (g.clause = some tC ∧ g.trap.h = false ∧ g.trap.tba ≠ 0) ∧ tH.trap.h = true ∧ (tG.trap.h = false ∧ tG.trap.tba = 0) :=
  ⟨⟨rfl, rfl, by decide⟩, rfl, rfl, rfl⟩

theorem witness_PendingCauses : let g : Machine.Group := { tG with trap := { tG.trap with pending := [(trapClass tT.cause, tT)] } }
    (tG.run = .running ∧ tG.trap.pending.get? (trapClass tT.cause) = none) ∧
    (g.run = .running ∧ g.trap.pending.get? (trapClass tT.cause) ≠ none) ∧ ({ tG with run := .exited } : Machine.Group).run ≠ .running :=
  ⟨⟨rfl, rfl⟩, ⟨rfl, by decide⟩, by decide⟩

/-- Lane predicate 2 of a protected group, with one pair of lanes that differ. -/
def tGq : Machine.Group := { tGp with q := [(2, 0x0001)] }
/-- The address of a scratchpad byte in register pair 16, another in lane 1; visible lane 0 is active. -/
def tGa : Machine.Group := Group.lane (Group.lanes (Group.lanes { tGp with em := 1 } 16 0) 17 0x80000000) 16 1 16

theorem witness_MasksVotesAndShadows :
    (∀ x ∈ ([tE shMaskSet, tE shMaskGet, tE shMaskElse, tE shMaskEnd, tE shMaskIf, tE shVoteAny, tE shVoteBal, tE shVoteUni] : List Case),
      Runs x.1 x.2.1 x.2.2 tS tG tC) ∧ qDiffer tG 0 (opsOf shMaskIf) = 0 ∧ uniDiffer tS tG (opsOf shVoteUni) = 0 ∧
    (∀ x ∈ ([tE shMaskIf, tE shVoteAny, tE shVoteBal] : List Case), Runs x.1 x.2.1 x.2.2 (stOf tGq) tGq tC) ∧
    qDiffer tGq 0 (opsOf shMaskIf) ≠ 0 ∧
    (Runs {} shVoteUni (opsOf shVoteUni) (stOf tGdiff) tGdiff tC ∧ (uniDiffer (stOf tGdiff) tGdiff (opsOf shVoteUni)).getLsbD 0 = true) :=
  ⟨runs_all rfl rfl (by decide +kernel), by decide +kernel, by decide +kernel, runs_all rfl rfl (by decide +kernel), by decide +kernel,
   runs_of rfl rfl (by decide +kernel), by decide +kernel⟩

theorem witness_ShadowAddresses : let o : EOps := { d := 8, a := 16 }
    let p : EOps := { a := 16 }
    let t : EOps := { a := 16, b := 8 }
    (∀ x ∈ (ldSizes.map (fun sz => (({}, shLd sz, o) : Case)) ++ stSizes.map (fun sz => (({}, shSt sz, t) : Case)) ++ xSizes.map (fun sz => (({ closes := true }, shLdx sz, o) : Case)) ++
      [(({}, shPrefL1, p) : Case)]), Runs x.1 x.2.1 x.2.2 (stOf tGa) tGa tC) ∧
    (∀ sz ∈ ldSizes, addressesDiffer (stOf tGa) tGa o (tGa.active (shLd sz) o 0) ≠ 0) ∧
    (∀ sz ∈ stSizes, (tGa.mismatch (tGa.fold (tGa.active (shSt sz) t 0)) (fun v => vaDiffer tGa 0 t v ||
      dataB tGa 0 t sz.bytes (2 * v) != dataB tGa 0 t sz.bytes (2 * v + 1))).getLsbD 0 = true) ∧
    (∀ sz ∈ xSizes, addressesDiffer (stOf tGa) tGa o (tGa.active (shLdx sz) o 0) ≠ 0) ∧
    addressesDiffer (stOf tGa) tGa p (tGa.active shPrefL1 p 0) ≠ 0 :=
  ⟨runs_all rfl rfl (by decide +kernel), by decide +kernel, by decide +kernel, by decide +kernel, by decide +kernel⟩

/-- Every number that SYSR may name; every number that SYSW may name. -/
theorem witness_SpecialRegisters :
    (∀ x ∈ ((([0x000, 0x001, 0x002, 0x010, 0x011, 0x017, 0x020, 0x021, 0x022, 0x030, 0x031, 0x040, 0x041, 0x042, 0x043, 0x044, 0x045, 0x050,
      0x060] : List (BitVec 32)).map (fun n => (({}, shSysr { d := 8, x := n }, { d := 8, x := n }) : Case)) ++
      ([0x030, 0x031, 0x040, 0x044, 0x045, 0x050] : List (BitVec 32)).map (fun n => (({}, sysWShape { a := 8, x := n }, { a := 8, x := n }) : Case)))),
      Runs x.1 x.2.1 x.2.2 tS tG tC) ∧
    (let g := Group.uni (Group.uni tG 8 2) 9 0
     Runs {} (sysWShape { x := 0x040 }) { a := 8, x := 0x040 } (stOf g) g tC ∧ (g.uA64 0 { a := 8, x := 0x040 }).toNat % 4 ≠ 0) ∧
    (let g := Group.uni (Group.uni tG 8 4) 9 0
     Runs {} (sysWShape { x := 0x044 }) { a := 8, x := 0x044 } (stOf g) g tC ∧ (g.uA64 0 { a := 8, x := 0x044 }).toNat % 4 = 0) ∧
    (let g : Machine.Group := { tG with id := { tG.id with privileged := false } }
     shapeOk (shSysw { x := 0x045 }) { a := 8, x := 0x045 } = true ∧ g.id.privileged = false ∧ g.region.due = false ∧ g.wait = .none) :=
  ⟨runs_all rfl rfl (by decide +kernel),
   ⟨runs_of rfl rfl (by decide +kernel), by decide +kernel⟩, ⟨runs_of rfl rfl (by decide +kernel), by decide +kernel⟩, by decide +kernel, rfl, rfl, rfl⟩

theorem witness_RolesRegionsSnapshots : let s : State := { tS with snaps := [(0, { snapen := false })] }
    (∀ x ∈ ([({}, shRoleCnt, { opsOf shRoleCnt with x := 3 }), ({}, shRolePhys, { d := 8, x := 0, lit := some 15 }), ({}, shRolePhys, { d := 8, x := 0, lit := some 16 }),
      ({}, shRoleTest, { d := 2, x := 1, lit := some 1 }), ({ illegal := fun _ g => g.acts shRet {} 0 && !isLast g }, shRet, {}), ({ closes := true }, shRet, {}),
      tE shMaskGet, ({}, shSnap, { x := 0xFFFF })] : List Case), Runs x.1 x.2.1 x.2.2 tS tG tC) ∧
    (tG.uB32 0 { d := 8, lit := some 15 }).toNat < roleCount tG 0 ∧ roleCount tG 0 ≤ (tG.uB32 0 { d := 8, lit := some 16 }).toNat ∧
    (tS.snap 0).snapen = true ∧ Runs {} shSnap { x := 1 } s tG tC ∧ (s.snap 0).snapen = false :=
  ⟨runs_all rfl rfl (by decide +kernel), by decide +kernel, by decide +kernel, rfl, runs_of rfl rfl (by decide +kernel), rfl⟩

/-! ### Clauses and the memory port -/

/-- A header without TMASK, with TMASK, and extended, at the PC of a group whose instruction cache holds it and its body. -/
theorem witness_ClauseHeaders : ∀ x ∈ ([([0x000007F8#32], 0), ([0x400000F8#32, 1#32, 0#32], 1), ([0x800007F8#32, 0#32, 0#32], 0)] : List (List Word × Nat)),
    let s := placeInstr State.reset x.1
    let g := placedGroup 0
    let h := headerOf (x.1.headD 0)
    AtHeader s g h ∧ ∃ t body, fetchBody s.cur (h.n.toNat + 1) (g.pc + BitVec.ofNat 64 (4 * x.1.length)) s = (t, .ok body) ∧
      (!tmaskBad x.2 body.1 && !clauseBroken body.1) = true := by
  have main : ∀ ws m, (s : State) → s.groups.get? s.cur = some (placedGroup 0) →
      fetchT (fun _ x => !tmaskBad m x.1 && !clauseBroken x.1)
        (fetchBody s.cur ((headerOf (List.headD ws 0)).n.toNat + 1) ((placedGroup 0).pc + BitVec.ofNat 64 (4 * ws.length)) s) = true →
      AtHeader s (placedGroup 0) (headerOf (ws.headD 0)) ∧ ∃ t body, fetchBody s.cur ((headerOf (ws.headD 0)).n.toNat + 1)
        ((placedGroup 0).pc + BitVec.ofNat 64 (4 * ws.length)) s = (t, .ok body) ∧ (!tmaskBad m body.1 && !clauseBroken body.1) = true := by
    intro ws m s hg h
    exact ⟨⟨hg, rfl, rfl, rfl, rfl, .inr rfl, fun i _ _ => rfl⟩, fetch_ex _ h⟩
  intro x hx
  simp only [List.mem_cons, List.not_mem_nil, or_false] at hx
  rcases hx with rfl | rfl | rfl
  · exact main _ 0 _ rfl (by decide +kernel)
  · exact main _ 1 _ rfl (by decide +kernel)
  · exact main _ 0 _ rfl (by decide +kernel)

theorem witness_LoadsAndAtomics : let o3 : B3Ops := { d := 8, a := 16 }
    let at_ : EOps := { d := 8, a := 16, b := 8 }
    let cas : EOps := { d := 8, a := 16, b := 8, c := 12 }
    (∀ x ∈ ((ldSizes.map (fun sz => (({}, shLd sz, tLd) : Case))) ++
      [(b3Checks 0x50 (shLd .b32) o3, shLd .b32, b3AsE 0x50 (shLd .b32) o3), (b3Checks 0x50 (shLd .b64) o3, shLd .b64, b3AsE 0x50 (shLd .b64) o3),
       (b3Checks 0x50 (shLd .b128) o3, shLd .b128, b3AsE 0x50 (shLd .b128) o3)] ++
      (ldSizes.map (fun sz => (({}, shUld sz, tLd) : Case))) ++ (xSizes.map (fun sz => (({ closes := true }, shAtomAdd sz, at_) : Case))) ++
      (([.s32, .s64, .s128] : List ASz).map (fun sz => (({ closes := true }, shAtomCas sz, cas) : Case))) ++
      [(({ closes := true }, shAtomFadd, at_) : Case)]), Runs x.1 x.2.1 x.2.2 tSm tGm tC) ∧
    (∀ sz ∈ ldSizes, LaneAccessOk tSm tGm tLd (tGm.active (shLd sz) tLd 0) (vaDiffer tGm 0 tLd) true false false .ldst sz.bytes.1 (alignOf sz.bytes.1)) ∧
    (∀ sz ∈ ldSizes, laneChecks tSm tGm .uld (alignOf sz.bytes.1) sz.bytes.1 [(0, tGm.s2 0 16 + memOff tLd)] = none) ∧
    (∀ sz ∈ xSizes, LaneAccessOk tSm tGm at_ (tGm.active (shAtomAdd sz) at_ 0) (fun v => vaDiffer tGm 0 at_ v ||
      dataB tGm 0 at_ sz.bytes (2 * v) != dataB tGm 0 at_ sz.bytes (2 * v + 1) || dataC tGm 0 at_ sz.bytes (2 * v) != dataC tGm 0 at_ sz.bytes (2 * v + 1))
      true true true .atom sz.bytes sz.bytes) :=
  ⟨runs_all rfl rfl (by decide +kernel), fun sz h => acc_of ((by decide +kernel : ∀ sz ∈ ldSizes,
     accB tSm tGm tLd (tGm.active (shLd sz) tLd 0) (vaDiffer tGm 0 tLd) true false false .ldst sz.bytes.1 (alignOf sz.bytes.1) = true) sz h),
   by decide +kernel, fun sz h => acc_of ((by decide +kernel : ∀ sz ∈ xSizes, accB tSm tGm { d := 8, a := 16, b := 8 }
     (tGm.active (shAtomAdd sz) { d := 8, a := 16, b := 8 } 0) (fun v => vaDiffer tGm 0 { d := 8, a := 16, b := 8 } v ||
       dataB tGm 0 { d := 8, a := 16, b := 8 } sz.bytes (2 * v) != dataB tGm 0 { d := 8, a := 16, b := 8 } sz.bytes (2 * v + 1) ||
       dataC tGm 0 { d := 8, a := 16, b := 8 } sz.bytes (2 * v) != dataC tGm 0 { d := 8, a := 16, b := 8 } sz.bytes (2 * v + 1))
     true true true .atom sz.bytes sz.bytes = true) sz h)⟩

def tLk : EOps := { d := 8, a := 18, b := 8 }

theorem witness_LockedAccesses :
    (∀ sz ∈ xSizes, Runs { closes := true } (shLdx sz) { d := 8, a := 18 } tSm tGm tC ∧
      LaneAccessOk tSm tGm { d := 8, a := 18 } (tGm.active (shLdx sz) { d := 8, a := 18 } 0) (vaDiffer tGm 0 { d := 8, a := 18 }) true false false .locked sz.bytes sz.bytes) ∧
    (∀ sz ∈ xSizes, Runs { closes := true } (shStx sz) tLk tSm tGm tC ∧ LaneAccessOk tSm tGm tLk (tGm.active (shStx sz) tLk 0)
      (fun v => vaDiffer tGm 0 tLk v || dataB tGm 0 tLk sz.bytes (2 * v) != dataB tGm 0 tLk sz.bytes (2 * v + 1)) true true true .locked sz.bytes sz.bytes) ∧
    ((tSm.grp 1).info.prot = false ∧ (tSm.grp 1).resv.get? 0 = none) :=
  ⟨fun sz h => ⟨runs_of rfl rfl ((by decide +kernel : ∀ sz ∈ xSizes, runsB { closes := true } (shLdx sz) { d := 8, a := 18 } tSm tGm tC = true) sz h),
     acc_of ((by decide +kernel : ∀ sz ∈ xSizes, accB tSm tGm { d := 8, a := 18 } (tGm.active (shLdx sz) { d := 8, a := 18 } 0)
       (vaDiffer tGm 0 { d := 8, a := 18 }) true false false .locked sz.bytes sz.bytes = true) sz h)⟩,
   fun sz h => ⟨runs_of rfl rfl ((by decide +kernel : ∀ sz ∈ xSizes, runsB { closes := true } (shStx sz) tLk tSm tGm tC = true) sz h),
     acc_of ((by decide +kernel : ∀ sz ∈ xSizes, accB tSm tGm tLk (tGm.active (shStx sz) tLk 0)
       (fun v => vaDiffer tGm 0 tLk v || dataB tGm 0 tLk sz.bytes (2 * v) != dataB tGm 0 tLk sz.bytes (2 * v + 1)) true true true .locked sz.bytes sz.bytes = true) sz h)⟩,
   by decide +kernel⟩

theorem witness_StoresAndReductions : let o3 : B3Ops := { a := 16, b := 8 }
    (∀ x ∈ ((stSizes.map (fun sz => (({}, shSt sz, tSt) : Case))) ++
      [(b3Checks 0x51 (shSt .b32) o3, shSt .b32, b3AsE 0x51 (shSt .b32) o3), (b3Checks 0x51 (shSt .b64) o3, shSt .b64, b3AsE 0x51 (shSt .b64) o3),
       (b3Checks 0x51 (shSt .b128) o3, shSt .b128, b3AsE 0x51 (shSt .b128) o3)] ++
      (xSizes.map (fun sz => (({ closes := true }, shRedAdd sz, tSt) : Case))) ++ [(({ closes := true }, shRedFadd, tSt) : Case)]),
      Runs x.1 x.2.1 x.2.2 tSm tGm tC) ∧ (tSm.core 0).burrow.length < 64 ∧
    (∀ sz ∈ stSizes, LaneAccessOk tSm tGm tSt (tGm.active (shSt sz) tSt 0) (fun v => vaDiffer tGm 0 tSt v ||
      dataB tGm 0 tSt sz.bytes (2 * v) != dataB tGm 0 tSt sz.bytes (2 * v + 1)) false true true .ldst sz.bytes (alignOf sz.bytes)) ∧
    (∀ sz ∈ xSizes, LaneAccessOk tSm tGm tSt (tGm.active (shRedAdd sz) tSt 0) (fun v => vaDiffer tGm 0 tSt v ||
      dataB tGm 0 tSt sz.bytes (2 * v) != dataB tGm 0 tSt sz.bytes (2 * v + 1)) false true true .atom sz.bytes sz.bytes) :=
  ⟨runs_all rfl rfl (by decide +kernel), by decide +kernel,
   fun sz h => acc_of ((by decide +kernel : ∀ sz ∈ stSizes, accB tSm tGm tSt (tGm.active (shSt sz) tSt 0) (fun v => vaDiffer tGm 0 tSt v ||
      dataB tGm 0 tSt sz.bytes (2 * v) != dataB tGm 0 tSt sz.bytes (2 * v + 1)) false true true .ldst sz.bytes (alignOf sz.bytes) = true) sz h),
   fun sz h => acc_of ((by decide +kernel : ∀ sz ∈ xSizes, accB tSm tGm tSt (tGm.active (shRedAdd sz) tSt 0) (fun v => vaDiffer tGm 0 tSt v ||
      dataB tGm 0 tSt sz.bytes (2 * v) != dataB tGm 0 tSt sz.bytes (2 * v + 1)) false true true .atom sz.bytes sz.bytes = true) sz h)⟩

/-- RED.comm.add x, 1 and RED.comm.add x, 2 on a word of the scratchpad that held 0 (the litmus test comm-self of 06_memory_model.md), of
which the first waits. -/
def tComm (val seq : Nat) : CommRed := { va := 0x8000000000000000, lane := 0, op := .add, n := 4, val := val, seq := seq }
def tSc : State := stOf { tG with comm := [tComm 1 0] }

theorem witness_StoresAndReductions_comm : ((tSc.grp 1).comm[0]? = some (tComm 1 0) ∧ ∃ t,
    storeDo tSc 1 0 (.reduce .add 4) 0 { lane := 0, va := 0x8000000000000000, bytes := natBytes 4 1 } = (t, .ok ())) ∧ (tS.grp 1).comm = [] := by
  refine ⟨⟨rfl, ?_⟩, rfl⟩
  obtain ⟨t, u, h, -⟩ := acc_ex (fun _ _ => true) (by decide +kernel : accT (fun _ (_ : Unit) => true)
    (storeDo tSc 1 0 (.reduce .add 4) 0 { lane := 0, va := 0x8000000000000000, bytes := natBytes 4 1 }) = true)
  exact ⟨t, h⟩

/-- The word after the one that waits has been applied, and after both. -/
theorem test_comm_self : let word := fun (s : State) => bytesNat ((List.range 4).map (fun i => (s.cohort 0).scr.getD i 0))
    let two := stOf { tG with comm := [tComm 1 0, tComm 2 1] }
    word (commOne tSc 1 0) = 1 ∧ word (commOne two 1 1) = 2 ∧ word (commOne (commOne two 1 1) 1 0) = 3 := by decide +kernel

theorem witness_ScratchpadAccesses : let u : State := { stOf { tG with id := { tG.id with world := false } } with cohorts := [(0, tK)] }
    (spaceOf 0x8000000000000000#64 = .scratch ∧ (tS.grp 1).info.prot = false ∧ (tS.grp 1).id.world = true) ∧
    ((tS.grp 1).comm = [] ∧ tS.calm 1 = true ∧ tS.saved.get? (tS.grp 1).cohort = none ∧ tS.cohorts.get? (tS.grp 1).cohort = some tK) ∧
    ((u.grp 1).comm = [] ∧ u.calm 1 = true ∧ (u.grp 1).id.world = false ∧ u.cohorts.get? (u.grp 1).cohort = some tK ∧ tK.id.world = true) := by decide +kernel

/-- A release at .dom with .t, by a group that has a RATOM under way. -/
def tGr : Machine.Group := { tG with ratoms := [{ num := 0, seq := 0, op := .add, n := 4, accs := [], batch := 1 }] }

theorem witness_FencesAndCaches : let o : EOps := { x := 0x1C400000 }
    let cm := fun (a : BitVec 10) (n : BitVec 64) => (({}, shCmaintWb, { a := a, lit := some n }) : Case)
    (Runs {} shFenceAcq o (stOf tGr) tGr tC ∧ scopeOf tGr o = 6 ∧ tGr.ratoms ≠ [] ∧ tGr.fenced tGr.seq { rel := true } = false ∧ tGr.gives = 0 ∧ tGr.comm = []) ∧
    (Runs {} shFenceAcq o tS tG tC ∧ burrowOf tS 1 = [] ∧ (tS.core 0).tile.jobs = [] ∧ tG.ratoms = []) ∧
    (∀ x ∈ ([tE shFenceAcq, cm 18 0, cm 18 128, cm 18 (2 ^ 31), ({}, shPrefL1, { a := 18 })] : List Case), Runs x.1 x.2.1 x.2.2 tSm tGm tC) ∧
    cmaintCheck tSm tGm 0 128 = none ∧ (cmaintCheck tSm tGm 0xC000000000000000#64 1).isSome = true ∧
    (tGm.mismatch (tGm.fold (tGm.active shPrefL1 { a := 18 } 0)) (vaDiffer tGm 0 { a := 18 }) = 0 ∧ isRel { a := 18 } = false) :=
  ⟨⟨runs_of rfl rfl (by decide +kernel), by decide, by decide, by decide, rfl, rfl⟩, ⟨runs_of rfl rfl (by decide +kernel), rfl, rfl, rfl⟩, runs_all rfl rfl (by decide +kernel), by decide +kernel, by decide +kernel,
   by decide +kernel⟩

/-- A cohort of 4 KiB of scratchpad, and one with a binding at offset 0. -/
def tSk (b : List Binding) : State := { tSm with cohorts := [(0, { tK with scrLimit := 0x1000, stash := b })] }

theorem witness_StashInstructions : let o : EOps := { a := 18, c := 18, lit := some 128 }
    let b : Binding := { so := 0, g := 0, len := 128 }
    (Runs {} shStashMap o (tSk []) tGm tC ∧ stashMapCheck (tSk []) tGm 0 0 128 = none ∧ burrowOf (tSk []) 1 = []) ∧
    (spaceOf 0 = .control ∧ regionKey 0 = regionKey (0 + BitVec.ofNat 64 127) ∧ vaPkg 0 < (tSk []).domain ∧ 0 + 128 ≤ stashLimit (tSk []) 0 ∧
      ((tSk []).cohort 0).stash.length < 8) ∧
    (Runs {} shStashMap o tSm tGm tC ∧ (stashMapCheck tSm tGm 0 0 128).isSome = true) ∧
    (Runs {} shStashUnmap { c := 18 } (tSk [b]) tGm tC ∧ ((tSk [b]).cohort 0).stash.find? (fun b => b.so == 0) = some b) ∧
    (Runs {} shStashUnmap { c := 18 } (tSk []) tGm tC ∧ ((tSk []).cohort 0).stash.find? (fun b => b.so == 0) = none) :=
  ⟨⟨runs_of rfl rfl (by decide +kernel), by decide +kernel, rfl⟩, by decide +kernel, ⟨runs_of rfl rfl (by decide +kernel), by decide +kernel⟩,
   ⟨runs_of rfl rfl (by decide +kernel), by decide +kernel⟩, runs_of rfl rfl (by decide +kernel), by decide +kernel⟩

/-- Each barrier instruction, with a count of 1 and of 65535, on an object in the scratchpad. -/
theorem witness_Barriers : let o := fun (n : BitVec 64) => ({ a := 16, lit := some n } : EOps)
    let ck : Checks := { closes := true }
    (∀ x ∈ ([(ck, shBarInit, o 1), (ck, shBarInit, o 0xFFFF), (ck, shBarArrive, o 1), (ck, shBarArrive, o 0xFFFF), (ck, shBarWait, o 0),
      (ck, shBarTest, { o 0 with d := 2 })] : List Case), Runs x.1 x.2.1 x.2.2 tSm tGm tC) ∧
    accCheck tSm tGm .bar (tGm.s2 0 16) 16 16 = none ∧ burrowOf tSm 1 = [] ∧ tGm.deny = [] ∧ tGm.comm = [] ∧
    loadsHeld (issuing tSm tGm) 1 true [(0, tGm.s2 0 16, 16)] = false ∧ storesHeld (issuing tSm tGm) 1 true [(0, tGm.s2 0 16, 16)] = false ∧
    fenceWait (issuing tSm tGm) { tGm with wait := .none } { loads := true, stores := true, rel := true, scope := 6 } = false ∧
    ReadsScratch tSm tGm (tGm.s2 0 16) 16 (tSm.with { tGm with wait := .none }) (List.replicate 16 0) ∧
    (∃ s1 bs, laneRead (issuing tSm tGm) 1 { tGm.req 2 (tGm.s2 0 16) with write := true } 0 0 16 = (s1, .ok bs) ∧ decide (bs.length = 16) = true) :=
  ⟨runs_all rfl rfl (by decide +kernel), by decide +kernel, rfl, rfl, rfl, by decide +kernel, by decide +kernel, by decide +kernel,
   ⟨by decide +kernel, by decide +kernel, rfl, by decide +kernel⟩, acc_ex (fun _ (bs : List Byte) => decide (bs.length = 16)) (by decide +kernel)⟩

theorem witness_BarrierPhases : let x : Bar := { phase := 65535, expa := 2, arr := 1, expb := 8, landed := 8 }
    x.expa ≠ 0 ∧ x.arr ≤ x.expa ∧ x.err = false ∧ x.phase < 65536 ∧ x.expa < x.arr + 2 ∧ x.arr + 0 < x.expa ∧ x.arr + 1 = x.expa ∧
    x.landed = x.expb ∧ ({ x with landed := 7 } : Bar).landed < x.expb ∧ x.expb < ({ x with landed := 9 } : Bar).landed ∧ x.expa < 65536 ∧ x.landed < 2 ^ 32 := by decide

/-! ### Floating point and precision -/

/-- Lane registers 8 and 9 hold 1.0 and a signalling NaN; %trapen enables NV. -/
def tGf : Machine.Group := Group.lanes (Group.lanes tG 8 0x3F800000) 9 0x7F800001
def tGt : Machine.Group := { tGf with trap := { tGf.trap with trapen := 0x100 } }

theorem witness_FloatArithmetic : let o : EOps := { d := 8, a := 8, b := 9 }
    let f := onElts .f32 (fun o f a b _ => fAdd (hintMode o) f a b)
    (∀ x ∈ ([tE shFadd, tE shFfma, tE shFminmaxMin, tB 0x30 shFadd, tB 0x31 shFadd, tB 0x32 shFfma] : List Case), Runs x.1 x.2.1 x.2.2 tS tG tC) ∧
    allConds (raisedBy shFadd f (stOf tGf) tGf o) &&& (tGf.trap.trapen.toNat / 256 % 32) = 0 ∧
    (Runs {} shFadd o (stOf tGt) tGt tC ∧ allConds (raisedBy shFadd f (stOf tGt) tGt o) &&& (tGt.trap.trapen.toNat / 256 % 32) ≠ 0) :=
  ⟨runs_all rfl rfl (by decide +kernel), by decide +kernel, runs_of rfl rfl (by decide +kernel), by decide +kernel⟩

theorem witness_FloatScalarsAndConversions :
    (∀ x ∈ ([tE shFrnd, tE shFscale, tE shFclass, ({}, shFclassPred, { opsOf shFclassPred with x := 0x3FF }), tE shFfma, tE shFcmp, tE shFcvtF16F32, tE shFcvtF32S32, tE shFadd,
      ({}, shFcvtTpF32, { opsOf shFcvtTpF32 with x := 4 }), ({}, shFcvtF32Tp, { opsOf shFcvtF32Tp with x := 8 })] : List Case),
      Runs x.1 x.2.1 x.2.2 tS tG tC) ∧ tG.trap.trapen.toNat / 256 % 2 = 0 := ⟨runs_all rfl rfl (by decide +kernel), by decide⟩

theorem witness_FormatRoundTrips : (0xFFFF < 2 ^ fp16.width ∧ (fp16.decode 0xFFFF).isNan = true ∧ (fp16.decode 0x7BFF).isNan = false) ∧
    fp64.decode 0x8000000000000000 = fp64.decode 0x8000000000000000 ∧ taperedEncode (taperedDecode 0xFF 8 2) 8 2 = 0xFF := by decide +kernel

theorem witness_SpecialFunctions : Runs {} shFspecRcp { d := 8, a := 8 } tS tG tC := runs_of rfl rfl (by decide +kernel)

/-- VP register 2 holds 1 and VP register 3 holds -1, with P = 24 and GUARD = 1. -/
def tOne : VpElt := (roundVP (XReal.ofInt 1 0 false) 24 .rne).1
def tGv : Machine.Group :=
  let g : Machine.Group := { tGm with info := { placedRecord with prec0 := 0x1018 } }
  (List.range 2).foldl (fun (g : Machine.Group) l =>
    { g with regs := (g.vpOuts 2 l tOne ++ g.vpOuts 3 l { tOne with neg := true }).foldl (fun (t : Tab Word) p => t.put p.1 p.2) g.regs }) g
def tSv : State := stOf tGv

theorem witness_PrecisionArithmetic : let m := tGv.active shVpadd { d := 4, a := 2, b := 3 } 0
    let trip := fun (b : Nat) => maskOf (fun l => m.getLsbD l && guardTrips (tGv.precP l) (tGv.precGuard l) (tGv.vpElt 0 2 l).value (tGv.vpElt 0 b l).value)
    (∀ x ∈ ([({}, shVpadd, { d := 4, a := 2, b := 3 }), ({}, shVpfma, { d := 4, a := 2, b := 2, c := 3 }), ({}, shVpsqrt, { d := 4, a := 2 }),
      ({}, shVpcmp, { d := 2, a := 2, b := 3 }), ({}, shVpmov, { d := 4, a := 2 })] : List Case), Runs x.1 x.2.1 x.2.2 tSv tGv tC) ∧
    (VpReady tSv tGv m [2, 3] true) ∧ trip 2 = 0 ∧ trip 3 ≠ 0 :=
  ⟨runs_all rfl rfl (by decide +kernel), ⟨by decide +kernel, fun _ => by decide +kernel, by decide +kernel⟩, by decide +kernel, by decide +kernel⟩

theorem witness_PrecisionConversionsAndControl :
    (∀ x ∈ ([({}, shVpsqrt, { d := 4, a := 2 }), ({}, shVprndLen, { d := 4, a := 2, x := 1 }), ({}, shVpcvtVpF32, { d := 4, a := 8 }),
      ({}, shVpcvtVpF64, { d := 4, a := 8 }), ({}, shVpcvtF32Vp, { d := 8, a := 2 }), ({}, shVpcvtF64Vp, { d := 8, a := 2 }), ({}, shVpcvtT16Vp, { d := 8, a := 2 }),
      ({}, shVprecSet, { b := 8, x := 4 }), ({}, shVprecP, { lit := some 225 }), ({}, shVprecMode, { x := 4 }), ({}, shVpgetHead, { d := 8, a := 2 }),
      ({ illegal := fun _ g => decide (g.info.vpc ≤ 3) }, shVpgetSlice, { d := 8, a := 2, x := 3 })] : List Case), Runs x.1 x.2.1 x.2.2 tSv tGv tC) ∧
    VpReady tSv tGv (tGv.active shVpsqrt { d := 4, a := 2 } 0) [2] true :=
  ⟨runs_all rfl rfl (by decide +kernel), ⟨by decide +kernel, fun _ => by decide +kernel, by decide +kernel⟩⟩

/-- The operands of the forms of VPLD and VPST; the scratchpad holds a head of class 1 in its first bytes. -/
def tVpOps (k : VpAddr) (st : Bool) : EOps :=
  { d := if st then 0 else 4, a := 16, b := 0, c := if st then 2 else 0, lit := if k = .strided then some 0 else none
    x := if k = .packed then 0x80000000 else 0 }
def tSvm : State := { tSv with cohorts := [(0, { tK with scr := tOne.bytes.zipIdx.map (fun p => (p.2, p.1)) })] }

/-- The results of heads that are all read and valid. -/
def headAccs (rs : List HeadRes) : List LaneAcc := rs.filterMap (fun r => match r with
  | .ok a none => some a
  | _ => none)

theorem witness_PrecisionMemory :
    (∀ x ∈ ([({}, shVpld, tVpOps .plain false), ({}, shVpldStr, tVpOps .strided false), ({}, shVpldIdx, tVpOps .indexed false), ({}, shVpldPack, tVpOps .packed false),
      ({}, shVpst, tVpOps .plain true), ({}, shVpstStr, tVpOps .strided true), ({}, shVpstIdx, tVpOps .indexed true), ({}, shVpstPack, tVpOps .packed true)] : List Case),
      Runs x.1 x.2.1 x.2.2 tSvm tGv tC) ∧ vpFull tSvm = false ∧ burrowOf tSvm 1 = [] ∧ tGv.info.prot = false ∧
    (let g : Machine.Group := { tGv with wait := .none }
     let p := headLoop false 0 ((accLanes tGv 3).map (fun l => (l, vpAddrOf .plain tGv 0 (tVpOps .plain false) l))) none (tSvm.with g)
     let accs := headAccs p.2
     p.2 = accs.map (fun a => HeadRes.ok a none) ∧ accs.length = 2 ∧ burrowOf p.1 1 = [] ∧ p.1.cur = 1 ∧
     (opRun (p.1.with { p.1.grp 1 with deny := [] }) 1 0 { act := .vpLoad, dst := 4, accs := accs, hint := 0 }).left = []) ∧
    (maskOf (fun l => (3#16).getLsbD l && VpElt.badHead (tGv.vpWord 0 2 0 l)) = 0 ∧
     let ls := vpStoreLanes .packed tSvm tGv (tVpOps .packed true) (accLanes tGv 3) none
     (∀ l ∈ ls, accCheck tSvm tGv .ldst l.va l.bytes.length 1 = none) ∧ (tSvm.core 0).burrow.length < 64 ∧ tGv.comm = [] ∧ tGv.pend = [] ∧
     fenceWait (issuing tSvm tGv) { tGv with wait := .none } { stores := true, ctl := ls.any (fun l => ctlPlace (issuing tSvm tGv) tGv l.va) } = false ∧
     storesHeld (issuing tSvm tGv) 1 false (ls.map (fun l => (l.lane, l.va, l.bytes.length))) = false) :=
  ⟨runs_all rfl rfl (by decide +kernel), by decide +kernel, rfl, rfl, by decide +kernel, by decide +kernel⟩

/-- Elements in the scratchpad: the lane addresses name the first; packed, the second lane's is the one after it. -/
def tSvp : State := { tSvm with cohorts := [(0, { tK with scr := (tOne.bytes ++ tOne.bytes).zipIdx.map (fun p => (p.2, p.1)) })] }

theorem witness_PrecisionMemory_loads : fenceWait (issuing tSvp tGv) { tGv with wait := .none } { loads := true } = false ∧ tGv.ratoms = [] ∧
    (tSvp.core 0).tile.jobs = [] ∧ tGv.deny = [] ∧ tGv.id.world = true ∧
    (∀ k ∈ ([.plain, .strided, .indexed, .packed] : List VpAddr), let es := scrElts k tSvp tGv (tVpOps k false) [0, 1] none
      ∀ e ∈ es, spaceOf e.2 = .scratch ∧ accCheck (issuing tSvp tGv) { tGv with wait := .none } .ldst e.2 4 1 = none ∧
        accCheck (issuing tSvp tGv) { tGv with wait := .none } .ldst e.2 (4 + (scrBody tSvp tGv e.2).length) 1 = none ∧
        VpElt.badHead (scrHead tSvp tGv e.2) = false ∧ ((scrHead tSvp tGv e.2).toNat % 256 ≤ tGv.lmax ∨ tGv.precSat e.1 = true)) ∧
    lanesOf (tGv.active shVpld (tVpOps .plain false) 0) = [0, 1] := by decide +kernel

/-! ### The end of groups, launches and queues -/

theorem witness_ExitAndDeviceLaunches_exit : let p : Machine.Group := { tG with trap := { tG.trap with tba := 4, pending := [(1, tT)] } }
    let x : Machine.Group := { tG with run := .exited }
    let s : State := { groups := [(1, x)], cohorts := [(0, { tK with groups := [1, 2] })], cur := 1 }
    (∀ x ∈ ([(Checks.closing {}, shRet, {}), (Checks.closing (b3Checks 0x05 shRet {}), shRet, b3AsE 0x05 shRet {})] : List Case),
      Runs x.1 x.2.1 x.2.2 tS tG tC) ∧ burrowOf tS 1 = [] ∧ copyOf tS 0 1 = false ∧ tG.trap.pending = [] ∧
    (Runs (Checks.closing {}) shRet {} (stOf p) p tC ∧ p.trap.h = false ∧ p.trap.pending = (1, tT) :: [] ∧ p.trap.tba ≠ 0) ∧
    (s.groups.rising = true ∧ s.groups.get? 1 = some x ∧ x.run = .exited ∧ s.cohorts.get? 0 = some { tK with groups := [1, 2] } ∧
      s.saved.get? 0 = none ∧ [1, 2].filter (fun x => x != 1) ≠ []) :=
  ⟨runs_all rfl rfl (by decide +kernel), rfl, by decide +kernel, rfl, ⟨runs_of rfl rfl (by decide +kernel), rfl, rfl, by decide⟩,
   by decide, rfl, rfl, rfl, rfl, by decide⟩

/-- A context with two queues; queue 0 runs with one packet, the number n, at its head; a launch record stands at 0x40000. -/
def tCx (q : Queue) : CtxReg := {
  desc := 0x8000, qtab := 0x10000, nq := 1, stlog := 6, stab := 0x20000, ovf := 0x50000, ovn := 1, save := 0x4000000000000000
  queues := [(0, q), (1, {})] }
def tQ : Queue := { st := .run, ridx := 0, widx := 1 }
def tQm (n : Nat) : List (Nat × Nat × Nat) :=
  [(0x60000, 16, 3), (0x30000, 64, n), (0x10080, 4, 1), (0x10000, 0x28, 0x30000 + 4 * 2 ^ 64), (0x8000, 64, 5 * 2 ^ 384)]
def tQs (q : Queue) (n : Nat) (l : List (Nat × Nat × Nat) := []) : State :=
  mapped { tS with pkgs := [(0, { up := true, ctxs := [(1, tCx q)] })] } (l ++ tQm n)

def headT (s : State) (pkg a i : Nat) (P : State → Dword → Nat → Bool) : Bool :=
  match s.queue? pkg a i with
  | some q => (q.st == .run) && ((q.ridx != q.widx) && exT (fun t x => (packetBad t pkg a i x.2 == 0) && P t x.1 x.2) (headPacket s pkg a i q))
  | none => false

theorem head_of {s : State} {pkg a i : Nat} (P : State → Dword → Nat → Bool) (h : headT s pkg a i P = true) :
    ∃ t at_ n, HeadIs s pkg a i t at_ n ∧ P t at_ n = true := by
  unfold headT at h
  split at h
  · rename_i q hq
    simp only [Bool.and_eq_true, beq_iff_eq, bne_iff_ne, ne_eq] at h
    obtain ⟨t, ⟨a', n⟩, hp, hP⟩ := ex_ex _ h.2.2
    simp only [Bool.and_eq_true, beq_iff_eq] at hP
    exact ⟨t, a', n, ⟨⟨q, hq, h.1, h.2.1, hp⟩, hP.1⟩, hP.2⟩
  · simp at h

/-- NOP, COPY, QRESET, a SWITCH and a SNAP at the head of a queue. -/
theorem witness_PacketsProcessed_plain : ∀ p ∈ ([0, 2 + 0x60000 * 2 ^ 64 + 0x70000 * 2 ^ 128 + 16 * 2 ^ 192, 6 + 2 ^ 32, 7 + 3 * 2 ^ 64,
      7 + 2 ^ 32 + 0xFFFF * 2 ^ 64] : List Nat),
    ∃ t at_ n, HeadIs (tQs tQ p) 0 1 0 t at_ n ∧ (n == p && (t.pkg 0).lead.isNone) = true := fun p h =>
  head_of (fun t _ n => n == p && (t.pkg 0).lead.isNone) (List.all_eq_true.mp (by decide +kernel : ([0, 2 + 0x60000 * 2 ^ 64 + 0x70000 * 2 ^ 128 + 16 * 2 ^ 192,
    6 + 2 ^ 32, 7 + 3 * 2 ^ 64, 7 + 2 ^ 32 + 0xFFFF * 2 ^ 64] : List Nat).all (fun p => headT (tQs tQ p) 0 1 0 (fun t _ n => n == p && (t.pkg 0).lead.isNone)) = true) p h)

/-- A LAUNCH that is accepted, and one while 256 launches are listed. -/
theorem witness_PacketsProcessed_launch : let s := tQs tQ (1 + 0x40000 * 2 ^ 64) [(0x40000, 256, 0x600000000080100000201 * 2 ^ 256)]
    let full : State := { s with launches := (List.range 256).map (fun i => (i, { members := [0] })) }
    (∃ t at_ n, HeadIs s 0 1 0 t at_ n ∧ (n % 256 == 1 && (match (pktLaunch t 0 1 0 n).2 with
      | .done _ => true
      | _ => false)) = true) ∧
    (∃ t at_ n, HeadIs full 0 1 0 t at_ n ∧ (n % 256 == 1 && decide (256 ≤ t.listLen 0)) = true) :=
  ⟨head_of _ (by decide +kernel), head_of _ (by decide +kernel)⟩

/-- SIGNAL that sets, and that adds; WAIT that is met, and that is not; BARRIER-AND on an object of a later phase. -/
theorem witness_PacketsProcessed_memory : let w := fun (v : Nat) => 4 + 0x60000 * 2 ^ 64 + v * 2 ^ 128 + (2 ^ 64 - 1) * 2 ^ 192
    (∃ t at_ n, HeadIs (tQs tQ (3 + 0x60000 * 2 ^ 64 + 7 * 2 ^ 128)) 0 1 0 t at_ n ∧ (n % 256 == 3 && (!n.testBit 33 &&
      (cpWrite t (pktReq t 0 1 0 (pktD n 8)) (natBytes 4 (bits n 128 64))).2.isSome)) = true) ∧
    (∃ t at_ n, HeadIs (tQs tQ (3 + 2 ^ 33 + 0x60000 * 2 ^ 64 + 7 * 2 ^ 128)) 0 1 0 t at_ n ∧ (n % 256 == 3 && (n.testBit 33 &&
      (cpUpdate t (pktReq t 0 1 0 (pktD n 8)) 4 (fun old => old + bits n 128 64)).2.isSome)) = true) ∧
    (∃ t at_ n, HeadIs (tQs tQ (w 3)) 0 1 0 t at_ n ∧ (n % 256 == 4 && optT (fun _ v => v == bits n 128 64) (cpNum t (pktReq t 0 1 0 (pktD n 8)) 4)) = true) ∧
    (∃ t at_ n, HeadIs (tQs tQ (w 2)) 0 1 0 t at_ n ∧ (n % 256 == 4 && optT (fun _ v => v != bits n 128 64) (cpNum t (pktReq t 0 1 0 (pktD n 8)) 4)) = true) ∧
    (∃ t at_ n, HeadIs (tQs tQ (5 + 2 ^ 32 + 0x60000 * 2 ^ 64 + 2 * 2 ^ 128)) 0 1 0 t at_ n ∧ (n % 256 == 5 && (match (pktBarrier t 0 1 0 n).2 with
      | .done h => h == 0
      | _ => false)) = true) :=
  ⟨head_of _ (by decide +kernel), head_of _ (by decide +kernel), head_of _ (by decide +kernel), head_of _ (by decide +kernel), head_of _ (by decide +kernel)⟩

theorem witness_QueueEvents : let idle : Queue := { st := .idle }
    let s := tQs idle 0
    let b := tQs { tQ with st := .blocked } (4 + 0x60000 * 2 ^ 64 + 2 * 2 ^ 128)
    let r := tQs { st := .resetting } 0
    let d := tQs { st := .resetting, struck := true } 0
    (s.queue? 0 1 0 = some idle ∧ s.ctx? 0 1 = some (tCx idle)) ∧
    (∃ t w, cpNum s (fwReq s 0 (Dword.plus ((tCx idle).qdesc 0) 0x80)) 4 = (t, some w) ∧
      (w != idle.ridx && (decide ((w + 2 ^ 32 - idle.ridx) % 2 ^ 32 ≤ 2 ^ 4) && exT (fun _ d => d.szlog == 4) (readQDesc t 0 1 0))) = true) ∧
    (∃ t x, headPacket b 0 1 0 { tQ with st := .blocked } = (t, .ok x) ∧ (x.2 % 256 == 4) = true) ∧
    (r.queue? 0 1 0 = some { st := .resetting } ∧ (let t := abortRecords (putQueue (settleStores r) 0 1 0 { st := .resetting, gen := 1, struck := true }) 0 1 0
      t.launches = [] ∧ (t.pkg 0).hub = [])) ∧
    (d.queue? 0 1 0 = some { st := .resetting, struck := true } ∧ d.launches = [] ∧
      ∃ t w, cpNum d (fwReq d 0 (Dword.plus ((tCx {}).qdesc 0) 0x80)) 4 = (t, some w) ∧ (w == 1) = true) :=
  ⟨⟨rfl, rfl⟩, opt_ex _ (by decide +kernel), ex_ex _ (by decide +kernel), ⟨rfl, by decide +kernel⟩, rfl, rfl, opt_ex _ (by decide +kernel)⟩

/-- A registration slot with a request. -/
def tWin (s : State) (r : Option WinReq) : State := s.putPkg 0 { (s.pkg 0) with slots := [(15, { req := r })] }
/-- Memory of a ticket in slot 15, and of a context descriptor at 0x9000 that names context 2. -/
def tRm : List (Nat × Nat × Nat) :=
  [(0x10F00, 0x84, 7), (0x9000, 0x40, 0), (0x9000, 8, 0x11000), (0x9008, 8, 2 + 6 * 2 ^ 32), (0x9010, 8, 0x20000), (0x9018, 8, 0x50000), (0x9020, 8, 1),
   (0x9028, 8, 0x4000000000000000)]

theorem witness_RegistrationCommands : let s := mapped { tS with pkgs := [(0, { up := true, ctxs := [(1, tCx {})] })] } tRm
    let req := fun (opc : Nat) (a b : Dword) => ({ ticket := 7, opc := opc, arg0 := a, arg1 := b, world := false } : WinReq)
    let at_ := fun (opc : Nat) (a b : Dword) => tWin s (some (req opc a b))
    (∃ t v, cpNum (tWin s none) (fwReq (tWin s none) 0 (slotAddr 0 15)) 0x84 = (t, some v) ∧ (bits v 0 32 != bits v 1024 32) = true) ∧
    (∀ opc < 6, SlotAsks (at_ opc 1 1) 0 15 (req opc 1 1) opc) ∧
    (ctlAddr (at_ 1 0x9000 0) 0x9000 64 = true ∧ ∃ t n, cpNum (at_ 1 0x9000 0) { fwReq (at_ 1 0x9000 0) 0 0x9000 with world := false } 0x34 = (t, some n) ∧
      (let x := parseCtx 0x9000 n
       ctxOk t x n && (!x.world && ((t.ctx? 0 (bits n 64 12)).isNone && (openQueues 0 (bits n 64 12) x (x.nq + 1) (t.putCtx 0 (bits n 64 12) x)).2))) = true) ∧
    (namedCtx (at_ 2 1 0) 0 (req 2 1 0) = .ok (tCx {}) ∧ ∀ i ≤ 1, ((tCx {}).queues.getD i {}).st = .stopped) ∧
    (namedCtx (at_ 3 1 1) 0 (req 3 1 1) = .ok (tCx {}) ∧ (1 : Nat) ≤ (tCx {}).nq) :=
  ⟨opt_ex _ (by decide +kernel), fun opc _ => ⟨rfl, rfl, rfl⟩, ⟨by decide +kernel, opt_ex _ (by decide +kernel)⟩, ⟨rfl, by decide⟩, rfl, by decide⟩

theorem witness_ExitAndDeviceLaunches_launch : let g : Machine.Group := { tGm with id := { tGm.id with ctx := 1, asid := 1, handle := 5 } }
    let s : State := { tQs {} 0 [(0x20000, 8, 0)] with groups := [(1, g)] }
    let g0 : Machine.Group := { g with wait := .none }
    (Runs ({} : Checks).closing shAreadExact { d := 8, a := 18 } s g tC ∧ recordOk s (g.s2 0 18) ∧ burrowOf s 1 = [] ∧ fenceWait (issuing s g) g0 { rel := true, scope := 6 } = false ∧
      g.deny = [] ∧ ∃ s1 pa e, xlate (issuing s g) (g.req 0 (g.s2 0 18)) = (s1, .ok pa e) ∧
        (pa == 2 ^ 39 && (queueLaunch (wbTensor s1 (clusterOf g.core)) s1.cur (g.s2 0 18)).1.cpStop.isNone) = true) ∧
    (∃ s1 h, takeHandle s (pkgOfCore (s.grp 1).core) (s.grp 1).id = (s1, some h) ∧ (h == 5 && decide ((s1.core (s.grp 1).core).plq.length < 4)) = true) ∧
    (Runs {} shLstatState { d := 8, b := 17 } s g tC ∧ s.ctx? g.id.pkg g.id.ctx = some (tCx {}) ∧ g.uB32 0 { d := 8, b := 17 } ≠ 0 ∧
      ∃ t v, cpNum (s.with g0) (cpReq (s.with g0) g.id ((tCx {}).statusAddr (g.uB32 0 { d := 8, b := 17 }))) 8 = (t, some v) ∧ (v == 0 && t.cpStop.isNone) = true) ∧
    (Runs {} shLstatState { d := 8, b := 18 } s g tC ∧ g.uB32 0 { d := 8, b := 18 } = 0 ∧ s.cpStop = none) ∧ Runs {} shMaskGet { d := 8 } s g tC :=
  ⟨⟨runs_of rfl rfl (by decide +kernel), by unfold recordOk; decide +kernel, rfl, by decide +kernel, rfl, xl_ex _ (by decide +kernel)⟩, opt_ex _ (by decide +kernel),
   ⟨runs_of rfl rfl (by decide +kernel), rfl, by decide +kernel, opt_ex _ (by decide +kernel)⟩, ⟨runs_of rfl rfl (by decide +kernel), by decide +kernel, rfl⟩,
   runs_of rfl rfl (by decide +kernel)⟩

/-! ### The dispatcher and the gang -/

def tPend (a : Dword) : PendLaunch := { addr := a, handle := 9, parent := { ctx := 1, asid := 1 }, grp := 1, released := true }
def tWork (a : Dword) : State :=
  let s := tQs {} 0 [(0x70000, 256, 0), (0x40000, 256, 0x600000000080100000201 * 2 ^ 256)]
  s.putPkg 0 { (s.pkg 0) with work := [tPend a] }
def tL : Launch := { members := [0], takers := [0] }

theorem witness_DispatcherAndGang_accept :
    (let s : State := { tS with cores := [(0, { plq := [tPend 0x40000] })] }
     (s.core 0).plq.filter (fun e => e.released) ≠ [] ∧ (s.pkg 0).spills.filter (fun e => e.released) = []) ∧
    (let s := tWork 0x40000
     (s.pkg 0).work = tPend 0x40000 :: [] ∧ s.listLen 0 < 256 ∧
      ∃ t, acceptLaunch (s.putPkg 0 { (s.pkg 0) with work := [] }) 0 0x40000 { ctx := 1, asid := 1, handle := 9 } 0 [] = (t, true)) ∧
    (let s := tWork 0x70000
     (s.pkg 0).work = tPend 0x70000 :: [] ∧ s.listLen 0 < 256 ∧
     (acceptLaunch (s.putPkg 0 { (s.pkg 0) with work := [] }) 0 0x70000 { ctx := 1, asid := 1, handle := 9 } 0 []).2 = false ∧
     ((acceptLaunch (s.putPkg 0 { (s.pkg 0) with work := [] }) 0 0x70000 { ctx := 1, asid := 1, handle := 9 } 0 []).1.groups.get? 1).isSome = true ∧
     (acceptLaunch (s.putPkg 0 { (s.pkg 0) with work := [] }) 0 0x70000 { ctx := 1, asid := 1, handle := 9 } 0 []).1.onCore tG 0 = true) ∧
    (State.reset.cohorts = [] ∧ State.reset.launches = []) ∧ (tL.st = .running ∧ tL.takers.contains 0 = true) :=
  ⟨by decide +kernel, ⟨rfl, by decide +kernel, true_ex (by decide +kernel)⟩, by decide +kernel, ⟨rfl, rfl⟩, rfl, rfl⟩

theorem witness_DispatcherAndGang_place : let s : State := { launches := [(7, tL)] }
    let full : State := s.putPkg 0 { (s.pkg 0) with rampNow := 0x0101, starts := [(0, 255), (1, 255), (2, 255), (3, 255)] }
    (s.launches.get? 7 = some tL ∧ tL.due 0 ≠ tL.info.cohorts ∧ sliceOk s tL 0 = true) ∧
    (match (diesFor s tL 0 (tL.due 0)).findSome? (fun d => (placeOn s tL (tL.due 0) d).map (fun cs => (d, cs))) with
      | some (d, cs) => mayStart s d cs.length && cs.length == 1
      | none => false) = true ∧
    (match (diesFor full tL 0 (tL.due 0)).findSome? (fun d => (placeOn full tL (tL.due 0) d).map (fun cs => (d, cs))) with
      | some (d, cs) => !mayStart full d cs.length
      | none => false) = true := ⟨⟨rfl, by decide +kernel, by decide +kernel⟩, by decide +kernel, by decide +kernel⟩

theorem witness_DispatcherAndGang_save : let c : Cohort := { launch := 7, stop := true }
    let s : State := { launches := [(7, tL)], cohorts := [(3, c)] }
    let b : Cohort := { launch := 7, stop := true, groups := [1] }
    let u : State := { launches := [(7, tL)], cohorts := [(0, b)], groups := [(1, { tG with wait := .held 0 })] }
    let v : State := { launches := [(7, tL)], saved := [(3, { cohort := { launch := 7 } })] }
    (s.cohorts.get? 3 = some c ∧ s.launches.get? c.launch = some tL ∧ tL.st = .running ∧
      (c.groups.foldl commAll (stopCohort s 3)).cohorts.get? 3 = some c ∧ savable (c.groups.foldl commAll (stopCohort s 3)) c = true) ∧
    (u.cohorts.get? 0 = some b ∧ (b.groups.foldl commAll (stopCohort u 0)).cohorts.get? 0 = some b ∧
      savable (b.groups.foldl commAll (stopCohort u 0)) b = false) ∧
    (v.saved.get? 3 = some { cohort := { launch := 7 } } ∧ tL.info.nw = 0 ∧ dieOfCore 95 = 0 ∧ fitsCore v tL.info [] 95 = true ∧
      sliceOk v tL 0 = true) := by decide +kernel

/-- A cohort that has not begun, on a die with no start left and on one with room; and one that has. -/
theorem witness_DispatcherAndGang_starts : let c : Cohort := { launch := 7, groups := [1] }
    let s : State := { launches := [(7, tL)], cohorts := [(3, c)] }
    let full : State := s.putPkg 0 { (s.pkg 0) with rampNow := 0x0101, starts := [(0, 255), (1, 255), (2, 255), (3, 255)] }
    (s.cohorts.get? 3 = some c ∧ c.begun = false ∧ c.neigh = [] ∧ mayStart s (dieOfCore c.core) 1 = true) ∧
    (full.cohorts.get? 3 = some c ∧ mayStart full (dieOfCore c.core) 1 = false) ∧
    (let d : Cohort := { c with begun := true }
     ({ s with cohorts := [(3, d)] } : State).cohorts.get? 3 = some d ∧ d.begun = true) := by decide +kernel

theorem witness_DispatcherAndGang_gang : let at_ := fun (st : GangSt) (l : Option GangLead) (w : GangWord) =>
      ({ pkgs := [(2, { gst := st, lead := l })], gmsgs := [{ src := 1, dest := 2, word := w }] } : State)
    ((at_ (.run 0) none (.propose 1 false)).gmsgs[0]? = some { src := 1, dest := 2, word := .propose 1 false } ∧
      ((at_ (.run 0) none (.propose 1 false)).pkg 2).gst = .run 0 ∧ ¬ (false = true ∧ (0 : Nat) = 1)) ∧
    (((at_ (.drain 0 1) none (.ack 1)).pkg 2).gst = .drain 0 1 ∧ sliceCohorts (at_ (.drain 0 1) none (.ack 1)) 2 0 = []) ∧
    (((at_ (.run 0) (some { slice := 1, waits := [1, 3] }) (.ack 1)).pkg 2).lead = some { slice := 1, waits := [1, 3] } ∧ [1, 3].filter (fun x => x != 1) ≠ []) ∧
    ((at_ (.acked 0 1) none (.commit 1)).pkg 2).gst = .acked 0 1 := by decide +kernel

/-! ### The tile engine, power, copies, batches and remote atomics -/

/-- The tile engine of core 0 with the triangle register enabled. -/
def tSt0 : State := { tSm with cores := [(0, { tile := { tri := { en := true } } })] }

theorem witness_TileInstructionsStart : let no := fun (_ : State) (_ : Machine.Group) => false
    (∀ x ∈ ([(tileChecks {} (fun _ g => fmtBad g 12) no, shTldb {}, { a := 16, lit := some 0x80, x := 0xC0 }),
      (tileChecks {} (fun _ g => fmtBad g 13) no, shTlda {}, { a := 16, lit := some 0x80, x := 0xD0 }),
      (tileChecks {} (tmmaIll false false {}) no, shTmma, {}), (tileChecks {} (tmmaIll true false {}) no, shTmmaBlock, {}),
      (tileChecks {} (tmmaIll false true {}) no, shTmmaTri, { a := 18 }), (tileChecks {} (tmmaIll true true {}) no, shTmmaBlockTri, { a := 18 }),
      (tileChecks {} (fun s _ => (s.tile 0).int) no, shTsca, { d := 4, a := 8, b := 12 }),
      (tileChecks {} (fun s _ => !(s.tile 0).tri.en) no, shTscaTri, { d := 4, a := 8, b := 12, c := 18 }),
      (tileChecks {} no no, shTaccZero, { x := 0xFFFF }), (tileChecks {} (fun _ g => !g.info.prot && decide (8 ≤ 7)) no, shTaccRdPair, { d := 8, x := 0x700 }),
      (tileChecks {} no no, shTaccRdVal, { d := 8 }), (tileChecks {} (fun s _ => (s.tile 0).int != decide ((0 : Nat) = 2)) no, shTaccSt, { a := 16, lit := some 0x400 }),
      (tileChecks {} (fun _ g => g.info.check && false) no, shTaccMode, { x := 1 }), (tileChecks {} no no, shTaccTri, { a := 8, b := 8, x := 2 }),
      (tileChecks {} no (fun _ g => maskRole { a := 18, x := 0x80008000 } g), shTctxSave, { a := 18, x := 0x80008000 }),
      (tileChecks {} no no, shTprogStep, { d := 8 })] : List Case), Runs x.1 x.2.1 x.2.2 tSt0 tGm tC) ∧
    operandCheck tSt0 tGm tileSource (fmtAlign 12) (tGm.s2 0 16) 0x80 96 ((macWidth 12 * fmtBits 12 + 7) / 8) = none ∧
    operandCheck tSt0 tGm tileSource (fmtAlign 13) (tGm.s2 0 16) 0x80 16 4 = none ∧
    operandCheck tSt0 tGm tileTarget (formSize 0) (tGm.s2 0 16) 0x400 16 (128 * formSize 0) = none ∧
    areaCheck tSt0 tGm (tGm.s2 0 18) 0x8000 0x8000 = none ∧ (tSt0.tile 0).jobs.length < 16 :=
  ⟨runs_all rfl rfl (by decide +kernel), by decide +kernel, by decide +kernel, by decide +kernel, by decide +kernel, by decide +kernel⟩

/-- A descriptor of one row, one column and one place of K. -/
def tDesc : List Word := (List.range 16).map (fun i => if 9 ≤ i ∧ i ≤ 11 then 1#32 else if i = 1 ∨ i = 3 then 0x80000000#32 else 0)
/-- A group whose uniform registers 0 to 15 hold it, with the place of the output in the scratchpad too. -/
def tGg : Machine.Group := (List.range 16).foldl (fun g i => Group.uni g i (if i = 5 then 0x80000000#32 else tDesc.getD i 0).toNat) tGm
/-- A tile sequence at a step, all of whose lines are done. -/
def tGj : TileJob := { num := 4, grp := 1, pend := 0, op := .gemm tDesc false false {}, pos := 1000, running := true }

def tStep (step : Nat) : State := { tSm with
  cores := [(0, { tile := { jobs := [tGj], step := step, total := 2 } })]
  dies := [(0, { granted := [{ who := .tile 0 4, units := 1 }] })] }

theorem witness_TileExecution_gemm :
    (Runs (tileChecks {} (gemmIll {} shTgemm) (fun s g => decide (g.info.macros < (Gemm.ofDesc (descOf g s.free {})).role + (Gemm.ofDesc (descOf g s.free {})).c)))
      shTgemm {} (stOf tGg) tGg tC ∧ gemmExtents (stOf tGg) tGg (Gemm.ofDesc (descOf tGg 0 {})) = none ∧ (Gemm.ofDesc (descOf tGg 0 {})).empty = false) ∧
    (∀ k < 2, (((tStep k).tile 0).jobs.find? (fun j => j.running && !j.held)).isSome = true ∧ ((tStep k).die 0).powerHeld (.tile 0 4) = true) ∧
    ((Gemm.ofDesc tDesc).kc 0 < (Gemm.ofDesc tDesc).nkc ∧ (Gemm.ofDesc tDesc).nkc ≤ (Gemm.ofDesc tDesc).kc 1) ∧
    (∃ u p, runLoads 0 tGj ((Gemm.ofDesc tDesc).lines {} 0 0 0) (tStep 0) = { s := u, pos := p }) ∧
    (∃ u p, runStores tGj ((Gemm.ofDesc tDesc).elts ((tStep 1).tile 0) 0 0) (tStep 1) = { s := u, pos := p }) := by
  refine ⟨⟨runs_of rfl rfl (by decide +kernel), by decide +kernel, by decide +kernel⟩, by decide +kernel, by decide +kernel, ?_, ?_⟩
  · have h : ((Gemm.ofDesc tDesc).lines {} 0 0 0).drop 1000 = [] := by rw [List.drop_eq_nil_iff]; decide +kernel
    exact ⟨_, _, by unfold runLoads; rw [show tGj.pos = 1000 from rfl, h]; rfl⟩
  · have h : ((Gemm.ofDesc tDesc).elts ((tStep 1).tile 0) 0 0).drop 1000 = [] := by rw [List.drop_eq_nil_iff]; decide +kernel
    exact ⟨_, _, by unfold runStores; rw [show tGj.pos = 1000 from rfl, h]; rfl⟩

def tJob (op : TileOp) : State := { tSm with cores := [(0, { tile := { jobs := [{ num := 4, grp := 1, pend := 0, op := op }] } })] }
def tMma : TileOp := .mma 0 2 0 0 false false false none 0 0 2 0 [2, 2]

theorem witness_TileExecution_passes : (∀ op ∈ ([.tri, tMma] : List TileOp), ((tJob op).tile 0).jobs.find? (fun j => decide (j.num = 4)) = some { num := 4, grp := 1, pend := 0, op := op } ∧
      tileFree (tJob op) 0 { num := 4, grp := 1, pend := 0, op := op } = true) ∧
    (∀ op ∈ ([.tri, tMma] : List TileOp), tileStays (tJob op) 0 { num := 4, grp := 1, pend := 0, op := op } = false) ∧
    (let j : TileJob := { num := 4, grp := 1, pend := 0, op := .gemm tDesc false false {} }
     let s : State := { tJob j.op with cohorts := [(0, { tK with stop := true })] }
     (s.tile 0).jobs.find? (fun x => decide (x.num = 4)) = some j ∧ tileFree s 0 j = true ∧ (s.cohort (s.grp j.grp).cohort).stop = true ∧
       ∀ x ∈ (s.tile 0).jobs, 4 ≤ x.num → x.op.isGemm = true) ∧
    TileOp.units .tri = 0 ∧ tMma.units ≠ 0 ∧ ((tJob tMma).die 0).powerHeld (.tile 0 4) = false ∧
    ({} : TileEng).tiles.rising = true ∧ triWhole none 0 0 (macWidth 2) = false ∧ triWhole (some { en := true, d := 0 }) 0 0 1 = false ∧
    (([.nan false].zip [.inf false] : List (XReal × XReal)).any (fun p => p.1.isNan || p.2.isNan || XReal.mulInvalid p.1 p.2) = true) := by decide +kernel

theorem witness_PowerArbiter : let at_ := fun (n : Nat) (q : List PowerReq) => ({ dies := [(0, { powerq := q, inuse := n, granted := [{ who := .seg 0, units := 1, ended := true }] })] } : State)
    let r := fun (n : Nat) => ({ who := .tile 0 0, units := n } : PowerReq)
    ((at_ 2046 [r 1]).die 0).inuse + 1 ≤ ((at_ 2046 [r 1]).die 0).budget ∧ ((at_ 0 [r 4096]).die 0).inuse = 0 ∧
    (((at_ 2047 [r 1]).die 0).budget < ((at_ 2047 [r 1]).die 0).inuse + 1 ∧ ((at_ 2047 [r 1]).die 0).inuse ≠ 0) ∧
    ((at_ 1 []).die 0).granted[0]? = some { who := .seg 0, units := 1, ended := true } ∧
    (let s : State := { dies := [(0, { granted := [{ who := .copy 0 7, units := 1 }] })], cores := [(0, { chans := [(7, { st := .grant })] })] }
     ({ who := .copy 0 7, units := 1 } : PowerReq) ∈ (s.die 0).granted ∧ (s.chan 0 7).st = .grant) := by decide

/-- Uniform registers 20 to 23: element size 1, one row, and an index list in the scratchpad. -/
def tGc : Machine.Group := Group.uni (Group.uni (Group.uni (Group.uni tGm 20 1) 21 1) 22 0) 23 0x80000000

theorem witness_CopiesAndBatches_start : let at_ := fun (k : CopyKind) (sh : Shape) (o : EOps) =>
      (({ roleChan ({} : Checks).closing o with illegal := fun _ g => g.regsIn sh o && (copyJobOf k g 0 o).bad }, sh, o) : Case)
    let job := fun (k : CopyKind) (o : EOps) => ({ copyJobOf k { tGc with wait := .none } 0 o with grp := 1 } : CopyJob)
    let line : EOps := { d := 16, a := 18, lit := some 0x1000, x := 7 }
    let regs : EOps := { d := 16, a := 18, b := 20, x := 7 }
    (∀ x ∈ ([at_ .line (shCpy line) line, at_ .rect (shCpy2 regs) regs, at_ .gather (shCpy2 regs) regs, at_ .scatter (shCpy2 regs) regs] : List Case),
      Runs x.1 x.2.1 x.2.2 (stOf tGc) tGc tC) ∧
    copyCheck (stOf tGc) { tGc with wait := .none } (job .line line) = none ∧
    (∀ k ∈ ([.rect, .gather, .scatter] : List CopyKind), copyCheck (stOf tGc) { tGc with wait := .none } (job k regs) = none) ∧
    ((stOf tGc).chan 0 7).queue.length < 16 ∧ burrowOf (stOf tGc) 1 = [] :=
  ⟨runs_all rfl rfl (by decide +kernel), by decide +kernel, by decide +kernel, by decide +kernel, rfl⟩

/-- A copy of 16 bytes within the scratchpad, at the head of a running channel: its first 8 bytes are in flight and have been moved. A hub
copy that stands there too. -/
def tP : Piece := { lo := 0, hi := 8, n := 8, ends := some (0x8000000000000000, 0x8000000000010000) }
def tCj : CopyJob := {
  grp := 1, batch := 1, kind := .line, dst := 0x8000000000000000, src := 0x8000000000010000, n := 16, flow := { sent := 8, fly := [tP] } }
def tHub : HubCopy := { id := {}, eidx := 0, dst := 0, src := 0x1000, n := 16, flow := { sent := 8, fly := [{ tP with ends := some (0, 0x1000) }] } }
def tCs : State := { tSm with cores := [(0, { chans := [(7, { st := .run, queue := [tCj] })] })], pkgs := [(0, { hub := [(3, tHub)] })] }

theorem witness_CopiesAndBatches_run :
    ({ tCj with n := 0x10000 } : CopyJob).bytes ≤ 0x10000 ∧ tCj.bytes ≠ 0 ∧ (tSm.chan 0 7).queue = [] ∧ (tSm.chan 0 7).st = .idle ∧ (∀ q < 32, tSm.lostTo 0 q = false) ∧
    ((tCs.chan 0 7).queue = tCj :: [] ∧ tCj.flow.fly = tP :: [] ∧ tP.st = .go ∧ (∀ va, tP.st ≠ .held va) ∧ Moved tP 0x8000000000000000 0x8000000000010000 ∧
      tP.lo = tCj.flow.prog ∧ tCj.bar = none ∧ Home 0 (tCj.near tP.lo) ∧ (tCs.chan 0 7).st = .run) ∧
    ((tCs.pkg 0).hub.get? 3 = some tHub ∧ tHub.flow.fly = { tP with ends := some (0, 0x1000) } :: [] ∧ Moved { tP with ends := some (0, 0x1000) } 0 0x1000 ∧
      tP.lo = tHub.flow.prog ∧ tHub.bar = none ∧ Home 0 (Dword.plus tHub.dst tP.lo) ∧ tP.hi < tHub.n ∧ tHub.flow.err = none ∧
      tP.hi ≤ tHub.flow.sent ∧ tHub.flow.sent < tHub.n) :=
  ⟨by decide, by decide, by decide +kernel, by decide +kernel, by decide +kernel,
   ⟨rfl, rfl, rfl, nofun, ⟨rfl, rfl, rfl⟩, rfl, rfl, .inl (by decide +kernel), rfl⟩,
   rfl, rfl, ⟨rfl, rfl, rfl⟩, rfl, rfl, .inr (by decide +kernel), by decide, rfl, by decide, by decide⟩

/-- A piece is sent, and none after an error; a byte of a piece is read, and one is written; a piece whose ends are not known yet does not move
where its index list is not mapped. -/
theorem witness_CopiesAndBatches_pieces : let c := tCj.carrier 0 7
    let r := copyReq 0 7 tCj
    ({ err := some (1, 0) } : Flow).err ≠ none ∧ tCj.flow.err = none ∧ tCj.flow.sent < c.last ∧ (tCj.kind = .line ∧ 8 < tCj.n) ∧
    accT (fun _ bs => bs.length == 1) (copyFetch tCs 0 tCj (r 0x8000000000010000)) = true ∧
    accT (fun _ _ => true) (copyPut tCs 0 7 tCj { r 0x8000000000000000 with write := true, read := false } [5]) = true ∧
    (let q : CopyJob := { tCj with kind := .gather, idx := 0x1000 }
     let w := (q.carrier 0 7).open_ { s := tCs, p := { lo := 0, hi := 1, n := 1, unread := [0] } }
     (q.carrier 0 7).moves w = false ∧ w.p.unread = [0]) := by
  refine ⟨by decide, rfl, by decide +kernel, ⟨rfl, by decide⟩, by decide +kernel, by decide +kernel, by decide +kernel, by decide +kernel⟩

/-- A group has stored the byte 9 to an address where 5 stood, after its copy of instruction 0, and a copy of batch 1 has landed there. -/
def tRace : Machine.Group := { tGm with
  batches := { newest := 1, recs := [{ num := 1 }] }
  stores := [{ place := (1, 0x10000), old := 5, seq := 3 }]
  landed := [{ place := (1, 0), n := 8, by_ := .copy 1 7 }] }

theorem witness_CopiesAndBatches_races :
    ((tRace.storedAfter 2 (1, 0x10000) = true ∧ tRace.storedAfter 3 (1, 0x10000) = false) ∧
      (∃ w ∈ tRace.stores, (placesOf tSm 1 0 0x800000000000FFFF 2)[1]? = some w.place ∧ 0 < w.seq)) ∧
    (tRace.landedBy (fun _ => true) (1, 7) = true ∧ tRace.landedBy (fun _ => true) (1, 8) = false) ∧
    ((tSm.grp 1).landed = [] ∧ (tSm.grp 1).stores = [] ∧ tSm.calm 1 = true) ∧
    (tCs.calm 1 = false ∧
      accT (fun _ bs => accT (fun _ _ => true) (laneWrite tCs 1 0 { copyReq 0 7 tCj tCj.dst with write := true, read := false } 0 0 bs))
        (laneRead tCs 1 { copyReq 0 7 tCj tCj.dst with read := true, write := false } 0 0 8) = true) ∧
    (accT (fun _ _ => true) (copyWrite tCs 0 1 0 { copyReq 0 7 tCj tCj.dst with write := true, read := false } 0 [1, 2]) = true) ∧
    (tRace.batches.covers 1 1 = true ∧ tRace.batches.covers 1 2 = false ∧ (tRace.waited 1).landed = [] ∧ (tRace.waited 0).landed = tRace.landed) :=
  ⟨by decide +kernel, by decide +kernel, by decide +kernel, by decide +kernel, by decide +kernel, by decide +kernel⟩

def tBatch (left : Nat) : Machine.Group := { tGm with batches := { newest := 1, recs := [{ num := 1, left := left }] } }

theorem witness_CopiesAndBatches_batches : let w : EOps := { lit := some 1 }
    (∀ x ∈ ([({}, shCseal, { d := 8 }), ({}, shCwait, w), ({}, shCwaitTest, { w with d := 2 }), (roleChan {} { d := 8, x := 7 }, shCwptrAddr, { d := 8, x := 7 }),
      (roleChan {} { d := 8, x := 7 }, shCwptrProg, { d := 8, x := 7 })] : List Case), Runs x.1 x.2.1 x.2.2 tSm tGm tC) ∧ tGm.batches.recs.length < 16 ∧
    (Runs {} shCwait w (stOf (tBatch 0)) (tBatch 0) tC ∧ ∀ r ∈ cwaitTarget (tBatch 0).batches 1, r.left = 0 ∧ r.peer = false ∧ r.other = false) ∧
    (Runs {} shCwait w (stOf (tBatch 1)) (tBatch 1) tC ∧ ∃ r ∈ cwaitTarget (tBatch 1).batches 1, r.left ≠ 0) :=
  ⟨runs_all rfl rfl (by decide +kernel), by decide, ⟨runs_of rfl rfl (by decide +kernel), by decide +kernel⟩, runs_of rfl rfl (by decide +kernel), by decide +kernel⟩

/-- The pair 16 of lanes 0 and 1 holds a tensor address; a request of a line is under way on die 0. -/
def tGt2 : Machine.Group := Group.lanes (Group.lanes tGm 16 0) 17 0x40000000
def tReq : RatomReq := { num := 0, seq := 0, op := .add, n := 4, accs := [], batch := 0 }
def tRq (line : Nat) (done : Bool) (q : List Nat) : State :=
  { stOf { tGm with ratoms := [{ tReq with accs := [{ lane := 0, va := BitVec.ofNat 64 (2 ^ 62 + line * 128) }], done := done }] } with dies := [(0, { wqa := q })] }

theorem witness_RemoteAtomics : let o : EOps := { a := 16, b := 8 }
    let h : Machine.Group := { tGm with wait := .held 0 }
    (∀ x ∈ ([(({} : Checks).closing, shRatom .add .s32, o), (({} : Checks).closing, shRatomRet .add .s32, { o with d := 8 }),
      (({} : Checks).closing, shRatomRet .cas .s128, { o with d := 8, c := 12 }), (({} : Checks).closing, shTfence, {})] : List Case), Runs x.1 x.2.1 x.2.2 (stOf tGt2) tGt2 tC) ∧
    (let m := tGt2.active (shRatom .add .s32) o 0
     let u := issuing (stOf tGt2) tGt2
     tGt2.mismatch (tGt2.fold m) (fun v => vaDiffer tGt2 0 o v || dataB tGt2 0 o 4 (2 * v) != dataB tGt2 0 o 4 (2 * v + 1) || (AtomOp.add == .cas && false)) = 0 ∧
       fenceWait u { tGt2 with wait := .none } (laneLater (stOf tGt2) tGt2 o m true true) = false ∧ tGt2.comm = [] ∧
       laneChecks (stOf tGt2) tGt2 .ratom 4 4 ((accLanes tGt2 m).map (fun l => (l, laneVa tGt2 0 o l))) = none ∧
       loadWaitsTile u 1 (laneReach (stOf tGt2) tGt2 o m 4) = false ∧ storeWaitsTile u 1 (laneReach (stOf tGt2) tGt2 o m 4) = false ∧
       domRelease tGt2 o = false ∧ ratomsOut u 0 + 1 ≤ 256) ∧
    ((dieRatoms (tRq 0 false []) 0)[0]? = some (1, 0) ∧ ((tRq 0 true []).grp 1).ratoms[0]? = some { tReq with accs := [{ lane := 0, va := 0x4000000000000000 }], done := true }) ∧
    (burrowOf (stOf tGt2) 1 = [] ∧ tGt2.gives = 0 ∧ tGt2.fenced tGt2.seq { rel := true } = false ∧ (tRq 0 false []).groups.all (fun e => e.2.ratoms.any (fun r => decide (r.seq ≤ e.2.seq)))) ∧
    (({ stOf h with refused := [{ who := .group 1, hint := 4 }] } : State).refused[0]? = some { who := .group 1, hint := 4 } ∧ (stOf h).groups.get? 1 = some h ∧ h.wait = .held 0) :=
  ⟨runs_all rfl rfl (by decide +kernel), by decide +kernel, by decide +kernel, ⟨rfl, rfl, by decide +kernel, by decide +kernel⟩, rfl, rfl, rfl⟩

/-- A request that its memory side performs; and one that a full queue of its MSC refuses. -/
theorem witness_RemoteAtomics_queue : let r : RatomReq := { tReq with accs := [{ lane := 0, va := 0x4000000000000000, b := 1 }] }
    let s := tensorMapped (stOf { tGm with ratoms := [r] }) []
    let q := tensorMapped tSm ((List.range 256).map (· + 100))
    let x := { tGm.req 2 0x4000000000000000 with write := true }
    (dieRatoms s 0)[0]? = some (1, 0) ∧ (s.grp 1).ratoms[0]? = some r ∧ ratomLogged s 1 r = false ∧ s.lostTo 0 r.pkg = false ∧ pathUp s 0 r.pkg = true ∧
      dieHolds s 0 r.pkg r.order = false ∧ accT (fun _ _ => true) (eachAcc (ratomLane 1 r) r.accs s) = true ∧
    ∃ u pa e, xlate (dropLine (stashEvent q 0 (fun e => e.tag == reqTag q x) true) 0 (reqTag q x)) x = (u, .ok pa e) ∧
      (pa == 0 && (!((u.die 0).wq false).contains 0 && decide (256 ≤ ((u.die 0).wq false).length))) = true :=
  ⟨by decide +kernel, by decide +kernel, by decide +kernel, by decide +kernel, by decide +kernel, by decide +kernel, by decide +kernel,
   xl_ex _ (by decide +kernel)⟩

/-! ### Allowances and the solver engine -/

/-- Lane 0 of core 0's group reaches a counter at control address 0: the uniform registers 20 to 23 hold value 1, quantum 1 and limit 4. -/
def tGn : Machine.Group := Group.uni (Group.uni (Group.uni (Group.uni tGm 20 1) 21 0) 22 1) 23 4
def tCt (g : Machine.Group) (c : Counter) : State := { mapped (stOf g) [] with ctrs := [(0, c)] }
def tTake : AOp := { kind := .take, n := 1, grp := 1, core := 0, id := tGm.id }

theorem witness_AllowanceInstructions : let o : EOps := { d := 8, a := 18, b := 20 }
    let s := tCt tGn { reserve := 8, q := 1, m := 4 }
    (∀ x ∈ ([(({} : Checks).closing, shAtake, o), (({} : Checks).closing, shBrxIdx, { o with d := 0 }), (({} : Checks).closing, shAreadExact, { o with b := 0 }),
      (({} : Checks).closing, shAcrtFree, { o with b := 0 }), (({} : Checks).closing, shAcrtNew, o), (({} : Checks).closing, shAcrtNew, { o with b := 24 })] : List Case),
      Runs x.1 x.2.1 x.2.2 s tGn tC) ∧
    burrowOf s 1 = [] ∧ tGn.allowBusy = false ∧ (tGn.s2 0 18).toNat % 64 = 0 ∧ spaceOf (tGn.s2 0 18) = .control ∧ vaPkg (tGn.s2 0 18) < s.domain ∧
    slotReady s 0 tTake = true ∧ (tGn.s1 0 22).toNat = 1 ∧ (tGn.s1 0 23).toNat = 4 ∧ (tGn.s1 0 21 ++ tGn.s1 0 20).toNat = 1 ∧ (tGn.s1 0 26).toNat = 0 :=
  ⟨runs_all rfl rfl (by decide +kernel), by decide +kernel, by decide +kernel, by decide +kernel, by decide +kernel, by decide +kernel, by decide +kernel,
   by decide +kernel, by decide +kernel, by decide +kernel, by decide +kernel⟩

theorem witness_AllowanceInstructions_slot : let x : Slot := { st := .held, a := 3 }
    x.st = .held ∧ tTake.n ≤ x.a ∧ x.a + tTake.n ≤ ((tCt tGn { m := 4 }).ctrs.getD 0 {}).m := by decide

def tCtr (r : AReq) (n : Nat) (round : Bool) : Counter := { reserve := n, q := 1, m := 4, queue := [r], round := round }
def checkT (p : State × Option (Except Nat (Nat × Dword))) : Bool :=
  match p.2 with
  | some (.ok _) => true
  | _ => false
theorem check_ex {p : State × Option (Except Nat (Nat × Dword))} (h : checkT p = true) : ∃ t phys leaf, p = (t, some (.ok (phys, leaf))) := by
  obtain ⟨t, x⟩ := p
  rcases x with _ | _ | ⟨a, b⟩
  · cases h
  · cases h
  · exact ⟨t, a, b, rfl⟩

/-- The home grants to a slot and to a remote core, and recalls. -/
theorem witness_AllowanceMessages_serve : let r : AReq := { op := tTake, cl := some 0 }
    let f : AReq := { op := tTake }
    (∀ c ∈ ([tCtr r 8 false, tCtr f 8 false, tCtr r 0 false] : List Counter), (tCt tGn c).ctrs.get? 0 = some c ∧ c.awaited = 0 ∧ c.live = true ∧ c.broken = false) ∧
    (∃ t p l, homeCheck (tCt tGn (tCtr r 8 false)) tTake 0 = (t, some (.ok (p, l)))) ∧ (∃ t p l, homeCheck (tCt tGn (tCtr f 8 false)) tTake 0 = (t, some (.ok (p, l)))) ∧
    (∃ t p l, homeCheck (tCt tGn (tCtr r 0 false)) tTake 0 = (t, some (.ok (p, l)))) ∧ r.op.n - r.loc ≤ (tCtr r 8 false).reserve ∧
    (tCtr r 0 false).reserve < r.op.n - r.loc ∧ (tCtr r 0 false).round = false :=
  ⟨by decide, check_ex (by decide +kernel), check_ex (by decide +kernel), check_ex (by decide +kernel), by decide, by decide, rfl⟩

/-- A message waits for cluster 0's slot of the counter, which waits for it, or for its home. -/
def tMs (x : Slot) (w : AWord) : State :=
  { tCt tGn { reserve := 8, q := 1, m := 4 } with amsgs := [{ va := 0, cl := some 0, word := w }], clusters := [(0, { slots := [(0, x)] })] }

theorem witness_AllowanceMessages : let x : Slot := { st := .wait, op := some tTake }
    (∀ w ∈ ([.grant 1 0 4, .refusal false, .reply 4, .recall, .answer 2, .giveUp 2 tTake, .giveBack 2 tTake] : List AWord),
      (tMs x w).slotOf 0 0 = some x ∧ MsgIs (tMs x w) 0 { va := 0, cl := some 0, word := w }) ∧ x.op = some tTake ∧
    ((tMs {} .recall).slotOf 0 0 = some {} ∧ ({} : Slot).st ≠ .wait) ∧
    (let c : Counter := { reserve := 8, q := 1, m := 4 }
     let t := { tMs x (.giveBack 2 tTake) with amsgs := [] }
     t.ctrs.get? 0 = some c ∧ c.reserve + 2 ≤ 2 ^ 48 - 1 ∧ (∃ u p l, homeCheck t tTake 0 = (u, some (.ok (p, l)))) ∧ (homeCheck t tTake 0).1.ctrs.get? 0 = some c) := by
  refine ⟨?_, rfl, by decide, by decide, by decide, check_ex (by decide +kernel), by decide +kernel⟩
  intro w h; exact ⟨rfl, rfl, by simp [tMs]⟩

/-- The outcome of an engine's action is that it ended. -/
def solvT (p : State × Solv Unit) : Bool :=
  match p.2 with
  | .ok _ => true
  | _ => false
theorem solv_ex {p : State × Solv Unit} (h : solvT p = true) : ∃ t, p = (t, .ok ()) := by
  obtain ⟨t, x⟩ := p
  cases x with
  | ok a => exact ⟨t, rfl⟩
  | held => cases h
  | bad => cases h
  | stop _ _ => cases h

/-- Batch 0 of die 0: one stage, one element, slot 0; its buffer, barriers and records stand in control space. -/
def tBd : List Word := (List.range 256).map (fun i => match i with
  | 0 => 1#32 | 1 => 0x00010100#32 | 2 => 1#32 | 3 => 0x00010000#32 | 4 => 0x3F800000#32 | 6 => 0x3F800000#32 | 7 => 0x3F800000#32 | 8 => 0x1000#32
  | 10 => 0x2000#32 | 12 => 0x2100#32 | 14 => 0x2200#32 | 16 => 0x3000#32 | _ => 0)
def tBp : Sample := { t := 0, h := 0x3F800000#32, tend := 0x40000000#32, status := 2, xaddr := 0x6000, waddr := 0x7000 }
def tBx (st : BatchSt) (act : SolvAct) : SolverBatch := { st := st, id := tGm.id, desc := tBd, samples := [(0, tBp)], list := [0], act := act, r := 1 }
def tBs (st : BatchSt) (act : SolvAct) : State :=
  let s := mapped tSm [(0x2000, 16, 0x10001), (0x2100, 16, 0x10001), (0x2200, 16, 0x10001)]
  s.putDie 0 { (s.die 0) with solver := [(0, tBx st act)] }

theorem witness_SolverInstructions : let o : EOps := { d := 8, a := 18 }
    let s := tBs .free .idle
    (∀ x ∈ ([({}, shSstatBatch, { d := 8 }), ({}, shSstatSamp, { d := 8, b := 20 }), (({} : Checks).closing, shSconf, o), (({} : Checks).closing, shSstart, {})] : List Case),
      Runs x.1 x.2.1 x.2.2 s tGm tC) ∧
    sconfCheck s tGm (tGm.s2 0 18) = none ∧ Published s tGm 5 ∧ tGm.deny = [] ∧
    (∃ t x, pocOpen (s.with { tGm with wait := .none }) (tGm.req 0 (tGm.s2 0 18)) = (t, .ok x)) ∧
    (∀ st ∈ ([.conf, .run, .paused, .ended] : List BatchSt), ((tBs st .input).solver 0 0).id.asid = ((tBs st .input).grp 1).id.asid ∧
      ((tBs st .input).solver 0 0).id.world = ((tBs st .input).grp 1).id.world ∧ ((tBs st .input).solver 0 0).st = st ∧ ((tBs st .input).solver 0 0).act ≠ .finish) ∧
    (let f := (tBs .run .input).putSolver 0 0 { tBx .run .input with id := { tGm.id with asid := 9 } }
     ¬ ((f.solver 0 0).id.asid = (f.grp 1).id.asid ∧ (f.solver 0 0).id.world = (f.grp 1).id.world) ∧ (f.solver 0 0).st ≠ .free) := by
  refine ⟨runs_all rfl rfl (by decide +kernel), by decide +kernel, ⟨by decide +kernel, rfl, by decide +kernel⟩, rfl, ?_, by decide +kernel, by decide +kernel⟩
  obtain ⟨t, x, h, -⟩ := acc_ex (p := pocOpen ((tBs .free .idle).with { tGm with wait := .none }) (tGm.req 0 (tGm.s2 0 18))) (fun _ _ => true) (by decide +kernel)
  exact ⟨t, x, h⟩

theorem witness_SolverActions : (∀ a ∈ ([.input, .collect, .decide, .finish] : List SolvAct), ((tBs .run a).solver 0 0).held = false ∧ ((tBs .run a).solver 0 0).st = .run ∧
      ((tBs .run a).solver 0 0).act = a) ∧
    ((∃ t, doInput (solverAt (tBs .run .input) 0 0) 0 0 = (t, .ok ())) ∧ (∃ t, doCollect (solverAt (tBs .run .collect) 0 0) 0 0 = (t, .ok ())) ∧
     (∃ t, doDecide (solverAt (tBs .run .decide) 0 0) 0 0 = (t, .ok ())) ∧ (∃ t, doFinish (solverAt (tBs .run .finish) 0 0) 0 0 = (t, .ok ()))) ∧
    (((doInput (solverAt (tBs .run .input) 0 0) 0 0).1.solver 0 0).ctls = [] ∧ ((doCollect (solverAt (tBs .run .collect) 0 0) 0 0).1.solver 0 0).ctls = [] ∧
     ((doDecide (solverAt (tBs .run .decide) 0 0) 0 0).1.solver 0 0).ctls = [] ∧ ((doFinish (solverAt (tBs .run .finish) 0 0) 0 0).1.solver 0 0).ctls = []) ∧
    (((tBs .paused .input).solver 0 0).act = .input ∧ ((tBs .paused .input).solver 0 0).st = .paused) ∧
    (((tBs .run .collect).solver 0 0).act ≠ .idle ∧ ((tBs .run .collect).solver 0 0).act ≠ .finish ∧ ((tBs .run .collect).solver 0 0).samples.get? 0 = some tBp ∧ tBp.status = 2) :=
  ⟨by decide +kernel, ⟨solv_ex (by decide +kernel), solv_ex (by decide +kernel), solv_ex (by decide +kernel), solv_ex (by decide +kernel)⟩,
   ⟨by decide +kernel, by decide +kernel, by decide +kernel, by decide +kernel⟩, by decide +kernel, by decide +kernel⟩

/-! ### The collective engine -/

def solvB {α : Type} (P : State → α → Bool) (p : State × Solv α) : Bool :=
  match p.2 with
  | .ok x => P p.1 x
  | _ => false
theorem solvB_ex {α : Type} {p : State × Solv α} (P : State → α → Bool) (h : solvB P p = true) : ∃ t x, p = (t, .ok x) ∧ P t x = true := by
  obtain ⟨t, x⟩ := p
  cases x with
  | ok a => exact ⟨t, a, rfl, h⟩
  | held => cases h
  | bad => cases h
  | stop _ _ => cases h

/-- A descriptor of one member, one bucket and one element of U32, its member table and its signal word. -/
def tCd : List Word := [0x00003001#32, 0x00010000#32, 1#32, 1#32, 0#32, 0x40000000#32, 0x1000#32, 0x40000000#32, 0x9000#32, 0#32, 0x9100#32, 0#32, 0#32, 0#32, 5#32, 0#32]
def tCr (st : CollSt) (ws : List Word) : CollRec := { grp := 1, seq := 0, id := tGm.id, addr := 0x8000, words := ws, st := st }
def tCo (x : CollRec) : State :=
  let s := mapped tSm [(0xA000, 64, 0), (0x8000, 64, (tCd.map BitVec.toNat).foldr (fun w n => w + n * 2 ^ 32) 0), (0x9100, 4, 1), (0x9000, 4, 0), (0, 4, 7)]
  s.putDie 0 { (s.die 0) with colls := [(0, x)] }

theorem witness_Collectives_instructions : let o : EOps := { d := 8, a := 18 }
    let w : EOps := { d := 8, b := 20 }
    (∀ x ∈ ([(({} : Checks).closing, shColl, o), ({}, shCollw, w), (({} : Checks).closing, shCarbSet, { x := 0x1F }),
      (({} : Checks).closing, shCarbGet, { d := 8 })] : List Case), Runs x.1 x.2.1 x.2.2 (tCo (tCr .issued [])) tGm tC) ∧
    (descCheck (tCo (tCr .issued [])) (tGm.s2 0 18) 64 = none ∧ Published (tCo (tCr .issued [])) tGm 4 ∧ tGm.deny = [] ∧
      (∃ t x, pocOpen ((tCo (tCr .issued [])).with { tGm with wait := .none }) (tGm.req 0 (tGm.s2 0 18)) = (t, .ok x) ∧ (freeColl t 0 == some 1) = true)) ∧
    collOf tSm tGm (tGm.uB32 0 w) = none ∧
    collOf (tCo (tCr .done [])) tGm (tGm.uB32 0 w) = some (0, 0, tCr .done []) ∧ (tCr .done []).status ≠ 1 ∧
    collOf (tCo (tCr .running [])) tGm (tGm.uB32 0 w) = some (0, 0, tCr .running []) ∧
    Runs {} shCollw w (tCo (tCr .done [])) tGm tC ∧ Runs {} shCollw w (tCo (tCr .running [])) tGm tC ∧ Runs {} shCollw w tSm tGm tC :=
  ⟨runs_all rfl rfl (by decide +kernel), ⟨by decide +kernel, ⟨by decide +kernel, rfl, by decide +kernel⟩, rfl, acc_ex _ (by decide +kernel)⟩,
   by decide +kernel, by decide +kernel, by decide, by decide +kernel, runs_of rfl rfl (by decide +kernel), runs_of rfl rfl (by decide +kernel),
   runs_of rfl rfl (by decide +kernel)⟩

def wordsOf (bs : List Byte) : List Word := (List.range 16).map (fun i => BitVec.ofNat 32 (bytesNat ((bs.drop (4 * i)).take 4)))

theorem witness_Collectives_join : let x := tCr .issued []
    let z := { tCr .issued [] with addr := 0xA000 }
    ((tCo x).coll 0 0 = some x ∧ x.st = .issued ∧ x.held = false ∧ collActive (tCo x) 0 0 = true) ∧
    (∃ t bs, collRead (tCo z) 0 0 z z.addr 64 = (t, .ok bs) ∧ ({ z with words := wordsOf bs } : CollRec).invalid 0 = true) ∧
    (∃ t bs, collRead (tCo x) 0 0 x x.addr 64 = (t, .ok bs) ∧ (let y := { x with words := wordsOf bs }
      !y.invalid 0 && solvB (fun u ms => bytesNat ((ms.drop (4 * y.rank)).take 4) == 0 &&
        !(((List.range y.nm).map (fun k => bytesNat ((ms.drop (4 * k)).take 4) / 256)).eraseDups.any (u.lostTo 0))) (collRead t 0 0 y y.members (4 * y.nm))) = true) :=
  ⟨by decide +kernel, solvB_ex _ (by decide +kernel), solvB_ex _ (by decide +kernel)⟩

/-- A running record with a segment to send, its source in control space, and one that is complete. -/
def tCg : CollRec := { tCr .running (tCd.set 5 0) with ready := 1, mates := [(0, 0)], left := 1, sendq := [{ block := 0, lo := 0, n := 1 }] }
def tCe : CollRec := { tCr .running tCd with ready := 1, mates := [(0, 0)] }

theorem witness_Collectives_events : (tCo tCg).coll 0 0 = some tCg ∧ tCg.held = false ∧ tCg.nb ≠ 0 ∧ tCg.st = .running ∧ tCg.nm = 1 ∧
    (∃ t bs, collRead (tCo tCg) 0 0 tCg tCg.signal 4 = (t, .ok bs) ∧ (bytesNat bs == 1) = true) ∧
    (tCg.sendq[0]? = some { block := 0, lo := 0, n := 1 } ∧ (∀ m ∈ collDests tCg { block := 0, lo := 0, n := 1 }, pathUp (tCo tCg) 0 (m.1 / 4) = true) ∧
      segHeld (tCo tCg) 0 0 tCg { block := 0, lo := 0, n := 1 } = false ∧
      ∃ t bs, collRead (tCo tCg) 0 0 tCg (tCg.src + BitVec.ofNat 64 ((0 * tCg.count + 0) * tCg.z)) (1 * tCg.z) = (t, .ok bs) ∧ (bs.length == 4) = true) ∧
    ((tCo tCe).coll 0 0 = some tCe ∧ tCe.held = false ∧ tCe.st = .running ∧ tCe.left = 0 ∧ tCe.sendq = [] ∧ (if tCe.nb = 0 then 1 else tCe.nb) ≤ tCe.ready ∧
      tCe.bar = 0 ∧ tCe.st ≠ .done ∧ tCe.st ≠ .issued) ∧
    (let l : State := { (tCo { tCe with pkgs := [1] }) with lost := [(0, 2#32)] }
     ({ tCe with pkgs := [1] } : CollRec).pkgs.any (l.lostTo 0) = true) :=
  ⟨by decide +kernel, rfl, by decide, rfl, by decide, solvB_ex _ (by decide +kernel), ⟨rfl, by decide +kernel, by decide +kernel, solvB_ex _ (by decide +kernel)⟩,
   by decide +kernel, by decide +kernel⟩

/-! ### Page classes and coherence -/

theorem witness_PageClasses : let s := mapped tSm []
    let sub := fun (e : TlbEnt) (c : Nat) => entClass e.word == c
    (∀ x ∈ ([({}, shAcrtFree, { d := 8, a := 18 }), ({}, shPclassSet, { d := 8, a := 18, x := 0 }), ({}, shPclassHint, { d := 8, a := 18, x := 0 }),
      (({} : Checks).closing, shPclassClear, { d := 8, a := 18 })] : List Case), Runs x.1 x.2.1 x.2.2 s tGm tC) ∧
    spaceOf (tGm.s2 0 18) = .control ∧ vaPkg (tGm.s2 0 18) < s.domain ∧ tGm.deny = [] ∧ burrowOf s 1 = [] ∧ tGm.fenced tGm.seq { ctl := true, stores := true } = false ∧
    (∃ t e, classLeaf (s.with { tGm with wait := .none }) 1 (tGm.s2 0 18) false = (t, .ok e) ∧ sub e 2 = true) ∧
    (∃ t e, classLeaf (s.with { tGm with wait := .none }) 1 (tGm.s2 0 18) true = (t, .ok e) ∧ sub e 2 = true) ∧
    entClass tEnt.word = 2 ∧ (s.home (leafLine 0 tEnt)).poisoned = false :=
  ⟨runs_all rfl rfl (by decide +kernel), by decide +kernel, by decide +kernel, rfl, by decide +kernel, by decide +kernel, acc_ex _ (by decide +kernel), acc_ex _ (by decide +kernel),
   by decide +kernel, by decide +kernel⟩

/-- Cluster 0 holds n tokens of line 5, and the line itself with tag 5. -/
def tTk (n : Nat) (own dirty : Bool) : State :=
  { clusters := [(0, { toks := [(5, { count := n, owner := own, dirty := dirty })], lines := [(5, { phys := 5, leaf := 0, data := 0 })] })]
    homes := [(5, { count := 4096 - n, owner := !own })] }

theorem witness_CoherenceEvents : let f := fun (d : Option Nat) => ({ tTk 0 false false with flight := [{ line := 5, dest := d, tok := { count := 1 } }] } : State)
    let c : State := { tTk 1 false false with homes := [(5, { count := 0, owner := false, census := true })] }
    (((tTk 0 false false).home 5).census = false ∧ ((tTk 0 false false).tok 0 5).count = 0 ∧ inFlight (tTk 0 false false) 0 5 = false) ∧
    ((tTk 1 false false).tok 0 5).count ≠ 0 ∧ ((tTk 1 false false).tok 0 5).count ≠ 4096 ∧ ((tTk 4096 true true).tok 0 5).count = 4096 ∧
    ((f none).flight[0]? = some { line := 5, dest := none, tok := { count := 1 } }) ∧
    ((f (some 0)).flight[0]? = some { line := 5, dest := some 0, tok := { count := 1 } } ∧ (f (some 0)).attempts = [] ∧
      (deliverTok { f (some 0) with flight := [] } { line := 5, dest := some 0, tok := { count := 1 } }).attempts = []) ∧
    (((tTk 1 false false).cluster 0).lines.get? 5 = some { phys := 5, leaf := 0, data := 0 } ∧ tagCtl 5 = true) ∧
    (({ owners := [(3, { cluster := some 0 })] } : State).owners.get? 3 = some { cluster := some 0 }) ∧
    (((tTk 1 true true).tok 0 5).owner = true ∧ ((tTk 1 true true).tok 0 5).dirty = true) ∧ (c.home 5).census = true := by decide +kernel

def leafT (P : State → TlbEnt → Bool) (p : State × WalkEnd) : Bool :=
  match p.2 with
  | .leaf e => P p.1 e
  | _ => false
theorem leaf_ex {p : State × WalkEnd} (P : State → TlbEnt → Bool) (h : leafT P p = true) : ∃ t e, p = (t, .leaf e) ∧ P t e = true := by
  obtain ⟨t, x⟩ := p
  cases x with
  | leaf e => exact ⟨t, e, rfl, h⟩
  | fault => cases h
  | invalid => cases h

/-- A write of another cluster's PRIVATE page conflicts; an access of a page without an owner does not. -/
theorem witness_CoherenceEvents_class : let s := mapped {} []
    let w : Dword := 0x00008000000003E3#64
    let p : TlbEnt := { tEnt with word := w }
    let o : State := { s with owners := [(frameKey 0 w, { cluster := some 7 })], dies := [(0, { mtlb1a := [p], mtlb1b := [p], mtlb2 := [p] })] }
    spaceOf 0 = .control ∧ (∃ t e, leafAt o 0 0 false 0 = (t, .leaf e) ∧ conflicts t 0 { va := 0, read := false, write := true } e.word = true) ∧
    (∃ t e, leafAt s 0 0 false 0 = (t, .leaf e) ∧ (!conflicts t 0 { va := 0, read := false, write := true } e.word) = true) :=
  ⟨by decide, leaf_ex _ (by decide +kernel), leaf_ex _ (by decide +kernel)⟩

/-! ### Translation -/

/-- Pair 26 holds a reserved address, pair 28 a misaligned control address; the control table of ASID 0 stands at 0x8000700000. -/
def tGxl : Machine.Group := Group.uni (Group.uni (Group.uni (Group.uni tGm 26 0) 27 0xC0000000) 28 1) 29 0
def tTs : State := { mapped (stOf tGxl) [(0x700000, 8, 0)] with asids := [(0, { en := true, root := [(0, 0x8000700000#64)] }), (1, { en := true, ncnt := 15 })] }

theorem witness_TableInstructions : let o : EOps := { d := 8, a := 18, b := 20, c := 24 }
    (∀ x ∈ ([(({} : Checks).closing, shTlbopMap, o), (({} : Checks).closing, shTlbopMap, { o with x := 4 }), (({} : Checks).closing, shTlbopMap, { o with x := 5 }),
      (({} : Checks).closing, shTlbopInv, { a := 18, c := 24 }), (({} : Checks).closing, shTlbopInv, { a := 26, c := 24 }), (({} : Checks).closing, shTlbopInv, { a := 16, c := 24 }),
      (({} : Checks).closing, shTlbopInv, { a := 28, c := 24 }), (({} : Checks).closing, shTlbopInvAsid, { c := 24 }), (({} : Checks).closing, shTlbopAll, {}),
      (({} : Checks).closing, shTlbopReplay, { b := 20 }), (({} : Checks).closing, shTlbopDeny, { d := 8, b := 20 }), (({} : Checks).closing, shTlbopFread, { d := 8, b := 20 }),
      (({} : Checks).closing, shTlbopNewgen, { d := 8, c := 24 })] : List Case), Runs x.1 x.2.1 x.2.2 tTs tGxl tC) ∧
    tlbVaOk tTs tGxl (tGxl.s2 0 18) (2 ^ 48) false ∧ ((tGxl.s2 0 26).toNat % 65536 = 0 ∧ spaceOf (tGxl.s2 0 26) = .reserved) ∧
    ((tGxl.s2 0 16).toNat % 65536 = 0 ∧ spaceOf (tGxl.s2 0 16) ≠ .reserved ∧ (spaceOf (tGxl.s2 0 16)).global = false) ∧ (tGxl.s2 0 28).toNat % 65536 ≠ 0 ∧
    4 < mapTier { o with x := 5 } ∧ mapTier { o with x := 4 } ≤ 4 ∧
    (spaceOf 0x4000000000000000#64 = .tensor ∧ tlbVaOk tTs tGxl 0x4000000000000000#64 65536 true ∧ ¬ tlbVaOk tTs tGxl (tGxl.s2 0 18) 65536 true) := by
  refine ⟨runs_all rfl rfl (by decide +kernel), ?_⟩
  unfold tlbVaOk
  decide +kernel

theorem witness_TableOperations : (∃ s : State, s.clusters = [] ∧ s.domain = 1 ∧ s.lostTo 0 0 = false ∧ (s.asid 0 1).ncnt < 15 ∧ (s.die 0).held = []) ∧
    15 ≤ (tTs.asid 0 1).ncnt ∧ (let c : Bool := true
      mapBad c 0 1 = false ∧ mapBad c 0 5 = true ∧ (tTs.asid 0 0).root.getD 0 0 ≠ 0 ∧ (tTs.asid 0 1).root.getD 0 0 = 0 ∧
      mapPlace tTs 0 c 0 [0, 1, 2, 3, 4] 0 0x8000700000 0 = some (0x8000700000, 0) ∧
      entV (tTs.rd64 (tTs.keyId 0 0) 0x8000700000) = false ∧ tTs.seals.rising = true) :=
  ⟨⟨{}, rfl, rfl, rfl, by decide, rfl⟩, by decide +kernel⟩

def tRq0 : TransReq := { va := 0, asid := 0, gen := 0, world := true, privileged := true, who := { pkg := 0, die := 0, core := 0, slot := 0 } }
def tWalk (r : TransReq) (d : Die) : State := { tTs with dies := [(0, { d with walks := [r] })] }
def tHit : Die := { mtlb1a := [tEnt], mtlb1b := [tEnt], mtlb2 := [tEnt] }

def faultT (p : State × WalkEnd) : Bool := p.2 == .fault
theorem fault_ex {p : State × WalkEnd} (h : faultT p = true) : ∃ t, p = (t, .fault) := ⟨p.1, by simp [faultT] at h; rw [← h]⟩

theorem witness_WalksAndFaults : let out := { tRq0 with who := { tRq0.who with pkg := 1 } }
    let u := fun (r : TransReq) (d : Die) => (tWalk r d).putDie 0 { ((tWalk r d).die 0) with walks := ((tWalk r d).die 0).walks.erase r }
    let e : FaultEnt := { va := 0, asid := 0, gen := 0, wr := false, ty := 0, who := tRq0.who }
    let f : Die := { faults := [(0, e)] }
    let full : Die := { faults := (List.range 8).map (fun i => (i, { e with va := BitVec.ofNat 64 (65536 * (i + 1)) })), dropped := true }
    (transDie tRq0.va = 0 ∧ (spaceOf tRq0.va).global = true ∧ asidOk (tWalk tRq0 {}) 0 tRq0 = true ∧ ((tWalk tRq0 {}).die 0).lookup 0 false tRq0.va = none ∧
      ((tWalk tRq0 {}).die 0).walks.length < 16) ∧
    (((tWalk tRq0 tHit).die 0).lookup 0 false tRq0.va = some tEnt ∧ ∃ t pa e, xlate (tWalk tRq0 tHit) tRq0 = (t, .ok pa e) ∧ (e == tEnt) = true) ∧
    (((tWalk out tHit).die 0).walks.contains out = true ∧ out.who.pkg ≠ 0 / 4 ∧ ∃ t e, leafAt (u out tHit) 0 0 false out.va = (t, .leaf e) ∧ (e == tEnt) = true) ∧
    (((tWalk tRq0 {}).die 0).walks.contains tRq0 = true ∧ tRq0.spec = false ∧ ∃ t, leafAt (u tRq0 {}) 0 0 false tRq0.va = (t, .fault)) ∧
    (let sp := { tRq0 with spec := true }
     ((tWalk sp {}).die 0).walks.contains sp = true ∧ ∃ t, leafAt (u sp {}) 0 0 false sp.va = (t, .fault)) ∧
    (f.faultOf 0 0 = some 0 ∧ f.faults.get? 0 = some e ∧ f.faultOf 0 65536 = none ∧ f.freeFault = some 1 ∧ f.faults ≠ []) ∧
    (full.faultOf 0 0 = none ∧ full.freeFault = none ∧ full.dropped = true) :=
  ⟨by decide +kernel, ⟨by decide +kernel, xl_ex (fun _ _ e => e == tEnt) (by decide +kernel)⟩, ⟨by decide +kernel, by decide, leaf_ex _ (by decide +kernel)⟩,
   ⟨by decide +kernel, rfl, fault_ex (by decide +kernel)⟩, ⟨by decide +kernel, fault_ex (by decide +kernel)⟩, by decide +kernel, by decide +kernel⟩

/-! ### Completion, errors, losses, ports and firmware -/

def tPe : Pend := { id := 4, flag := 1, dests := [.v 8], lanes := 3, outs := [(vKey 8 0, 7)], vas := [(0, 64)], seq := 9 }
def tTr : Trap := { cause := 7, lanes := 1 }
def tPg (p : Pend) (r : Region) : Machine.Group := { tGm with pend := [p], region := r }

theorem witness_Completion : let g := tPg tPe {}
    let w := tPg { tPe with wait := .allowance } {}
    let c := { tPe with cause := some (0, tTr) }
    let k := { tPg c {} with trap := { tGm.trap with pending := [(trapClass tTr.cause, tTr)] } }
    ((stOf g).groups.get? 1 = some g ∧ g.pend.find? (fun p => p.id == 4) = some tPe ∧ g.ecc = [] ∧ tPe.wait = .ready ∧ tPe.vp = false) ∧
    (w.pend.find? (fun p => p.id == 4) = some { tPe with wait := .allowance } ∧ ({ tPe with wait := .allowance } : Pend).wait ≠ .ready) ∧
    (g.region.due = false ∧ g.window = [] ∧ tPe.fp = [] ∧ tPe.qouts = [] ∧ tPe.vpbits = [] ∧ tPe.flag < 12 ∧ g.flags.rising = true ∧ tPe.cause = none) ∧
    (c.cause = some (0, tTr) ∧ (tPg c {}).run = .running ∧ (tPg c {}).trap.pending.get? (trapClass tTr.cause) = none ∧ k.trap.pending.get? (trapClass tTr.cause) ≠ none) :=
  ⟨⟨rfl, rfl, rfl, rfl, rfl⟩, by decide, by decide, by decide⟩

def tErr (r : Region) : State := stOf (tPg tPe r)
def tOn : Region := { opened := true }
def tTj : TileJob := { num := 4, grp := 1, pend := 0, op := .tri }
def tTo (r : Region) : State := { stOf { tGm with region := r } with cores := [(0, { tile := { jobs := [tTj] } })] }

theorem witness_ErrorsAndRollbacks : let p := tPe
    let h : Machine.Group := { tGm with run := .halted 7 0 }
    let s : State := { stOf h with launches := [(0, { members := [0] })] }
    let u := fun (s : State) => (unhold (finishPend s 1 0 (fun p => { p with outs := [], dests := [] })) 1)
    let v := fun (s : State) => ((u s).putTile 0 { int := (s.tile 0).int, next := (s.tile 0).next }).uecnt 0 1
    (tSm.groups.get? 1 = some tGm ∧ tGm.ecc = [] ∧ 8 < 1024) ∧
    (∀ r ∈ ([tOn, { tOn with rb := 2 }, {}] : List Region), (tErr r).groups.get? 1 = some (tPg p r) ∧ (tPg p r).pend.find? (fun p => p.id == 4) = some p ∧
      (tPg p r).info.prot = false ∧ (tPg p r).run = .running) ∧
    (p.wait = .ready ∧ p.vas ≠ [] ∧ p.lanes ≠ 0 ∧ (1 : Half) &&& p.lanes ≠ 0 ∧ p.cause = none ∧ tOn.opened = true ∧ tOn.rb < 2 ∧ tOn.due = false) ∧
    (tSm.tile 0).jobs = [] ∧
    (∀ r ∈ ([tOn, {}] : List Region), ((tTo r).tile 0).jobs = [tTj] ∧ tTj.grp = 1 ∧ TileOp.units tTj.op = 0 ∧
      ∃ g, (v (tTo r)).groups.get? 1 = some g ∧ (g.run = .running ∧ g.core = 0 ∧ g.region = r)) ∧
    (let e : State := { cores := [(0, { burrow := [{ grp := 1, act := .bytes, lanes := [] }] })] }
     e.groups = [] ∧ 0 < (e.core 0).burrow.length) ∧
    ((tErr tOn).groups = [(1, tPg p tOn)] ∧ (tErr tOn).onCore (tPg p tOn) 0 = true ∧ (tPg p tOn).core = 0) ∧
    (s.groups.get? 1 = some h ∧ h.run = .halted 7 0 ∧ (s.cohort h.cohort).launch = 0 ∧ s.launches.get? 0 = some { members := [0] } ∧ (s.cohort h.cohort).groups = [1] ∧
      7 ≠ causeDouble ∧ (7 = causeEcc → 0 = 0)) := by decide +kernel

def tPo (x : Port) : State := { tSm with ports := [(0, x)] }
def tFl (ty vc seq : Nat) : Flit := { vc := BitVec.ofNat 8 vc, ty := BitVec.ofNat 8 ty, seq := BitVec.ofNat 16 seq, ack := 0, xoff := 0, last := 0 }

theorem witness_FabricLinks : let up : Port := { st := .up }
    ((tPo {}).port 0 0).st ≠ .up ∧ (((tPo up).port 0 0).st = .up ∧ up.mgmtOnly = false ∧ up.badlane = 7 ∧ up.rxSeq = 0) ∧
    ({ tFl 1 0 0 with good := false } : Flit).good = false ∧
    (∀ f ∈ ([tFl 1 0 1, tFl 1 6 0, tFl 1 0 0, tFl 2 0 0, tFl 0 0 0, tFl 3 0 0] : List Flit), flitBroken f = false) ∧
    ((tFl 1 0 1).ty.toNat = 1 ∧ (tFl 1 0 1).seq.toNat ≠ up.rxSeq) ∧ (5 < (tFl 1 6 0).vc.toNat ∧ (tFl 1 6 0).seq.toNat = up.rxSeq) ∧ (tFl 1 0 0).vc.toNat ≤ 5 ∧
    ((tPo { st := .up, badlane := 1 }).port 0 0).badlane ≠ 7 ∧
    (∀ x ∈ ([.up, .spare, .retrain, .down, .train] : List PortSt), ((tPo { st := x }).port 0 0).st = x) := by decide

theorem witness_OwlLineAndRegisters : let on : State := ({} : State).putSnap 0 { (({} : State).snap 0) with pinen := true, busy := true }
    (on.snap 0).pinen = true ∧ (({} : State).snap 0).pinen = false ∧ (on.snap 0).busy = true ∧ (({} : State).snap 0).busy = false ∧
    (({ owlOut := [{ origin := 0, tag := 1, dest := 2 }] } : State).owlOut[0]? = some { origin := 0, tag := 1, dest := 2 }) ∧
    regAt 1 = none ∧ regAt 0x100000 = some (.arbiter 0, 32) ∧ (64 : Nat) ≠ 32 ∧
    ((({} : State).slot 0 5).en = false ∧ ((({} : State).putKey 0 5 { en := true }).slot 0 5).en = true) := by decide +kernel

theorem powMod_zero {b n : Nat} (h : 1 < n) : ∀ k, powMod b n k 0 = 1
  | 0 => Nat.mod_eq_of_lt h
  | k + 1 => by simp [powMod, powMod_zero h k, Nat.mod_eq_of_lt h]

theorem powMod_one {b n : Nat} (h : 1 < n) (k : Nat) : powMod b n (k + 1) 1 = b % n := by
  simp [powMod, powMod_zero h k, Nat.mod_eq_of_lt h]

/-- An image whose key has the exponent 1, which makes its signature the signed number, and the digest of that key. -/
def imageOf (n : Nat) : Image := { modulus := n, exponent := 1, sig := Config.signedBlock (sha256 []) % n }
def keyOf (n : Nat) : BitVec 256 := sha256 (Config.keyBytes n 1)
def tMod : Nat := 2 ^ 3071
def tImg : Image := imageOf tMod
def tKey : BitVec 256 := keyOf tMod

theorem imageOf_good {n : Nat} (h : rsaModulus n = true) (h1 : 1 < n) : imageGood (keyOf n) (imageOf n) = true := by
  simp [imageGood, rsaFits, keyOf, imageOf, h, powMod_one h1 3071, Nat.mod_lt _ (Nat.lt_trans Nat.zero_lt_one h1)]

theorem good_image : imageGood tKey tImg = true := imageOf_good (by decide +kernel) (by decide +kernel)

theorem bad_image (k : BitVec 256) : imageGood k {} = false := by
  have h : rsaModulus 0 = false := by decide +kernel
  simp [imageGood, rsaFits, h]

theorem witness_FirmwareAndPciExpress :
    let up : State := { pkgs := [(0, { up := true, keyDigest := tKey })] }
    let pc : State := { pkgs := [(0, { up := true, pcie := { up := true } })] }
    let rt : State := { pkgs := [(0, { up := true, pcie := { up := true, root := true } })] }
    let boot : Boot := { keyDigest := tKey, images := (tImg, tImg), open_ := [5] }
    (imageGood boot.keyDigest boot.images.1 = true ∧ imageGood boot.keyDigest boot.images.2 = true ∧ boot.memory = true ∧ boot.fusesRead = true ∧ boot.ports = true ∧
      5 ∈ boot.open_ ∧ ({ boot with memory := false } : Boot).memory = false ∧ imageGood boot.keyDigest {} = false) ∧
    ((up.pkg 0).up = true ∧ imageGood (up.pkg 0).keyDigest tImg = true ∧ tImg.starts = (up.pkg 0).vers.getD (up.pkg 0).active 0 ∧ quiescent up 0 = true ∧ tImg.converts = true) ∧
    ((({} : State).pkg 0).up = false) ∧ ((up.pkg 0).ctxs = [] ∧ (up.pkg 0).slots = []) ∧ (List.replicate 32 (0 : Byte)).length = 32 ∧
    ((pc.pkg 0).pcie.up = true ∧ (pc.pkg 0).pcie.root = false ∧ 0 + ([1] : List Byte).length ≤ 0x20000 ∧ 0x20000 - 1 + ([1] : List Byte).length ≤ 0x20000 ∧
      2 ^ 36 - 1 + ([1] : List Byte).length ≤ 2 ^ 36 ∧ ([1] : List Byte) ≠ [] ∧ ([1] : List Byte).length ≤ 512 ∧ 0 + 4096 ≤ 0x20000) ∧
    ((rt.pkg 0).pcie.up = true ∧ (rt.pkg 0).pcie.root = true) ∧ ((up.pkg 0).pcie.up = false ∧ up.cpStop = none ∧ 128 ∈ [128, 64, 32] ∧ 4 ∈ [16, 8, 4]) :=
  ⟨⟨good_image, good_image, rfl, rfl, rfl, by decide, rfl, bad_image _⟩, ⟨rfl, good_image, rfl, by decide +kernel, rfl⟩, by decide +kernel, by decide +kernel, by decide,
   by decide +kernel, by decide +kernel, by decide +kernel⟩

/-- A port that sends: a NAK, a flit again, nothing with a full replay buffer, a MGMT flit, and one of the other channels, of weight too. -/
theorem witness_FabricLinks_sends : let f := tFl 1 0 0
    let up : Port := { st := .up }
    let q := fun (vc : Nat) => ({ up with txq := [(vc, [(0, f)])] } : Port)
    ({ up with nak := some 3 } : Port).nak ≠ none ∧ 0 < ({ up with resend := 1, replay := [(0, f)] } : Port).resend ∧
    256 ≤ ({ up with replay := List.replicate 256 (0, f) } : Port).replay.length ∧
    ((q vcMgmt).nak = none ∧ (q vcMgmt).resend = 0 ∧ (q vcMgmt).replay.length < 256 ∧ (q vcMgmt).offers vcMgmt = true ∧ (q vcMgmt).queue vcMgmt = (0, f) :: []) ∧
    ((q vcColl).next 0x8800 0 = some (vcColl, []) ∧ (q vcColl).offers vcMgmt = false ∧ (q vcColl).offers vcColl = true ∧ (q vcColl).usedBy vcColl < shareWeight 0x8800 vcColl ∧
      shareWeight 0x8800 vcColl ≠ 0) ∧ (q vcColl).next 0 0 = some (vcColl, []) := by decide +kernel

theorem witness_LossOfPackages : let two : State := { domain := 2 }
    let gone := markLost two 0 [1]
    let ad : State := { ports := [(0, { present := true, mgmtOnly := true })] }
    gone.lostTo 0 1 = true ∧ (two.lostTo 0 1 = false ∧ two.lostTo 0 0 = false) ∧ (two.domain = 2 ∧ two.lost = []) ∧
    ([0, 1, 2] : List Nat).length < 2 * ([0, 1] : List Nat).length ∧ 2 * ([0] : List Nat).length < ([0, 1, 2] : List Nat).length ∧
    ((ad.port 0 0).present = true ∧ (ad.port 0 0).mgmtOnly = true ∧ (ad.pkg 3).up = false ∧ ad.lost = []) := by decide +kernel

/-! ### A step, and what holds of every state -/

/-- IADD in place on the machine after reset, a word that is no instruction, and a header. -/
def tPl (w : Nat) : State := State.reset.withFetchWord 32 w
noncomputable def tMid (s : State) : State := { settleAll (tick s) with turn := (settleAll (tick s)).turn + 1 }
noncomputable def tNext (s : State) : State := quarterFetch (tMid s) 0 0

theorem due_of {s : State} (h : ((settleAll (tick s)).agenda.isEmpty && (busyQuarters (tMid s))[(settleAll (tick s)).turn % ((busyQuarters (tMid s)).length + 1)]? == some 0) = true) :
    QuarterDue s 0 (tNext s) := by
  simp only [Bool.and_eq_true, List.isEmpty_iff, beq_iff_eq] at h
  exact .inr ⟨h.1, tMid s, rfl, rfl, h.2⟩

theorem witness_StepRunsDecoded_clause : let s := tPl 0x10040A18
    QuarterDue s 0 (tNext s) ∧ RunsClause (tNext s) 0 0 1 [0x10040A18#32] ∧ decodeWords [0x10040A18#32] = .ok (.iaddB3 { d := 4, a := 5, b := 6 }, []) := by
  refine ⟨due_of (by decide +kernel), ?_, rfl⟩
  unfold RunsClause
  decide +kernel

theorem witness_StepRunsDecoded_error : let s := tPl 0x3F800000
    QuarterDue s 0 (tNext s) ∧ RunsClause (tNext s) 0 0 1 [0x3F800000#32] ∧ decodeWords [0x3F800000#32] = .error .reservedOp := by
  refine ⟨due_of (by decide +kernel), ?_, rfl⟩
  unfold RunsClause
  decide +kernel

/-- The header at the group's PC, and a group whose PC names a word that is no header. -/
def tHd : State := tPl 0x000007F8
def tNo : State := { tHd with groups := tHd.groups.map (fun e => (e.1, { e.2 with pc := 0x1004 })) }

theorem witness_StepRunsDecoded_start : (QuarterDue tHd 0 (tNext tHd) ∧ StartsClause (tNext tHd) 0 0 1 ∧
      ∃ t ws, fetchInstr 1 ((tNext tHd).grp 1).pc (chosenState (tNext tHd) 0 0 1) = (t, .ok ws) ∧ (ws == [0x000007F8#32]) = true) ∧
    (decodeWords [0x000007F8#32] = .ok (.clause { wait := 0, seta := 15, setb := 15, n := 0 }, []) ∧
      isHeader (.clause { wait := 0, seta := 15, setb := 15, n := 0 }) = true) ∧
    (QuarterDue tNo 0 (tNext tNo) ∧ StartsClause (tNext tNo) 0 0 1 ∧
      (∃ t ws, fetchInstr 1 ((tNext tNo).grp 1).pc (chosenState (tNext tNo) 0 0 1) = (t, .ok ws) ∧ (opOf ws != 0) = true) ∧
      (∃ t ws, fetchInstr 1 ((tNext tNo).grp 1).pc (unchosenState (tNext tNo) 0 1) = (t, .ok ws) ∧ (opOf ws != 0) = true)) := by
  refine ⟨⟨due_of (by decide +kernel), ?_, fetch_ex _ (by decide +kernel)⟩, ⟨rfl, rfl⟩, due_of (by decide +kernel), ?_, fetch_ex _ (by decide +kernel), fetch_ex _ (by decide +kernel)⟩ <;>
  · unfold StartsClause
    decide +kernel

theorem witness_StepRunsDecoded_event : ({ agenda := [.event (.nakBurst 0 0)] } : State).agenda = .event (.nakBurst 0 0) :: [] ∧ isEvent (.nakBurst 0 0) = true :=
  ⟨rfl, rfl⟩

theorem witness_DecodeEncode : let i : Instr := .iaddB3 { d := 4, a := 5, b := 6 }
    wellFormed i = true ∧ isEvent i = false ∧ decodeWords [0x10040A18#32] = .ok (i, []) := ⟨by decide, rfl, rfl⟩

def outT (P : State → Bool) (r : Out) : Bool :=
  match r with
  | .next t => P t
  | .fault _ => false
  | .refused _ => false
theorem out_ex {r : Out} (P : State → Bool) (h : outT P r = true) : ∃ t : State, r = .next t ∧ P t = true := by
  cases r with
  | next t => exact ⟨t, rfl, h⟩
  | fault _ => cases h
  | refused _ => cases h

/-- The state after reset has its tables in their form, and steps; so does one with a group and a byte of memory. -/
theorem witness_StepKeepsTables : State.reset.tablesOk = true ∧ ({ tSm with mem := [(64, 5)], seals := [(0, 1)] } : State).tablesOk = true ∧
    (∃ t : State, exec (.iadd { d := 8, a := 16, b := 8 }) tSm = .next t) ∧ isEvent (.nakBurst 0 0) = true ∧ isEvent (.iadd {}) = false ∧
    tSm.groups.get? tSm.cur = some tGm ∧ ({} : State).groups.get? ({} : State).cur = none := by
  obtain ⟨t, h, -⟩ := out_ex (r := exec (.iadd { d := 8, a := 16, b := 8 }) tSm) (fun _ => true) (by decide +kernel)
  exact ⟨by decide +kernel, by decide +kernel, ⟨t, h⟩, rfl, rfl, rfl, rfl⟩

theorem witness_MemoryReadAfterWrite : let s : State := { mem := [(64, 5)], seals := [(0, 1)] }
    s.memWf = true ∧ s.seals.rising = true ∧ (5 : Nat) / 128 ≠ 128 / 128 := by decide

/-- IADD of lane 8, which completes. -/
theorem witness_ArithmeticFrame : let o : EOps := { d := 8, a := 16, b := 8 }
    (∃ sh, laneForm (.iadd o) = some (0x20, sh, o)) ∧ intOp 0x20 ∧ arithOp 0x20 ∧ tSm.groups.get? tSm.cur = some tGm ∧ tGm.ecc = [] ∧
    (∃ t : State, exec (.iadd o) tSm = .next t ∧ decide ((t.groups.getD 1 tG).trap = tGm.trap ∧ (t.groups.getD 1 tG).run = tGm.run) = true) :=
  ⟨⟨_, rfl⟩, .inr (by decide), .inl (.inr (by decide)), rfl, rfl, out_ex _ (by decide +kernel)⟩

theorem issues_tGm : Issues tSm tGm tC := ⟨rfl, rfl, rfl, .inl rfl, rfl⟩

theorem witness_TrapOrder : let u : Machine.Group := { tGm with id := { tGm.id with privileged := false } }
    let p : Machine.Group := { tGm with em := 0 }
    let w : Machine.Group := { tGm with pend := [{ id := 0, dests := [.v 8], wait := .allowance }] }
    let h : Machine.Group := { tGm with wait := .held 0 }
    ((∃ sh, form (.iadd {}) = .e 0x20 0 {} sh ∧ shapeOk sh { x := 0xFFFFFFFF } = false) ∧ Issues tSm tGm tC) ∧
    (shTlbopAll.priv = true ∧ u.id.privileged = false ∧ Issues (stOf u) u tC ∧ shapeOk shTlbopAll {} = true) ∧
    (∃ sh, form (.sysw { a := 16, x := 0x44 }) = .e 0x09 0 { a := 16, x := 0x44 } sh ∧ shapeOk sh { a := 16, x := 0x44 } = true ∧
      SpecReg.ofNum (xField { a := 16, x := 0x44 } 0 12) = some .tba ∧ SpecReg.tba.privileged = true) ∧
    (∃ sh, form (.iadd { d := 100, a := 16, b := 8 }) = .e 0x20 0 { d := 100, a := 16, b := 8 } sh ∧ shapeOk sh { d := 100, a := 16, b := 8 } = true ∧
      (readsOf sh { d := 100, a := 16, b := 8 } ++ writesOf sh { d := 100, a := 16, b := 8 }).all tGm.regIn = false) ∧
    (∃ sh, form (.iadd { d := 8, a := 16, b := 8 }) = .e 0x20 0 { d := 8, a := 16, b := 8 } sh ∧ shapeOk sh { d := 8, a := 16, b := 8 } = true ∧
      (readsOf sh { d := 8, a := 16, b := 8 } ++ writesOf sh { d := 8, a := 16, b := 8 }).all tGm.regIn = true ∧ Issues (stOf p) p tC ∧ Issues (stOf w) w tC ∧
      w.acts sh { d := 8, a := 16, b := 8 } 0 = true ∧ w.interlocked (writesOf sh { d := 8, a := 16, b := 8 }) = true) ∧
    ((stOf h).groups.get? 1 = some h ∧ h.wait = .held 0) := by
  refine ⟨⟨⟨_, rfl, by decide⟩, issues_tGm⟩, ⟨rfl, rfl, ⟨rfl, rfl, rfl, .inl rfl, rfl⟩, by decide⟩, ⟨_, rfl, by decide, rfl, rfl⟩, ⟨_, rfl, by decide, by decide⟩,
    ⟨_, rfl, by decide, by decide, ⟨rfl, rfl, rfl, .inl rfl, rfl⟩, ⟨rfl, rfl, rfl, .inl rfl, rfl⟩, by decide +kernel, by decide +kernel⟩, rfl, rfl⟩

theorem witness_TranslationChecks : ∃ t pa e, xlate (mapped {} []) { tRq0 with write := true } = (t, .ok pa e) ∧ (pa == 2 ^ 39) = true :=
  xl_ex (fun _ pa _ => pa == 2 ^ 39) (by decide +kernel)

/-! ### Well-formedness: a term for each check that refuses -/

theorem test_smoke_headers : wellFormed (.clauseTmask {} 0x100) = false ∧ wellFormed (.clauseTmask {} 0xFF) = true ∧
    wellFormed (.clauseExtended {} 0x100 0) = false ∧ wellFormed (.clauseExtended {} 0 1) = false := by decide

/-- The condition 8 of a branch; a literal beside an offset (R91). -/
theorem test_smoke_branch : wellFormed (.braBj 8 5) = false ∧ wellFormed (.braBj 9 5) = true := by decide

/-- A uniform base form with a literal (R238); a base form whose pair is odd (R98). -/
theorem test_smoke_base : wellFormed (.uaddB3 { d := 3, a := 4, lit := some 1 }) = false ∧ wellFormed (.ld64B3 { d := 8, a := 3 }) = false := by decide

/-- D, A, B and C out of range or not zero; X, HINT, QN and a literal where the entry has none; x register 4; shuffle of a q by q0 (R93 to R99). -/
theorem test_smoke_extended : (∀ i ∈ ([.ld .b64 { d := 9, a := 16 }, .regnE { d := 1 }, .sysr { d := 4, a := 1 }, .regnE { b := 1 }, .iadd { d := 8, a := 16, c := 1 },
    .iadd { d := 8, a := 16, x := 1 }, .iadd { d := 8, a := 16, hint := 1 }, .regnE { qn := true }, .regnE { lit := some 1 }, .iadd { d := 8, lit := some 0x100000000 },
    .movxLd { d := 8, a := 16, x := 4 }, .fspecRcp { d := 8, a := 16, hint := 1 }] : List Instr), wellFormed i = false) ∧
    wellFormed (.iadd { d := 8, a := 16, lit := some 0xFFFFFFFFFFFFFFFF }) = true := by decide

/-! ### Decoding: a word of each family, written out from the encodings of R85 to R100 and the worked cases -/

theorem test_decode_front : decodeWords [0x400008FA#32, 0x00000002#32, 0x00000000#32] = .ok (.clauseTmask { wait := 1, seta := 1, setb := 15, n := 2 } 2#64, []) ∧
    decodeWords [0x00C80005#32] = .ok (.braBj 9 5, []) ∧ decodeWords [0x83028008#32, 0x20#32, 1#32] = .ok (.maskIf { d := 20, a := 1, x := 1 }, []) :=
  ⟨rfl, rfl, rfl⟩

theorem test_decode_lanes : decodeWords [0x90258022#32, 0x01800000#32, 0#32] = .ok (.iadd { d := 300, a := 4, b := 6, qs := 2 }, []) ∧
    decodeWords [0x08030814#32] = .ok (.uaddB3 { d := 3, a := 4, b := 5 }, []) ∧
    decodeWords [0x9600A0A0#32, 0#32, 1#32] = .ok (.movxLd { d := 5, a := 20, x := 1 }, []) := ⟨rfl, rfl, rfl⟩

/-- FFMA.F32.RUP of chapter 9, and VPADD.SUB. -/
theorem test_decode_float : decodeWords [0x9901405B#32, 0x0300D002#32, 0#32] = .ok (.ffma .f32 { d := 10, a := 11, b := 12, c := 13, qs := 3, hint := 2 }, []) ∧
    decodeWords [0xA1006018#32, 0x00800010#32, 0#32] = .ok (.vpaddSub { d := 3, a := 3, b := 2 }, []) := ⟨rfl, rfl⟩

theorem test_decode_memory : decodeWords [0x28080401#32] = .ok (.ld64B3 { d := 8, a := 2, b := 0 }, []) ∧
    decodeWords [0xAB000000#32, 0x10#32, 0x1C400000#32] = .ok (.fenceRel { x := 0x1C400000 }, []) ∧
    decodeWords [0xED000020#32, 0x34#32, 0#32, 0#32, 0#32] = .ok (.barWait { a := 4, hint := 4, lit := some 0#64 }, []) := ⟨rfl, rfl, rfl⟩

theorem test_decode_engines : decodeWords [0xF0000020#32, 0#32, 0x170#32, 0x80#32, 0#32] = .ok (.tldb { a := 4, x := 0x170, lit := some 0x80#64 }, []) ∧
    decodeWords [0xF4004030#32, 0#32, 0#32, 0x1000#32, 0#32] = .ok (.cpy { d := 2, a := 6, lit := some 0x1000#64 }, []) ∧
    decodeWords [0xB7000010#32, 0x01000000#32, 0#32] = .ok (.ratom .add .s32 { a := 2, b := 4 }, []) ∧
    decodeWords [0xB8804000#32, 0x04400000#32, 0#32] = .ok (.atake { d := 2, b := 17 }, []) := ⟨rfl, rfl, rfl, rfl⟩

theorem test_decode_system : decodeWords [0xBB800000#32, 0x20#32, 2#32] = .ok (.sctlStop { x := 2 }, []) ∧
    decodeWords [0xBC80A000#32, 0x01000010#32, 0#32] = .ok (.collwTest { d := 5, b := 4 }, []) ∧
    decodeWords [0xBE054000#32, 0x06800000#32, 0#32] = .ok (.lstatState { d := 42, b := 26 }, []) ∧
    decodeWords [0xBE84A0E0#32, 0x09824000#32, 4#32] = .ok (.tlbopMap { d := 37, a := 28, b := 38, c := 36, x := 4 }, []) ∧
    decodeWords [0xBF00C020#32, 0x10#32, 2#32] = .ok (.pclassSet { d := 6, a := 4, x := 2 }, []) := ⟨rfl, rfl, rfl, rfl, rfl⟩

/-- The spaces of the worked decodes of chapter 2. -/
theorem test_spaces : spaceOf 0x0A00000000001000 = .control ∧ vaPkg 0x0A00000000001000 = 5 ∧ spaceOf 0x4700000000400000 = .tensor ∧ vaPkg 0x4700000000400000 = 3 ∧
    vaDie 0x4700000000400000 = 2 ∧ spaceOf 0x90000000000C0100 = .neigh ∧ spaceOf 0xC000000000000000 = .reserved := by decide

/-! ### Number formats: the worked cases of chapter 5 -/

theorem test_tapered_decode : taperedDecode 0x5B 8 1 = .fin false 27 (-3) ∧ XReal.eq (taperedDecode 0xC8 8 2) (.fin true 1 (-1)) = true ∧
    XReal.eq (taperedDecode 0x7F 8 0) (.fin false 1 6) = true ∧ XReal.eq (taperedDecode 0x4800 16 1) (.fin false 3 (-1)) = true ∧ (taperedDecode 0x80 8 1).isNan = true := by decide

/-- 2^24, then 1, then 1: the pair is (2^24, 2), and collapses to 16777218. -/
theorem test_pair : let p := twoSum (twoSum (twoSum Pair.zero (.fin false 1 24)) (.fin false 1 0)) (.fin false 1 0)
    p = ⟨0x4B800000#32, 0x40000000#32⟩ ∧ collapse p = 0x4B800001#32 := by decide

/-! ### One instruction each, with results computed by hand from its entry or taken from the spec's worked cases -/

def lane8 (r : Out) (l : Nat) : Option Word :=
  match r with
  | .next t => (t.grp 1).regs.get? (vKey 8 l)
  | _ => none
def uni8 (r : Out) : Option Word :=
  match r with
  | .next t => (t.grp 1).regs.get? (sKey 8)
  | _ => none
def trapOf1 (r : Out) : Option (Nat × Half) :=
  match r with
  | .next t => some ((t.grp 1).trap.tcause.toNat, (t.grp 1).trap.tmask)
  | _ => none

/-- Lanes 0 to 3: lane registers 20 and 21 hold the operands of chapter 9's FADD. -/
def tFa : Machine.Group :=
  [(20, 0, 0x7F7FFFFF), (21, 0, 0x7F7FFFFF), (20, 1, 0x3F800000), (21, 1, 0x33800000), (20, 2, 0x7F800000), (21, 2, 0xFF800000), (20, 3, 0x3F800000), (21, 3, 0x3F800000)].foldl
    (fun g e => Group.lane g e.1 e.2.1 e.2.2) { tG with em := 15 }

theorem test_fadd_worked : (List.range 4).map (lane8 (exec (.fadd .f32 { d := 8, a := 20, b := 21 }) (stOf tFa))) =
    [some 0x7F800000#32, some 0x3F800000#32, some 0x7FC00000#32, some 0x40000000#32] := by decide +kernel

theorem test_fadd_rup : lane8 (exec (.fadd .f32 { d := 8, a := 20, b := 21, hint := 2 }) (stOf tFa)) 1 = some 0x3F800001#32 := by decide +kernel

/-- With %trapen.NV the FADD traps, and writes no lane. -/
theorem test_fadd_traps : let g : Machine.Group := { tFa with trap := { tFa.trap with trapen := 0x100#32, tba := 0x2000 } }
    trapOf1 (exec (.fadd .f32 { d := 8, a := 20, b := 21 }) (stOf g)) = some (0x10D, 4) ∧ lane8 (exec (.fadd .f32 { d := 8, a := 20, b := 21 }) (stOf g)) 3 = none := by decide +kernel

theorem test_iadd_wraps : lane8 (exec (.iadd { d := 8, a := 20, lit := some 2 }) (stOf (Group.lane { tG with em := 1 } 20 0 0xFFFFFFFF))) 0 = some 1#32 ∧
    lane8 (exec (.iadd { d := 8, a := 20, lit := some 2 }) (stOf { tG with em := 1 })) 1 = none := by decide +kernel

/-- The saturated signed sum of 2^31 - 1 and 1. -/
theorem test_uadd_sat : uni8 (exec (.uaddSat { d := 8, a := 20, lit := some 1 }) (stOf (Group.uni tG 20 0x7FFFFFFF))) = some 0x7FFFFFFF#32 ∧
    uni8 (exec (.uadd { d := 8, a := 20, lit := some 1 }) (stOf (Group.uni tG 20 0x7FFFFFFF))) = some 0x80000000#32 := by decide +kernel

/-- MOVX at the edge of the allocation (chapter 9): lanes 1 to 3 fail, and lane 0 is not written. -/
theorem test_movx_edge : let x : Machine.Group := { tG with em := 15, info := { placedRecord with n32 := 40, vpn := 1, vpc := 3 }, x := [(16, 19), (17, 21), (18, 26), (19, 27)], trap := { tG.trap with tba := 0x2000 } }
    let y : Machine.Group := Group.lane { x with em := 1 } 39 0 5
    trapOf1 (exec (.movxLd { d := 8, a := 20, x := 1 }) (stOf x)) = some (0x04, 14) ∧ lane8 (exec (.movxLd { d := 8, a := 20, x := 1 }) (stOf y)) 0 = some 5#32 := by
  decide +kernel

/-- UMOV.FIRST of a protected group compares the pair: equal copies answer, different ones do not (R530). -/
theorem test_protected : uni8 (exec (.umovFirst { d := 8, a := 8 }) (stOf tGsame)) = some 7#32 ∧ uni8 (exec (.umovFirst { d := 8, a := 8 }) (stOf tGdiff)) = none := by
  decide +kernel

/-- A decoded word in place runs: UADD of s4 and s5 into s3 (2 + 3). -/
theorem test_step_uadd : (match step { (State.reset.withFetchWord 32 0x08030814) with groups := [(1, (({ ((State.reset.withFetchWord 32 0x08030814).grp 1) with
      regs := [(sKey 4, 2#32), (sKey 5, 3#32)] } : Machine.Group)))] } with
    | .next t => (t.grp 1).regs.get? (sKey 3)
    | _ => none) = some 5#32 := by decide +kernel

/-! ### Checks and translations that pass -/

/-- What `RangePasses` asks, as one Boolean; `b` is the binding of a stash range. -/
def rangeB (s : State) (g : Machine.Group) (allow : Space → Bool → Bool) (va : Dword) (n : Nat) (b : Binding) : Bool :=
  let sp := spaceOf va
  decide (0 < n) && (sp != .reserved && (decide (va.toNat / regionSpan va = (va.toNat + n - 1) / regionSpan va) &&
  (allow sp (decide (vaPkg va = pkgOfCore g.core)) && ((!sp.global || decide (vaPkg va < s.domain)) && ((sp != .scratch || decide (vaOff va + n ≤ g.info.scr)) &&
  ((sp != .priv || decide (vaOff va + n ≤ g.info.priv)) && ((sp != .stash || (decide (vaOff va + n ≤ stashLimit s g.core) &&
    ((s.cohort g.cohort).bindingOf (vaOff va) == some b && decide (vaOff va + n ≤ b.so + b.len)))) &&
  (sp != .neigh || (decide (vaOff va + n ≤ g.info.neigh * 0x40000) && (decide (g.info.neigh ≤ 24) &&
    decide (∀ i < n, (vaOff va + i) % 0x40000 < neighLimit s (s.cohort g.cohort) ((vaOff va + i) / 0x40000))))))))))))

theorem range_of {s : State} {g : Machine.Group} {allow : Space → Bool → Bool} {va : Dword} {n : Nat} (b : Binding) (h : rangeB s g allow va n b = true) :
    RangePasses s g allow va n := by
  simp only [rangeB, Bool.and_eq_true, Bool.or_eq_true, Bool.not_eq_true', decide_eq_true_eq, bne_iff_ne, beq_iff_eq, ne_eq] at h
  obtain ⟨h1, h2, h3, h4, h5, h6, h7, h8, h9⟩ := h
  exact ⟨h1, h2, h3, h4, fun x => by simp_all, fun x => h6.resolve_left (· x), fun x => h7.resolve_left (· x),
    fun x => ⟨(h8.resolve_left (· x)).1, b, (h8.resolve_left (· x)).2⟩, fun x => h9.resolve_left (· x)⟩

/-- A range of each space: control, tensor, scratchpad, neighbour, private and stash; and the checks that are made of them. -/
theorem witness_PassingChecks_ranges : let g : Machine.Group := { tGm with info := { tGm.info with priv := 0x100, neigh := 1 } }
    let s : State := { stOf g with cohorts := [(0, { tK with scrLimit := 0x1000, stash := [{ so := 0, g := 0, len := 0x1000 }] })] }
    (∀ va ∈ ([0x1000, 0x4000000000000000, 0x8000000000000000, 0x9000000000000000, 0xA000000000000000, 0xB000000000000000] : List Dword),
      RangePasses s g (spaceAllowed .ldst) va 0x100) ∧
    OperandPasses s g tileSource 16 0x8000000000000000 0x80 3 0x80 ∧
    ((0x8000000000000000#64).toNat % 256 = 0 ∧ ∀ p ∈ areaParts 0x8000000000000000 0 0, RangePasses s g tileTarget p.1 p.2) ∧
    CopyPasses s g { grp := 1, batch := 0, kind := .line, dst := 0x8000000000000000, src := 0x4000000000000000, n := 0x100, bar := some 0x1000 } := by
  intro g s
  have r := fun allow va n (h : rangeB s g allow va n { so := 0, g := 0, len := 0x1000 } = true) => range_of _ h
  refine ⟨fun va h => r _ va _ (List.all_eq_true.mp (show List.all _ (fun va => rangeB s g (spaceAllowed .ldst) va 0x100 { so := 0, g := 0, len := 0x1000 }) = true by decide +kernel) va h),
    ⟨by decide, by decide, .inr (.inr (r _ _ _ (by decide +kernel)))⟩, ⟨by decide, fun p h => r _ p.1 p.2 (List.all_eq_true.mp
      (show List.all _ (fun (p : Dword × Nat) => rangeB s g tileTarget p.1 p.2 { so := 0, g := 0, len := 0x1000 }) = true by decide +kernel) p h)⟩,
    .inr (fun p h => r _ p.1 p.2 (List.all_eq_true.mp
      (show List.all _ (fun (p : Dword × Nat) => rangeB s g copyAllow p.1 p.2 { so := 0, g := 0, len := 0x1000 }) = true by decide +kernel) p h)), fun va h => ?_⟩
  cases h
  exact ⟨by decide, r _ _ _ (by decide +kernel)⟩

/-- The addresses of SCONF, of a descriptor and of CMAINT that pass. -/
theorem witness_PassingChecks_addresses : let va : Dword := 0x4000000000000000
    va.toNat % 128 = 0 ∧ (spaceOf va = .tensor ∧ vaDie va = dieOfCore tGm.core % 4) ∧ vaPkg va = dieOfCore tGm.core / 4 ∧ vaPkg va < tSm.domain ∧
    (spaceOf 0x1000 = .control ∧ vaPkg 0x1000 < tSm.domain) ∧ spaceOf va ≠ .reserved ∧ regionKey va = regionKey (va + BitVec.ofNat 64 (0x1000 - 1)) := by decide +kernel

/-- A mapped page of control memory, and one of die 0's tensor memory. -/
theorem witness_PassingChecks_mapped : let w : TransReq := { tRq0 with write := true, read := false }
    MappedControl (mapped {} []) w tEnt ∧ Mapped (tensorMapped {} []) { w with va := 0x4000000000000000, write := false, read := true } tEntT ∧
    (0 < 8 ∧ w.va.toNat % 128 + 8 ≤ 128) ∧ MappedControl (mapped tSm []) { (tSm.grp 1).req 0 0 with read := false, write := true } tEnt := by
  refine ⟨⟨⟨by decide +kernel, by decide +kernel, by decide +kernel, ⟨_, rfl, by decide +kernel⟩, by decide +kernel, by decide +kernel, by decide +kernel, by decide +kernel,
      by decide +kernel, by decide +kernel, by decide +kernel, by decide +kernel⟩, by decide +kernel, by decide +kernel, by decide +kernel⟩,
    ⟨by decide +kernel, by decide +kernel, by decide +kernel, ⟨_, rfl, by decide +kernel⟩, by decide +kernel, by decide +kernel, by decide +kernel, by decide +kernel,
      by decide +kernel, by decide +kernel, by decide +kernel, by decide +kernel⟩, by decide, 
    ⟨⟨by decide +kernel, by decide +kernel, by decide +kernel, ⟨_, rfl, by decide +kernel⟩, by decide +kernel, by decide +kernel, by decide +kernel, by decide +kernel,
      by decide +kernel, by decide +kernel, by decide +kernel, by decide +kernel⟩, by decide +kernel, by decide +kernel, by decide +kernel⟩⟩

/-- Package 0's control memory is mirrored at package 1; package 0 is lost. -/
theorem witness_MemoryReadAfterWrite_mirror : let s : State := { domain := 2, partner := [(0, 1)] }
    let u : State := { s.rawPut (2 ^ 39) 5 with lost := [(1, 1#32)] }
    gonePkg s (2 ^ 39 / 2 ^ 40) = false ∧ mirrorOf s (2 ^ 39) = some (2 ^ 40 + 2 ^ 39 + 2 ^ 36) ∧ u.mem = (s.rawPut (2 ^ 39) 5).mem ∧ gonePkg u (2 ^ 39 / 2 ^ 40) = true ∧
    mirrorOf u (2 ^ 39) = some (2 ^ 40 + 2 ^ 39 + 2 ^ 36) := by decide +kernel

/-! ### The cipher and the digest: the published vectors of AES-256 (FIPS 197) and SHA-256 (FIPS 180-4) -/

def byteList (n : List Nat) : List Byte := n.map (BitVec.ofNat 8)

theorem test_aes256 : encryptBlock (roundKeys (byteList (List.range 32))) (byteList ((List.range 16).map (fun i => 17 * i))) =
    byteList [0x8E, 0xA2, 0xB7, 0xCA, 0x51, 0x67, 0x45, 0xBF, 0xEA, 0xFC, 0x49, 0x90, 0x4B, 0x49, 0x60, 0x89] := by decide +kernel

theorem test_sha256 : sha256 (byteList [0x61, 0x62, 0x63]) = 0xBA7816BF8F01CFEA414140DE5DAE2223B00361A396177A9CB410FF61F20015AD#256 := by decide +kernel

end Sys2Proof.Tests
end

section
/-!
PROOFS. The front engine: the pending-trap registers (R218, R219, R221).
-/

namespace Sys2Proof.Machine

/-- R219: an empty register of the class takes the cause. -/
theorem Group.post_of_empty {g : Group} {t : Trap} (hrun : g.run = .running)
    (hempty : g.trap.pending.get? (trapClass t.cause) = none) :
    g.post t = { g with trap := { g.trap with pending := g.trap.pending.put (trapClass t.cause) t } } := by
  simp only [Group.post, hrun, hempty]

/-- R219: a full register keeps the cause it holds, and the arrival leaves only OVERRUN. -/
theorem Group.post_of_full {g : Group} {t : Trap} (hrun : g.run = .running)
    (hfull : g.trap.pending.get? (trapClass t.cause) ≠ none) :
    g.post t = { g with trap := { g.trap with err := g.trap.err ||| 0x10000#32 } } := by
  obtain ⟨held, hheld⟩ := Option.ne_none_iff_exists'.mp hfull
  simp only [Group.post, hrun, hheld]

/-- R221: a group that no longer runs takes no cause. -/
theorem Group.post_of_not_running {g : Group} {t : Trap} (hstop : g.run ≠ .running) : g.post t = g := by
  unfold Group.post
  cases hrun : g.run with
  | running => exact absurd hrun hstop
  | halted code sub => rfl
  | exited => rfl

/-- R218: the arithmetic causes. -/
theorem trapClass_arithmetic : ∀ cause ∈ ([0x0C, 0x0D] : List Nat), trapClass cause = 1 := by decide

/-- R218: the ordering causes. -/
theorem trapClass_ordering : ∀ cause ∈ ([0x10, 0x11, 0x12, 0x13] : List Nat), trapClass cause = 2 := by decide

/-- R218: the engine causes. -/
theorem trapClass_engine : ∀ cause ∈ ([0x0F, 0x14, 0x15, 0x16] : List Nat), trapClass cause = 3 := by decide

/-- Settles O10, by the three cases of an arriving cause (its register empty, its register full, the group stopped) and the
table of classes. -/
theorem pendingCauses : Obligations.PendingCauses :=
  fun _ _ => ⟨Group.post_of_empty, Group.post_of_full, Group.post_of_not_running,
    trapClass_arithmetic, trapClass_ordering, trapClass_engine⟩

end Sys2Proof.Machine
end

section
/-!
PROOFS. The lane engine: the index registers (R254) and the lane exchange (R255).
-/

namespace Sys2Proof.Machine

/-! ### An illegal encoding of the next instruction -/

theorem Issues.not_held {s : State} {g : Group} {c : Clause} (h : Issues s g c) : g.wait.isHeld = false := by
  rcases h.free with h | h <;> rw [h] <;> rfl

theorem issueG_illegal {ck : Checks} {sh : Shape} {o : EOps} {s : State} {g : Group} {c : Clause}
    (hrun : g.run = .running) (hopen : g.clause = some c) (hhold : ck.hold s g = false) (hshape : shapeOk sh o = false)
    (body : State → Group → Res Eff) : issueG ck sh o body s g = s.putG (g.trapEm causeIllegal) := by
  simp only [issueG, hrun, hopen, hhold, hshape, Bool.not_false, Bool.true_or, Bool.false_eq_true, if_false, if_true]

/-- R101: where no hold comes first, a shape that breaks a rule of R93 to R99 traps as ILLEGAL_OP, whatever the effect. -/
theorem issueC_illegal {ck : Checks} {sh : Shape} {o : EOps} {s : State} {g : Group} {c : Clause} (h : Issues s g c)
    (hhold : ck.hold s { g with wait := .none } = false) (hshape : shapeOk sh o = false) (body : State → Group → Res Eff) :
    issueC ck sh o body s = .next (s.with (({ g with wait := .none } : Group).trapEm causeIllegal)) := by
  simp only [issueC, h.here, h.not_held, h.due, Bool.or_self, Bool.false_eq_true, if_false]
  exact congrArg Host.Outcome.next (issueG_illegal (g := { g with wait := .none }) h.running h.opened hhold hshape body)

theorem shapeOk_of_bad_d {sh : Shape} {o : EOps} (h : fieldOk sh.d false o.d = false) : shapeOk sh o = false := by
  simp [shapeOk, h]

theorem shapeOk_of_bad_a {sh : Shape} {o : EOps} (hlit : litInA sh o = false) (h : fieldOk sh.a (uA o) o.a = false) :
    shapeOk sh o = false := by
  simp [shapeOk, hlit, h]

theorem shapeOk_of_bad_lit {sh : Shape} {o : EOps} (h : litOk sh o = false) : shapeOk sh o = false := by
  simp [shapeOk, h]

/-- R98: index registers are numbered 0 to 3. -/
theorem fieldOk_xi_eq_false {u : Bool} {f : BitVec 10} (h : 4 ≤ f.toNat) : fieldOk .xi u f = false :=
  decide_eq_false (Nat.not_lt.mpr h)

/-- R96: a 16-bit literal in place of A stands beside A = 0 and has no bit above its sixteen. -/
theorem litOk_half_eq_false {sh : Shape} {o : EOps} {w : Dword} (hsh : sh.lit = .inA .half) (hw : o.lit = some w)
    (h : o.a ≠ 0 ∨ 65536 ≤ w.toNat) : litOk sh o = false := by
  have hbad : (litValOk .half w && o.a == 0) = false := by
    rw [Bool.and_eq_false_iff]
    rcases h with ha | hbig
    · exact .inr (beq_false_of_ne ha)
    · have hhigh : w.toNat / 2 ^ 16 ≠ 0 := by omega
      exact .inl (beq_false_of_ne hhigh)
  simp only [litOk, hw, hsh, hbad, Bool.and_false]

/-! ### Index registers (R254) -/

/-- Writes to one index register in many lanes change the table of index registers alone. -/
theorem Group.foldl_putX (i : Nat) (v : Nat → Half) (lanes : List Nat) (g : Group) :
    lanes.foldl (fun g' l => g'.putX i l (v l)) g =
      { g with x := lanes.foldl (fun x l => x.store 0 (i * 16 + l) (v l)) g.x } := by
  induction lanes generalizing g with
  | nil => rfl
  | cons l lanes ih => exact ih (g.putX i l (v l))

/-- What XSET, or with `add` XSET.ADD, leaves in index register D of a lane (R254). -/
def xsetResult (add : Bool) (s : State) (g : Group) (o : EOps) (l : Nat) : Half :=
  if add then g.xr o.d.toNat l + xsetValue s g o l else xsetValue s g o l

/-- XSET and XSET.ADD put their result in index register D of each lane they act on; the model cuts a literal to a word before it
cuts it to its low half. -/
theorem xset_eq (add : Bool) (ck : Checks) (sh : Shape) (o : EOps) (s : State) :
    xset add ck sh o s = issueC ck sh o (fun s g => okOuts s ((lanesOf (g.active sh o s.free)).foldl
      (fun g' l => g'.putX o.d.toNat l (xsetResult add s g o l)) g) []) s := by
  unfold xset xsetResult xsetValue
  cases o.lit with
  | none => rfl
  | some w =>
    have hlow : (w.setWidth 32).setWidth 16 = w.setWidth 16 := BitVec.setWidth_setWidth_of_le w (by decide)
    simp only [hlow]

/-- Where nothing of R101 comes first, XSET and XSET.ADD change index register D in the lanes they act on, and no other register. -/
theorem xset_runs {o : EOps} {s : State} {g : Group} {c : Clause} (add : Bool) (h : Runs {} shXset o s g c) :
    xset add {} shXset o s = .next (s.with (((lanesOf (g.active shXset o s.free)).foldl
      (fun g' l => g'.putX o.d.toNat l (xsetResult add s g o l)) g).wrote c [])) := by
  rw [xset_eq, Group.foldl_putX]
  exact issueC_changes h rfl (congrArg (okOuts s · [])
    (Group.foldl_putX o.d.toNat (xsetResult add s g o) _ { g with wait := .none })) rfl rfl

/-- Settles O4: the rule for XSET and XSET.ADD, the one for lane results for XGET, and the three encodings that R254 forbids. -/
theorem indexRegisters : Obligations.IndexRegisters := by
  refine ⟨fun _ _ _ _ => xset_runs false, fun _ _ _ _ => xset_runs true, fun _ _ _ _ h => issueC_writes h rfl rfl,
    fun o s g c h => ⟨fun hbad => ?_, fun ha => ?_⟩⟩
  · have hshape : shapeOk shXset o = false := by
      rcases hbad with hd | ⟨w, hw, hlit⟩
      · exact shapeOk_of_bad_d (fieldOk_xi_eq_false hd)
      · exact shapeOk_of_bad_lit (litOk_half_eq_false rfl hw hlit)
    exact ⟨issueC_illegal h rfl hshape _, issueC_illegal h rfl hshape _⟩
  · exact issueC_illegal h rfl (shapeOk_of_bad_a rfl (fieldOk_xi_eq_false ha)) _

/-! ### Lane exchange (R255) -/

/-- The model's source lane is the one of R255, for every kind of SHFL. -/
theorem shflLane_eq_shuffled (kind n l : Nat) (b : Word) : shflLane kind n l b = shuffled kind n l b.toNat :=
  match kind with
  | 0 => rfl
  | 1 => rfl
  | 2 => rfl
  | _ + 3 => rfl

/-- R255, R529: the source is found among the visible lanes, and in a protected launch read at the lane's own place of the pair. -/
theorem shflSrc_eq_shuffledLane (kind : Nat) (s : State) (g : Group) (o : EOps) (l : Nat) :
    shflSrc kind s g o l = shuffledLane g kind l (g.b32 s.free o l).toNat := by
  unfold shflSrc shuffledLane
  rw [shflLane_eq_shuffled]
  cases hprot : g.info.prot with
  | true =>
    have hn : g.nlanes = 8 := if_pos hprot
    have hvis : g.vis l = l / 2 := if_pos hprot
    rw [hn, hvis]
    cases shuffled kind 8 (l / 2) (g.b32 s.free o l).toNat <;> rfl
  | false =>
    have hn : g.nlanes = 16 := if_neg (by simp [hprot])
    have hvis : g.vis l = l := if_neg (by simp [hprot])
    rw [hn, hvis]
    cases shuffled kind 16 l (g.b32 s.free o l).toNat <;> rfl

/-- Each lane that SHFL acts on takes register A of the lane that R255 names. -/
theorem shfl_runs {kind : Nat} {o : EOps} {s : State} {g : Group} {c : Clause}
    (h : Runs { race := some (shflRace kind shShflIdx o) } shShflIdx o s g c) :
    shfl kind {} shShflIdx o s = .next (s.with (g.wrote c (laneOutsE shShflIdx
      (fun s g o l => [g.v1 s.free o.a.toNat (shuffledLane g kind l (g.b32 s.free o l).toNat)]) s g o))) := by
  simp only [← shflSrc_eq_shuffledLane]
  exact issueC_writes h rfl rfl

/-- Settles O6: the four kinds of SHFL are one operation that differs in its source lane alone. -/
theorem laneExchange : Obligations.LaneExchange :=
  fun _ _ _ _ => ⟨shfl_runs, shfl_runs, shfl_runs, shfl_runs⟩

end Sys2Proof.Machine
end

section
/-!
PROOFS. Decoding and encoding: the fields that the words of a layout hold (R88 to R92), the opcode map read backwards, and the round
trips of words and bytes.
-/

namespace Sys2Proof.Machine

/-! ### The fields of a word of a layout, and the word of its fields -/

section Fields

variable (len : BitVec 2) (op : BitVec 7) (h : Header) (cnd : BitVec 4) (off : BitVec 19) (m : BitVec 2) (b : B3Ops) (e : EOps) (sub : BitVec 7)

theorem len_headerWord : (headerWord len h).extractLsb' 30 2 = len := by unfold headerWord; ext i hi; grind
theorem op_headerWord : (headerWord len h).extractLsb' 23 7 = 0 := by unfold headerWord; ext i hi; grind
theorem headerOf_headerWord : headerOf (headerWord len h) = h := by
  unfold headerWord headerOf
  congr 1 <;> (ext i hi; grind)

theorem len_bjWord : (bjWord len op cnd off).extractLsb' 30 2 = len := by unfold bjWord; ext i hi; grind
theorem op_bjWord : (bjWord len op cnd off).extractLsb' 23 7 = op := by unfold bjWord; ext i hi; grind
theorem cnd_bjWord : (bjWord len op cnd off).extractLsb' 19 4 = cnd := by unfold bjWord; ext i hi; grind
theorem off_bjWord : (bjWord len op cnd off).extractLsb' 0 19 = off := by unfold bjWord; ext i hi; grind

theorem len_b3Word : (b3Word op m b).extractLsb' 30 2 = lenBase b.lit := by unfold b3Word; ext i hi; grind
theorem op_b3Word : (b3Word op m b).extractLsb' 23 7 = op := by unfold b3Word; ext i hi; grind
theorem m_b3Word : (b3Word op m b).extractLsb' 0 2 = m := by unfold b3Word; ext i hi; grind
theorem b3Of_b3Word : b3Of (b3Word op m b) b.lit = b := by
  cases b
  unfold b3Word b3Of
  congr 1 <;> (ext i hi; grind)

theorem len_eWord0 : (eWord0 op e).extractLsb' 30 2 = lenExt e.lit := by unfold eWord0; ext i hi; grind
theorem op_eWord0 : (eWord0 op e).extractLsb' 23 7 = op := by unfold eWord0; ext i hi; grind
theorem sub_eWord1 : (eWord1 sub e).extractLsb' 4 7 = sub := by unfold eWord1; ext i hi; grind
theorem eOf_eWords : eOf (eWord0 op e) (eWord1 sub e) e.x e.lit = e := by
  cases e
  unfold eWord0 eWord1 eOf
  congr 1
  case e_qn => grind
  all_goals (ext i hi; grind)

theorem headerWord_headerOf {w : Word} (hop : w.extractLsb' 23 7 = 0#7) : headerWord (w.extractLsb' 30 2) (headerOf w) = w := by
  unfold headerWord headerOf
  rw [← hop]
  ext i hi
  grind

theorem bjWord_fields (w : Word) : bjWord (w.extractLsb' 30 2) (w.extractLsb' 23 7) (w.extractLsb' 19 4) (w.extractLsb' 0 19) = w := by
  unfold bjWord
  ext i hi
  grind

theorem b3Word_b3Of {w : Word} {lit : Option (BitVec 64)} (hlen : w.extractLsb' 30 2 = lenBase lit) :
    b3Word (w.extractLsb' 23 7) (w.extractLsb' 0 2) (b3Of w lit) = w := by
  unfold b3Word b3Of
  rw [← hlen]
  ext i hi
  grind

theorem eWord0_eOf {w0 w1 w2 : Word} {lit : Option (BitVec 64)} (hlen : w0.extractLsb' 30 2 = lenExt lit) :
    eWord0 (w0.extractLsb' 23 7) (eOf w0 w1 w2 lit) = w0 := by
  unfold eWord0 eOf
  rw [← hlen]
  ext i hi
  grind

theorem eWord1_eOf (w0 w1 w2 : Word) (lit : Option (BitVec 64)) : eWord1 (w1.extractLsb' 4 7) (eOf w0 w1 w2 lit) = w1 := by
  unfold eWord1 eOf
  ext i hi
  grind

theorem litWords_litOf (lo hi : Word) : litWords (some (litOf lo hi)) = [lo, hi] := by
  have hlow : (hi ++ lo).extractLsb' 0 32 = lo := by ext i h; grind
  have hhigh : (hi ++ lo).extractLsb' 32 32 = hi := by ext i h; grind
  rw [litWords, litOf, hlow, hhigh]

theorem litOf_words (l : BitVec 64) : litOf (l.extractLsb' 0 32) (l.extractLsb' 32 32) = l := by
  unfold litOf
  ext i h
  grind

end Fields

/-! ### The opcode map read backwards -/

/-- What the opcode map gives for an OP and a SUB is laid out with them and with its operands. -/
theorem form_of_eInstr {op sub : Nat} {o : EOps} {i : Instr} (h : eInstr op sub o = some (some i)) :
    ∃ sh, form i = .e op sub o sh := by
  unfold eInstr at h
  split at h
  case h_108 => cases h
  all_goals
    injection h with h
    delta e01 e02 e03 e04 e05 e06 e07 e08 e09 e0A e0B e0C e0D e0E e0F e10 e11 e12 e13 e14 e15 e16 e17 e18 e19 e1A e20 e21 e22 e23
      e24 e25 e26 e27 e28 e29 e2A e2B e2C e2D e2E e30 e31 e32 e33 e34 e35 e36 e37 e38 e39 e3A e40 e41 e42 e43 e44 e45 e46 e47 e48
      e49 e4A e4B e4C e50 e51 e52 e53 e54 e55 e56 e57 e58 e59 e5A e60 e61 e62 e63 e64 e65 e66 e67 e68 e69 e6A e6B e6C e6D e6E e6F
      e70 e71 e72 e73 e74 e75 e76 e77 e78 e79 e7A e7B e7C e7D e7E at h
    split at h <;> cases h <;> exact ⟨_, rfl⟩

/-- What the base forms give for an OP and an M is laid out with them and with its operands. -/
theorem form_of_b3Instr {op m : Nat} {o : B3Ops} {i : Instr} (h : b3Instr op m o = some (some i)) :
    ∃ sh, form i = .b3 op m o sh := by
  unfold b3Instr at h
  split at h
  case h_20 => cases h
  all_goals split at h <;> cases h <;> exact ⟨_, rfl⟩

/-! ### One length of instruction at a time -/

theorem fLen_of {w : Word} {len : BitVec 2} (h : w.extractLsb' 30 2 = len) : fLen w = len.toNat := congrArg BitVec.toNat h
theorem fOp_of {w : Word} {op : BitVec 7} (h : w.extractLsb' 23 7 = op) : fOp w = op.toNat := congrArg BitVec.toNat h
theorem opBits_of_fOp (w : Word) : BitVec.ofNat 7 (fOp w) = w.extractLsb' 23 7 := BitVec.ofNat_toNat ..

theorem checkFields_ok {i j : Instr} : checkFields i = .ok j ↔ wellFormed i = true ∧ i = j := by
  unfold checkFields
  split <;> simp_all

/-- The words of a base form, and of an extended one, are what the decoder reads an instruction from. -/
theorem decodeWords_base {w : Word} {lit : Option (BitVec 64)} {i : Instr} (rest : List Word) (hlen : w.extractLsb' 30 2 = lenBase lit)
    (hi : baseInstr w lit = .ok i) (hw : wellFormed i = true) : decodeWords (w :: litWords lit ++ rest) = .ok (i, rest) := by
  have hl := fLen_of hlen
  cases lit with
  | none =>
    change fLen w = 0 at hl
    simp [decodeWords, litWords, hl, hi, checkFields, hw, bind, Except.bind]
  | some l =>
    change fLen w = 1 at hl
    simp [decodeWords, litWords, hl, litOf_words, hi, checkFields, hw, bind, Except.bind]

theorem decodeWords_ext {w0 w1 w2 : Word} {lit : Option (BitVec 64)} {i : Instr} (rest : List Word)
    (hlen : w0.extractLsb' 30 2 = lenExt lit) (hi : extInstr w0 w1 w2 lit = .ok i) (hw : wellFormed i = true) :
    decodeWords (w0 :: w1 :: w2 :: litWords lit ++ rest) = .ok (i, rest) := by
  have hl := fLen_of hlen
  cases lit with
  | none =>
    change fLen w0 = 2 at hl
    simp [decodeWords, litWords, hl, hi, checkFields, hw, bind, Except.bind]
  | some l =>
    change fLen w0 = 3 at hl
    simp [decodeWords, litWords, hl, litOf_words, hi, checkFields, hw, bind, Except.bind]

/-- Whatever the decoder reads, it reads from the words of a base form or of an extended one. -/
theorem decodeWords_ok {ws rest : List Word} {i : Instr} (h : decodeWords ws = .ok (i, rest)) :
    wellFormed i = true ∧
      ((∃ w lit, ws = w :: litWords lit ++ rest ∧ w.extractLsb' 30 2 = lenBase lit ∧ baseInstr w lit = .ok i) ∨
       (∃ w0 w1 w2 lit, ws = w0 :: w1 :: w2 :: litWords lit ++ rest ∧ w0.extractLsb' 30 2 = lenExt lit ∧ extInstr w0 w1 w2 lit = .ok i)) := by
  have hlen : ∀ {w : Word} {n : BitVec 2}, fLen w = n.toNat → w.extractLsb' 30 2 = n := fun h => BitVec.eq_of_toNat_eq h
  have hbind : ∀ {x : Except DecErr Instr} {t : List Word},
      (do let i ← x; let i ← checkFields i; .ok (i, t) : Except DecErr (Instr × List Word)) = .ok (i, rest) →
        wellFormed i = true ∧ x = .ok i ∧ t = rest := by
    intro x t hx
    cases x with
    | error e => cases hx
    | ok j =>
      simp only [bind, Except.bind] at hx
      by_cases hj : wellFormed j = true
      · simp only [checkFields, hj, if_true, Except.ok.injEq, Prod.mk.injEq] at hx
        obtain ⟨rfl, rfl⟩ := hx
        exact ⟨hj, rfl, rfl⟩
      · simp [checkFields, hj] at hx
  unfold decodeWords at h
  split at h
  · cases h
  next w _ =>
    split at h
    · next t hl =>
      obtain ⟨hw, hx, rfl⟩ := hbind h
      exact ⟨hw, .inl ⟨w, none, rfl, hlen (n := 0) hl, hx⟩⟩
    · next lo hi t hl =>
      obtain ⟨hw, hx, rfl⟩ := hbind h
      exact ⟨hw, .inl ⟨w, some (litOf lo hi), by rw [litWords_litOf]; rfl, hlen (n := 1) hl, hx⟩⟩
    · next w1 w2 t hl =>
      obtain ⟨hw, hx, rfl⟩ := hbind h
      exact ⟨hw, .inr ⟨w, w1, w2, none, rfl, hlen (n := 2) hl, hx⟩⟩
    · next w1 w2 lo hi t hl =>
      obtain ⟨hw, hx, rfl⟩ := hbind h
      exact ⟨hw, .inr ⟨w, w1, w2, some (litOf lo hi), by rw [litWords_litOf]; rfl, hlen (n := 3) hl, hx⟩⟩
    · cases h

/-! ### From an instruction to its words and back -/

/-- The decoder's answer for an OP of which the base forms say `x` (R90, R100). -/
noncomputable def b3Answer (op : Nat) (x : Option (Option Instr)) : Except DecErr Instr :=
  match x with
  | some (some i) => .ok i
  | some none => .error .reservedSub
  | none => if definedOp op then .error .noBaseForm else .error .reservedOp

theorem b3Answer_ok {op : Nat} {x : Option (Option Instr)} {i : Instr} : b3Answer op x = .ok i ↔ x = some (some i) := by
  rcases x with _ | _ | j
  · simp only [b3Answer, reduceCtorEq, iff_false]
    cases definedOp op <;> simp
  · simp [b3Answer]
  · simp [b3Answer]

theorem baseInstr_b3 {w : Word} {lit : Option (BitVec 64)} {n : Nat} (hop : fOp w = n + 4) :
    baseInstr w lit = b3Answer (n + 4) (b3Instr (n + 4) (w.extractLsb' 0 2).toNat (b3Of w lit)) := by
  unfold baseInstr
  rw [hop]
  rfl

theorem baseInstr_brx {w : Word} {lit : Option (BitVec 64)} (hop : fOp w = 2) : baseInstr w lit = b3Answer 2 none := by
  unfold baseInstr
  rw [hop]
  rfl

theorem extInstr_e {w0 w1 w2 : Word} {lit : Option (BitVec 64)} {i : Instr} (hop : fOp w0 ≠ 0)
    (hi : eInstr (fOp w0) (w1.extractLsb' 4 7).toNat (eOf w0 w1 w2 lit) = some (some i)) : extInstr w0 w1 w2 lit = .ok i := by
  simp only [extInstr, hop, if_false, hi]

theorem baseInstr_header {w : Word} (hop : fOp w = 0) :
    baseInstr w none = .ok (.clause (headerOf w)) ∧ ∀ l, baseInstr w (some l) = .ok (.clauseTmask (headerOf w) l) := by
  unfold baseInstr
  rw [hop]
  exact ⟨rfl, fun _ => rfl⟩

theorem baseInstr_bra {w : Word} (hop : fOp w = 1) :
    baseInstr w none = .ok (.braBj (w.extractLsb' 19 4) (w.extractLsb' 0 19)) ∧
      ∀ l, baseInstr w (some l) = .ok (.braBjLiteral (w.extractLsb' 19 4) (w.extractLsb' 0 19) l) := by
  unfold baseInstr
  rw [hop]
  exact ⟨rfl, fun _ => rfl⟩

theorem baseInstr_call {w : Word} (hop : fOp w = 3) :
    baseInstr w none = .ok (.callBj (w.extractLsb' 19 4) (w.extractLsb' 0 19)) ∧
      ∀ l, baseInstr w (some l) = .ok (.callBjLiteral (w.extractLsb' 19 4) (w.extractLsb' 0 19) l) := by
  unfold baseInstr
  rw [hop]
  exact ⟨rfl, fun _ => rfl⟩

theorem decodeWords_encode (i : Instr) (rest : List Word) (hw : wellFormed i = true) (he : isEvent i = false) :
    decodeWords (encode i ++ rest) = .ok (i, rest) := by
  have hi := Laws.Layout.all i
  unfold encode
  unfold Laws.Layout.Statement at hi
  unfold isEvent at he
  cases hf : form i with
  | event => simp [hf] at he
  | clause h =>
    simp only [hf] at hi
    refine decodeWords_base (lit := none) rest (len_headerWord 0 h) ?_ hw
    rw [(baseInstr_header (fOp_of (op_headerWord 0 h))).1, headerOf_headerWord, hi]
  | clauseLit h l =>
    simp only [hf] at hi
    refine decodeWords_base (lit := some l) rest (len_headerWord 1 h) ?_ hw
    rw [(baseInstr_header (fOp_of (op_headerWord 1 h))).2, headerOf_headerWord, hi]
  | clauseExt h w1 w2 =>
    simp only [hf] at hi
    refine decodeWords_ext (lit := none) rest (len_headerWord 2 h) ?_ hw
    have hop : fOp (headerWord 2 h) = 0 := fOp_of (op_headerWord 2 h)
    rw [extInstr, if_pos hop, headerOf_headerWord, hi]
  | bj op cnd off lit =>
    refine decodeWords_base rest (len_bjWord ..) ?_ hw
    have hop := fOp_of (op_bjWord (lenBase lit) (BitVec.ofNat 7 op) cnd off)
    cases lit with
    | none =>
      simp only [hf] at hi
      rcases hi with ⟨rfl, rfl⟩ | ⟨rfl, rfl⟩
      · rw [(baseInstr_bra hop).1, cnd_bjWord, off_bjWord]
      · rw [(baseInstr_call hop).1, cnd_bjWord, off_bjWord]
    | some l =>
      simp only [hf] at hi
      rcases hi with ⟨rfl, rfl⟩ | ⟨rfl, rfl⟩
      · rw [(baseInstr_bra hop).2, cnd_bjWord, off_bjWord]
      · rw [(baseInstr_call hop).2, cnd_bjWord, off_bjWord]
  | b3 op m o sh =>
    simp only [hf] at hi
    obtain ⟨⟨hlow, hhigh⟩, hm, hi⟩ := hi
    have hop : fOp (b3Word (BitVec.ofNat 7 op) (BitVec.ofNat 2 m) o) = op := by
      rw [fOp_of (op_b3Word ..), BitVec.toNat_ofNat]; omega
    obtain ⟨n, rfl⟩ : ∃ n, op = n + 4 := ⟨op - 4, by omega⟩
    refine decodeWords_base rest (len_b3Word ..) ?_ hw
    rw [baseInstr_b3 hop, b3Answer_ok, m_b3Word, b3Of_b3Word, BitVec.toNat_ofNat, Nat.mod_eq_of_lt hm]
    exact hi hw
  | e op sub o sh =>
    simp only [hf] at hi
    obtain ⟨⟨hlow, hhigh⟩, hsub, hi⟩ := hi
    have hop : fOp (eWord0 (BitVec.ofNat 7 op) o) = op := by
      rw [fOp_of (op_eWord0 ..), BitVec.toNat_ofNat]; omega
    refine decodeWords_ext rest (len_eWord0 ..) (extInstr_e (by omega) ?_) hw
    rw [hop, sub_eWord1, eOf_eWords, BitVec.toNat_ofNat, Nat.mod_eq_of_lt hsub]
    exact hi hw

/-! ### From words to an instruction and back -/

theorem encode_of_baseInstr {w : Word} {lit : Option (BitVec 64)} {i : Instr} (hlen : w.extractLsb' 30 2 = lenBase lit)
    (h : baseInstr w lit = .ok i) : isEvent i = false ∧ encode i = w :: litWords lit := by
  have hbj : ∀ n : Nat, fOp w = n → bjWord (lenBase lit) (BitVec.ofNat 7 n) (w.extractLsb' 19 4) (w.extractLsb' 0 19) = w := by
    rintro n rfl
    rw [← hlen, opBits_of_fOp, bjWord_fields]
  have hhead : ∀ hop : fOp w = 0, headerWord (lenBase lit) (headerOf w) = w := by
    intro hop
    rw [← hlen, headerWord_headerOf (by rw [← opBits_of_fOp, hop])]
  match hop : fOp w with
  | 0 =>
    obtain ⟨hnone, hsome⟩ := baseInstr_header hop
    cases lit with
    | none => injection hnone.symm.trans h with hi; subst hi; exact ⟨rfl, congrArg (· :: _) (hhead hop)⟩
    | some l => injection (hsome l).symm.trans h with hi; subst hi; exact ⟨rfl, congrArg (· :: _) (hhead hop)⟩
  | 1 =>
    obtain ⟨hnone, hsome⟩ := baseInstr_bra hop
    cases lit with
    | none => injection hnone.symm.trans h with hi; subst hi; exact ⟨rfl, congrArg (· :: _) (hbj 1 hop)⟩
    | some l => injection (hsome l).symm.trans h with hi; subst hi; exact ⟨rfl, congrArg (· :: _) (hbj 1 hop)⟩
  | 2 => rw [baseInstr_brx hop, b3Answer_ok] at h; cases h
  | 3 =>
    obtain ⟨hnone, hsome⟩ := baseInstr_call hop
    cases lit with
    | none => injection hnone.symm.trans h with hi; subst hi; exact ⟨rfl, congrArg (· :: _) (hbj 3 hop)⟩
    | some l => injection (hsome l).symm.trans h with hi; subst hi; exact ⟨rfl, congrArg (· :: _) (hbj 3 hop)⟩
  | n + 4 =>
    have hop : fOp w = n + 4 := hop
    rw [baseInstr_b3 hop, b3Answer_ok, ← hop] at h
    obtain ⟨sh, hf⟩ := form_of_b3Instr h
    refine ⟨by simp only [isEvent, hf], ?_⟩
    rw [encode, hf, formWords, opBits_of_fOp, BitVec.ofNat_toNat, BitVec.setWidth_eq, b3Word_b3Of hlen]
    rfl

theorem encode_of_extInstr {w0 w1 w2 : Word} {lit : Option (BitVec 64)} {i : Instr} (hlen : w0.extractLsb' 30 2 = lenExt lit)
    (h : extInstr w0 w1 w2 lit = .ok i) : isEvent i = false ∧ encode i = w0 :: w1 :: w2 :: litWords lit := by
  unfold extInstr at h
  split at h
  · next hop =>
    split at h
    · cases h
      refine ⟨rfl, ?_⟩
      have hw : headerWord 2 (headerOf w0) = w0 := by
        rw [← show _ = (2 : BitVec 2) from hlen, headerWord_headerOf (by rw [← opBits_of_fOp, hop])]
      exact congrArg (· :: _) hw
    · cases h
  · split at h
    · next hi =>
      cases h
      obtain ⟨sh, hf⟩ := form_of_eInstr hi
      refine ⟨by simp only [isEvent, hf], ?_⟩
      rw [encode, hf, formWords, opBits_of_fOp, BitVec.ofNat_toNat, BitVec.setWidth_eq, eWord0_eOf hlen, eWord1_eOf]
      rfl
    all_goals cases h

theorem encode_decodeWords {ws rest : List Word} {i : Instr} (h : decodeWords ws = .ok (i, rest)) :
    wellFormed i = true ∧ isEvent i = false ∧ encode i ++ rest = ws := by
  obtain ⟨hw, ⟨w, lit, rfl, hlen, hi⟩ | ⟨w0, w1, w2, lit, rfl, hlen, hi⟩⟩ := decodeWords_ok h
  · obtain ⟨he, henc⟩ := encode_of_baseInstr hlen hi
    exact ⟨hw, he, by rw [henc]⟩
  · obtain ⟨he, henc⟩ := encode_of_extInstr hlen hi
    exact ⟨hw, he, by rw [henc]⟩

/-! ### Bytes (R5, R85) -/

theorem wordOf_bytes (w : Word) : wordOf (w.extractLsb' 0 8) (w.extractLsb' 8 8) (w.extractLsb' 16 8) (w.extractLsb' 24 8) = w := by
  unfold wordOf
  ext i hi
  grind

theorem wordsOf_bytes (ws : List Word) (bs : List Byte) : Sys2Proof.wordsOf (ws.flatMap bytesOfWord ++ bs) = ws ++ Sys2Proof.wordsOf bs := by
  induction ws with
  | nil => rfl
  | cons w ws ih =>
    change wordOf _ _ _ _ :: Sys2Proof.wordsOf (ws.flatMap bytesOfWord ++ bs) = _
    rw [wordOf_bytes, ih, List.cons_append]

theorem length_bytesOfWords (ws : List Word) : (ws.flatMap bytesOfWord).length = 4 * ws.length := by
  induction ws with
  | nil => rfl
  | cons w ws ih => rw [List.flatMap_cons, List.length_append, ih, List.length_cons, show (bytesOfWord w).length = 4 from rfl]; omega

theorem decode_encode (i : Instr) (bs : List Byte) (hw : wellFormed i = true) (he : isEvent i = false) :
    decode ((encode i).flatMap bytesOfWord ++ bs) = .ok (i, bs) := by
  have hdrop : ((encode i).flatMap bytesOfWord ++ bs).drop (4 * (encode i).length) = bs :=
    List.drop_left' (length_bytesOfWords _)
  simp only [decode, wordsOf_bytes, decodeWords_encode i _ hw he, List.length_append, Nat.add_sub_cancel, hdrop]

/-- Settles O51: the fields of a layout's words give the words, the words give the fields, and the opcode map is read in both
directions; bytes are four to a word. -/
theorem decodeEncode : Obligations.DecodeEncode :=
  ⟨decodeWords_encode, fun _ _ _ h => encode_decodeWords h, decode_encode⟩

end Sys2Proof.Machine
end

section
/-!
PROOFS. The arithmetic of the uniform path and of the lane path (R238, R250, R251, R253): every clause is the rule of its shape of
effect (`uniE1_of`, `laneE1_of`, …) with the equation of its operation.
-/

namespace Sys2Proof.Machine

/-! ### Operations as the statements write them -/

theorem hiWord_wideMulU (a b : Word) : hiWord (wideMulU a b) = (a.setWidth 64 * b.setWidth 64).extractLsb' 32 32 := by
  rw [wideMulU_eq, hiWord]

theorem satAdd_eq (a b : Word) : satAdd a b = BitVec.ofInt 32 (max (-2 ^ 31) (min (2 ^ 31 - 1) (a.toInt + b.toInt))) := rfl

theorem satSub_eq (a b : Word) : satSub a b = BitVec.ofInt 32 (max (-2 ^ 31) (min (2 ^ 31 - 1) (a.toInt - b.toInt))) := rfl

theorem cmpCC_eq_ccHolds {w : Nat} (cc : CC) (a b : BitVec w) : cmpCC cc a b = ccHolds cc a b := by
  obtain ⟨heq, hne, hlt, hle, hgt, hge, hltu, hleu, hgtu, hgeu⟩ := cmpCC_bits a b
  cases cc <;> assumption

/-- R9: the two clamps are the model's. -/
theorem sat_eq_clampS (w : Nat) (n : Int) : sat n w = clampS w n := by
  have hp : (0 : Int) < 2 ^ (w - 1) := by positivity
  unfold sat clampS
  grind

theorem satU_eq_clampU (w : Nat) (n : Int) : satU n w = clampU w n := by
  have hp : (0 : Int) < 2 ^ w := by positivity
  unfold satU clampU
  grind

theorem icvtSext_eq (w : NarrowW) (a : Word) : icvtSext w a = (a.extractLsb' 0 (narrowBits w)).signExtend 32 := by
  rw [icvtSext, BitVec.setWidth_eq_extractLsb' (by cases w <;> decide)]

theorem icvtZext8_eq (a : Word) : icvtZext .w8 a = a &&& 0xFF := by
  unfold icvtZext narrowBits
  ext i hi
  interval_cases i <;> simp

theorem icvtZext16_eq (a : Word) : icvtZext .w16 a = a &&& 0xFFFF := by
  unfold icvtZext narrowBits
  ext i hi
  interval_cases i <;> simp

theorem icvtSatS_eq (w : NarrowW) (a : Word) : icvtSatS w a = BitVec.ofInt 32 (clampS (narrowBits w) a.toInt) := by
  rw [icvtSatS, sat_eq_clampS]

theorem icvtSatU_eq (w : NarrowW) (a : Word) : icvtSatU w a = BitVec.ofInt 32 (clampU (narrowBits w) a.toInt) := by
  rw [icvtSatU, satU_eq_clampU]

/-- R97: k0 is never written; writing a uniform predicate changes the table of uniform predicates alone. -/
theorem Group.putK_eq (g : Group) (n : Nat) (b : Bool) : g.putK n b = { g with k := if n = 0 then g.k else setBit g.k n b } := by
  unfold Group.putK
  split <;> rfl

/-- An effect that has set the group's place itself. -/
theorem issueC_done {ck : Checks} {sh : Shape} {o : EOps} {s s' : State} {g g' : Group} {c : Clause} (h : Runs ck sh o s g c)
    {body : State → Group → Res Eff} (hb : body s { g with wait := .none } = .ok { s := s', g := g', done := true }) :
    issueC ck sh o body s = .next (s'.with g') := by
  rw [issueC_runs h, hb]
  rfl

/-! ### The rule of each shape of effect -/

section Rules

variable {mk : EOps → Instr} {mkB : B3Ops → Instr} {op : Nat} {sh : Shape}

/-- One uniform register from two words. -/
theorem uniE1_of {f : Word → Word → Word} (f' : Word → Word → Word) (hx : ∀ o s, exec (mk o) s = uni32 f' {} sh o s) (hf : ∀ a b, f' a b = f a b) :
    UniE1 mk sh f := by
  obtain rfl : f' = f := funext₂ hf
  intro o s g c h
  rw [hx]
  exact issueC_writes h rfl rfl

theorem uniB1_of {f : Word → Word → Word} (f' : Word → Word → Word)
    (hx : ∀ o s, exec (mkB o) s = uni32 f' (b3Checks op sh o) sh (b3AsE op sh o) s) (hf : ∀ a b, f' a b = f a b) :
    UniB1 mkB op sh f := by
  obtain rfl : f' = f := funext₂ hf
  intro o s g c h
  rw [hx]
  exact issueC_writes h rfl rfl

/-- A uniform predicate from two uniform predicates. -/
theorem uniK_of {f : Bool → Bool → Bool} (f' : Bool → Bool → Bool) (hx : ∀ o s, exec (mk o) s = uniK f' {} sh o s) (hf : ∀ a b, f' a b = f a b) :
    DoesE mk (fun _ => {}) (fun _ => sh) (fun _ g o => g.putK o.d.toNat (f (g.rdk o.a.toNat) (g.rdk o.b.toNat))) (fun _ _ _ => []) := by
  obtain rfl : f' = f := funext₂ hf
  intro o s g c h
  simp only [hx, Group.putK_eq]
  exact issueC_changes h rfl (by simp only [Group.putK_eq]; rfl) rfl rfl

/-- One word of each lane from three words. -/
theorem laneE1_of {f : EOps → Word → Word → Word → Word} (f' : EOps → Word → Word → Word → Word) (hx : ∀ o s, exec (mk o) s = lane1 (f' o) {} sh o s)
    (hf : ∀ o a b c, f' o a b c = f o a b c) : LaneE1 mk sh f := by
  obtain rfl : f' = f := by funext o a b c; exact hf o a b c
  intro o s g c h
  rw [hx]
  exact issueC_writes h rfl rfl

theorem laneB1_of {f : Word → Word → Word → Word} (f' : Word → Word → Word → Word)
    (hx : ∀ o s, exec (mkB o) s = lane1 f' (b3Checks op sh o) sh (b3AsE op sh o) s)
    (hf : ∀ a b c, f' a b c = f a b c) : LaneB1 mkB op sh (fun _ => f) := by
  obtain rfl : f' = f := by funext a b c; exact hf a b c
  intro o s g c h
  rw [hx]
  exact issueC_writes h rfl rfl

end Rules

/-! ### The uniform path -/

theorem uniformSums : Parts.UniformSums :=
  ⟨uniE1_of _ (fun _ _ => rfl) (fun _ _ => rfl), uniB1_of _ (fun _ _ => rfl) (fun _ _ => rfl),
    uniE1_of _ (fun _ _ => rfl) (fun _ _ => rfl), uniB1_of _ (fun _ _ => rfl) (fun _ _ => rfl),
    uniE1_of satAdd (fun _ _ => rfl) satAdd_eq, uniE1_of satSub (fun _ _ => rfl) satSub_eq,
    fun _ _ _ _ h => issueC_writes h rfl rfl, fun _ _ _ _ h => issueC_writes h rfl rfl⟩

theorem uniformProductsAndLogic : Parts.UniformProductsAndLogic :=
  ⟨uniE1_of _ (fun _ _ => rfl) (fun _ _ => rfl), uniB1_of _ (fun _ _ => rfl) (fun _ _ => rfl),
    uniE1_of (fun a b => hiWord (wideMul a b)) (fun _ _ => rfl) hiWord_wideMul, uniB1_of (fun a b => hiWord (wideMul a b)) (fun _ _ => rfl) hiWord_wideMul,
    uniE1_of (fun a b => hiWord (wideMulU a b)) (fun _ _ => rfl) hiWord_wideMulU, uniB1_of (fun a b => hiWord (wideMulU a b)) (fun _ _ => rfl) hiWord_wideMulU,
    uniE1_of _ (fun _ _ => rfl) (fun _ _ => rfl), uniB1_of _ (fun _ _ => rfl) (fun _ _ => rfl),
    uniE1_of _ (fun _ _ => rfl) (fun _ _ => rfl), uniB1_of _ (fun _ _ => rfl) (fun _ _ => rfl),
    uniE1_of _ (fun _ _ => rfl) (fun _ _ => rfl), uniB1_of _ (fun _ _ => rfl) (fun _ _ => rfl),
    uniE1_of (fun a b => a &&& ~~~b) (fun _ _ => rfl) (fun _ _ => rfl), uniB1_of (fun a b => a &&& ~~~b) (fun _ _ => rfl) (fun _ _ => rfl),
    uniK_of _ (fun _ _ => rfl) (fun _ _ => rfl), uniK_of _ (fun _ _ => rfl) (fun _ _ => rfl),
    uniK_of (· != ·) (fun _ _ => rfl) (fun a b => by cases a <;> cases b <;> rfl), uniK_of (fun a b => a && !b) (fun _ _ => rfl) (fun _ _ => rfl)⟩

theorem uniformShiftsAndBits : Parts.UniformShiftsAndBits :=
  ⟨uniE1_of shl (fun _ _ => rfl) shl_eq, uniB1_of shl (fun _ _ => rfl) shl_eq,
    uniE1_of shr (fun _ _ => rfl) shr_eq, uniB1_of shr (fun _ _ => rfl) shr_eq,
    uniE1_of sar (fun _ _ => rfl) sar_eq, uniB1_of sar (fun _ _ => rfl) sar_eq,
    uniE1_of rotl (fun _ _ => rfl) (fun _ _ => rfl), uniB1_of rotl (fun _ _ => rfl) (fun _ _ => rfl),
    uniE1_of minS (fun _ _ => rfl) minS_eq, uniE1_of maxS (fun _ _ => rfl) maxS_eq,
    uniE1_of minU (fun _ _ => rfl) minU_eq, uniE1_of maxU (fun _ _ => rfl) maxU_eq,
    uniE1_of (fun a _ => popc a) (fun _ _ => rfl) (fun a _ => popc_eq a), uniE1_of (fun a _ => clz a) (fun _ _ => rfl) (fun a _ => clz_eq a),
    uniE1_of (fun a _ => ctz a) (fun _ _ => rfl) (fun a _ => ctz_eq a), uniE1_of (fun a _ => brev a) (fun _ _ => rfl) (fun _ _ => rfl)⟩

theorem uniformFields : Parts.UniformFields :=
  ⟨uniE1_of _ (fun _ _ => rfl) (fun _ _ => rfl), uniE1_of _ (fun _ _ => rfl) (fun _ _ => rfl),
    fun a b => ⟨bitExtr_unsigned a b, bitExtr_signed a b⟩⟩

theorem ucmp_runs (cc : CC) : DoesE (.ucmp cc) (fun _ => {}) (fun _ => shUcmp)
    (fun s g o => g.putK o.d.toNat (ccHolds cc (g.s1 s.free o.a.toNat) (g.uB32 s.free o))) (fun _ _ _ => []) := by
  intro o s g c h
  simp only [← cmpCC_eq_ccHolds, Group.putK_eq]
  exact issueC_changes h rfl (by simp only [Group.putK_eq]; rfl) rfl rfl

theorem uniformCompareAndMove : Parts.UniformCompareAndMove :=
  ⟨ucmp_runs, fun _ _ _ _ h => issueC_writes h rfl rfl, fun _ _ _ _ h => issueC_writes h rfl rfl,
    fun _ _ _ _ h => issueC_writes h rfl rfl, fun _ _ _ _ h => issueC_writes h rfl rfl,
    fun _ _ _ _ h => issueC_writes h rfl rfl, fun _ _ _ _ h => issueC_writes h rfl rfl⟩

/-- The lowest lane of a mask is the first that a scan finds. -/
theorem head?_lanesOf (m : Half) : (lanesOf m).head? = (List.range 16).find? (fun l => m.getLsbD l) := List.head?_filter

theorem lanesOf_zero : lanesOf 0 = [] := rfl

theorem maskOf_single : ∀ v < 16, maskOf (fun i => i == v) = 1#16 <<< v := by decide

/-- R238: with no lane in %em the result is 0. -/
theorem umovFirst_of_no_lane {o : EOps} {s : State} {g : Group} {c : Clause} (h : Runs {} shUmovFirst o s g c) (hem : lanesOf g.em = []) :
    exec (.umovFirst o) s = .next (s.with (g.wrote c [(sKey o.d.toNat, 0)])) :=
  issueC_writes h rfl (by simp only [hem])

/-- R238: the result is the value of the lowest lane of %em, but for a pair of shadow lanes that disagree. -/
theorem umovFirst_of_lane {o : EOps} {s : State} {g : Group} {c : Clause} {v : Nat} (h : Runs {} shUmovFirst o s g c)
    (hem : (lanesOf g.em).head? = some v)
    (hsame : (g.info.prot && g.v1 s.free o.a.toNat (2 * v) != g.v1 s.free o.a.toNat (2 * v + 1)) = false) :
    exec (.umovFirst o) s = .next (s.with (g.wrote c [(sKey o.d.toNat, g.v1 s.free o.a.toNat (g.phys v))])) := by
  obtain ⟨rest, hl⟩ := List.head?_eq_some_iff.mp hem
  refine issueC_writes h rfl ?_
  simp only [hl]
  exact if_neg (by rw [Bool.not_eq_true]; exact hsame)

/-- R530: shadow lanes that disagree are counted and trapped. -/
theorem umovFirst_of_mismatch {o : EOps} {s : State} {g : Group} {c : Clause} {v : Nat} (h : Runs {} shUmovFirst o s g c)
    (hem : (lanesOf g.em).head? = some v) (hprot : g.info.prot = true)
    (hdiff : g.v1 s.free o.a.toNat (2 * v) ≠ g.v1 s.free o.a.toNat (2 * v + 1)) :
    exec (.umovFirst o) s = .next ((s.mmcnt g.core 1).with
      (({ g with wait := .none } : Group).trapHere { cause := causeShadow, lanes := 1#16 <<< v })) := by
  obtain ⟨rest, hl⟩ := List.head?_eq_some_iff.mp hem
  have hv : v < 16 := by
    have hmem : v ∈ lanesOf g.em := hl ▸ List.mem_cons_self
    exact List.mem_range.mp (List.mem_filter.mp hmem).1
  have hne : (g.info.prot && g.v1 s.free o.a.toNat (2 * v) != g.v1 s.free o.a.toNat (2 * v + 1)) = true := by
    simp [hprot, hdiff]
  rw [← maskOf_single v hv]
  refine issueC_done h ?_
  simp only [hl]
  exact if_pos hne

theorem uniformMoveFirst : Parts.UniformMoveFirst := by
  refine ⟨fun o s g c h hg => ?_, fun o s g c v h hprot hv => ?_⟩
  · rw [← head?_lanesOf]
    cases hem : (lanesOf g.em).head? with
    | none => exact umovFirst_of_no_lane h (List.head?_eq_none_iff.mp hem)
    | some v =>
      have hprot : g.info.prot = false := by
        rcases hg with hprot | h0
        · exact hprot
        · rw [h0, lanesOf_zero] at hem
          cases hem
      have hphys : g.phys v = v := by simp [Group.phys, hprot]
      have := umovFirst_of_lane h hem (by simp [hprot])
      rwa [hphys] at this
  · rw [← head?_lanesOf] at hv
    refine ⟨fun hsame => ?_, umovFirst_of_mismatch h hv hprot⟩
    have hphys : g.phys v = 2 * v := by simp [Group.phys, hprot]
    have := umovFirst_of_lane h hv (by simp [hsame])
    rwa [hphys] at this

/-- Settles O1: the uniform path in its six groups. -/
theorem uniformPath : Obligations.UniformPath :=
  ⟨uniformSums, uniformProductsAndLogic, uniformShiftsAndBits, uniformFields, uniformCompareAndMove, uniformMoveFirst⟩

end Sys2Proof.Machine
end

section
/-!
PROOFS. The integer instructions of the lane path (R250, R251) and MOVX (R253).
-/

namespace Sys2Proof.Machine

/-- One word of each lane from A alone. -/
theorem laneEA_of {mk : EOps → Instr} {sh : Shape} {f : Word → Word} (f' : Word → Word) (hx : ∀ o s, exec (mk o) s = laneA f' {} sh o s)
    (hf : ∀ a, f' a = f a) : LaneE1 mk sh (fun _ a _ _ => f a) := by
  obtain rfl : f' = f := funext hf
  intro o s g c h
  rw [hx]
  exact issueC_writes h rfl rfl

/-! ### Lane integer arithmetic (R250) -/

theorem laneSums : Parts.LaneSums :=
  ⟨laneE1_of (fun _ a b _ => a + b) (fun _ _ => rfl) (fun _ _ _ _ => rfl),
    laneB1_of (fun a b _ => a + b) (fun _ _ => rfl) (fun _ _ _ => rfl),
    laneE1_of (fun _ a b _ => a - b) (fun _ _ => rfl) (fun _ _ _ _ => rfl),
    laneB1_of (fun a b _ => a - b) (fun _ _ => rfl) (fun _ _ _ => rfl),
    laneE1_of (fun _ a b _ => satAdd a b) (fun _ _ => rfl) (fun _ a b _ => satAdd_eq a b),
    laneB1_of (fun a b _ => satAdd a b) (fun _ _ => rfl) (fun a b _ => satAdd_eq a b),
    laneE1_of (fun _ a b _ => satSub a b) (fun _ _ => rfl) (fun _ a b _ => satSub_eq a b),
    laneB1_of (fun a b _ => satSub a b) (fun _ _ => rfl) (fun a b _ => satSub_eq a b),
    laneE1_of (fun _ a b _ => satuAdd a b) (fun _ _ => rfl) (fun _ a b _ => satuAdd_eq a b),
    laneE1_of (fun _ a b _ => satuSub a b) (fun _ _ => rfl) (fun _ a b _ => satuSub_eq a b),
    fun _ _ _ _ h => issueC_writes h rfl rfl,
    fun _ _ _ _ h => issueC_writes h rfl rfl⟩

theorem laneProducts : Parts.LaneProducts :=
  ⟨laneE1_of (fun _ a b _ => a * b) (fun _ _ => rfl) (fun _ _ _ _ => rfl),
    laneB1_of (fun a b _ => a * b) (fun _ _ => rfl) (fun _ _ _ => rfl),
    laneE1_of (fun _ a b _ => hiWord (wideMul a b)) (fun _ _ => rfl) (fun _ a b _ => hiWord_wideMul a b),
    laneB1_of (fun a b _ => hiWord (wideMul a b)) (fun _ _ => rfl) (fun a b _ => hiWord_wideMul a b),
    laneE1_of (fun _ a b _ => hiWord (wideMulU a b)) (fun _ _ => rfl) (fun _ a b _ => hiWord_wideMulU a b),
    laneB1_of (fun a b _ => hiWord (wideMulU a b)) (fun _ _ => rfl) (fun a b _ => hiWord_wideMulU a b),
    fun _ _ _ _ h => by simp only [← wideMul_eq]; exact issueC_writes h rfl rfl,
    fun _ _ _ _ h => by simp only [← wideMulU_eq]; exact issueC_writes h rfl rfl,
    laneE1_of (fun _ a b c => a * b + c) (fun _ _ => rfl) (fun _ _ _ _ => rfl),
    fun _ _ _ _ h => by simp only [← wideMul_eq]; exact issueC_writes h rfl rfl,
    fun _ _ _ _ h => by simp only [← wideMulU_eq]; exact issueC_writes h rfl rfl⟩

theorem laneLogic : Parts.LaneLogic :=
  ⟨laneE1_of (fun _ a b _ => a &&& b) (fun _ _ => rfl) (fun _ _ _ _ => rfl),
    laneB1_of (fun a b _ => a &&& b) (fun _ _ => rfl) (fun _ _ _ => rfl),
    laneE1_of (fun _ a b _ => a ||| b) (fun _ _ => rfl) (fun _ _ _ _ => rfl),
    laneB1_of (fun a b _ => a ||| b) (fun _ _ => rfl) (fun _ _ _ => rfl),
    laneE1_of (fun _ a b _ => a ^^^ b) (fun _ _ => rfl) (fun _ _ _ _ => rfl),
    laneB1_of (fun a b _ => a ^^^ b) (fun _ _ => rfl) (fun _ _ _ => rfl),
    laneE1_of (fun _ a b _ => a &&& ~~~b) (fun _ _ => rfl) (fun _ _ _ _ => rfl),
    laneB1_of (fun a b _ => a &&& ~~~b) (fun _ _ => rfl) (fun _ _ _ => rfl),
    laneE1_of (fun o => lut o.x) (fun _ _ => rfl) (fun _ _ _ _ => rfl),
    lut_bit⟩

theorem laneShifts : Parts.LaneShifts :=
  ⟨laneE1_of (fun _ a b _ => shl a b) (fun _ _ => rfl) (fun _ a b _ => shl_eq a b),
    laneB1_of (fun a b _ => shl a b) (fun _ _ => rfl) (fun a b _ => shl_eq a b),
    laneE1_of (fun _ a b _ => shr a b) (fun _ _ => rfl) (fun _ a b _ => shr_eq a b),
    laneB1_of (fun a b _ => shr a b) (fun _ _ => rfl) (fun a b _ => shr_eq a b),
    laneE1_of (fun _ a b _ => sar a b) (fun _ _ => rfl) (fun _ a b _ => sar_eq a b),
    laneB1_of (fun a b _ => sar a b) (fun _ _ => rfl) (fun a b _ => sar_eq a b),
    laneE1_of (fun _ a b _ => rotl a b) (fun _ _ => rfl) (fun _ _ _ _ => rfl),
    laneB1_of (fun a b _ => rotl a b) (fun _ _ => rfl) (fun _ _ _ => rfl),
    fun _ _ _ _ h => by simp only [← shl64_eq]; exact issueC_writes h rfl rfl,
    fun _ _ _ _ h => by simp only [← shr64_eq]; exact issueC_writes h rfl rfl,
    fun _ _ _ _ h => by simp only [← sar64_eq]; exact issueC_writes h rfl rfl⟩

theorem laneMinMaxAndBits : Parts.LaneMinMaxAndBits :=
  ⟨laneE1_of (fun _ a b _ => minS a b) (fun _ _ => rfl) (fun _ a b _ => minS_eq a b),
    laneE1_of (fun _ a b _ => maxS a b) (fun _ _ => rfl) (fun _ a b _ => maxS_eq a b),
    laneE1_of (fun _ a b _ => minU a b) (fun _ _ => rfl) (fun _ a b _ => minU_eq a b),
    laneE1_of (fun _ a b _ => maxU a b) (fun _ _ => rfl) (fun _ a b _ => maxU_eq a b),
    laneEA_of absWrap (fun _ _ => rfl) absWrap_eq,
    laneEA_of absSat (fun _ _ => rfl) absSat_eq,
    laneEA_of popc (fun _ _ => rfl) popc_eq,
    laneEA_of clz (fun _ _ => rfl) clz_eq,
    laneEA_of ctz (fun _ _ => rfl) ctz_eq,
    laneEA_of brev (fun _ _ => rfl) (fun _ => rfl),
    laneE1_of (fun _ a b _ => bitExtr false a b) (fun _ _ => rfl) (fun _ _ _ _ => rfl),
    laneE1_of (fun _ a b _ => bitExtr true a b) (fun _ _ => rfl) (fun _ _ _ _ => rfl),
    laneE1_of (fun _ => bitIns) (fun _ _ => rfl) (fun _ _ _ _ => rfl),
    bitIns_bit⟩

/-! ### Comparisons, moves and conversions (R250, R251) -/

theorem laneIntegerConversions : Parts.LaneIntegerConversions :=
  ⟨laneEA_of (icvtSext .w8) (fun _ _ => rfl) (icvtSext_eq .w8),
    laneEA_of (icvtSext .w16) (fun _ _ => rfl) (icvtSext_eq .w16),
    laneEA_of (icvtZext .w8) (fun _ _ => rfl) icvtZext8_eq,
    laneEA_of (icvtZext .w16) (fun _ _ => rfl) icvtZext16_eq,
    laneEA_of (icvtSatS .w8) (fun _ _ => rfl) (icvtSatS_eq .w8),
    laneEA_of (icvtSatS .w16) (fun _ _ => rfl) (icvtSatS_eq .w16),
    laneEA_of (icvtSatU .w8) (fun _ _ => rfl) (icvtSatU_eq .w8),
    laneEA_of (icvtSatU .w16) (fun _ _ => rfl) (icvtSatU_eq .w16),
    fun _ _ _ _ h => issueC_writes h rfl rfl,
    fun _ _ _ _ h => issueC_writes h rfl rfl,
    fun _ _ _ _ h => by simp only [← sat_eq_clampS]; exact issueC_writes h rfl rfl,
    fun _ _ _ _ h => by simp only [← satU_eq_clampU]; exact issueC_writes h rfl rfl⟩


/-- A lane predicate takes the comparison of each lane, whatever the width. -/
theorem laneCompareAndMove : Parts.LaneCompareAndMove :=
  ⟨fun _ _ _ _ _ h => by simp only [← cmpCC_eq_ccHolds]; exact issueC_writes h rfl rfl,
    fun _ _ _ _ _ h => by simp only [← cmpCC_eq_ccHolds]; exact issueC_writes h rfl rfl,
    fun _ _ _ _ h => issueC_writes h rfl rfl,
    fun _ _ _ _ h => issueC_writes h rfl rfl,
    fun _ _ _ _ h => issueC_writes h rfl rfl,
    fun _ _ _ _ h => issueC_writes h rfl rfl,
    fun _ _ _ _ h => issueC_writes h rfl rfl,
    fun _ _ _ _ h => issueC_writes h rfl rfl,
    fun _ _ _ _ h => issueC_writes h rfl rfl⟩

/-- Settles O2: the lane path's integer instructions in their five groups. -/
theorem laneIntegerArithmetic : Obligations.LaneIntegerArithmetic :=
  ⟨laneSums, laneProducts, laneLogic, laneShifts, laneMinMaxAndBits⟩

/-- Settles O3: comparisons, selects, addresses and moves, and the conversions by the two clamps of R9. -/
theorem laneCompareAndConvert : Obligations.LaneCompareAndConvert :=
  ⟨laneCompareAndMove, laneIntegerConversions⟩

end Sys2Proof.Machine
end

section
/-!
PROOFS. Masks of lanes, and MOVX (R253).
-/

namespace Sys2Proof.Machine

/-! ### Masks -/

theorem getLsbD_setBit {w : Nat} (m : BitVec w) (i : Nat) (b : Bool) (j : Nat) (hj : j < w) :
    (setBit m i b).getLsbD j = if j = i then b else m.getLsbD j := by
  have hone : (1#w <<< i).getLsbD j = decide (j = i) := by
    rw [BitVec.getLsbD_shiftLeft, BitVec.getLsbD_one]
    simp only [hj, decide_true, Bool.true_and]
    by_cases hji : j = i
    · subst hji
      have : 0 < w := by omega
      simp [this]
    · simp only [hji, decide_false, Bool.and_eq_false_iff, Bool.not_eq_false', decide_eq_true_eq, decide_eq_false_iff_not]
      omega
  unfold setBit
  split
  · next hb => rw [BitVec.getLsbD_or, hone]; by_cases hji : j = i <;> simp [hji, hb]
  · next hb => rw [BitVec.getLsbD_and, BitVec.getLsbD_not, hone]; by_cases hji : j = i <;> simp [hji, hj, hb]

theorem getLsbD_foldl_setBit {w : Nat} (p : Nat → Bool) (l : List Nat) (m : BitVec w) (j : Nat) (hj : j < w) :
    (l.foldl (fun m i => setBit m i (p i)) m).getLsbD j = if j ∈ l then p j else m.getLsbD j := by
  induction l generalizing m with
  | nil => rfl
  | cons i l ih =>
    rw [List.foldl_cons, ih, getLsbD_setBit _ _ _ _ hj]
    by_cases hl : j ∈ l
    · simp [hl]
    · by_cases hji : j = i
      · simp [hji]
      · simp [hl, hji]

/-- A mask has the bits that its test says. -/
theorem getLsbD_maskOf (p : Nat → Bool) {l : Nat} (hl : l < 16) : (maskOf p).getLsbD l = p l := by
  rw [maskOf, getLsbD_foldl_setBit p _ _ _ hl, if_pos (List.mem_range.mpr hl)]

theorem maskOf_congr {p q : Nat → Bool} (h : ∀ l < 16, p l = q l) : maskOf p = maskOf q := by
  refine BitVec.eq_of_getLsbD_eq fun l hl => ?_
  rw [getLsbD_maskOf p hl, getLsbD_maskOf q hl, h l hl]

theorem maskOf_getLsbD (m : Half) : maskOf (fun l => m.getLsbD l) = m :=
  BitVec.eq_of_getLsbD_eq fun _ hl => getLsbD_maskOf _ hl

theorem and_maskOf (m : Half) (p : Nat → Bool) : m &&& maskOf p = maskOf (fun l => m.getLsbD l && p l) := by
  refine BitVec.eq_of_getLsbD_eq fun l hl => ?_
  rw [BitVec.getLsbD_and, getLsbD_maskOf _ hl, getLsbD_maskOf _ hl]

theorem mem_lanesOf {m : Half} {l : Nat} : l ∈ lanesOf m ↔ l < 16 ∧ m.getLsbD l = true := by
  simp [lanesOf, List.mem_filter, List.mem_range]

/-- A mask is empty where no lane is in it. -/
theorem eq_zero_of_lanes {m : Half} (h : ∀ l < 16, m.getLsbD l = false) : m = 0 :=
  BitVec.eq_of_getLsbD_eq fun l hl => by rw [h l hl]; simp

theorem ne_zero_of_lane {m : Half} {l : Nat} (h : m.getLsbD l = true) : m ≠ 0 := by
  rintro rfl
  simp at h

/-- An effect that holds the instruction. -/
theorem issueC_holds {ck : Checks} {sh : Shape} {o : EOps} {s : State} {g : Group} {c : Clause} (h : Runs ck sh o s g c)
    {body : State → Group → Res Eff} {w : Wait} (hb : body s { g with wait := .none } = .hold w) :
    issueC ck sh o body s = .next (s.with { g with wait := w }) := by
  rw [issueC_runs h, hb]
  rfl

/-! ### MOVX -/

section Movx

variable {o : EOps} {s : State} {g : Group} {c : Clause}

/-- R253: the lanes of a mask whose index is not below N32. -/
theorem movxBad_eq (g : Group) (o : EOps) (base : Nat) (m : Half) :
    movxBad g o base m = maskOf (fun l => m.getLsbD l && decide (g.info.n32 ≤ (g.xr (o.x.toNat % 4) l).toNat + base)) := by
  have hx : xField o 0 2 = o.x.toNat % 4 := by simp [xField]
  simp only [movxBad, movxIdx, and_maskOf, hx]

theorem movxBad_eq_zero {base : Nat} {m : Half}
    (h : ∀ l < 16, m.getLsbD l = true → (g.xr (o.x.toNat % 4) l).toNat + base < g.info.n32) : movxBad g o base m = 0 := by
  rw [movxBad_eq]
  refine eq_zero_of_lanes fun l hl => ?_
  rw [getLsbD_maskOf _ hl]
  by_cases hm : m.getLsbD l = true
  · have := h l hl hm
    simp [this]
  · simp [hm]

theorem movxBad_ne_zero {base l : Nat} {m : Half} (hl : l < 16) (hm : m.getLsbD l = true)
    (h : g.info.n32 ≤ (g.xr (o.x.toNat % 4) l).toNat + base) : movxBad g o base m ≠ 0 := by
  refine ne_zero_of_lane (l := l) ?_
  rw [movxBad_eq, getLsbD_maskOf _ hl]
  simp [hm, h]

/-- R253: MOVX.LD where every index is below N32. -/
theorem movxLd_moves (h : Runs (movxChecks false shMovxLd o {}) shMovxLd o s g c)
    (hbad : movxBad g o o.a.toNat (g.active shMovxLd o s.free) = 0) :
    exec (.movxLd o) s = .next (s.with (g.wrote c ((lanesOf (g.active shMovxLd o s.free)).map
      (fun l => (vKey o.d.toNat l, g.v1 s.free ((g.xr (o.x.toNat % 4) l).toNat + o.a.toNat) l))))) :=
  issueC_writes h rfl ((if_neg (ne_true_of_eq_false (bne_eq_false_iff_eq.mpr hbad))).trans (if_neg Bool.false_ne_true))

theorem movxLd_traps (h : Runs (movxChecks false shMovxLd o {}) shMovxLd o s g c)
    (hbad : movxBad g o o.a.toNat (g.active shMovxLd o s.free) ≠ 0) :
    exec (.movxLd o) s = .next (s.with (({ g with wait := .none } : Group).trapHere {
      cause := causeRegBound, lanes := g.fold (movxBad g o o.a.toNat (g.active shMovxLd o s.free)) })) :=
  issueC_traps h (if_pos (bne_iff_ne.mpr hbad))

/-- R253: MOVX.ST where every index is below N32, and no earlier result is due in a register that a lane reaches. -/
theorem movxSt_moves (h : Runs {} shMovxSt o s g c) (hbad : movxBad g o o.d.toNat (g.active shMovxSt o s.free) = 0)
    (hfree : g.interlocked (movxRegs g o o.d.toNat (g.active shMovxSt o s.free)) = false) :
    exec (.movxSt o) s = .next (s.with (g.wrote c ((lanesOf (g.active shMovxSt o s.free)).map
      (fun l => (vKey ((g.xr (o.x.toNat % 4) l).toNat + o.d.toNat) l, g.v1 s.free o.a.toNat l))))) :=
  issueC_writes h rfl ((if_neg (ne_true_of_eq_false (bne_eq_false_iff_eq.mpr hbad))).trans (if_neg (ne_true_of_eq_false hfree)))

theorem movxSt_waits (h : Runs {} shMovxSt o s g c) (hbad : movxBad g o o.d.toNat (g.active shMovxSt o s.free) = 0)
    (hdue : g.interlocked (movxRegs g o o.d.toNat (g.active shMovxSt o s.free)) = true) :
    exec (.movxSt o) s = .next (s.with { g with wait := .suspended }) :=
  issueC_holds h ((if_neg (ne_true_of_eq_false (bne_eq_false_iff_eq.mpr hbad))).trans (if_pos hdue))

theorem movxSt_traps (h : Runs {} shMovxSt o s g c) (hbad : movxBad g o o.d.toNat (g.active shMovxSt o s.free) ≠ 0) :
    exec (.movxSt o) s = .next (s.with (({ g with wait := .none } : Group).trapHere {
      cause := causeRegBound, lanes := g.fold (movxBad g o o.d.toNat (g.active shMovxSt o s.free)) })) :=
  issueC_traps h (if_pos (bne_iff_ne.mpr hbad))

end Movx

/-- Settles O5: every index below N32, or some lane's index not below it. -/
theorem indexedMoves : Obligations.IndexedMoves := by
  refine ⟨fun o s g c h => ⟨fun hin => movxLd_moves h (movxBad_eq_zero hin), fun l hl hm hout => ?_⟩,
    fun o s g c h => ⟨fun hin => ⟨movxSt_moves h (movxBad_eq_zero hin), movxSt_waits h (movxBad_eq_zero hin)⟩, fun l hl hm hout => ?_⟩⟩
  · rw [← movxBad_eq]
    exact movxLd_traps h (movxBad_ne_zero hl hm hout)
  · rw [← movxBad_eq]
    exact movxSt_traps h (movxBad_ne_zero hl hm hout)

end Sys2Proof.Machine
end

section
/-!
PROOFS. Control transfers, YIELD, TRAP and TRET, and what trap entry does (R86, R91, R220 to R223, R230 to R232).
-/

namespace Sys2Proof.Machine

section Effects

variable {ck : Checks} {sh : Shape} {o : EOps} {s : State} {g : Group} {c : Clause} {body : State → Group → Res Eff}

/-- An effect that changes the group and the state outside it, and has register results. -/
theorem issueC_effect (h : Runs ck sh o s g c) (hk : ck.closes = false) {s' : State} {g' : Group} {outs : List (Nat × Word)}
    (hb : body s { g with wait := .none } = okOuts s' { g' with wait := .none } outs)
    (hc : g'.clause = g.clause) (he : g'.ecc = g.ecc) :
    issueC ck sh o body s = .next (s'.with (g'.wrote c outs)) := by
  rw [issueC_runs h, hb]
  exact congrArg Host.Outcome.next
    (issueEnd_okOuts (g := { g' with wait := .none }) hk (hc.trans h.opened) (he.trans h.clean) rfl s s' _ outs)

/-- An effect that sends control elsewhere. -/
theorem issueC_jumps (h : Runs ck sh o s g c) (hk : ck.closes = false) {outs : List (Nat × Word)} {a : Dword}
    (hb : body s { g with wait := .none } = .ok { s := s, g := { g with wait := .none }, outs := outs, jump := some a }) :
    issueC ck sh o body s = .next (s.with (g.jumped c outs a)) := by
  have hret := retire_wrote (g := { g with wait := .none }) h.opened h.clean rfl outs
  rw [issueC_runs h, hb]
  simp only [issueEnd, applyEff, hk, Bool.false_eq_true, if_false, hret]
  rfl

/-! ### Targets -/

/-- R86: what sends control to `t` jumps there, or traps on its alignment. -/
theorem jumpsTo_of {i : Instr} {t : Dword} (h : Runs ck sh o s g c) (hk : ck.closes = false)
    (hx : exec i s = issueC ck sh o body s) (hb : body s { g with wait := .none } = jumpTo s { g with wait := .none } t) :
    JumpsTo i s g c t := by
  rw [JumpsTo, hx]
  exact ⟨fun hal => issueC_jumps h hk (hb.trans (if_neg (not_not.mpr hal))),
    fun hal => issueC_traps h (hb.trans (if_pos hal))⟩

/-- R231: what calls `t` checks its alignment, then its upper half, and writes the link. -/
theorem callsTo_of {i : Instr} {t : Dword} (h : Runs ck sh o s g c) (hk : ck.closes = false)
    (hx : exec i s = issueC ck sh o body s) (hb : body s { g with wait := .none } = callTo s { g with wait := .none } t) :
    CallsTo i s g c t := by
  have hcall : callTo s { g with wait := .none } t =
      if t.toNat % 4 ≠ 0 then trapOf { g with wait := .none } causeAlign 0 t
      else if hiWord c.after ≠ hiWord t then trapOf { g with wait := .none } causeAccess 0 t
      else .ok { s := s, g := { g with wait := .none }, outs := [(sKey linkReg, loWord c.after)], jump := some t } := by
    simp only [callTo, h.opened]
  rw [hcall] at hb
  rw [CallsTo, hx]
  exact ⟨fun hal hhi => issueC_jumps h hk (hb.trans ((if_neg (not_not.mpr hal)).trans (if_neg (not_not.mpr hhi)))),
    fun hal hhi => issueC_traps h (hb.trans ((if_neg (not_not.mpr hal)).trans (if_pos hhi))),
    fun hal => issueC_traps h (hb.trans (if_pos hal))⟩

/-- The instruction that issues is at the clause's place. -/
theorem Runs.pcOf_eq (h : Runs ck sh o s g c) : pcOf { g with wait := .none } = c.here := by
  simp only [pcOf, h.opened]

/-- R230: the target of the E form. -/
theorem eTarget_of_literal {p : EOps} {w : Dword} (hl : p.lit = some w) (g : Group) : eTarget g p = w := by
  simp only [eTarget, hl]

theorem Runs.eTarget_of_offset (h : Runs ck sh o s g c) {p : EOps} (hl : p.lit = none) :
    eTarget { g with wait := .none } p = c.here + 4 * p.x.signExtend 64 := by
  simp only [eTarget, hl, h.pcOf_eq, BitVec.mul_comm _ (4 : Dword)]

theorem Runs.bjTarget_eq (h : Runs ck sh o s g c) (off : BitVec 19) :
    bjTarget { g with wait := .none } off none = c.here + 4 * off.signExtend 64 := by
  simp only [bjTarget, h.pcOf_eq, BitVec.mul_comm _ (4 : Dword)]

/-- R91: a BJ form whose condition fails only goes on. -/
theorem bj_not_taken {to_ : State → Group → Dword → Res Eff} {cnd : BitVec 4} {off : BitVec 19} {lit : Option Dword}
    (h : Runs (bjChecks ck cnd off lit.isSome) bjShape {} s g c) (hk : ck.closes = false) (hcnd : cndHolds g cnd = false) :
    bj to_ ck cnd off lit s = .next (s.with (g.wrote c [])) :=
  issueC_writes h hk (if_neg (ne_true_of_eq_false hcnd))

/-- R91: the conditions of CND. -/
theorem cndHolds_codes (g : Group) : cndHolds g 0 = true ∧
    ∀ n : Nat, 1 ≤ n → n < 8 → (cndHolds g (BitVec.ofNat 4 n) = g.rdk n ∧ cndHolds g (BitVec.ofNat 4 (n + 8)) = !g.rdk n) := by
  refine ⟨rfl, fun n h1 h8 => ?_⟩
  interval_cases n <;> exact ⟨rfl, rfl⟩

end Effects

theorem branchTargets : Parts.BranchTargets := by
  refine ⟨fun o s g c h => ?_, fun cnd off s g c h => ⟨fun hc => ?_, fun hc => bj_not_taken h rfl hc⟩,
    fun cnd off lit s g c h => ⟨fun hc => ?_, fun hc => bj_not_taken (lit := some lit) h rfl hc⟩,
    fun o s g c h => jumpsTo_of h rfl rfl rfl, fun o s g c h => ?_, cndHolds_codes⟩
  · cases hl : o.lit with
    | some w => exact jumpsTo_of h rfl rfl (congrArg _ (eTarget_of_literal hl _))
    | none => exact jumpsTo_of h rfl rfl (congrArg _ (h.eTarget_of_offset hl))
  · rw [← h.bjTarget_eq]
    exact jumpsTo_of h rfl rfl (if_pos hc)
  · exact jumpsTo_of h rfl rfl (if_pos hc)
  · rw [BitVec.mul_comm]
    exact jumpsTo_of h rfl rfl rfl

theorem callsAndReturns : Parts.CallsAndReturns := by
  refine ⟨fun o s g c h => ?_, fun cnd off s g c h => ⟨fun hc => ?_, fun hc => bj_not_taken h rfl hc⟩,
    fun cnd off lit s g c h => ⟨fun hc => ?_, fun hc => bj_not_taken (lit := some lit) h rfl hc⟩,
    fun o s g c h => ?_, fun o s g c h => ?_⟩
  · cases hl : o.lit with
    | some w => exact callsTo_of h rfl rfl (congrArg _ (eTarget_of_literal hl _))
    | none => exact callsTo_of h rfl rfl (congrArg _ (h.eTarget_of_offset hl))
  · rw [← h.bjTarget_eq]
    exact callsTo_of h rfl rfl (if_pos hc)
  · exact callsTo_of h rfl rfl (if_pos hc)
  · rw [← h.pcOf_eq]
    exact jumpsTo_of h rfl rfl rfl
  · rw [← h.pcOf_eq]
    exact jumpsTo_of h rfl rfl rfl

/-- Settles O7: the branches, calls and returns by the two rules of a target. -/
theorem branchesAndCalls : Obligations.BranchesAndCalls := ⟨branchTargets, callsAndReturns⟩

/-! ### Trap entry and return (R220 to R223) -/

/-- The window's results reach the register file alone. -/
theorem Group.foldr_window (l : List WinEntry) (g : Group) : ∃ regs q ecc tally,
    l.foldr (fun e (g : Group) => if e.transient then g.putRegs e.outs else g.setRegs e.outs) g =
      { g with regs := regs, q := q, ecc := ecc, tally := tally } := by
  induction l with
  | nil => exact ⟨_, _, _, _, rfl⟩
  | cons e l ih =>
    obtain ⟨regs, q, ecc, tally, h⟩ := ih
    rw [List.foldr_cons, h]
    split
    · exact ⟨_, _, _, _, rfl⟩
    · exact ⟨_, _, _, _, rfl⟩

theorem Group.flushWindow_eq (g : Group) : g.flushWindow = { g with
    regs := g.flushWindow.regs
    q := g.flushWindow.q
    ecc := g.flushWindow.ecc
    tally := g.flushWindow.tally
    window := [] } := by
  obtain ⟨regs, q, ecc, tally, h⟩ := g.foldr_window g.window
  rw [Group.flushWindow, h]

/-- R220: what a trap that is taken makes of the group. -/
theorem Group.trapEntry_taken {g : Group} {t : Trap} {point : Dword} {saved : Option Clause} {atTret : Bool}
    (hh : (g.trap.h && !atTret) = false) (htba : g.trap.tba ≠ 0) :
    g.trapEntry t point saved atTret = { g with
      regs := g.flushWindow.regs
      q := g.flushWindow.q
      ecc := g.flushWindow.ecc
      tally := g.flushWindow.tally
      window := []
      pc := g.trap.tba
      clause := none
      wait := .none
      region := { g.region with opened := false }
      trap := { g.trap with
        h := true
        saved := if atTret then g.trap.saved else saved
        tpc := if atTret then g.trap.tpc else point
        tcause := tcauseOf t atTret
        taddr := t.addr
        tmask := t.lanes } } := by
  simp only [Group.trapEntry, hh, Bool.false_eq_true, if_false, htba]
  rw [g.flushWindow_eq]

theorem trapEntry : Parts.TrapEntry := by
  intro g c t hc hh htba
  have hcause : tcauseOf t false = BitVec.ofNat 32 (t.sub % 256 * 256 + t.cause % 256) := by
    simp only [tcauseOf, Bool.false_eq_true, if_false, Nat.zero_add]
  simp only [Group.trapHere, hc]
  rw [Group.trapEntry_taken (by simp [hh]) htba, hcause]
  rfl

/-- A synchronous trap is an entry at the place where the group stands. -/
theorem Group.trapHere_eq (g : Group) (t : Trap) : ∃ point saved, g.trapHere t = g.trapEntry t point saved false := by
  cases hc : g.clause with
  | some c => exact ⟨c.here, some c, by simp only [Group.trapHere, hc]⟩
  | none => exact ⟨g.pc, none, by simp only [Group.trapHere, hc]⟩

theorem trapHalts : Parts.TrapHalts := by
  intro g t
  obtain ⟨point, saved, he⟩ := g.trapHere_eq t
  rw [he]
  refine ⟨fun hh => ?_, fun hh htba => ?_⟩
  · simp [Group.trapEntry, hh, Group.halt, causeDouble]
  · simp [Group.trapEntry, hh, htba, Group.halt]

/-- Settles O9: what a trap that is taken leaves, and the two ways of halting. -/
theorem takingATrap : Obligations.TakingATrap := ⟨trapEntry, trapHalts⟩

/-- R232: YIELD marks its slot, whatever the form. -/
theorem yieldG_runs {ck : Checks} {o : EOps} {s : State} {g : Group} {c : Clause} (hk : ck.closes = false) (h : Runs ck shRet o s g c) :
    yieldG ck shRet o s = .next ((s.putQuarter g.core (g.slot / 64)
      { s.quarter g.core (g.slot / 64) with yielding := (s.quarter g.core (g.slot / 64)).yielding.put (g.slot % 64) true }).with
        (g.wrote c [])) :=
  issueC_effect h hk rfl rfl rfl

theorem xField_byte (o : EOps) : xField o 0 8 = o.x.toNat % 256 := by simp [xField]

theorem yieldAndTrap : Parts.YieldAndTrap := by
  refine ⟨fun o s g c h => yieldG_runs rfl h, fun o s g c h => yieldG_runs rfl h, fun o s g c h => ?_⟩
  rw [← xField_byte]
  exact issueC_traps h rfl

theorem pushWindow_clean {g : Group} (h : g.ecc = []) (outs : List (Nat × Word)) : g.pushWindow outs false =
    { g.setRegs outs with window := ({ outs := outs, transient := false } :: g.window).take 8, seq := g.seq + 1 } := by
  simp only [Group.pushWindow, Bool.false_eq_true, if_false, putRegs_clean h]
  rfl

section Return

variable {ck : Checks} {o : EOps} {s : State} {g : Group} {c : Clause}

/-- The registers after TRET: its own entry of the window has no result. -/
theorem Runs.pushWindow_empty (h : Runs ck shRet o s g c) : ({ g with wait := .none } : Group).pushWindow [] false =
    { g with wait := .none, window := ({ outs := [], transient := false } :: g.window).take 8, seq := g.seq + 1 } :=
  pushWindow_clean (g := { g with wait := .none }) h.clean []

/-- R223: TRET with no pending cause goes back to the saved clause, or to the start of a clause. -/
theorem tretI_goes_back (h : Runs ck shRet o s g c) (hh : g.trap.h = true) (hp : g.trap.pending = []) :
    tretI ck shRet o s = .next (s.with { g.wrote { c with tmask := 0 } [] with
      trap := { g.trap with h := false, saved := none }
      pc := g.trap.tpc
      clause := g.trap.saved.bind (fun k => (k.indexOf g.trap.tpc).map (fun i => { k with idx := i })) }) := by
  refine issueC_done h ((if_pos hh).trans ?_)
  have htransient : ({ c with tmask := 0 } : Clause).isTransient = false := Nat.zero_testBit _
  rw [h.pushWindow_empty]
  simp only [Group.tret, Group.firstPending, hp, List.head?_nil, Group.wrote, htransient]
  cases g.trap.saved <;> rfl

/-- R223: outside a handler TRET is no instruction. -/
theorem tretI_outside (h : Runs ck shRet o s g c) (hh : g.trap.h = false) :
    tretI ck shRet o s = .next (s.with (({ g with wait := .none } : Group).trapHere { cause := causeIllegal, lanes := g.em })) :=
  issueC_traps h (if_neg (ne_true_of_eq_false hh))

end Return

theorem trapReturn : Parts.TrapReturn :=
  ⟨fun _ _ _ _ h => tretI_goes_back h, fun _ _ _ _ h => tretI_goes_back h,
    fun _ _ _ _ h => tretI_outside h, fun _ _ _ _ h => tretI_outside h⟩

/-- R223: the return with a pending cause delivers it. -/
theorem Group.tret_delivers {g : Group} {k : Nat} {t : Trap} {rest : Tab Trap} (hp : g.trap.pending = (k, t) :: rest)
    (htba : g.trap.tba ≠ 0) :
    g.tret.trap.h = true ∧ g.tret.trap.tpc = g.trap.tpc ∧ g.tret.trap.saved = g.trap.saved ∧ g.tret.pc = g.trap.tba ∧
    g.tret.clause = none ∧ g.tret.trap.tcause = BitVec.ofNat 32 (65536 + t.sub % 256 * 256 + t.cause % 256) ∧
    g.tret.trap.taddr = t.addr ∧ g.tret.trap.tmask = t.lanes ∧ g.tret.trap.pending = g.trap.pending.del k := by
  have hret : g.tret = ({ g with trap := { g.trap with h := false, pending := g.trap.pending.del k } } : Group).trapEntry t 0 none true := by
    simp only [Group.tret, Group.firstPending, hp, List.head?_cons]
  rw [hret, Group.trapEntry_taken (by simp) (by exact htba)]
  have hcause : tcauseOf t true = BitVec.ofNat 32 (65536 + t.sub % 256 * 256 + t.cause % 256) := by
    simp only [tcauseOf, if_true]
  exact ⟨rfl, rfl, rfl, rfl, rfl, hcause, rfl, rfl, rfl⟩

theorem trapReturnDelivers : Parts.TrapReturnDelivers := by
  intro o s g c k t rest h hh hp htba
  refine ⟨_, issueC_done h (if_pos hh), ?_⟩
  rw [h.pushWindow_empty]
  exact Group.tret_delivers hp htba

/-- Settles O8. -/
theorem trapInstructionsAndReturns : Obligations.TrapInstructionsAndReturns :=
  ⟨yieldAndTrap, trapReturn, trapReturnDelivers⟩

end Sys2Proof.Machine
end

section
/-!
PROOFS. Masks, votes and the comparison of shadow lanes (R233, R234, R529 to R531).
-/

namespace Sys2Proof.Machine

section Shadows

variable {ck : Checks} {sh : Shape} {o : EOps} {s : State} {g : Group} {c : Clause}

/-- An effect that is a mismatch of shadow lanes (R531). -/
theorem issueC_shadow (h : Runs ck sh o s g c) {body : State → Group → Res Eff} {lanes : Half} {addr : Nat → Dword}
    (hb : body s { g with wait := .none } = shadowHit s { g with wait := .none } lanes addr) :
    issueC ck sh o body s = .next (shadowTrap s g lanes addr) :=
  issueC_done h hb

/-- R530: what takes lane bits out of its lanes compares them first. -/
theorem voteI_mismatch (h : Runs ck sh o s g c) {f : State → Group → Res Eff} {differ : State → Group → Half} {d : Half}
    (he : differ s { g with wait := .none } = d) (hd : d ≠ 0) :
    voteI f differ ck sh o s = .next (shadowTrap s g d (fun _ => 0)) := by
  subst he
  exact issueC_shadow h (if_pos hd)

/-- Where shadow lanes agree the effect is the instruction's own. -/
theorem voteI_agree (h : Runs ck sh o s g c) (hk : ck.closes = false) {f : State → Group → Res Eff} {differ : State → Group → Half}
    (hd : differ s { g with wait := .none } = 0) {g' : Group} {outs : List (Nat × Word)}
    (hf : f s { g with wait := .none } = okOuts s { g' with wait := .none } outs) (hc : g'.clause = g.clause) (he : g'.ecc = g.ecc) :
    voteI f differ ck sh o s = .next (s.with (g'.wrote c outs)) :=
  issueC_changes h hk ((if_neg (not_not.mpr hd)).trans hf) hc he

/-- A per-lane access compares the lanes of a pair before everything else (R530). -/
theorem laneAccess_mismatch (h : Runs ck sh o s g c) {rd wr : Bool} {differ : Group → Nat → Nat → Bool}
    {body : State → Group → Half → List Nat → Res Eff} {d : Half}
    (he : g.mismatch (g.fold (g.active sh o s.free)) (differ { g with wait := .none } s.free) = d) (hd : d ≠ 0) :
    laneAccess rd wr differ ck sh o body s = .next (shadowTrap s g d (fun v => laneVa g s.free o (2 * v))) := by
  subst he
  exact issueC_shadow h (if_pos hd)

end Shadows

/-! ### MASK -/

/-- Writing a uniform predicate and then going on without a wait. -/
theorem Group.putK_wait (g : Group) (n : Nat) (b : Bool) (w : Wait) : ({ g with wait := w } : Group).putK n b = { g.putK n b with wait := w } := by
  simp only [Group.putK_eq]

theorem Group.putK_clause (g : Group) (n : Nat) (b : Bool) : (g.putK n b).clause = g.clause := by rw [Group.putK_eq]

theorem Group.putK_ecc (g : Group) (n : Nat) (b : Bool) : (g.putK n b).ecc = g.ecc := by rw [Group.putK_eq]

theorem xField_kx (o : EOps) : xField o 0 3 = o.x.toNat % 8 := by simp [xField]

theorem putEm_eq (g : Group) (v : Half) : g.putEm v = { g with em := emOf g v } := rfl

theorem qDiffer_unprotected {g : Group} (hp : g.info.prot = false) (free : Nat) (o : EOps) : qDiffer g free o = 0 := by
  simp [qDiffer, Group.mismatch, hp]

theorem qVote_unprotected {g : Group} (hp : g.info.prot = false) (free : Nat) (o : EOps) :
    qVote g free o = if o.hint.getLsbD 0 then ~~~(g.rdq free o.a.toNat) else g.rdq free o.a.toNat := by
  simp [qVote, Group.fold, hp]

/-- R233: MASK.IF where the shadow lanes agree. -/
theorem maskIf_runs {o : EOps} {s : State} {g : Group} {c : Clause} (h : Runs {} shMaskIf o s g c) (hd : qDiffer g s.free o = 0) :
    exec (.maskIf o) s = .next (s.with ((({ g with em := emOf g (g.em &&& qVote g s.free o) } : Group).putK (o.x.toNat % 8)
      ((g.em &&& qVote g s.free o) != 0)).wrote c [(sKey o.d.toNat, (g.em &&& ~~~(qVote g s.free o)) ++ g.em)])) := by
  rw [← xField_kx]
  refine voteI_agree h rfl hd ?_ (Group.putK_clause _ _ _) (Group.putK_ecc _ _ _)
  rw [← Group.putK_wait]
  rfl

/-- R233: MASK.ELSE takes the half that MASK.IF saved. -/
theorem maskElse_runs : DoesE .maskElse (fun _ => {}) (fun _ => shMaskElse) (fun s g o =>
    ({ g with em := emOf g ((g.s1 s.free o.a.toNat).extractLsb' 16 16) } : Group).putK (o.x.toNat % 8)
      (emOf g ((g.s1 s.free o.a.toNat).extractLsb' 16 16) != 0)) (fun _ _ _ => []) := by
  intro o s g c h
  simp only [← xField_kx]
  refine issueC_changes h rfl ?_ (Group.putK_clause _ _ _) (Group.putK_ecc _ _ _)
  rw [← Group.putK_wait]
  rfl

theorem maskInstructions : Parts.MaskInstructions :=
  ⟨fun _ _ _ _ h => issueC_changes h rfl rfl rfl rfl, fun _ _ _ _ h => issueC_writes h rfl rfl,
    fun _ _ _ _ h hd => maskIf_runs h hd, maskElse_runs, fun _ _ _ _ h => issueC_changes h rfl rfl rfl rfl,
    fun _ free o hp => ⟨qDiffer_unprotected hp free o, qVote_unprotected hp free o⟩⟩

/-! ### VOTE -/

/-- A vote that writes a uniform predicate. -/
theorem voteI_putK {sh : Shape} {o : EOps} {s : State} {g : Group} {c : Clause} (h : Runs {} sh o s g c) {f : State → Group → Res Eff}
    {differ : State → Group → Half} (hd : differ s { g with wait := .none } = 0) {n : Nat} {b : Bool}
    (hf : f s { g with wait := .none } = okOuts s (({ g with wait := .none } : Group).putK n b) []) :
    voteI f differ {} sh o s = .next (s.with ((g.putK n b).wrote c [])) :=
  voteI_agree h rfl hd (hf.trans (by rw [Group.putK_wait])) (Group.putK_clause _ _ _) (Group.putK_ecc _ _ _)

/-- R234: all values of a list are its first one where any two are equal. -/
theorem all_beq_headD (ls : List Nat) (f : Nat → Word) :
    (ls.map f).all (fun w => w == (ls.map f).headD 0) = decide (∀ l ∈ ls, ∀ m ∈ ls, f l = f m) := by
  rw [Bool.eq_iff_iff, decide_eq_true_eq, List.all_eq_true]
  cases ls with
  | nil => simp
  | cons a ls =>
    simp only [List.map_cons, List.headD_cons, List.mem_cons, List.mem_map, beq_iff_eq]
    refine ⟨fun h l hl m hm => ?_, fun h w hw => ?_⟩
    · have value : ∀ x, x = a ∨ x ∈ ls → f x = f a := fun x hx =>
        h (f x) (hx.imp (congrArg f) (fun hx => ⟨x, hx, rfl⟩))
      rw [value l hl, value m hm]
    · rcases hw with rfl | ⟨x, hx, rfl⟩
      · rfl
      · exact h x (.inr hx) a (.inl rfl)

theorem bne_zero_eq_decide (m : Half) : (m != 0) = decide (m ≠ 0) := by simp [bne, beq_eq_decide]

theorem voteInstructions : Parts.VoteInstructions := by
  refine ⟨fun o s g c h hd => ⟨?_, ?_⟩, fun o s g c h hd => ⟨voteI_agree h rfl hd rfl rfl rfl, ?_⟩, fun o s g c h hd => ?_⟩
  · rw [← bne_zero_eq_decide]
    exact voteI_putK h hd rfl
  · exact voteI_putK h hd rfl
  · rw [← popc_eq]
    exact voteI_agree h rfl hd rfl rfl rfl
  · rw [← all_beq_headD]
    exact voteI_putK h hd rfl

/-! ### Shadow lanes (R529 to R531) -/

theorem getLsbD_mismatch (g : Group) (m : Half) (d : Nat → Bool) (v : Nat) (hv : v < 16) :
    (g.mismatch m d).getLsbD v = (g.info.prot && decide (v < 8) && m.getLsbD v && d v) := by
  unfold Group.mismatch
  cases g.info.prot with
  | true => rw [if_pos rfl, getLsbD_maskOf _ hv, Bool.true_and]
  | false => simp

theorem getLsbD_spread (g : Group) (m : Half) (l : Nat) (hl : l < 16) :
    (g.spread m).getLsbD l = (if g.info.prot then m.getLsbD (l / 2) else m.getLsbD l) := by
  unfold Group.spread
  split
  · exact getLsbD_maskOf _ hl
  · rfl

theorem getLsbD_fold (g : Group) (m : Half) (v : Nat) (hv : v < 16) :
    (g.fold m).getLsbD v = (if g.info.prot then decide (v < 8) && m.getLsbD (2 * v) else m.getLsbD v) := by
  unfold Group.fold
  split
  · exact getLsbD_maskOf _ hv
  · rfl

section Accesses

variable {o : EOps} {s : State} {g : Group} {c : Clause}

theorem exec_ld (sz : LdSz) (o : EOps) (s : State) : exec (.ld sz o) s = ld sz {} (shLd sz) o s := rfl
theorem exec_st (sz : StSz) (o : EOps) (s : State) : exec (.st sz o) s = st sz {} (shSt sz) o s := rfl
theorem exec_ldx (sz : XSz) (o : EOps) (s : State) : exec (.ldx sz o) s = ldx sz {} (shLdx sz) o s := rfl
theorem exec_prefL1 (o : EOps) (s : State) : exec (.prefL1 o) s = pref true {} shPrefL1 o s := rfl
theorem exec_prefClc (o : EOps) (s : State) : exec (.prefClc o) s = pref false {} shPrefL1 o s := rfl

theorem ld_mismatch {sz : LdSz} (h : Runs {} (shLd sz) o s g c) (hd : addressesDiffer s g o (g.active (shLd sz) o s.free) ≠ 0) :
    exec (.ld sz o) s =
      .next (shadowTrap s g (addressesDiffer s g o (g.active (shLd sz) o s.free)) (fun v => laneVa g s.free o (2 * v))) := by
  rw [exec_ld, ld]
  exact laneAccess_mismatch h rfl hd

theorem st_mismatch {sz : StSz} {d : Half} (h : Runs {} (shSt sz) o s g c)
    (he : g.mismatch (g.fold (g.active (shSt sz) o s.free)) (fun v => vaDiffer g s.free o v ||
      dataB g s.free o sz.bytes (2 * v) != dataB g s.free o sz.bytes (2 * v + 1)) = d) (hd : d ≠ 0) :
    exec (.st sz o) s = .next (shadowTrap s g d (fun v => laneVa g s.free o (2 * v))) := by
  rw [exec_st, st]
  exact laneAccess_mismatch h he hd

theorem ldx_mismatch {sz : XSz} (h : Runs { closes := true } (shLdx sz) o s g c)
    (hd : addressesDiffer s g o (g.active (shLdx sz) o s.free) ≠ 0) :
    exec (.ldx sz o) s =
      .next (shadowTrap s g (addressesDiffer s g o (g.active (shLdx sz) o s.free)) (fun v => laneVa g s.free o (2 * v))) := by
  rw [exec_ldx, ldx]
  exact laneAccess_mismatch h rfl hd

theorem pref_mismatch (l1 : Bool) (h : Runs {} shPrefL1 o s g c) (hd : addressesDiffer s g o (g.active shPrefL1 o s.free) ≠ 0) :
    pref l1 {} shPrefL1 o s =
      .next (shadowTrap s g (addressesDiffer s g o (g.active shPrefL1 o s.free)) (fun v => laneVa g s.free o (2 * v))) := by
  rw [pref]
  exact laneAccess_mismatch h rfl hd

end Accesses

theorem shadowMismatches : Parts.ShadowMismatches :=
  ⟨getLsbD_mismatch, getLsbD_spread, getLsbD_fold,
    fun _ _ _ _ h hd => voteI_mismatch h rfl hd,
    fun _ _ _ _ h hd => ⟨voteI_mismatch h rfl hd, voteI_mismatch h rfl hd⟩,
    fun _ _ _ _ h hd => ⟨voteI_mismatch h rfl hd, voteI_mismatch h rfl hd⟩,
    fun _ _ _ _ h hd => voteI_mismatch h rfl hd,
    fun _ _ _ _ _ h hd => ld_mismatch h hd,
    fun _ _ _ _ _ h hd => st_mismatch h rfl hd,
    fun _ _ _ _ _ h hd => ldx_mismatch h hd,
    fun o s _ _ h hd => ⟨(exec_prefL1 o s).trans (pref_mismatch true h hd), (exec_prefClc o s).trans (pref_mismatch false h hd)⟩⟩

/-- Settles O11. -/
theorem masksVotesAndShadows : Obligations.MasksVotesAndShadows := ⟨maskInstructions, voteInstructions, shadowMismatches⟩

end Sys2Proof.Machine
end

section
/-!
PROOFS. Special registers, roles, regions, the owl line of SNAP, and clause headers (R87, R88, R112, R209, R235 to R237, R265, R520 to
R522).
-/

namespace Sys2Proof.Machine

/-! ### Special registers (R112, R235, R236) -/

/-- The numbers of R112 that name a register. -/
def sysNums : List Nat := [0x000, 0x001, 0x002, 0x010, 0x011, 0x012, 0x013, 0x014, 0x015, 0x016, 0x017, 0x020, 0x021, 0x022, 0x030,
  0x031, 0x040, 0x041, 0x042, 0x043, 0x044, 0x045, 0x050, 0x060]

theorem mem_sysNums_of_ofNum {n : Nat} (h : (SpecReg.ofNum n).isSome = true) : n ∈ sysNums := by
  by_contra hn
  simp only [sysNums, List.mem_cons, List.not_mem_nil, or_false, not_or] at hn
  have hlvl : ¬(0x010 ≤ n ∧ n ≤ 0x017) := by omega
  have hnone : SpecReg.ofNum n = none := by simp only [SpecReg.ofNum, hn, hlvl, if_false]
  rw [hnone] at h
  cases h

/-- R112: the value of every register that SYSR reads. -/
theorem sysValue_eq {n : Nat} (h : n ∈ sysNums) (s : State) (g : Group) (l : Nat) :
    sysValue s g ((SpecReg.ofNum n).getD .laneid) l = sysrValue s g n l := by
  fin_cases h <;> rfl

theorem sysPerLane_eq {n : Nat} (h : n ∈ sysNums) :
    ((SpecReg.ofNum n).getD .laneid).perLane = decide (n ∈ [0x000, 0x010, 0x030, 0x031]) := by
  fin_cases h <;> rfl

theorem sysWide_eq {n : Nat} (h : n ∈ sysNums) :
    ((SpecReg.ofNum n).getD .laneid).wide = decide (n ∈ [0x040, 0x042, 0x044, 0x060]) := by
  fin_cases h <;> rfl

theorem sysPrivileged_eq {n : Nat} (h : n ∈ sysNums) :
    ((SpecReg.ofNum n).getD .laneid).privileged = decide (n = 0x044 ∨ n = 0x045) := by
  fin_cases h <;> rfl

theorem xField_sys (o : EOps) : xField o 0 12 = o.x.toNat % 4096 := by simp [xField]

theorem sysReg_eq (o : EOps) : sysReg o = (SpecReg.ofNum (o.x.toNat % 4096)).getD .laneid := by rw [sysReg, xField_sys]

/-- A shape that is one obeys its entry's further check. -/
theorem extraOk_of_shapeOk {sh : Shape} {o : EOps} (h : shapeOk sh o = true) : extraOk sh.extra o = true := by
  simp only [shapeOk, Bool.and_eq_true] at h
  exact h.2

theorem sysr_number {o : EOps} (h : shapeOk (shSysr o) o = true) : o.x.toNat % 4096 ∈ sysNums := by
  have hx : (SpecReg.ofNum (xField o 0 12)).isSome = true := extraOk_of_shapeOk h
  rw [xField_sys] at hx
  exact mem_sysNums_of_ofNum hx

theorem sysw_number {o : EOps} (h : extraOk .sysw o = true) : o.x.toNat % 4096 ∈ sysNums := by
  refine mem_sysNums_of_ofNum ?_
  rw [← xField_sys]
  cases hx : SpecReg.ofNum (xField o 0 12) with
  | none => simp [extraOk, hx] at h
  | some r => rfl

theorem specialRegisterReads : Parts.SpecialRegisterReads := by
  intro o s g c h n
  have hn : n ∈ sysNums := sysr_number h.form
  refine issueC_writes h rfl (congrArg (okOuts s _) ?_)
  simp only [sysReg_eq]
  have hperLane := sysPerLane_eq hn
  have hwide := sysWide_eq hn
  have hvalue := sysValue_eq hn s { g with wait := .none }
  change (if ((SpecReg.ofNum n).getD .laneid).perLane = true then _ else _) = _
  rw [hperLane, hwide]
  simp only [decide_eq_true_eq]
  refine if_congr Iff.rfl ?_ (if_congr Iff.rfl ?_ ?_)
  · exact congrArg (fun f => (lanesOf g.emPhys).map f) (funext fun l => congrArg (fun d => (vKey o.d.toNat l, loWord d)) (hvalue l))
  · exact congrArg (pairOuts (sKey o.d.toNat) (sKey (o.d.toNat + 1))) (hvalue 0)
  · exact congrArg (fun d => [(sKey o.d.toNat, loWord d)]) (hvalue 0)

/-- The instruction with the shape that the statements name. -/
theorem sysWShape_eq {o : EOps} (h : o.x.toNat % 4096 ∈ sysNums) :
    { shSysw o with priv := (sysReg o).privileged } = sysWShape o := by
  rw [sysReg_eq, sysPrivileged_eq h]
  rfl

theorem Runs.sysw_number {ck : Checks} {o : EOps} {s : State} {g : Group} {c : Clause} (h : Runs ck (sysWShape o) o s g c) :
    o.x.toNat % 4096 ∈ sysNums :=
  Machine.sysw_number (extraOk_of_shapeOk h.form)

/-- What SYSW does to the register that X names (R236). -/
def sysWrite (r : SpecReg) (o : EOps) (s : State) (g : Group) : Res Eff :=
  match r with
  | .prec => okOuts s ((lanesOf g.emPhys).foldl (fun g' l => g'.putPrec l (g.la32 s.free o l)) g) []
  | .vpstat => okOuts s ((lanesOf g.emPhys).foldl
      (fun (g' : Group) l => { g' with vpstat := g'.vpstat.store 0 l (g'.vpstatOf l &&& ~~~(g.la32 s.free o l)) }) g) []
  | .tpc => if (g.uA64 s.free o).toNat % 4 ≠ 0 then trapOf g causeAlign 0 (g.uA64 s.free o)
    else okOuts s { g with trap := { g.trap with tpc := g.uA64 s.free o } } []
  | .tba => if (g.uA64 s.free o).toNat % 4 ≠ 0 then trapOf g causeAlign 0 (g.uA64 s.free o)
    else okOuts s { g with trap := { g.trap with tba := g.uA64 s.free o } } []
  | .trapen => okOuts s { g with trap := { g.trap with trapen := g.uA32 s.free o &&& trapenMask } } []
  | .err => okOuts s { g with trap := { g.trap with err := g.trap.err &&& ~~~(g.uA32 s.free o) } } []
  | _ => trapOf g causeIllegal

/-- SYSW as an instruction of the shape that the statements name. -/
theorem exec_sysw {o : EOps} (h : o.x.toNat % 4096 ∈ sysNums) (s : State) :
    exec (.sysw o) s = issueC {} (sysWShape o) o (sysWrite (sysReg o) o) s := by
  refine (congrArg (fun sh => issueC {} sh o _ s) (sysWShape_eq h)).trans
    (congrArg (fun b => issueC {} (sysWShape o) o b s) (funext₂ fun s g => ?_))
  unfold sysWrite
  cases sysReg o <;> rfl

section Writes

variable {o : EOps} {s : State} {g : Group} {c : Clause}

/-- The register of a number. -/
theorem sysReg_of {n : Nat} {r : SpecReg} (hx : o.x.toNat % 4096 = n) (hr : SpecReg.ofNum n = some r) : sysReg o = r := by
  rw [sysReg_eq, hx, hr]
  rfl

/-- R236: SYSW of %tpc. -/
theorem sysw_tpc (h : Runs {} (sysWShape o) o s g c) (hx : o.x.toNat % 4096 = 0x040) (hal : (g.uA64 s.free o).toNat % 4 = 0) :
    exec (.sysw o) s = .next (s.with (({ g with trap := { g.trap with tpc := g.uA64 s.free o } } : Group).wrote c [])) := by
  rw [exec_sysw h.sysw_number, sysReg_of hx rfl]
  exact issueC_changes h rfl (if_neg (not_not.mpr hal)) rfl rfl

theorem sysw_tba (h : Runs {} (sysWShape o) o s g c) (hx : o.x.toNat % 4096 = 0x044) (hal : (g.uA64 s.free o).toNat % 4 = 0) :
    exec (.sysw o) s = .next (s.with (({ g with trap := { g.trap with tba := g.uA64 s.free o } } : Group).wrote c [])) := by
  rw [exec_sysw h.sysw_number, sysReg_of hx rfl]
  exact issueC_changes h rfl (if_neg (not_not.mpr hal)) rfl rfl

/-- R236: an address that is not on 4 bytes. -/
theorem sysw_align (h : Runs {} (sysWShape o) o s g c) (hx : o.x.toNat % 4096 = 0x040 ∨ o.x.toNat % 4096 = 0x044)
    (hal : (g.uA64 s.free o).toNat % 4 ≠ 0) :
    exec (.sysw o) s = .next (s.with (({ g with wait := .none } : Group).trapHere
      { cause := causeAlign, addr := g.uA64 s.free o, lanes := g.em })) := by
  rcases hx with hx | hx
  all_goals
    rw [exec_sysw h.sysw_number, sysReg_of hx rfl]
    exact issueC_traps h (if_pos hal)

theorem sysw_trapen (h : Runs {} (sysWShape o) o s g c) (hx : o.x.toNat % 4096 = 0x045) :
    exec (.sysw o) s = .next (s.with (({ g with trap := { g.trap with trapen := g.uA32 s.free o &&& 0x1F0F } } : Group).wrote c [])) := by
  rw [exec_sysw h.sysw_number, sysReg_of hx rfl]
  exact issueC_changes h rfl rfl rfl rfl

theorem sysw_err (h : Runs {} (sysWShape o) o s g c) (hx : o.x.toNat % 4096 = 0x050) :
    exec (.sysw o) s = .next (s.with (({ g with trap := { g.trap with err := g.trap.err &&& ~~~(g.uA32 s.free o) } } : Group).wrote c [])) := by
  rw [exec_sysw h.sysw_number, sysReg_of hx rfl]
  exact issueC_changes h rfl rfl rfl rfl

end Writes

/-- R101: a privileged form in user mode traps after the encoding has passed. -/
theorem issueC_privilege {ck : Checks} {sh : Shape} {o : EOps} {s : State} {g : Group} {c : Clause} (h : Issues s g c)
    (hhold : ck.hold s { g with wait := .none } = false) (hshape : shapeOk sh o = true)
    (hlegal : ck.illegal s { g with wait := .none } = false) (hpriv : sh.priv = true) (huser : g.id.privileged = false)
    (body : State → Group → Res Eff) :
    issueC ck sh o body s = .next (s.with (({ g with wait := .none } : Group).trapEm causePriv)) := by
  have hmode : ∀ g' : Group, g'.run = .running → g'.clause = some c → ck.hold s g' = false → ck.illegal s g' = false →
      g'.id.privileged = false → issueG ck sh o body s g' = s.putG (g'.trapEm causePriv) := by
    intro g' hr hc hh hi hu
    simp only [issueG, hr, hc, hh, hshape, hi, hpriv, hu, Bool.not_true, Bool.not_false, Bool.or_self, Bool.and_self,
      Bool.false_eq_true, if_false, if_true]
  simp only [issueC, h.here, h.not_held, h.due, Bool.or_self, Bool.false_eq_true, if_false]
  exact congrArg Host.Outcome.next (hmode { g with wait := .none } h.running h.opened hhold hlegal huser)

theorem specialRegisterWrites : Parts.SpecialRegisterWrites := by
  refine fun o s g c => ⟨fun h => ⟨sysw_tpc h, sysw_tba h, sysw_align h, sysw_trapen h, sysw_err h⟩,
    fun hhere hrun hopen hwait hdue hshape hx huser => ?_⟩
  have hn : o.x.toNat % 4096 ∈ sysNums := sysw_number (extraOk_of_shapeOk hshape)
  have hg : ({ g with wait := .none } : Group) = g := by rw [← hwait]
  rw [exec_sysw hn, issueC_privilege ⟨hhere, hrun, hopen, .inl hwait, hdue⟩ rfl (show shapeOk (sysWShape o) o = true from hshape) rfl (decide_eq_true hx) huser, hg]
  rfl

/-! ### %prec and %vpstat (R236, R265) -/

/-- What an operation on each lane does not touch, it does not touch on all of them. -/
theorem foldl_keeps {α : Type} {f : Group → Nat → Group} (p : Group → α) (hf : ∀ g l, p (f g l) = p g) (ls : List Nat) (g : Group) :
    p (ls.foldl f g) = p g := by
  induction ls generalizing g with
  | nil => rfl
  | cons l ls ih => exact (ih (f g l)).trans (hf g l)

theorem foldl_wait {f : Group → Nat → Group} (hf : ∀ (g : Group) l, f { g with wait := .none } l = { f g l with wait := .none })
    (ls : List Nat) (g : Group) : ls.foldl f { g with wait := .none } = { ls.foldl f g with wait := .none } := by
  induction ls generalizing g with
  | nil => rfl
  | cons l ls ih => rw [List.foldl_cons, hf, ih]; rfl

/-- R265: a write of %prec changes %prec and %vpstat alone. -/
theorem Group.putPrec_eq (g : Group) (l : Nat) (w : Word) : g.putPrec l w = { g with
    prec := g.prec.put l (precFix w).1
    vpstat := if (precFix w).2 then g.vpstat.store 0 l (g.vpstatOf l ||| 32) else g.vpstat } := by
  simp only [Group.putPrec, Group.setVpstat]
  split <;> rfl

theorem sysw_prec {o : EOps} {s : State} {g : Group} {c : Clause} (h : Runs {} (sysWShape o) o s g c) (hx : o.x.toNat % 4096 = 0x030) :
    exec (.sysw o) s = .next (s.with (((lanesOf g.emPhys).foldl (fun g' l => g'.putPrec l (g.la32 s.free o l)) g).wrote c [])) := by
  rw [exec_sysw h.sysw_number, sysReg_of hx rfl]
  refine issueC_changes h rfl ((congrArg (okOuts s · []) (foldl_wait (fun g' l => ?_) _ g)))
    (foldl_keeps Group.clause (fun g' l => ?_) _ g) (foldl_keeps Group.ecc (fun g' l => ?_) _ g)
  · rw [Group.putPrec_eq, Group.putPrec_eq]; rfl
  · rw [Group.putPrec_eq]
  · rw [Group.putPrec_eq]

theorem sysw_vpstat {o : EOps} {s : State} {g : Group} {c : Clause} (h : Runs {} (sysWShape o) o s g c) (hx : o.x.toNat % 4096 = 0x031) :
    exec (.sysw o) s = .next (s.with (((lanesOf g.emPhys).foldl (fun (g' : Group) l =>
      { g' with vpstat := g'.vpstat.store 0 l (g'.vpstat.getD l 0 &&& ~~~(g.la32 s.free o l)) }) g).wrote c [])) := by
  rw [exec_sysw h.sysw_number, sysReg_of hx rfl]
  refine issueC_changes h rfl (congrArg (okOuts s · []) (foldl_wait (fun g' l => ?_) _ g))
    (foldl_keeps Group.clause ?_ _ g) (foldl_keeps Group.ecc ?_ _ g)
  · rfl
  · exact fun _ _ => rfl
  · exact fun _ _ => rfl

/-- R265: the two fields of a corrected %prec. -/
theorem precFix_fields (w : Word) :
    let p := w.toNat % 256
    let m := w.toNat / 256 % 8
    let p' := if p = 0 then 1 else if p > 224 then 224 else p
    let m' := if m ≥ 5 then 0 else m
    (precFix w).1.toNat % 256 = p' ∧ (precFix w).1.toNat / 256 % 8 = m' ∧ (precFix w).2 = decide (p' ≠ p ∨ m' ≠ m) := by
  intro p m p' m'
  have hp : p' < 256 := by simp only [p']; split_ifs <;> omega
  have hm : m' < 8 := by simp only [m']; split_ifs <;> omega
  have hval : (precFix w).1.toNat = w.toNat / 2048 % 512 * 2048 + m' * 256 + p' := by
    refine (BitVec.toNat_ofNat _ _).trans (Nat.mod_eq_of_lt ?_)
    show w.toNat / 2048 % 512 * 2048 + m' * 256 + p' < 2 ^ 32
    omega
  refine ⟨by omega, by omega, ?_⟩
  change (p' != p || m' != m) = _
  rw [Bool.eq_iff_iff]
  simp only [Bool.or_eq_true, bne_iff_ne, decide_eq_true_eq]

theorem laneSpecialWrites : Parts.LaneSpecialWrites :=
  ⟨fun _ _ _ _ h hx => sysw_prec h hx, fun _ _ _ _ h hx => sysw_vpstat h hx, precFix_fields⟩

/-- Settles O12. -/
theorem specialRegisters : Obligations.SpecialRegisters := ⟨specialRegisterReads, specialRegisterWrites, laneSpecialWrites⟩

end Sys2Proof.Machine
end

section
/-!
PROOFS. Roles, regions and the owl line of SNAP, and clause headers (R87, R88, R209, R237, R520 to R522).
-/

namespace Sys2Proof.Machine

/-! ### ROLE, REGN and SNAP -/

theorem xField_role (o : EOps) : xField o 0 2 = o.x.toNat % 4 := by simp [xField]

/-- R237: ROLE.PHYS of a declared role, and of one that is not. -/
theorem rolePhys_declared {o : EOps} {s : State} {g : Group} {c : Clause} (h : Runs {} shRolePhys o s g c)
    (hin : (g.uB32 s.free o).toNat < roleCount g (xField o 0 2)) : exec (.rolePhys o) s = .next (s.with (g.wrote c
      [(sKey o.d.toNat, BitVec.ofNat 32 (roleUnit s g (xField o 0 2) (g.uB32 s.free o).toNat))])) :=
  issueC_writes h rfl (if_neg (Nat.not_le.mpr hin))

theorem rolePhys_beyond {o : EOps} {s : State} {g : Group} {c : Clause} (h : Runs {} shRolePhys o s g c)
    (hout : roleCount g (xField o 0 2) ≤ (g.uB32 s.free o).toNat) : exec (.rolePhys o) s = .next (s.with
      (({ g with wait := .none } : Group).trapHere { cause := causeRoleBound, lanes := g.em })) :=
  issueC_traps h (if_pos hout)

theorem roleTest_runs {o : EOps} {s : State} {g : Group} {c : Clause} (h : Runs {} shRoleTest o s g c) :
    exec (.roleTest o) s = .next (s.with
      ((g.putK o.d.toNat (decide ((g.uB32 s.free o).toNat < roleCount g (xField o 0 2)))).wrote c [])) := by
  refine issueC_changes h rfl ?_ (Group.putK_clause _ _ _) (Group.putK_ecc _ _ _)
  rw [← Group.putK_wait]
  rfl

theorem roleInstructions : Parts.RoleInstructions := by
  refine ⟨fun o s g c h => ?_, fun o s g c h => ?_, fun o s g c h => ?_, fun g => ⟨rfl, rfl, rfl, rfl⟩⟩
  · rw [← xField_role]
    exact issueC_writes h rfl rfl
  · rw [← xField_role]
    exact ⟨rolePhys_declared h, rolePhys_beyond h⟩
  · rw [← xField_role]
    exact roleTest_runs h

/-- An instruction that closes the group's region, and has register results (R521). -/
theorem issueC_closes {ck : Checks} {sh : Shape} {o : EOps} {s : State} {g : Group} {c : Clause} (h : Runs ck sh o s g c)
    (hk : ck.closes = true) {body : State → Group → Res Eff} {outs : List (Nat × Word)}
    (hb : body s { g with wait := .none } = okOuts s { g with wait := .none } outs) :
    issueC ck sh o body s =
      .next (s.with (({ g with region := { g.region with opened := false } } : Group).wrote c outs)) := by
  have hret := retire_wrote (g := { g with wait := .none, region := { g.region with opened := false } }) h.opened h.clean rfl outs
  rw [issueC_runs h, hb]
  simp only [issueEnd, okOuts, applyEff, hk, Bool.false_eq_true, if_false, if_true, hret]
  rfl

/-- R520: the region's entry is the clause after the one that REGN.B ends. -/
theorem regnB_runs {o : EOps} {s : State} {g : Group} {c : Clause}
    (h : Runs { illegal := fun _ g => g.acts shRet o s.free && !isLast g } shRet o s g c) :
    exec (.regnB o) s = .next (s.with (({ g with region :=
      { opened := true, rb := 0, entry := c.after, em := g.em, k := g.k, since := g.seq + 1 } } : Group).wrote c [])) := by
  refine issueC_changes h rfl ?_ rfl rfl
  simp only [h.opened]

theorem regionInstructions : Parts.RegionInstructions := by
  refine ⟨fun o s g c h => regnB_runs h, fun o s g c h => issueC_closes h rfl rfl, fun o s g c h => ?_⟩
  have hopen : (if g.region.opened then 1 else 0) = g.region.opened.toNat := by cases g.region.opened <;> rfl
  rw [hopen]
  exact issueC_writes h rfl rfl

theorem xField_tag (o : EOps) : BitVec.ofNat 16 (xField o 0 16) = BitVec.ofNat 16 o.x.toNat := by
  refine BitVec.eq_of_toNat_eq ?_
  simp [xField]

/-- R209: SNAP pulls the owl line where SNAPEN is 1. -/
theorem snap_pulls {gang : Bool} {o : EOps} {s : State} {g : Group} {c : Clause} (h : Runs {} shSnap o s g c)
    (hen : (s.snap (g.core / 384)).snapen = true) : snapI gang {} shSnap o s =
      .next ((owlTrigger s (g.core / 384) 1 (BitVec.ofNat 16 o.x.toNat) (g.core / 384) gang).with (g.wrote c [])) := by
  rw [← xField_tag]
  exact issueC_effect h rfl (congrArg (okOuts · _ _) (if_pos hen)) rfl rfl

theorem snap_ignored {gang : Bool} {o : EOps} {s : State} {g : Group} {c : Clause} (h : Runs {} shSnap o s g c)
    (hen : (s.snap (g.core / 384)).snapen = false) : snapI gang {} shSnap o s = .next (s.with (g.wrote c [])) :=
  issueC_effect h rfl (congrArg (okOuts · _ _) (if_neg (ne_true_of_eq_false hen))) rfl rfl

theorem snapInstructions : Parts.SnapInstructions :=
  fun _ _ _ _ h => ⟨fun hen => ⟨snap_pulls h hen, snap_pulls h hen⟩, fun hen => ⟨snap_ignored h hen, snap_ignored h hen⟩⟩

/-- Settles O13. -/
theorem rolesRegionsSnapshots : Obligations.RolesRegionsSnapshots := ⟨roleInstructions, regionInstructions, snapInstructions⟩

/-! ### Clause headers (R87, R88, R102) -/

theorem State.grp_of_get? {s : State} {k : Nat} {g : Group} (h : s.groups.get? k = some g) : s.grp k = g := by
  simp [State.grp, Tab.getD, h]

theorem flagsClear_of_atHeader {s : State} {g : Group} {hd : Header} (h : AtHeader s g hd) : g.flagsClear hd.wait.toNat = true := by
  refine List.all_eq_true.mpr fun i hi => ?_
  by_cases hbit : hd.wait.toNat.testBit i = true
  · simp [h.clear i (List.mem_range.mp hi) hbit]
  · simp [hbit]

/-- A group that opens a clause at its pc (R102). -/
def Group.openClause (g : Group) (seta setb tmask : Nat) (body : List Item) (after : Dword) : Group :=
  { g with
    deny := []
    ahead := {}
    clause := some { head := g.pc, seta := seta, setb := setb, tmask := tmask, body := body, idx := 0, after := after }
    pc := (body.headD { addr := g.pc, words := [] }).addr }

/-- R102: a header that breaks no rule opens its clause at its first instruction. -/
theorem startClause_opens {s t : State} {g : Group} {hd : Header} {seta setb n tmask len : Nat} {body : List Item} {after : Dword}
    (h : AtHeader s g hd) (hf : fetchBody s.cur (n + 1) (g.pc + BitVec.ofNat 64 (4 * len)) s = (t, .ok (body, after)))
    (hmask : tmaskBad tmask body = false) (hform : clauseBroken body = false) :
    startClause s s.cur hd.wait.toNat seta setb n tmask len false = { t with groups := t.groups.put s.cur ((t.grp s.cur).openClause seta setb tmask body after) } := by
  have hquiet : (!g.trap.h && !g.trap.pending.isEmpty) = false := by
    rcases h.quiet with hq | hq <;> simp [hq]
  simp only [startClause, State.grp_of_get? h.here, h.running, h.boundary, hquiet, flagsClear_of_atHeader h, hf, hmask, hform,
    Bool.false_eq_true, Bool.not_true, Bool.or_self, if_false]
  rfl

/-- Settles O14: the three forms of a header start the same clause. -/
theorem clauseHeaders : Obligations.ClauseHeaders := by
  intro s g h lit w1 w2 t body after len tmask i hat hform hfetch hmask hbroken
  refine ⟨(t.grp s.cur).openClause h.seta.toNat h.setb.toNat tmask body after, ?_, rfl, fun x xs hx => by rw [hx]; rfl⟩
  have hheld : (g.wait.isHeld || g.region.due) = false := by rw [hat.free, hat.due]; rfl
  have hstart : ∀ bad, bad = false → clauseStart h.wait.toNat h.seta.toNat h.setb.toNat h.n.toNat tmask len bad s =
      .next (startClause s s.cur h.wait.toNat h.seta.toNat h.setb.toNat h.n.toNat tmask len false) := by
    rintro _ rfl
    simp only [clauseStart, hat.here, hheld, Bool.false_eq_true, if_false]
  rw [← startClause_opens hat hfetch hmask hbroken]
  rcases hform with ⟨rfl, rfl, rfl⟩ | ⟨rfl, rfl, rfl, hlit⟩ | ⟨rfl, rfl, rfl, hw1, rfl⟩
  · exact hstart false rfl
  · show clauseStart _ _ _ _ (lit.toNat % 256) 3 (decide (256 ≤ lit.toNat)) s = _
    rw [Nat.mod_eq_of_lt hlit]
    exact hstart _ (decide_eq_false (Nat.not_le.mpr hlit))
  · show clauseStart _ _ _ _ (w1.toNat % 256) 3 (decide (256 ≤ w1.toNat) || (0 : Word) != 0) s = _
    rw [Nat.mod_eq_of_lt hw1]
    exact hstart _ (by rw [decide_eq_false (Nat.not_le.mpr hw1)]; rfl)

end Sys2Proof.Machine
end

section
/-!
PROOFS. The floating instructions of the lane path (R247 to R263): one rule for those with a word a lane, one for the lane predicates.
-/

namespace Sys2Proof.Machine

/-! ### FpReport (R226, R227, R249) -/

/-- The group after conditions have been recorded: %err takes those that are not enabled. -/
def Group.recorded (g : Group) (all : Nat) : Group := g.setErr (BitVec.ofNat 32 (errBits g.trap.trapen all * 256))

theorem okFp_quiet {s : State} {g : Group} {raised : List (Nat × Nat)} (k : Group → Eff)
    (h : enabledBits g.trap.trapen (allConds raised) = 0) : okFp s g raised k = .ok (k (g.recorded (allConds raised))) := by
  simp only [okFp, fpReport, h, if_true]
  rfl

/-- The trap of enabled conditions: those conditions in the subcode, and the lanes that raised them. -/
def fpTrap (g : Group) (raised : List (Nat × Nat)) : Trap :=
  { cause := causeFp
    sub := enabledBits g.trap.trapen (allConds raised)
    lanes := g.fold (maskOf (fun l => raised.any (fun p => p.1 == l && enabledBits g.trap.trapen p.2 != 0))) }

theorem okFp_enabled {s : State} {g : Group} {raised : List (Nat × Nat)} (k : Group → Eff)
    (h : enabledBits g.trap.trapen (allConds raised) ≠ 0) :
    okFp s g raised k = .ok { s := s, g := (g.recorded (allConds raised)).trapHere (fpTrap g raised), done := true } := by
  simp only [okFp, fpReport, h, if_false]
  rfl

/-- R248, R249: a floating instruction with one word a lane does what its function says in each active lane. -/
theorem floatDoes_of {i : Instr} {ck : Checks} {sh : Shape} {o : EOps} {f : State → Group → EOps → Nat → Word × Conds}
    (f' : State → Group → Nat → Word × Conds) (hk : ck.closes = false) (hx : ∀ s, exec i s = laneF f' ck sh o s)
    (hf : ∀ s (g : Group) l, f' s { g with wait := .none } l = f s g o l) : FloatDoes i ck sh o f := by
  intro s g c h all en g'
  have hraised : (lanesOf (g.active sh o s.free)).map (fun l => (l, (f' s { g with wait := .none } l).2.bits.toNat)) =
      raisedBy sh f s g o := by
    simp only [hf]
    rfl
  have houts : outsOf o (g.active sh o s.free) (fun l => [(f' s { g with wait := .none } l).1]) =
      laneOutsE sh (fun s g o l => [(f s g o l).1]) s g o := by
    simp only [hf]
    rfl
  rw [hx]
  refine ⟨fun hen => issueC_changes (g' := g') h hk ?_ rfl rfl, fun hen => issueC_done h ?_⟩
  · refine (congrArg (fun r => okFp s { g with wait := .none } r _) hraised).trans ((okFp_quiet _ (by exact hen)).trans ?_)
    exact congrArg (fun outs => okOuts s { g' with wait := .none } outs) houts
  · exact (congrArg (fun r => okFp s { g with wait := .none } r _) hraised).trans (okFp_enabled _ (by exact hen))

/-- The same for an operation on the elements of a format. -/
theorem floatE_elts {mk : EOps → Instr} {sh : Shape} {fmt : LFmt} (f : EOps → FFmt → Nat → Nat → Nat → Nat × Conds)
    (hx : ∀ o s, exec (mk o) s = laneE fmt f {} sh o s) : FloatE mk sh (onElts fmt f) :=
  fun o => floatDoes_of (fun s g l => onElts fmt f s g o l) rfl (hx o) (fun _ _ _ => rfl)

theorem floatB3_elts {mk : B3Ops → Instr} {op : Nat} {sh : Shape} {fmt : LFmt} (f : EOps → FFmt → Nat → Nat → Nat → Nat × Conds)
    {f₀ : FFmt → Nat → Nat → Nat → Nat × Conds} (hx : ∀ o s, exec (mk o) s = laneE fmt f (b3Checks op sh o) sh (b3AsE op sh o) s)
    (hf : ∀ o, f (b3AsE op sh o) = f₀) : FloatB3 mk op sh (onElts fmt (fun _ => f₀)) :=
  fun o => floatDoes_of (fun s g l => onElts fmt f s g (b3AsE op sh o) l) rfl (hx o) (fun s g l => by simp only [onElts, hf]; rfl)

/-- Settles O22: each instruction is one operation on the elements of its format; the base forms round to nearest even. -/
theorem floatArithmetic : Obligations.FloatArithmetic :=
  ⟨fun _ => ⟨floatE_elts _ (fun _ _ => rfl), floatE_elts _ (fun _ _ => rfl), floatE_elts _ (fun _ _ => rfl),
      floatE_elts _ (fun _ _ => rfl), floatE_elts _ (fun _ _ => rfl), floatE_elts _ (fun _ _ => rfl)⟩,
    floatB3_elts (fun o f a b _ => fAdd (hintMode o) f a b) (fun _ _ => rfl) (fun _ => rfl),
    floatB3_elts (fun o f a b _ => fAdd (hintMode o) f a b) (fun _ _ => rfl) (fun _ => rfl),
    floatB3_elts (fun o f a b _ => fSub (hintMode o) f a b) (fun _ _ => rfl) (fun _ => rfl),
    floatB3_elts (fun o f a b _ => fSub (hintMode o) f a b) (fun _ _ => rfl) (fun _ => rfl),
    floatB3_elts (fun o f a b _ => fMul (hintMode o) f a b) (fun _ _ => rfl) (fun _ => rfl),
    floatB3_elts (fun o f a b _ => fMul (hintMode o) f a b) (fun _ _ => rfl) (fun _ => rfl),
    floatB3_elts (fun o f a b c => fFma (hintMode o) f a b c) (fun _ _ => rfl) (fun _ => rfl),
    floatB3_elts (fun o f a b c => fFma (hintMode o) f a b c) (fun _ _ => rfl) (fun _ => rfl)⟩

/-! ### Scalars and conversions (R259 to R263) -/

theorem scalarOf_eq (fmt : LFmt) (w : Word) : scalarOf fmt w = scalar fmt w := by
  cases fmt <;> simp [scalarOf, scalar, elt]

theorem xField_class (o : EOps) : xField o 0 10 = o.x.toNat % 1024 := by simp [xField]

theorem xField_taper (o : EOps) : xField o 0 4 = o.x.toNat % 16 := by simp [xField]

theorem frnd_runs (fmt : LFmt) : FloatE (.frnd fmt) shFrnd (fun s g o l =>
    let r := fRnd (hintMode o) (fmtOf fmt) (scalar fmt (g.a32 s.free o l))
    (BitVec.ofNat 32 r.1, r.2)) :=
  fun o => floatDoes_of (fun s g l => word16 (fRnd (hintMode o) (fmtOf fmt) (scalarOf fmt (g.a32 s.free o l)))) rfl (fun _ => rfl)
    (fun s g l => by simp only [scalarOf_eq]; rfl)

theorem fscale_runs (fmt : LFmt) : FloatE (.fscale fmt) shFscale (fun s g o l =>
    let r := fScale (hintMode o) (fmtOf fmt) (scalar fmt (g.a32 s.free o l)) (g.b32 s.free o l).toInt
    (BitVec.ofNat 32 r.1, r.2)) :=
  fun o => floatDoes_of
    (fun s g l => word16 (fScale (hintMode o) (fmtOf fmt) (scalarOf fmt (g.a32 s.free o l)) (g.b32 s.free o l).toInt)) rfl
    (fun _ => rfl) (fun s g l => by simp only [scalarOf_eq]; rfl)

theorem fclass_runs (fmt : LFmt) :
    LaneE (.fclass fmt) shFclass (fun s g o l => [BitVec.ofNat 32 (fClass (fmtOf fmt) (scalar fmt (g.a32 s.free o l)))]) := by
  intro o s g c h
  simp only [← scalarOf_eq]
  exact issueC_writes h rfl rfl

theorem fclassPred_runs (fmt : LFmt) : WritesE (.fclassPred fmt) shFclassPred (fun s g o =>
    g.qOut o.d.toNat (g.active shFclassPred o s.free)
      (maskOf (fun l => (fClass (fmtOf fmt) (scalar fmt (g.a32 s.free o l)) &&& (o.x.toNat % 1024)) != 0))) := by
  intro o s g c h
  simp only [← scalarOf_eq, ← xField_class]
  exact issueC_writes h rfl rfl

theorem floatScalars : Parts.FloatScalars :=
  ⟨fun fmt => ⟨frnd_runs fmt, fscale_runs fmt, fclass_runs fmt, fclassPred_runs fmt⟩,
    fun _ _ => floatDoes_of (fun s g l => word16 (fDot2 _ _ (g.a32 s.free _ l) (g.b32 s.free _ l) (g.c32 s.free _ l))) rfl
      (fun _ => rfl) (fun _ _ _ => rfl)⟩

/-- A conversion of A, or of the literal in its place. -/
theorem laneCvt_runs {mk : EOps → Instr} {sh : Shape} (f : EOps → Word → Word × Conds)
    (hx : ∀ o s, exec (mk o) s = laneCvt f {} sh o s) : FloatE mk sh (fun s g o l => f o (g.la32 s.free o l)) :=
  fun o => floatDoes_of (fun s g l => f o (g.la32 s.free o l)) rfl (hx o) (fun _ _ _ => rfl)

/-- A conversion of the registers A and B. -/
theorem laneF_runs {mk : EOps → Instr} {sh : Shape} (f : EOps → Word → Word → Word × Conds)
    (hx : ∀ o s, exec (mk o) s = laneF (fun s g l => f o (g.a32 s.free o l) (g.b32 s.free o l)) {} sh o s) :
    FloatE mk sh (fun s g o l => f o (g.a32 s.free o l) (g.b32 s.free o l)) :=
  fun o => floatDoes_of (fun s g l => f o (g.a32 s.free o l) (g.b32 s.free o l)) rfl (hx o) (fun _ _ _ => rfl)

theorem floatConversions : Parts.FloatConversions := by
  simp only [Parts.FloatConversions, ← xField_taper]
  exact ⟨laneCvt_runs (fun o a => word16 (toF16 fp16 (hintMode o) a)) (fun _ _ => rfl),
    laneCvt_runs (fun o a => word16 (toF16 bf16 (hintMode o) a)) (fun _ _ => rfl),
    laneF_runs (fun _ a _ => fromF16 fp16 a) (fun _ _ => rfl),
    laneF_runs (fun _ a _ => fromF16 bf16 a) (fun _ _ => rfl),
    laneCvt_runs (fun o a => toInt32 (-2 ^ 31) (2 ^ 31 - 1) (hintMode o) a) (fun _ _ => rfl),
    laneCvt_runs (fun o a => toInt32 0 (2 ^ 32 - 1) (hintMode o) a) (fun _ _ => rfl),
    laneCvt_runs (fun o a => fromInt32 (hintMode o) a.toInt) (fun _ _ => rfl),
    laneCvt_runs (fun o a => fromInt32 (hintMode o) a.toNat) (fun _ _ => rfl),
    laneF_runs (fun o a b => cvtPair fp16 (hintMode o) a b) (fun _ _ => rfl),
    laneF_runs (fun o a b => cvtPair bf16 (hintMode o) a b) (fun _ _ => rfl),
    laneCvt_runs (fun o a => toTapered (xField o 0 4) a) (fun _ _ => rfl),
    laneF_runs (fun o a _ => fromTapered (xField o 0 4) a) (fun _ _ => rfl)⟩

/-! ### FCMP (R258) -/

/-- The union of one condition bit over lanes. -/
theorem allConds_bits (ls : List Nat) (nv : Nat → Bool) :
    allConds (ls.map (fun l => (l, (nv l).toNat))) = (decide (∃ l ∈ ls, nv l = true)).toNat := by
  have hfold : ∀ (ls : List Nat) (b : Bool), (ls.map (fun l => (l, (nv l).toNat))).foldl (fun a p => a ||| p.2) b.toNat =
      (b || decide (∃ l ∈ ls, nv l = true)).toNat := by
    intro ls
    induction ls with
    | nil => simp
    | cons l ls ih =>
      intro b
      have hor : b.toNat ||| (nv l).toNat = (b || nv l).toNat := by cases b <;> cases nv l <;> rfl
      rw [List.map_cons, List.foldl_cons, hor, ih, Bool.or_assoc]
      congr 2
      rw [Bool.eq_iff_iff]
      simp
  exact (hfold ls false).trans (by rw [Bool.false_or])

/-- With NV not enabled, one condition bit is recorded and traps nothing. -/
theorem enabledBits_bit {trapen : Word} (h : trapen.toNat / 256 % 2 = 0) (b : Bool) : enabledBits trapen b.toNat = 0 := by
  cases b with
  | false => exact Nat.zero_and _
  | true =>
    rw [enabledBits, Bool.toNat_true, Nat.one_and_eq_mod_two]
    omega

theorem errBits_bit {trapen : Word} (h : trapen.toNat / 256 % 2 = 0) (b : Bool) : errBits trapen b.toNat = b.toNat := by
  cases b with
  | false => exact Nat.zero_and _
  | true =>
    rw [errBits, Bool.toNat_true, Nat.one_and_eq_mod_two]
    omega

/-- With NV not enabled, an instruction that raises NV alone records it and has its lane predicate. -/
theorem okFp_qOut {s : State} {g : Group} {raised : List (Nat × Nat)} {nv : Bool} (hall : allConds raised = nv.toNat)
    (hen : g.trap.trapen.toNat / 256 % 2 = 0) (n : Nat) (m v : Half) :
    okFp s { g with wait := .none } raised (fun g' => { s := s, g := g', outs := g'.qOut n m v }) =
      okOuts s { g.setErr (if nv then 0x100 else 0) with wait := .none } (g.qOut n m v) := by
  have hquiet : enabledBits g.trap.trapen (allConds raised) = 0 := by rw [hall, enabledBits_bit hen]
  refine (okFp_quiet _ (by exact hquiet)).trans ?_
  rw [Group.recorded, hall, errBits_bit hen]
  cases nv <;> rfl

theorem floatCompare : Parts.FloatCompare := by
  intro cc fmt o s g c h hen val r nv
  refine issueC_changes (g' := g.setErr (if nv then 0x100 else 0)) h rfl ?_ rfl rfl
  have hr : (fun l => fCompare cc ((fmtOf fmt).decode (scalarOf fmt (g.a32 s.free o l)))
      ((fmtOf fmt).decode (scalarOf fmt (g.b32 s.free o l)))) = r := by
    simp only [scalarOf_eq]
    rfl
  have hall := congrArg (fun f : Nat → Bool × Bool =>
    allConds ((lanesOf (g.active shFcmp o s.free)).map (fun l => (l, (f l).2.toNat)))) hr
  have hval := congrArg (fun f : Nat → Bool × Bool => okOuts s { g.setErr (if nv then 0x100 else 0) with wait := .none }
    (g.qOut o.d.toNat (g.active shFcmp o s.free) (maskOf (fun l => (f l).1)))) hr
  exact (okFp_qOut (hall.trans (allConds_bits _ _)) hen _ _ _).trans hval

/-- Settles O23. -/
theorem floatScalarsAndConversions : Obligations.FloatScalarsAndConversions := ⟨floatScalars, floatCompare, floatConversions⟩

end Sys2Proof.Machine
end

section
/-!
PROOFS. Round trips of the number formats (R129 to R135), and FSPEC (R264).
-/

namespace Sys2Proof.Machine

/-! ### IEEE formats -/

namespace FFmt

variable (f : FFmt)

/-- A pattern is its sign, its exponent field and its fraction field. -/
theorem pattern_fields {p : Nat} (hp : p < 2 ^ f.width) :
    p = f.zeroBits (p.testBit (f.width - 1)) + p / 2 ^ f.fb % 2 ^ f.eb * 2 ^ f.fb + p % 2 ^ f.fb := by
  have hwidth : f.width - 1 = f.fb + f.eb := by unfold width; omega
  have hsign : f.zeroBits (p.testBit (f.width - 1)) = p / 2 ^ f.fb / 2 ^ f.eb * (2 ^ f.fb * 2 ^ f.eb) := by
    have htop : p / 2 ^ f.fb / 2 ^ f.eb < 2 := by
      rw [Nat.div_div_eq_div_mul, ← Nat.pow_add]
      refine Nat.div_lt_of_lt_mul ?_
      rwa [← Nat.pow_succ, show (f.fb + f.eb).succ = f.width by unfold width; omega]
    have hbit : p.testBit (f.fb + f.eb) = decide (p / 2 ^ f.fb / 2 ^ f.eb = 1) := by
      rw [Nat.testBit_eq_decide_div_mod_eq, Nat.pow_add, ← Nat.div_div_eq_div_mul, Nat.mod_eq_of_lt htop]
    rw [hwidth, hbit, zeroBits, hwidth, Nat.pow_add]
    rcases Nat.lt_or_ge (p / 2 ^ f.fb / 2 ^ f.eb) 1 with h | h
    · have h0 : p / 2 ^ f.fb / 2 ^ f.eb = 0 := Nat.lt_one_iff.mp h
      simp [h0]
    · have h1 : p / 2 ^ f.fb / 2 ^ f.eb = 1 := le_antisymm (Nat.lt_succ_iff.mp htop) h
      simp [h1]
  have hlow := Nat.div_add_mod p (2 ^ f.fb)
  have hhigh := Nat.div_add_mod (p / 2 ^ f.fb) (2 ^ f.eb)
  rw [hsign]
  calc p = 2 ^ f.fb * (2 ^ f.eb * (p / 2 ^ f.fb / 2 ^ f.eb) + p / 2 ^ f.fb % 2 ^ f.eb) + p % 2 ^ f.fb := by rw [hhigh, hlow]
    _ = _ := by ring

theorem encode_inf (s : Bool) : f.encode (.inf s) = f.zeroBits s + (2 ^ f.eb - 1) * 2 ^ f.fb := rfl

/-- A number below the normal range keeps its fraction. -/
theorem encode_subnormal (s : Bool) {fr : Nat} (h0 : fr ≠ 0) (hfr : fr < 2 ^ f.fb) :
    f.encode (.fin s fr (f.emin - f.fb)) = f.zeroBits s + fr := by
  have hlog : fr.log2 < f.fb := (Nat.log2_lt h0).mpr hfr
  have hsmall : flog2 fr (f.emin - f.fb) < f.emin := by unfold flog2; omega
  simp only [encode, hsmall, if_true, XReal.scaled]
  simp [pow2]

/-- A normal number keeps its exponent and its fraction. -/
theorem encode_normal (s : Bool) {fr ex : Nat} (hex : ex ≠ 0) (hfr : fr < 2 ^ f.fb) :
    f.encode (.fin s (2 ^ f.fb + fr) ((ex : Int) - f.bias - f.fb)) = f.zeroBits s + ex * 2 ^ f.fb + fr := by
  have hlog : (2 ^ f.fb + fr).log2 = f.fb := by
    refine (Nat.log2_eq_iff (by omega)).mpr ⟨by omega, ?_⟩
    rw [Nat.pow_succ]
    omega
  have hl : flog2 (2 ^ f.fb + fr) ((ex : Int) - f.bias - f.fb) = ex - f.bias := by unfold flog2; rw [hlog]; omega
  have hnormal : ¬ ((ex : Int) - f.bias < f.emin) := by unfold emin; omega
  have hexp : ((ex : Int) - f.bias + f.bias).toNat = ex := by omega
  have hfrac : (2 ^ f.fb + fr) % 2 ^ f.fb = fr := by rw [Nat.add_mod_left, Nat.mod_eq_of_lt hfr]
  simp only [encode, hl, hnormal, if_false, le_refl, if_true, hexp, sub_self, pow2, Int.toNat_zero, pow_zero, mul_one, hfrac]

/-- R129, R131: encoding what a pattern reads as gives the pattern, or the canonical NaN. -/
theorem encode_decode {p : Nat} (hp : p < 2 ^ f.width) : f.encode (f.decode p) = if (f.decode p).isNan then f.cnan else p := by
  have hfr : p % 2 ^ f.fb < 2 ^ f.fb := Nat.mod_lt _ (Nat.two_pow_pos _)
  have hfields := f.pattern_fields hp
  by_cases hmax : p / 2 ^ f.fb % 2 ^ f.eb = 2 ^ f.eb - 1
  · by_cases hzero : p % 2 ^ f.fb = 0
    · rw [hmax, hzero] at hfields
      have hd : f.decode p = .inf (p.testBit (f.width - 1)) := by simp only [decode, hmax, hzero, if_true]
      rw [hd, encode_inf]
      exact hfields.symm
    · have hd : f.decode p = .nan (!(p % 2 ^ f.fb).testBit (f.fb - 1)) := by simp only [decode, hmax, hzero, if_true, if_false]
      rw [hd]
      rfl
  · by_cases hex : p / 2 ^ f.fb % 2 ^ f.eb = 0
    · by_cases hzero : p % 2 ^ f.fb = 0
      · rw [hex, hzero] at hfields
        have hd : f.decode p = .zero (p.testBit (f.width - 1)) := by
          rw [hex] at hmax
          simp only [decode, hex, hmax, hzero, if_true, if_false]
        rw [hd]
        simpa [XReal.isNan, encode] using hfields.symm
      · have hd : f.decode p = .fin (p.testBit (f.width - 1)) (p % 2 ^ f.fb) (f.emin - f.fb) := by
          rw [hex] at hmax
          simp only [decode, hex, hmax, hzero, if_true, if_false]
        rw [hex, Nat.zero_mul, Nat.add_zero] at hfields
        rw [hd, f.encode_subnormal _ hzero hfr]
        exact hfields.symm
    · have hd : f.decode p = .fin (p.testBit (f.width - 1)) (2 ^ f.fb + p % 2 ^ f.fb)
          (((p / 2 ^ f.fb % 2 ^ f.eb : Nat) : Int) - f.bias - f.fb) := by
        simp only [decode, hmax, hex, if_false]
      rw [hd, f.encode_normal _ hex hfr]
      exact hfields.symm

end FFmt

/-! ### Tapered formats -/

/-- The patterns of 8 bits in rows of 64. -/
theorem taperedEncode_rows : ∀ e ∈ ([(8, 0), (8, 1), (8, 2)] : List (Nat × Nat)), ∀ hi < 4, ∀ lo < 64,
    taperedEncode (taperedDecode (64 * hi + lo) e.1 e.2) e.1 e.2 = 64 * hi + lo := by decide

/-- R133, R135: the tapered formats of 6 and 8 bits. -/
theorem taperedEncode_decode : ∀ e ∈ ([(6, 0), (6, 1), (8, 0), (8, 1), (8, 2)] : List (Nat × Nat)), ∀ p < 2 ^ e.1,
    taperedEncode (taperedDecode p e.1 e.2) e.1 e.2 = p := by
  have hsix : ∀ e ∈ ([(6, 0), (6, 1)] : List (Nat × Nat)), ∀ p < 2 ^ e.1,
      taperedEncode (taperedDecode p e.1 e.2) e.1 e.2 = p := by decide
  have height : ∀ e ∈ ([(8, 0), (8, 1), (8, 2)] : List (Nat × Nat)), ∀ p < 256,
      taperedEncode (taperedDecode p e.1 e.2) e.1 e.2 = p := by
    intro e he p hp
    have h := taperedEncode_rows e he (p / 64) (by omega) (p % 64) (Nat.mod_lt _ (by decide))
    rwa [Nat.div_add_mod] at h
  simp only [List.mem_cons, List.not_mem_nil, or_false, forall_eq_or_imp, forall_eq] at hsix height ⊢
  exact ⟨hsix.1, hsix.2, height⟩

/-- Settles O24. -/
theorem formatRoundTrips : Obligations.FormatRoundTrips :=
  ⟨fun f _ _ hp => f.encode_decode hp, taperedEncode_decode⟩

end Sys2Proof.Machine
end

section
/-!
PROOFS. The start of a long-latency instruction (R103), and FSPEC (R264).
-/

namespace Sys2Proof.Machine

/-- R103: an instruction whose operation is left pending is counted by the flag of its place in the clause. -/
theorem issueC_starts {ck : Checks} {sh : Shape} {o : EOps} {s s' : State} {g g' : Group} {c : Clause} (h : Runs ck sh o s g c)
    (hk : ck.closes = false) {body : State → Group → Res Eff} {p : Pend}
    (hb : body s { g with wait := .none } = okPend s' { g' with wait := .none } p)
    (hc : g'.clause = g.clause) (he : g'.ecc = g.ecc) :
    issueC ck sh o body s = .next (s'.with (g'.started c p)) := by
  rw [issueC_runs h, hb]
  simp only [issueEnd, okPend, applyEff, hk, Bool.false_eq_true, if_false]
  by_cases hf : c.llFlag < 12
  · have hret := retire_wrote (g := { g' with
        wait := .none
        pend := g'.pend ++ [{ p with id := g'.seq, seq := g'.seq, flag := c.llFlag, addr := c.here }]
        flags := g'.flags.store 0 c.llFlag (g'.flag c.llFlag + 1) })
      (hc.trans h.opened) (he.trans h.clean) rfl []
    simp only [Group.putFlag, Group.flag, hf, if_true] at hret ⊢
    rw [hret]
    simp only [Group.started, Group.flag, hf, if_true]
    rfl
  · have hret := retire_wrote (g := { g' with
        wait := .none
        pend := g'.pend ++ [{ p with id := g'.seq, seq := g'.seq, flag := c.llFlag, addr := c.here }] })
      (hc.trans h.opened) (he.trans h.clean) rfl []
    simp only [hf, if_false]
    rw [hret]
    simp only [Group.started, hf, if_false]
    rfl

/-- R264: FSPEC brings the value and the conditions of its function in each active lane. -/
theorem fspec_starts {fn : SpecFn} {o : EOps} {s : State} {g : Group} {c : Clause} (h : Runs {} shFspecRcp o s g c) :
    fspec fn {} shFspecRcp o s = .next (s.with (g.started c {
      id := 0
      dests := [.v o.d.toNat]
      lanes := g.active shFspecRcp o s.free
      outs := outsOf o (g.active shFspecRcp o s.free) (fun l => [(fspecVal fn (s.free * 16 + l) (g.specArg s.free o l)).1])
      fp := (lanesOf (g.active shFspecRcp o s.free)).map
        (fun l => (l, (fspecVal fn (s.free * 16 + l) (g.specArg s.free o l)).2.bits.toNat)) })) :=
  issueC_starts h rfl rfl rfl rfl

/-- Settles O25: the eight functions are one operation; the table's values at special operands. -/
theorem specialFunctions : Obligations.SpecialFunctions := by
  refine ⟨fun mk fn hm o s g c h => ?_, fun free => ⟨rfl, rfl, rfl, rfl, rfl, rfl, rfl, rfl, rfl, rfl, rfl, rfl⟩⟩
  have hx : exec (mk o) s = fspec fn {} shFspecRcp o s := by
    simp only [List.mem_cons, List.not_mem_nil, or_false, Prod.mk.injEq] at hm
    rcases hm with ⟨rfl, rfl⟩ | ⟨rfl, rfl⟩ | ⟨rfl, rfl⟩ | ⟨rfl, rfl⟩ | ⟨rfl, rfl⟩ | ⟨rfl, rfl⟩ | ⟨rfl, rfl⟩ | ⟨rfl, rfl⟩ <;> rfl
  exact hx.trans (fspec_starts h)

end Sys2Proof.Machine
end

section
/-!
PROOFS. The precision engine's instructions on registers (R265 to R283): one rule for the shell of VP instructions, and the equation of
each operation.
-/

namespace Sys2Proof.Machine

/-! ### The shell of VP instructions -/

/-- R270: the length that a result is rounded at. -/
theorem resLen_eq (g : Group) (l : Nat) : g.resLen l = (min (g.precP l) g.lmax, decide (g.lmax < g.precP l)) := by
  unfold Group.resLen
  split
  · next h => simp [h, Nat.min_eq_right (Nat.le_of_lt h)]
  · next h => simp [h, Nat.min_eq_left (Nat.le_of_not_lt h)]

/-- R270, R271, R274: a rounded result. -/
theorem vpResult_eq (g : Group) (o : EOps) (l : Nat) (x : XReal × Conds) :
    vpResult g o l (g.resLen l).1 (g.resLen l).2 x = vpRounded g o l x := by
  unfold Group.resLen vpRounded
  by_cases h : g.lmax < g.precP l <;> simp only [h, if_true, if_false, decide_true, decide_false, Bool.false_eq_true] <;> rfl

/-- The same where the exact value is computed to the length of the result. -/
theorem vpResult_len (g : Group) (o : EOps) (l : Nat) (x : Nat → XReal × Conds) :
    vpResult g o l (g.resLen l).1 (g.resLen l).2 (x (g.resLen l).1) = vpRounded g o l (x (min (g.precP l) g.lmax)) := by
  rw [vpResult_eq, resLen_eq]

/-- What a VP instruction leaves pending: the lanes' results, or the guard's trap (R268, R272, R273). -/
def vpPend (sh : Shape) (o : EOps) (f : Nat → VpLane) (g : Group) (m : Half) : Pend :=
  let trips := maskOf (fun l => m.getLsbD l && (f l).trip)
  let p : Pend := { id := 0, dests := writesOf sh o, lanes := m, vp := true }
  if trips ≠ 0 then { p with cause := some (1, { cause := causePrec, sub := 3, addr := pcOf g, lanes := g.fold trips }) }
  else { p with
    outs := (lanesOf m).flatMap (fun l => (f l).outs)
    qouts := if sh.d = .qd then [(o.d.toNat, maskOf (fun l => m.getLsbD l && (f l).bit))] else []
    vpbits := (lanesOf m).map (fun l => (l, (f l).bits)) }

/-- Where the lanes' sources, capacity and the engine's room are in order, a VP instruction starts. -/
theorem vpIssue_starts {srcs : List (BitVec 10)} {vpDst : Bool} {f : State → Group → Nat → VpLane} {sh : Shape} {o : EOps}
    {s : State} {g : Group} {c : Clause} (h : Runs {} sh o s g c) (hr : VpReady s g (g.active sh o s.free) srcs vpDst) :
    vpIssue srcs vpDst f {} sh o s =
      .next (s.with (g.started c (vpPend sh o (f s { g with wait := .none }) { g with wait := .none } (g.active sh o s.free)))) := by
  have hheads := hr.heads
  have hcap : (if vpDst then maskOf (fun l => (g.active sh o s.free).getLsbD l && decide (g.lmax < g.precP l) && !g.precSat l) else 0) = 0 := by
    cases vpDst with
    | true => exact hr.fits rfl
    | false => rfl
  refine issueC_starts h rfl ?_ rfl rfl
  refine (if_neg (not_not.mpr hheads)).trans ((if_neg (not_not.mpr hcap)).trans ((if_neg (ne_true_of_eq_false hr.room)).trans ?_))
  unfold vpPend
  refine congrArg (okPend s _) ?_
  refine if_congr Iff.rfl rfl ?_
  cases hd : sh.d <;> rfl

/-- The rule of every VP instruction: its lanes compute what its function says. -/
theorem vpDoes_of {i : Instr} {srcs : List (BitVec 10)} {vpDst : Bool} {f : State → Group → Nat → VpLane}
    (f' : State → Group → Nat → VpLane) {sh : Shape} {o : EOps} (hx : ∀ s, exec i s = vpIssue srcs vpDst f' {} sh o s)
    (hf : ∀ s (g : Group) l, f' s { g with wait := .none } l = f s g l) : VpDoes i sh o srcs vpDst f := by
  intro s g c h hr m trips p
  have hfun : f' s { g with wait := .none } = f s g := funext (hf s g)
  rw [hx, vpIssue_starts h hr, hfun]
  refine ⟨fun ht => ?_, fun ht => ?_⟩
  · rw [vpPend, if_neg (not_not.mpr ht)]
  · rw [vpPend, if_pos ht, h.pcOf_eq]
    rfl

/-! ### VP arithmetic (R280, R283) -/

/-- Settles O26: each instruction is the shell with the exact value of its operation, rounded once. -/
theorem precisionArithmetic : Obligations.PrecisionArithmetic := by
  intro o a b z
  refine ⟨vpDoes_of _ (fun _ => rfl) fun s g l => ?_, vpDoes_of _ (fun _ => rfl) fun s g l => ?_,
    vpDoes_of _ (fun _ => rfl) fun s g l => ?_, vpDoes_of _ (fun _ => rfl) fun s g l => ?_,
    vpDoes_of _ (fun _ => rfl) fun s g l => ?_, vpDoes_of _ (fun _ => rfl) fun s g l => ?_,
    vpDoes_of _ (fun _ => rfl) fun s g l => ?_, fun cc => vpDoes_of _ (fun _ => rfl) fun s g l => ?_,
    vpDoes_of _ (fun _ => rfl) fun s g l => ?_, vpDoes_of _ (fun _ => rfl) fun s g l => ?_,
    vpDoes_of _ (fun _ => rfl) fun s g l => ?_⟩
  · simp only [vpResult_eq]; rfl
  · simp only [vpResult_eq]; rfl
  · simp only [vpResult_eq]; rfl
  · simp only [vpResult_eq]; rfl
  · simp only [vpResult_eq]; rfl
  · exact vpResult_len g o l fun n => vpDivR n (a s g l) (b s g l)
  · exact vpResult_len g o l fun n => vpSqrtR n (a s g l)
  · rfl
  · rfl
  · rfl
  · rfl

/-! ### Conversions (R281, R282) -/

/-- R281: the nearest integer of a finite value; the other values as they are. -/
theorem vprndInt_lane (g : Group) (o : EOps) (l : Nat) (x : XReal) :
    (match x with
      | .fin n m e =>
        let y := roundUnit (.fin n m e) (max 0 (flog2 m e - (g.resLen l).1)) (g.vpMode o l)
        let v := roundVP y (g.resLen l).1 (g.vpMode o l)
        ({ outs := g.vpOuts o.d.toNat l v.1, bits := vpBits { nx := !(XReal.eq y (.fin n m e)) } (g.resLen l).2 } : VpLane)
      | x => vpResult g o l (g.resLen l).1 (g.resLen l).2 (x, { nv := x.isSnan })) =
    (match x with
      | .fin n m e =>
        let y := roundUnit (.fin n m e) (max 0 (flog2 m e - (min (g.precP l) g.lmax : Nat))) (g.vpMode o l)
        { outs := g.vpOuts o.d.toNat l (roundVP y (min (g.precP l) g.lmax) (g.vpMode o l)).1
          bits := vpBits { nx := !(XReal.eq y (.fin n m e)) } (decide (g.lmax < g.precP l)) }
      | x => vpRounded g o l (x, { nv := x.isSnan })) := by
  cases x with
  | fin n m e => simp only [resLen_eq]
  | nan q => exact vpResult_eq ..
  | inf q => exact vpResult_eq ..
  | zero q => exact vpResult_eq ..

theorem xField_len (o : EOps) : xField o 0 8 = o.x.toNat % 256 := xField_byte o

theorem elt_zero (w : Word) : elt 0 w = w.toNat % 65536 := by simp [elt]

/-- R282: what a value becomes as T16e1. -/
theorem vpToT16_eq (x : XReal) : vpToT16 x = ([BitVec.ofNat 32 (taperedEncode x 16 1)],
    match x with
    | .nan _ => { nv := true }
    | .inf _ => { nv := true }
    | x => { nx := !(XReal.eq (taperedDecode (taperedEncode x 16 1) 16 1) x) }) := by
  cases x <;> rfl

theorem precisionConversions : Parts.PrecisionConversions := by
  intro o a into
  refine ⟨vpDoes_of _ (fun _ => rfl) fun s g l => ?_, vpDoes_of _ (fun _ => rfl) fun s g l => ?_,
    vpDoes_of _ (fun _ => rfl) fun s g l => ?_, vpDoes_of _ (fun _ => rfl) fun s g l => ?_,
    vpDoes_of _ (fun _ => rfl) fun s g l => ?_, vpDoes_of _ (fun _ => rfl) fun s g l => ?_,
    vpDoes_of _ (fun _ => rfl) fun s g l => ?_, vpDoes_of _ (fun _ => rfl) fun s g l => ?_,
    vpDoes_of _ (fun _ => rfl) fun s g l => ?_, vpDoes_of _ (fun _ => rfl) fun s g l => ?_⟩
  · exact vprndInt_lane g o l (a s g l)
  · simp only [resLen_eq, xField_len]; rfl
  · exact vpResult_eq g o l (into (fp32.decode (g.a32 s.free o l).toNat))
  · exact vpResult_eq g o l (into (fp64.decode (g.a64 s.free o l).toNat))
  · exact vpResult_eq g o l (XReal.ofInt (g.a64 s.free o l).toInt 0 false, {})
  · simp only [elt_zero]
    exact vpResult_eq g o l (taperedDecode ((g.a32 s.free o l).toNat % 65536) 16 1, {})
  · rfl
  · rfl
  · rfl
  · simp only [vpToT16_eq]; rfl

/-! ### VPREC and VPGET (R265, R278, R279) -/

theorem xField_eq (o : EOps) (lo len : Nat) : xField o lo len = o.x.toNat / 2 ^ lo % 2 ^ len := by
  rw [xField, BitVec.extractLsb'_toNat, Nat.shiftRight_eq_div_pow]

/-- What VPREC does to one lane: the fields that it writes, corrected as R265 says. -/
def vprecLane (setP setMode : Bool) (s : State) (o : EOps) (g : Group) (l : Nat) : Group :=
  g.putPrec l (BitVec.ofNat 32
    ((if setMode then o.x.toNat / 16 % 256 * 4096 + o.x.toNat / 8 % 2 * 2048 + o.x.toNat % 8 * 256
      else (g.precOf l).toNat / 256 % 4096 * 256) +
     (if setP then (if 224 < (g.b32 s.free o l).toNat then 255 else (g.b32 s.free o l).toNat) else (g.precOf l).toNat % 256)))

theorem vprecLane_wait (setP setMode : Bool) (s : State) (o : EOps) (g : Group) (l : Nat) :
    vprecLane setP setMode s o { g with wait := .none } l = { vprecLane setP setMode s o g l with wait := .none } := by
  rw [vprecLane, vprecLane, Group.putPrec_eq, Group.putPrec_eq]
  rfl

/-- R278: VPREC writes its fields of %prec in the active lanes. -/
theorem vprec_runs {setP setMode : Bool} {sh : Shape} {o : EOps} {s : State} {g : Group} {c : Clause} (h : Runs {} sh o s g c) :
    vprec setP setMode {} sh o s =
      .next (s.with (((lanesOf (g.active sh o s.free)).foldl (vprecLane setP setMode s o) g).wrote c [])) := by
  have hfields : (o.x.toNat / 16 % 256 * 4096 + o.x.toNat / 8 % 2 * 2048 + o.x.toNat % 8 * 256) =
      xField o 4 8 * 4096 + xField o 3 1 * 2048 + xField o 0 3 * 256 := by
    simp only [xField_eq, Nat.reducePow, Nat.div_one]
  have hlane : vprecLane setP setMode s o = fun g l => g.putPrec l (BitVec.ofNat 32
      ((if setMode then xField o 4 8 * 4096 + xField o 3 1 * 2048 + xField o 0 3 * 256
        else (g.precOf l).toNat / 256 % 4096 * 256) + (if setP then vpPField (g.b32 s.free o l) else (g.precOf l).toNat % 256))) := by
    simp only [← hfields]
    rfl
  refine issueC_changes h rfl ?_
    (foldl_keeps Group.clause (fun g l => ?_) _ g) (foldl_keeps Group.ecc (fun g l => ?_) _ g)
  · rw [← foldl_wait (vprecLane_wait setP setMode s o), hlane]
    rfl
  · rw [vprecLane, Group.putPrec_eq]
  · rw [vprecLane, Group.putPrec_eq]

/-- R279: VPGET.SLICE reads the slice that X names. -/
theorem vpgetSlice_runs {o : EOps} {s : State} {g : Group} {c : Clause}
    (h : Runs { illegal := fun _ g => decide (g.info.vpc ≤ xField o 0 3) } shVpgetSlice o s g c) :
    exec (.vpgetSlice o) s = .next (s.with (g.wrote c (laneOutsE shVpgetSlice
      (fun s g o l => [g.vpWord s.free o.a.toNat (xField o 0 3) l]) s g o))) :=
  issueC_writes h rfl rfl

theorem precisionControl : Parts.PrecisionControl := by
  simp only [Parts.PrecisionControl]
  refine ⟨fun o s g c h => vprec_runs h, fun o s g c h => vprec_runs h, fun o s g c h => vprec_runs h,
    fun o s g c h => issueC_writes h rfl rfl, fun o s g c h => ?_⟩
  rw [← xField_kx] at h
  have := vpgetSlice_runs h
  simp only [xField_kx] at this
  exact this

/-- Settles O27. -/
theorem precisionConversionsAndControl : Obligations.PrecisionConversionsAndControl := ⟨precisionConversions, precisionControl⟩

end Sys2Proof.Machine
end

section
/-!
PROOFS. The words of the spec, the registers of a package by their offsets, what reset leaves in them, and the owl line.
-/

namespace Sys2Proof.Machine

/-- Settles O50: the decoder computes each of the words. -/
theorem wordsDecode : Obligations.WordsDecode := by
  unfold Obligations.WordsDecode
  repeat' apply And.intro
  all_goals rfl

/-! ### Offsets of registers (R210) -/

theorem instAt_of {off base stride n k o : Nat} (hk : k < n) (ho : o < stride) (h : off = base + stride * k + o) :
    instAt off base stride n = some (k, o) := by
  have hlt : off < base + stride * n := by
    have : stride * (k + 1) ≤ stride * n := Nat.mul_le_mul_left _ hk
    rw [Nat.mul_succ] at this
    omega
  have hsub : off - base = o + stride * k := by omega
  rw [instAt, if_pos ⟨by omega, hlt⟩, hsub, Nat.add_mul_div_left _ _ (by omega), Nat.add_mul_mod_self_left,
    Nat.div_eq_of_lt ho, Nat.mod_eq_of_lt ho, Nat.zero_add]

theorem instAt_outside {off base stride n : Nat} (h : off < base ∨ base + stride * n ≤ off) : instAt off base stride n = none :=
  if_neg (by omega)

/-- Every register has 32 or 64 bits. -/
theorem regAt_width {off w : Nat} {r : Reg} (h : regAt off = some (r, w)) : w = 32 ∨ w = 64 := by
  unfold regAt at h
  repeat' split at h
  all_goals cases h
  all_goals decide

theorem regAt_keyControl {k : Nat} (hk : k < 8192) : regAt (0x200000 + 0x80 * k) = some (.keyControl k, 32) := by
  rw [regAt, instAt_outside (by omega), instAt_of (k := k) (o := 0) hk (by omega) (Nat.add_zero _).symm]
  rfl

theorem regAt_keyMaterial {k w : Nat} (hk : k < 8192) (hw : w < 16) :
    regAt (0x200020 + 0x80 * k + 4 * w) = some (.keyMaterial k w, 32) := by
  rw [regAt, instAt_outside (by omega), instAt_of (k := k) (o := 4 * w + 32) hk (by omega) (by omega)]
  refine (if_pos (by omega)).trans ?_
  rw [show (4 * w + 32 - 32) / 4 = w by omega]

theorem regAt_ctn {c : Nat} (hc : c < 384) (o : Nat) (ho : o < 0x20) :
    regAt (0x400000 + 0x4000 * (c / 96) + 0x20 * (c % 96) + o) =
      if o = 0 then some (.ctnCnt c, 64) else if o = 8 then some (.ctnLog c, 32) else none := by
  have hat := instAt_of (off := 0x400000 + 0x4000 * (c / 96) + 0x20 * (c % 96) + o) (base := 0x400000) (stride := 0x4000) (n := 4)
    (k := c / 96) (o := 0x20 * (c % 96) + o) (by omega) (by omega) (by omega)
  rw [regAt, instAt_outside (by omega), instAt_outside (by omega), instAt_outside (by omega), hat]
  refine (if_neg (by omega)).trans ?_
  have hmod : (0x20 * (c % 96) + o) % 0x20 = o := by omega
  have hcore : 96 * (c / 96) + (0x20 * (c % 96) + o) / 0x20 = c := by omega
  simp only [hmod, hcore]

theorem regAt_port {p : Nat} (hp : p < 24) :
    regAt (0x500000 + 0x40 * p) = some (.portStatus p, 32) ∧ regAt (0x500000 + 0x40 * p + 4) = some (.portArb p, 32) := by
  constructor
  · rw [regAt, instAt_outside (by omega), instAt_outside (by omega), instAt_outside (by omega), instAt_outside (by omega),
      instAt_of (k := p) (o := 0) hp (by omega) (Nat.add_zero _).symm]
    rfl
  · rw [regAt, instAt_outside (by omega), instAt_outside (by omega), instAt_outside (by omega), instAt_outside (by omega),
      instAt_of (k := p) (o := 4) hp (by omega) rfl]
    rfl

/-- The offset o of the block of ASID a. -/
theorem regAt_asidBlock {a : Nat} (ha : a < 4096) (o : Nat) (ho : o < 0x80) (ho' : o ≠ 0) (h8 : o % 8 = 0) :
    regAt (0x700000 + 0x80 * a + o) =
      if o < 0x28 then some (.root a ((o - 8) / 8), 64) else if o < 0x48 then some (.broot a ((o - 0x28) / 8), 64) else none := by
  rw [regAt, instAt_outside (by omega), instAt_outside (by omega), instAt_outside (by omega), instAt_outside (by omega),
    instAt_outside (by omega), instAt_outside (by omega), instAt_outside (by omega), instAt_outside (by omega),
    instAt_of (k := a) (o := o) ha ho rfl]
  obtain ⟨o, rfl⟩ : ∃ m, o = m + 1 := ⟨o - 1, by omega⟩
  exact if_neg (by omega)

theorem regAt_asid {a : Nat} (ha : a < 4096) : regAt (0x700000 + 0x80 * a) = some (.asid a, 32) := by
  rw [regAt, instAt_outside (by omega), instAt_outside (by omega), instAt_outside (by omega), instAt_outside (by omega),
    instAt_outside (by omega), instAt_outside (by omega), instAt_outside (by omega), instAt_outside (by omega),
    instAt_of (k := a) (o := 0) ha (by omega) (Nat.add_zero _).symm]
  rfl

theorem regAt_root {a d : Nat} (ha : a < 4096) (hd : d < 4) : regAt (0x700008 + 0x80 * a + 8 * d) = some (.root a d, 64) := by
  rw [show 0x700008 + 0x80 * a + 8 * d = 0x700000 + 0x80 * a + (8 * d + 8) by omega,
    regAt_asidBlock ha _ (by omega) (by omega) (by omega), if_pos (by omega), show (8 * d + 8 - 8) / 8 = d by omega]

theorem regAt_broot {a d : Nat} (ha : a < 4096) (hd : d < 4) : regAt (0x700028 + 0x80 * a + 8 * d) = some (.broot a d, 64) := by
  rw [show 0x700028 + 0x80 * a + 8 * d = 0x700000 + 0x80 * a + (8 * d + 0x28) by omega,
    regAt_asidBlock ha _ (by omega) (by omega) (by omega), if_neg (by omega), if_pos (by omega),
    show (8 * d + 0x28 - 0x28) / 8 = d by omega]

theorem regAt_arbiter {d : Nat} (hd : d < 4) : regAt (0x100000 + 0x1000 * d) = some (.arbiter d, 32) := by
  rw [regAt, instAt_of (k := d) (o := 0) hd (by omega) (Nat.add_zero _).symm]
  rfl

theorem regAt_transControl {d : Nat} (hd : d < 4) : regAt (0x600000 + 0x1000 * d) = some (.transControl d, 32) := by
  rw [regAt, instAt_outside (by omega), instAt_outside (by omega), instAt_outside (by omega), instAt_outside (by omega),
    instAt_outside (by omega), instAt_outside (by omega), instAt_of (k := d) (o := 0) hd (by omega) (Nat.add_zero _).symm]
  rfl

theorem regAt_ramp : regAt 0x108000 = some (.ramp, 32) := rfl

theorem regAt_snap : regAt 0x300000 = some (.snapControl, 32) ∧ regAt 0x300004 = some (.snapTag, 32) := ⟨rfl, rfl⟩

theorem regRead_of {off w : Nat} {r : Reg} (h : regAt off = some (r, w)) (s : State) (pkg : Nat) :
    regRead s pkg off w = r.read s pkg := by
  rw [regRead, h]
  exact if_pos rfl

/-- A write of the register's own width; one of 32 bits takes the value's lower half. -/
theorem regWrite_of {off w : Nat} {r : Reg} (h : regAt off = some (r, w)) (s : State) (pkg : Nat) (v : Dword) :
    regWrite s pkg false off w v = r.write s pkg (v &&& BitVec.ofNat 64 (2 ^ w - 1)) := by
  have hv : (if w = 32 then (v.setWidth 32).setWidth 64 else v) = v &&& BitVec.ofNat 64 (2 ^ w - 1) := by
    rcases regAt_width h with rfl | rfl
    · refine BitVec.eq_of_toNat_eq ?_
      simp [Nat.and_two_pow_sub_one_eq_mod (n := 32)]
      omega
    · exact (BitVec.and_allOnes (x := v)).symm
  rw [regWrite, h]
  refine (if_pos (by simp)).trans ?_
  rw [hv]

theorem regWrite_otherWidth {off w width : Nat} {r : Reg} (h : regAt off = some (r, w)) (hw : width ≠ w) (s : State) (pkg : Nat)
    (v : Dword) : regWrite s pkg false off width v = s := by
  rw [regWrite, h]
  exact if_neg (by simp [Ne.symm hw])

theorem regWrite_den (s : State) (pkg off width : Nat) (v : Dword) : regWrite s pkg true off width v = s := by
  rw [regWrite]
  split
  · exact if_neg (by simp)
  · rfl

theorem reset_die (k : Nat) : State.reset.die k = {} := rfl
theorem reset_pkg (k : Nat) : State.reset.pkg k = {} := rfl
theorem reset_slot (pkg k : Nat) : State.reset.slot pkg k = { en := k == 0 } := rfl
theorem reset_snap (pkg : Nat) : State.reset.snap pkg = {} := rfl
theorem reset_core (k : Nat) : State.reset.core k = { cyc := 0 - 0 } := rfl
theorem reset_port (pkg p : Nat) : State.reset.port pkg p = {} := rfl
theorem reset_asid (pkg a : Nat) : State.reset.asid pkg a = {} := rfl

/-- Settles O59: each register is read at its offset, and what reset leaves in it computes. -/
theorem resetState : Obligations.ResetState := by
  unfold Obligations.ResetState
  refine ⟨rfl, rfl, rfl, fun pkg d hd => ?_, fun pkg => ?_, fun pkg => ?_, fun pkg k hk hk' => ?_, fun pkg => ⟨?_, ?_⟩,
    fun pkg c hc => ⟨?_, ?_⟩, fun pkg p hp => ⟨?_, ?_⟩, fun pkg d hd => ?_, fun pkg a ha => ⟨?_, fun d hd => ⟨?_, ?_⟩⟩,
    fun pkg => ⟨rfl, rfl, rfl⟩, fun die => ⟨rfl, rfl⟩⟩
  · simp [regRead_of (regAt_arbiter hd), Reg.read, reset_die]
  · simp [regRead_of regAt_ramp, Reg.read, reset_pkg]
  · simp [regRead_of (regAt_keyControl (k := 0) (by omega)), Reg.read, reset_slot]
  · simp [regRead_of (regAt_keyControl hk'), Reg.read, reset_slot, show (k == 0) = false from beq_eq_false_iff_ne.2 (by omega)]
  · simp [regRead_of regAt_snap.1, Reg.read, reset_snap]
  · simp [regRead_of regAt_snap.2, Reg.read, reset_snap]
  · exact (regRead_of (regAt_ctn hc 0 (by omega)) _ _).trans (by simp [Reg.read, reset_core])
  · exact (regRead_of (regAt_ctn hc 8 (by omega)) _ _).trans (by simp [Reg.read, reset_core])
  · simp [regRead_of (regAt_port hp).1, Reg.read, reset_port]; rfl
  · simp [regRead_of (regAt_port hp).2, Reg.read, State.carbReg, State.reset, Tab.getD, Tab.get?]
  · simp [regRead_of (regAt_transControl hd), Reg.read, reset_die]
  · simp [regRead_of (regAt_asid ha), Reg.read, reset_asid]
  · simp [regRead_of (regAt_root ha hd), Reg.read, reset_asid, Tab.getD, Tab.get?]
  · simp [regRead_of (regAt_broot ha hd), Reg.read, reset_asid, Tab.getD, Tab.get?]

/-! ### The owl line (R205 to R208) -/

/-- A field of the state that putting a port keeps, sending a flit keeps. -/
theorem transmit_keeps {α : Type} (f : State → α) (hf : ∀ s p i x, f (State.putPort s p i x) = f s) (s : State) (p q vc n : Nat) :
    f (transmit s p q vc n) = f s := by
  rw [transmit]
  split
  · rfl
  · split
    · rfl
    · exact hf _ _ _ _

/-- What each step of a fold keeps, the fold keeps. -/
theorem foldl_state_keeps {α β : Type} (f : State → α) {step : State → β → State} (h : ∀ s x, f (step s x) = f s) (l : List β)
    (s : State) : f (l.foldl step s) = f s := by
  induction l generalizing s with
  | nil => rfl
  | cons x l ih => exact (ih (step s x)).trans (h s x)

theorem owlTrigger_latches (s : State) (pkg source : Nat) (tag : Half) (origin : Nat) (gang : Bool) (h : (s.snap pkg).busy = false) :
    (owlTrigger s pkg source tag origin gang).snap pkg =
      { s.snap pkg with seq := ((s.snap pkg).seq + 1) % 256, busy := true, source := source, tag := tag, tagPkg := origin, latch := s.free } := by
  rw [owlTrigger]
  refine (congrArg (fun t : State => t.snap pkg) (if_neg (by simp [h]))).trans ?_
  have hput : ∀ (t : State) (x : Snap), (t.putSnap pkg x).snap pkg = x := fun t x => by simp [State.snap, State.putSnap]
  have hsent : ∀ (l : List Nat) (t : State),
      (l.foldl (fun s p => transmit { s with owlOut := s.owlOut ++ [{ dest := p, origin := pkg, tag := tag }] } pkg p vcMgmt) t).snap pkg =
        t.snap pkg :=
    foldl_state_keeps (·.snap pkg) (fun s p =>
      transmit_keeps (·.snap pkg) (fun _ _ _ _ => rfl) { s with owlOut := s.owlOut ++ [{ dest := p, origin := pkg, tag := tag }] } pkg p vcMgmt 0)
  dsimp only
  split
  · rw [hsent, hput]
  · rw [hput]

/-- The owl line's sources outside the package's own, and what a pull leaves in the snapshot register. -/
theorem owlLine : Parts.OwlLine := by
  unfold Parts.OwlLine
  refine ⟨fun s pkg h => ?_, fun s pkg h => ?_, fun s n m h => ?_, fun s pkg => rfl, fun s pkg source tag origin gang h => ?_,
    fun s pkg source tag origin gang h => owlTrigger_latches s pkg source tag origin gang h⟩
  · exact congrArg Host.Outcome.next (if_pos h)
  · exact congrArg Host.Outcome.next (if_neg (by simp [h]))
  · show Host.Outcome.next (forwardReceive s n) = _
    rw [forwardReceive, h]
  · exact if_pos h

theorem keyWrite_taken {s : State} {pkg k w : Nat} (v : Word) (hk : k < 8192) (hw : w < 16) (h : (s.slot pkg k).en = false) :
    keyWrite s pkg k w v = s.putKey pkg k { s.slot pkg k with words := (s.slot pkg k).words.put w v } :=
  if_neg (by simp [h]; omega)

/-- Writes of the registers. -/
theorem registerSpace : Parts.RegisterSpace := by
  unfold Parts.RegisterSpace
  refine ⟨fun s pkg off width v => ⟨fun h => ?_, congrArg Host.Outcome.next (regWrite_den s pkg off width v)⟩,
    fun s pkg off width v r w h => ⟨fun hw => congrArg Host.Outcome.next (regWrite_otherWidth h hw s pkg v), ?_⟩,
    fun s pkg k w v hk hw => ⟨fun h => congrArg Host.Outcome.next (keyWrite_taken v hk hw h), fun h => congrArg Host.Outcome.next (if_pos (by simp [h])),
      regRead_of (regAt_keyMaterial hk hw) s pkg⟩,
    fun s core => rfl, fun s pkg d hd v => ?_⟩
  · show Host.Outcome.next (regWrite s pkg false off width v) = _
    rw [regWrite, h]
  · rintro rfl
    exact congrArg Host.Outcome.next (regWrite_of h s pkg v)
  · refine congrArg Host.Outcome.next ((regWrite_of (regAt_arbiter hd) s pkg v).trans ?_)
    have hv : (v &&& BitVec.ofNat 64 (2 ^ 32 - 1)).toNat % 2048 = (v.setWidth 32).toNat % 2048 := by
      rw [BitVec.toNat_and, BitVec.toNat_setWidth, show (BitVec.ofNat 64 (2 ^ 32 - 1)).toNat = 2 ^ 32 - 1 from rfl,
        Nat.and_two_pow_sub_one_eq_mod]
    simp only [Reg.write, hv]

/-- Settles O47. -/
theorem owlLineAndRegisters : Obligations.OwlLineAndRegisters := ⟨owlLine, registerSpace⟩

end Sys2Proof.Machine
end

section
/-!
PROOFS. The loss of packages, the firmware complexes, and the PCI Express port.
-/

namespace Sys2Proof.Machine

/-! ### Loss and admission (R542, R543) -/

theorem lostTo_markLost (s : State) (pkg q : Nat) : (markLost s pkg [q]).lostTo pkg q = decide (q < 32) := by
  rw [State.lostTo, markLost, Tab.getD_put_self]
  show (setBit _ q true).getLsbD q = _
  by_cases h : q < 32
  · rw [getLsbD_setBit _ _ _ _ h, if_pos rfl, decide_eq_true h]
  · rw [BitVec.getLsbD_of_ge _ _ (by omega), decide_eq_false h]

theorem applyLoss_known {s : State} {pkg q : Nat} (h : s.lostTo pkg q = true ∨ s.lostTo pkg pkg = true) :
    applyLoss s pkg q = { s with decls := s.decls.erase (pkg, q) } := if_pos h

theorem filter_range_two (p : Nat → Bool) (h0 : p 0 = true) (h1 : p 1 = true) : (List.range 2).filter p = [0, 1] := by
  simp [List.range_succ, h0, h1]

/-- The packages of a domain of two that hears nothing from the other: the package itself. -/
theorem partOf_two (s : State) (pkg peer : Nat) (hne : pkg ≠ peer) (hp : pkg < 2) (hq : peer < 2) :
    partOf s pkg peer [0, 1] = [pkg] := by
  obtain ⟨rfl, rfl⟩ | ⟨rfl, rfl⟩ : (pkg = 0 ∧ peer = 1) ∨ (pkg = 1 ∧ peer = 0) := by omega
  · simp [partOf]
  · simp [partOf]

/-- In a domain of two, package 0 outlives package 1, and package 1 takes itself as lost. -/
theorem heartbeatTimeout_two {s : State} {pkg peer : Nat} (hne : pkg ≠ peer) (hd : s.domain = 2) (hp : pkg < 2) (hq : peer < 2)
    (hl : s.lost = []) : heartbeatTimeout s pkg peer = if pkg = 0 then applyLoss s pkg peer else applyLoss s pkg pkg := by
  have hlost : ∀ p q, s.lostTo p q = false := fun p q => by simp [State.lostTo, hl, Tab.getD, Tab.get?]
  have hlive : (List.range s.domain).filter (fun p => !s.lostTo pkg p) = [0, 1] := by
    rw [hd]
    exact filter_range_two _ (by simp [hlost]) (by simp [hlost])
  refine (if_neg (by simp [hlost, hne, hd]; omega)).trans ?_
  rw [hlive]
  dsimp only
  rw [partOf_two s pkg peer hne hp hq]
  obtain ⟨rfl, rfl⟩ | ⟨rfl, rfl⟩ : (pkg = 0 ∧ peer = 1) ∨ (pkg = 1 ∧ peer = 0) := by omega
  · rfl
  · rfl

/-- Settles O49. -/
theorem lossOfPackages : Obligations.LossOfPackages := by
  unfold Obligations.LossOfPackages
  refine ⟨fun s pkg q h => congrArg Host.Outcome.next (applyLoss_known h), fun s pkg q hq hp hne => ?_, lostTo_markLost,
    fun s pkg peer hne hd hp hq hl => ⟨?_, ?_⟩, fun live part h => ?_, fun live part h => ?_,
    fun s pkg port peer partner hx hm hpeer hne hup hlost => ?_⟩
  · refine congrArg Host.Outcome.next ((if_neg ?_).trans (if_neg hne))
    intro h
    rcases h with h | h
    · exact Bool.false_ne_true (hq.symm.trans h)
    · exact Bool.false_ne_true (hp.symm.trans h)
  · rintro rfl
    exact congrArg Host.Outcome.next (heartbeatTimeout_two hne hd hp hq hl)
  · rintro rfl
    exact congrArg Host.Outcome.next (heartbeatTimeout_two hne hd hp hq hl)
  · simp [survives, h]
  · simp [survives, show ¬ live.length < 2 * part.length by omega, show live.length ≠ 2 * part.length by omega]
  · refine congrArg Host.Outcome.next (if_pos ?_)
    have hany : s.lost.any (fun e => e.2.getLsbD peer) = false := List.any_eq_false.2 fun e he => by simp [hlost e he]
    simp only [hx, hm, hup, hany, hpeer, decide_true, Bool.not_false, Bool.and_true, Bool.true_and, bne_iff_ne, ne_eq]
    exact hne

/-! ### Pieces of the command processor's work (R23, R24) -/

/-- An event that is a piece of work serves it. -/
theorem serves_of {i : Instr} {s t : State} {pkg : Nat} {w : CpWork} (hi : exec i s = .next (cpRun s pkg w)) (ht : cpWork s pkg w = t) :
    Serves i s pkg w t := by
  subst ht
  refine ⟨fun h => ?_, fun h => ⟨fun hstop => ?_, fun r n hint hstop => ?_⟩⟩
  · rw [hi]
    exact congrArg Host.Outcome.next (if_pos h)
  all_goals
    rw [hi]
    refine congrArg Host.Outcome.next ((if_neg (by simp [h])).trans ?_)
    dsimp only
    rw [hstop]

/-! ### What a write of memory keeps -/

theorem wrB_keeps {α : Type} (f : State → α) (hf : ∀ s m z, f { s with mem := m, seals := z } = f s) (s : State) (kid a : Nat) (b : Byte) :
    f (s.wrB kid a b) = f s := by
  have hraw : ∀ (t : State) a b, f (t.rawPut a b) = f t := fun t a b => hf t _ t.seals
  rw [State.wrB, hraw, State.reseal]
  split
  · rfl
  · exact (hf _ _ _).trans (foldl_state_keeps f (fun t b => hraw t _ _) _ s)

theorem wr64_keeps {α : Type} (f : State → α) (hf : ∀ s m z, f { s with mem := m, seals := z } = f s) (s : State) (kid a : Nat) (d : Dword) :
    f (s.wr64 kid a d) = f s :=
  foldl_state_keeps f (fun t i => wrB_keeps f hf t kid (a + i) _) _ s

theorem writeDib_keeps {α : Type} (f : State → α) (hf : ∀ s m z, f { s with mem := m, seals := z } = f s) (s : State) (pkg : Nat) :
    f (writeDib s pkg) = f s := by
  rw [writeDib]
  split
  · exact foldl_state_keeps f (fun t b => wrB_keeps f hf t _ _ _) _ s
  · rfl

/-! ### Bring-up (R468) -/

/-- The record with the images that have passed their check. -/
def Pkg.withImages (p : Pkg) (good1 good2 : Bool) (images : Image × Image) : Pkg :=
  let p := if good1 then p.runImage 0 images.1 else p
  if good2 then p.runImage 1 images.2 else p

theorem Pkg.withImages_keeps (p : Pkg) (good1 good2 : Bool) (images : Image × Image) :
    (p.withImages good1 good2 images).up = p.up ∧ (p.withImages good1 good2 images).keyDigest = p.keyDigest := by
  cases good1 <;> cases good2 <;> exact ⟨rfl, rfl⟩

/-- The fresh record of a package at reset, with the images that pass their check. -/
def bootPkg (s : State) (pkg : Nat) (b : Boot) : Pkg :=
  Pkg.withImages {
    born := s.clock, epoch := if s.pkg pkg = {} then 0 else (s.pkg pkg).epoch + 1, pcie := { root := b.rootPort }
    keyDigest := b.keyDigest, attKey := b.attKey } (imageGood b.keyDigest b.images.1) (imageGood b.keyDigest b.images.2) b.images

theorem bootPkg_up (s : State) (pkg : Nat) (b : Boot) : (bootPkg s pkg b).up = false := (Pkg.withImages_keeps _ _ _ _).1

theorem bootPkg_keyDigest (s : State) (pkg : Nat) (b : Boot) : (bootPkg s pkg b).keyDigest = b.keyDigest :=
  (Pkg.withImages_keeps _ _ _ _).2

theorem packageReset_badImage {s : State} {pkg : Nat} {b : Boot}
    (h : imageGood b.keyDigest b.images.1 = false ∨ imageGood b.keyDigest b.images.2 = false) :
    packageReset s pkg b = bringFail ((clearPkg s pkg).putPkg pkg (bootPkg s pkg b)) pkg 1 :=
  if_pos (by rcases h with h | h <;> simp [h])

theorem bringFail_putPkg (s : State) (pkg step : Nat) (p : Pkg) :
    ((bringFail (s.putPkg pkg p) pkg step).pkg pkg).up = p.up ∧ ((bringFail (s.putPkg pkg p) pkg step).pkg pkg).bucode = step := by
  simp [bringFail]

theorem packageReset_noMemory {s : State} {pkg : Nat} {b : Boot} (h1 : imageGood b.keyDigest b.images.1 = true)
    (h2 : imageGood b.keyDigest b.images.2 = true) (hm : b.memory = false) :
    packageReset s pkg b = bringFail ((clearPkg s pkg).putPkg pkg (bootPkg s pkg b)) pkg 2 :=
  (if_neg (by simp [h1, h2])).trans (if_pos (by simp [hm]))

/-- The state once memory is trained and the fuses are read. -/
def fusedState (s : State) (pkg : Nat) (b : Boot) : State :=
  let t := bringMemory ((clearPkg s pkg).putPkg pkg (bootPkg s pkg b)) pkg b
  t.putPkg pkg { t.pkg pkg with fuses := b.fuses, serial := b.serial }

/-- The state once the ports have trained and the blocks' worlds are set. -/
def portedState (s : State) (pkg : Nat) (b : Boot) : State := openBlocks (bringPorts (fusedState s pkg b) pkg b) pkg b.open_

theorem packageReset_up {s : State} {pkg : Nat} {b : Boot} (h1 : imageGood b.keyDigest b.images.1 = true)
    (h2 : imageGood b.keyDigest b.images.2 = true) (hm : b.memory = true) (hf : b.fusesRead = true) (hp : b.ports = true) :
    packageReset s pkg b = (writeDib (portedState s pkg b) pkg).putPkg pkg { (writeDib (portedState s pkg b) pkg).pkg pkg with up := true } :=
  (if_neg (by simp [h1, h2])).trans ((if_neg (by simp [hm])).trans ((if_neg (by simp [hf])).trans (if_neg (by simp [hp]))))

/-- What writing the tables and the region descriptors keeps. -/
theorem bringMemory_keeps {α : Type} (f : State → α)
    (hm : ∀ s m z, f { s with mem := m, seals := z } = f s) (hd : ∀ s d, f { s with descs := d } = f s)
    (ha : ∀ s pkg a e, f (State.putAsid s pkg a e) = f s) (s : State) (pkg : Nat) (b : Boot) : f (bringMemory s pkg b) = f s := by
  rw [bringMemory, ha, hd]
  exact foldl_state_keeps f (fun t w => wr64_keeps f hm t _ _ _) _ s

theorem fusedState_pkg (s : State) (pkg : Nat) (b : Boot) :
    (fusedState s pkg b).pkg pkg = { bootPkg s pkg b with fuses := b.fuses, serial := b.serial } := by
  rw [fusedState, State.pkg_putPkg, bringMemory_keeps (fun t => t.pkg pkg) (fun _ _ _ => rfl) (fun _ _ => rfl) (fun _ _ _ _ => rfl), State.pkg_putPkg]

theorem openBlocks_pkg (s : State) (pkg : Nat) (l : List Nat) : (openBlocks s pkg l).pkg pkg = s.pkg pkg := rfl

theorem openBlocks_groups (s : State) (pkg : Nat) (l : List Nat) : (openBlocks s pkg l).groups = s.groups := rfl

theorem openBlocks_domain (s : State) (pkg : Nat) (l : List Nat) : (openBlocks s pkg l).domain = s.domain := rfl

theorem bringPorts_pkg (s : State) (pkg : Nat) (b : Boot) :
    (bringPorts s pkg b).pkg pkg = { s.pkg pkg with modeB := b.modeB, gang := b.gang } := State.pkg_putPkg _ _ _

theorem bringPorts_groups (s : State) (pkg : Nat) (b : Boot) : (bringPorts s pkg b).groups = s.groups := rfl

theorem bringPorts_domain (s : State) (pkg : Nat) (b : Boot) : (bringPorts s pkg b).domain = max 1 (min 32 b.domain) := rfl

theorem fusedState_groups (s : State) (pkg : Nat) (b : Boot) :
    (fusedState s pkg b).groups = s.groups.filter (fun e => pkgOfCore e.2.core != pkg) :=
  bringMemory_keeps State.groups (fun _ _ _ => rfl) (fun _ _ => rfl) (fun _ _ _ _ => rfl)
    ((clearPkg s pkg).putPkg pkg (bootPkg s pkg b)) pkg b

theorem bringPorts_pkg_of {s : State} {pkg : Nat} {b : Boot} {p : Pkg} {f : Fuses} {n : Dword}
    (h : s.pkg pkg = { p with fuses := f, serial := n }) :
    (bringPorts s pkg b).pkg pkg = { p with fuses := f, serial := n, modeB := b.modeB, gang := b.gang } := by
  rw [bringPorts_pkg, h]

/-- The record of a package that has come up. -/
theorem broughtUp_of {s : State} {pkg : Nat} {p : Pkg} {f : Fuses} {n : Dword} {m : Bool} {l : List Nat}
    (h : s.pkg pkg = { p with fuses := f, serial := n, modeB := m, gang := l }) :
    let t := s.putPkg pkg { s.pkg pkg with up := true }
    (t.pkg pkg).up = true ∧ (t.pkg pkg).fuses = f ∧ (t.pkg pkg).serial = n ∧ (t.pkg pkg).keyDigest = p.keyDigest := by
  simp [h]

theorem portedState_pkg (s : State) (pkg : Nat) (b : Boot) : (portedState s pkg b).pkg pkg =
    { bootPkg s pkg b with fuses := b.fuses, serial := b.serial, modeB := b.modeB, gang := b.gang } :=
  (openBlocks_pkg _ _ _).trans (bringPorts_pkg_of (fusedState_pkg s pkg b))

theorem portedState_groups (s : State) (pkg : Nat) (b : Boot) :
    (portedState s pkg b).groups = s.groups.filter (fun e => pkgOfCore e.2.core != pkg) := by
  rw [portedState, openBlocks_groups, bringPorts_groups, fusedState_groups]

theorem portedState_domain (s : State) (pkg : Nat) (b : Boot) : (portedState s pkg b).domain = max 1 (min 32 b.domain) := by
  rw [portedState, openBlocks_domain, bringPorts_domain]

theorem get?_foldl_put_const {α β : Type} (k : β → Nat) (v : α) (l : List β) (t : Tab α) (j : Nat) :
    (l.foldl (fun t b => t.put (k b) v) t).get? j = if j ∈ l.map k then some v else t.get? j := by
  induction l generalizing t with
  | nil => simp
  | cons x l ih =>
    rw [List.foldl_cons, ih, Tab.get?_put]
    by_cases h1 : j ∈ l.map k <;> by_cases h2 : j = k x <;> simp [h1, h2]

theorem openBlocks_worlds (s : State) (pkg : Nat) (l : List Nat) (k : Nat) (hk : k ∈ l) (h : k < 432) :
    (openBlocks s pkg l).worlds.get? (pkg * 432 + k) = some false := by
  refine (get?_foldl_put_const (fun b => pkg * 432 + b) false _ s.worlds _).trans (if_pos ?_)
  exact List.mem_map.2 ⟨k, List.mem_filter.2 ⟨hk, by simpa using h⟩, rfl⟩

/-- Where every step of bring-up passes, the package is up. -/
theorem packageReset_comesUp {s : State} {pkg : Nat} {b : Boot} (h1 : imageGood b.keyDigest b.images.1 = true)
    (h2 : imageGood b.keyDigest b.images.2 = true) (hm : b.memory = true) (hf : b.fusesRead = true) (hp : b.ports = true) :
    let t := packageReset s pkg b
    (t.pkg pkg).up = true ∧ (t.pkg pkg).fuses = b.fuses ∧ (t.pkg pkg).serial = b.serial ∧ (t.pkg pkg).keyDigest = b.keyDigest ∧
      t.domain = max 1 (min 32 b.domain) ∧ (∀ e ∈ t.groups, pkgOfCore e.2.core ≠ pkg) ∧
      (∀ k ∈ b.open_, k < 432 → t.worlds.get? (pkg * 432 + k) = some false) := by
  rw [packageReset_up h1 h2 hm hf hp]
  have hpkg := (writeDib_keeps (fun t => t.pkg pkg) (fun _ _ _ => rfl) (portedState s pkg b) pkg).trans (portedState_pkg s pkg b)
  have hg := (writeDib_keeps State.groups (fun _ _ _ => rfl) (portedState s pkg b) pkg).trans (portedState_groups s pkg b)
  have hw := writeDib_keeps State.worlds (fun _ _ _ => rfl) (portedState s pkg b) pkg
  obtain ⟨hup, hfuses, hserial, hkey⟩ := broughtUp_of hpkg
  refine ⟨hup, hfuses, hserial, hkey.trans (bootPkg_keyDigest s pkg b),
    (writeDib_keeps State.domain (fun _ _ _ => rfl) (portedState s pkg b) pkg).trans (portedState_domain s pkg b), fun e he => ?_,
    fun k hk hlt => ?_⟩
  · have he' : e ∈ s.groups.filter (fun e => pkgOfCore e.2.core != pkg) := hg ▸ he
    simpa using (List.mem_filter.1 he').2
  · exact (congrArg (fun w : Tab Bool => w.get? (pkg * 432 + k)) hw).trans (openBlocks_worlds _ pkg b.open_ k hk hlt)

theorem liveUpdate_refused {s : State} {pkg : Nat} {img : Image} (h : (s.pkg pkg).up = false ∨
    imageGood (s.pkg pkg).keyDigest img = false ∨ img.converts = false ∨ img.starts ≠ (s.pkg pkg).vers.getD (s.pkg pkg).active 0) :
    liveUpdate s pkg img = s :=
  if_pos (by rcases h with h | h | h | h <;> simp [h])

theorem liveUpdate_taken {s : State} {pkg : Nat} {img : Image} (hup : (s.pkg pkg).up = true)
    (hgood : imageGood (s.pkg pkg).keyDigest img = true) (hstarts : img.starts = (s.pkg pkg).vers.getD (s.pkg pkg).active 0)
    (hq : quiescent s pkg = true) (hconv : img.converts = true) :
    liveUpdate s pkg img = owlError (writeDib (s.putPkg pkg
      { ((s.pkg pkg).runImage (1 - (s.pkg pkg).active) img) with active := 1 - (s.pkg pkg).active }) pkg) pkg 12 :=
  if_neg (by simp [hup, hgood, hstarts, hq, hconv])

theorem takeover_of {s : State} {pkg : Nat} (hup : (s.pkg pkg).up = true) (hctx : (s.pkg pkg).ctxs = []) (hslots : (s.pkg pkg).slots = []) :
    takeover s pkg = writeDib (s.putPkg pkg { s.pkg pkg with active := 1 - (s.pkg pkg).active, slots := [] }) pkg := by
  refine (if_neg (by simp [hup])).trans ?_
  simp only [hctx, hslots, List.foldl_nil, List.map_nil]

/-- The report of the active complex (R204). -/
def reportOf (p : Pkg) (nonce : List Byte) : Report :=
  let regs := (List.range 8).map (fun m => p.meas.getD (p.active * 8 + m) 0)
  let version := p.vers.getD p.active 0
  let body := regs.flatMap (fun r => Sha.bigEndian 32 r.toNat) ++ nonce ++ fuseBytes p.fuses ++ natBytes 4 version ++ natBytes 8 p.serial.toNat
  { regs := regs, nonce := nonce, fuses := p.fuses, version := version, serial := p.serial, sig := rsaSign p.attKey.1 p.attKey.2 body }

theorem attest_of {s : State} {pkg : Nat} {nonce : List Byte} (hup : (s.pkg pkg).up = true) (hlen : nonce.length = 32) :
    attest s pkg nonce = s.putPkg pkg { s.pkg pkg with reports := (s.pkg pkg).reports ++ [reportOf (s.pkg pkg) nonce] } :=
  if_neg (by simp [hup, hlen])

/-- Bring-up, updates, take-over and attestation. -/
theorem firmwareComplexes : Parts.FirmwareComplexes := by
  unfold Parts.FirmwareComplexes
  refine ⟨fun s pkg b h => ⟨_, rfl, ?_⟩, fun s pkg b h1 h2 hm => ⟨_, rfl, ?_⟩,
    fun s pkg b h1 h2 hm hf hp => ⟨_, rfl, packageReset_comesUp h1 h2 hm hf hp⟩,
    fun s pkg img hup hgood hstarts hq hconv => congrArg Host.Outcome.next (liveUpdate_taken hup hgood hstarts hq hconv),
    fun s pkg img h => congrArg Host.Outcome.next (liveUpdate_refused h), fun s pkg hup hctx hslots => serves_of rfl (takeover_of hup hctx hslots),
    fun s pkg nonce hup hlen => ⟨reportOf (s.pkg pkg) nonce, rfl, rfl, rfl, rfl, rfl, rfl, congrArg Host.Outcome.next (attest_of hup hlen)⟩⟩
  · rw [packageReset_badImage h, (bringFail_putPkg _ _ _ _).1, (bringFail_putPkg _ _ _ _).2]
    exact ⟨bootPkg_up s pkg b, rfl⟩
  · rw [packageReset_noMemory h1 h2 hm, (bringFail_putPkg _ _ _ _).1, (bringFail_putPkg _ _ _ _).2]
    exact ⟨bootPkg_up s pkg b, rfl⟩

/-! ### PCI Express (R545, R546) -/

theorem barReq_of {pkg bar off n : Nat} (s : State) (h : (bar = 0 ∧ off + n ≤ 0x20000) ∨ (bar = 2 ∧ off + n ≤ 2 ^ 36)) (hn : n ≠ 0) :
    barReq s pkg bar off n =
      some { fwReq s pkg (BitVec.ofNat 64 (pkg * 2 ^ 57 + off)) with world := false, privileged := bar == 0 } := by
  refine if_neg (not_or.2 ⟨hn, ?_⟩)
  rcases h with ⟨rfl, h⟩ | ⟨rfl, h⟩ <;> simpa using h

/-- The PCI Express port. -/
theorem pciExpress : Parts.PciExpress := by
  unfold Parts.PciExpress
  refine ⟨fun s pkg bar off data h hne hlen hup hroot => serves_of rfl ?_,
    fun s pkg bar off n h hpos hle hup hroot => serves_of rfl ?_, fun s pkg bar off data hstop hup => congrArg Host.Outcome.next ?_,
    fun s pkg hup => ⟨fun hroot => congrArg Host.Outcome.next ((if_neg (by simp [hup])).trans ?_),
      fun hroot => congrArg Host.Outcome.next ((if_neg (by simp [hup])).trans ?_)⟩,
    fun s pkg rate width hup hr hw => congrArg Host.Outcome.next (if_neg ?_)⟩
  · show pcieWrite s pkg bar off data = _
    rw [pcieWrite, barReq_of s h (by simpa using hne)]
    exact if_pos (by simp [Pcie.serves, hup, hroot, hlen])
  · show pcieRead s pkg bar off n = _
    rw [pcieRead, barReq_of s h (by omega)]
    exact if_pos (by simp [Pcie.serves, hup, hroot, hle])
  · have hw : cpWork s pkg (.pcieWrite bar off data) = s := by
      show pcieWrite s pkg bar off data = s
      rw [pcieWrite]
      split
      · exact if_neg (by simp [Pcie.serves, hup])
      · rfl
    show cpRun s pkg _ = s
    rw [cpRun, cpDo]
    split
    · rfl
    · rw [hw, hstop]
  · simp [hroot]
  · simp [hroot]
  · have hr' : [128, 64, 32].contains rate = true := by simpa using hr
    have hw' : [16, 8, 4].contains width = true := by simpa using hw
    simp only [hup, hr', hw']
    decide

/-- Settles O48. -/
theorem firmwareAndPciExpress : Obligations.FirmwareAndPciExpress := ⟨firmwareComplexes, pciExpress⟩

end Sys2Proof.Machine
end

section
/-!
PROOFS. Physical memory: where a line is served, the length of an enciphered line, and reads after writes.
-/

namespace Sys2Proof.Machine

/-! ### The places of a line (R17, R32) -/

/-- The mirror keeps the places of a line's bytes in it. -/
theorem mirrorOf_eq (s : State) (a : Nat) : mirrorOf s a =
    if primaryHome a then (s.partner.get? (a / 2 ^ 40)).map (fun m => m * 2 ^ 40 + a % 2 ^ 40 + 2 ^ 36) else none := rfl

theorem primaryHome_line {a j : Nat} (h : j / 128 = a / 128) : primaryHome j = primaryHome a := by
  have : j / 2 ^ 36 = a / 2 ^ 36 := by omega
  simp only [primaryHome, bits, this]

theorem mirrorOf_line (s : State) {a j : Nat} (h : j / 128 = a / 128) :
    mirrorOf s j = (mirrorOf s a).map (fun m => m / 128 * 128 + j % 128) := by
  have hp : j / 2 ^ 40 = a / 2 ^ 40 := by omega
  rw [mirrorOf_eq, mirrorOf_eq, primaryHome_line h, hp]
  split
  · cases s.partner.get? (a / 2 ^ 40) with
    | none => rfl
    | some m =>
      simp only [Option.map_some, Option.some.injEq]
      omega
  · rfl

theorem mirrorOf_mod {s : State} {a m : Nat} (h : mirrorOf s a = some m) : m % 128 = a % 128 := by
  have := mirrorOf_line s (j := a) (a := a) rfl
  rw [h, Option.map_some, Option.some.injEq] at this
  omega

theorem servedAt_line (s : State) {a j : Nat} (h : j / 128 = a / 128) : servedAt s j = servedAt s a / 128 * 128 + j % 128 := by
  have hp : j / 2 ^ 40 = a / 2 ^ 40 := by omega
  unfold servedAt
  rw [hp, mirrorOf_line s h]
  split
  · cases mirrorOf s a with
    | none => simp only [Option.map_none, Option.getD_none]; omega
    | some m => simp only [Option.map_some, Option.getD_some]
  · omega

theorem servedAt_mod (s : State) (a : Nat) : servedAt s a % 128 = a % 128 := by
  have := servedAt_line s (j := a) (a := a) rfl
  omega

theorem placesAt_line {s : State} {a j x : Nat} (h : j / 128 = a / 128) (hx : x ∈ placesAt s j) :
    x % 128 = j % 128 ∧ ∃ y ∈ placesAt s a, y / 128 = x / 128 := by
  have hp : j / 2 ^ 40 = a / 2 ^ 40 := by omega
  unfold placesAt at hx ⊢
  rw [hp] at hx
  split at hx
  · rename_i hgone
    rw [if_pos hgone]
    obtain rfl := List.mem_singleton.1 hx
    exact ⟨servedAt_mod s j, servedAt s a, List.mem_singleton_self _, by rw [servedAt_line s h]; omega⟩
  · rename_i hgone
    rw [if_neg hgone]
    rcases List.mem_cons.1 hx with rfl | hx
    · exact ⟨rfl, a, List.mem_cons_self .., h.symm⟩
    · rw [Option.mem_toList] at hx
      refine ⟨mirrorOf_mod hx, ?_⟩
      rw [mirrorOf_line s h] at hx
      obtain ⟨m, hm, rfl⟩ := Option.map_eq_some_iff.1 hx
      exact ⟨m, List.mem_cons_of_mem _ (Option.mem_toList.2 hm), by omega⟩

/-- A byte of the line is served where another of its bytes is written only if they are one. -/
theorem eq_of_served_mem {s : State} {a j : Nat} (h : j / 128 = a / 128) (hj : servedAt s j ∈ placesAt s a) : j = a := by
  have h1 := (placesAt_line rfl hj).1
  have h2 := servedAt_mod s j
  omega

/-- Lines of which one is served at no place of the other. -/
theorem not_mem_places_of_lines {s : State} {a a' j j' : Nat} (ha : a' / 128 = a / 128) (hj : j' / 128 = j / 128)
    (h : ∀ x ∈ placesAt s a, servedAt s j / 128 ≠ x / 128) : servedAt s j' ∉ placesAt s a' := by
  intro hm
  obtain ⟨y, hy, hyx⟩ := (placesAt_line ha hm).2
  refine h y hy ?_
  rw [hyx, servedAt_line s hj]
  omega

/-! ### A line's cipher gives 128 bytes (R200) -/

theorem length_xorBytes (a b : List Byte) : (xorBytes a b).length = min a.length b.length := by
  simp [xorBytes]

@[simp] theorem length_turnRows (back : Bool) (x : List Byte) : (turnRows back x).length = 16 := by simp [turnRows]

@[simp] theorem length_mixWith (row x : List Byte) : (mixWith row x).length = 16 := by simp [mixWith]

/-- Words of the key schedule: at least eight, of four bytes each. -/
def KeyWords (ws : List (List Byte)) : Prop := 8 ≤ ws.length ∧ ∀ w ∈ ws, w.length = 4

theorem KeyWords.nextKeyWord {ws : List (List Byte)} (h : KeyWords ws) (n : Nat) : (nextKeyWord n ws).length = 4 := by
  obtain ⟨hlen, hall⟩ := h
  have h0 : (ws.headD []).length = 4 := by
    cases ws with
    | nil => simp at hlen
    | cons w ws => exact hall w (List.mem_cons_self ..)
  have h7 : (ws.getD 7 []).length = 4 := by
    rw [List.getD_eq_getElem _ _ (by omega)]
    exact hall _ (List.getElem_mem _)
  unfold Machine.nextKeyWord
  rw [length_xorBytes, h7]
  generalize ws.headD [] = t at h0 ⊢
  match t, h0 with
  | [a, b, c, d], _ =>
    split
    · rfl
    · split <;> rfl

theorem KeyWords.cons {ws : List (List Byte)} (h : KeyWords ws) {w : List Byte} (hw : w.length = 4) : KeyWords (w :: ws) := by
  refine ⟨Nat.le_succ_of_le h.1, fun x hx => ?_⟩
  rcases List.mem_cons.1 hx with rfl | hx
  · exact hw
  · exact h.2 x hx

/-- The key schedule keeps its words' length and grows by one a step. -/
theorem KeyWords.schedule {ws : List (List Byte)} (h : KeyWords ws) (l : List Nat) :
    KeyWords (l.foldl (fun ws i => Machine.nextKeyWord (8 + i) ws :: ws) ws) ∧
      (l.foldl (fun ws i => Machine.nextKeyWord (8 + i) ws :: ws) ws).length = ws.length + l.length := by
  induction l generalizing ws with
  | nil => exact ⟨h, rfl⟩
  | cons i l ih =>
    have hn := h.cons (h.nextKeyWord (8 + i))
    refine ⟨(ih hn).1, (ih hn).2.trans ?_⟩
    simp only [List.length_cons]
    omega

theorem length_flatten_of_fours {l : List (List Byte)} (h : ∀ w ∈ l, w.length = 4) : l.flatten.length = 4 * l.length := by
  induction l with
  | nil => rfl
  | cons w l ih =>
    rw [List.flatten_cons, List.length_append, h w (List.mem_cons_self ..), ih fun x hx => h x (List.mem_cons_of_mem _ hx),
      List.length_cons]
    omega

theorem length_roundKeys (key : List Byte) : (roundKeys key).length = 15 := by simp [roundKeys]

/-- Each of the fifteen round keys has 16 bytes. -/
theorem length_of_mem_roundKeys {key k : List Byte} (hkey : key.length = 32) (hk : k ∈ roundKeys key) : k.length = 16 := by
  unfold roundKeys at hk
  dsimp only at hk
  obtain ⟨r, hr, rfl⟩ := List.mem_map.1 hk
  have hr := List.mem_range.1 hr
  have hfirst : KeyWords (((List.range 8).map (fun i => (key.drop (4 * i)).take 4)).reverse) := by
    refine ⟨by simp, fun w hw => ?_⟩
    rw [List.mem_reverse, List.mem_map] at hw
    obtain ⟨i, hi, rfl⟩ := hw
    have hi := List.mem_range.1 hi
    simp only [List.length_take, List.length_drop]
    omega
  obtain ⟨hwords, hlen⟩ := hfirst.schedule (List.range 52)
  have hlen60 : ((List.range 52).foldl (fun ws i => nextKeyWord (8 + i) ws :: ws)
      ((List.range 8).map (fun i => (key.drop (4 * i)).take 4)).reverse).length = 60 := by rw [hlen]; simp
  rw [length_flatten_of_fours]
  · simp only [List.length_take, List.length_drop, List.length_reverse, hlen60]
    omega
  · intro w hw
    exact hwords.2 w (List.mem_reverse.1 (List.mem_of_mem_drop (List.mem_of_mem_take hw)))

theorem length_roundKey {key : List Byte} (hkey : key.length = 32) {i : Nat} (hi : i < 15) : ((roundKeys key).getD i []).length = 16 := by
  rw [List.getD_eq_getElem _ _ (by rw [length_roundKeys]; exact hi)]
  exact length_of_mem_roundKeys hkey (List.getElem_mem _)

theorem length_encryptBlock {key : List Byte} (hkey : key.length = 32) (x : List Byte) : (encryptBlock (roundKeys key) x).length = 16 := by
  unfold encryptBlock
  rw [length_xorBytes, length_roundKey hkey (by omega), length_turnRows]
  rfl

theorem length_decryptBlock {key : List Byte} (hkey : key.length = 32) (x : List Byte) : (decryptBlock (roundKeys key) x).length = 16 := by
  have hfold : ∀ (l : List (List Byte)) (y : List Byte), y.length = 16 →
      (l.foldl (fun x k => (turnRows true (mixWith [14, 11, 13, 9] (xorBytes x k))).map unsubByte) y).length = 16 := by
    intro l
    induction l with
    | nil => exact fun y hy => hy
    | cons k l ih => exact fun y _ => ih _ (by rw [List.length_map, length_turnRows])
  have hhead : ((roundKeys key).headD []).length = 16 := by
    have := length_roundKey hkey (i := 0) (by omega)
    cases hk : roundKeys key with
    | nil => rw [hk] at this; simp at this
    | cons k ks => rw [hk] at this; exact this
  unfold decryptBlock
  rw [length_xorBytes, hhead, hfold _ _ (by rw [List.length_map, length_turnRows])]
  rfl

theorem length_lowBytes (n v : Nat) : (lowBytes n v).length = n := by simp [lowBytes]

theorem length_maskAt {t : List Byte} (h : t.length = 16) (n : Nat) : (maskAt t n).length = 16 := by
  cases n with
  | zero => exact h
  | succ n => exact length_lowBytes 16 _

theorem length_xtsLine (back : Bool) (key : BitVec 512) (pa : Nat) (x : List Byte) : (xtsLine back key pa x).length = 128 := by
  unfold xtsLine
  dsimp only
  have hblock : ∀ j : Nat, ∀ b : List Byte, (xorBytes (if back then decryptBlock (roundKeys (lowBytes 32 key.toNat)) b
      else encryptBlock (roundKeys (lowBytes 32 key.toNat)) b)
      (maskAt (encryptBlock (roundKeys (lowBytes 32 (key.toNat / 2 ^ 256))) (lowBytes 16 pa)) j)).length = 16 := by
    intro j b
    rw [length_xorBytes, length_maskAt (length_encryptBlock (length_lowBytes 32 _) _)]
    cases back
    · rw [if_neg Bool.false_ne_true, length_encryptBlock (length_lowBytes 32 _)]; rfl
    · rw [if_pos rfl, length_decryptBlock (length_lowBytes 32 _)]; rfl
  rw [List.length_flatMap]
  simp only [hblock]
  rfl

theorem State.length_lineUnder (s : State) (kid line : Nat) : (s.lineUnder kid line).length = 128 := length_xtsLine _ _ _ _

/-! ### A line takes a key (R200, R202) -/

theorem servedAt_foldl_rawPut (l : List (Byte × Nat)) (line : Nat) (s : State) (j : Nat) :
    servedAt (l.foldl (fun (t : State) b => t.rawPut (line * 128 + b.2) b.1) s) j = servedAt s j :=
  foldl_state_keeps (fun t => servedAt t j) (step := fun (t : State) b => t.rawPut (line * 128 + b.2) b.1) (fun _ _ => rfl) l s

/-- The bytes of a line that are written from place n on. -/
theorem raw_foldl_line (line : Nat) (bs : List Byte) (n : Nat) (s : State) (i : Nat) (hn : n + bs.length ≤ 128) (hi : i < 128) :
    ((bs.zipIdx n).foldl (fun (t : State) b => t.rawPut (line * 128 + b.2) b.1) s).raw (line * 128 + i) =
      if n ≤ i ∧ i < n + bs.length then bs.getD (i - n) 0 else s.raw (line * 128 + i) := by
  induction bs generalizing n s with
  | nil => simp
  | cons b bs ih =>
    rw [List.length_cons] at hn
    rw [List.zipIdx_cons, List.foldl_cons, ih (n + 1) _ (by omega), State.raw_rawPut, List.length_cons]
    by_cases hin : i = n
    · subst hin
      rw [if_neg (by omega), if_pos (servedAt_mem_placesAt s _), if_pos (by omega)]
      simp
    · have hmem : servedAt s (line * 128 + i) ∉ placesAt s (line * 128 + n) := fun h => by
        have := eq_of_served_mem (by omega) h
        omega
      rw [if_neg hmem]
      by_cases hr : n + 1 ≤ i ∧ i < n + 1 + bs.length
      · rw [if_pos hr, if_pos (by omega), show i - n = (i - (n + 1)) + 1 by omega, List.getD_cons_succ]
      · rw [if_neg hr, if_neg (by omega)]

/-- A line served at none of the places of a line that is written stays. -/
theorem raw_foldl_other (line : Nat) (l : List (Byte × Nat)) (s : State) (j : Nat) (hl : ∀ b ∈ l, b.2 < 128)
    (h : ∀ x ∈ placesAt s (line * 128), servedAt s j / 128 ≠ x / 128) :
    (l.foldl (fun (t : State) b => t.rawPut (line * 128 + b.2) b.1) s).raw j = s.raw j := by
  induction l generalizing s with
  | nil => rfl
  | cons b l ih =>
    have hb := hl b (List.mem_cons_self ..)
    rw [List.foldl_cons, ih (s.rawPut (line * 128 + b.2) b.1) (fun x hx => hl x (List.mem_cons_of_mem _ hx)) h, State.raw_rawPut,
      if_neg (not_mem_places_of_lines (by omega) rfl h)]

theorem State.sealOf_rawPut (s : State) (a : Nat) (b : Byte) (line : Nat) : (s.rawPut a b).sealOf line = s.sealOf line := rfl

theorem State.seals_foldl_rawPut (line : Nat) (l : List (Byte × Nat)) (s : State) :
    (l.foldl (fun (t : State) b => t.rawPut (line * 128 + b.2) b.1) s).seals = s.seals :=
  foldl_state_keeps State.seals (step := fun (t : State) b => t.rawPut (line * 128 + b.2) b.1) (fun _ _ => rfl) l s

theorem State.seals_reseal (s : State) (kid line : Nat) :
    (s.reseal kid line).seals = if s.sealOf line = kid then s.seals else s.seals.store (2 ^ 640) line kid := by
  unfold State.reseal
  split
  · rfl
  · dsimp only
    rw [State.seals_foldl_rawPut]

theorem State.rising_seals_reseal {s : State} (h : s.seals.rising = true) (kid line : Nat) : (s.reseal kid line).seals.rising = true := by
  rw [State.seals_reseal]
  split
  · exact h
  · exact Tab.rising_store h _ _ _

theorem State.sealOf_reseal {s : State} (h : s.seals.rising = true) (kid line j : Nat) :
    (s.reseal kid line).sealOf j = if j = line then kid else s.sealOf j := by
  unfold State.sealOf
  rw [State.seals_reseal]
  split
  · split
    · rename_i h1 h2; subst h2; exact h1
    · rfl
  · exact Tab.getD_store h _ _ _ _

theorem reseal_keeps {α : Type} (f : State → α) (hf : ∀ s m z, f { s with mem := m, seals := z } = f s) (s : State) (kid line : Nat) :
    f (s.reseal kid line) = f s := by
  have hraw : ∀ (t : State) a b, f (t.rawPut a b) = f t := fun t a b => hf t _ t.seals
  rw [State.reseal]
  split
  · rfl
  · exact (hf _ _ _).trans (foldl_state_keeps f (fun t b => hraw t _ _) _ s)

theorem servedAt_reseal (s : State) (kid line j : Nat) : servedAt (s.reseal kid line) j = servedAt s j :=
  reseal_keeps (servedAt · j) (fun _ _ _ => rfl) s kid line

theorem placesAt_reseal (s : State) (kid line j : Nat) : placesAt (s.reseal kid line) j = placesAt s j :=
  reseal_keeps (placesAt · j) (fun _ _ _ => rfl) s kid line

theorem State.raw_putSeals (s : State) (z : Tab Nat) (a : Nat) : State.raw { s with seals := z } a = s.raw a := rfl

theorem State.raw_reseal (s : State) (kid line j : Nat) (h : s.sealOf line ≠ kid) : (s.reseal kid line).raw j =
    ((s.lineUnder kid line).zipIdx.foldl (fun (t : State) b => t.rawPut (line * 128 + b.2) b.1) s).raw j := by
  rw [State.reseal, if_neg h, State.raw_putSeals]

/-- What stands in a line after it takes a key is what a read under that key gave before. -/
theorem State.raw_reseal_line (s : State) (kid j : Nat) : (s.reseal kid (j / 128)).raw j = s.rdB kid j := by
  unfold State.rdB
  by_cases h : s.sealOf (j / 128) = kid
  · rw [if_pos h, State.reseal, if_pos h]
  · have hline := raw_foldl_line (j / 128) (s.lineUnder kid (j / 128)) 0 s (j % 128) (by rw [State.length_lineUnder]) (by omega)
    rw [show j / 128 * 128 + j % 128 = j by omega, if_pos ⟨Nat.zero_le _, by rw [State.length_lineUnder]; omega⟩, Nat.sub_zero] at hline
    rw [if_neg h, State.raw_reseal _ _ _ _ h, hline]

theorem State.raw_reseal_other {s : State} {kid line j : Nat} (h : ∀ x ∈ placesAt s (line * 128), servedAt s j / 128 ≠ x / 128) :
    (s.reseal kid line).raw j = s.raw j := by
  by_cases hs : s.sealOf line = kid
  · rw [State.reseal, if_pos hs]
  · rw [State.raw_reseal _ _ _ _ hs]
    refine raw_foldl_other line _ s j (fun b hb => ?_) h
    have := List.snd_lt_of_mem_zipIdx hb
    rw [State.length_lineUnder] at this
    omega

theorem State.lineUnder_congr {s t : State} {line : Nat} (kid : Nat) (hraw : ∀ i < 128, t.raw (line * 128 + i) = s.raw (line * 128 + i))
    (hseal : t.sealOf line = s.sealOf line) : t.lineUnder kid line = s.lineUnder kid line := by
  have hmap : (List.range 128).map (fun i => t.raw (line * 128 + i)) = (List.range 128).map (fun i => s.raw (line * 128 + i)) :=
    List.map_congr_left fun i hi => hraw i (List.mem_range.1 hi)
  unfold State.lineUnder
  rw [hmap, hseal]

theorem State.rising_seals_wrB {s : State} (h : s.seals.rising = true) (kid a : Nat) (b : Byte) : (s.wrB kid a b).seals.rising = true :=
  State.rising_seals_reseal h kid (a / 128)

/-! ### Reads after a write -/

theorem State.rdB_of_seal {s : State} {kid a : Nat} (h : s.sealOf (a / 128) = kid) : s.rdB kid a = s.raw a := if_pos h

theorem State.rdB_wrB_line {s : State} (hseal : s.seals.rising = true) (kid a : Nat) (b : Byte) {j : Nat} (hj : j / 128 = a / 128) :
    (s.wrB kid a b).rdB kid j = if j = a then b else s.rdB kid j := by
  have hs : (s.wrB kid a b).sealOf (j / 128) = kid := by
    rw [State.wrB, State.sealOf_rawPut, State.sealOf_reseal hseal, if_pos hj]
  rw [State.rdB_of_seal hs, State.wrB, State.raw_rawPut, servedAt_reseal, placesAt_reseal]
  by_cases hja : j = a
  · subst hja
    rw [if_pos (servedAt_mem_placesAt s j), if_pos rfl]
  · rw [if_neg fun h => hja (eq_of_served_mem hj h), if_neg hja, ← hj, State.raw_reseal_line]

theorem State.rdB_wrB_other {s : State} (hseal : s.seals.rising = true) (kid a : Nat) (b : Byte) {j : Nat} (k' : Nat)
    (hj : j / 128 ≠ a / 128) (h : ∀ x ∈ placesAt s a, servedAt s j / 128 ≠ x / 128) : (s.wrB kid a b).rdB k' j = s.rdB k' j := by
  have hplaces : ∀ j', j' / 128 = j / 128 → ∀ x ∈ placesAt s (a / 128 * 128), servedAt s j' / 128 ≠ x / 128 := by
    intro j' hj' x hx
    obtain ⟨y, hy, hyx⟩ := (placesAt_line (show a / 128 * 128 / 128 = a / 128 by omega) hx).2
    rw [← hyx, servedAt_line s hj']
    have := h y hy
    omega
  have hraw : ∀ j', j' / 128 = j / 128 → (s.wrB kid a b).raw j' = s.raw j' := by
    intro j' hj'
    rw [State.wrB, State.raw_rawPut, servedAt_reseal, placesAt_reseal, if_neg (not_mem_places_of_lines rfl hj' h),
      State.raw_reseal_other (hplaces j' hj')]
  have hsealj : (s.wrB kid a b).sealOf (j / 128) = s.sealOf (j / 128) := by
    rw [State.wrB, State.sealOf_rawPut, State.sealOf_reseal hseal, if_neg hj]
  unfold State.rdB
  rw [hsealj, hraw j rfl, State.lineUnder_congr k' (fun i hi => hraw _ (by omega)) hsealj]

/-- Settles O55. -/
theorem memoryReadAfterWrite : Obligations.MemoryReadAfterWrite := by
  unfold Obligations.MemoryReadAfterWrite
  refine ⟨fun s kid a b hmem hseal => ⟨?_, fun j hne hj => ?_, fun j k' hj h => State.rdB_wrB_other hseal kid a b k' hj h,
    State.memWf_wrB hmem kid a b, State.rising_seals_wrB hseal kid a b, State.raw_rawPut_self s a b,
    fun j hj => (State.raw_rawPut s a j b).trans (if_neg hj), State.memWf_rawPut hmem a b, rfl⟩,
    fun s u a m b hgone hm hmem hgone' hm' => ?_⟩
  · exact (State.rdB_wrB_line hseal kid a b rfl).trans (if_pos rfl)
  · exact (State.rdB_wrB_line hseal kid a b hj).trans (if_neg hne)
  · have hplaces : placesAt s a = [a, m] := by rw [placesAt, hgone, hm]; rfl
    have hserved : servedAt u a = m := by rw [servedAt, hgone', hm']; rfl
    have hget : u.mem.get? m = some b := by
      rw [hmem, show (s.rawPut a b).mem = (placesAt s a).foldl (fun m x => m.put x b) s.mem from rfl, get?_foldl_put, hplaces]
      simp
    simp [State.raw, hserved, hget]

end Sys2Proof.Machine
end

section
/-!
PROOFS. Translations: what one that answers an address has passed, what a mapped request gets; and checks that raise nothing.
-/

namespace Sys2Proof.Machine

/-! ### The state between a lookup and the checks of its leaf (R471, R474) -/

/-- A part of the state that neither the die's entries, nor counters and memory, are of: a lookup of a leaf keeps it. -/
theorem touchMsc_keeps {α : Type} (f : State → α) (hd : ∀ s k d, f (State.putDie s k d) = f s)
    (hc : ∀ s c, f { s with counters := c } = f s) (s : State) (line hint : Nat) (write : Bool) : f (touchMsc s line hint write) = f s := by
  have hbump : ∀ (t : State) p b n, f (t.bump p b n) = f t := fun t p b n => hc t _
  unfold touchMsc
  split
  · rfl
  · dsimp only
    rw [hd]
    split
    · split
      · rw [hbump]; split
        · rfl
        · exact hbump _ _ _ _
      · split
        · rfl
        · exact hbump _ _ _ _
    · split
      · rfl
      · exact hbump _ _ _ _

theorem leafAt_keeps {α : Type} (f : State → α) (hd : ∀ s k d, f (State.putDie s k d) = f s)
    (hc : ∀ s c, f { s with counters := c } = f s) (s : State) (dk asid : Nat) (back : Bool) (va : Dword) :
    f (leafAt s dk asid back va).1 = f s := by
  have hfold : ∀ (l : List TlbEnt) (t : State), f (l.foldl (fun s e => touchMsc s (e.ent / 128) 0 false) t) = f t :=
    foldl_state_keeps f (fun t e => touchMsc_keeps f hd hc t _ _ _)
  unfold leafAt
  split
  · exact hd _ _ _
  · dsimp only
    split
    · exact (hd _ _ _).trans (hfold _ _)
    · exact hfold _ _

theorem region_leafAt (s : State) (dk asid : Nat) (back : Bool) (va : Dword) (pkg pa : Nat) :
    (leafAt s dk asid back va).1.region pkg pa = s.region pkg pa :=
  leafAt_keeps (fun t => t.region pkg pa) (fun _ _ _ => rfl) (fun _ _ => rfl) s dk asid back va

/-! ### What a leaf that passes its checks allows (R51, R54, R476, R477) -/

/-- The leaf's word with A set, and D for a write. -/
def markedWord (w : Dword) (write : Bool) : Dword := w ||| 0x100#64 ||| (if write then 0x200#64 else 0)

theorem getLsbD_markedWord (w : Dword) (write : Bool) (i : Nat) :
    (markedWord w write).getLsbD i = (w.getLsbD i || decide (i = 8) || (write && decide (i = 9))) := by
  have h8 : ∀ i, (0x100#64).getLsbD i = decide (i = 8) := fun i => by
    rw [show (0x100#64) = BitVec.twoPow 64 8 from rfl, BitVec.getLsbD_twoPow]
    by_cases h : i = 8 <;> simp [h, eq_comm]
  have h9 : ∀ i, (0x200#64).getLsbD i = decide (i = 9) := fun i => by
    rw [show (0x200#64) = BitVec.twoPow 64 9 from rfl, BitVec.getLsbD_twoPow]
    by_cases h : i = 9 <;> simp [h, eq_comm]
  unfold markedWord
  cases write
  · simp [h8]
  · simp [h8, h9]

/-- Marking leaves the address of the page as it is. -/
theorem entPa_markedWord (w : Dword) (write : Bool) : entPa (markedWord w write) = entPa w := by
  have hbits : ∀ x : Dword, bits x.toNat 16 32 = (x.extractLsb' 16 32).toNat := fun x => by
    rw [BitVec.extractLsb'_toNat, Nat.shiftRight_eq_div_pow]; rfl
  have hext : (markedWord w write).extractLsb' 16 32 = w.extractLsb' 16 32 := by
    ext i hi
    rw [BitVec.getElem_extractLsb', BitVec.getElem_extractLsb', getLsbD_markedWord]
    simp [show ¬ (16 + i = 8) by omega, show ¬ (16 + i = 9) by omega]
  rw [entPa, entPa, hbits, hbits, hext]

/-- The leaf of an answer: the one that was checked, marked where the request is a demand access. -/
theorem setAD_leaf (s : State) (dk : Nat) (r : TransReq) (e : TlbEnt) :
    (setAD s dk r e).2 = if r.spec then e else { e with word := markedWord e.word r.write } := by
  unfold setAD
  split
  · rfl
  · by_cases h : e.word ||| 0x100#64 ||| (if r.write then 0x200#64 else 0) = e.word
    · rw [if_pos h]
      show e = { e with word := e.word ||| 0x100#64 ||| (if r.write then 0x200#64 else 0) }
      rw [h]
    · rw [if_neg h]
      rfl

/-- What a leaf says that a request asks of it. -/
structure LeafAllows (r : TransReq) (w : Dword) : Prop where
  read : r.read = true → entR w = true
  write : r.write = true → entW w = true
  fetch : r.fetch = true → entX w = true
  privileged : entPriv w = true → r.privileged = true
  world : entWorld w = true → r.world = true

/-- A chain of checks that raises nothing passes its first. -/
theorem of_ite_some {α : Type} {c : Prop} [Decidable c] {x : α} {y : Option α} (h : (if c then some x else y) = none) : ¬ c ∧ y = none := by
  by_cases hc : c
  · rw [if_pos hc] at h; cases h
  · rw [if_neg hc] at h; exact ⟨hc, h⟩

theorem leafCheck_none {s : State} {pkg pa : Nat} {w : Dword} {r : TransReq} (h : leafCheck s pkg pa w r = none) :
    LeafAllows r w ∧ ∀ d, s.region pkg pa = some d → d.attr.getLsbD 1 = true → r.world = true := by
  obtain ⟨hworld, h⟩ := of_ite_some h
  obtain ⟨hfetch, h⟩ := of_ite_some h
  obtain ⟨hprot, -⟩ := of_ite_some h
  simp only [Bool.or_eq_true, Bool.and_eq_true, Bool.not_eq_true', not_or, not_and, Bool.not_eq_false] at hworld hfetch hprot
  obtain ⟨⟨⟨⟨hr, hw⟩, hp⟩, -⟩, -⟩ := hprot
  refine ⟨⟨hr, hw, hfetch, hp, fun he => hworld (Or.inl he)⟩, fun d hd ha => hworld (Or.inr ?_)⟩
  rw [hd]
  exact ha

theorem badRegion_false {s : State} {ctl : Bool} {dk pa : Nat} (h : badRegion s ctl dk pa = false) :
    ∃ d, s.region (dk / 4) pa = some d ∧ d.attr.getLsbD 0 = ctl := by
  unfold badRegion at h
  split at h
  · cases h
  · rename_i d hd
    simp only [Bool.or_eq_false_iff, bne_eq_false_iff_eq] at h
    exact ⟨d, hd, h.1⟩

/-- What the answer of a leaf that was not MOVING says. -/
theorem xlLeaf_ok {s t : State} {dk pa : Nat} {r : TransReq} {e e' : TlbEnt} (h : xlLeaf s dk r e = (t, .ok pa e'))
    (hm : entMoving e.word = false) :
    pa = dk / 4 * 2 ^ 40 + (entPa e'.word + r.va.toNat % 2 ^ tierShift e'.tier) ∧ entMoving e'.word = false ∧ LeafAllows r e'.word ∧
    (∃ d, s.region (dk / 4) (entPa e'.word + r.va.toNat % 2 ^ tierShift e'.tier) = some d ∧
      d.attr.getLsbD 0 = decide (spaceOf r.va = .control) ∧ (d.attr.getLsbD 1 = true → r.world = true)) ∧
    (r.spec = false → entA e'.word = true ∧ (r.write = true → entD e'.word = true)) := by
  unfold xlLeaf at h
  dsimp only at h
  split at h
  · cases h
  rename_i hreg
  split at h
  · cases h
  rename_i hleaf
  obtain ⟨d, hd, hattr⟩ := badRegion_false (Bool.eq_false_iff.2 hreg)
  obtain ⟨hallows, hsecure⟩ := leafCheck_none hleaf
  have he' : e' = (setAD s dk r e).2 := by injection h with _ h; injection h with _ h; exact h.symm
  have hpa : pa = dk / 4 * 2 ^ 40 + (entPa e.word + r.va.toNat % 2 ^ tierShift e.tier) := by
    injection h with _ h; injection h with h _; exact h.symm
  rw [setAD_leaf] at he'
  by_cases hspec : r.spec = true
  · rw [if_pos hspec] at he'
    subst he'
    exact ⟨hpa, hm, hallows, ⟨d, hd, hattr, hsecure d hd⟩, fun hs => absurd (hspec.symm.trans hs) (by decide)⟩
  · rw [if_neg hspec] at he'
    subst he'
    have hbit : ∀ i, i ≠ 8 → i ≠ 9 → (markedWord e.word r.write).getLsbD i = e.word.getLsbD i := fun i h8 h9 => by
      rw [getLsbD_markedWord]; simp [h8, h9]
    refine ⟨by rw [entPa_markedWord]; exact hpa, (hbit 13 (by omega) (by omega)).trans hm, ?_, ⟨d, ?_, hattr, hsecure d hd⟩,
      fun _ => ⟨?_, fun hw => ?_⟩⟩
    · exact ⟨fun h => (hbit 5 (by omega) (by omega)).trans (hallows.read h), fun h => (hbit 6 (by omega) (by omega)).trans (hallows.write h),
        fun h => (hbit 7 (by omega) (by omega)).trans (hallows.fetch h),
        fun h => hallows.privileged ((hbit 10 (by omega) (by omega)).symm.trans h),
        fun h => hallows.world ((hbit 11 (by omega) (by omega)).symm.trans h)⟩
    · rw [entPa_markedWord]; exact hd
    · show (markedWord e.word r.write).getLsbD 8 = true
      rw [getLsbD_markedWord]; simp
    · show (markedWord e.word r.write).getLsbD 9 = true
      rw [getLsbD_markedWord]; simp [hw]

/-- A translation that answers ends at a leaf that is not MOVING, at a die of the address's package. -/
theorem xlate_ok {s t : State} {r : TransReq} {pa : Nat} {e : TlbEnt} (h : xlate s r = (t, .ok pa e)) :
    asidOk s (transDie r.va) r = true ∧ ∃ u dk e0, dk / 4 = transDie r.va / 4 ∧ (∀ p x, u.region p x = s.region p x) ∧
      entMoving e0.word = false ∧ xlLeaf u dk r e0 = (t, .ok pa e) := by
  unfold xlate at h
  dsimp only at h
  split at h
  · cases h
  rename_i hasid
  refine ⟨by simpa using hasid, ?_⟩
  generalize (if spaceOf r.va = .control then 0 else r.asid) = asid at h
  have hfront := region_leafAt s (transDie r.va) asid false r.va
  generalize leafAt s (transDie r.va) asid false r.va = front at h hfront
  obtain ⟨u, x⟩ := front
  cases x with
  | fault => cases h
  | invalid => cases h
  | leaf e0 =>
    dsimp only at h hfront
    split at h
    · cases h
    split at h
    · cases h
    rename_i hmoving
    split at h
    · have hback := region_leafAt u (transDie r.va / 4 * 4 + bits e0.word.toNat 16 2) asid true r.va
      generalize leafAt u (transDie r.va / 4 * 4 + bits e0.word.toNat 16 2) asid true r.va = bk at h hback
      obtain ⟨v, y⟩ := bk
      cases y with
      | fault => cases h
      | invalid => cases h
      | leaf e1 =>
        dsimp only at h hback
        split at h
        · cases h
        rename_i hm
        have hlt : bits e0.word.toNat 16 2 < 4 := Nat.mod_lt _ (by decide)
        exact ⟨v, _, e1, by omega, fun p x => (hback p x).trans (hfront p x), Bool.eq_false_iff.2 hm, h⟩
    · exact ⟨u, _, e0, rfl, hfront, Bool.eq_false_iff.2 hmoving, h⟩

/-- Settles O58. -/
theorem translationChecks : Obligations.TranslationChecks := by
  unfold Obligations.TranslationChecks
  intro s t r pa e h
  obtain ⟨hasid, u, dk, e0, hdk, hreg, hm, hleaf⟩ := xlate_ok h
  obtain ⟨hpa, hmoving, hallows, ⟨d, hd, hattr, hworld⟩, hmarked⟩ := xlLeaf_ok hleaf hm
  rw [hdk] at hpa hd
  exact ⟨hasid, by rw [hpa]; omega, hmoving, hallows.read, hallows.write, hallows.fetch, hallows.privileged, hallows.world,
    ⟨d, (hreg _ _).symm.trans hd, hattr, hworld⟩, hmarked⟩

/-! ### Mapped requests (R470 to R477) -/

theorem leafAt_hit {s : State} {dk asid : Nat} {back : Bool} {va : Dword} {e : TlbEnt} (h : (s.die dk).lookup asid back va = some e) :
    leafAt s dk asid back va = (s.putDie dk ((s.die dk).fillTlb va [e]), .leaf e) := by
  rw [leafAt, h]

/-- A leaf that fits its memory's region. -/
theorem badRegion_of {s : State} {ctl : Bool} {dk pa : Nat} {d : RegionDesc} (hd : s.region (dk / 4) pa = some d)
    (hattr : d.attr.getLsbD 0 = ctl) (hmem : if ctl then primaryHome pa = true else bits pa 37 3 = dk % 4) : badRegion s ctl dk pa = false := by
  rw [badRegion, hd]
  show (d.attr.getLsbD 0 != ctl || _) = false
  cases ctl
  · rw [if_neg Bool.false_ne_true] at hmem ⊢
    rw [hattr, hmem, bne_self_eq_false, bne_self_eq_false]
    rfl
  · rw [if_pos rfl] at hmem ⊢
    rw [hattr, hmem, bne_self_eq_false]
    rfl

/-- The leaf allows the request. -/
theorem leafCheck_of {s : State} {pkg pa : Nat} {w : Dword} {r : TransReq} (h : LeafAllows r w)
    (hreg : ∀ d, s.region pkg pa = some d → d.attr.getLsbD 1 = true → r.world = true) (hen : (s.slot pkg (entKey w)).en = true)
    (hslot : (s.slot pkg (entKey w)).world = true → entWorld w = true) : leafCheck s pkg pa w r = none := by
  obtain ⟨hr, hw, hf, hp, hworld⟩ := h
  have hsecure : ¬ ((entWorld w || (match s.region pkg pa with
      | some d => d.attr.getLsbD 1
      | none => false)) && !r.world) = true := by
    cases hreg' : s.region pkg pa with
    | none => cases hx : r.world <;> simp_all
    | some d => have := hreg d hreg'; cases hx : r.world <;> simp_all
  refine (if_neg hsecure).trans ((if_neg ?_).trans (if_neg ?_))
  · cases hx : r.fetch <;> simp_all
  · simp only [Bool.or_eq_true, Bool.and_eq_true, Bool.not_eq_true', not_or, not_and, Bool.not_eq_false]
    exact ⟨⟨⟨⟨hr, hw⟩, hp⟩, hen⟩, hslot⟩

/-- A and D that are set already need no update. -/
theorem setAD_marked {s : State} {dk : Nat} {r : TransReq} {e : TlbEnt} (ha : entA e.word = true) (hd : r.write = true → entD e.word = true) :
    setAD s dk r e = (s, e) := by
  unfold setAD
  split
  · rfl
  · refine if_pos ?_
    show markedWord e.word r.write = e.word
    refine BitVec.eq_of_getLsbD_eq fun i _ => ?_
    rw [getLsbD_markedWord]
    by_cases h8 : i = 8
    · subst h8
      simp [show e.word.getLsbD 8 = true from ha]
    · by_cases h9 : i = 9
      · subst h9
        cases hw : r.write
        · simp
        · simp [show e.word.getLsbD 9 = true from hd hw]
      · simp [h8, h9]

theorem Mapped.allows {s : State} {r : TransReq} {e : TlbEnt} (h : Mapped s r e) : LeafAllows r e.word :=
  ⟨h.read, fun hw => (h.write hw).1, h.fetch, h.privileged, h.world⟩

theorem Mapped.badRegion {s : State} {r : TransReq} {e : TlbEnt} (h : Mapped s r e) :
    badRegion (mappedState s r e) (decide (spaceOf r.va = .control)) (transDie r.va)
      (entPa e.word + r.va.toNat % 2 ^ tierShift e.tier) = false := by
  obtain ⟨d, hd, hattr, -⟩ := h.place
  refine badRegion_of (d := d) hd hattr ?_
  have := h.memory
  by_cases hc : spaceOf r.va = .control <;> simpa [hc] using this

theorem Mapped.leafCheck {s : State} {r : TransReq} {e : TlbEnt} (h : Mapped s r e) :
    leafCheck (mappedState s r e) (transDie r.va / 4) (entPa e.word + r.va.toNat % 2 ^ tierShift e.tier) e.word r = none := by
  obtain ⟨d, hd, -, hworld⟩ := h.place
  refine leafCheck_of (Mapped.allows h) (fun d' hd' => ?_) h.key.1 h.key.2
  have hdd : d' = d := Option.some.inj (hd'.symm.trans hd)
  exact hdd ▸ hworld

/-- A mapped request translates. -/
theorem xlate_mapped {s : State} {r : TransReq} {e : TlbEnt} (h : Mapped s r e) : xlate s r = (mappedState s r e, .ok (mappedPa r e) e) := by
  have hleaf : xlLeaf (mappedState s r e) (transDie r.va) r e = (mappedState s r e, .ok (mappedPa r e) e) := by
    unfold xlLeaf
    dsimp only
    rw [if_neg (by rw [Mapped.badRegion h]; exact Bool.false_ne_true), Mapped.leafCheck h]
    dsimp only
    rw [setAD_marked h.marked (fun hw => (h.write hw).2)]
    rfl
  unfold xlate
  rw [if_neg (by rw [h.asid]; decide)]
  dsimp only
  rw [leafAt_hit h.hit]
  dsimp only
  rw [if_neg (by rw [h.hit]; simp), if_neg (by rw [h.still.1]; decide), if_neg (by rw [h.still.2]; decide)]
  exact hleaf

theorem pocOpen_mappedControl {s : State} {r : TransReq} {e : TlbEnt} (h : MappedControl s r e) :
    pocOpen s r = (pocLine (mappedState s r e) (mappedPa r e / 128) r.write, .ok (mappedPa r e, e.word)) := by
  obtain ⟨hmap, hctl, hpoison, hclass⟩ := h
  unfold pocOpen
  rw [xlate_mapped hmap]
  have hp : ¬ (r.read && ((mappedState s r e).home (mappedPa r e / 128)).poisoned) = true := by
    show ¬ (r.read && (s.home (mappedPa r e / 128)).poisoned) = true
    cases hx : r.read
    · simp
    · simp [hpoison hx]
  refine (if_pos hctl).trans ((if_neg hp).trans (if_pos ?_))
  rcases hclass with hclass | ⟨hclass, hw⟩
  · simp [hclass]
  · simp [hclass, hw]

theorem pocOpen_mappedTensor {s : State} {r : TransReq} {e : TlbEnt} (h : Mapped s r e) (ht : spaceOf r.va = .tensor) (hw : r.write = false) :
    pocOpen s r = (mappedState s r e, .ok (mappedPa r e, e.word)) := by
  unfold pocOpen
  rw [xlate_mapped h]
  exact (if_neg (by rw [ht]; decide)).trans (if_neg (by simp [hw]))

/-- A range in one line is one piece. -/
theorem chunksOf_line {va : Dword} {n : Nat} (hn : 0 < n) (h : va.toNat % 128 + n ≤ 128) : chunksOf va n = [(va, n)] := by
  have hmin : min n (128 - va.toNat % 128) = n := by omega
  have hrest : ∀ f va, chunks f va 0 = [] := fun f va => by cases f <;> rfl
  unfold chunksOf
  rw [show n / 128 + 2 = (n / 128 + 1) + 1 from rfl, chunks, if_neg (by omega)]
  dsimp only
  rw [hmin, Nat.sub_self, hrest]

theorem pocRead_line {s t : State} {r : TransReq} {n pa : Nat} {leaf : Dword} (hn : 0 < n) (h : r.va.toNat % 128 + n ≤ 128)
    (ho : pocOpen s r = (t, .ok (pa, leaf))) : pocRead s r n = (touchMsc t (pa / 128) 0 false, .ok (physRead t pa leaf n)) := by
  unfold pocRead
  rw [chunksOf_line hn h, List.foldl_cons, List.foldl_nil]
  dsimp only
  rw [show ({ r with va := r.va } : TransReq) = r from rfl, ho]
  rfl

theorem cpNum_of_pocRead {s t : State} {r : TransReq} {n : Nat} {bs : List Byte} (h : pocRead s r n = (t, .ok bs)) :
    cpNum s r n = (t, some (bytesNat bs)) := by
  unfold cpNum cpRead
  rw [h]
  rfl

/-- A PCLASS finds the leaf of a mapped page. -/
theorem classLeaf_mapped {s : State} {gk : Nat} {va : Dword} {wr : Bool} {e : TlbEnt}
    (h : Mapped s { (s.grp gk).req 0 va with read := false, write := wr } e) (hc : spaceOf va = .control) :
    classLeaf s gk va wr = (mappedState s { (s.grp gk).req 0 va with read := false, write := wr } e, .ok e) := by
  have hctl : decide (spaceOf ({ (s.grp gk).req 0 va with read := false, write := wr } : TransReq).va = .control) = true := decide_eq_true hc
  have hbad := Mapped.badRegion h
  have hcheck := Mapped.leafCheck h
  have hhit : (s.die (transDie va)).lookup 0 false va = some e := h.hit.symm ▸ (by
    show _ = (s.die (transDie va)).lookup (if spaceOf va = .control then 0 else _) false va
    rw [if_pos hc])
  rw [hctl] at hbad
  unfold classLeaf
  rw [if_neg (by rw [show (asidOk s (transDie va) { (s.grp gk).req 0 va with read := false, write := wr }) = true from h.asid]; decide)]
  dsimp only
  rw [leafAt_hit hhit]
  dsimp only
  rw [if_neg (by rw [hhit]; simp)]
  refine (if_neg (by
    intro hb
    exact Bool.false_ne_true (hbad.symm.trans hb))).trans ?_
  refine (show _ = (match leafCheck (mappedState s { (s.grp gk).req 0 va with read := false, write := wr } e) (transDie va / 4)
      (entPa e.word + va.toNat % 2 ^ tierShift e.tier) e.word { (s.grp gk).req 0 va with read := false, write := wr } with
    | some c => if c = causeSecurity ∨ wr = true then
        (mappedState s { (s.grp gk).req 0 va with read := false, write := wr } e, Acc.stop (.cause c))
      else (mappedState s { (s.grp gk).req 0 va with read := false, write := wr } e, Acc.ok e)
    | none => (mappedState s { (s.grp gk).req 0 va with read := false, write := wr } e, Acc.ok e)) from rfl).trans ?_
  rw [show leafCheck (mappedState s { (s.grp gk).req 0 va with read := false, write := wr } e) (transDie va / 4)
      (entPa e.word + va.toNat % 2 ^ tierShift e.tier) e.word { (s.grp gk).req 0 va with read := false, write := wr } = none from hcheck]

theorem translationsPass : Parts.TranslationsPass := by
  unfold Parts.TranslationsPass
  refine ⟨fun s r e h => xlate_mapped h, fun s r e h => pocOpen_mappedControl h, fun s r e h ht hw => pocOpen_mappedTensor h ht hw,
    fun s r e n t hn h ho => ⟨pocRead_line hn h ho, cpNum_of_pocRead (pocRead_line hn h ho)⟩, fun s gk va wr e h hc => classLeaf_mapped h hc⟩

end Sys2Proof.Machine
end

section
/-!
PROOFS. The checks of R51 that raise nothing.
-/

namespace Sys2Proof.Machine

/-! ### Ranges in one region (R48) -/

theorem spaceOf_congr {va vb : Dword} (h62 : va.toNat / 2 ^ 62 = vb.toNat / 2 ^ 62)
    (h60 : va.toNat / 2 ^ 60 = vb.toNat / 2 ^ 60) : spaceOf vb = spaceOf va := by
  unfold spaceOf bits
  rw [h62, h60]

/-- The last byte of a range that lies in one region: no overflow, and the same region key. -/
theorem region_last {va : Dword} {n : Nat} (hn : 0 < n) (hk : spaceOf va ≠ .reserved)
    (h : va.toNat / regionSpan va = (va.toNat + n - 1) / regionSpan va) :
    va.toNat + (n - 1) < 2 ^ 64 ∧ regionKey (va + BitVec.ofNat 64 (n - 1)) = regionKey va := by
  have hva := va.isLt
  have hall : va.toNat / 2 ^ 60 = (va.toNat + n - 1) / 2 ^ 60 ∧ va.toNat / 2 ^ 62 = (va.toNat + n - 1) / 2 ^ 62 ∧
      (spaceOf va = .control → va.toNat / 2 ^ 57 = (va.toNat + n - 1) / 2 ^ 57) ∧
      (spaceOf va = .tensor → va.toNat / 2 ^ 55 = (va.toNat + n - 1) / 2 ^ 55) := by
    unfold regionSpan at h
    cases hs : spaceOf va with
    | reserved => exact absurd hs hk
    | _ => simp only [hs] at h; simp; omega
  obtain ⟨h60, h62, h57, h55⟩ := hall
  have hlt : va.toNat + (n - 1) < 2 ^ 64 := by omega
  have hlast : (va + BitVec.ofNat 64 (n - 1)).toNat = va.toNat + n - 1 := by
    rw [BitVec.toNat_add, BitVec.toNat_ofNat]
    omega
  have hspace : spaceOf (va + BitVec.ofNat 64 (n - 1)) = spaceOf va := spaceOf_congr (by rw [hlast]; exact h62) (by rw [hlast]; exact h60)
  refine ⟨hlt, ?_⟩
  unfold regionKey bits
  rw [hspace, hlast]
  cases hs : spaceOf va with
  | control => simp only [← h57 hs]
  | tensor => simp only [← h55 hs]
  | reserved => exact absurd hs hk
  | _ => simp only [← h60]

/-! ### Windows (R39, R40) -/

theorem find_binding {c : Cohort} {o i : Nat} {b : Binding} (h : c.bindingOf o = some b) (hi : i < b.so + b.len) (ho : o ≤ i) :
    (c.bindingOf i).isNone = false := by
  have hb : b ∈ c.stash := List.mem_of_find?_eq_some h
  have hp := List.find?_some h
  simp only [Bool.and_eq_true, decide_eq_true_eq] at hp
  cases hf : c.bindingOf i with
  | some _ => rfl
  | none =>
    have := List.find?_eq_none.1 hf b hb
    simp only [Bool.and_eq_true, decide_eq_true_eq, not_and] at this
    exact absurd hi (this (by omega))

theorem unboundFrom_bound {c : Cohort} {o e : Nat} {b : Binding} (h : c.bindingOf o = some b) (he : e ≤ b.so + b.len) (f : Nat) :
    unboundFrom c (f + 2) o e = none := by
  rw [unboundFrom]
  split
  · rfl
  · rw [h]
    exact if_pos he

theorem windowFail_passes {s : State} {g : Machine.Group} {allow : Space → Bool → Bool} {va : Dword} {n : Nat}
    (h : RangePasses s g allow va n) :
    windowFail s g (spaceOf va) (vaOff va) (vaOff va + n) = none := by
  unfold windowFail
  cases hs : spaceOf va with
  | scratch => exact if_pos (h.scratch hs)
  | priv => exact if_pos (h.private_ hs)
  | stash =>
    obtain ⟨hlim, b, hb, hlen⟩ := h.stash hs
    dsimp only
    rw [unboundFrom_bound hb (by omega) 7]
    exact if_pos hlim
  | neigh =>
    obtain ⟨-, -, hall⟩ := h.neighbour hs
    refine List.findSome?_eq_none_iff.2 fun k _ => if_neg fun hlt => ?_
    have hsome := h.some_
    have := hall (max (vaOff va) (k * 0x40000 + neighLimit s (s.cohort g.cohort) k) - vaOff va) (by omega)
    have hsum : vaOff va + (max (vaOff va) (k * 0x40000 + neighLimit s (s.cohort g.cohort) k) - vaOff va) =
        max (vaOff va) (k * 0x40000 + neighLimit s (s.cohort g.cohort) k) := by omega
    have hslot : max (vaOff va) (k * 0x40000 + neighLimit s (s.cohort g.cohort) k) / 0x40000 = k := by omega
    rw [hsum, hslot] at this
    omega
  | _ => rfl

theorem extentCheck_passes {s : State} {g : Machine.Group} {allow : Space → Bool → Bool} {va : Dword} {n : Nat}
    (h : RangePasses s g allow va n) : extentCheck s g allow va n = none := by
  unfold extentCheck
  refine (if_neg h.known).trans ((if_neg (not_not.2 h.region)).trans ((if_neg (by rw [h.may]; decide)).trans ?_))
  by_cases hg : (spaceOf va).global = true
  · exact (if_pos hg).trans (if_neg (by have := h.domain hg; omega))
  · refine (if_neg hg).trans ((if_neg ?_).trans ?_)
    · intro hn
      simp only [Bool.and_eq_true, decide_eq_true_eq] at hn
      have := (h.neighbour hn.1).1
      omega
    · rw [windowFail_passes h]
      rfl

theorem offsetBad_passes {s : State} {g : Machine.Group} {allow : Space → Bool → Bool} {va : Dword} {n : Nat}
    (h : RangePasses s g allow va n) {i : Nat} (hi : i < n) : offsetBad s g (spaceOf va) (vaOff va + i) = false := by
  unfold offsetBad
  cases hs : spaceOf va with
  | scratch => have := h.scratch hs; exact decide_eq_false (by omega)
  | priv => have := h.private_ hs; exact decide_eq_false (by omega)
  | stash =>
    obtain ⟨hlim, b, hb, hlen⟩ := h.stash hs
    dsimp only
    rw [find_binding hb (by omega) (by omega), decide_eq_false (by omega)]
    rfl
  | neigh => exact decide_eq_false (by have := (h.neighbour hs).2.2 i hi; omega)
  | _ => rfl

theorem rangeCheck_passes {s : State} {g : Machine.Group} {kind : AccKind} {va : Dword} {n : Nat}
    (h : RangePasses s g (spaceAllowed kind) va n) : rangeCheck s g kind va n = none := by
  obtain ⟨hlt, hkey⟩ := region_last h.some_ h.known h.region
  have hroom : decide (2 ^ 64 ≤ va.toNat + (n - 1)) = false := decide_eq_false (by omega)
  unfold rangeCheck
  refine (if_neg h.known).trans ((if_neg ?_).trans ((if_neg (by rw [h.may]; decide)).trans ?_))
  · rw [hkey, hroom]
    simp
  by_cases hg : (spaceOf va).global = true
  · exact (if_pos hg).trans (if_neg (by have := h.domain hg; omega))
  · refine (if_neg hg).trans ?_
    have hrole : (if spaceOf va = .neigh then ((List.range n).map (fun i => vaOff va + i)).find? (fun o => decide (g.info.neigh ≤ o / 0x40000))
        else none) = none := by
      split
      · rename_i hs
        obtain ⟨hsize, -⟩ := h.neighbour hs
        refine List.find?_eq_none.2 fun o ho => ?_
        obtain ⟨i, hi, rfl⟩ := List.mem_map.1 ho
        have hi := List.mem_range.1 hi
        simp only [decide_eq_true_eq]
        omega
      · rfl
    have hoffs : ((List.range n).map (fun i => vaOff va + i)).find? (offsetBad s g (spaceOf va)) = none := by
      refine List.find?_eq_none.2 fun o ho => ?_
      obtain ⟨i, hi, rfl⟩ := List.mem_map.1 ho
      rw [offsetBad_passes h (List.mem_range.1 hi)]
      decide
    dsimp only
    rw [hrole]
    dsimp only
    rw [hoffs]

theorem accCheck_passes {s : State} {g : Machine.Group} {kind : AccKind} {va : Dword} {n align : Nat} (ha : va.toNat % align = 0)
    (h : RangePasses s g (spaceAllowed kind) va n) : accCheck s g kind va n align = none :=
  (if_neg (not_not.2 ha)).trans (rangeCheck_passes h)

/-! ### Operands of engines -/

theorem operandCheck_passes {s : State} {g : Machine.Group} {allow : Space → Bool → Bool} {align : Nat} {addr : Dword}
    {stride lines bytes : Nat} (h : OperandPasses s g allow align addr stride lines bytes) :
    operandCheck s g allow align addr stride lines bytes = none := by
  obtain ⟨ha, hs, hrange⟩ := h
  refine (if_neg (by omega)).trans ?_
  split
  · rfl
  · rename_i hzero
    rcases hrange with h | h | h
    · exact absurd (Or.inl h) hzero
    · exact absurd (Or.inr h) hzero
    · exact extentCheck_passes h

theorem areaCheck_passes {s : State} {g : Machine.Group} {addr : Dword} {tm mm : Half} (ha : addr.toNat % 256 = 0)
    (h : ∀ p ∈ areaParts addr tm mm, RangePasses s g tileTarget p.1 p.2) : areaCheck s g addr tm mm = none :=
  (if_neg (not_not.2 ha)).trans (List.findSome?_eq_none_iff.2 fun p hp => extentCheck_passes (h p hp))

theorem copyCheck_passes {s : State} {g : Machine.Group} {j : CopyJob} (h : CopyPasses s g j) : copyCheck s g j = none := by
  obtain ⟨hranges, hbar⟩ := h
  have hnone : (if j.bytes = 0 then none else j.ranges.findSome? (fun r => extentCheck s g copyAllow r.1 r.2)) = none := by
    split
    · rfl
    · rename_i hb
      exact List.findSome?_eq_none_iff.2 fun r hr => extentCheck_passes ((hranges.resolve_left hb) r hr)
  unfold copyCheck
  rw [hnone]
  cases hj : j.bar with
  | none => rfl
  | some va => exact accCheck_passes (hbar va hj).1 (hbar va hj).2

theorem sconfCheck_passes {s : State} {g : Machine.Group} {va : Dword} (ha : va.toNat % 128 = 0)
    (hs : spaceOf va = .control ∨ (spaceOf va = .tensor ∧ vaDie va = dieOfCore g.core % 4)) (hp : vaPkg va = dieOfCore g.core / 4)
    (hd : vaPkg va < s.domain) : sconfCheck s g va = none := by
  refine (if_neg (not_not.2 ha)).trans ((if_neg ?_).trans ((if_neg ?_).trans (if_neg (by omega))))
  · rcases hs with h | ⟨h, -⟩ <;> rw [h] <;> decide
  · rcases hs with h | ⟨h, hdie⟩
    · simp [inTensor, inControl, h, ha, hp]
    · have ht : transDie va = dieOfCore g.core := by
        rw [transDie, if_neg (by rw [h]; decide), hp, hdie]
        omega
      simp [inTensor, inControl, h, ha, ht]

theorem descCheck_passes {s : State} {va : Dword} {align : Nat} (ha : va.toNat % align = 0) (hs : spaceOf va = .control)
    (hd : vaPkg va < s.domain) : descCheck s va align = none :=
  (if_neg (not_not.2 ha)).trans ((if_neg (by rw [hs]; decide)).trans ((if_neg (not_not.2 hs)).trans (if_neg (by omega))))

theorem cmaintCheck_passes {s : State} {g : Machine.Group} {va : Dword} {len : Nat} (hk : spaceOf va ≠ .reserved)
    (hr : regionKey va = regionKey (va + BitVec.ofNat 64 (len - 1))) (ht : spaceOf va = .tensor → vaPkg va = pkgOfCore g.core)
    (hc : spaceOf va = .control → vaPkg va < s.domain) : cmaintCheck s g va len = none :=
  (if_neg hk).trans ((if_neg (not_not.2 hr)).trans ((if_neg fun h => h.2 (ht h.1)).trans (if_neg fun h => by
    have := hc h.1
    omega)))

/-- The checks that raise nothing. -/
theorem checksPass : Parts.ChecksPass := by
  unfold Parts.ChecksPass
  exact ⟨fun s g allow va n h => extentCheck_passes h, fun s g kind va n align ha h => accCheck_passes ha h,
    fun s g allow align addr stride lines bytes h => operandCheck_passes h, fun s g addr tm mm ha h => areaCheck_passes ha h,
    fun s g j h => copyCheck_passes h, fun s g va ha hs hp hd => sconfCheck_passes ha hs hp hd,
    fun s va align ha hs hd => descCheck_passes ha hs hd, fun s g va len hk hr ht hc => cmaintCheck_passes hk hr ht hc⟩

/-- Settles O60. -/
theorem passingChecks : Obligations.PassingChecks := ⟨checksPass, translationsPass⟩

end Sys2Proof.Machine
end

section
/-!
PROOFS. Walks and the faults that they record, the completion of a pending instruction, and the ports of Spewlink.
-/

namespace Sys2Proof.Machine

/-! ### Walks and faults (R471 to R487) -/

theorem mtlbRequest_eq {s : State} {dk : Nat} {r : TransReq} (hdie : transDie r.va = dk) (hg : (spaceOf r.va).global = true)
    (ha : asidOk s dk r = true) : mtlbRequest s dk r =
      match (s.die dk).lookup (if spaceOf r.va = .control then 0 else r.asid) false r.va with
      | some _ =>
        match xlate s r with
        | (s, .fault d fva) => if r.spec then specDrop s d else (recordFault s d { r with va := fva }).1
        | (s', .refuse _) => if r.spec then specDrop s' dk else s'
        | (s, _) => s
      | none => if (s.die dk).walks.length < 16 then s.putDie dk { (s.die dk) with walks := (s.die dk).walks ++ [r] } else s :=
  if_neg (by simp [hdie, hg, ha])

theorem walkComplete_eq {s : State} {dk : Nat} {r : TransReq} (h : (s.die dk).walks.contains r = true) : walkComplete s dk r =
    match leafAt (s.putDie dk { (s.die dk) with walks := (s.die dk).walks.erase r }) dk (if spaceOf r.va = .control then 0 else r.asid) false r.va with
    | (s, .leaf _) => if r.who.pkg = dk / 4 ∧ !r.spec then (xlate s r).1 else s
    | (s, .invalid) => s
    | (s, .fault) => if r.spec then specDrop s dk else (recordFault s dk r).1 :=
  if_neg (by rw [h]; decide)

/-- Settles O43: each event by the answer of its lookup. -/
theorem walksAndFaults : Obligations.WalksAndFaults := by
  unfold Obligations.WalksAndFaults
  refine ⟨fun s dk r hdie hg ha => ⟨fun hl hw => congrArg Host.Outcome.next ?_, fun e t pa hl hx => congrArg Host.Outcome.next ?_⟩,
    fun s dk r h => ⟨fun t e hl hp => congrArg Host.Outcome.next ?_, fun t hl hs => congrArg Host.Outcome.next ?_,
      fun t hl hs => congrArg Host.Outcome.next ?_⟩,
    fun s dk r => ⟨fun i e hi he => ?_, fun i hi hf hne => ?_, fun hi hf hd => ?_⟩⟩
  · rw [mtlbRequest_eq hdie hg ha, hl]
    exact if_pos hw
  · rw [mtlbRequest_eq hdie hg ha, hl, hx]
  · rw [walkComplete_eq h, hl]
    exact if_neg fun hc => hp hc.1
  · rw [walkComplete_eq h, hl]
    exact if_neg (by simp [hs])
  · rw [walkComplete_eq h, hl]
    exact if_pos hs
  · rw [recordFault, hi]
    dsimp only
    rw [he]
  · have hfirst : (s.die dk).faults.isEmpty = false := by simpa using hne
    rw [recordFault, hi, hf, hfirst]
    rfl
  · rw [recordFault, hi, hf, hd]
    rfl

/-! ### Completion (R104, R218) -/

theorem complete_eq {s : State} {gk n : Nat} {g : Group} {p : Pend} (hg : s.groups.get? gk = some g)
    (hp : g.pend.find? (fun p => p.id == n) = some p) : complete s gk n = if g.completable p then s.putGrp gk (g.complete p) else s := by
  rw [complete, hg]
  dsimp only
  rw [hp]

/-- The group after the results and the flag of a completion. -/
def Group.afterLanding (g : Group) (p : Pend) : Group :=
  if p.flag < 12 then (g.setRegs p.outs).putFlag p.flag ((g.setRegs p.outs).flag p.flag - 1) else g.setRegs p.outs

theorem Group.afterLanding_keeps (g : Group) (p : Pend) : (g.afterLanding p).pend = g.pend ∧
    (g.afterLanding p).regs = (g.setRegs p.outs).regs ∧ (g.afterLanding p).trap = g.trap ∧ (g.afterLanding p).run = g.run ∧
    (g.afterLanding p).region = g.region := by
  unfold Group.afterLanding
  split <;> exact ⟨rfl, rfl, rfl, rfl, rfl⟩

theorem Group.afterLanding_flag {g : Group} {p : Pend} (h : p.flag < 12) (hr : g.flags.rising = true) :
    (g.afterLanding p).flag p.flag = g.flag p.flag - 1 := by
  rw [Group.afterLanding, if_pos h]
  exact (Tab.getD_store hr 0 p.flag p.flag _).trans (if_pos rfl)

/-- The group that has taken the cause which a completion brings. -/
def Group.afterCause (g : Group) (p : Pend) : Group :=
  match p.cause with
  | some c => (g.afterLanding p).post c.2
  | none => g.afterLanding p

theorem Group.post_region (g : Group) (t : Trap) : (g.post t).region = g.region := by
  unfold Group.post
  split
  · split <;> rfl
  · rfl

theorem Group.completeFp_nil {p : Pend} (h : p.fp = []) (g : Group) : g.completeFp p = g := by
  rw [Group.completeFp, h]
  cases g.run <;> rfl

/-- A completion that reports no floating condition and meets no rollback that is due. -/
theorem Group.complete_plain {g : Group} {p : Pend} (hdue : g.region.due = false) (hw : g.window = []) (he : g.ecc = []) (hfp : p.fp = [])
    (hq : p.qouts = []) (hv : p.vpbits = []) :
    g.complete p = { g.afterCause p with pend := (g.afterCause p).pend.filter (fun q => q.id != p.id) } := by
  have hstrip : ∀ f : WinEntry → WinEntry, ({ g with window := g.window.map f } : Group) = g := by
    intro f
    rw [hw, List.map_nil, ← hw]
  have hregion : (g.afterCause p).region = g.region := by
    unfold Group.afterCause
    split
    · exact (Group.post_region _ _).trans (g.afterLanding_keeps p).2.2.2.2
    · exact (g.afterLanding_keeps p).2.2.2.2
  unfold Group.complete
  rw [hq, hv]
  simp only [List.flatMap_nil, List.append_nil, List.foldl_nil, hstrip, putRegs_clean he, Group.completeFp_nil hfp]
  show (if (g.afterCause p).region.due && ((g.afterCause p).pend.filter (fun q => q.id != p.id)).isEmpty then _ else
    ({ g.afterCause p with pend := (g.afterCause p).pend.filter (fun q => q.id != p.id) } : Group)) = _
  exact if_neg (by rw [hregion, hdue]; exact Bool.false_ne_true)

/-- What taking a cause leaves but the trap registers. -/
theorem Group.post_keeps (g : Group) (t : Trap) : (g.post t).pend = g.pend ∧ (g.post t).regs = g.regs ∧ (g.post t).flags = g.flags := by
  unfold Group.post
  split
  · split <;> exact ⟨rfl, rfl, rfl⟩
  · exact ⟨rfl, rfl, rfl⟩

theorem Group.post_free {g : Group} {t : Trap} (hr : g.run = .running) (h : g.trap.pending.get? (trapClass t.cause) = none) :
    (g.post t).trap = { g.trap with pending := g.trap.pending.put (trapClass t.cause) t } := by
  rw [Group.post, hr]
  dsimp only
  rw [h]

theorem Group.post_full {g : Group} {t : Trap} (hr : g.run = .running) (h : g.trap.pending.get? (trapClass t.cause) ≠ none) :
    (g.post t).trap = { g.trap with err := g.trap.err ||| 0x10000#32 } := by
  obtain ⟨x, hx⟩ := Option.ne_none_iff_exists'.1 h
  rw [Group.post, hr]
  dsimp only
  rw [hx]

/-- Settles O44. -/
theorem completion : Obligations.Completion := by
  unfold Obligations.Completion
  refine ⟨fun s gk n g p hg hp he => ⟨fun hw hv => congrArg Host.Outcome.next ?_, fun hw => congrArg Host.Outcome.next ?_⟩,
    fun g p hdue hw he hfp hq hv => ?_⟩
  · rw [complete_eq hg hp]
    exact if_pos (by simp [Group.completable, hw, hv])
  · rw [complete_eq hg hp]
    exact if_neg (by simp [Group.completable, hw])
  · obtain ⟨hpend, hregs, htrap, hrun, -⟩ := g.afterLanding_keeps p
    rw [Group.complete_plain hdue hw he hfp hq hv]
    cases hcause : p.cause with
    | none =>
      have hg : g.afterCause p = g.afterLanding p := by rw [Group.afterCause, hcause]
      rw [hg]
      exact ⟨congrArg _ hpend, hregs, fun h hr => Group.afterLanding_flag h hr, fun _ => htrap, fun k t h => by cases h⟩
    | some c =>
      obtain ⟨hpend', hregs', hflags'⟩ := (g.afterLanding p).post_keeps c.2
      have hg : g.afterCause p = (g.afterLanding p).post c.2 := by rw [Group.afterCause, hcause]
      rw [hg]
      refine ⟨congrArg _ (hpend'.trans hpend), hregs'.trans hregs,
        fun h hr => (congrArg (fun f : Tab Nat => f.getD p.flag 0) hflags').trans (Group.afterLanding_flag h hr),
        fun h => (by cases h), fun k t h hr => ?_⟩
      obtain rfl : c = (k, t) := Option.some.inj h
      rw [← htrap]
      exact ⟨fun hn => Group.post_free (hrun.trans hr) hn, fun hn => Group.post_full (hrun.trans hr) hn⟩

/-! ### Flits (R534 to R538) -/

theorem flitReceive_up {s : State} {pkg p : Nat} {f : Flit} (hup : (s.port pkg p).st = .up) (hf : flitBroken f = false) :
    flitReceive s pkg p f =
      let x := s.port pkg p
      let y : Port := { x.acked f.ack.toNat with xoffRx := f.xoff }
      match f.ty.toNat with
      | 1 =>
        if f.seq.toNat ≠ x.rxSeq then s.putPort pkg p { y with dropping := true, nak := some ((x.rxSeq + 4095) % 4096) }
        else
          let y : Port := { y with rxSeq := (x.rxSeq + 1) % 4096, dropping := false, nak := none }
          let vc := f.vc.toNat
          if 5 < vc ∨ (x.mgmtOnly ∧ vc ≠ 5) then s.putPort pkg p y
          else (s.putPort pkg p (y.setOcc vc ((y.occ.getD vc 0 + 1) - Config.vcDrain s.free))).bump pkg (400 + p) 1
      | 2 => s.putPort pkg p (nakReceive y f.ack.toNat)
      | _ => s.putPort pkg p y :=
  (if_neg (not_not.2 hup)).trans (if_neg (by rw [hf]; decide))

theorem flitBroken_of {f : Flit} (h : f.good = false ∨ 3 < f.ty.toNat ∨ 7 < f.vc.toNat ∨ 4095 < f.seq.toNat ∨ 4095 < f.ack.toNat ∨ f.last ≠ 0) :
    flitBroken f = true := by
  simp only [flitBroken, Bool.or_eq_true, Bool.not_eq_true', decide_eq_true_eq, bne_iff_ne]
  tauto

/-- What a flit does to the port that it comes to. -/
theorem flits : Parts.Flits := by
  unfold Parts.Flits
  refine ⟨fun s pkg p f => ⟨fun h => congrArg Host.Outcome.next (if_pos h),
      fun hup h => congrArg Host.Outcome.next ((if_neg (not_not.2 hup)).trans (if_pos (flitBroken_of h))),
      fun hup hf => ⟨fun hty hseq => congrArg Host.Outcome.next ?_, fun hty hseq hvc => congrArg Host.Outcome.next ?_,
        fun hty hseq hvc hm => ⟨_, Nat.sub_le _ (Config.vcDrain s.free), congrArg Host.Outcome.next ?_⟩, fun hty => congrArg Host.Outcome.next ?_,
        fun hty => congrArg Host.Outcome.next ?_⟩⟩,
    fun s pkg p good => rfl, fun x ack f => ?_⟩
  · rw [flitReceive_up hup hf]
    dsimp only
    rw [hty]
    exact if_pos hseq
  · rw [flitReceive_up hup hf]
    dsimp only
    rw [hty]
    exact (if_neg (not_not.2 hseq)).trans (if_pos (Or.inl hvc))
  · rw [flitReceive_up hup hf]
    dsimp only
    rw [hty]
    refine (if_neg (not_not.2 hseq)).trans (if_neg ?_)
    rintro (h | h)
    · omega
    · exact Bool.false_ne_true (hm.symm.trans h.1)
  · rw [flitReceive_up hup hf]
    dsimp only
    rw [hty]
    rfl
  · rw [flitReceive_up hup hf]
    dsimp only
    rcases hty with hty | hty <;> rw [hty] <;> rfl
  · simp [Port.acked, List.mem_filter]

/-! ### What a port sends (R436 to R438) -/

theorem pickOf_isSome {n : Nat} {l : List Nat} (h : l ≠ []) : ∃ v, pickOf n l = some v ∧ v ∈ l := by
  have hlen : n % l.length < l.length := Nat.mod_lt _ (List.length_pos_of_ne_nil h)
  exact ⟨l[n % l.length], List.getElem?_eq_getElem hlen, List.getElem_mem _⟩

theorem mem_of_pickOf {n v : Nat} {l : List Nat} (h : pickOf n l = some v) : v ∈ l := List.mem_of_getElem? h

/-- The channels with a flit that may go, those of them with a weight, and those with weight left in the round. -/
def Port.ready (x : Port) : List Nat := [vcCreq, vcCrsp, vcTreq, vcTdat, vcColl].filter x.offers
def Port.heavy (x : Port) (w : Word) : List Nat := x.ready.filter (fun v => shareWeight w v != 0)
def Port.left (x : Port) (w : Word) : List Nat := (x.heavy w).filter (fun v => decide (x.usedBy v < shareWeight w v))

theorem Port.next_mgmt {x : Port} {w : Word} {pick : Nat} (h : x.offers vcMgmt = true) : x.next w pick = some (vcMgmt, x.used) := if_pos h

/-- The channel that is chosen where MGMT has none to send. -/
theorem Port.next_cases {x : Port} {w : Word} {pick vc : Nat} {used : Tab Nat} (hm : x.offers vcMgmt = false)
    (h : x.next w pick = some (vc, used)) :
    (vc ∈ x.left w ∧ used = x.used) ∨ (x.left w = [] ∧ vc ∈ x.heavy w) ∨ (x.left w = [] ∧ x.heavy w = [] ∧ vc ∈ x.ready) := by
  have hnext : x.next w pick = match pickOf pick (x.left w), pickOf pick (x.heavy w), pickOf pick x.ready with
    | some v, _, _ => some (v, x.used)
    | none, some v, _ => some (v, [])
    | none, none, some v => some (v, [])
    | none, none, none => none := if_neg (by rw [hm]; decide)
  rw [hnext] at h
  have hnil : ∀ l : List Nat, pickOf pick l = none → l = [] := fun l hl => by
    by_contra hne
    obtain ⟨v, hv, -⟩ := pickOf_isSome (n := pick) hne
    rw [hl] at hv
    cases hv
  cases h1 : pickOf pick (x.left w) with
  | some v =>
    rw [h1] at h
    obtain ⟨rfl, rfl⟩ := Prod.mk.inj (Option.some.inj h)
    exact Or.inl ⟨mem_of_pickOf h1, rfl⟩
  | none =>
    cases h2 : pickOf pick (x.heavy w) with
    | some v =>
      rw [h1, h2] at h
      obtain ⟨rfl, -⟩ := Prod.mk.inj (Option.some.inj h)
      exact Or.inr (Or.inl ⟨hnil _ h1, mem_of_pickOf h2⟩)
    | none =>
      cases h3 : pickOf pick x.ready with
      | some v =>
        rw [h1, h2, h3] at h
        obtain ⟨rfl, -⟩ := Prod.mk.inj (Option.some.inj h)
        exact Or.inr (Or.inr ⟨hnil _ h1, hnil _ h2, mem_of_pickOf h3⟩)
      | none =>
        rw [h1, h2, h3] at h
        cases h

theorem Port.mem_ready {x : Port} {v : Nat} : v ∈ x.ready ↔ v ∈ [vcCreq, vcCrsp, vcTreq, vcTdat, vcColl] ∧ x.offers v = true := List.mem_filter

theorem Port.mem_heavy {x : Port} {w : Word} {v : Nat} : v ∈ x.heavy w ↔ v ∈ x.ready ∧ shareWeight w v ≠ 0 := by
  rw [Port.heavy, List.mem_filter, bne_iff_ne]

theorem Port.mem_left {x : Port} {w : Word} {v : Nat} : v ∈ x.left w ↔ v ∈ x.heavy w ∧ x.usedBy v < shareWeight w v := by
  rw [Port.left, List.mem_filter, decide_eq_true_eq]

theorem Port.offers_iff {x : Port} {vc : Nat} (h : x.offers vc = true) : x.queue vc ≠ [] ∧ x.xoffRx.getLsbD vc = false := by
  simp only [Port.offers, Bool.and_eq_true, Bool.not_eq_true', List.isEmpty_eq_false_iff] at h
  exact h.1

/-- Which channel goes next. -/
theorem Port.next_chooses {x : Port} {w : Word} {pick vc : Nat} {used : Tab Nat} (h : x.next w pick = some (vc, used)) :
    x.offers vc = true ∧ (x.queue vc ≠ [] ∧ x.xoffRx.getLsbD vc = false) ∧ (x.offers vcMgmt = true → vc = vcMgmt) ∧
    (x.offers vcMgmt = false →
      ((∃ v, (v ∈ [vcCreq, vcCrsp, vcTreq, vcTdat, vcColl] ∧ x.offers v = true) ∧ x.usedBy v < shareWeight w v) →
        x.usedBy vc < shareWeight w vc ∧ used = x.used) ∧
      ((∃ v, (v ∈ [vcCreq, vcCrsp, vcTreq, vcTdat, vcColl] ∧ x.offers v = true) ∧ shareWeight w v ≠ 0) → shareWeight w vc ≠ 0)) := by
  cases hm : x.offers vcMgmt with
  | true =>
    rw [Port.next_mgmt hm] at h
    obtain ⟨rfl, rfl⟩ := Prod.mk.inj (Option.some.inj h)
    exact ⟨hm, Port.offers_iff hm, fun _ => rfl, fun hf => absurd hf (by decide)⟩
  | false =>
    have hcases := Port.next_cases hm h
    have hready : vc ∈ x.ready := by
      rcases hcases with ⟨hl, -⟩ | ⟨-, hh⟩ | ⟨-, -, hr⟩
      · exact (Port.mem_heavy.1 (Port.mem_left.1 hl).1).1
      · exact (Port.mem_heavy.1 hh).1
      · exact hr
    have hoff := (Port.mem_ready.1 hready).2
    refine ⟨hoff, Port.offers_iff hoff, fun hf => absurd hf (by decide), fun _ => ⟨?_, ?_⟩⟩
    · rintro ⟨v, hv, hlt⟩
      have hleft : v ∈ x.left w := Port.mem_left.2 ⟨Port.mem_heavy.2 ⟨Port.mem_ready.2 hv, by omega⟩, hlt⟩
      rcases hcases with ⟨hl, hu⟩ | ⟨hnil, -⟩ | ⟨hnil, -⟩
      · exact ⟨(Port.mem_left.1 hl).2, hu⟩
      all_goals rw [hnil] at hleft; cases hleft
    · rintro ⟨v, hv, hne⟩
      have hheavy : v ∈ x.heavy w := Port.mem_heavy.2 ⟨Port.mem_ready.2 hv, hne⟩
      rcases hcases with ⟨hl, -⟩ | ⟨-, hh⟩ | ⟨-, hnil, -⟩
      · exact (Port.mem_heavy.1 (Port.mem_left.1 hl).1).2
      · exact (Port.mem_heavy.1 hh).2
      · rw [hnil] at hheavy; cases hheavy

/-- What a port sends next. -/
theorem portSends : Parts.PortSends := by
  unfold Parts.PortSends
  refine ⟨fun s pkg p => ⟨fun h => if_pos h, fun hup hn => (if_neg (not_not.2 hup)).trans (if_pos ?_),
      fun hup hn hr => (if_neg (not_not.2 hup)).trans ((if_neg ?_).trans (if_pos hr)),
      fun hup hn hr hl => (if_neg (not_not.2 hup)).trans ((if_neg ?_).trans ((if_neg (by omega)).trans (if_pos hl))),
      fun q f rest hup hn hr hl hm hq => (if_neg (not_not.2 hup)).trans ((if_neg ?_).trans ((if_neg (by omega)).trans ((if_neg (by omega)).trans ?_)))⟩,
    fun x w pick vc used h => Port.next_chooses h, fun w => ⟨rfl, rfl, rfl, rfl, rfl⟩⟩
  · exact Option.isSome_iff_ne_none.2 hn
  · rw [hn]; decide
  · rw [hn]; decide
  · rw [hn]; decide
  · rw [Port.next_mgmt hm]
    dsimp only
    rw [hq]
    rfl

/-! ### The states of a port (R540, R541) -/

/-- Rerouting changes ports in their queues and replay buffers alone. -/
theorem reroute_keeps {α : Type} (f : Port → α) (hf : ∀ (x : Port) r n q, f { x with replay := r, resend := n, txq := q } = f x) (s : State)
    (pkg p : Nat) : f ((reroute s pkg p).port pkg p) = f (s.port pkg p) := by
  have hput : ∀ (t : State) (i : Nat) (y : Port), f y = f (t.port pkg i) → f ((t.putPort pkg i y).port pkg p) = f (t.port pkg p) := by
    intro t i y hy
    by_cases hi : i = p
    · subst hi
      rw [State.port_putPort]
      exact hy
    · have : (t.putPort pkg i y).port pkg p = t.port pkg p := Tab.getD_put_ne _ _ _ (by omega)
      rw [this]
  unfold reroute
  dsimp only
  refine (foldl_state_keeps (fun t => f (t.port pkg p)) (fun t e => ?_) _ _).trans (hput s p _ (hf _ _ _ _))
  split
  · exact hput t _ _ (hf (t.port pkg _) (t.port pkg _).replay (t.port pkg _).resend _)
  · rfl

theorem portDown_port (s : State) (pkg p : Nat) : ((portDown s pkg p).port pkg p).st = .down ∧
    ((portDown s pkg p).port pkg p).removed = true ∧ ((portDown s pkg p).port pkg p).present = (s.port pkg p).present := by
  unfold portDown
  refine ⟨(reroute_keeps Port.st (fun _ _ _ _ => rfl) _ _ _).trans ?_, (reroute_keeps Port.removed (fun _ _ _ _ => rfl) _ _ _).trans ?_,
    (reroute_keeps Port.present (fun _ _ _ _ => rfl) _ _ _).trans ?_⟩ <;> rw [State.port_putPort]

theorem portDown_idle {s : State} {pkg p : Nat} (hr : (s.port pkg p).replay = []) (hq : (s.port pkg p).txq = []) :
    portDown s pkg p = s.putPort pkg p { s.port pkg p with st := .down, removed := true, resend := 0 } := by
  unfold portDown reroute
  rw [State.port_putPort]
  dsimp only
  rw [hr, hq]
  simp only [List.flatMap_nil, List.append_nil, List.foldl_nil, List.filter_nil, List.map_nil, State.putPort_putPort]

/-- The states of a port. -/
theorem portStates : Parts.PortStates := by
  unfold Parts.PortStates
  intro s pkg p
  refine ⟨fun h => ?_, fun lane hup hb => ?_, fun lane h => ?_, fun h => ?_, fun h => ?_, fun h => ⟨_, rfl, ?_⟩, fun h hr hq => ?_, fun h => ?_,
    fun h => ⟨_, rfl, ?_⟩, fun h => ?_, fun h => ?_⟩
  · refine congrArg Host.Outcome.next ?_
    unfold nakBurst
    rcases h with h | h <;> rw [h] <;> rfl
  · refine congrArg Host.Outcome.next ?_
    unfold laneFail
    dsimp only
    rw [hup]
    exact if_pos hb
  · refine congrArg Host.Outcome.next ?_
    unfold laneFail
    dsimp only
    rcases h with ⟨h, hb⟩ | h
    · rw [h]
      exact if_neg hb
    · rw [h]
      rfl
  · refine congrArg Host.Outcome.next ?_
    unfold trained
    dsimp only
    rcases h with h | h <;> rw [h]
  · refine congrArg Host.Outcome.next ?_
    unfold trained
    dsimp only
    rw [h]
  · rw [retrainTimeout, if_pos h]
    exact portDown_port s pkg p
  · exact congrArg Host.Outcome.next ((if_pos h).trans (portDown_idle hr hq))
  · refine congrArg Host.Outcome.next (if_pos ?_)
    rw [State.port_putPort]
    exact h
  · have hd : presentFall s pkg p = portDown (s.putPort pkg p { s.port pkg p with present := false }) pkg p := if_neg (by
      rw [State.port_putPort]
      exact h)
    obtain ⟨hst, hrem, hpres⟩ := portDown_port (s.putPort pkg p { s.port pkg p with present := false }) pkg p
    rw [hd]
    exact ⟨hst, hrem, hpres.trans (by rw [State.port_putPort])⟩
  · refine congrArg Host.Outcome.next ?_
    unfold presentRise
    dsimp only
    rw [h]
  · refine congrArg Host.Outcome.next ?_
    unfold presentRise
    dsimp only
    split
    · rename_i hd
      exact absurd hd h
    · rfl

/-- Settles O46. -/
theorem fabricLinks : Obligations.FabricLinks := ⟨flits, portSends, portStates⟩

end Sys2Proof.Machine
end

section
/-!
PROOFS. Errors of the containment engine, rollbacks, and the end of a launch by a halted group.
-/

namespace Sys2Proof.Machine

/-! ### Rollbacks (R523) -/

/-- A rollback writes the window and restores the region's entry. -/
theorem rollbacks : Parts.Rollbacks := by
  unfold Parts.Rollbacks
  intro g
  unfold Group.rollback
  rw [g.flushWindow_eq]
  exact ⟨rfl, rfl, rfl, rfl, rfl, rfl, rfl, rfl, rfl, rfl⟩

/-! ### Errors of group scope (R515, R518, R523 to R525) -/

theorem State.groups_countCtn (s : State) (core lo len n : Nat) : (s.countCtn core lo len n).groups = s.groups := by
  unfold State.countCtn
  split <;> rfl

theorem State.launches_countCtn (s : State) (core lo len n : Nat) : (s.countCtn core lo len n).launches = s.launches := by
  unfold State.countCtn
  split <;> rfl

theorem Group.markUnit_clean {g : Group} (h : g.ecc = []) (u : Nat) : g.markUnit u true = { g with ecc := [(u, .uncorrectable)] } := by
  rw [Group.markUnit, h]
  rfl

/-- The cause that bad data brings outside a region. -/
def eccTrap (g : Group) (p : Pend) (bad : Half) : Trap :=
  { cause := causeEcc
    addr := match p.vas.find? (fun a => p.lanes == 0 || (bad &&& p.lanes).getLsbD a.1) with
      | some a => a.2
      | none => 0
    lanes := g.fold (bad &&& p.lanes), seq := p.seq }

/-- Bad data of lanes of a group that runs, by the state of its region. -/
theorem eccData_eq {s : State} {gk n : Nat} {bad : Half} {g : Group} {p : Pend} (hg : s.groups.get? gk = some g)
    (hp : g.pend.find? (fun p => p.id == n) = some p) (hw : p.wait = .ready) (hv : p.vas ≠ []) (hprot : g.info.prot = false)
    (hrun : g.run = .running) (hl : p.lanes ≠ 0) (hb : bad &&& p.lanes ≠ 0) (hc : p.cause = none) :
    eccData s gk n bad =
      let log := fun (o : Nat) => (s.uecnt g.core 1).ctnLog g.core 1 o g.slot (p.place g).1 (p.place g).2
      let q : Pend := { p with outs := p.outs.filter (fun o => !(bad &&& p.lanes).getLsbD (o.1 % 16))
                               vpbits := p.vpbits.filter (fun b => !(bad &&& p.lanes).getLsbD b.1) }
      let swap := fun (q : Pend) => { g with pend := g.pend.map (fun x => if x.id == n then q else x) }
      if g.region.opened then
        if g.region.rb < 2 then (if g.region.due then log 1 else (log 1).rollcnt g.core 1).putGrp gk (swap q).rollSoon
        else ((log 3).esccnt g.core 1).putGrp gk ((swap q).halt causeEcc 1)
      else (log 2).putGrp gk (swap { q with cause := some (0, eccTrap g p bad) }) := by
  have hdrop : p.drop (bad &&& p.lanes) = { p with
      outs := p.outs.filter (fun o => !(bad &&& p.lanes).getLsbD (o.1 % 16))
      vpbits := p.vpbits.filter (fun b => !(bad &&& p.lanes).getLsbD b.1) } := if_neg hl
  have hcond : ¬ (p.vas = [] ∨ p.wait ≠ .ready ∨ bad &&& p.lanes = 0) := by
    rintro (h | h | h)
    exacts [hv h, h hw, hb h]
  unfold eccData
  rw [hg]
  dsimp only
  rw [hp]
  dsimp only
  rw [hprot, if_neg Bool.false_ne_true, if_neg hl, if_neg hcond, hrun, hdrop, hc, if_neg hl]
  rfl

/-! ### Errors of engine and core scope (R527, R528) -/

theorem State.grp_eq {s : State} {gk : Nat} {g : Group} (h : s.groups.get? gk = some g) : s.grp gk = g := State.grp_of_get? h

/-- A group that is struck while it runs and may roll back. -/
theorem strikeGroup_rolls {s : State} {gk scope : Nat} {g : Group} (hg : s.groups.get? gk = some g) (hr : g.run = .running)
    (hdue : g.region.due = false) :
    strikeGroup s gk scope true = { s.rollcnt g.core 1 with groups := s.groups.put gk g.rollSoon } := by
  unfold strikeGroup
  rw [hg]
  dsimp only
  rw [hr, hdue]
  show ({ s.rollcnt g.core 1 with groups := (s.rollcnt g.core 1).groups.put gk g.rollSoon } : State) = _
  rw [show (s.rollcnt g.core 1).groups = s.groups from State.groups_countCtn s _ _ _ _]

theorem strikeGroup_halts {s : State} {gk scope : Nat} {g : Group} (hg : s.groups.get? gk = some g) (hr : g.run = .running) :
    strikeGroup s gk scope false = { s.esccnt g.core 1 with groups := s.groups.put gk (g.halt causeEcc scope) } := by
  unfold strikeGroup
  rw [hg]
  dsimp only
  rw [hr]
  show ({ s.esccnt g.core 1 with groups := (s.esccnt g.core 1).groups.put gk (g.halt causeEcc scope) } : State) = _
  rw [show (s.esccnt g.core 1).groups = s.groups from State.groups_countCtn s _ _ _ _]

/-- What the engine's error leaves of one accepted instruction: its group is struck once. -/
theorem tileError_one {s : State} {core gk : Nat} {j : TileJob} (hj : (s.tile core).jobs = [j]) (hgk : j.grp = gk) :
    tileError s core =
      let u := unhold (finishPend (if j.op.units = 0 then s else powerCease s (dieOfCore core) (.tile core j.num)) gk j.pend
        (fun p => { p with outs := [], dests := [] })) gk
      let v := (u.putTile core { int := (s.tile core).int, next := (s.tile core).next }).uecnt core 1
      let w := strikeGroup v gk 2 (v.grp gk).canRoll
      w.ctnLog core 2 (if (v.grp gk).canRoll then 1 else 3) 0 2 0 := by
  subst hgk
  have herase : [j.grp].eraseDups = [j.grp] := by simp [List.eraseDups_cons]
  unfold tileError
  dsimp only
  rw [hj]
  simp only [List.map_cons, List.map_nil, herase, List.foldl_cons, List.foldl_nil, List.all_cons, List.all_nil, Bool.and_true]
  rfl

theorem tileError_idle {s : State} {core : Nat} (hj : (s.tile core).jobs = []) : tileError s core =
    ((s.putTile core { int := (s.tile core).int, next := (s.tile core).next }).uecnt core 1).ctnLog core 2 1 0 2 0 := by
  unfold tileError
  dsimp only
  rw [hj]
  rfl

/-- A core without groups only logs the error of an entry. -/
theorem coreEntryError_empty {s t : State} {core i : Nat} {e : CoreEntry} (hd : dropEntry s core e = some (t, i)) (hg : t.groups = []) :
    coreEntryError s core e = (t.uecnt core 1).ctnLog core 3 0 0 3 i := by
  have hnone : coreGroups t core = [] := by
    unfold coreGroups
    rw [hg]
    rfl
  unfold coreEntryError
  rw [hd]
  dsimp only
  rw [hnone]
  rfl

/-- The one group of a core rolls back. -/
theorem coreEntryError_one {s : State} {core gk : Nat} {g : Group} (hg : s.groups = [(gk, g)]) (hon : s.onCore g core = true)
    (hr : g.run = .running) (ho : g.region.opened = true) (hrb : g.region.rb < 2) (hdue : g.region.due = false) :
    ∃ t, coreEntryError s core .write = t ∧ t.groups = [(gk, g.rollSoon)] := by
  have hget : s.groups.get? gk = some g := by rw [hg]; simp [Tab.get?]
  have hgs : coreGroups s core = [gk] := by
    unfold coreGroups
    rw [hg]
    simp [hon]
  have hcan : (s.grp gk).canRoll = true := by
    rw [State.grp_eq hget]
    simp [Group.canRoll, ho, hrb]
  have hget' : ((s.uecnt core 1).ctnLog core 3 1 0 3 0).groups.get? gk = some g :=
    (congrArg (fun l : Tab Group => l.get? gk) (State.groups_countCtn s core 24 8 1)).trans hget
  refine ⟨_, rfl, ?_⟩
  unfold coreEntryError dropEntry
  dsimp only
  rw [hgs]
  simp only [List.all_cons, List.all_nil, hcan, Bool.and_true, List.isEmpty_cons, if_true, Bool.false_eq_true, if_false, List.foldl_cons,
    List.foldl_nil]
  rw [strikeGroup_rolls hget' hr hdue]
  show (((s.uecnt core 1).ctnLog core 3 1 0 3 0).groups).put gk g.rollSoon = _
  rw [show ((s.uecnt core 1).ctnLog core 3 1 0 3 0).groups = s.groups from State.groups_countCtn s core 24 8 1, hg]
  simp [Tab.put]

/-- Errors of a group, of the tile engine, and of a core. -/
theorem softErrors : Parts.SoftErrors := by
  unfold Parts.SoftErrors
  refine ⟨fun s gk g u hg he hu => congrArg Host.Outcome.next ?_,
    fun s gk n bad g p hg hp hw hv hprot hrun hl hb hc => ⟨fun ho hrb hdue => congrArg Host.Outcome.next ?_,
      fun ho hrb => congrArg Host.Outcome.next ?_, fun ho => ⟨eccTrap g p bad, rfl, rfl, rfl, congrArg Host.Outcome.next ?_⟩⟩,
    fun s core hj => congrArg Host.Outcome.next (tileError_idle hj),
    fun s core gk j hj hgk => ?_,
    fun s core hg => congrArg Host.Outcome.next (coreEntryError_empty (t := s) (i := 0) rfl hg),
    fun s core n hg hn => congrArg Host.Outcome.next (coreEntryError_empty (e := .burrow n) (i := n) (if_pos hn) hg),
    fun s core gk g hg hon hr hcore ho hrb hdue => ?_⟩
  · show eccEvent s gk (.unit u true) = _
    unfold eccEvent
    dsimp only
    rw [hg]
    refine (if_pos (Or.inl hu)).trans ?_
    rw [Group.markUnit_clean he]
  · refine (eccData_eq hg hp hw hv hprot hrun hl hb hc).trans ((if_pos ho).trans ((if_pos hrb).trans ?_))
    rw [hdue]
    rfl
  · exact (eccData_eq hg hp hw hv hprot hrun hl hb hc).trans ((if_pos ho).trans (if_neg (by omega)))
  · exact (eccData_eq hg hp hw hv hprot hrun hl hb hc).trans (if_neg (by rw [ho]; exact Bool.false_ne_true))
  · intro u v g hg hr hcore
    have hone := tileError_one hj hgk
    have hgrp : v.grp gk = g := State.grp_eq hg
    refine ⟨fun hcan hdue => ⟨_, congrArg Host.Outcome.next hone, ?_⟩, fun hcan => ⟨_, congrArg Host.Outcome.next hone, ?_⟩⟩
    · have hroll : g.canRoll = true := by simp [Group.canRoll, hcan.1, hcan.2]
      show (strikeGroup v gk 2 (v.grp gk).canRoll).groups = _ ∧ (strikeGroup v gk 2 (v.grp gk).canRoll).launches = _
      rw [hgrp, hroll, strikeGroup_rolls hg hr hdue]
      exact ⟨rfl, State.launches_countCtn v _ _ _ _⟩
    · have hroll : g.canRoll = false := by
        rcases hcan with h | h
        · simp [Group.canRoll, h]
        · simp [Group.canRoll, show ¬ g.region.rb < 2 by omega]
      show (strikeGroup v gk 2 (v.grp gk).canRoll).groups = _
      rw [hgrp, hroll, strikeGroup_halts hg hr]
  · obtain ⟨t, ht, hgroups⟩ := coreEntryError_one hg hon hr ho hrb hdue
    exact ⟨t, congrArg Host.Outcome.next ht, hgroups⟩

/-! ### The end of a launch (R221, R456) -/

theorem launchFaultEnd_halted {s : State} {gk code sub lk : Nat} {g : Group} {l : Launch} (hg : s.groups.get? gk = some g)
    (hr : g.run = .halted code sub) (hlk : (s.cohort g.cohort).launch = lk) (hl : s.launches.get? lk = some l) (hst : l.st = .running)
    (hgs : (s.cohort g.cohort).groups = [gk]) (hd : code ≠ causeDouble) (he : code = causeEcc → sub = 0) :
    launchFaultEnd s gk = launchFail s lk code sub := by
  subst hlk
  have howl : (if code = causeDouble then owlError s (pkgOfCore g.core) 8
      else if code = causeEcc ∧ sub ≠ 0 then owlError s (pkgOfCore g.core) 9 else s) = s :=
    (if_neg hd).trans (if_neg fun h => h.2 (he h.1))
  unfold launchFaultEnd
  rw [hg]
  dsimp only
  rw [hr]
  dsimp only
  rw [hl]
  dsimp only
  rw [if_pos hst, howl, hgs, List.foldl_cons, List.foldl_nil, State.grp_eq hg, hr]

theorem launchEnds : Parts.LaunchEnds := by
  unfold Parts.LaunchEnds
  refine ⟨fun s gk g code sub lk l hg hr hlk hl hst hgs hd he => congrArg Host.Outcome.next (launchFaultEnd_halted hg hr hlk hl hst hgs hd he),
    fun s gk g hg hr => congrArg Host.Outcome.next ?_⟩
  unfold launchFaultEnd
  rw [hg]
  dsimp only
  rw [hr]

/-- Settles O45. -/
theorem errorsAndRollbacks : Obligations.ErrorsAndRollbacks := ⟨softErrors, rollbacks, launchEnds⟩

end Sys2Proof.Machine
end

section
/-!
PROOFS. The instructions of the translation engine, and what they leave in the tables and the fault buffer.
-/

namespace Sys2Proof.Machine

/-! ### An effect that is carried out -/

/-- Where nothing of R101 comes first and the effect is carried out, it is applied. -/
theorem issueC_applies {ck : Checks} {sh : Shape} {o : EOps} {s : State} {g : Group} {c : Clause} (h : Runs ck sh o s g c)
    {body : State → Group → Res Eff} {e : Eff} (hb : body s { g with wait := .none } = .ok e) :
    issueC ck sh o body s = .next (applyEff c ck.closes e) := by
  rw [issueC_runs h, hb]
  rfl

/-! ### TLBOP (R492, R495) -/

section TlbOp

variable {early : State → Group → Option (Nat × Dword)} {run : State → Group → State × List Word} {sh : Shape} {o : EOps} {s : State}
  {g : Group} {c : Clause}

/-- A TLBOP that passes its checks does its operation at once. -/
theorem tlbOp_runs (h : Runs ({} : Checks).closing sh o s g c) (he : early s { g with wait := .none } = none) :
    tlbOp early run {} sh o s = .next (broughtBy c true (run (s.with { g with wait := .none }) { g with wait := .none }).1
      ((run (s.with { g with wait := .none }) { g with wait := .none }).1.grp s.cur) (writesOf sh o)
      ((run (s.with { g with wait := .none }) { g with wait := .none }).2.zipIdx.map (fun p => (sKey (o.d.toNat + p.2), p.1)))) :=
  issueC_applies h (by
    dsimp only
    rw [he]
    rfl)

theorem tlbOp_traps (h : Runs ({} : Checks).closing sh o s g c) {cause : Nat} {va : Dword}
    (he : early s { g with wait := .none } = some (cause, va)) :
    tlbOp early run {} sh o s = .next (s.with (({ g with wait := .none } : Group).trapHere { cause := cause, lanes := g.em, addr := va })) :=
  issueC_traps h (by
    dsimp only
    rw [he]
    rfl)

end TlbOp

theorem tlbVaCheck_ok {s : State} {g : Group} {va : Dword} {span : Nat} {tensorOnly : Bool} (h : tlbVaOk s g va span tensorOnly) :
    tlbVaCheck s g va span tensorOnly = none := by
  obtain ⟨hs, hp, hd, ha⟩ := h
  refine (if_neg (not_not.2 ha)).trans ((if_neg ?_).trans ((if_neg ?_).trans (if_neg (by omega))))
  · rcases hs with h | ⟨h, -⟩ <;> rw [h] <;> decide
  · rcases hs with h | ⟨h, ht⟩
    · simp [h, hp, Space.global]
    · simp [h, hp, ht, Space.global]

theorem tlbVaCheck_space {s : State} {g : Group} {va : Dword} {span : Nat} {tensorOnly : Bool} (ha : va.toNat % span = 0)
    (hk : spaceOf va ≠ .reserved)
    (h : (spaceOf va).global = false ∨ vaPkg va ≠ pkgOfCore g.core ∨ (tensorOnly = true ∧ spaceOf va = .control)) :
    tlbVaCheck s g va span tensorOnly = some causeSpace := by
  refine (if_neg (not_not.2 ha)).trans ((if_neg hk).trans (if_pos ?_))
  rcases h with h | h | ⟨h, hc⟩
  · simp [h]
  · simp [h]
  · simp [h, hc]

/-- A TLBOP whose checks are those of a page address. -/
theorem tlbPage_of {i : Instr} {sh : Shape} {o : EOps} {span : Nat} {tensorOnly : Bool} {run : State → Group → Dword → State × List Word}
    (early : State → Group → Option (Nat × Dword)) (body : State → Group → State × List Word)
    (hx : ∀ s, exec i s = tlbOp early body {} sh o s)
    (he : ∀ s g, early s g = (tlbVaCheck s g (tlbVa g s.free o) span tensorOnly).map (fun c => (c, tlbVa g s.free o)))
    (hr : ∀ s g, body s g = run s g (tlbVa g s.free o)) : TlbPage i sh o span tensorOnly run := by
  intro s g c h
  dsimp only
  have htrap : ∀ cause, tlbVaCheck s { g with wait := .none } (g.s2 s.free o.a.toNat) span tensorOnly = some cause →
      exec i s = .next (s.with (({ g with wait := .none } : Group).trapHere { cause := cause, lanes := g.em, addr := g.s2 s.free o.a.toNat })) := by
    intro cause hc
    rw [hx]
    refine tlbOp_traps h ((he _ _).trans ?_)
    rw [show tlbVaCheck s { g with wait := .none } (tlbVa { g with wait := .none } s.free o) span tensorOnly = some cause from hc]
    rfl
  refine ⟨fun hok => ?_, fun ha => htrap _ (if_pos ha), fun ha hs => htrap _ ((if_neg (not_not.2 ha)).trans (if_pos hs)),
    fun ha hk hs => htrap _ (tlbVaCheck_space ha hk hs)⟩
  have hnone : early s { g with wait := .none } = none := by
    rw [he, show tlbVaCheck s { g with wait := .none } (tlbVa { g with wait := .none } s.free o) span tensorOnly = none from tlbVaCheck_ok hok]
    rfl
  unfold TlbDone
  rw [hx, tlbOp_runs h hnone]
  rw [hr]
  rfl

/-- A TLBOP without checks of its own. -/
theorem tlbDoes_of {i : Instr} {sh : Shape} {o : EOps} {run : State → Group → State × List Word}
    (hx : ∀ s, exec i s = tlbOp (fun _ _ => none) run {} sh o s) : TlbDoes i sh o run := by
  intro s g c h
  dsimp only
  unfold TlbDone
  rw [hx, tlbOp_runs h rfl]

theorem replayAll_eq (s : State) (d : Nat) : (List.range 4).foldl (fun s k => replayDie s (d + k)) s =
    replayDie (replayDie (replayDie (replayDie s d) (d + 1)) (d + 2)) (d + 3) := by
  rw [show List.range 4 = [0, 1, 2, 3] by decide]
  simp only [List.foldl_cons, List.foldl_nil, Nat.add_zero]

theorem exec_tlbopReplayAll (o : EOps) (s : State) : exec (.tlbopReplayAll o) s = tlbOp (fun _ _ => none) (fun s g =>
    (replayDie (replayDie (replayDie (replayDie s (pkgOfCore g.core * 4)) (pkgOfCore g.core * 4 + 1)) (pkgOfCore g.core * 4 + 2))
      (pkgOfCore g.core * 4 + 3), [])) {} shTlbopAll o s := by
  simp only [← replayAll_eq]
  rfl

/-- A page operation of a die's tables. -/
theorem tlbPage_va {i : Instr} {o : EOps} {tensorOnly : Bool} {run : State → Nat → Nat → Dword → State}
    (hx : ∀ s, exec i s = tlbopVa tensorOnly run {} shTlbopInv o s) :
    TlbPage i shTlbopInv o 65536 tensorOnly (fun s g va =>
      (run s (pkgOfCore g.core) ((g.s1 s.free o.c.toNat).toNat % 4096) va, [])) :=
  tlbPage_of (fun s g => (tlbVaCheck s g (tlbVa g s.free o) 65536 tensorOnly).map (fun c => (c, tlbVa g s.free o)))
    (fun s g => (run s (pkgOfCore g.core) (tlbAsid g s.free o) (tlbVa g s.free o), [])) hx (fun _ _ => rfl) (fun _ _ => rfl)

/-- MAP's checks before its operation. -/
def mapEarly (o : EOps) (s : State) (g : Group) : Option (Nat × Dword) :=
  if 4 < mapTier o then some (causeIllegal, 0)
  else (tlbVaCheck s g (tlbVa g s.free o) (2 ^ tierShift (mapTier o)) false).map (fun c => (c, tlbVa g s.free o))

/-- MAP's operation. -/
def mapRun (o : EOps) (s : State) (g : Group) (va : Dword) : State × List Word :=
  let r := tlbMap s (pkgOfCore g.core) ((g.s1 s.free o.c.toNat).toNat % 4096) va (g.s2 s.free o.b.toNat) (mapTier o)
    (decide (xField o 3 1 = 1)) (xField o 4 2)
  (r.1, [BitVec.ofNat 32 r.2])

theorem exec_tlbopMap (o : EOps) (s : State) :
    exec (.tlbopMap o) s = tlbOp (mapEarly o) (fun s g => mapRun o s g (tlbVa g s.free o)) {} shTlbopMap o s := rfl

/-- Every TLBOP. -/
theorem tableInstructions : Parts.TableInstructions := by
  unfold Parts.TableInstructions
  refine ⟨fun o ho => tlbPage_of (mapEarly o) (fun s g => mapRun o s g (tlbVa g s.free o)) (exec_tlbopMap o) (fun s g => if_neg (by omega))
      (fun s g => rfl), fun o s g c ho h => ?_,
    fun o => ⟨tlbPage_va fun s => rfl, tlbPage_va fun s => rfl,
      tlbDoes_of fun s => rfl, tlbDoes_of fun s => rfl, tlbDoes_of fun s => rfl, tlbDoes_of (exec_tlbopReplayAll o), tlbDoes_of fun s => rfl,
      tlbDoes_of fun s => rfl, tlbDoes_of fun s => rfl, tlbDoes_of fun s => rfl⟩⟩
  rw [exec_tlbopMap]
  exact tlbOp_traps h (if_pos ho)

/-! ### Eight bytes of memory -/

theorem rising_seals_foldl_wrB {s : State} (h : s.seals.rising = true) (kid a : Nat) (d : Dword) (l : List Nat) :
    (l.foldl (fun s i => s.wrB kid (a + i) (d.extractLsb' (8 * i) 8)) s).seals.rising = true := by
  induction l generalizing s with
  | nil => exact h
  | cons i l ih => exact ih (State.rising_seals_wrB h kid (a + i) _)

/-- The first n bytes of a number that is written in one line. -/
theorem rdB_foldl_wrB {s : State} (h : s.seals.rising = true) (kid a : Nat) (d : Dword) (n : Nat) (hn : n ≤ 8) (ha : a % 8 = 0) (j : Nat)
    (hj : j < n) : ((List.range n).foldl (fun s i => s.wrB kid (a + i) (d.extractLsb' (8 * i) 8)) s).rdB kid (a + j) =
      d.extractLsb' (8 * j) 8 := by
  induction n with
  | zero => omega
  | succ n ih =>
    rw [List.range_succ, List.foldl_append, List.foldl_cons, List.foldl_nil,
      State.rdB_wrB_line (rising_seals_foldl_wrB h kid a d _) kid (a + n) _ (show (a + j) / 128 = (a + n) / 128 by omega)]
    by_cases hjn : j = n
    · subst hjn
      exact if_pos rfl
    · rw [if_neg (by omega)]
      exact ih (by omega) (by omega)

theorem sum_bytes_mod (x n : Nat) : (List.range n).foldl (fun m i => m + x / 2 ^ (8 * i) % 2 ^ 8 * 2 ^ (8 * i)) 0 = x % 2 ^ (8 * n) := by
  induction n with
  | zero => simp [Nat.mod_one]
  | succ n ih =>
    rw [List.range_succ, List.foldl_append, ih, List.foldl_cons, List.foldl_nil, Nat.mul_succ, Nat.pow_add, Nat.mod_mul, Nat.mul_comm (2 ^ (8 * n))]

theorem sum_bytes (d : Dword) : (List.range 8).foldl (fun n i => n + (d.extractLsb' (8 * i) 8).toNat * 2 ^ (8 * i)) 0 = d.toNat := by
  simp only [BitVec.extractLsb'_toNat, Nat.shiftRight_eq_div_pow]
  exact (sum_bytes_mod d.toNat 8).trans (Nat.mod_eq_of_lt d.isLt)

theorem rd64_wr64 {s : State} (h : s.seals.rising = true) (kid : Nat) {a : Nat} (d : Dword) (ha : a % 8 = 0) :
    (s.wr64 kid a d).rd64 kid a = d := by
  have hsum : (List.range 8).foldl (fun n i => n + ((s.wr64 kid a d).rdB kid (a + i)).toNat * 2 ^ (8 * i)) 0 =
      (List.range 8).foldl (fun n i => n + (d.extractLsb' (8 * i) 8).toNat * 2 ^ (8 * i)) 0 := by
    refine List.foldl_ext _ _ _ fun n i hi => ?_
    rw [State.wr64, rdB_foldl_wrB h kid a d 8 (Nat.le_refl 8) ha i (List.mem_range.1 hi)]
  rw [State.rd64, hsum, sum_bytes, BitVec.ofNat_toNat, BitVec.setWidth_eq]

/-! ### What MAP, NEWGEN, REPLAY and ALL leave (R480, R488, R491, R494) -/

theorem tlbMap_eq {s : State} {pkg asid : Nat} {va entry : Dword} {tier : Nat} {back : Bool} {bdie : Nat}
    (hc : asid = 0 ↔ decide (spaceOf va = .control) = true) (hb : mapBad (decide (spaceOf va = .control)) tier entry = false) :
    tlbMap s pkg asid va entry tier back bdie =
      let ctl := decide (spaceOf va = .control)
      let root := if back then (s.asid pkg asid).broot.getD bdie 0 else (s.asid pkg asid).root.getD (if ctl then 0 else vaDie va) 0
      if root = 0 then (s, 1)
      else
        match mapPlace s pkg ctl va [0, 1, 2, 3, 4] tier root.toNat 0 with
        | none => (s, 1)
        | some (ent, slot) =>
          let s' := if entV (s.rd64 (s.keyId pkg slot) ent) then invSpan s pkg asid va (2 ^ tierShift tier) else s
          (s'.wr64 (s'.keyId pkg slot) ent entry, 0) := by
  refine (if_neg ?_).trans (if_neg (by rw [hb]; exact Bool.false_ne_true))
  rw [bne_iff_ne, not_not]
  by_cases h : asid = 0
  · rw [hc.1 h, h]; rfl
  · have : decide (spaceOf va = .control) = false := Bool.eq_false_iff.2 fun hx => h (hc.2 hx)
    rw [this]
    exact beq_eq_false_iff_ne.2 h

theorem tlbMap_mismatch {s : State} {pkg asid : Nat} {va entry : Dword} {tier : Nat} {back : Bool} {bdie : Nat}
    (h : (asid = 0 ∧ decide (spaceOf va = .control) = false) ∨ (asid ≠ 0 ∧ decide (spaceOf va = .control) = true)) :
    tlbMap s pkg asid va entry tier back bdie = (s, 2) := by
  refine if_pos ?_
  rcases h with ⟨h, hc⟩ | ⟨h, hc⟩
  · rw [hc, h]; rfl
  · rw [hc, bne_iff_ne]
    simpa using h

theorem tlbMap_bad {s : State} {pkg asid : Nat} {va entry : Dword} {tier : Nat} {back : Bool} {bdie : Nat}
    (hb : mapBad (decide (spaceOf va = .control)) tier entry = true) : tlbMap s pkg asid va entry tier back bdie = (s, 2) := by
  unfold tlbMap
  by_cases h : ((asid == 0) != decide (spaceOf va = .control)) = true
  · exact if_pos h
  · exact (if_neg h).trans (if_pos hb)

theorem tlbNewgen_alone {s : State} {pkg asid : Nat} (hn : (s.asid pkg asid).ncnt < 15) (hcl : s.clusters = []) (hd : s.domain = 1)
    (hl : s.lostTo pkg 0 = false) : tlbNewgen s pkg asid =
      (s.putAsid 0 asid { s.asid 0 asid with gen := ((s.asid 0 asid).gen + 1) % 16, ncnt := (s.asid 0 asid).ncnt + 1 }, 0) := by
  have hps : (List.range s.domain).filter (fun p => !s.lostTo pkg p) = [0] := by
    rw [hd]
    simp [hl]
  refine (if_neg (by omega)).trans ?_
  dsimp only
  rw [hps]
  simp only [List.foldl_cons, List.foldl_nil, hcl]

theorem Die.dropTlb_all (d : Die) : (d.dropTlb (fun _ => true)).mtlb1a = [] ∧ (d.dropTlb (fun _ => true)).mtlb1b = [] ∧
    (d.dropTlb (fun _ => true)).mtlb2 = [] := by
  simp [Die.dropTlb]

/-- After the first n dies have been emptied. -/
theorem foldl_dropTlb (s : State) (base n : Nat) (d : Nat) (hd : d < n) :
    ∃ x : Die, ((List.range n).foldl (fun (s : State) d => s.putDie (base + d) ((s.die (base + d)).dropTlb (fun _ => true))) s).die (base + d) =
      x.dropTlb (fun _ => true) := by
  induction n with
  | zero => omega
  | succ n ih =>
    rw [List.range_succ, List.foldl_append, List.foldl_cons, List.foldl_nil]
    by_cases h : d = n
    · subst h
      exact ⟨_, State.die_putDie _ _ _⟩
    · rw [State.die_putDie_ne _ _ (by omega)]
      exact ih (by omega)

/-- The end of TLBOP.ALL, from the state with its lines removed. -/
theorem tlbAll_eq (s : State) (pkg : Nat) : ∃ (t : State) (l : Tab AsidEnt), tlbAll s pkg =
    { (List.range 4).foldl (fun (s : State) d => s.putDie (pkg * 4 + d) ((s.die (pkg * 4 + d)).dropTlb (fun _ => true))) t with asids := l } :=
  ⟨_, _, rfl⟩

theorem tlbAll_empties (s : State) (pkg d : Nat) (hd : d < 4) : ∃ x : Die, (tlbAll s pkg).die (pkg * 4 + d) = x.dropTlb (fun _ => true) := by
  obtain ⟨t, l, h⟩ := tlbAll_eq s pkg
  obtain ⟨x, hx⟩ := foldl_dropTlb t (pkg * 4) 4 d hd
  exact ⟨x, (congrArg (fun u : State => u.die (pkg * 4 + d)) h).trans hx⟩

/-- What MAP, NEWGEN, REPLAY and ALL leave. -/
theorem tableOperations : Parts.TableOperations := by
  unfold Parts.TableOperations
  refine ⟨fun s pkg asid va entry tier back bdie => ⟨tlbMap_mismatch, fun _ hb => tlbMap_bad hb, fun hc hb hr => ?_,
      fun ent slot hc hb hr hp => ?_⟩,
    fun s pkg asid h => if_pos h, fun s pkg asid hn hcl hd hl => tlbNewgen_alone hn hcl hd hl, fun s dk h => ?_, fun s pkg _ d hd => ?_⟩
  · exact (tlbMap_eq hc hb).trans (if_pos hr)
  · intro kid hold ha hrise
    have hm : tlbMap s pkg asid va entry tier back bdie = (s.wr64 kid ent entry, 0) := by
      refine (tlbMap_eq hc hb).trans ((if_neg hr).trans ?_)
      rw [hp]
      dsimp only
      rw [if_neg (by rw [hold]; exact Bool.false_ne_true)]
    rw [hm]
    exact ⟨rfl, rd64_wr64 hrise kid entry ha⟩
  · unfold replayDie
    dsimp only
    rw [h]
    rfl
  · obtain ⟨x, hx⟩ := tlbAll_empties s pkg d hd
    rw [hx]
    exact x.dropTlb_all

/-- Settles O42. -/
theorem translationTables : Obligations.TranslationTables := ⟨tableInstructions, tableOperations⟩

end Sys2Proof.Machine
end

section
/-!
PROOFS. The power arbiter.
-/

namespace Sys2Proof.Machine

/-! ### The power arbiter (R194 to R196, R365) -/

theorem State.chan_putChan (s : State) (core c core' c' : Nat) (x : Chan) :
    (s.putChan core c x).chan core' c' = if core' = core ∧ c' = c then x else s.chan core' c' := by
  by_cases hcore : core' = core
  · subst hcore
    by_cases hc : c' = c
    · simp [State.chan, State.putChan, hc]
    · simp [State.chan, State.putChan, hc, Tab.getD_put_ne]
  · simp [State.chan, State.putChan, hcore, State.core_putCore_ne]

theorem powerServe_grants {s : State} {die : Nat} {r : PowerReq} {rest : List PowerReq} (hq : (s.die die).powerq = r :: rest)
    (hfit : (s.die die).inuse + r.units ≤ (s.die die).budget ∨ (s.die die).inuse = 0) :
    powerServe s die = s.putDie die { (s.die die) with
      powerq := rest, granted := (s.die die).granted ++ [r], inuse := (s.die die).inuse + r.units, grants := (s.die die).grants + 1 } := by
  unfold powerServe
  dsimp only
  rw [hq]
  exact if_pos hfit

theorem powerServe_waits {s : State} {die : Nat} {r : PowerReq} {rest : List PowerReq} (hq : (s.die die).powerq = r :: rest)
    (hover : (s.die die).budget < (s.die die).inuse + r.units) (huse : (s.die die).inuse ≠ 0) : powerServe s die = s := by
  unfold powerServe
  dsimp only
  rw [hq]
  exact if_neg (by omega)

/-- What a granted request of a copy does to its channel. -/
def copyGrant (s : State) (r : PowerReq) : State :=
  match r.who with
  | .copy core chan => if (s.chan core chan).st = .grant ∧ !r.ended then s.putChan core chan { (s.chan core chan) with st := .run } else s
  | _ => s

theorem copyGranted_eq (s : State) (die : Nat) : copyGranted s die = (s.die die).granted.foldl copyGrant s := rfl

/-- A grant leaves a channel as it is, or runs one that waits for its grant. -/
theorem copyGrant_chan (s : State) (r : PowerReq) (core chan : Nat) :
    (copyGrant s r).chan core chan = s.chan core chan ∨
      (s.chan core chan).st = .grant ∧ ((copyGrant s r).chan core chan).st = .run := by
  unfold copyGrant
  split
  next core' chan' =>
    split
    next hst =>
      rw [State.chan_putChan]
      split
      next heq => obtain ⟨rfl, rfl⟩ := heq; exact .inr ⟨hst.1, rfl⟩
      · exact .inl rfl
    · exact .inl rfl
  · exact .inl rfl

theorem copyGrant_runs {s : State} {r : PowerReq} {core chan : Nat} (hwho : r.who = .copy core chan) (hend : r.ended = false)
    (hst : (s.chan core chan).st = .grant) : ((copyGrant s r).chan core chan).st = .run := by
  unfold copyGrant
  rw [hwho]
  dsimp only
  rw [if_pos ⟨hst, by rw [hend]; rfl⟩, State.chan_putChan, if_pos ⟨rfl, rfl⟩]

theorem copyGrants_keep_run (l : List PowerReq) (s : State) (core chan : Nat) (hst : (s.chan core chan).st = .run) :
    ((l.foldl copyGrant s).chan core chan).st = .run := by
  induction l generalizing s with
  | nil => exact hst
  | cons r l ih =>
    refine ih _ ?_
    rcases copyGrant_chan s r core chan with h | ⟨-, h⟩
    · rw [h, hst]
    · exact h

theorem copyGrants_run (l : List PowerReq) (s : State) {r : PowerReq} {core chan : Nat} (hr : r ∈ l) (hwho : r.who = .copy core chan)
    (hend : r.ended = false) (hst : (s.chan core chan).st = .grant) : ((l.foldl copyGrant s).chan core chan).st = .run := by
  induction l generalizing s with
  | nil => cases hr
  | cons x l ih =>
    rcases List.mem_cons.1 hr with rfl | hr
    · exact copyGrants_keep_run l _ core chan (copyGrant_runs hwho hend hst)
    · rcases copyGrant_chan s x core chan with h | ⟨-, h⟩
      · exact ih _ hr (by rw [h, hst])
      · exact copyGrants_keep_run l _ core chan h

/-- Settles O35: the arbiter's step by its head request, and the copies by induction on the granted requests. -/
theorem powerArbiter : Obligations.PowerArbiter := by
  unfold Obligations.PowerArbiter
  refine ⟨fun s die r rest hq => ⟨fun hfit => ?_, fun hover huse => ?_⟩, ?_, fun s die op r hop hend => ?_, fun _ _ _ => rfl⟩
  · exact congrArg (fun t => Host.Outcome.next (copyGranted t die)) (powerServe_grants hq hfit)
  · exact congrArg (fun t => Host.Outcome.next (copyGranted t die)) (powerServe_waits hq hover huse)
  · intro s die r core chan hr hwho hend hst
    exact copyGrants_run _ s hr hwho hend hst
  · refine congrArg Host.Outcome.next ?_
    unfold powerReturn
    dsimp only
    rw [hop]
    exact if_pos hend

end Sys2Proof.Machine
end

section
/-!
PROOFS. The tile instructions: what is accepted.
-/

namespace Sys2Proof.Machine

/-! ### Checks of ranges of memory (R340, R346, R349) -/

theorem OperandOk.none {s : State} {g : Group} {allow : Space → Bool → Bool} {align : Nat} {addr : Dword} {stride lines bytes : Nat}
    (h : OperandOk s g allow align addr stride lines bytes) : operandCheck s g allow align addr stride lines bytes = none :=
  h.elim id operandCheck_passes

theorem AreaOk.none {s : State} {g : Group} {addr : Dword} {tm mm : Half} (h : AreaOk s g addr tm mm) : areaCheck s g addr tm mm = none :=
  h.elim id fun h => areaCheck_passes h.1 h.2

theorem GemmOk.none {s : State} {g : Group} {d : Gemm} (h : GemmOk s g d) : gemmExtents s g d = none := by
  rcases h with h | ⟨ha, hb, ho⟩
  · exact h
  · unfold gemmExtents
    dsimp only
    rw [operandCheck_passes ha, operandCheck_passes hb]
    exact operandCheck_passes ho

/-! ### Acceptance (R335) -/

/-- The engine with one more job. -/
def TileEng.accepts (t : TileEng) (gk seq : Nat) (op : TileOp) : TileEng :=
  { t with jobs := t.jobs ++ [{ num := t.next, grp := gk, pend := seq, op := op, dest := op.dest }], next := t.next + 1 }

theorem commAll_none {s : State} {gk : Nat} (h : (s.grp gk).comm = []) : commAll s gk = s := by
  unfold commAll
  rw [h]
  rfl

/-- What comes before the acceptance of an operation that stores: the .comm reductions of its group, of which there are none. -/
theorem commFirst_none {s : State} {g : Group} {op : TileOp} (hcomm : op.writes = true → g.comm = []) :
    (if op.writes then commAll (s.putG g) s.cur else s.putG g) = s.putG g := by
  split
  next hw => exact commAll_none (by rw [State.grp_putG]; exact hcomm hw)
  · rfl

theorem tileAccept_ok {s : State} {g : Group} {op : TileOp} {f : TileEng → TileEng} (hlen : (s.tile g.core).jobs.length < 16)
    (hcomm : op.writes = true → g.comm = []) :
    tileAccept s g op f = .ok {
      s := (s.putG g).putTile g.core ((f (s.tile g.core)).accepts s.cur g.seq op)
      g := g
      pend := some { id := 0, wait := .tile (f (s.tile g.core)).next } } := by
  unfold tileAccept
  rw [commFirst_none hcomm]
  dsimp only
  rw [show (s.putG g).grp (s.putG g).cur = g from State.grp_putG s g]
  refine (if_neg ?_).trans rfl
  rintro (h | ⟨hw, hne⟩)
  · exact absurd h (Nat.not_le.2 hlen)
  · exact hne (hcomm hw)

/-- R335: an instruction whose body accepts an operation is pending until the engine has done it. -/
theorem issueC_accepts {ill role : State → Group → Bool} {sh : Shape} {o : EOps} {s : State} {g : Group} {c : Clause}
    (h : Runs (tileChecks {} ill role) sh o s g c) {body : State → Group → Res Eff} {op : TileOp} {f : TileEng → TileEng}
    {dests : List RegId} {lanes : Half}
    (hb : body s { g with wait := .none } = (tileAccept s { g with wait := .none } op f).writing dests lanes)
    (hlen : (s.tile g.core).jobs.length < 16) (hcomm : op.writes = true → g.comm = []) :
    issueC (tileChecks {} ill role) sh o body s = .next ((s.putTile g.core ((f (s.tile g.core)).accepts s.cur g.seq op)).with
      (g.started c { id := 0, wait := .tile (f (s.tile g.core)).next, dests := dests, lanes := lanes })) := by
  rw [issueC_starts (g' := g) h rfl (hb.trans (congrArg (fun r => Res.writing r dests lanes)
    (tileAccept_ok (g := { g with wait := .none }) hlen hcomm))) rfl rfl]
  exact congrArg Host.Outcome.next (congrArg (fun t => { s.putTile g.core ((f (s.tile g.core)).accepts s.cur g.seq op) with groups := t })
    (Tab.put_put ..))

/-- The same for an instruction that writes no register. -/
theorem issueC_acceptsOnly {ill role : State → Group → Bool} {sh : Shape} {o : EOps} {s : State} {g : Group} {c : Clause}
    (h : Runs (tileChecks {} ill role) sh o s g c) {body : State → Group → Res Eff} {op : TileOp} {f : TileEng → TileEng}
    (hb : body s { g with wait := .none } = tileAccept s { g with wait := .none } op f)
    (hlen : (s.tile g.core).jobs.length < 16) (hcomm : op.writes = true → g.comm = []) :
    issueC (tileChecks {} ill role) sh o body s = .next ((s.putTile g.core ((f (s.tile g.core)).accepts s.cur g.seq op)).with
      (g.started c { id := 0, wait := .tile (f (s.tile g.core)).next })) :=
  issueC_accepts (dests := []) (lanes := 0) h (hb.trans (by
    rw [tileAccept_ok (g := { g with wait := .none }) hlen hcomm]
    rfl)) hlen hcomm

theorem tileCheckThen_none {x : Option (Nat × Dword)} (hx : x = none) (g : Group) (k : Res Eff) : tileCheckThen x g k = k := by
  rw [hx]
  rfl

/-! ### Every tile instruction (R341 to R350) -/

/-- What TMMA takes from its group and the engine (R343). -/
def tmmaOp (block tri : Bool) (o : EOps) (s : State) (g : Group) : TileOp :=
  .mma (xField o 0 4) (xField o 4 4 + 1) (xField o 8 1) o.d.toNat block (o.hint.getLsbD 0) (s.tile g.core).int
    (if tri then some (s.tile g.core).tri else none)
    (if tri then ((g.s2 s.free o.a.toNat).setWidth 32).toNat else 0) (if tri then ((g.s2 s.free o.a.toNat).extractLsb' 32 32).toNat else 0)
    ((s.tile g.core).bufs.getD (xField o 8 1) {}).fmt ((s.tile g.core).bufs.getD (xField o 8 1) {}).p
    ((List.range (xField o 4 4 + 1)).map (fun i => ((s.tile g.core).macs.getD (xField o 0 4 + i) {}).fmt))

theorem tmma_accepts {block tri : Bool} {sh : Shape} {o : EOps} {s : State} {g : Group} {c : Clause}
    (h : Runs (tileChecks {} (tmmaIll block tri o) (fun _ g => decide (g.info.macros < xField o 0 4 + (xField o 4 4 + 1)))) sh o s g c)
    (hlen : (s.tile g.core).jobs.length < 16) :
    tmma block tri {} sh o s = .next ((s.putTile g.core ((s.tile g.core).accepts s.cur g.seq (tmmaOp block tri o s g))).with
      (g.started c { id := 0, wait := .tile (s.tile g.core).next })) :=
  issueC_acceptsOnly (f := id) (op := tmmaOp block tri o s g) h rfl hlen (fun hw => nomatch hw)

/-- What TSCA takes from its group and the engine (R344). -/
def tscaOp (tri : Bool) (o : EOps) (s : State) (g : Group) : TileOp :=
  .sca o.d.toNat (xField o 0 4) (if tri then some (s.tile g.core).tri else none)
    (if tri then ((g.s2 s.free o.c.toNat).setWidth 32).toNat else 0) (if tri then ((g.s2 s.free o.c.toNat).extractLsb' 32 32).toNat else 0)
    ((List.range 64).map (fun i => if uA o then g.s1 s.free (o.a.toNat + i / 16) else g.v1 s.free (o.a.toNat + i / 16) (i % 16)))
    ((List.range 512).map (fun i => if uB o then g.s1 s.free (o.b.toNat + i / 128)
      else g.v1 s.free (o.b.toNat + 8 * (i / 128) + i % 128 / 16) (i % 16)))

theorem tsca_accepts {tri : Bool} {sh : Shape} {o : EOps} {s : State} {g : Group} {c : Clause}
    (h : Runs (tileChecks {} (fun s g => (s.tile g.core).int || (tri && !(s.tile g.core).tri.en) || (g.info.prot && !(uA o && uB o)))
      (fun _ _ => false)) sh o s g c) (hlen : (s.tile g.core).jobs.length < 16) :
    tsca tri {} sh o s = .next ((s.putTile g.core ((s.tile g.core).accepts s.cur g.seq (tscaOp tri o s g))).with
      (g.started c { id := 0, wait := .tile (s.tile g.core).next })) :=
  issueC_acceptsOnly (f := id) (op := tscaOp tri o s g) h rfl hlen (fun hw => nomatch hw)

/-- TACC.TRI leaves the engine the triangle register that it wrote (R345). -/
def TileEng.setTri (o : EOps) (s : State) (g : Group) (t : TileEng) : TileEng :=
  { t with tri := if o.x.getLsbD 1 then { en := true, side := o.x.getLsbD 0, d := g.s1 s.free o.a.toNat, fill := g.uB32 s.free o }
                  else { t.tri with en := false, side := o.x.getLsbD 0 } }

theorem taccTri_accepts {o : EOps} {s : State} {g : Group} {c : Clause}
    (h : Runs (tileChecks {} (fun _ _ => false) (fun _ _ => false)) shTaccTri o s g c) (hlen : (s.tile g.core).jobs.length < 16) :
    taccTri {} shTaccTri o s = .next ((s.putTile g.core (((s.tile g.core).setTri o s g).accepts s.cur g.seq .tri)).with
      (g.started c { id := 0, wait := .tile ((s.tile g.core).setTri o s g).next })) := by
  refine issueC_acceptsOnly (f := TileEng.setTri o s g) (op := .tri) h (congrArg (tileAccept s _ .tri) (funext fun t => ?_)) hlen
    (fun hw => nomatch hw)
  unfold TileEng.setTri
  dsimp only
  cases hx : o.x.getLsbD 1 <;> rfl

/-- Settles O33: each instruction's body is its checks and one acceptance. -/
theorem tileInstructionsStart : Obligations.TileInstructionsStart := by
  unfold Obligations.TileInstructionsStart
  refine ⟨?tldb, ?tlda, ?tmma, ?tsca, ?tacc, ?tctx, ?tprog⟩
  case tldb =>
    intro o role fmt nmaj addr stride k n s g c h hok hlen hcomm
    exact issueC_acceptsOnly h (tileCheckThen_none (OperandOk.none hok) _ _) hlen hcomm
  case tlda =>
    intro o buf fmt addr stride rows k s g c h hok hlen hcomm
    exact issueC_acceptsOnly h (tileCheckThen_none (OperandOk.none hok) _ _) hlen hcomm
  case tmma =>
    intro o m cnt b run
    refine ⟨?_, ?_, ?_, ?_⟩ <;>
    · rintro sh rfl s g c h - hlen hcomm
      exact tmma_accepts h hlen
  case tsca =>
    intro o run
    refine ⟨?_, ?_⟩ <;>
    · rintro sh rfl s g c h - hlen hcomm
      exact tsca_accepts h hlen
  case tacc =>
    intro o
    refine ⟨?zero, ?rd, ?st, ?mode, ?tri⟩
    case zero =>
      intro s g c h _ hlen hcomm
      exact issueC_acceptsOnly (f := id) h rfl hlen hcomm
    case rd =>
      rintro (_ | _) s g c h - hlen hcomm
      · exact issueC_accepts (f := id) h rfl hlen hcomm
      · exact issueC_accepts (f := id) h rfl hlen hcomm
    case st =>
      intro form s g c h hok hlen hcomm
      exact issueC_acceptsOnly (f := id) h (tileCheckThen_none (OperandOk.none hok) _ _) hlen hcomm
    case mode =>
      intro s g c h _ hlen hcomm
      exact issueC_acceptsOnly (f := fun t => { t with int := o.x.getLsbD 0 }) h rfl hlen hcomm
    case tri =>
      intro s g c h _ hlen hcomm
      exact taccTri_accepts h hlen
  case tctx =>
    rintro (_ | _) o addr tm mm s g c h hok hlen hcomm
    · exact issueC_acceptsOnly (f := id) h (tileCheckThen_none (AreaOk.none hok) _ _) hlen hcomm
    · exact issueC_acceptsOnly (f := id) h (tileCheckThen_none (AreaOk.none hok) _ _) hlen hcomm
  case tprog =>
    intro o s g c h
    exact ⟨issueC_writes h rfl rfl, issueC_writes h rfl rfl⟩

/-- The formats that TGEMM sets (R346). -/
def Gemm.setFmts (d : Gemm) (g : Group) (t : TileEng) : TileEng :=
  let p := if d.fa = 13 then g.precP 0 else 0
  if d.empty then t
  else (List.range d.c).foldl (fun t i => setMacFmt (d.role + i) d.fb t) (setBufFmt 1 d.fa p (setBufFmt 0 d.fa p t))

/-- R346: TGEMM is accepted with its descriptor. -/
theorem tgemm_starts (o : EOps) :
    let desc := fun (s : State) (g : Group) => (List.range 16).map (fun i => g.s1 s.free (o.a.toNat + i))
    TileStarts (.tgemm o) shTgemm o (gemmIll o shTgemm) (fun s g => decide (g.info.macros < (Gemm.ofDesc (desc s g)).role + (Gemm.ofDesc (desc s g)).c))
      (fun s g => GemmOk s g (Gemm.ofDesc (desc s g)))
      (fun s g => .gemm (desc s g) (o.hint.getLsbD 0) (s.tile g.core).int { p := g.precP 0, mode := g.precMode 0 })
      (fun s g t =>
        let d := Gemm.ofDesc (desc s g)
        if d.empty then t
        else
          let p := if d.fa = 13 then g.precP 0 else 0
          (List.range d.c).foldl (fun t i => setMacFmt (d.role + i) d.fb t) (setBufFmt 1 d.fa p (setBufFmt 0 d.fa p t)))
      [] (fun _ _ => 0) := by
  intro desc s g c h hok hlen hcomm
  exact issueC_acceptsOnly (f := Gemm.setFmts (Gemm.ofDesc (desc s g)) g) h (tileCheckThen_none (GemmOk.none hok) _ _) hlen hcomm

end Sys2Proof.Machine
end

section
/-!
PROOFS. The tile engine's sequencer, and what an accepted instruction does when it starts.
-/

namespace Sys2Proof.Machine

/-! ### The sequencer (R347) -/

/-- The sequencer acts only on a TGEMM that has its units. -/
theorem gemmStep_of {s : State} {core : Nat} {j : TileJob} {desc : List Word} {sat int : Bool} {vp : VpIn}
    (hj : (s.tile core).jobs.find? (fun j => j.running && !j.held) = some j) (hop : j.op = .gemm desc sat int vp)
    (hp : (s.die (dieOfCore core)).powerHeld (.tile core j.num) = true) :
    gemmStep s core =
      let t := s.tile core
      let d := Gemm.ofDesc desc
      let rb := d.rb t.step
      let cg := d.cg t.step
      let kc := d.kc t.step
      if kc < d.nkc then
        tileRun core j (runLoads core j (d.lines vp rb cg kc) (if kc = 0 ∧ j.pos = 0 then s.putTile core (d.clear t cg) else s))
          (fun s => gemmNext (s.putTile core (d.pass vp sat int (s.tile core) rb cg kc)) core j)
      else
        tileRun core j (runStores j (d.elts ((if j.pos = 0 then s.putTile core (d.fills t rb cg) else s).tile core) rb cg)
          (if j.pos = 0 then s.putTile core (d.fills t rb cg) else s)) (fun s => gemmNext s core j) := by
  unfold gemmStep
  dsimp only
  rw [hj]
  dsimp only
  rw [hop]
  exact if_neg (by rw [hp]; simp)

/-- R346, R347: a TGEMM's acceptance and its steps. -/
theorem tileProducts : Parts.TileProducts := by
  unfold Parts.TileProducts
  refine ⟨tgemm_starts, ?_, fun _ _ _ => rfl⟩
  intro s core j desc sat int vp t d rb cg kc hj hop hp
  refine ⟨fun u p hkc hrun => congrArg Host.Outcome.next ?_, fun u p hkc hrun => congrArg Host.Outcome.next ?_⟩
  · rw [gemmStep_of hj hop hp]
    refine (if_pos hkc).trans ?_
    exact congrArg (fun r => tileRun core j r _) hrun
  · rw [gemmStep_of hj hop hp]
    refine (if_neg (Nat.not_lt.2 hkc)).trans ?_
    exact congrArg (fun r => tileRun core j r _) hrun

/-! ### The start of an accepted instruction (R195, R336, R338) -/

theorem tileStart_of {s : State} {core n : Nat} {j : TileJob} (hj : (s.tile core).jobs.find? (fun j => decide (j.num = n)) = some j)
    (hrun : j.running = false) (hfree : tileFree s core j = true) :
    tileStart s core n =
      if tileStays s core j then s
      else if j.op.units ≠ 0 && !(s.die (dieOfCore core)).powerHeld (.tile core n) then powerAsk s (dieOfCore core) (.tile core n) j.op.units
      else tileDo s core j := by
  unfold tileStart
  rw [hj]
  exact if_neg (by simp [hrun, hfree])

/-- A TGEMM that only TGEMMs follow stays where its cohort is to stop. -/
theorem tileStays_of {s : State} {core : Nat} {j : TileJob} (hstop : (s.cohort (s.grp j.grp).cohort).stop = true) (hrun : j.running = false)
    (hlast : ∀ x ∈ (s.tile core).jobs, j.num ≤ x.num → x.op.isGemm = true) : tileStays s core j = true := by
  unfold tileStays
  rw [hstop, hrun]
  refine (Bool.true_and _).trans (List.all_eq_true.2 fun x hx => ?_)
  by_cases hlt : x.num < j.num
  · simp [hlt]
  · simp [hlast x hx (Nat.le_of_not_lt hlt)]

/-! ### Elements (R324, R328, R332) -/

/-- Storing at distinct keys, each from its old value. -/
theorem getD_foldl_store {α : Type} [DecidableEq α] (d : α) (key : Nat → Nat) (f : Nat → α → α) (n : Nat)
    (hinj : ∀ i < n, ∀ j < n, key i = key j → i = j) (m : Tab α) (hm : m.rising = true) :
    let m' := (List.range n).foldl (fun m i => m.store d (key i) (f i (m.getD (key i) d))) m
    m'.rising = true ∧ (∀ i < n, m'.getD (key i) d = f i (m.getD (key i) d)) ∧
      ∀ k, (∀ i < n, key i ≠ k) → m'.getD k d = m.getD k d := by
  induction n with
  | zero => exact ⟨hm, fun i hi => absurd hi (Nat.not_lt_zero i), fun _ _ => rfl⟩
  | succ n ih =>
    obtain ⟨hr, hin, hout⟩ := ih fun i hi j hj => hinj i (by omega) j (by omega)
    have hnew : ∀ i < n, key i ≠ key n := fun i hi he => absurd (hinj i (by omega) n (by omega) he) (by omega)
    simp only [List.range_succ, List.foldl_append, List.foldl_cons, List.foldl_nil]
    refine ⟨Tab.rising_store hr _ _ _, fun i hi => ?_, fun k hk => ?_⟩
    · rw [Tab.getD_store hr]
      by_cases he : i = n
      · subst he
        rw [if_pos rfl, hout _ hnew]
      · rw [if_neg (hnew i (by omega)), hin i (by omega)]
    · rw [Tab.getD_store hr, if_neg (Ne.symm (hk n (by omega))), hout k fun i hi => hk i (by omega)]

theorem TileEng.elt_mapTile {t : TileEng} (tile w : Nat) (f : Nat → Nat → Pair → Pair) (tile' r c : Nat) (ht : t.tiles.rising = true)
    (hw : w ≤ 128) (hr : r < 16) (hc : c < 128) :
    (t.mapTile tile w f).elt tile' r c = if tile' = tile ∧ c < w then f r c (t.elt tile r c) else t.elt tile' r c := by
  have hkey : ∀ i < 16 * w, 0 < w ∧ i / w < 16 ∧ i % w < w := fun i hi => by
    have hpos : 0 < w := by omega
    exact ⟨hpos, Nat.div_lt_of_lt_mul (by rw [Nat.mul_comm]; exact hi), Nat.mod_lt _ hpos⟩
  obtain ⟨-, hin, hout⟩ := getD_foldl_store ({} : Pair) (fun i => tile * 2048 + i / w * 128 + i % w) (fun i => f (i / w) (i % w)) (16 * w)
    (fun i hi j hj he => by
      obtain ⟨-, hi1, hi2⟩ := hkey i hi
      obtain ⟨-, hj1, hj2⟩ := hkey j hj
      have hd : i / w = j / w := by omega
      have hm : i % w = j % w := by omega
      rw [← Nat.div_add_mod i w, ← Nat.div_add_mod j w, hd, hm]) t.tiles ht
  split
  next h =>
    obtain ⟨rfl, hcw⟩ := h
    have hidx : r * w + c < 16 * w := by nlinarith
    have hq : (r * w + c) / w = r := by rw [Nat.mul_comm, Nat.mul_add_div (by omega), Nat.div_eq_of_lt hcw, Nat.add_zero]
    have hm : (r * w + c) % w = c := by rw [Nat.mul_comm, Nat.mul_add_mod, Nat.mod_eq_of_lt hcw]
    have := hin _ hidx
    rw [hq, hm] at this
    exact this
  next h =>
    refine hout _ fun i hi he => h ?_
    obtain ⟨-, hi1, hi2⟩ := hkey i hi
    exact ⟨by omega, by omega⟩

theorem macWidth_le (f : Nat) : macWidth f ≤ 128 := by
  unfold macWidth
  split <;> omega

/-- R195, R328, R332, R334, R336, R338, R343: the start of an instruction, and a plain pass element by element. -/
theorem tilePasses : Parts.TilePasses := by
  unfold Parts.TilePasses
  refine ⟨fun s core n j hj hrun hfree => ⟨fun hstop hlast => ?_, fun hstay hunits => ?_, fun hstay hunits hheld => ?_⟩,
    fun t tile w f tile' r c ht hw hr hc => TileEng.elt_mapTile tile w f tile' r c ht hw hr hc, ?_, fun a e h wa => if_pos h⟩
  · have hnum : j.num = n := by simpa using List.find?_some hj
    refine congrArg Host.Outcome.next ((tileStart_of hj hrun hfree).trans (if_pos (tileStays_of hstop hrun ?_)))
    rw [hnum]
    exact hlast
  · refine congrArg Host.Outcome.next ((tileStart_of hj hrun hfree).trans ((if_neg (by simp [hstay])).trans (if_neg ?_)))
    rcases hunits with h | h <;> simp [h]
  · exact congrArg Host.Outcome.next ((tileStart_of hj hrun hfree).trans ((if_neg (by simp [hstay])).trans (if_pos (by simp [hunits, hheld]))))
  · intro t buf mac d bfmt p mfmt sat tri row0 col r c ht hr hc hwhole a e add
    have hpass : macPass t buf mac d bfmt p mfmt false sat false tri row0 col = t.mapTile d (macWidth mfmt) (fun r c old =>
        if triMasked tri (row0 + r) (col + c) then (tri.getD {}).fillElt
        else (List.range 4).foldl (fun q b => twoSum q (blockPair (blockSum (if bfmt = 13 then p + 1 else 24)
          ((t.bufs.getD buf {}).block r b) ((t.macs.getD mac {}).block mfmt c b))).value) old) :=
      if_neg (by simp [hwhole])
    rw [hpass, TileEng.elt_mapTile _ _ _ _ _ _ ht (macWidth_le mfmt) hr (Nat.lt_of_lt_of_le hc (macWidth_le mfmt)), if_pos ⟨rfl, hc⟩]
    rfl

/-- Settles O34: its two parts. -/
theorem tileExecution : Obligations.TileExecution := ⟨tileProducts, tilePasses⟩

end Sys2Proof.Machine
end

section
/-!
PROOFS. The queues of the command processor: a BLOCKED queue whose head is looked at again.
-/

namespace Sys2Proof.Machine

/-! ### A BLOCKED queue whose SWITCH is over (R446, R464)

A queue that is BLOCKED on its head is the queue of a SWITCH whose COMMIT has been sent, too: the model ends the SWITCH, which clears the
leader's record, while the statement has the head processed as the WAIT that it is. -/

/-- The queue that is BLOCKED: at packet 1, of ring 0. -/
def blockedQueue : Queue := { st := .blocked, ridx := 1, widx := 2 }

/-- Package 0 holds a queue descriptor at VA 0, whose ring is at VA 0 too and has two packets; packet 1 is a WAIT for a word that is not 0,
at VA 0, where 0 stands. The page is in the MTLB. The queue leads a SWITCH whose COMMIT has been sent. -/
def switchedWait : State := {
  mem := (List.range 128).map (fun a => (2 ^ 39 + a, if a = 8 ∨ a = 68 then 1 else if a = 64 then 4 else 0))
  dies := [(0, { mtlb1a := [{ asid := 0, tier := 3, base := 0, back := false, word := 0x800000008363, ent := 0 }] })]
  asids := [(0, { en := true })]
  descs := [(0, { base := 0x8000000000, limit := 0x8000001000, attr := 1 })]
  pkgs := [(0, {
    ctxs := [(0, { queues := [(0, blockedQueue)] })]
    lead := some { slice := 0, waits := [], queue := some (0, 0), sent := true } })] }

/-- The number of the packet's first 60 bytes: a WAIT (TYPE 4) for a value that differs (FUNC 1). -/
def waitPacket : Nat := 4 + 2 ^ 32

theorem eq_pair_of_snd {α β : Type} {p : α × β} {b : β} (h : p.2 = b) : p = (p.1, b) := by rw [← h]

theorem switchedWait_head : headPacket switchedWait 0 0 0 blockedQueue = ((headPacket switchedWait 0 0 0 blockedQueue).1, .ok (64#64, waitPacket)) :=
  eq_pair_of_snd (by decide +kernel)

/-- The state that the statement names: the packet waits on. -/
def waitsOn : State :=
  let r := packetDo (headPacket switchedWait 0 0 0 blockedQueue).1 0 0 0 waitPacket
  packetEnd r.1 0 0 0 64#64 waitPacket r.2

/-- Package 0 leads a SWITCH after an event. -/
def leads : Out → Bool
  | .next t => (t.pkg 0).lead.isSome
  | _ => false

/-- Refutes O30: `waitConditionMet` in `switchedWait` ends the SWITCH, where the statement has the packet wait on. -/
theorem not_queuesAndPackets : ¬ Obligations.QueuesAndPackets := by
  rintro ⟨-, -, hmet, -⟩
  obtain ⟨-, hserve⟩ := hmet switchedWait 0 0 0 blockedQueue _ _ _ rfl rfl switchedWait_head (.inr (.inl (by decide)))
  have hnext : exec (.waitConditionMet 0 0 0) switchedWait = .next waitsOn := (hserve rfl).1 (by decide +kernel)
  have hkeeps : leads (.next waitsOn) = true := by decide +kernel
  have hends : leads (exec (.waitConditionMet 0 0 0) switchedWait) = false := by decide +kernel
  rw [hnext, hkeeps] at hends
  exact absurd hends (by decide)

end Sys2Proof.Machine
end

section
/-!
PROOFS. The registration window.
-/

namespace Sys2Proof.Machine

/-! ### The registration window (R447, R448) -/

variable {s : State} {pkg slot : Nat} {r : WinReq}

/-- A command is carried out on the request that asks for it. -/
theorem winCmd_of {opc : Nat} (h : SlotAsks s pkg slot r opc) {is : Nat → Bool} (his : is opc = true) (f : WinReq → State) :
    winCmd s pkg slot is f = f r := by
  obtain ⟨hreq, hbegun, hopc⟩ := h
  unfold winCmd
  rw [hreq]
  exact if_pos (by rw [hopc, his, hbegun]; rfl)

theorem ticket_takes {t : State} {v : Nat} (hup : (s.pkg pkg).up = true) (hslot : slot < 16) (hreq : (s.winSlot pkg slot).req = none)
    (hread : cpNum s (fwReq s pkg (slotAddr pkg slot)) 0x84 = (t, some v)) (hdone : bits v 0 32 ≠ bits v 1024 32) :
    ticket s pkg slot = t.putSlotReq pkg slot (some {
      ticket := BitVec.ofNat 32 v, opc := bits v 32 8, arg0 := BitVec.ofNat 64 (bits v 64 64), arg1 := BitVec.ofNat 64 (bits v 128 64)
      world := (t.winSlot pkg slot).world }) false := by
  unfold ticket
  refine (if_neg ?_).trans ?_
  · simp [hup, hreq, Nat.not_le.2 hslot]
  · rw [hread]
    exact if_neg hdone

theorem ctxReg_registers {t u : State} {n : Nat} (ha : ctlAddr s r.arg0 64 = true)
    (hread : cpNum s { fwReq s pkg r.arg0 with world := r.world } 0x34 = (t, some n)) (hok : ctxOk t (parseCtx r.arg0 n) n = true)
    (hworld : (parseCtx r.arg0 n).world = true → r.world = true) (hfree : t.ctx? pkg (bits n 64 12) = none)
    (hopen : openQueues pkg (bits n 64 12) (parseCtx r.arg0 n) ((parseCtx r.arg0 n).nq + 1) (t.putCtx pkg (bits n 64 12) (parseCtx r.arg0 n))
      = (u, true)) : ctxReg s pkg slot r = answer u pkg slot 0 (bits n 64 12) := by
  unfold ctxReg
  refine (if_neg (by simp [ha])).trans ?_
  rw [hread]
  refine (if_neg (by simp [hok])).trans ((if_neg ?_).trans ((if_neg (by simp [hfree])).trans ?_))
  · cases hw : (parseCtx r.arg0 n).world
    · simp
    · simp [hworld hw]
  · rw [hopen]

theorem ctxDereg_deregisters {x : CtxReg} (hx : namedCtx s pkg r = .ok x) (hstop : ∀ i ≤ x.nq, (x.queues.getD i {}).st = .stopped)
    (hl : s.launches = []) :
    ctxDereg s pkg slot r = answer (s.putPkg pkg { (s.pkg pkg) with ctxs := (s.pkg pkg).ctxs.del r.arg0.toNat }) pkg slot 0 0 := by
  unfold ctxDereg
  rw [hx]
  refine if_neg ?_
  have hall : ((List.range (x.nq + 1)).any fun i => (x.queues.getD i {}).st != .stopped) = false :=
    List.any_eq_false.2 fun i hi => by simp [hstop i (by simpa [Nat.lt_succ_iff] using hi)]
  simp [hall, hl]

theorem queueCmd_runs {x : CtxReg} (hx : namedCtx s pkg r = .ok x) (hi : r.arg1.toNat ≤ x.nq) (f : Nat → Nat → State) :
    queueCmd s pkg slot r f = f r.arg0.toNat r.arg1.toNat := by
  unfold queueCmd
  rw [hx]
  exact if_neg (Nat.not_lt.2 hi)

/-- Settles O31: each event is the piece of work of its command. -/
theorem registrationCommands : Obligations.RegistrationCommands := by
  unfold Obligations.RegistrationCommands
  refine ⟨?ticket, ?register, ?deregister, ?queue, ?invalid⟩
  case ticket =>
    intro s pkg slot t v hup hslot hreq hread hdone
    exact serves_of rfl (ticket_takes hup hslot hreq hread hdone)
  case register =>
    intro s pkg slot r t n u hask ha hread x a hok hworld hfree hopen
    exact serves_of rfl ((winCmd_of hask (is := (· == 1)) rfl (ctxReg s pkg slot)).trans (ctxReg_registers ha hread hok hworld hfree hopen))
  case deregister =>
    intro s pkg slot r x hask hx hstop hl
    exact serves_of rfl ((winCmd_of hask (is := (· == 2)) rfl (ctxDereg s pkg slot)).trans (ctxDereg_deregisters hx hstop hl))
  case queue =>
    intro s pkg slot r x hx hi
    refine ⟨fun hask => serves_of rfl ?_, fun hask => serves_of rfl ?_⟩
    · exact (winCmd_of hask (is := (· == 3)) rfl (qstart s pkg slot)).trans
        (queueCmd_runs hx hi fun a i => answer (startQueue s pkg a i) pkg slot 0 0)
    · exact (winCmd_of hask (is := (· == 4)) rfl (qresetCmd s pkg slot)).trans
        (queueCmd_runs hx hi fun a i => (beginReset s pkg a i (.slot slot)).putSlotReq pkg slot (some r) true)
  case invalid =>
    intro s pkg slot r opc hask hopc
    exact serves_of rfl (winCmd_of hask (is := fun c => c == 0 || decide (5 ≤ c)) (by simpa using hopc) fun _ => answer s pkg slot 7 0)

end Sys2Proof.Machine
end

section
/-!
PROOFS. The dispatcher: records taken and accepted, units placed, cohorts pre-empted and restored; starts; the gang's slices.
-/

namespace Sys2Proof.Machine

/-! ### Records (R450, R457) -/

theorem pendingTake_released {s : State} {core : Nat} (hes : (s.core core).plq.filter (fun e => e.released) ≠ [])
    (hsp : (s.pkg (pkgOfCore core)).spills.filter (fun e => e.released) = []) :
    pendingTake s core = (s.putCore core { s.core core with plq := (s.core core).plq.filter (fun e => !e.released) }).putPkg (pkgOfCore core)
      { s.pkg (pkgOfCore core) with
        spills := (s.pkg (pkgOfCore core)).spills.filter (fun e => !e.released)
        work := (s.pkg (pkgOfCore core)).work ++ (s.core core).plq.filter (fun e => e.released) } := by
  unfold pendingTake
  dsimp only
  rw [hsp]
  refine (if_neg (by simp [hes])).trans ?_
  rw [show anyOrder _ ([] : List PendLaunch).length [] = [] from rfl, List.append_nil]
  rfl

theorem launchAccept_head {s : State} {pkg : Nat} {e : PendLaunch} {rest : List PendLaunch} (hw : (s.pkg pkg).work = e :: rest)
    (hlen : s.listLen pkg < 256) :
    launchAccept s pkg 0 =
      match acceptLaunch (s.putPkg pkg { (s.pkg pkg) with work := rest }) pkg e.addr { e.parent with handle := e.handle } e.parent.handle e.seen with
      | (s, true) => s
      | (s, false) =>
        match s.groups.get? e.grp with
        | some g =>
          if s.onCore g g.core then
            { s with groups := s.groups.put e.grp (g.post { cause := causeLaunch, lanes := g.em, seq := g.seq }) }
          else s
        | none => s := by
  unfold launchAccept
  rw [hw]
  refine (if_neg ?_).trans rfl
  rintro (h | ⟨h, -⟩)
  · exact absurd h (Nat.not_le.2 hlen)
  · exact h rfl

/-! ### The ramp step (R198, R452) -/

theorem swapOut_none {s : State} (pkg : Nat) (h : s.cohorts = []) : swapOut s pkg = s := by
  unfold swapOut
  rw [h]
  rfl

/-- A ramp step of a domain without cohorts whose launches all run only serves the launches. -/
theorem rampStep_serves {s : State} {pkg : Nat} (hc : s.cohorts = []) (hl : s.launches.filter (fun e => e.2.st != .running) = []) :
    rampStep s pkg = serveAll pkg [] (serviceOrder (s.putPkg pkg { s.pkg pkg with rampNow := (s.pkg pkg).ramp, starts := [] }) pkg)
      (s.putPkg pkg { s.pkg pkg with rampNow := (s.pkg pkg).ramp, starts := [] }) := by
  unfold rampStep
  dsimp only
  rw [swapOut_none (s := s.putPkg pkg { s.pkg pkg with rampNow := (s.pkg pkg).ramp, starts := [] }) pkg hc]
  rw [show (s.putPkg pkg { s.pkg pkg with rampNow := (s.pkg pkg).ramp, starts := [] }).launches.filter (fun e => e.2.st != .running) = [] from hl]
  rfl

theorem serviceOrder_one {s : State} {pkg lk : Nat} {l : Launch} (hl : s.launches = [(lk, l)]) (ht : l.takers.contains pkg = true) :
    serviceOrder s pkg = [(lk, l)] := by
  unfold serviceOrder
  rw [hl, List.filter_cons_of_pos (by simpa using ht)]
  rfl

theorem placeNext_of {s : State} {lk pkg d : Nat} {l : Launch} {cs : List Nat} (hl : s.launches.get? lk = some l) (hst : l.st = .running)
    (hdue : l.due pkg ≠ l.info.cohorts) (hslice : sliceOk s l pkg = true)
    (hd : (diesFor s l pkg (l.due pkg)).findSome? (fun d => (placeOn s l (l.due pkg) d).map (fun cs => (d, cs))) = some (d, cs)) :
    placeNext s lk pkg [] = some (startUnit s lk l pkg (l.due pkg) cs) := by
  unfold placeNext
  rw [hl]
  refine (if_neg ?_).trans ?_
  · rintro (h | h | h)
    · exact h hst
    · exact hdue h
    · simp [hslice] at h
  · rw [hd]
    exact if_neg (by simp)

/-! ### Pre-emption and restore (R73 to R76) -/

theorem preempt_of {s : State} {ck : Nat} {c c' : Cohort} {l : Launch} (hc : s.cohorts.get? ck = some c)
    (hl : s.launches.get? c.launch = some l) (hst : l.st = .running) (why : SaveWhy)
    (hc' : (c.groups.foldl commAll (stopCohort s ck)).cohorts.get? ck = some c') :
    preempt s ck why = if savable (c.groups.foldl commAll (stopCohort s ck)) c' then saveCohort (c.groups.foldl commAll (stopCohort s ck)) ck why
      else c.groups.foldl commAll (stopCohort s ck) := by
  unfold preempt
  rw [hc]
  dsimp only
  rw [hl]
  refine (if_neg (not_not.2 hst)).trans ?_
  rw [hc']

theorem unitLeft_alone {s : State} {ck core : Nat} {x : Saved} (hx : s.saved.get? ck = some x) (hn : x.cohort.neigh = []) :
    unitLeft s x.cohort ck [core] = [(ck, core)] := by
  unfold unitLeft
  rw [hn]
  exact List.filter_cons_of_pos (by simp [hx])

theorem restore_of {s : State} {ck core : Nat} {x : Saved} {l : Launch} (hx : s.saved.get? ck = some x)
    (hl : s.launches.get? x.cohort.launch = some l) (hst : l.st = .running) (hnw : l.info.nw = 0) (hn : x.cohort.neigh = [])
    (hwhy : x.why = .other) (hdie : dieOfCore core = x.die) (hb : ∀ gk ∈ x.cohort.groups, burrowOf s gk = [])
    (hfit : fitsCore s l.info x.cohort.stash core = true) (hslice : sliceOk s l (pkgOfCore core) = true) :
    restore s ck core = restoreOne s ck core [] := by
  have hl' : s.launches.getD x.cohort.launch {} = l := by simp [Tab.getD, hl]
  have hx' : ∀ d, s.saved.getD ck d = x := fun d => by simp [Tab.getD, hx]
  have hcores : unitCores l.info (x.cohort.num - x.cohort.unit) core = some [core] := if_pos hnw
  have hstill : x.cohort.groups.all (fun gk => !hasBurrow s gk) = true :=
    List.all_eq_true.2 fun gk hgk => by
      have := hb gk hgk
      simpa [hasBurrow, burrowOf] using this
  unfold restore
  rw [hx]
  dsimp only
  rw [hl', hcores]
  dsimp only
  rw [unitLeft_alone hx hn]
  refine (if_neg ?_).trans ?_
  · simp [hst, hdie, hx, hx', hstill, hnw, hfit, hslice]
  · simp [hx', wakes, hwhy, hnw]

/-- R450, R452, R457, R73 to R76: each event of the dispatcher by its operation. -/
theorem dispatcherEvents : Parts.DispatcherEvents := by
  unfold Parts.DispatcherEvents
  refine ⟨?take, ?accept, ?reject, ?idle, ?one, ?place, ?preempt, ?restore⟩
  case take =>
    intro s core x p hes hsp
    exact serves_of rfl (pendingTake_released hes hsp)
  case accept =>
    intro s pkg e rest t hw hlen ht
    refine serves_of rfl ((launchAccept_head hw hlen).trans ?_)
    rw [ht]
  case reject =>
    intro s pkg e rest t g hw hlen ht hg hon
    refine serves_of rfl ((launchAccept_head hw hlen).trans ?_)
    rw [ht]
    dsimp only
    rw [hg]
    exact if_pos hon
  case idle =>
    intro s pkg hc hl
    refine congrArg Host.Outcome.next ((rampStep_serves hc (by rw [hl]; rfl)).trans ?_)
    unfold serviceOrder
    rw [show (s.putPkg pkg { s.pkg pkg with rampNow := (s.pkg pkg).ramp, starts := [] }).launches = [] from hl]
    rfl
  case one =>
    intro s pkg lk l hc hl hst ht
    refine congrArg Host.Outcome.next ((rampStep_serves hc (by rw [hl]; simp [hst])).trans ?_)
    rw [serviceOrder_one (s := s.putPkg pkg { s.pkg pkg with rampNow := (s.pkg pkg).ramp, starts := [] }) hl ht]
    rfl
  case place =>
    intro s lk l pkg d cs hl hst hdue hslice hd
    exact placeNext_of hl hst hdue hslice hd
  case preempt =>
    intro s ck c l c' hc hl hst t hc'
    exact ⟨fun hs => congrArg Host.Outcome.next ((preempt_of hc hl hst .other hc').trans (if_pos hs)),
      fun hs => congrArg Host.Outcome.next ((preempt_of hc hl hst .other hc').trans (if_neg (by rw [hs]; decide)))⟩
  case restore =>
    intro s ck core x l hx hl hst hnw hn hwhy hdie hb hfit hslice
    exact serves_of rfl (restore_of hx hl hst hnw hn hwhy hdie hb hfit hslice)

/-! ### Starts (R198) -/

theorem startsWith_alone {s : State} {ck : Nat} {c : Cohort} (hc : s.cohorts.get? ck = some c) (hb : c.begun = false) (hn : c.neigh = []) :
    startsWith s ck = [ck] := by
  simp [startsWith, hc, hb, hn]

theorem startsWith_begun {s : State} {ck : Nat} {c : Cohort} (hc : s.cohorts.get? ck = some c) (hb : c.begun = true) :
    startsWith s ck = [] := by
  simp [startsWith, hc, hb]

theorem State.cohort_of_get? {s : State} {ck : Nat} {c : Cohort} (hc : s.cohorts.get? ck = some c) : s.cohort ck = c := by
  simp [State.cohort, hc]

theorem ready_issues {s : State} {gk : Nat} (h : mayIssue s (s.grp gk).cohort = false) : ready s gk = false :=
  if_pos (by simp [h])

/-- R198: starts are counted with a cohort's first issue. -/
theorem startsCounted : Parts.StartsCounted := by
  unfold Parts.StartsCounted
  refine ⟨fun s dk n => ?_, fun s ck c hc hb hn => ⟨fun hm gk hgk => ready_issues ?_, ?_⟩, fun s ck c hc hb => ?_⟩
  · simp [mayStart, startMax, bits, or_assoc]
  · subst hgk
    simp [mayIssue, startsWith_alone hc hb hn, State.cohort_of_get? hc, hm]
  · unfold beginCohort
    rw [startsWith_alone hc hb hn]
    dsimp only [List.foldl_cons, List.foldl_nil]
    rw [State.cohort_of_get? hc,
      State.cohort_of_get? (s := { s with cohorts := s.cohorts.put ck { c with begun := true } }) (Tab.get?_put_self ..)]
    rfl
  · simp [mayIssue, beginCohort, startsWith_begun hc hb]

/-! ### The gang (R464, R465) -/

/-- R464, R465: each message of the gang by its rule. -/
theorem gangProtocol : Parts.GangProtocol := by
  unfold Parts.GangProtocol
  refine ⟨?propose, ?saved, ?ack, ?commit⟩
  case propose =>
    intro s n m slice again cur hm hword hgst hne t u
    refine congrArg Host.Outcome.next ?_
    unfold gangPropose
    rw [hm]
    dsimp only
    rw [hword]
    dsimp only
    rw [show (State.pkg { s with gmsgs := s.gmsgs.eraseIdx n } m.dest).gst = .run cur from hgst]
    exact if_neg (by simpa using hne)
  case saved =>
    intro s pkg cur next hgst hnone
    refine congrArg Host.Outcome.next ?_
    unfold gangSaved
    dsimp only
    rw [hgst]
    exact if_pos (by rw [hnone]; rfl)
  case ack =>
    intro s n m slice l hm hword hlead hslice hwaits
    refine congrArg Host.Outcome.next ?_
    unfold gangAck
    rw [hm]
    dsimp only
    rw [hword]
    dsimp only
    rw [show (State.pkg { s with gmsgs := s.gmsgs.eraseIdx n } m.dest).lead = some l from hlead]
    refine (if_pos hslice).trans ?_
    unfold gangReady
    rw [State.pkg_putPkg]
    exact if_neg fun h => hwaits h.1
  case commit =>
    intro s n m slice cur hm hword hgst
    refine congrArg Host.Outcome.next ?_
    unfold gangCommit
    rw [hm]
    dsimp only
    rw [hword]
    dsimp only
    rw [show (State.pkg { s with gmsgs := s.gmsgs.eraseIdx n } m.dest).gst = .acked cur slice from hgst]
    exact if_pos rfl

/-- Settles O32: its three parts. -/
theorem dispatcherAndGang : Obligations.DispatcherAndGang := ⟨dispatcherEvents, startsCounted, gangProtocol⟩

end Sys2Proof.Machine
end

section
/-!
PROOFS. What every operation of the state keeps: `cur`, and the form of memory, seals and groups. Here the relation and its rules; the
parts after this one have a lemma for each operation, in the order of the model.
-/

namespace Sys2Proof.Machine

/-! ### Tables whose keys rise -/

theorem Tab.above_filter {α : Type} {lo : Nat} {t : Tab α} (p : Nat × α → Bool) (h : Tab.above lo t = true) :
    Tab.above lo (t.filter p : Tab α) = true := by
  induction t generalizing lo with
  | nil => rfl
  | cons e t ih =>
    simp only [Tab.above, Bool.and_eq_true, decide_eq_true_eq] at h
    rw [List.filter_cons]
    split
    · simp only [Tab.above, Bool.and_eq_true, decide_eq_true_eq]
      exact ⟨h.1, ih h.2⟩
    · exact ih (Tab.above_mono h.2 (Nat.le_of_lt h.1))

theorem Tab.rising_filter {α : Type} {t : Tab α} (h : t.rising = true) (p : Nat × α → Bool) : Tab.rising (t.filter p : Tab α) = true := by
  cases t with
  | nil => rfl
  | cons e t =>
    rw [List.filter_cons]
    split
    · exact Tab.above_filter p h
    · exact Tab.rising_of_above (Tab.above_filter p h)

theorem Tab.above_map {α β : Type} {lo : Nat} {t : Tab α} {f : Nat × α → Nat × β} (hf : ∀ e, (f e).1 = e.1) (h : Tab.above lo t = true) :
    Tab.above lo (t.map f : Tab β) = true := by
  induction t generalizing lo with
  | nil => rfl
  | cons e t ih =>
    simp only [Tab.above, Bool.and_eq_true, decide_eq_true_eq] at h
    rw [List.map_cons]
    simp only [Tab.above, Bool.and_eq_true, decide_eq_true_eq]
    exact ⟨by rw [hf]; exact h.1, by rw [hf]; exact ih h.2⟩

theorem Tab.rising_map {α β : Type} {t : Tab α} (h : t.rising = true) {f : Nat × α → Nat × β} (hf : ∀ e, (f e).1 = e.1) :
    Tab.rising (t.map f : Tab β) = true := by
  cases t with
  | nil => rfl
  | cons e t =>
    rw [List.map_cons]
    show Tab.above (f e).1 (t.map f) = true
    rw [hf]
    exact Tab.above_map hf h

/-! ### What an operation keeps -/

/-- The group that acts is that of `z`; and memory, seals and groups are in their form where those of `z` are. -/
def Tabs (z : State) (cur : Nat) (mem : Tab Byte) (seals : Tab Nat) (groups : Tab Group) : Prop :=
  cur = z.cur ∧ (z.tablesOk = true → Memory.wf mem = true ∧ seals.rising = true ∧ groups.rising = true)

/-- An operation that made `s` of `z` kept the group that acts, and the form of the tables. -/
def Kept (z s : State) : Prop := Tabs z s.cur s.mem s.seals s.groups

/-- The same of an instruction's effect, an outcome, and an instruction's next state. -/
def ResKept (z : State) (r : Res Eff) : Prop := ∀ e, r = .ok e → Kept z e.s
def OutKept (z : State) (o : Out) : Prop := ∀ t, o = .next t → Kept z t

variable {z s t : State}

theorem State.tablesOk_iff : s.tablesOk = true ↔ Memory.wf s.mem = true ∧ s.seals.rising = true ∧ s.groups.rising = true := by
  simp [State.tablesOk, State.memWf]

theorem Kept.refl (s : State) : Kept s s := ⟨rfl, State.tablesOk_iff.1⟩
theorem Kept.cur (h : Kept z s) : s.cur = z.cur := h.1
theorem Kept.tables (h : Kept z s) (hz : z.tablesOk = true) : s.tablesOk = true := State.tablesOk_iff.2 (h.2 hz)

/-- A change of nothing but other fields. -/
theorem Kept.same (h : Kept z s) (hc : t.cur = s.cur) (hm : t.mem = s.mem) (hs : t.seals = s.seals) (hg : t.groups = s.groups) : Kept z t := by
  unfold Kept
  rw [hc, hm, hs, hg]
  exact h

theorem Kept.of_eq {α : Type} {p q : State × α} (h : Kept z p.1) (he : p = q) : Kept z q.1 := he ▸ h

theorem Kept.tabs (h : Kept z s) : Tabs z s.cur s.mem s.seals s.groups := h

/-- The rule of a change of other fields, in any way. -/
theorem Tabs.kept {cur : Nat} {mem : Tab Byte} {seals : Tab Nat} {groups : Tab Group} (h : Tabs z cur mem seals groups)
    (cores : Tab Core) (cohorts : Tab Cohort) (clusters : Tab Cluster) (dies : Tab Die) (homes : Tab HomeLine) (flight : List TokMsg)
    (attempts : List Attempt) (owners : Tab PageOwner) (asids : Tab AsidEnt) (descs : Tab RegionDesc) (slots : Tab KeySlot) (ctrs :
    Tab Counter) (amsgs : List AMsg) (colldirs : List CollDir) (carb : Tab Word) (ports : Tab Port) (flowcfg : Tab Word) (worlds : Tab
    Bool) (order : Nat) (refused : List Refused) (refusals : List (Initiator × Nat)) (cpStop : Option (TransReq × Nat × Nat)) (msis :
    List Msi) (snaps : Tab Snap) (counters : Tab Dword) (records : Tab Dword) (owlOut : List OwlMsg) (pkgs : Tab Pkg) (launches : Tab
    Launch) (saved : Tab Saved) (gmsgs : List GangMsg) (nextKey : Nat) (domain : Nat) (lost : Tab Word) (decls : List (Nat × Nat))
    (partner : Tab Nat) (clock : Dword) (agenda : List Turn) (turn : Nat) (free : Nat) :
    Kept z {
      groups := groups, cores := cores, mem := mem, seals := seals, cohorts := cohorts, clusters := clusters, dies := dies, homes := homes, flight := flight, attempts := attempts, owners := owners, asids := asids,
      descs := descs, slots := slots, ctrs := ctrs, amsgs := amsgs, colldirs := colldirs, carb := carb, ports := ports, flowcfg := flowcfg, worlds := worlds, order := order, refused := refused, refusals := refusals,
      cpStop := cpStop, msis := msis, snaps := snaps, counters := counters, records := records, owlOut := owlOut, pkgs := pkgs, launches := launches, saved := saved, gmsgs := gmsgs, nextKey := nextKey, domain := domain,
      lost := lost, decls := decls, partner := partner, clock := clock, cur := cur, agenda := agenda, turn := turn, free := free } := h

section Tabs

variable {cur : Nat} {mem : Tab Byte} {seals : Tab Nat} {groups : Tab Group}

theorem Tabs.put (h : Tabs z cur mem seals groups) (k : Nat) (g : Group) : Tabs z cur mem seals (groups.put k g) :=
  ⟨h.1, fun hz => ⟨(h.2 hz).1, (h.2 hz).2.1, Tab.rising_put (h.2 hz).2.2 k g⟩⟩

theorem Tabs.del (h : Tabs z cur mem seals groups) (k : Nat) : Tabs z cur mem seals (groups.del k) :=
  ⟨h.1, fun hz => ⟨(h.2 hz).1, (h.2 hz).2.1, Tab.rising_del (h.2 hz).2.2 k⟩⟩

theorem Tabs.map (h : Tabs z cur mem seals groups) {f : Nat × Group → Nat × Group} (hf : ∀ e, (f e).1 = e.1) :
    Tabs z cur mem seals (groups.map f) :=
  ⟨h.1, fun hz => ⟨(h.2 hz).1, (h.2 hz).2.1, Tab.rising_map (h.2 hz).2.2 hf⟩⟩

end Tabs

/-! ### Folds and outcomes -/

/-- A fold over something that holds a state. -/
theorem foldl_kept_of {α σ : Type} (st : σ → State) {f : σ → α → σ} (hf : ∀ p x, Kept z (st p) → Kept z (st (f p x))) (l : List α) {p : σ}
    (h : Kept z (st p)) : Kept z (st (l.foldl f p)) := by
  induction l generalizing p with
  | nil => exact h
  | cons x l ih => exact ih (hf p x h)

theorem foldl_kept {α : Type} {f : State → α → State} (hf : ∀ s x, Kept z s → Kept z (f s x)) (l : List α) (h : Kept z s) :
    Kept z (l.foldl f s) := foldl_kept_of id hf l h

/-- A fold that carries more than the state. -/
theorem foldl_pair_kept {α β : Type} {f : State × β → α → State × β} (hf : ∀ p x, Kept z p.1 → Kept z (f p x).1) (l : List α) {p : State × β}
    (h : Kept z p.1) : Kept z (l.foldl f p).1 := foldl_kept_of Prod.fst hf l h

theorem ResKept.ok {e : Eff} (h : Kept z e.s) : ResKept z (.ok e) := fun _ he => by cases he; exact h
theorem ResKept.trap (t : Trap) : ResKept z (.trap t) := fun _ he => nomatch he
theorem ResKept.hold (w : Wait) : ResKept z (.hold w) := fun _ he => nomatch he
theorem ResKept.ite {a b : Res Eff} {p : Prop} [Decidable p] (ha : ResKept z a) (hb : ResKept z b) : ResKept z (if p then a else b) := by
  split <;> assumption

theorem ite_kept {s t : State} {p : Prop} [Decidable p] (hs : Kept z s) (ht : Kept z t) : Kept z (if p then s else t) := by
  split <;> assumption

theorem ResKept.eff {e : Eff} (h : ResKept z (.ok e)) : Kept z e.s := h e rfl

theorem OutKept.next (h : Kept z s) : OutKept z (.next s) := fun _ he => by cases he; exact h
theorem OutKept.fault (e : Fault) : OutKept z (.fault e) := fun _ he => nomatch he
theorem OutKept.refused (r : Refusal) : OutKept z (.refused r) := fun _ he => nomatch he

end Sys2Proof.Machine
end

section
/-!
PROOFS. Translation, ports and cached lines keep the tables.
-/

namespace Sys2Proof.Machine

set_option Elab.async false

variable {z : State}

theorem State.putG_kept {s : State} (h : Kept z s) (g) : Kept z (s.putG g) := by
  unfold State.putG
  grind [Kept.tabs, Tabs.kept, Tabs.put]

theorem State.putCore_kept {s : State} (h : Kept z s) (k c) : Kept z (s.putCore k c) := h

theorem State.bump_kept {s : State} (h : Kept z s) (pkg b n by_) : Kept z (s.bump pkg b n by_) := h

theorem State.countCtn_kept {s : State} (h : Kept z s) (core lo len n) : Kept z (s.countCtn core lo len n) := by
  unfold State.countCtn
  grind [Kept.tabs, Tabs.kept, State.putCore_kept]

theorem State.celane_kept {s : State} (h : Kept z s) (core n) : Kept z (s.celane core n) := by
  unfold State.celane
  grind [State.countCtn_kept]

theorem State.ceother_kept {s : State} (h : Kept z s) (core n) : Kept z (s.ceother core n) := by
  unfold State.ceother
  grind [State.countCtn_kept]

theorem State.uecnt_kept {s : State} (h : Kept z s) (core n) : Kept z (s.uecnt core n) := by
  unfold State.uecnt
  grind [State.countCtn_kept]

theorem State.rollcnt_kept {s : State} (h : Kept z s) (core n) : Kept z (s.rollcnt core n) := by
  unfold State.rollcnt
  grind [State.countCtn_kept]

theorem State.esccnt_kept {s : State} (h : Kept z s) (core n) : Kept z (s.esccnt core n) := by
  unfold State.esccnt
  grind [State.countCtn_kept]

theorem State.mmcnt_kept {s : State} (h : Kept z s) (core n) : Kept z (s.mmcnt core n) := by
  unfold State.mmcnt
  grind [State.countCtn_kept]

theorem State.ctnLog_kept {s : State} (h : Kept z s) (core scope outcome slot file unit) : Kept z (s.ctnLog core scope outcome slot file
    unit) := by
  unfold State.ctnLog
  grind [Kept.tabs, Tabs.kept, State.putCore_kept]

theorem State.countFixed_kept {s : State} (h : Kept z s) (g g') : Kept z (s.countFixed g g') := by
  unfold State.countFixed
  grind [State.ceother_kept, State.celane_kept]

theorem strikeGroup_kept {s : State} (h : Kept z s) (gk scope roll) : Kept z (strikeGroup s gk scope roll) := by
  unfold strikeGroup
  grind [Kept.tabs, Tabs.kept, Tabs.put, State.esccnt_kept, State.rollcnt_kept]

theorem eccConsume_kept {s : State} (h : Kept z s) (g unit) : Kept z (eccConsume s g unit).1 := by
  unfold eccConsume
  grind [Kept.tabs, Tabs.kept, State.ctnLog_kept, State.uecnt_kept, State.rollcnt_kept, State.esccnt_kept]

theorem applyEff_kept (c closes e) (he : Kept z e.s) : Kept z (applyEff c closes e) := by
  unfold applyEff
  grind [Kept.tabs, Tabs.kept, State.putG_kept]

theorem issueG_kept {s : State} (h : Kept z s) (ck sh o body g) (hbody : ∀ s g, Kept z s → ResKept z (body s g)) :
    Kept z (issueG ck sh o body s g) := by
  have hput : ∀ g, Kept z (s.putG g) := fun g => State.putG_kept h g
  unfold issueG
  split
  · split
    · exact hput _
    · refine ite_kept (hput _) (ite_kept (hput _) (ite_kept (hput _) (ite_kept (hput _) (ite_kept (hput _) (ite_kept (hput _)
        (ite_kept (hput _) (ite_kept ?_ (ite_kept (hput _) (ite_kept (hput _) (ite_kept (hput _) ?_))))))))))
      · exact State.putG_kept (eccConsume_kept h g _) _
      · have hb := hbody _ { g with ecc := g.ecc.filter (fun e => !(g.badUnits (ck.readsAll sh o s g) false).contains e.1) }
          (State.countFixed_kept h g { g with ecc := g.ecc.filter (fun e => !(g.badUnits (ck.readsAll sh o s g) false).contains e.1) })
        dsimp only
        split
        · exact State.putG_kept (State.countFixed_kept h _ _) _
        · exact State.putG_kept (State.countFixed_kept h _ _) _
        next e he =>
          rw [he] at hb
          exact applyEff_kept _ _ _ hb.eff
  · exact h

theorem issueC_kept {s : State} (h : Kept z s) (ck sh o body) (hbody : ∀ s x1, Kept z s → ResKept z (body s x1)) : OutKept z (issueC ck sh
    o body s) := by
  unfold issueC
  grind [Kept.tabs, Tabs.kept, ResKept.ok, ResKept.trap, ResKept.hold, OutKept.next, OutKept.fault, trapOf, issueG_kept]

theorem issue_kept {s : State} (h : Kept z s) (sh o body) (hbody : ∀ s x1, Kept z s → ResKept z (body s x1)) : OutKept z (issue sh o body
    s) := by
  unfold issue
  grind [ResKept.ok, ResKept.trap, ResKept.hold, OutKept.next, OutKept.fault, trapOf, issueC_kept]

theorem okOuts_kept {s : State} (h : Kept z s) (g outs) : ResKept z (okOuts s g outs) := by
  unfold okOuts
  grind [Kept.tabs, Tabs.kept, ResKept.ok, ResKept.trap, ResKept.hold, OutKept.next, OutKept.fault, trapOf]

theorem okJump_kept {s : State} (h : Kept z s) (g target) : ResKept z (okJump s g target) := by
  unfold okJump
  grind [Kept.tabs, Tabs.kept, ResKept.ok, ResKept.trap, ResKept.hold, OutKept.next, OutKept.fault, trapOf]

theorem shadowHit_kept {s : State} (h : Kept z s) (g diff addr) : ResKept z (shadowHit s g diff addr) := by
  unfold shadowHit
  grind [Kept.tabs, Tabs.kept, ResKept.ok, ResKept.trap, ResKept.hold, OutKept.next, OutKept.fault, trapOf, State.mmcnt_kept]

theorem State.putDie_kept {s : State} (h : Kept z s) (k d) : Kept z (s.putDie k d) := h

theorem State.putCluster_kept {s : State} (h : Kept z s) (k c) : Kept z (s.putCluster k c) := h

theorem State.putAsid_kept {s : State} (h : Kept z s) (pkg a e) : Kept z (s.putAsid pkg a e) := h

theorem State.putCohort_kept {s : State} (h : Kept z s) (k c) : Kept z (s.putCohort k c) := by
  unfold State.putCohort
  grind [Kept.tabs, Tabs.kept]

theorem State.putPkg_kept {s : State} (h : Kept z s) (p x) : Kept z (s.putPkg p x) := h

theorem State.rawPut_kept {s : State} (h : Kept z s) (a b) : Kept z (s.rawPut a b) :=
  ⟨h.1, fun hz => ⟨State.memWf_rawPut (h.2 hz).1 a b, (h.2 hz).2⟩⟩

theorem State.reseal_kept {s : State} (h : Kept z s) (kid line) : Kept z (s.reseal kid line) := by
  obtain ⟨hcur, hgroups⟩ : (s.reseal kid line).cur = s.cur ∧ (s.reseal kid line).groups = s.groups :=
    ⟨reseal_keeps State.cur (fun _ _ _ => rfl) s kid line, reseal_keeps State.groups (fun _ _ _ => rfl) s kid line⟩
  exact ⟨hcur.trans h.1, fun hz => ⟨State.memWf_reseal (h.2 hz).1 kid line, State.rising_seals_reseal (h.2 hz).2.1 kid line, by
    rw [hgroups]
    exact (h.2 hz).2.2⟩⟩

theorem State.wrB_kept {s : State} (h : Kept z s) (kid a b) : Kept z (s.wrB kid a b) := by
  unfold State.wrB
  grind [State.rawPut_kept, State.reseal_kept]

theorem State.wr64_kept {s : State} (h : Kept z s) (kid a d) : Kept z (s.wr64 kid a d) := by
  unfold State.wr64
  grind [foldl_kept, State.wrB_kept]

theorem touchMsc_kept {s : State} (h : Kept z s) (line hint write) : Kept z (touchMsc s line hint write) := by
  unfold touchMsc
  grind [Kept.tabs, Tabs.kept, State.bump_kept, State.putDie_kept]

theorem mscWrite_kept {s : State} (h : Kept z s) (line hint) : Kept z (mscWrite s line hint) := by
  unfold mscWrite
  grind [State.bump_kept, State.putDie_kept, touchMsc_kept]

theorem leafAt_kept {s : State} (h : Kept z s) (dk asid back va) : Kept z (leafAt s dk asid back va).1 := by
  unfold leafAt
  grind [foldl_kept, foldl_pair_kept, State.putDie_kept, touchMsc_kept]

theorem setAD_kept {s : State} (h : Kept z s) (dk r e) : Kept z (setAD s dk r e).1 := by
  unfold setAD
  grind [Kept.tabs, Tabs.kept, State.wr64_kept, State.putDie_kept]

theorem xlLeaf_kept {s : State} (h : Kept z s) (dk r e) : Kept z (xlLeaf s dk r e).1 := by
  unfold xlLeaf
  grind [setAD_kept]

theorem xlate_kept {s : State} (h : Kept z s) (r) : Kept z (xlate s r).1 := by
  unfold xlate
  grind [leafAt_kept, xlLeaf_kept]

theorem sendFaultMsi_kept {s : State} (h : Kept z s) (dk) : Kept z (sendFaultMsi s dk) := by
  unfold sendFaultMsi
  grind [Kept.tabs, Tabs.kept]

theorem recordFault_kept {s : State} (h : Kept z s) (dk r) : Kept z (recordFault s dk r).1 := by
  unfold recordFault
  grind [Kept.tabs, Tabs.kept, State.putDie_kept, sendFaultMsi_kept]

theorem State.refuse_kept {s : State} (h : Kept z s) (w hint) : Kept z (s.refuse w hint) := by
  unfold State.refuse
  grind [Kept.tabs, Tabs.kept]

theorem holdFault_kept {s : State} (h : Kept z s) (dk r w) : Kept z (holdFault s dk r w) := by
  unfold holdFault
  grind [Kept.tabs, Tabs.kept, recordFault_kept, State.putDie_kept, State.refuse_kept]

theorem uncount_kept {s : State} (h : Kept z s) (pkg old) : Kept z (uncount s pkg old) := by
  unfold uncount
  grind [Kept.tabs, Tabs.kept]

theorem specDrop_kept {s : State} (h : Kept z s) (dk) : Kept z (specDrop s dk) := by
  unfold specDrop
  grind [Kept.tabs, Tabs.kept, State.putDie_kept]

theorem State.putPort_kept {s : State} (h : Kept z s) (pkg p x) : Kept z (s.putPort pkg p x) := h

theorem transmit_kept {s : State} (h : Kept z s) (p q vc n) : Kept z (transmit s p q vc n) := by
  unfold transmit
  grind [State.putPort_kept]

theorem portSend_kept {s : State} (h : Kept z s) (pkg p) : Kept z (portSend s pkg p) := by
  unfold portSend
  grind [Kept.tabs, Tabs.kept, State.bump_kept, State.putPort_kept]

theorem sendAll_kept {s : State} (h : Kept z s) : Kept z (sendAll s) := by
  unfold sendAll
  grind [Kept.tabs, Tabs.kept, foldl_kept, portSend_kept]

theorem storeMask_kept {s : State} (h : Kept z s) (phys leaf data mask) : Kept z (storeMask s phys leaf data mask) := by
  unfold storeMask
  grind [foldl_kept, State.wrB_kept]

theorem stashOut_kept {s : State} (h : Kept z s) (core idx) : Kept z (stashOut s core idx) := by
  unfold stashOut
  grind [Kept.tabs, Tabs.kept, foldl_kept, State.putCore_kept, State.putCluster_kept, mscWrite_kept, storeMask_kept]

theorem lineOut_kept {s : State} (h : Kept z s) (cl tag) : Kept z (lineOut s cl tag) := by
  unfold lineOut
  grind [Kept.tabs, Tabs.kept, mscWrite_kept, storeMask_kept, State.putCluster_kept]

theorem wbAll_kept {s : State} (h : Kept z s) (cl l) : Kept z (wbAll s cl l) := by
  unfold wbAll
  grind [foldl_kept, stashOut_kept, lineOut_kept]

theorem wbBefore_kept {s : State} (h : Kept z s) (cl line by_) : Kept z (wbBefore s cl line by_) := by
  unfold wbBefore
  grind [Kept.tabs, Tabs.kept, wbAll_kept]

theorem wbLine_kept {s : State} (h : Kept z s) (cl tag) : Kept z (wbLine s cl tag) := by
  unfold wbLine
  grind [Kept.tabs, Tabs.kept, wbAll_kept]

theorem stashWb_kept {s : State} (h : Kept z s) (core idx) : Kept z (stashWb s core idx) := by
  unfold stashWb
  grind [Kept.tabs, Tabs.kept, stashOut_kept, wbAll_kept]

theorem stashDrop_kept {s : State} (h : Kept z s) (core idx) : Kept z (stashDrop s core idx) := by
  unfold stashDrop
  grind [Kept.tabs, Tabs.kept, stashWb_kept, State.putCore_kept]

theorem stashEvent_kept {s : State} (h : Kept z s) (cl p drop) : Kept z (stashEvent s cl p drop) := by
  unfold stashEvent
  grind [foldl_kept, stashDrop_kept, stashWb_kept]

theorem dropLine_kept {s : State} (h : Kept z s) (cl tag) : Kept z (dropLine s cl tag) := by
  unfold dropLine
  grind [Kept.tabs, Tabs.kept, foldl_kept, wbLine_kept, State.putCluster_kept, State.putCore_kept]

theorem loseResv_kept {s : State} (h : Kept z s) (line lost) : Kept z (loseResv s line lost) := by
  unfold loseResv
  grind [Kept.tabs, Tabs.kept, Tabs.map]

theorem writeResv_kept {s : State} (h : Kept z s) (line by_) : Kept z (writeResv s line by_) := by
  unfold writeResv
  grind [loseResv_kept]

theorem State.putHome_kept {s : State} (h : Kept z s) (line h') : Kept z (s.putHome line h') := h

theorem State.putTok_kept {s : State} (h : Kept z s) (cl line t) : Kept z (s.putTok cl line t) := by
  unfold State.putTok
  grind [Kept.tabs, Tabs.kept, State.putCluster_kept]

theorem dirSet_kept {s : State} (h : Kept z s) (cl line) : Kept z (dirSet s cl line) := by
  unfold dirSet
  grind [Kept.tabs, Tabs.kept, State.putDie_kept]

theorem dirClear_kept {s : State} (h : Kept z s) (cl line) : Kept z (dirClear s cl line) := by
  unfold dirClear
  grind [Kept.tabs, Tabs.kept, State.putDie_kept]

theorem sendTok_kept {s : State} (h : Kept z s) (line dest t) : Kept z (sendTok s line dest t) := by
  unfold sendTok
  grind [Kept.tabs, Tabs.kept]

theorem vecClear_kept {s : State} (h : Kept z s) (pkg line) : Kept z (vecClear s pkg line) := by
  unfold vecClear
  grind [Kept.tabs, Tabs.kept, State.putHome_kept]

theorem giveHome_kept {s : State} (h : Kept z s) (line t) : Kept z (giveHome s line t) := by
  unfold giveHome
  grind [Kept.tabs, Tabs.kept, State.putHome_kept]

theorem surrender_kept {s : State} (h : Kept z s) (cl line) : Kept z (surrender s cl line).1 := by
  unfold surrender
  grind [foldl_kept, foldl_pair_kept, stashEvent_kept, dropLine_kept, loseResv_kept, dirClear_kept, State.putTok_kept]

theorem dirRoom_kept {s : State} (h : Kept z s) (cl line) : Kept z (dirRoom s cl line) := by
  unfold dirRoom
  grind [Kept.tabs, Tabs.kept, foldl_kept, surrender_kept, vecClear_kept, giveHome_kept, State.putDie_kept]

theorem giveCluster_kept {s : State} (h : Kept z s) (cl line t) : Kept z (giveCluster s cl line t) := by
  unfold giveCluster
  grind [Kept.tabs, Tabs.kept, dirRoom_kept, dirSet_kept, State.putTok_kept, State.putHome_kept]

theorem evictLine_kept {s : State} (h : Kept z s) (cl tag) : Kept z (evictLine s cl tag) := by
  unfold evictLine
  grind [surrender_kept, vecClear_kept, transmit_kept, sendTok_kept, dropLine_kept, stashEvent_kept]

theorem fillLine_kept {s : State} (h : Kept z s) (cl tag hint line) : Kept z (fillLine s cl tag hint line) := by
  unfold fillLine
  grind [Kept.tabs, Tabs.kept, evictLine_kept, State.putCluster_kept]

theorem deliverTok_kept {s : State} (h : Kept z s) (m) : Kept z (deliverTok s m) := by
  unfold deliverTok
  grind [giveCluster_kept, giveHome_kept]

theorem settle_kept {s : State} (h : Kept z s) (line) : Kept z (settle s line) := by
  unfold settle
  grind [Kept.tabs, Tabs.kept, foldl_kept, deliverTok_kept]

theorem answerRead_kept {s : State} (h : Kept z s) (line) : Kept z (answerRead s line).1 := by
  unfold answerRead
  grind [State.putHome_kept, surrender_kept, stashEvent_kept, loseResv_kept, State.putTok_kept]

theorem answerWrite_kept {s : State} (h : Kept z s) (cl line) : Kept z (answerWrite s cl line).1 := by
  unfold answerWrite
  grind [Kept.tabs, Tabs.kept, foldl_kept, foldl_pair_kept, State.putHome_kept, surrender_kept, transmit_kept, vecClear_kept]

end Sys2Proof.Machine
end

section
/-!
PROOFS. Accesses of the memory path keep the tables: checks, caches, scratchpad, stash, races, conditions.
-/

namespace Sys2Proof.Machine

set_option Elab.async false

variable {z : State}

theorem censusLine_kept {s : State} (h : Kept z s) (line) : Kept z (censusLine s line) := by
  unfold censusLine
  grind [Kept.tabs, Tabs.kept, foldl_kept, settle_kept, surrender_kept, State.putHome_kept]

theorem satisfy_kept {s : State} (h : Kept z s) (a) : Kept z (satisfy s a) := by
  unfold satisfy
  grind [Kept.tabs, Tabs.kept, answerWrite_kept, giveCluster_kept, answerRead_kept]

theorem quiet_kept {s : State} (h : Kept z s) (line) : Kept z (quiet s line) := by
  unfold quiet
  grind [foldl_kept, settle_kept, censusLine_kept, satisfy_kept]

theorem obtainRead_kept {s : State} (h : Kept z s) (cl line) : Kept z (obtainRead s cl line) := by
  unfold obtainRead
  grind [foldl_kept, quiet_kept, transmit_kept, State.bump_kept, answerRead_kept, giveCluster_kept, vecClear_kept]

theorem obtainWrite_kept {s : State} (h : Kept z s) (cl line) : Kept z (obtainWrite s cl line) := by
  have hgive : ∀ p : State × Tok, Kept z p.1 → Kept z (transmit (giveCluster p.1 cl line p.2) (homePkgOf line) (pkgOfCluster cl) vcCrsp 128) :=
    fun p hp => transmit_kept (giveCluster_kept hp _ _ _) _ _ _ _
  have hput : ∀ s, Kept z s → Kept z ((s.putTok cl line { s.tok cl line with dirty := true }).putHome line { s.home line with dirty := true }) :=
    fun s hs => State.putHome_kept (State.putTok_kept hs _ _ _) _ _
  have hask := hgive _ (answerWrite_kept (transmit_kept (State.bump_kept (quiet_kept h line) (homePkgOf line) 431 0 1) (pkgOfCluster cl)
    (homePkgOf line) vcCreq 0) (some cl) line)
  unfold obtainWrite
  grind

theorem gatherHome_kept {s : State} (h : Kept z s) (line) : Kept z (gatherHome s line) := by
  unfold gatherHome
  grind [quiet_kept, answerWrite_kept, giveHome_kept]

theorem removeLines_kept {s : State} (h : Kept z s) (inPkg p) : Kept z (removeLines s inPkg p) := by
  unfold removeLines
  grind [foldl_kept, stashDrop_kept, surrender_kept, vecClear_kept, giveHome_kept, dropLine_kept]

theorem invSpan_kept {s : State} (h : Kept z s) (pkg asid va size) : Kept z (invSpan s pkg asid va size) := by
  unfold invSpan
  grind [foldl_kept, removeLines_kept, State.putDie_kept]

theorem dropICache_kept {s : State} (h : Kept z s) (lo size) : Kept z (dropICache s lo size) := by
  unfold dropICache
  grind [Kept.tabs, Tabs.kept]

theorem setClass_kept {s : State} (h : Kept z s) (va e cls owner) : Kept z (setClass s va e cls owner) := by
  unfold setClass
  grind [Kept.tabs, Tabs.kept, foldl_kept, settle_kept, removeLines_kept, dropICache_kept, State.wr64_kept, State.putDie_kept]

theorem State.putGrp_kept {s : State} (h : Kept z s) (k g) : Kept z (s.putGrp k g) := by
  unfold State.putGrp
  grind [Kept.tabs, Tabs.kept, Tabs.put]

theorem findLine_kept {s : State} (h : Kept z s) (core r hint) : Kept z (findLine s core r hint).1 := by
  unfold findLine
  grind [Kept.tabs, Tabs.kept, xlate_kept, State.putCluster_kept, fillLine_kept, touchMsc_kept]

theorem claim_kept {s : State} (h : Kept z s) (cl line r leaf) : Kept z (claim s cl line r leaf) := by
  unfold claim
  grind [Kept.tabs, Tabs.kept, obtainWrite_kept, obtainRead_kept]

theorem openLine_kept {s : State} (h : Kept z s) (core r hint) : Kept z (openLine s core r hint).1 := by
  unfold openLine
  have hfind := findLine_kept h core r hint
  dsimp only
  split
  next s1 x he => rw [he] at hfind; exact hfind
  next s1 tag he =>
    rw [he] at hfind
    split
    · exact hfind
    · split
      · exact hfind
      · split
        · exact hfind
        · split
          · have hleaf := leafAt_kept hfind (transDie r.va) 0 false r.va
            grind [findLine_kept, setClass_kept, obtainWrite_kept]
          · exact claim_kept hfind _ _ _ _

theorem touchCaches_kept {s : State} (h : Kept z s) (core tag hint load) : Kept z (touchCaches s core tag hint load) := by
  unfold touchCaches
  grind [State.putCluster_kept, State.putCore_kept]

theorem dropOtherL1_kept {s : State} (h : Kept z s) (core tag) : Kept z (dropOtherL1 s core tag) := by
  unfold dropOtherL1
  grind [Kept.tabs, Tabs.kept, foldl_kept, State.putCore_kept]

theorem lineWrite_kept {s : State} (h : Kept z s) (core tag off bs by_) : Kept z (lineWrite s core tag off bs by_) := by
  unfold lineWrite
  grind [Kept.tabs, Tabs.kept, foldl_kept, dropOtherL1_kept, State.putCluster_kept, writeResv_kept, State.wrB_kept]

theorem pieceRead_kept {s : State} (h : Kept z s) (core r hint n) : Kept z (pieceRead s core r hint n).1 := by
  unfold pieceRead
  grind [openLine_kept, stashEvent_kept, touchCaches_kept]

theorem readGlobal_kept {s : State} (h : Kept z s) (core r hint n) : Kept z (readGlobal s core r hint n).1 := by
  unfold readGlobal
  grind [Kept.tabs, Tabs.kept, foldl_kept, foldl_pair_kept, pieceRead_kept]

theorem openAll_kept {s : State} (h : Kept z s) (core r hint n) : Kept z (openAll s core r hint n).1 := by
  unfold openAll
  grind [Kept.tabs, Tabs.kept, foldl_kept, foldl_pair_kept, openLine_kept]

theorem ticketWorld_kept {s : State} (h : Kept z s) (r n) : Kept z (ticketWorld s r n) := by
  unfold ticketWorld
  grind [Kept.tabs, Tabs.kept, foldl_kept, State.putPkg_kept]

theorem writeGlobal_kept {s : State} (h : Kept z s) (core r hint bs by_) : Kept z (writeGlobal s core r hint bs by_).1 := by
  unfold writeGlobal
  have hopen := openAll_kept h core { r with write := true } hint bs.length
  dsimp only
  split
  next s1 x he => rw [he] at hopen; exact hopen
  next s1 u he =>
    rw [he] at hopen
    split
    · exact hopen
    · refine foldl_pair_kept (fun p c hp => ?_) _ (ticketWorld_kept hopen _ _)
      grind [openLine_kept, stashEvent_kept, touchCaches_kept, lineWrite_kept]

theorem pocLine_kept {s : State} (h : Kept z s) (line write) : Kept z (pocLine s line write) := by
  unfold pocLine
  grind [foldl_kept, stashEvent_kept, gatherHome_kept, dropLine_kept, writeResv_kept]

theorem physWrite_kept {s : State} (h : Kept z s) (pa leaf bs) : Kept z (physWrite s pa leaf bs) := by
  unfold physWrite
  grind [foldl_kept, State.wrB_kept]

theorem pocOpen_kept {s : State} (h : Kept z s) (r) : Kept z (pocOpen s r).1 := by
  unfold pocOpen
  grind [xlate_kept, pocLine_kept, setClass_kept, State.bump_kept]

theorem pocRead_kept {s : State} (h : Kept z s) (r n) : Kept z (pocRead s r n).1 := by
  unfold pocRead
  grind [Kept.tabs, Tabs.kept, foldl_kept, foldl_pair_kept, pocOpen_kept, touchMsc_kept]

theorem pocOpenAll_kept {s : State} (h : Kept z s) (r n) : Kept z (pocOpenAll s r n).1 := by
  unfold pocOpenAll
  grind [Kept.tabs, Tabs.kept, foldl_kept, foldl_pair_kept, pocOpen_kept]

theorem pocWrite_kept {s : State} (h : Kept z s) (r bs hint) : Kept z (pocWrite s r bs hint).1 := by
  unfold pocWrite
  grind [Kept.tabs, Tabs.kept, foldl_kept, foldl_pair_kept, pocOpenAll_kept, ticketWorld_kept, pocOpen_kept, mscWrite_kept, physWrite_kept]

theorem joinCore_kept {s : State} (h : Kept z s) (core line) : Kept z (joinCore s core line) := by
  unfold joinCore
  grind [Kept.tabs, Tabs.kept, State.putCore_kept]

theorem scrWrite_kept {s : State} (h : Kept z s) (g sp o bs) : Kept z (scrWrite s g sp o bs) := by
  unfold scrWrite
  grind [Kept.tabs, Tabs.kept, foldl_kept, joinCore_kept, State.putCohort_kept]

theorem clearPriv_kept {s : State} (h : Kept z s) (gk r line) : Kept z (clearPriv s gk r line).1 := by
  unfold clearPriv
  grind [Kept.tabs, Tabs.kept, State.putGrp_kept, pocWrite_kept]

theorem eachAcc_kept {α β : Type} {s : State} (h : Kept z s) {f : State → α → State × Acc β} (hf : ∀ s x, Kept z s → Kept z (f s x).1)
    (l : List α) : Kept z (eachAcc f l s).1 := by
  unfold eachAcc
  exact foldl_pair_kept (fun p a hp => by grind) l h

theorem privReady_kept {s : State} (h : Kept z s) (gk r l o n) : Kept z (privReady s gk r l o n).1 :=
  eachAcc_kept h (fun _ _ hs => clearPriv_kept hs _ _ _) _

theorem privRead_kept {s : State} (h : Kept z s) (gk r l o hint n) : Kept z (privRead s gk r l o hint n).1 := by
  have heach : ∀ s, Kept z s → Kept z (eachAcc (fun s p => readGlobal s (s.grp gk).core (privReq s gk r p.1) hint p.2) (privPartsOf l o n) s).1 :=
    fun s hs => eachAcc_kept hs (fun _ _ ht => readGlobal_kept ht _ _ _ _) _
  unfold privRead
  grind [privReady_kept]

theorem privWrite_kept {s : State} (h : Kept z s) (gk r l o hint bs by_) : Kept z (privWrite s gk r l o hint bs by_).1 := by
  unfold privWrite
  have hready := privReady_kept h gk r l o bs.length
  dsimp only
  split
  next s1 x he => rw [he] at hready; exact hready
  next s1 u he =>
    rw [he] at hready
    have hopen := eachAcc_kept hready (f := fun s p => openAll s (s.grp gk).core { privReq s gk r p.1 with write := true } hint p.2)
      (fun _ _ ht => openAll_kept ht _ _ _ _) (privPartsOf l o bs.length)
    split
    next s2 x he => rw [he] at hopen; exact hopen
    next s2 u he =>
      rw [he] at hopen
      refine foldl_pair_kept (fun p q hq => ?_) _ (p := (s2, bs)) ?_
      · exact writeGlobal_kept hq _ _ _ _ _
      · exact hopen

theorem stashOpen_kept {s : State} (h : Kept z s) (gk r hint o) : Kept z (stashOpen s gk r hint o).1 := by
  unfold stashOpen
  extract_lets g filled
  split
  · exact h
  next b _ =>
    extract_lets q need
    have hopen := openLine_kept h g.core q hint
    clear_value need
    split
    · split
      next s1 x he => rw [he] at hopen; exact hopen
      next s1 tag he =>
        rw [he] at hopen
        grind [State.putCluster_kept, stashEvent_kept, State.putCore_kept]
    · exact h

theorem stashPut_kept {s : State} (h : Kept z s) (core o bs by_) : Kept z (stashPut s core o bs by_) := by
  unfold stashPut
  grind [Kept.tabs, Tabs.kept, foldl_kept, joinCore_kept, State.putCore_kept, writeResv_kept]

theorem stashOpenAll_kept {s : State} (h : Kept z s) (gk r hint o n) : Kept z (stashOpenAll s gk r hint o n).1 :=
  eachAcc_kept h (fun _ _ hs => stashOpen_kept hs _ _ _ _) _

theorem laneRead_kept {s : State} (h : Kept z s) (gk r lane hint n) : Kept z (laneRead s gk r lane hint n).1 := by
  unfold laneRead
  grind [readGlobal_kept, privRead_kept, stashOpenAll_kept]

theorem laneWrite_kept {s : State} (h : Kept z s) (gk seq r lane hint bs) : Kept z (laneWrite s gk seq r lane hint bs).1 := by
  unfold laneWrite
  grind [Kept.tabs, Tabs.kept, writeGlobal_kept, privWrite_kept, stashOpenAll_kept, stashPut_kept, scrWrite_kept]

theorem memSide_kept {s : State} (h : Kept z s) (core r hint n after f) : Kept z (memSide s core r hint n after f).1 := by
  unfold memSide
  have hx := xlate_kept (dropLine_kept (stashEvent_kept h (clusterOf core) (fun e => e.tag == reqTag s r) true) (clusterOf core) (reqTag s r)) r
  dsimp only
  split
  next s1 pa e he =>
    rw [he] at hx
    have hb : ∀ b : By, Kept z (wbBefore s1 (clusterOf core) (pa / 128) { grp := b.grp, lane := b.lane, first := b.seq, last := b.seq }) :=
      fun b => wbBefore_kept hx _ _ _
    grind [State.bump_kept, physWrite_kept, mscWrite_kept]
  next s1 x _ he => rw [he] at hx; exact hx

theorem laneAtomic_kept {s : State} (h : Kept z s) (gk seq r lane hint n f) : Kept z (laneAtomic s gk seq r lane hint n f).1 := by
  unfold laneAtomic
  grind [Kept.tabs, Tabs.kept, memSide_kept, laneRead_kept, laneWrite_kept]

theorem plRelease_kept {s : State} (h : Kept z s) (core) : Kept z (plRelease s core) := by
  unfold plRelease
  grind [Kept.tabs, Tabs.kept, Tabs.map, State.putCore_kept, State.putPkg_kept]

theorem State.noteStore_kept {s : State} (h : Kept z s) (gk seq own places old) : Kept z (s.noteStore gk seq own places old) := by
  unfold State.noteStore
  grind [Kept.tabs, Tabs.kept, Tabs.put, Tabs.map]

theorem State.noteLanded_kept {s : State} (h : Kept z s) (gk who places) : Kept z (s.noteLanded gk who places) := by
  unfold State.noteLanded
  grind [Kept.tabs, Tabs.kept, foldl_kept, foldl_pair_kept, Tabs.put]

theorem State.settleTile_kept {s : State} (h : Kept z s) (gk num) : Kept z (s.settleTile gk num) := by
  unfold State.settleTile
  grind [Kept.tabs, Tabs.kept, Tabs.put]

theorem ownWrite_kept {s : State} (h : Kept z s) (gk seq r lane hint bs) : Kept z (ownWrite s gk seq r lane hint bs).1 := by
  unfold ownWrite
  grind [Kept.tabs, Tabs.kept, laneWrite_kept, laneRead_kept, State.noteStore_kept]

theorem ownAtomic_kept {s : State} (gk seq lane va n f step) (hstep : ∀ f, Kept z (step f).1) :
    Kept z (ownAtomic s gk seq lane va n f step).1 := by
  unfold ownAtomic
  have h := hstep (fun old => eitherBytes ((s.grp gk).landedBy (fun _ => true)) s.free 0 (placesOf s gk lane va n) old (f old))
  split
  · exact hstep f
  · dsimp only
    split
    next t old he => rw [he] at h; exact State.noteStore_kept h _ _ _ _ _
    · exact h

theorem drainQueues_kept {s : State} (h : Kept z s) : Kept z (drainQueues s) := by
  unfold drainQueues
  grind [Kept.tabs, Tabs.kept]

end Sys2Proof.Machine
end

section
/-!
PROOFS. Uniform, lane and memory operations keep the tables, and so do the owl line and the power arbiter.
-/

namespace Sys2Proof.Machine

set_option Elab.async false

variable {z : State}

theorem okFp_kept {s : State} (h : Kept z s) (g raised k) (hk : ∀ x0, Kept z (k x0).s) : ResKept z (okFp s g raised k) := by
  unfold okFp
  grind [Kept.tabs, Tabs.kept, ResKept.ok, ResKept.trap, ResKept.hold, OutKept.next, OutKept.fault, trapOf]

theorem uni32_kept {s : State} (h : Kept z s) (f ck sh o) : OutKept z (uni32 f ck sh o s) := by
  unfold uni32
  grind [ResKept.ok, ResKept.trap, ResKept.hold, OutKept.next, OutKept.fault, trapOf, issueC_kept, okOuts_kept]

theorem uni64_kept {s : State} (h : Kept z s) (f ck sh o) : OutKept z (uni64 f ck sh o s) := by
  unfold uni64
  grind [ResKept.ok, ResKept.trap, ResKept.hold, OutKept.next, OutKept.fault, trapOf, issueC_kept, okOuts_kept]

theorem uniK_kept {s : State} (h : Kept z s) (f ck sh o) : OutKept z (uniK f ck sh o s) := by
  unfold uniK
  grind [ResKept.ok, ResKept.trap, ResKept.hold, OutKept.next, OutKept.fault, trapOf, issueC_kept, okOuts_kept]

theorem uniCmp_kept {s : State} (h : Kept z s) (f ck sh o) : OutKept z (uniCmp f ck sh o s) := by
  unfold uniCmp
  grind [ResKept.ok, ResKept.trap, ResKept.hold, OutKept.next, OutKept.fault, trapOf, issueC_kept, okOuts_kept]

theorem uniMov_kept {s : State} (h : Kept z s) (ck sh o) : OutKept z (uniMov ck sh o s) := by
  unfold uniMov
  grind [ResKept.ok, ResKept.trap, ResKept.hold, OutKept.next, OutKept.fault, trapOf, issueC_kept, okOuts_kept]

theorem uniLea_kept {s : State} (h : Kept z s) (signed ck sh o) : OutKept z (uniLea signed ck sh o s) := by
  unfold uniLea
  grind [ResKept.ok, ResKept.trap, ResKept.hold, OutKept.next, OutKept.fault, trapOf, issueC_kept, okOuts_kept]

theorem umovFirst_kept {s : State} (h : Kept z s) (ck sh o) : OutKept z (umovFirst ck sh o s) := by
  unfold umovFirst
  grind [ResKept.ok, ResKept.trap, ResKept.hold, OutKept.next, OutKept.fault, trapOf, issueC_kept, okOuts_kept, shadowHit_kept]

theorem laneG_kept {s : State} (h : Kept z s) (f ck sh o) : OutKept z (laneG f ck sh o s) := by
  unfold laneG
  grind [ResKept.ok, ResKept.trap, ResKept.hold, OutKept.next, OutKept.fault, trapOf, issueC_kept, okOuts_kept]

theorem lane1_kept {s : State} (h : Kept z s) (f ck sh o) : OutKept z (lane1 f ck sh o s) := by
  unfold lane1
  grind [ResKept.ok, ResKept.trap, ResKept.hold, OutKept.next, OutKept.fault, trapOf, laneG_kept]

theorem laneA_kept {s : State} (h : Kept z s) (f ck sh o) : OutKept z (laneA f ck sh o s) := by
  unfold laneA
  grind [ResKept.ok, ResKept.trap, ResKept.hold, OutKept.next, OutKept.fault, trapOf, laneG_kept]

theorem lane2_kept {s : State} (h : Kept z s) (f ck sh o) : OutKept z (lane2 f ck sh o s) := by
  unfold lane2
  grind [ResKept.ok, ResKept.trap, ResKept.hold, OutKept.next, OutKept.fault, trapOf, laneG_kept]

theorem laneWide_kept {s : State} (h : Kept z s) (f ck sh o) : OutKept z (laneWide f ck sh o s) := by
  unfold laneWide
  grind [ResKept.ok, ResKept.trap, ResKept.hold, OutKept.next, OutKept.fault, trapOf, laneG_kept]

theorem lanePW_kept {s : State} (h : Kept z s) (f ck sh o) : OutKept z (lanePW f ck sh o s) := by
  unfold lanePW
  grind [ResKept.ok, ResKept.trap, ResKept.hold, OutKept.next, OutKept.fault, trapOf, laneG_kept]

theorem laneQ_kept {s : State} (h : Kept z s) (f ck sh o) : OutKept z (laneQ f ck sh o s) := by
  unfold laneQ
  grind [ResKept.ok, ResKept.trap, ResKept.hold, OutKept.next, OutKept.fault, trapOf, issueC_kept, okOuts_kept]

theorem movx_kept {s : State} (h : Kept z s) (st ck sh o) : OutKept z (movx st ck sh o s) := by
  unfold movx
  grind [Kept.tabs, Tabs.kept, ResKept.ok, ResKept.trap, ResKept.hold, OutKept.next, OutKept.fault, trapOf, issueC_kept, okOuts_kept]

theorem xset_kept {s : State} (h : Kept z s) (add ck sh o) : OutKept z (xset add ck sh o s) := by
  unfold xset
  grind [foldl_kept, ResKept.ok, ResKept.trap, ResKept.hold, OutKept.next, OutKept.fault, trapOf, issueC_kept, okOuts_kept]

theorem shfl_kept {s : State} (h : Kept z s) (kind ck sh o) : OutKept z (shfl kind ck sh o s) := by
  unfold shfl
  grind [Kept.tabs, Tabs.kept, ResKept.ok, ResKept.trap, ResKept.hold, OutKept.next, OutKept.fault, trapOf, laneG_kept]

theorem laneF_kept {s : State} (h : Kept z s) (f ck sh o) : OutKept z (laneF f ck sh o s) := by
  unfold laneF
  grind [Kept.tabs, Tabs.kept, ResKept.ok, ResKept.trap, ResKept.hold, OutKept.next, OutKept.fault, trapOf, issueC_kept, okFp_kept]

theorem laneE_kept {s : State} (h : Kept z s) (fmt f ck sh o) : OutKept z (laneE fmt f ck sh o s) := by
  unfold laneE
  grind [ResKept.ok, ResKept.trap, ResKept.hold, OutKept.next, OutKept.fault, trapOf, laneF_kept]

theorem laneFcmp_kept {s : State} (h : Kept z s) (cc fmt ck sh o) : OutKept z (laneFcmp cc fmt ck sh o s) := by
  unfold laneFcmp
  grind [Kept.tabs, Tabs.kept, ResKept.ok, ResKept.trap, ResKept.hold, OutKept.next, OutKept.fault, trapOf, issueC_kept, okFp_kept]

theorem laneCvt_kept {s : State} (h : Kept z s) (f ck sh o) : OutKept z (laneCvt f ck sh o s) := by
  unfold laneCvt
  grind [ResKept.ok, ResKept.trap, ResKept.hold, OutKept.next, OutKept.fault, trapOf, laneF_kept]

theorem okPend_kept {s : State} (h : Kept z s) (g p) : ResKept z (okPend s g p) := by
  unfold okPend
  grind [Kept.tabs, Tabs.kept, ResKept.ok, ResKept.trap, ResKept.hold, OutKept.next, OutKept.fault, trapOf]

theorem fspec_kept {s : State} (h : Kept z s) (fn ck sh o) : OutKept z (fspec fn ck sh o s) := by
  unfold fspec
  grind [ResKept.ok, ResKept.trap, ResKept.hold, OutKept.next, OutKept.fault, trapOf, issueC_kept, okPend_kept]

theorem laneDo_kept {s : State} (h : Kept z s) (gk pid op a) : Kept z (laneDo s gk pid op a).1 := by
  have hread : ∀ r vl n, Kept z (laneRead s gk r vl op.hint n).1 := fun r vl n => laneRead_kept h gk r vl op.hint n
  unfold laneDo
  extract_lets g r vl bring
  have hbring : ∀ n signed p, Kept z p.1 → Kept z (bring n signed p).1 := fun n signed p hp => by grind
  clear_value bring g r vl
  cases op.act with
  | load n signed => exact hbring _ _ _ (hread _ _ _)
  | uload n signed => grind
  | loadLocked n =>
    have := hread r vl n
    grind [Kept.tabs, Tabs.kept, Tabs.put]
  | storeCond n =>
    have := openLine_kept h g.core { r with write := true, read := false } op.hint
    grind [Kept.tabs, Tabs.kept, Tabs.put, ownWrite_kept]
  | atomic aop n => exact hbring _ _ _ (ownAtomic_kept _ _ _ _ _ _ _ fun f => laneAtomic_kept h _ _ _ _ _ _ _)
  | vpLoad =>
    dsimp only
    have := hread { r with va := a.va + 4 } vl (((a.c.setWidth 32 : Word).toNat % 256 + 7) / 8)
    grind

theorem opStep_kept (gk pid op x a) (hx : Kept z x.s) : Kept z (opStep gk pid op x a).s := by
  unfold opStep
  grind [Kept.tabs, Tabs.kept, laneDo_kept, holdFault_kept, State.refuse_kept]

theorem opRun_kept {s : State} (h : Kept z s) (gk pid op) : Kept z (opRun s gk pid op).s :=
  foldl_kept_of OpRun.s (fun _ _ hx => opStep_kept _ _ _ _ _ hx) _ h

theorem State.noteComm_kept {s : State} (h : Kept z s) (gk x) : Kept z (s.noteComm gk x) := by
  unfold State.noteComm
  grind [Kept.tabs, Tabs.kept, Tabs.put]

theorem storeDo_kept {s : State} (h : Kept z s) (gk seq act hint l) : Kept z (storeDo s gk seq act hint l).1 := by
  unfold storeDo
  grind [Kept.tabs, Tabs.kept, ownAtomic_kept, laneAtomic_kept, ownWrite_kept, State.noteComm_kept]

theorem storeStep_kept (gk seq act hint x l) (hx : Kept z x.s) : Kept z (storeStep gk seq act hint x l).s := by
  unfold storeStep
  grind [Kept.tabs, Tabs.kept, storeDo_kept, holdFault_kept, State.refuse_kept]

theorem storeRun_kept {s : State} (h : Kept z s) (gk seq act hint lanes) : Kept z (storeRun s gk seq act hint lanes).s :=
  foldl_kept_of StoreRun.s (fun _ _ hx => storeStep_kept _ _ _ _ _ _ hx) _ h

theorem postCauses_kept {s : State} (h : Kept z s) (gk causes seq) : Kept z (postCauses s gk causes seq) := by
  unfold postCauses
  grind [Kept.tabs, Tabs.kept, Tabs.put]

theorem commOne_kept {s : State} (h : Kept z s) (gk i) : Kept z (commOne s gk i) := by
  unfold commOne
  split
  · exact h
  next x _ =>
    have hrun := postCauses_kept (storeRun_kept h gk x.seq (.reduce x.op x.n) x.hint [{ lane := x.lane, va := x.va, bytes := natBytes x.n x.val }]) gk
      (storeRun s gk x.seq (.reduce x.op x.n) x.hint [{ lane := x.lane, va := x.va, bytes := natBytes x.n x.val }]).causes x.seq
    have hout : ∀ t gk g, Kept z t → Kept z { t with groups := t.groups.put gk g } := fun t gk g ht => Tabs.kept (Tabs.put ht gk g) ..
    exact ite_kept (hout _ _ _ hrun) (ite_kept (hout _ _ _ (State.putCore_kept hrun _ _)) h)

theorem commSome_kept {s : State} (h : Kept z s) (gk p n) : Kept z (commSome gk p n s) := by
  induction n generalizing s with
  | zero => exact h
  | succ n ih =>
    unfold commSome
    grind [commOne_kept]

theorem commAll_kept {s : State} (h : Kept z s) (gk) : Kept z (commAll s gk) := by
  unfold commAll
  grind [commSome_kept]

theorem commBefore_kept {s : State} (h : Kept z s) (gk accs) : Kept z (commBefore s gk accs) := by
  unfold commBefore
  grind [commSome_kept]

theorem commStir_kept {s : State} (h : Kept z s) (gk) : Kept z (commStir s gk) := by
  unfold commStir
  grind [foldl_kept, commOne_kept]

theorem heldWith_kept {s : State} (h : Kept z s) : ResKept z (heldWith s) := by
  unfold heldWith
  grind [Kept.tabs, Tabs.kept, ResKept.ok, ResKept.trap, ResKept.hold, OutKept.next, OutKept.fault, trapOf]

theorem opIssue_kept {s : State} (h : Kept z s) (gk op dests m vp outs vpbits pre vas) : ResKept z (opIssue s gk op dests m vp outs vpbits
    pre vas) := by
  unfold opIssue
  grind [Kept.tabs, Tabs.kept, ResKept.ok, ResKept.trap, ResKept.hold, OutKept.next, OutKept.fault, trapOf, opRun_kept]

theorem loadLike_kept {s : State} (h : Kept z s) (kind waits align n op dests m g) : ResKept z (loadLike kind waits align n op dests m s
    g) := by
  unfold loadLike
  grind [Kept.tabs, Tabs.kept, ResKept.ok, ResKept.trap, ResKept.hold, OutKept.next, OutKept.fault, trapOf, State.putG_kept,
    commBefore_kept, heldWith_kept, opIssue_kept]

theorem retryLoad_kept {s : State} (h : Kept z s) (gk pid) : Kept z (retryLoad s gk pid) := by
  unfold retryLoad
  grind [Kept.tabs, Tabs.kept, Tabs.put, Tabs.map, opRun_kept]

theorem denyLoad_kept {s : State} (h : Kept z s) (gk pid covers) : Kept z (denyLoad s gk pid covers) := by
  unfold denyLoad
  grind [Kept.tabs, Tabs.kept, Tabs.put, Tabs.map]

theorem Res.mapG_kept {r : Res Eff} (h : ResKept z r) (f) : ResKept z (r.mapG f) := by
  unfold Res.mapG
  split
  · exact ResKept.ok h.eff
  · exact h

theorem storeLike_kept {s : State} (h : Kept z s) (kind align hint act lanes f g) :
    ResKept z (storeLike kind align hint act lanes f s g) := by
  have hfirst : ∀ b : Bool, Kept z (if b then s.putG g else commBefore (s.putG g) s.cur (lanes.map (fun l => (l.lane, l.va, l.bytes.length)))) :=
    fun b => ite_kept (State.putG_kept h g) (commBefore_kept (State.putG_kept h g) _ _)
  have hput : ∀ {t gk g}, Kept z t → Kept z { t with groups := t.groups.put gk g } := fun ht => Tabs.kept (Tabs.put ht _ _) ..
  have hlog : ∀ {t core c}, Kept z t → Kept z (t.putCore core c) := fun ht => State.putCore_kept ht _ _
  have hrun : ∀ {t gk}, Kept z t → Kept z (postCauses (storeRun t gk g.seq act hint lanes).s gk (storeRun t gk g.seq act hint lanes).causes g.seq) :=
    fun ht => postCauses_kept (storeRun_kept ht _ _ _ _ _) _ _ _
  unfold storeLike
  dsimp only
  split
  · exact ResKept.trap _
  · exact ResKept.ite (heldWith_kept (hfirst _)) (ResKept.ite
      (ResKept.ite (ResKept.hold _) (ResKept.ok (hlog (hput (hfirst _)))))
      (ResKept.ite (ResKept.ok (hrun (hput (hfirst _)))) (ResKept.ite (ResKept.hold _) (ResKept.ok (hlog (hrun (hput (hfirst _))))))))

theorem drainEntries_kept {s : State} (h : Kept z s) (gk core l) : Kept z (drainEntries gk core l s) := by
  induction l generalizing s with
  | nil => exact h
  | cons e l ih =>
    have hrun := postCauses_kept (storeRun_kept h gk e.seq e.act e.hint e.lanes) gk (storeRun s gk e.seq e.act e.hint e.lanes).causes
    unfold drainEntries
    exact ite_kept (ih (State.putCore_kept (hrun _) _ _)) (State.putCore_kept (hrun _) _ _)

theorem retryBurrow_kept {s : State} (h : Kept z s) (gk) : Kept z (retryBurrow s gk) := by
  unfold retryBurrow
  grind [drainEntries_kept]

theorem denyBurrow_kept {s : State} (h : Kept z s) (gk covers) : Kept z (denyBurrow s gk covers) := by
  unfold denyBurrow
  grind [Kept.tabs, Tabs.kept, State.putCore_kept, retryBurrow_kept, postCauses_kept]

theorem headRead_kept {s : State} (h : Kept z s) (gk g l va hint) : Kept z (headRead s gk g l va hint).1 := by
  unfold headRead
  grind [laneRead_kept]

theorem headOne_kept {s : State} (h : Kept z s) (l va hint) : Kept z (headOne s l va hint).1 := by
  unfold headOne
  grind [Kept.tabs, Tabs.kept, headRead_kept]

theorem headLoop_kept {s : State} (h : Kept z s) (packed hint l next) : Kept z (headLoop packed hint l next s).1 := by
  induction l generalizing s next with
  | nil => exact h
  | cons x l ih =>
    unfold headLoop
    grind [headOne_kept]

theorem vpldHeads_kept {s : State} (h : Kept z s) (packed addrs o sh m) : ResKept z (vpldHeads s packed addrs o sh m) := by
  unfold vpldHeads
  grind [Kept.tabs, Tabs.kept, Tabs.put, ResKept.ok, ResKept.trap, ResKept.hold, OutKept.next, OutKept.fault, trapOf, headLoop_kept,
    heldWith_kept, holdFault_kept, State.refuse_kept, opIssue_kept]

theorem State.putSnap_kept {s : State} (h : Kept z s) (pkg x) : Kept z (s.putSnap pkg x) := h

theorem owlTrigger_kept {s : State} (h : Kept z s) (pkg source tag origin gang) : Kept z (owlTrigger s pkg source tag origin gang) := by
  unfold owlTrigger
  grind [Kept.tabs, Tabs.kept, foldl_kept, foldl_pair_kept, State.putSnap_kept, transmit_kept]

theorem owlError_kept {s : State} (h : Kept z s) (pkg bit) : Kept z (owlError s pkg bit) := by
  unfold owlError
  grind [owlTrigger_kept]

theorem powerAsk_kept {s : State} (h : Kept z s) (dk u n) : Kept z (powerAsk s dk u n) := by
  unfold powerAsk
  grind [Kept.tabs, Tabs.kept, State.putDie_kept]

theorem powerEnd_kept {s : State} (h : Kept z s) (dk u) : Kept z (powerEnd s dk u) := by
  unfold powerEnd
  grind [Kept.tabs, Tabs.kept, State.putDie_kept]

theorem powerCease_kept {s : State} (h : Kept z s) (dk u) : Kept z (powerCease s dk u) := by
  unfold powerCease
  grind [Kept.tabs, Tabs.kept, powerEnd_kept, State.putDie_kept]

theorem powerWithdraw_kept {s : State} (h : Kept z s) (dk u) : Kept z (powerWithdraw s dk u) := by
  unfold powerWithdraw
  grind [Kept.tabs, Tabs.kept, State.putDie_kept]

theorem powerServe_kept {s : State} (h : Kept z s) (dk) : Kept z (powerServe s dk) := by
  unfold powerServe
  grind [Kept.tabs, Tabs.kept, State.putDie_kept]

theorem powerReturn_kept {s : State} (h : Kept z s) (dk op) : Kept z (powerReturn s dk op) := by
  unfold powerReturn
  grind [Kept.tabs, Tabs.kept, State.putDie_kept]

end Sys2Proof.Machine
end

section
/-!
PROOFS. The tile engine keeps the tables, and so do the homes of the counters.
-/

namespace Sys2Proof.Machine

set_option Elab.async false

variable {z : State}

theorem tileRead_kept {s : State} (h : Kept z s) (gk seq r n) : Kept z (tileRead s gk seq r n).1 := by
  unfold tileRead
  grind [Kept.tabs, Tabs.kept, foldl_kept, foldl_pair_kept, laneRead_kept]

theorem rawElts_kept {s : State} (h : Kept z s) (gk seq fmt base skip count) : Kept z (rawElts s gk seq fmt base skip count).1 := by
  unfold rawElts
  grind [Kept.tabs, Tabs.kept, tileRead_kept]

theorem vpElts_kept {s : State} (h : Kept z s) (vp gk seq n skip at_) : Kept z (vpElts vp gk seq n skip at_ s).1 := by
  induction n generalizing s skip at_ with
  | zero => exact h
  | succ n ih =>
    unfold vpElts
    have hhead := tileRead_kept h gk seq ((s.grp gk).req 4 at_) 4
    dsimp only
    split
    · exact h
    · split
      next s1 x a he => rw [he] at hhead; exact hhead
      next s1 hb he =>
        rw [he] at hhead
        split
        · exact hhead
        · have hbody : ∀ k a, Kept z (if k = 0 then (s1, TAcc.ok []) else tileRead s1 gk seq ((s.grp gk).req 4 a) k).1 := fun k a => by
            split
            · exact hhead
            · exact tileRead_kept hhead _ _ _ _
          split
          next s2 x a hf => exact (hbody _ _).of_eq hf
          next s2 fb hf =>
            have h2 : Kept z s2 := (hbody _ _).of_eq hf
            grind

theorem State.putTile_kept {s : State} (h : Kept z s) (core t) : Kept z (s.putTile core t) := by
  unfold State.putTile
  grind [Kept.tabs, Tabs.kept, State.putCore_kept]

theorem loadLine_kept {s : State} (h : Kept z s) (core gk seq l) : Kept z (loadLine s core gk seq l).1 := by
  unfold loadLine
  grind [vpElts_kept, State.putTile_kept, rawElts_kept]

theorem loadLines_kept {s : State} (h : Kept z s) (core gk seq l n) : Kept z (loadLines core gk seq l n s).s := by
  induction l generalizing s n with
  | nil => exact h
  | cons x l ih =>
    unfold loadLines
    grind [loadLine_kept]

theorem runLoads_kept {s : State} (h : Kept z s) (core j ls) : Kept z (runLoads core j ls s).s := by
  unfold runLoads
  grind [loadLines_kept]

theorem tileWrite_kept {s : State} (h : Kept z s) (j r bs) : Kept z (tileWrite s j r bs).1 := by
  unfold tileWrite
  grind [Kept.tabs, Tabs.kept, State.noteLanded_kept, State.noteStore_kept, laneWrite_kept, laneRead_kept]

theorem storeElts_kept {s : State} (h : Kept z s) (j l n) : Kept z (storeElts j l n s).s := by
  induction l generalizing s n with
  | nil => exact h
  | cons x l ih =>
    unfold storeElts
    grind [tileWrite_kept]

theorem runStores_kept {s : State} (h : Kept z s) (j l) : Kept z (runStores j l s).s := by
  unfold runStores
  grind [storeElts_kept]

theorem markArea_kept {s : State} (h : Kept z s) (gk addr tmask mmask) : Kept z (markArea s gk addr tmask mmask) := by
  unfold markArea
  grind [Kept.tabs, Tabs.kept]

theorem runParts_kept {s : State} (h : Kept z s) (core gk seq addr ours l n) : Kept z (runParts core gk seq addr ours l n s).s := by
  induction l generalizing s n with
  | nil => exact h
  | cons x l ih =>
    unfold runParts
    grind [Kept.tabs, Tabs.kept, tileRead_kept, State.putTile_kept]

theorem finishPend_kept {s : State} (h : Kept z s) (gk pid f) : Kept z (finishPend s gk pid f) := by
  unfold finishPend
  grind [Kept.tabs, Tabs.kept, Tabs.put, Tabs.map]

theorem unhold_kept {s : State} (h : Kept z s) (gk) : Kept z (unhold s gk) := by
  unfold unhold
  grind [Kept.tabs, Tabs.kept, Tabs.put]

theorem tileDone_kept {s : State} (h : Kept z s) (core j outs cause) : Kept z (tileDone s core j outs cause) := by
  unfold tileDone
  grind [Kept.tabs, Tabs.kept, State.putTile_kept, powerEnd_kept, State.settleTile_kept, finishPend_kept, unhold_kept]

theorem tileStop_kept {s : State} (h : Kept z s) (core j x va) : Kept z (tileStop s core j x va) := by
  unfold tileStop
  cases x with
  | fault d fva => exact Tabs.kept (Tabs.put (State.putTile_kept (holdFault_kept h _ _ _) _ _) _ _) ..
  | _ => grind [tileDone_kept, State.refuse_kept, State.putTile_kept]

theorem tileRun_kept (core j r fin) (hr : Kept z r.s) (hfin : ∀ s, Kept z s → Kept z (fin s)) : Kept z (tileRun core j r fin) := by
  unfold tileRun
  grind [Kept.tabs, Tabs.kept, State.putTile_kept, tileStop_kept]

theorem tileDo_kept {s : State} (h : Kept z s) (core j) : Kept z (tileDo s core j) := by
  unfold tileDo
  grind [Kept.tabs, Tabs.kept, foldl_kept, tileDone_kept, State.putTile_kept, tileRun_kept, runLoads_kept, runStores_kept, markArea_kept,
    runParts_kept]

theorem tileStart_kept {s : State} (h : Kept z s) (core n) : Kept z (tileStart s core n) := by
  unfold tileStart
  grind [powerAsk_kept, tileDo_kept]

theorem gemmNext_kept {s : State} (h : Kept z s) (core j) : Kept z (gemmNext s core j) := by
  unfold gemmNext
  grind [Kept.tabs, Tabs.kept, State.putTile_kept, tileDone_kept]

theorem gemmStep_kept {s : State} (h : Kept z s) (core) : Kept z (gemmStep s core) := by
  unfold gemmStep
  grind [State.putTile_kept, tileRun_kept, runLoads_kept, gemmNext_kept, runStores_kept]

theorem retryTile_kept {s : State} (h : Kept z s) (core) : Kept z (retryTile s core) := by
  unfold retryTile
  grind [Kept.tabs, Tabs.kept, State.putTile_kept]

theorem denyTile_kept {s : State} (h : Kept z s) (core covers) : Kept z (denyTile s core covers) := by
  unfold denyTile
  grind [foldl_kept, tileDone_kept]

theorem State.putSlot_kept {s : State} (h : Kept z s) (cl va x) : Kept z (s.putSlot cl va x) := by
  unfold State.putSlot
  grind [Kept.tabs, Tabs.kept, State.putCluster_kept]

theorem State.dropSlot_kept {s : State} (h : Kept z s) (cl va) : Kept z (s.dropSlot cl va) := by
  unfold State.dropSlot
  grind [Kept.tabs, Tabs.kept, State.putCluster_kept]

theorem State.send_kept {s : State} (h : Kept z s) (m) : Kept z (s.send m) := h

end Sys2Proof.Machine
end

section
/-!
PROOFS. The allowance engine, fetching, the front engine's instructions and barrier objects keep the tables.
-/

namespace Sys2Proof.Machine

set_option Elab.async false

variable {z : State}

theorem putCtr_kept {s : State} (h : Kept z s) (va c) : Kept z (putCtr s va c) := by
  unfold putCtr
  grind [Kept.tabs, Tabs.kept, pocLine_kept, physWrite_kept]

theorem keepCtr_kept {s : State} (h : Kept z s) (va c) : Kept z (keepCtr s va c) := h

theorem allowDone_kept {s : State} (h : Kept z s) (op ws) : Kept z (allowDone s op ws) := by
  unfold allowDone
  grind [Kept.tabs, Tabs.kept, finishPend_kept]

theorem allowStatus_kept {s : State} (h : Kept z s) (op n) : Kept z (allowStatus s op n) := by
  unfold allowStatus
  grind [allowDone_kept]

theorem allowValue_kept {s : State} (h : Kept z s) (op v) : Kept z (allowValue s op v) := by
  unfold allowValue
  grind [allowDone_kept]

theorem allowOnes_kept {s : State} (h : Kept z s) (op) : Kept z (allowOnes s op) := by
  unfold allowOnes
  grind [allowDone_kept]

theorem giveDone_kept {s : State} (h : Kept z s) (op) : Kept z (giveDone s op) := by
  unfold giveDone
  grind [Kept.tabs, Tabs.kept, Tabs.put]

theorem allowErr_kept {s : State} (h : Kept z s) (op va cause sub) : Kept z (allowErr s op va cause sub) := by
  unfold allowErr
  grind [Kept.tabs, Tabs.kept, Tabs.put, giveDone_kept, finishPend_kept]

theorem homeCheck_kept {s : State} (h : Kept z s) (op va) : Kept z (homeCheck s op va).1 := by
  unfold homeCheck
  grind [Kept.tabs, Tabs.kept, xlate_kept]

theorem recallRound_kept {s : State} (h : Kept z s) (va c but own) : Kept z (recallRound s va c but own) := by
  unfold recallRound
  grind [Kept.tabs, Tabs.kept, foldl_kept, putCtr_kept, State.bump_kept, State.send_kept]

theorem refuseReq_kept {s : State} (h : Kept z s) (va c r) : Kept z (refuseReq s va c r) := by
  unfold refuseReq
  grind [Kept.tabs, Tabs.kept, State.bump_kept, State.send_kept, allowOnes_kept, allowStatus_kept]

theorem serveTake_kept {s : State} (h : Kept z s) (va c r) : Kept z (serveTake s va c r) := by
  unfold serveTake
  grind [Kept.tabs, Tabs.kept, refuseReq_kept, putCtr_kept, recallRound_kept, allowStatus_kept, State.send_kept]

theorem serveExact_kept {s : State} (h : Kept z s) (va c r) : Kept z (serveExact s va c r) := by
  unfold serveExact
  grind [Kept.tabs, Tabs.kept, putCtr_kept, State.send_kept, allowValue_kept, recallRound_kept]

theorem serveAcrt_kept {s : State} (h : Kept z s) (va c r) : Kept z (serveAcrt s va c r) := by
  unfold serveAcrt
  grind [Kept.tabs, Tabs.kept, foldl_kept, recallRound_kept, putCtr_kept, refuseReq_kept, allowStatus_kept]

theorem createCtr_kept {s : State} (h : Kept z s) (va home op q m phys leaf queue) : Kept z (createCtr s va home op q m phys leaf queue)
    := by
  unfold createCtr
  grind [Kept.tabs, Tabs.kept, allowStatus_kept, putCtr_kept]

theorem homeAdd_kept {s : State} (h : Kept z s) (va x up op) : Kept z (homeAdd s va x up op) := by
  unfold homeAdd
  grind [Kept.tabs, Tabs.kept, Tabs.put, recallRound_kept, putCtr_kept]

theorem returnArrives_kept {s : State} (h : Kept z s) (va x cl op) : Kept z (returnArrives s va x cl op) := by
  unfold returnArrives
  grind [allowErr_kept, homeCheck_kept, giveDone_kept, homeAdd_kept]

theorem answerArrives_kept {s : State} (h : Kept z s) (va j x) : Kept z (answerArrives s va j x) := by
  unfold answerArrives
  grind [Kept.tabs, Tabs.kept, putCtr_kept]

theorem arriveHome_kept {s : State} (h : Kept z s) (m) : Kept z (arriveHome s m) := by
  unfold arriveHome
  grind [answerArrives_kept, returnArrives_kept, homeAdd_kept]

theorem flushHome_kept {s : State} (h : Kept z s) (cl va core) : Kept z (flushHome s cl va core) := by
  unfold flushHome
  grind [Kept.tabs, Tabs.kept, foldl_kept, arriveHome_kept]

theorem enqueueReq_kept {s : State} (h : Kept z s) (va home r) : Kept z (enqueueReq s va home r) := by
  unfold enqueueReq
  grind [Kept.tabs, Tabs.kept, flushHome_kept, keepCtr_kept]

theorem useSlot_kept {s : State} (h : Kept z s) (cl va) : Kept z (useSlot s cl va) := by
  unfold useSlot
  grind [Kept.tabs, Tabs.kept, State.putCluster_kept, State.putSlot_kept]

theorem bindSlot_kept {s : State} (h : Kept z s) (cl va op) : Kept z (bindSlot s cl va op).1 := by
  unfold bindSlot
  grind [Kept.tabs, Tabs.kept, State.putSlot_kept, State.dropSlot_kept, State.send_kept]

theorem slotApply_kept {s : State} (h : Kept z s) (cl va home x op) : Kept z (slotApply s cl va home x op) := by
  unfold slotApply
  grind [Kept.tabs, Tabs.kept, enqueueReq_kept, State.putSlot_kept, allowStatus_kept, giveDone_kept, State.send_kept]

theorem slotRun_kept {s : State} (h : Kept z s) (cl va home n) : Kept z (slotRun cl va home n s) := by
  induction n generalizing s with
  | zero => exact h
  | succ n ih =>
    unfold slotRun
    split
    · exact h
    · split
      · exact h
      · exact h
      · exact ih (slotApply_kept (State.putSlot_kept h _ _ _) _ _ _ _ _)

theorem slotOp_kept {s : State} (h : Kept z s) (cl va op) : Kept z (slotOp s cl va op) := by
  unfold slotOp
  grind [Kept.tabs, Tabs.kept, useSlot_kept, State.putSlot_kept, slotRun_kept]

theorem slotFree_kept {s : State} (h : Kept z s) (cl va x) : Kept z (slotFree s cl va x) := by
  unfold slotFree
  grind [slotRun_kept, State.putSlot_kept]

theorem serveFirst_kept {s : State} (h : Kept z s) (va) : Kept z (serveFirst s va) := by
  have hfail : ∀ {s} op a c n, Kept z s → Kept z (allowErr s op a c n) := fun op a c n hs => allowErr_kept hs op a c n
  have hcheck := fun op => homeCheck_kept h op va
  unfold serveFirst
  split
  · exact h
  next c _ =>
    refine ite_kept h ?_
    split
    · exact h
    next r _ _ =>
      extract_lets fail
      have hf : ∀ s cause sub, Kept z s → Kept z (fail s cause sub) := fun s cause sub hs => by
        grind [slotFree_kept, keepCtr_kept]
      clear_value fail
      split
      next he => exact (hcheck r.op).of_eq he
      next he => exact hf _ _ _ ((hcheck r.op).of_eq he)
      next s1 phys leaf he =>
        have h1 : Kept z s1 := (hcheck r.op).of_eq he
        grind [serveAcrt_kept, createCtr_kept, keepCtr_kept, serveExact_kept, serveTake_kept]

theorem serveHead_kept {s : State} (h : Kept z s) (va) : Kept z (serveHead s va) := by
  unfold serveHead
  grind [serveFirst_kept, State.bump_kept]

theorem arriveSlot_kept {s : State} (h : Kept z s) (m op) : Kept z (arriveSlot s m op) := by
  unfold arriveSlot
  grind [Kept.tabs, Tabs.kept, slotFree_kept, allowStatus_kept, allowOnes_kept, allowValue_kept, State.send_kept, State.putSlot_kept]

theorem deliverAllow_kept {s : State} (h : Kept z s) (n ok) : Kept z (deliverAllow s n ok) := by
  unfold deliverAllow
  grind [Kept.tabs, Tabs.kept, arriveHome_kept, arriveSlot_kept]

theorem counterLoss_kept {s : State} (h : Kept z s) (pkg partner) : Kept z (counterLoss s pkg partner) := by
  unfold counterLoss
  grind [Kept.tabs, Tabs.kept, foldl_kept, foldl_pair_kept, putCtr_kept, giveDone_kept, allowOnes_kept, allowStatus_kept]

theorem giveLoss_kept {s : State} (h : Kept z s) (pkg q) : Kept z (giveLoss s pkg q) := by
  unfold giveLoss
  grind [Kept.tabs, Tabs.kept, foldl_kept, foldl_pair_kept, giveDone_kept]

theorem State.putQuarter_kept {s : State} (h : Kept z s) (core q x) : Kept z (s.putQuarter core q x) := by
  unfold State.putQuarter
  grind [Kept.tabs, Tabs.kept, State.putCore_kept]

theorem fetchLine_kept {s : State} (h : Kept z s) (gk a) : Kept z (fetchLine s gk a).1 := by
  unfold fetchLine
  grind [Kept.tabs, Tabs.kept, xlate_kept, pocLine_kept, State.putQuarter_kept]

theorem fetchWord_kept {s : State} (h : Kept z s) (gk a) : Kept z (fetchWord s gk a).1 := by
  unfold fetchWord
  grind [fetchLine_kept]

theorem fetchWords_kept {s : State} (h : Kept z s) (gk n a) : Kept z (fetchWords gk n a s).1 := by
  induction n generalizing s a with
  | zero => exact h
  | succ n ih =>
    have hone := fetchWord_kept h gk a
    unfold fetchWords
    split
    next s1 w he =>
      have hrest : Kept z (fetchWords gk n (a + 4) s1).1 := ih (hone.of_eq he) (a + 4)
      split
      next hr => rw [hr] at hrest; exact hrest
      · exact hrest
    next he => exact hone.of_eq he
    next he => exact hone.of_eq he

theorem fetchInstr_kept {s : State} (h : Kept z s) (gk a) : Kept z (fetchInstr gk a s).1 := by
  unfold fetchInstr
  grind [fetchWord_kept, fetchWords_kept]

theorem fetchBody_kept {s : State} (h : Kept z s) (gk n a) : Kept z (fetchBody gk n a s).1 := by
  induction n generalizing s a with
  | zero => exact h
  | succ n ih =>
    have hone := fetchInstr_kept h gk a
    unfold fetchBody
    split
    next he => exact hone.of_eq he
    next he => exact hone.of_eq he
    next s1 ws he =>
      have hrest : Kept z (fetchBody gk n (a + BitVec.ofNat 64 (4 * ws.length)) s1).1 := ih (hone.of_eq he) _
      dsimp only
      split
      next hr => rw [hr] at hrest; exact hrest
      · exact hrest

theorem fetchStop_kept {s : State} (h : Kept z s) (gk r) : Kept z (fetchStop s gk r) := by
  unfold fetchStop
  grind [Kept.tabs, Tabs.kept, Tabs.put, holdFault_kept, State.putGrp_kept, State.refuse_kept]

theorem startClause_kept {s : State} (h : Kept z s) (gk wait seta setb n tmask len bad) : Kept z (startClause s gk wait seta setb n tmask
    len bad) := by
  unfold startClause
  grind [Kept.tabs, Tabs.kept, Tabs.put, fetchBody_kept, fetchStop_kept]

theorem fetchAhead_kept {s : State} (h : Kept z s) (gk) : Kept z (fetchAhead s gk) := by
  unfold fetchAhead
  grind [Kept.tabs, Tabs.kept, fetchLine_kept, State.putGrp_kept, fetchStop_kept]

theorem clauseStart_kept {s : State} (h : Kept z s) (wait seta setb n tmask len bad) : OutKept z (clauseStart wait seta setb n tmask len
    bad s) := by
  unfold clauseStart
  grind [ResKept.ok, ResKept.trap, ResKept.hold, OutKept.next, OutKept.fault, trapOf, startClause_kept]

theorem jumpTo_kept {s : State} (h : Kept z s) (g t) : ResKept z (jumpTo s g t) := by
  unfold jumpTo
  grind [ResKept.ok, ResKept.trap, ResKept.hold, OutKept.next, OutKept.fault, trapOf, okJump_kept]

theorem callTo_kept {s : State} (h : Kept z s) (g t) : ResKept z (callTo s g t) := by
  unfold callTo
  grind [Kept.tabs, Tabs.kept, ResKept.ok, ResKept.trap, ResKept.hold, OutKept.next, OutKept.fault, trapOf]

theorem bra_kept {s : State} (h : Kept z s) (ck sh o) : OutKept z (bra ck sh o s) := by
  unfold bra
  grind [ResKept.ok, ResKept.trap, ResKept.hold, OutKept.next, OutKept.fault, trapOf, issueC_kept, jumpTo_kept]

theorem call_kept {s : State} (h : Kept z s) (ck sh o) : OutKept z (call ck sh o s) := by
  unfold call
  grind [ResKept.ok, ResKept.trap, ResKept.hold, OutKept.next, OutKept.fault, trapOf, issueC_kept, callTo_kept]

theorem bj_kept {s : State} (h : Kept z s) (to_ ck cnd off lit) (hto_ : ∀ s x1 x2, Kept z s → ResKept z (to_ s x1 x2)) : OutKept z (bj to_
    ck cnd off lit s) := by
  unfold bj
  grind [Kept.tabs, Tabs.kept, ResKept.ok, ResKept.trap, ResKept.hold, OutKept.next, OutKept.fault, trapOf, issueC_kept, okOuts_kept]

theorem brx_kept {s : State} (h : Kept z s) (ck sh o) : OutKept z (brx ck sh o s) := by
  unfold brx
  grind [ResKept.ok, ResKept.trap, ResKept.hold, OutKept.next, OutKept.fault, trapOf, issueC_kept, jumpTo_kept]

theorem brxIdx_kept {s : State} (h : Kept z s) (ck sh o) : OutKept z (brxIdx ck sh o s) := by
  unfold brxIdx
  grind [ResKept.ok, ResKept.trap, ResKept.hold, OutKept.next, OutKept.fault, trapOf, issueC_kept, jumpTo_kept]

theorem ret_kept {s : State} (h : Kept z s) (ck sh o) : OutKept z (ret ck sh o s) := by
  unfold ret
  grind [ResKept.ok, ResKept.trap, ResKept.hold, OutKept.next, OutKept.fault, trapOf, issueC_kept, jumpTo_kept]

theorem yieldG_kept {s : State} (h : Kept z s) (ck sh o) : OutKept z (yieldG ck sh o s) := by
  unfold yieldG
  grind [Kept.tabs, Tabs.kept, ResKept.ok, ResKept.trap, ResKept.hold, OutKept.next, OutKept.fault, trapOf, issueC_kept,
    State.putQuarter_kept]

theorem trapI_kept {s : State} (h : Kept z s) (ck sh o) : OutKept z (trapI ck sh o s) := by
  unfold trapI
  grind [ResKept.ok, ResKept.trap, ResKept.hold, OutKept.next, OutKept.fault, trapOf, issueC_kept]

theorem tretI_kept {s : State} (h : Kept z s) (ck sh o) : OutKept z (tretI ck sh o s) := by
  unfold tretI
  grind [Kept.tabs, Tabs.kept, ResKept.ok, ResKept.trap, ResKept.hold, OutKept.next, OutKept.fault, trapOf, issueC_kept]

theorem voteI_kept {s : State} (h : Kept z s) (f differ ck sh o) (hf : ∀ s x1, Kept z s → ResKept z (f s x1)) : OutKept z (voteI f differ
    ck sh o s) := by
  unfold voteI
  grind [ResKept.ok, ResKept.trap, ResKept.hold, OutKept.next, OutKept.fault, trapOf, issueC_kept, shadowHit_kept]

theorem voteQ_kept {s : State} (h : Kept z s) (o f ck sh) (hf : ∀ s x1 x2, Kept z s → ResKept z (f s x1 x2)) : OutKept z (voteQ o f ck sh
    s) := by
  unfold voteQ
  grind [ResKept.ok, ResKept.trap, ResKept.hold, OutKept.next, OutKept.fault, trapOf, voteI_kept]

theorem maskSet_kept {s : State} (h : Kept z s) (ck sh o) : OutKept z (maskSet ck sh o s) := by
  unfold maskSet
  grind [ResKept.ok, ResKept.trap, ResKept.hold, OutKept.next, OutKept.fault, trapOf, issueC_kept, okOuts_kept]

theorem maskGet_kept {s : State} (h : Kept z s) (ck sh o) : OutKept z (maskGet ck sh o s) := by
  unfold maskGet
  grind [ResKept.ok, ResKept.trap, ResKept.hold, OutKept.next, OutKept.fault, trapOf, issueC_kept, okOuts_kept]

theorem maskIf_kept {s : State} (h : Kept z s) (ck sh o) : OutKept z (maskIf ck sh o s) := by
  unfold maskIf
  grind [ResKept.ok, ResKept.trap, ResKept.hold, OutKept.next, OutKept.fault, trapOf, voteQ_kept, okOuts_kept]

theorem maskElse_kept {s : State} (h : Kept z s) (ck sh o) : OutKept z (maskElse ck sh o s) := by
  unfold maskElse
  grind [ResKept.ok, ResKept.trap, ResKept.hold, OutKept.next, OutKept.fault, trapOf, issueC_kept, okOuts_kept]

theorem maskEnd_kept {s : State} (h : Kept z s) (ck sh o) : OutKept z (maskEnd ck sh o s) := by
  unfold maskEnd
  grind [ResKept.ok, ResKept.trap, ResKept.hold, OutKept.next, OutKept.fault, trapOf, issueC_kept, okOuts_kept]

theorem voteAny_kept {s : State} (h : Kept z s) (ck sh o) : OutKept z (voteAny ck sh o s) := by
  unfold voteAny
  grind [ResKept.ok, ResKept.trap, ResKept.hold, OutKept.next, OutKept.fault, trapOf, voteQ_kept, okOuts_kept]

theorem voteAll_kept {s : State} (h : Kept z s) (ck sh o) : OutKept z (voteAll ck sh o s) := by
  unfold voteAll
  grind [ResKept.ok, ResKept.trap, ResKept.hold, OutKept.next, OutKept.fault, trapOf, voteQ_kept, okOuts_kept]

theorem voteBal_kept {s : State} (h : Kept z s) (ck sh o) : OutKept z (voteBal ck sh o s) := by
  unfold voteBal
  grind [ResKept.ok, ResKept.trap, ResKept.hold, OutKept.next, OutKept.fault, trapOf, voteQ_kept, okOuts_kept]

theorem voteCnt_kept {s : State} (h : Kept z s) (ck sh o) : OutKept z (voteCnt ck sh o s) := by
  unfold voteCnt
  grind [ResKept.ok, ResKept.trap, ResKept.hold, OutKept.next, OutKept.fault, trapOf, voteQ_kept, okOuts_kept]

theorem voteUni_kept {s : State} (h : Kept z s) (ck sh o) : OutKept z (voteUni ck sh o s) := by
  unfold voteUni
  grind [ResKept.ok, ResKept.trap, ResKept.hold, OutKept.next, OutKept.fault, trapOf, voteI_kept, okOuts_kept]

theorem sysr_kept {s : State} (h : Kept z s) (ck sh o) : OutKept z (sysr ck sh o s) := by
  unfold sysr
  grind [ResKept.ok, ResKept.trap, ResKept.hold, OutKept.next, OutKept.fault, trapOf, issueC_kept, okOuts_kept]

theorem sysw_kept {s : State} (h : Kept z s) (ck sh o) : OutKept z (sysw ck sh o s) := by
  unfold sysw
  grind [Kept.tabs, Tabs.kept, foldl_kept, ResKept.ok, ResKept.trap, ResKept.hold, OutKept.next, OutKept.fault, trapOf, issueC_kept,
    okOuts_kept]

theorem roleCnt_kept {s : State} (h : Kept z s) (ck sh o) : OutKept z (roleCnt ck sh o s) := by
  unfold roleCnt
  grind [ResKept.ok, ResKept.trap, ResKept.hold, OutKept.next, OutKept.fault, trapOf, issueC_kept, okOuts_kept]

theorem rolePhys_kept {s : State} (h : Kept z s) (ck sh o) : OutKept z (rolePhys ck sh o s) := by
  unfold rolePhys
  grind [ResKept.ok, ResKept.trap, ResKept.hold, OutKept.next, OutKept.fault, trapOf, issueC_kept, okOuts_kept]

theorem roleTest_kept {s : State} (h : Kept z s) (ck sh o) : OutKept z (roleTest ck sh o s) := by
  unfold roleTest
  grind [ResKept.ok, ResKept.trap, ResKept.hold, OutKept.next, OutKept.fault, trapOf, issueC_kept, okOuts_kept]

theorem regnB_kept {s : State} (h : Kept z s) (ck sh o) : OutKept z (regnB ck sh o s) := by
  unfold regnB
  grind [Kept.tabs, Tabs.kept, ResKept.ok, ResKept.trap, ResKept.hold, OutKept.next, OutKept.fault, trapOf, issueC_kept, okOuts_kept]

theorem regnE_kept {s : State} (h : Kept z s) (ck sh o) : OutKept z (regnE ck sh o s) := by
  unfold regnE
  grind [Kept.tabs, Tabs.kept, ResKept.ok, ResKept.trap, ResKept.hold, OutKept.next, OutKept.fault, trapOf, issueC_kept, okOuts_kept]

theorem regnStat_kept {s : State} (h : Kept z s) (ck sh o) : OutKept z (regnStat ck sh o s) := by
  unfold regnStat
  grind [ResKept.ok, ResKept.trap, ResKept.hold, OutKept.next, OutKept.fault, trapOf, issueC_kept, okOuts_kept]

theorem snapI_kept {s : State} (h : Kept z s) (gang ck sh o) : OutKept z (snapI gang ck sh o s) := by
  unfold snapI
  grind [ResKept.ok, ResKept.trap, ResKept.hold, OutKept.next, OutKept.fault, trapOf, issueC_kept, owlTrigger_kept, okOuts_kept]

end Sys2Proof.Machine
end

section
/-!
PROOFS. The instructions of the memory port and of the allowance engine keep the tables, and so do the links.
-/

namespace Sys2Proof.Machine

set_option Elab.async false

variable {z : State}

theorem wakeBar_kept {s : State} (h : Kept z s) (place) : Kept z (wakeBar s place) := by
  unfold wakeBar
  grind [Kept.tabs, Tabs.kept, Tabs.map]

theorem barAccess_kept {s : State} (h : Kept z s) (va write op) : ResKept z (barAccess s va write op) := by
  have hread : ∀ r, Kept z (laneRead s s.cur r 0 0 16).1 := fun r => laneRead_kept h _ _ _ _ _
  unfold barAccess
  extract_lets gk g src r deny
  have hdeny : ∀ s c, Kept z s → ResKept z (deny s c) := fun s c hs => ResKept.ok hs
  clear_value deny r
  refine ResKept.ite (hdeny _ _ h) ?_
  split
  next he => exact hdeny _ _ ((hread r).of_eq he)
  next he => exact ResKept.ok (holdFault_kept ((hread r).of_eq he) _ _ _)
  next he => exact ResKept.ok (State.refuse_kept ((hread r).of_eq he) _ _)
  next => exact ResKept.hold _
  next s1 bs he =>
    have h1 : Kept z s1 := (hread r).of_eq he
    have hafter : ∀ (p : Prop) [Decidable p] b k lane hint bytes place, Kept z
        (if b = true then wakeBar (if p then s1 else (laneWrite s1 gk k { r with write := true } lane hint bytes).1) place
          else if p then s1 else (laneWrite s1 gk k { r with write := true } lane hint bytes).1) := fun p _ b k lane hint bytes place =>
      ite_kept (wakeBar_kept (ite_kept h1 (laneWrite_kept h1 _ _ _ _ _ _)) _) (ite_kept h1 (laneWrite_kept h1 _ _ _ _ _ _))
    dsimp only
    split
    · exact ResKept.ok (plRelease_kept (hafter ..) _)
    · exact ResKept.ok (hafter ..)

theorem relDone_kept (rel scope r) (hr : ResKept z r) : ResKept z (relDone rel scope r) := by
  unfold relDone
  grind [ResKept.ok, ResKept.trap, ResKept.hold, OutKept.next, OutKept.fault, trapOf, Res.mapG_kept]

theorem relAfter_kept {s : State} (h : Kept z s) (rel scope g body) (hbody : ∀ s x1, Kept z s → ResKept z (body s x1)) : ResKept z
    (relAfter rel scope s g body) := by
  unfold relAfter
  grind [ResKept.ok, ResKept.trap, ResKept.hold, OutKept.next, OutKept.fault, trapOf, commAll_kept, State.putG_kept, heldWith_kept,
    relDone_kept]

theorem relReady_kept {s : State} (h : Kept z s) (scope g body) (hbody : ∀ s x1, Kept z s → ResKept z (body s x1)) : ResKept z (relReady
    scope s g body) := by
  unfold relReady
  grind [Kept.tabs, Tabs.kept, ResKept.ok, ResKept.trap, ResKept.hold, OutKept.next, OutKept.fault, trapOf, commAll_kept, State.putG_kept,
    heldWith_kept]

theorem laneAccess_kept {s : State} (h : Kept z s) (rd wr differ ck sh o body) (hbody : ∀ s x1 x2 x3, Kept z s → ResKept z (body s x1 x2
    x3)) : OutKept z (laneAccess rd wr differ ck sh o body s) := by
  unfold laneAccess
  grind [Kept.tabs, Tabs.kept, ResKept.ok, ResKept.trap, ResKept.hold, OutKept.next, OutKept.fault, trapOf, issueC_kept, shadowHit_kept,
    relAfter_kept]

theorem ld_kept {s : State} (h : Kept z s) (sz ck sh o) : OutKept z (ld sz ck sh o s) := by
  unfold ld
  grind [Kept.tabs, Tabs.kept, ResKept.ok, ResKept.trap, ResKept.hold, OutKept.next, OutKept.fault, trapOf, laneAccess_kept, loadLike_kept]

theorem uld_kept {s : State} (h : Kept z s) (sz ck sh o) : OutKept z (uld sz ck sh o s) := by
  unfold uld
  grind [Kept.tabs, Tabs.kept, ResKept.ok, ResKept.trap, ResKept.hold, OutKept.next, OutKept.fault, trapOf, issueC_kept, loadLike_kept]

theorem st_kept {s : State} (h : Kept z s) (sz ck sh o) : OutKept z (st sz ck sh o s) := by
  unfold st
  grind [Kept.tabs, Tabs.kept, ResKept.ok, ResKept.trap, ResKept.hold, OutKept.next, OutKept.fault, trapOf, laneAccess_kept, storeLike_kept]

theorem atom_kept {s : State} (h : Kept z s) (op n ck sh o) : OutKept z (atom op n ck sh o s) := by
  unfold atom
  grind [Kept.tabs, Tabs.kept, ResKept.ok, ResKept.trap, ResKept.hold, OutKept.next, OutKept.fault, trapOf, laneAccess_kept, loadLike_kept]

theorem red_kept {s : State} (h : Kept z s) (op n ck sh o) : OutKept z (red op n ck sh o s) := by
  unfold red
  grind [Kept.tabs, Tabs.kept, ResKept.ok, ResKept.trap, ResKept.hold, OutKept.next, OutKept.fault, trapOf, laneAccess_kept, storeLike_kept]

theorem ldx_kept {s : State} (h : Kept z s) (sz ck sh o) : OutKept z (ldx sz ck sh o s) := by
  unfold ldx
  grind [Kept.tabs, Tabs.kept, ResKept.ok, ResKept.trap, ResKept.hold, OutKept.next, OutKept.fault, trapOf, laneAccess_kept, loadLike_kept]

theorem stx_kept {s : State} (h : Kept z s) (sz ck sh o) : OutKept z (stx sz ck sh o s) := by
  unfold stx
  grind [Kept.tabs, Tabs.kept, ResKept.ok, ResKept.trap, ResKept.hold, OutKept.next, OutKept.fault, trapOf, laneAccess_kept, loadLike_kept]

theorem wbTensor_kept {s : State} (h : Kept z s) (cl) : Kept z (wbTensor s cl) := by
  unfold wbTensor
  grind [foldl_kept, stashEvent_kept, wbLine_kept]

theorem invTensor_kept {s : State} (h : Kept z s) (cl) : Kept z (invTensor s cl) := by
  unfold invTensor
  grind [foldl_kept, dropLine_kept]

theorem fenceCache_kept {s : State} (h : Kept z s) (k cl) : Kept z (fenceCache k s cl) := by
  unfold fenceCache
  grind [invTensor_kept, wbTensor_kept]

theorem fenceStart_kept {s : State} (h : Kept z s) (k dom t g) : ResKept z (fenceStart k dom t s g) := by
  unfold fenceStart
  grind [Kept.tabs, Tabs.kept, ResKept.ok, ResKept.trap, ResKept.hold, OutKept.next, OutKept.fault, trapOf, commAll_kept, State.putG_kept,
    heldWith_kept, fenceCache_kept]

theorem fence_kept {s : State} (h : Kept z s) (k ck sh o) : OutKept z (fence k ck sh o s) := by
  unfold fence
  grind [ResKept.ok, ResKept.trap, ResKept.hold, OutKept.next, OutKept.fault, trapOf, issueC_kept, fenceStart_kept]

theorem cmaintDo_kept {s : State} (h : Kept z s) (k g va len) : Kept z (cmaintDo k s g va len) := by
  unfold cmaintDo
  grind [Kept.tabs, Tabs.kept, foldl_kept, State.putCluster_kept, State.putCore_kept, stashDrop_kept, stashWb_kept, dropLine_kept,
    wbLine_kept]

theorem cmaint_kept {s : State} (h : Kept z s) (k ck sh o) : OutKept z (cmaint k ck sh o s) := by
  unfold cmaint
  grind [Kept.tabs, Tabs.kept, ResKept.ok, ResKept.trap, ResKept.hold, OutKept.next, OutKept.fault, trapOf, issueC_kept, State.putG_kept,
    cmaintDo_kept]

theorem prefLane_kept {s : State} (h : Kept z s) (l1 hint gk va) : Kept z (prefLane l1 hint gk s va) := by
  have hfind : ∀ core r, Kept z (findLine s core r hint).1 := fun core r => findLine_kept h _ _ _
  unfold prefLane
  dsimp only
  split
  · exact specDrop_kept h _
  · split
    next he => exact specDrop_kept (Tabs.kept h ..) _
    next s1 tag he =>
      have h1 : Kept z s1 := (hfind _ _).of_eq he
      split
      · exact h1
      · refine ite_kept (specDrop_kept (dropLine_kept h1 _ _) _) ?_
        grind [claim_kept, State.putCluster_kept, State.putCore_kept]

theorem pref_kept {s : State} (h : Kept z s) (l1 ck sh o) : OutKept z (pref l1 ck sh o s) := by
  unfold pref
  grind [Kept.tabs, Tabs.kept, foldl_kept, ResKept.ok, ResKept.trap, ResKept.hold, OutKept.next, OutKept.fault, trapOf, laneAccess_kept,
    prefLane_kept, State.putG_kept]

theorem stashMap_kept {s : State} (h : Kept z s) (ck sh o) : OutKept z (stashMap ck sh o s) := by
  unfold stashMap
  grind [Kept.tabs, Tabs.kept, ResKept.ok, ResKept.trap, ResKept.hold, OutKept.next, OutKept.fault, trapOf, issueC_kept, State.putG_kept,
    State.putCohort_kept]

theorem stashEnd_kept {s : State} (h : Kept z s) (unmap ck sh o) : OutKept z (stashEnd unmap ck sh o s) := by
  refine issueC_kept h _ _ _ _ fun s g hs => ?_
  dsimp only
  split
  · exact ResKept.trap _
  next b _ =>
    refine ResKept.ite (ResKept.hold _) (ResKept.ok ?_)
    have hback : ∀ l : List Nat, Kept z (l.foldl (fun s i => if unmap then stashDrop s g.core i else stashWb s g.core i) s) := fun l =>
      foldl_kept (fun s i hs => ite_kept (stashDrop_kept hs _ _) (stashWb_kept hs _ _)) l hs
    have hlines : ∀ l : List Nat, Kept z (l.foldl (fun s i => match (s.core g.core).stash.get? i with
        | some e => wbLine s (clusterOf g.core) e.tag
        | none => s) (l.foldl (fun s i => if unmap then stashDrop s g.core i else stashWb s g.core i) s)) := fun l =>
      foldl_kept (fun s i hs => by grind [wbLine_kept]) l (hback l)
    exact ite_kept (State.putCohort_kept (hlines _) _ _) (hlines _)

theorem barIssue_kept {s : State} (h : Kept z s) (early write rel op ck sh o) : OutKept z (barIssue early write rel op ck sh o s) := by
  unfold barIssue
  grind [Kept.tabs, Tabs.kept, ResKept.ok, ResKept.trap, ResKept.hold, OutKept.next, OutKept.fault, trapOf, issueC_kept, commBefore_kept,
    State.putG_kept, heldWith_kept, relAfter_kept, barAccess_kept]

theorem barInit_kept {s : State} (h : Kept z s) (ck sh o) : OutKept z (barInit ck sh o s) := by
  unfold barInit
  grind [Kept.tabs, Tabs.kept, ResKept.ok, ResKept.trap, ResKept.hold, OutKept.next, OutKept.fault, trapOf, barIssue_kept]

theorem barArrive_kept {s : State} (h : Kept z s) (ck sh o) : OutKept z (barArrive ck sh o s) := by
  unfold barArrive
  grind [ResKept.ok, ResKept.trap, ResKept.hold, OutKept.next, OutKept.fault, trapOf, barIssue_kept]

theorem barExpect_kept {s : State} (h : Kept z s) (ck sh o) : OutKept z (barExpect ck sh o s) := by
  unfold barExpect
  grind [ResKept.ok, ResKept.trap, ResKept.hold, OutKept.next, OutKept.fault, trapOf, barIssue_kept]

theorem barWait_kept {s : State} (h : Kept z s) (ck sh o) : OutKept z (barWait ck sh o s) := by
  unfold barWait
  grind [Kept.tabs, Tabs.kept, ResKept.ok, ResKept.trap, ResKept.hold, OutKept.next, OutKept.fault, trapOf, barIssue_kept]

theorem barTest_kept {s : State} (h : Kept z s) (ck sh o) : OutKept z (barTest ck sh o s) := by
  unfold barTest
  grind [Kept.tabs, Tabs.kept, ResKept.ok, ResKept.trap, ResKept.hold, OutKept.next, OutKept.fault, trapOf, barIssue_kept]

theorem allowI_kept {s : State} (h : Kept z s) (early ll op ready run ck sh o) (hrun : ∀ s x1 x2, Kept z s → Kept z (run s x1 x2)) :
    OutKept z (allowI early ll op ready run ck sh o s) := by
  unfold allowI
  grind [Kept.tabs, Tabs.kept, ResKept.ok, ResKept.trap, ResKept.hold, OutKept.next, OutKept.fault, trapOf, issueC_kept, State.putG_kept,
    applyEff_kept]

theorem sendOp_kept {s : State} (h : Kept z s) (va op) : Kept z (sendOp s va op) := by
  unfold sendOp
  grind [Kept.tabs, Tabs.kept, slotOp_kept, bindSlot_kept, State.send_kept, enqueueReq_kept]

theorem countGive_kept {s : State} (h : Kept z s) (op) : Kept z (countGive s op) := by
  unfold countGive
  grind [Kept.tabs, Tabs.kept, Tabs.put]

theorem atake_kept {s : State} (h : Kept z s) (ck sh o) : OutKept z (atake ck sh o s) := by
  unfold atake
  grind [Kept.tabs, Tabs.kept, ResKept.ok, ResKept.trap, ResKept.hold, OutKept.next, OutKept.fault, trapOf, allowI_kept, allowStatus_kept,
    sendOp_kept]

theorem agive_kept {s : State} (h : Kept z s) (ck sh o) : OutKept z (agive ck sh o s) := by
  unfold agive
  grind [Kept.tabs, Tabs.kept, ResKept.ok, ResKept.trap, ResKept.hold, OutKept.next, OutKept.fault, trapOf, allowI_kept, sendOp_kept,
    countGive_kept]

theorem areadExact_kept {s : State} (h : Kept z s) (ck sh o) : OutKept z (areadExact ck sh o s) := by
  unfold areadExact
  grind [Kept.tabs, Tabs.kept, ResKept.ok, ResKept.trap, ResKept.hold, OutKept.next, OutKept.fault, trapOf, allowI_kept, sendOp_kept]

theorem readApprox_kept {s : State} (h : Kept z s) (va op) : Kept z (readApprox s va op) := by
  unfold readApprox
  grind [flushHome_kept, allowErr_kept, homeCheck_kept, allowValue_kept]

theorem areadApprox_kept {s : State} (h : Kept z s) (ck sh o) : OutKept z (areadApprox ck sh o s) := by
  unfold areadApprox
  grind [Kept.tabs, Tabs.kept, ResKept.ok, ResKept.trap, ResKept.hold, OutKept.next, OutKept.fault, trapOf, allowI_kept, readApprox_kept]

theorem acrtRun_kept {s : State} (h : Kept z s) (va op) : Kept z (acrtRun s va op) := by
  unfold acrtRun
  grind [Kept.tabs, Tabs.kept, foldl_kept, flushHome_kept, enqueueReq_kept, serveFirst_kept, homeCheck_kept, allowErr_kept, createCtr_kept]

theorem acrtNew_kept {s : State} (h : Kept z s) (ck sh o) : OutKept z (acrtNew ck sh o s) := by
  unfold acrtNew
  grind [ResKept.ok, ResKept.trap, ResKept.hold, OutKept.next, OutKept.fault, trapOf, allowI_kept, acrtRun_kept]

theorem acrtFree_kept {s : State} (h : Kept z s) (ck sh o) : OutKept z (acrtFree ck sh o s) := by
  unfold acrtFree
  grind [Kept.tabs, Tabs.kept, ResKept.ok, ResKept.trap, ResKept.hold, OutKept.next, OutKept.fault, trapOf, allowI_kept, acrtRun_kept]

theorem flitReceive_kept {s : State} (h : Kept z s) (pkg p f) : Kept z (flitReceive s pkg p f) := by
  unfold flitReceive
  grind [Kept.tabs, Tabs.kept, State.putPort_kept, State.bump_kept]

theorem portRetrain_kept {s : State} (h : Kept z s) (pkg p) : Kept z (portRetrain s pkg p) := by
  unfold portRetrain
  grind [Kept.tabs, Tabs.kept, owlError_kept, State.putPort_kept]

theorem reroute_kept {s : State} (h : Kept z s) (pkg p) : Kept z (reroute s pkg p) := by
  unfold reroute
  grind [Kept.tabs, Tabs.kept, foldl_kept, foldl_pair_kept, State.putPort_kept]

theorem portDown_kept {s : State} (h : Kept z s) (pkg p) : Kept z (portDown s pkg p) := by
  unfold portDown
  grind [Kept.tabs, Tabs.kept, reroute_kept, State.putPort_kept]

theorem laneFail_kept {s : State} (h : Kept z s) (pkg p lane) : Kept z (laneFail s pkg p lane) := by
  unfold laneFail
  grind [Kept.tabs, Tabs.kept, State.putPort_kept, portRetrain_kept]

theorem nakBurst_kept {s : State} (h : Kept z s) (pkg p) : Kept z (nakBurst s pkg p) := by
  unfold nakBurst
  grind [portRetrain_kept]

theorem trained_kept {s : State} (h : Kept z s) (pkg p) : Kept z (trained s pkg p) := by
  unfold trained
  grind [Kept.tabs, Tabs.kept, State.putPort_kept]

theorem retrainTimeout_kept {s : State} (h : Kept z s) (pkg p) : Kept z (retrainTimeout s pkg p) := by
  unfold retrainTimeout
  grind [portDown_kept]

theorem presentFall_kept {s : State} (h : Kept z s) (pkg p) : Kept z (presentFall s pkg p) := by
  unfold presentFall
  grind [Kept.tabs, Tabs.kept, State.putPort_kept, portDown_kept]

theorem presentRise_kept {s : State} (h : Kept z s) (pkg p) : Kept z (presentRise s pkg p) := by
  unfold presentRise
  grind [Kept.tabs, Tabs.kept, State.putPort_kept]

end Sys2Proof.Machine
end

section
/-!
PROOFS. The coherence engine and the streams of pieces keep the tables.
-/

namespace Sys2Proof.Machine

set_option Elab.async false

variable {z : State}

theorem askFor_kept {s : State} (h : Kept z s) (cl line wr) : Kept z (askFor s cl line wr) := by
  unfold askFor
  grind [Kept.tabs, Tabs.kept]

theorem cohServed_kept {s : State} (h : Kept z s) (line n) : Kept z (cohServed s line n) := by
  unfold cohServed
  grind [State.bump_kept]

theorem cohRead_kept {s : State} (h : Kept z s) (cl line) : Kept z (cohRead s cl line) := by
  unfold cohRead
  grind [answerRead_kept, cohServed_kept, sendTok_kept, askFor_kept]

theorem cohWrite_kept {s : State} (h : Kept z s) (cl line) : Kept z (cohWrite s cl line) := by
  unfold cohWrite
  grind [Kept.tabs, Tabs.kept, State.putHome_kept, askFor_kept, cohServed_kept, sendTok_kept]

theorem cohRecall_kept {s : State} (h : Kept z s) (cl line) : Kept z (cohRecall s cl line) := by
  unfold cohRecall
  grind [surrender_kept, vecClear_kept, sendTok_kept]

theorem passOn_kept {s : State} (h : Kept z s) (cl line) : Kept z (passOn s cl line) := by
  unfold passOn
  grind [surrender_kept, sendTok_kept]

theorem tokenAnswer_kept {s : State} (h : Kept z s) (n) : Kept z (tokenAnswer s n) := by
  unfold tokenAnswer
  split
  · exact h
  · have hdeliver := fun m => deliverTok_kept (s := { s with flight := s.flight.eraseIdx n }) h m
    dsimp only
    split
    · exact hdeliver _
    next =>
      refine passOn_kept ?_ _ _
      split
      · exact hdeliver _
      · exact hdeliver _

theorem cohEvict_kept {s : State} (h : Kept z s) (cl tag) : Kept z (cohEvict s cl tag) := by
  unfold cohEvict
  grind [evictLine_kept]

theorem dirtyNotice_kept {s : State} (h : Kept z s) (cl line) : Kept z (dirtyNotice s cl line) := by
  unfold dirtyNotice
  grind [Kept.tabs, Tabs.kept, State.putHome_kept]

theorem pdirtyNotice_kept {s : State} (h : Kept z s) (cl frame) : Kept z (pdirtyNotice s cl frame) := by
  unfold pdirtyNotice
  grind [Kept.tabs, Tabs.kept]

theorem dirtyWriteback_kept {s : State} (h : Kept z s) (cl line) : Kept z (dirtyWriteback s cl line) := by
  unfold dirtyWriteback
  grind [Kept.tabs, Tabs.kept, stashEvent_kept, State.putHome_kept, State.putTok_kept]

theorem persistentRequest_kept {s : State} (h : Kept z s) (cl line wr) : Kept z (persistentRequest s cl line wr) := by
  have hask : ∀ (p : Prop) [Decidable p] l, Kept z (if p then s else cohServed { askFor s cl line wr with attempts := l } line 1) :=
    fun p _ l => ite_kept h (cohServed_kept (Tabs.kept (askFor_kept h ..) ..) _ _)
  have hsend : ∀ {t}, Kept z t → Kept z (sendTok (answerWrite t (some cl) line).1 line (some cl) (answerWrite t (some cl) line).2) :=
    fun ht => sendTok_kept (answerWrite_kept ht _ _) _ _ _
  have hgive : ∀ {t}, Kept z t → Kept z (sendTok (answerRead t line).1 line (some cl) (answerRead t line).2) :=
    fun ht => sendTok_kept (answerRead_kept ht _) _ _ _
  unfold persistentRequest
  refine ite_kept h ?_
  dsimp only
  split
  · exact hask _ _
  · exact ite_kept (hask _ _) (ite_kept (hsend (hask _ _)) (ite_kept (hask _ _) (hgive (hask _ _))))

theorem classConflict_kept {s : State} (h : Kept z s) (cl va wr) : Kept z (classConflict s cl va wr) := by
  unfold classConflict
  grind [Kept.tabs, Tabs.kept, leafAt_kept, setClass_kept]

theorem censusReport_kept {s : State} (h : Kept z s) (line) : Kept z (censusReport s line) := by
  unfold censusReport
  grind [cohServed_kept, censusLine_kept]

theorem poisonSpan_kept {s : State} (h : Kept z s) (frame size) : Kept z (poisonSpan s frame size) := by
  unfold poisonSpan
  grind [Kept.tabs, Tabs.kept, foldl_kept, State.putHome_kept]

theorem cohLoss_kept {s : State} (h : Kept z s) (pkg q) : Kept z (cohLoss s pkg q) := by
  unfold cohLoss
  grind [Kept.tabs, Tabs.kept, foldl_kept, foldl_pair_kept, poisonSpan_kept]

/-- What moves the pieces of a stream keeps what every operation keeps. -/
structure Carrier.Keeps (z : State) (c : Carrier) : Prop where
  ends {s} (h : Kept z s) (o) : Kept z (c.ends s o).1
  read {s} (h : Kept z s) (va) : Kept z (c.read s va).1
  write {s} (h : Kept z s) (va bs) : Kept z (c.write s va bs).1

theorem Carrier.open_kept (c w) (hc : Carrier.Keeps z c) (hw : Kept z w.s) : Kept z (Carrier.open_ c w).s := by
  unfold Carrier.open_
  grind [Kept.tabs, Tabs.kept, Carrier.Keeps.ends]

theorem Carrier.readOne_kept (c w i) (hc : Carrier.Keeps z c) (hw : Kept z w.s) : Kept z (Carrier.readOne c w i).s := by
  unfold Carrier.readOne
  grind [Kept.tabs, Tabs.kept, Carrier.Keeps.read]

theorem Carrier.writeOne_kept (c w i) (hc : Carrier.Keeps z c) (hw : Kept z w.s) : Kept z (Carrier.writeOne c w i).s := by
  unfold Carrier.writeOne
  grind [Kept.tabs, Tabs.kept, Carrier.Keeps.write]

theorem Carrier.move_kept {s : State} (h : Kept z s) (c rd wr p) (hc : Carrier.Keeps z c) : Kept z (Carrier.move c rd wr s p).s := by
  have hopen := Carrier.open_kept c { s := s, p := p } hc h
  unfold Carrier.move
  dsimp only
  split
  · exact hopen
  · exact foldl_kept_of Went.s (fun w i hw => Carrier.writeOne_kept c w i hc hw) _
      (foldl_kept_of Went.s (fun w i hw => Carrier.readOne_kept c w i hc hw) _ hopen)

/-- What a stream does to the state outside its pieces keeps what every operation keeps. -/
structure Stream.Keeps (z : State) (x : Stream) : Prop where
  carrier : Carrier.Keeps z x.carrier
  put {s} (h : Kept z s) (f) : Kept z (x.put s f)
  refused {s} (h : Kept z s) : Kept z (x.refused s)
  failed {s} (h : Kept z s) (sub va) : Kept z (x.failed s sub va)
  land {s} (h : Kept z s) (p) : Kept z (x.land s p).1
  count {s} (h : Kept z s) (p) : Kept z (x.count s p)
  peer {s} (h : Kept z s) (p va) : Kept z (x.peer s p va)
  finish {s} (h : Kept z s) : Kept z (x.finish s)

theorem Stream.set_kept {s : State} (h : Kept z s) (x p) (hx : Stream.Keeps z x) : Kept z (Stream.set x s p) := by
  unfold Stream.set
  grind [Stream.Keeps.put]

theorem Stream.check_kept {s : State} (h : Kept z s) (x) (hx : Stream.Keeps z x) : Kept z (Stream.check x s) := by
  unfold Stream.check
  grind [Stream.Keeps.finish]

theorem Stream.fail_kept {s : State} (h : Kept z s) (x p sub dst) (hx : Stream.Keeps z x) : Kept z (Stream.fail x s p sub dst) := by
  unfold Stream.fail
  grind [Stream.check_kept, Stream.Keeps.failed, Stream.Keeps.put]

theorem Stream.turnAway_kept {s : State} (h : Kept z s) (x p hint missed) (hx : Stream.Keeps z x) : Kept z (Stream.turnAway x s p hint
    missed) := by
  unfold Stream.turnAway
  grind [Kept.tabs, Tabs.kept, Stream.Keeps.refused, Stream.set_kept, State.refuse_kept]

theorem Stream.stop_kept (x w t) (hx : Stream.Keeps z x) (hw : Kept z w.s) : Kept z (Stream.stop x w t) := by
  unfold Stream.stop
  grind [Kept.tabs, Tabs.kept, Stream.Keeps.peer, Stream.fail_kept, Stream.turnAway_kept, Stream.set_kept, holdFault_kept, recordFault_kept,
    uncount_kept]

theorem Stream.tell_kept {s : State} (h : Kept z s) (x va back n) (hx : Stream.Keeps z x) : Kept z (Stream.tell x s va back n) := by
  unfold Stream.tell
  grind [transmit_kept]

theorem Stream.send_kept {s : State} (h : Kept z s) (x) (hx : Stream.Keeps z x) : Kept z (Stream.send x s) := by
  unfold Stream.send
  grind [Kept.tabs, Tabs.kept, Stream.tell_kept, Stream.Keeps.put]

theorem Stream.head_kept {s : State} (h : Kept z s) (x) (hx : Stream.Keeps z x) : Kept z (Stream.head x s).1 := by
  unfold Stream.head
  grind [Stream.send_kept]

theorem Stream.landHead_kept {s : State} (h : Kept z s) (x) (hx : Stream.Keeps z x) : Kept z (Stream.landHead x s) := by
  have hhead := Stream.head_kept h x hx
  unfold Stream.landHead
  split
  next he => exact hhead.of_eq he
  next s1 p he =>
    have hmove := Carrier.move_kept (hhead.of_eq he) x.carrier (fun _ => true) (fun _ => true) p hx.carrier
    refine ite_kept (hhead.of_eq he) ?_
    dsimp only
    split
    · exact Stream.stop_kept x _ _ hx hmove
    · refine ite_kept (Stream.set_kept hmove x _ hx) ?_
      have hland := hx.land (Stream.set_kept hmove x (x.carrier.move (fun _ => true) (fun _ => true) s1 p).p hx)
        (x.carrier.move (fun _ => true) (fun _ => true) s1 p).p
      split
      next hl => exact Stream.stop_kept x _ _ hx (hland.of_eq hl)
      next s2 u hl =>
        have htell := Stream.tell_kept (hx.count (hland.of_eq hl) (x.carrier.move (fun _ => true) (fun _ => true) s1 p).p) x
          (x.carrier.near (x.carrier.move (fun _ => true) (fun _ => true) s1 p).p.lo) true 0 hx
        split
        · exact Stream.check_kept (hx.put htell _) x hx
        · exact htell

theorem Stream.stirPiece_kept {s : State} (h : Kept z s) (x p) (hx : Stream.Keeps z x) : Kept z (Stream.stirPiece x s p).s :=
  Carrier.move_kept h _ _ _ _ hx.carrier

theorem Stream.stir_kept {s : State} (h : Kept z s) (x) (hx : Stream.Keeps z x) : Kept z (Stream.stir x s) := by
  unfold Stream.stir
  grind [foldl_kept, Stream.send_kept, Stream.stirPiece_kept, Stream.set_kept, Stream.stop_kept]

theorem Stream.failHead_kept {s : State} (h : Kept z s) (x sub) (hx : Stream.Keeps z x) : Kept z (Stream.failHead x s sub) := by
  unfold Stream.failHead
  grind [Stream.head_kept, Stream.stirPiece_kept, Stream.Keeps.peer, Stream.fail_kept]

theorem Stream.refuseHead_kept {s : State} (h : Kept z s) (x hint) (hx : Stream.Keeps z x) : Kept z (Stream.refuseHead x s hint) := by
  unfold Stream.refuseHead
  grind [Stream.head_kept, Stream.turnAway_kept]

theorem Stream.again_kept {s : State} (h : Kept z s) (x) (hx : Stream.Keeps z x) : Kept z (Stream.again x s) := by
  unfold Stream.again
  grind [Stream.check_kept, Stream.Keeps.put]

theorem Stream.deny_kept {s : State} (h : Kept z s) (x covers) (hx : Stream.Keeps z x) : Kept z (Stream.deny x s covers) := by
  unfold Stream.deny
  grind [foldl_kept, Stream.fail_kept]

theorem fenceMet_kept {s : State} (h : Kept z s) (gk p) : Kept z (fenceMet s gk p) := by
  unfold fenceMet
  grind [Kept.tabs, Tabs.kept, fenceCache_kept, State.putGrp_kept]

end Sys2Proof.Machine
end

section
/-!
PROOFS. The copy engine keeps the tables.
-/

namespace Sys2Proof.Machine

set_option Elab.async false

variable {z : State}

theorem fenceCheck_kept {s : State} (h : Kept z s) (gk) : Kept z (fenceCheck s gk) := by
  unfold fenceCheck
  grind [foldl_kept, fenceMet_kept]

theorem batchMap_kept {s : State} (h : Kept z s) (gk num f) : Kept z (batchMap s gk num f) := by
  unfold batchMap
  grind [Kept.tabs, Tabs.kept, Tabs.put]

theorem batchDone_kept {s : State} (h : Kept z s) (gk num) : Kept z (batchDone s gk num) := by
  unfold batchDone
  grind [batchMap_kept]

theorem batchErr_kept {s : State} (h : Kept z s) (gk num sub addr) : Kept z (batchErr s gk num sub addr) := by
  unfold batchErr
  grind [batchMap_kept]

theorem State.putChan_kept {s : State} (h : Kept z s) (core c x) : Kept z (s.putChan core c x) := by
  unfold State.putChan
  grind [Kept.tabs, Tabs.kept, State.putCore_kept]

theorem startHead_kept {s : State} (h : Kept z s) (core chan) : Kept z (startHead s core chan) := by
  unfold startHead
  grind [Kept.tabs, Tabs.kept, State.putChan_kept, powerAsk_kept]

theorem copyDone_kept {s : State} (h : Kept z s) (core chan) : Kept z (copyDone s core chan) := by
  unfold copyDone
  grind [Kept.tabs, Tabs.kept, State.putChan_kept, powerEnd_kept, startHead_kept, fenceCheck_kept, batchDone_kept]

theorem dropTensor_kept {s : State} (h : Kept z s) (cl phys) : Kept z (dropTensor s cl phys) := by
  unfold dropTensor
  grind [foldl_kept, stashEvent_kept, dropLine_kept]

theorem copyRead_kept {s : State} (h : Kept z s) (core gk r n) : Kept z (copyRead s core gk r n).1 := by
  unfold copyRead
  grind [readGlobal_kept, pocRead_kept, laneRead_kept]

theorem copyWrite_kept {s : State} (h : Kept z s) (core gk seq r hint bs) : Kept z (copyWrite s core gk seq r hint bs).1 := by
  unfold copyWrite
  grind [Kept.tabs, Tabs.kept, laneWrite_kept, pocWrite_kept, xlate_kept, dropTensor_kept]

theorem copyFetch_kept {s : State} (h : Kept z s) (core j r) : Kept z (copyFetch s core j r).1 := by
  unfold copyFetch
  grind [copyRead_kept]

theorem copyPut_kept {s : State} (h : Kept z s) (core chan j r bs) : Kept z (copyPut s core chan j r bs).1 := by
  unfold copyPut
  grind [Kept.tabs, Tabs.kept, copyRead_kept, copyWrite_kept, State.noteLanded_kept]

theorem copyLand_kept {s : State} (h : Kept z s) (core chan j n) : Kept z (copyLand s core chan j n).1 := by
  unfold copyLand
  split
  · exact h
  next va _ =>
    have hread : ∀ r, Kept z (laneRead s j.grp r 0 0 16).1 := fun r => laneRead_kept h _ _ _ _ _
    dsimp only
    split
    next he => exact (hread _).of_eq he
    next s1 bs he =>
      have hwrite : ∀ r lane hint bytes, Kept z (laneWrite s1 j.grp j.seq r lane hint bytes).1 := fun r lane hint bytes =>
        laneWrite_kept ((hread _).of_eq he) _ _ _ _ _ _
      split
      next hw => exact (hwrite _ _ _ _).of_eq hw
      next hw => exact ite_kept (wakeBar_kept ((hwrite _ _ _ _).of_eq hw) _) ((hwrite _ _ _ _).of_eq hw)

theorem copyIndex_kept {s : State} (h : Kept z s) (core chan j k) : Kept z (copyIndex s core chan j k).1 := by
  unfold copyIndex
  grind [Kept.tabs, Tabs.kept, foldl_kept, foldl_pair_kept, wbLine_kept, stashEvent_kept, pocRead_kept, laneRead_kept]

theorem CopyJob.ends_kept {s : State} (h : Kept z s) (core chan j off) : Kept z (CopyJob.ends core chan j s off).1 := by
  unfold CopyJob.ends
  grind [copyIndex_kept]

theorem fenceLost_kept {s : State} (h : Kept z s) (j pkg) : Kept z (fenceLost s j pkg) := by
  unfold fenceLost
  grind [Kept.tabs, Tabs.kept, State.putGrp_kept]

theorem copyPeer_kept {s : State} (h : Kept z s) (core chan j pkg dst) : Kept z (copyPeer s core chan j pkg dst) := by
  unfold copyPeer
  grind [copyDone_kept, batchErr_kept, fenceLost_kept]

theorem putFlow_kept {s : State} (h : Kept z s) (core chan f) : Kept z (putFlow s core chan f) := by
  unfold putFlow
  grind [Kept.tabs, Tabs.kept, State.putChan_kept]

theorem copyRefused_kept {s : State} (h : Kept z s) (core chan) : Kept z (copyRefused s core chan) := by
  unfold copyRefused
  grind [Kept.tabs, Tabs.kept, State.putChan_kept]

theorem copyCount_kept {s : State} (h : Kept z s) (core chan p) : Kept z (copyCount s core chan p) := by
  unfold copyCount
  grind [Kept.tabs, Tabs.kept, State.putChan_kept]

/-- The streams of the copy engine. -/
theorem CopyJob.stream_keeps (core chan j) : Stream.Keeps z (CopyJob.stream core chan j) where
  carrier := ⟨fun h _ => CopyJob.ends_kept h .., fun h _ => copyFetch_kept h .., fun h _ _ => copyPut_kept h ..⟩
  put h _ := putFlow_kept h ..
  refused h := copyRefused_kept h ..
  failed h _ _ := batchErr_kept h ..
  land h _ := copyLand_kept h ..
  count h _ := copyCount_kept h ..
  peer h _ _ := copyPeer_kept h ..
  finish h := copyDone_kept h ..

theorem onHead_kept {s : State} (h : Kept z s) (core chan f) (hf : ∀ x s, Stream.Keeps z x → Kept z s → Kept z (f x s)) :
    Kept z (onHead s core chan f) := by
  unfold onHead
  split
  · exact hf _ _ (CopyJob.stream_keeps ..) h
  · exact h

theorem copyLandEvent_kept {s : State} (h : Kept z s) (core chan) : Kept z (copyLandEvent s core chan) := by
  unfold copyLandEvent
  grind [onHead_kept, Stream.landHead_kept]

theorem copyStir_kept {s : State} (h : Kept z s) (core chan) : Kept z (copyStir s core chan) := by
  unfold copyStir
  grind [onHead_kept, Stream.stir_kept]

theorem copyResend_kept {s : State} (h : Kept z s) (core chan) : Kept z (copyResend s core chan) := by
  unfold copyResend
  grind [onHead_kept, Stream.again_kept]

theorem denyCopy_kept {s : State} (h : Kept z s) (core chan covers) : Kept z (denyCopy s core chan covers) := by
  unfold denyCopy
  grind [onHead_kept, Stream.deny_kept]

theorem copyGranted_kept {s : State} (h : Kept z s) (dk) : Kept z (copyGranted s dk) := by
  unfold copyGranted
  grind [Kept.tabs, Tabs.kept, foldl_kept, State.putChan_kept]

theorem copyAccept_kept {s : State} (h : Kept z s) (gk core chan j) : Kept z (copyAccept s gk core chan j) := by
  unfold copyAccept
  grind [Kept.tabs, Tabs.kept, batchMap_kept, State.putChan_kept, batchDone_kept, batchErr_kept, startHead_kept]

theorem setRatom_kept {s : State} (h : Kept z s) (gk r i) : Kept z (setRatom s gk r i) := by
  unfold setRatom
  grind [Kept.tabs, Tabs.kept, Tabs.put]

theorem ratomLane_kept {s : State} (h : Kept z s) (gk r a) : Kept z (ratomLane gk r s a).1 := by
  unfold ratomLane
  grind [Kept.tabs, Tabs.kept, ownAtomic_kept, memSide_kept]

theorem ratomStop_kept {s : State} (h : Kept z s) (gk i r a x) : Kept z (ratomStop s gk i r a x) := by
  unfold ratomStop
  grind [Kept.tabs, Tabs.kept, setRatom_kept, batchErr_kept, holdFault_kept, State.refuse_kept]

theorem ratomPerform_kept {s : State} (h : Kept z s) (gk i) : Kept z (ratomPerform s gk i) := by
  unfold ratomPerform
  dsimp only
  split
  · exact h
  next r _ =>
    have heach := eachAcc_kept h (f := ratomLane gk r) (fun s a hs => ratomLane_kept hs _ _ _) r.accs
    refine ite_kept h (ite_kept h ?_)
    split
    next he => exact fenceCheck_kept (setRatom_kept (heach.of_eq he) _ _ _) _
    next he =>
      split
      · exact ratomStop_kept (heach.of_eq he) _ _ _ _ _
      · exact heach.of_eq he

theorem ratomEnd_kept {s : State} (h : Kept z s) (gk i) : Kept z (ratomEnd s gk i) := by
  unfold ratomEnd
  grind [Kept.tabs, Tabs.kept, Tabs.put, Tabs.map, batchErr_kept, transmit_kept, fenceCheck_kept, batchDone_kept]

theorem ratomRetry_kept {s : State} (h : Kept z s) (gk n) : Kept z (ratomRetry s gk n) := by
  unfold ratomRetry
  grind [Kept.tabs, Tabs.kept, ratomPerform_kept, setRatom_kept]

theorem denyRatom_kept {s : State} (h : Kept z s) (gk n covers) : Kept z (denyRatom s gk n covers) := by
  unfold denyRatom
  grind [Kept.tabs, Tabs.kept, setRatom_kept, batchErr_kept]

theorem State.putSolver_kept {s : State} (h : Kept z s) (die b x) : Kept z (s.putSolver die b x) := by
  unfold State.putSolver
  grind [Kept.tabs, Tabs.kept, State.putDie_kept]

end Sys2Proof.Machine
end

section
/-!
PROOFS. The solver engine keeps the tables.
-/

namespace Sys2Proof.Machine

set_option Elab.async false

variable {z : State}

theorem probeList_kept {s : State} (h : Kept z s) (deny r l k) : Kept z (probeList deny r l k s).1 := by
  induction l generalizing s k with
  | nil => exact h
  | cons e l ih =>
    have hx : ∀ r, Kept z (pocOpen s r).1 := fun r => pocOpen_kept h _
    unfold probeList
    split
    · exact h
    · split
      next he => exact ih ((hx _).of_eq he) _
      next he => exact (hx _).of_eq he

theorem probe_kept {s : State} (h : Kept z s) (deny r n) : Kept z (probe s deny r n).1 := by
  unfold probe
  grind [probeList_kept]

theorem solvHold_kept {s : State} (h : Kept z s) (die b r x w) : Kept z (solvHold s die b r x w) := by
  unfold solvHold
  grind [Kept.tabs, Tabs.kept, State.putSolver_kept, holdFault_kept, State.refuse_kept]

theorem solvOpen_kept {s : State} (h : Kept z s) (die b va n wr) : Kept z (solvOpen s die b va n wr).1 := by
  unfold solvOpen
  grind [Kept.tabs, Tabs.kept, probe_kept, solvHold_kept]

theorem solvRead_kept {s : State} (h : Kept z s) (die b va n) : Kept z (solvRead s die b va n).1 := by
  unfold solvRead
  grind [solvOpen_kept, pocRead_kept]

theorem solvPut_kept {s : State} (h : Kept z s) (die b va bs) : Kept z (solvPut s die b va bs) := by
  unfold solvPut
  grind [pocWrite_kept]

theorem solvWrite_kept {s : State} (h : Kept z s) (die b va bs) : Kept z (solvWrite s die b va bs).1 := by
  unfold solvWrite
  grind [solvOpen_kept, solvPut_kept]

theorem Solv.must_kept {α : Type} {r : State × Solv α} (hr : Kept z r.1) (code slot) : Kept z (Solv.must r code slot).1 := by
  unfold Solv.must
  split
  · exact hr
  · exact hr

theorem solvThen_kept {α β : Type} {r : State × Solv α} (hr : Kept z r.1) {f : State → α → State × Solv β}
    (hf : ∀ s a, Kept z s → Kept z (f s a).1) : Kept z (solvThen r f).1 := by
  obtain ⟨s, x⟩ := r
  cases x with
  | ok a => exact hf s a hr
  | _ => exact hr

/-- A fold of steps of the engine, each taken where the ones before it succeeded. -/
theorem solvFold_kept {α β : Type} {f : State → α → β → State × Solv α} (hf : ∀ s a b, Kept z s → Kept z (f s a b).1) (l : List β)
    {p : State × Solv α} (h : Kept z p.1) : Kept z (l.foldl (fun q b => solvThen q (fun s a => f s a b)) p).1 :=
  foldl_pair_kept (fun _ b hq => solvThen_kept hq fun s a hs => hf s a b hs) l h

theorem solvBar_kept {s : State} (h : Kept z s) (die b va) : Kept z (solvBar s die b va).1 :=
  solvThen_kept (Solv.must_kept (solvRead_kept h ..) ..) fun s bs hs => by
    split
    · exact hs
    · exact hs

theorem solvArrive_kept {s : State} (h : Kept z s) (die b va) : Kept z (solvArrive s die b va).1 :=
  solvThen_kept (Solv.must_kept (solvRead_kept h ..) ..) fun _ bs hs =>
    solvThen_kept (Solv.must_kept (solvOpen_kept hs ..) ..) fun _ _ ht =>
      ite_kept (wakeBar_kept (solvPut_kept ht ..) _) (solvPut_kept ht ..)

theorem readVecs_kept {s : State} (h : Kept z s) (die b n l) : Kept z (readVecs die b n l s).1 := by
  induction l generalizing s with
  | nil => exact h
  | cons va l ih => exact solvThen_kept (solvRead_kept h ..) fun _ _ hs => solvThen_kept (ih hs) fun _ _ ht => ht

theorem putSample_kept {s : State} (h : Kept z s) (die b n p) : Kept z (putSample s die b n p) := by
  unfold putSample
  grind [Kept.tabs, Tabs.kept, State.putSolver_kept]

theorem putRecord_kept {s : State} (h : Kept z s) (die b n p) : Kept z (putRecord s die b n p).1 :=
  Solv.must_kept (solvWrite_kept h ..) ..

theorem solvEnd_kept {s : State} (h : Kept z s) (die b code but) : Kept z (solvEnd s die b code but) := by
  unfold solvEnd
  grind [Kept.tabs, Tabs.kept, State.putSolver_kept]

theorem nextAttempt_kept {s : State} (h : Kept z s) (die b) : Kept z (nextAttempt s die b) := by
  unfold nextAttempt
  grind [Kept.tabs, Tabs.kept, State.putSolver_kept]

theorem doStart_kept {s : State} (h : Kept z s) (die b) : Kept z (doStart s die b).1 :=
  solvThen_kept (solvBar_kept h ..) fun _ _ hs =>
    solvThen_kept (solvBar_kept hs ..) fun _ _ ht =>
      solvThen_kept (solvFold_kept (fun _ _ _ hu => putRecord_kept hu ..) _ (State.putSolver_kept ht ..)) fun _ _ hv => nextAttempt_kept hv ..

theorem inputOne_kept {s : State} (h : Kept z s) (die b j n) : Kept z (inputOne s die b j n).1 := by
  have hput : ∀ s va bs, Kept z s → Kept z (Solv.must (solvWrite s die b va bs) 1 none).1 := fun _ _ _ hs =>
    Solv.must_kept (solvWrite_kept hs ..) ..
  refine solvThen_kept (hput _ _ _ h) fun s _ hs => ?_
  have hread : ∀ n l, Kept z (readVecs die b n l s).1 := fun _ _ => readVecs_kept hs ..
  dsimp only
  split
  · exact hput _ _ _ hs
  · split
    next he => exact hput _ _ _ ((hread _ _).of_eq he)
    next he => exact hput _ _ _ (putSample_kept ((hread _ _).of_eq he) ..)
    next he => exact (hread _ _).of_eq he
    next he => exact (hread _ _).of_eq he

theorem acted_kept {s : State} (h : Kept z s) (die) : Kept z (acted s die) := by
  unfold acted
  grind [State.bump_kept]

theorem doInput_kept {s : State} (h : Kept z s) (die b) : Kept z (doInput s die b).1 :=
  solvThen_kept (solvFold_kept (fun _ _ _ hu => inputOne_kept hu ..) _ h) fun _ _ hs =>
    solvThen_kept (Solv.must_kept (solvWrite_kept hs ..) ..) fun _ _ ht =>
      solvThen_kept (solvArrive_kept ht ..) fun _ _ hu => State.bump_kept (acted_kept (State.putSolver_kept hu ..) _) ..

theorem collectOne_kept {s : State} (h : Kept z s) (die b j n) : Kept z (collectOne s die b j n).1 := by
  refine solvThen_kept (Solv.must_kept (solvRead_kept h ..) ..) fun s bs hs => ?_
  have hwrite : ∀ va, Kept z (solvWrite s die b va bs).1 := fun _ => solvWrite_kept hs ..
  split
  · exact hs
  · split
    next he => exact putSample_kept ((hwrite _).of_eq he) ..
    · exact hwrite _

theorem doCollect_kept {s : State} (h : Kept z s) (die b) : Kept z (doCollect s die b).1 := by
  refine solvThen_kept (solvBar_kept h ..) fun s _ hs => ?_
  split
  · exact hs
  · exact solvThen_kept (solvFold_kept (fun _ _ _ hu => collectOne_kept hu ..) _ hs) fun _ _ ht => acted_kept (State.putSolver_kept ht ..) _

theorem faultSample_kept {s : State} (h : Kept z s) (die b n) : Kept z (faultSample s die b n).1 :=
  solvThen_kept (putRecord_kept h ..) fun _ _ hs => putSample_kept hs ..

theorem commitSample_kept {s : State} (h : Kept z s) (die b n accepted p' xb hist) :
    Kept z (commitSample s die b n accepted p' xb hist).1 := by
  unfold commitSample
  extract_lets x r fin
  have hfin : ∀ s, Kept z s → Kept z (fin s).1 := fun s hs =>
    solvThen_kept (Solv.must_kept (solvOpen_kept hs ..) ..) fun _ _ ht => solvPut_kept (State.bump_kept (putSample_kept
      (ite_kept (foldl_kept (fun _ _ hu => solvPut_kept hu ..) _ (solvPut_kept ht ..)) ht) ..) ..) ..
  have hprobe := probe_kept h x.deny r xb.length
  clear_value fin
  split
  · exact hfin _ h
  · split
    next he => exact faultSample_kept (ite_kept (hprobe.of_eq he) (solvPut_kept (hprobe.of_eq he) ..)) ..
    next he => exact solvHold_kept (hprobe.of_eq he) ..
    next s1 k he =>
      have hopen := solvFold_kept (f := fun s (_ : Nat) (w : Dword × List Byte) => solvOpen s die b w.1 w.2.length true)
        (fun _ _ _ hu => solvOpen_kept hu ..) hist (p := (s1, .ok 0)) (hprobe.of_eq he)
      split
      next ho => exact hfin _ (hopen.of_eq ho)
      next ho => exact faultSample_kept (solvPut_kept (hopen.of_eq ho) ..) ..
      next ho => exact hopen.of_eq ho
      next ho => exact hopen.of_eq ho

theorem decideOne_kept {s : State} (h : Kept z s) (die b n) : Kept z (decideOne s die b n).1 := by
  unfold decideOne
  grind [faultSample_kept, readVecs_kept, commitSample_kept]

theorem decideList_kept {s : State} (h : Kept z s) (die b l) : Kept z (decideList die b l s).1 := by
  induction l generalizing s with
  | nil => exact h
  | cons n l ih => exact solvThen_kept (decideOne_kept h ..) fun _ _ hs => ih (State.putSolver_kept hs ..)

theorem doDecide_kept {s : State} (h : Kept z s) (die b) : Kept z (doDecide s die b).1 :=
  solvThen_kept (decideList_kept h ..) fun _ _ hs => acted_kept (nextAttempt_kept hs ..) _

theorem soft_kept {r : State × Solv Unit} (hr : Kept z r.1) (die b) : Kept z (soft r die b).1 := by
  obtain ⟨s, x⟩ := r
  cases x with
  | stop c e => exact State.putSolver_kept hr ..
  | _ => exact hr

theorem doFinish_kept {s : State} (h : Kept z s) (die b) : Kept z (doFinish s die b).1 :=
  solvThen_kept (solvFold_kept (fun _ _ _ hu => soft_kept (putRecord_kept hu ..) ..) _ h) fun _ _ hs =>
    solvThen_kept (soft_kept (Solv.must_kept (solvWrite_kept hs ..) ..) ..) fun _ _ ht =>
      solvThen_kept (soft_kept (solvThen_kept (solvOpen_kept ht ..) fun _ _ hu => hu) ..) fun _ _ hv =>
        solvThen_kept (soft_kept (solvArrive_kept hv ..) ..) fun _ _ hw =>
          solvThen_kept (soft_kept (solvArrive_kept hw ..) ..) fun _ _ hx => acted_kept (State.putSolver_kept hx ..) _

theorem solvError_kept {s : State} (h : Kept z s) (grp b) : Kept z (solvError s grp b) := by
  unfold solvError
  grind [Kept.tabs, Tabs.kept, Tabs.put]

theorem solvCtl_kept {s : State} (h : Kept z s) (die b c grp) : Kept z (solvCtl s die b c grp) := by
  unfold solvCtl
  grind [Kept.tabs, Tabs.kept, solvError_kept, State.putSolver_kept, solvEnd_kept]

theorem solvQueued_kept {s : State} (h : Kept z s) (die b l) : Kept z (solvQueued die b l s) := by
  induction l generalizing s with
  | nil => exact h
  | cons c l ih => exact ih (solvCtl_kept h ..)

theorem solvAfter_kept (die b r) (hr : Kept z r.1) : Kept z (solvAfter die b r) := by
  unfold solvAfter
  grind [Kept.tabs, Tabs.kept, solvEnd_kept, solvQueued_kept, State.putSolver_kept]

theorem solvRun_kept {s : State} (h : Kept z s) (die b) : Kept z (solvRun s die b) := by
  unfold solvRun
  grind [Kept.tabs, Tabs.kept, State.putSolver_kept, solvAfter_kept, doStart_kept, doInput_kept, doCollect_kept, doDecide_kept,
    doFinish_kept]

theorem solvAction_kept {s : State} (h : Kept z s) (die b a) : Kept z (solvAction s die b a) := by
  unfold solvAction
  grind [solvRun_kept]

theorem solvSend_kept {s : State} (h : Kept z s) (die b c grp) : Kept z (solvSend s die b c grp) := by
  unfold solvSend
  grind [Kept.tabs, Tabs.kept, State.putSolver_kept, solvCtl_kept, solvRun_kept]

theorem retrySolver_kept {s : State} (h : Kept z s) (die b) : Kept z (retrySolver s die b) := by
  unfold retrySolver
  grind [solvRun_kept]

theorem denySolver_kept {s : State} (h : Kept z s) (die b covers) : Kept z (denySolver s die b covers) := by
  unfold denySolver
  grind [Kept.tabs, Tabs.kept, solvRun_kept, State.putSolver_kept]

theorem solvFault_kept {s : State} (h : Kept z s) (die b what) : Kept z (solvFault s die b what) := by
  unfold solvFault
  grind [Kept.tabs, Tabs.kept, putSample_kept, solvAfter_kept]

theorem solvStopLaunch_kept {s : State} (h : Kept z s) (id) : Kept z (solvStopLaunch s id) := by
  unfold solvStopLaunch
  grind [foldl_kept, solvSend_kept]

theorem confDone_kept {s : State} (h : Kept z s) (gk pid status t) : Kept z (confDone s gk pid status t) := by
  unfold confDone
  grind [Kept.tabs, Tabs.kept, Tabs.put, Tabs.map]

theorem confAccess_kept {α : Type} {s : State} (h : Kept z s) (gk pid die b addr va n wr) {f : State → State × α}
    (hf : ∀ s, Kept z s → Kept z (f s).1) : Kept z (confAccess s gk pid die b addr va n wr f).1 := by
  have hprobe : ∀ r, Kept z (probe s [] r n).1 := fun r => probe_kept h ..
  unfold confAccess
  dsimp only
  split
  next he => exact hf _ ((hprobe _).of_eq he)
  next he => exact confDone_kept ((hprobe _).of_eq he) ..
  next s1 x at_ k _ he =>
    have hout : ∀ g, Kept z { s1 with groups := s1.groups.put gk g } := fun g => Tabs.kept (Tabs.put ((hprobe _).of_eq he) _ _) ..
    split
    · exact holdFault_kept (hout _) ..
    · exact State.refuse_kept (hout _) ..
    · exact hout _

theorem confRead_kept {s : State} (h : Kept z s) (gk pid die b addr va n) : Kept z (confRead s gk pid die b addr va n).1 :=
  confAccess_kept h _ _ _ _ _ _ _ _ fun s hs => by
    have hread : ∀ r, Kept z (pocRead s r n).1 := fun r => pocRead_kept hs ..
    split
    next he => exact (hread _).of_eq he
    next he => exact (hread _).of_eq he

theorem confRecords_kept {s : State} (h : Kept z s) (gk pid die b addr x l) : Kept z (confRecords gk pid die b addr x l s).1 := by
  induction l generalizing s with
  | nil => exact h
  | cons n l ih =>
    have hread := confRead_kept h gk pid die b addr (x.recAddr n) 64
    unfold confRecords
    split
    next he => exact hread.of_eq he
    next s1 bs he =>
      have hrest : Kept z (confRecords gk pid die b addr x l s1).1 := ih (hread.of_eq he)
      split
      · exact hread.of_eq he
      · split
        next hr => rw [hr] at hrest; exact hrest
        · exact hrest

theorem confStore_kept {s : State} (h : Kept z s) (gk pid die b addr x l) : Kept z (confStore gk pid die b addr x l s).1 := by
  induction l generalizing s with
  | nil => exact h
  | cons e l ih =>
    have hacc := confAccess_kept h gk pid die b addr (x.recAddr e.1) 64 true (f := fun s =>
      ((pocWrite s (solvReq die (s.grp gk).id (x.recAddr e.1) true) (wordBytes e.2.words)).1, ())) fun s hs => pocWrite_kept hs ..
    unfold confStore
    split
    next he => exact ih (hacc.of_eq he)
    next he => exact hacc.of_eq he

theorem confRun_kept {s : State} (h : Kept z s) (gk pid) : Kept z (confRun s gk pid) := by
  unfold confRun
  dsimp only
  split
  next die b addr _ _ =>
    have hread := confRead_kept h gk pid die b addr addr 1024
    refine ite_kept (confDone_kept h ..) ?_
    split
    next he => exact hread.of_eq he
    next s1 bs he =>
      have h1 : Kept z s1 := hread.of_eq he
      have hrec := fun x l => confRecords_kept h1 gk pid die b addr x l
      refine ite_kept (confDone_kept h1 ..) (ite_kept (confDone_kept h1 ..) ?_)
      split
      next he => exact (hrec _ _).of_eq he
      next he => exact confDone_kept ((hrec _ _).of_eq he) ..
      next s2 t he =>
        have hstore := fun x => confStore_kept ((hrec _ _).of_eq he) gk pid die b addr x t
        split
        next hs => exact (hstore _).of_eq hs
        next hs => exact confDone_kept (State.putSolver_kept ((hstore _).of_eq hs) ..) ..
  · exact h

theorem denyConf_kept {s : State} (h : Kept z s) (gk pid covers) : Kept z (denyConf s gk pid covers) := by
  unfold denyConf
  grind [Kept.tabs, Tabs.kept, confDone_kept]

end Sys2Proof.Machine
end

section
/-!
PROOFS. The collective engine and the accesses of the command processor keep the tables.
-/

namespace Sys2Proof.Machine

set_option Elab.async false

variable {z : State}

theorem State.putColl_kept {s : State} (h : Kept z s) (die r x) : Kept z (s.putColl die r x) := by
  unfold State.putColl
  grind [Kept.tabs, Tabs.kept, State.putDie_kept]

theorem collOpen_kept {s : State} (h : Kept z s) (die r x va n wr) : Kept z (collOpen s die r x va n wr).1 := by
  unfold collOpen
  grind [Kept.tabs, Tabs.kept, probe_kept, State.putColl_kept, holdFault_kept, State.refuse_kept]

theorem collRead_kept {s : State} (h : Kept z s) (die r x va n) : Kept z (collRead s die r x va n).1 := by
  unfold collRead
  grind [solvThen_kept, collOpen_kept, pocRead_kept]

theorem collPut_kept {s : State} (h : Kept z s) (die x va bs) : Kept z (collPut s die x va bs) := by
  unfold collPut
  grind [pocWrite_kept]

theorem collWake_kept {s : State} (h : Kept z s) (h' id status) : Kept z (collWake s h' id status).1 := by
  unfold collWake
  grind [Kept.tabs, Tabs.kept, Tabs.map]

theorem collFinish_kept {s : State} (h : Kept z s) (die r status) : Kept z (collFinish s die r status) := by
  unfold collFinish
  grind [Kept.tabs, Tabs.kept, powerWithdraw_kept, collWake_kept, State.bump_kept, State.putDie_kept, State.putColl_kept]

theorem collPartial_kept {s : State} (h : Kept z s) (die x) : Kept z (collPartial s die x) := by
  unfold collPartial
  grind [Kept.tabs, Tabs.kept, foldl_kept, collPut_kept]

theorem collAbort_kept {s : State} (h : Kept z s) (die r status) : Kept z (collAbort s die r status) := by
  unfold collAbort
  grind [Kept.tabs, Tabs.kept, foldl_kept, collFinish_kept, collPartial_kept]

theorem collSoft_kept {α : Type} {r : State × Solv α} (hr : Kept z r.1) (die rec) {f : State → α → State}
    (hf : ∀ s a, Kept z s → Kept z (f s a)) : Kept z (collSoft r die rec f) := by
  obtain ⟨s, x⟩ := r
  cases x with
  | ok a => exact hf s a hr
  | held => exact hr
  | _ => exact collAbort_kept hr ..

theorem collReady_kept {s : State} (h : Kept z s) (die r n) : Kept z (collReady s die r n) := by
  unfold collReady
  grind [Kept.tabs, Tabs.kept, State.putColl_kept]

theorem collPower_kept {s : State} (h : Kept z s) (die r) : Kept z (collPower s die r) := by
  unfold collPower
  grind [powerAsk_kept]

theorem collStart_kept {s : State} (h : Kept z s) (d) : Kept z (collStart s d) := by
  unfold collStart
  grind [Kept.tabs, Tabs.kept, foldl_kept, State.putColl_kept, collPower_kept, collReady_kept]

theorem collEnter_kept {s : State} (h : Kept z s) (die r x) : Kept z (collEnter s die r x) := by
  unfold collEnter
  grind [Kept.tabs, Tabs.kept, collFinish_kept, State.putColl_kept, collStart_kept]

theorem collJoin_kept {s : State} (h : Kept z s) (die r) : Kept z (collJoin s die r) := by
  unfold collJoin
  split
  · exact h
  · exact ite_kept h (collSoft_kept (collRead_kept h ..) _ _ fun _ _ hs => ite_kept (collFinish_kept hs ..)
      (collSoft_kept (collRead_kept hs ..) _ _ fun _ _ ht =>
        ite_kept (collFinish_kept ht ..) (ite_kept (collFinish_kept ht ..) (collEnter_kept ht ..))))

theorem bucketReady_kept {s : State} (h : Kept z s) (die r) : Kept z (bucketReady s die r) := by
  unfold bucketReady
  split
  · exact h
  · exact ite_kept h (collSoft_kept (collRead_kept h ..) _ _ fun _ _ hs => collPower_kept (collReady_kept hs ..) ..)

theorem collMix_kept {s : State} (h : Kept z s) (die x va bs) : Kept z (collMix s die x va bs) := by
  unfold collMix
  grind [Kept.tabs, Tabs.kept, foldl_kept, collPut_kept]

theorem collFlush_kept {s : State} (h : Kept z s) (die r n) : Kept z (collFlush die r n s) := by
  induction n generalizing s with
  | zero => exact h
  | succ n ih =>
    unfold collFlush
    split
    · exact h
    · split
      · exact h
      · exact ite_kept h (collSoft_kept (collOpen_kept h ..) _ _ fun _ _ hs =>
          ih (State.putColl_kept (ite_kept (collMix_kept hs ..) (collPut_kept hs ..)) ..))

theorem collLand_kept {s : State} (h : Kept z s) (from_ seg data m) : Kept z (collLand s from_ seg data m) := by
  unfold collLand
  grind [Kept.tabs, Tabs.kept, foldl_kept, foldl_pair_kept, collFlush_kept, State.bump_kept, State.putColl_kept]

theorem segmentReceive_kept {s : State} (h : Kept z s) (linkUp die r n) : Kept z (segmentReceive s linkUp die r n) := by
  unfold segmentReceive
  split
  · exact h
  · refine ite_kept h ?_
    split
    · exact h
    · exact ite_kept h (collSoft_kept (collRead_kept h ..) _ _ fun _ _ hs => collPower_kept (foldl_kept (fun _ _ ht =>
        collLand_kept (transmit_kept ht ..) ..) _ (ite_kept (powerEnd_kept (State.bump_kept (State.putColl_kept hs ..) ..) ..)
          (State.bump_kept (State.putColl_kept hs ..) ..))) ..)

theorem collComplete_kept {s : State} (h : Kept z s) (die r) : Kept z (collComplete s die r) := by
  unfold collComplete
  split
  · exact h
  · exact ite_kept h (ite_kept (collFinish_kept h ..) (collSoft_kept (collRead_kept h ..) _ _ fun _ _ hs =>
      collSoft_kept (collOpen_kept hs ..) _ _ fun _ _ ht =>
        collFinish_kept (ite_kept (wakeBar_kept (collPut_kept ht ..) _) (collPut_kept ht ..)) ..))

theorem collAbortEvent_kept {s : State} (h : Kept z s) (die r status) : Kept z (collAbortEvent s die r status) := by
  unfold collAbortEvent
  grind [collAbort_kept]

theorem retryColl_kept {s : State} (h : Kept z s) (die r) : Kept z (retryColl s die r) := by
  unfold retryColl
  grind [Kept.tabs, Tabs.kept, collFlush_kept, State.putColl_kept]

theorem denyColl_kept {s : State} (h : Kept z s) (die r covers) : Kept z (denyColl s die r covers) := by
  unfold denyColl
  grind [collAbort_kept]

theorem cpAsk_kept {α : Type} (r n) {x : State × Acc α} (hx : Kept z x.1) : Kept z (cpAsk r n x).1 := by
  unfold cpAsk
  split
  · exact hx
  · exact hx
  · exact hx

theorem cpRead_kept {s : State} (h : Kept z s) (r n) : Kept z (cpRead s r n).1 := cpAsk_kept _ _ (pocRead_kept h ..)

theorem cpWrite_kept {s : State} (h : Kept z s) (r bs) : Kept z (cpWrite s r bs).1 := cpAsk_kept _ _ (pocWrite_kept h ..)

theorem cpWalk_kept {s : State} (h : Kept z s) (r n) : Kept z (cpWalk s r n) := by
  unfold cpWalk
  grind [foldl_kept, leafAt_kept]

theorem cpDo_kept {s : State} (h : Kept z s) (w f) (hf : ∀ s, Kept z s → Kept z (f s)) : Kept z (cpDo w f s) := by
  unfold cpDo
  grind [State.refuse_kept, cpWalk_kept]

theorem cpNum_kept {s : State} (h : Kept z s) (r n) : Kept z (cpNum s r n).1 := by
  unfold cpNum
  grind [cpRead_kept]

theorem cpUpdate_kept {s : State} (h : Kept z s) (r n f) : Kept z (cpUpdate s r n f).1 := by
  unfold cpUpdate
  grind [Kept.tabs, Tabs.kept, cpNum_kept, cpWrite_kept]

theorem fwPut_kept {s : State} (h : Kept z s) (pkg va n v) : Kept z (fwPut s pkg va n v) := by
  unfold fwPut
  grind [cpWrite_kept]

theorem State.putCtx_kept {s : State} (h : Kept z s) (pkg a c) : Kept z (s.putCtx pkg a c) := by
  unfold State.putCtx
  grind [Kept.tabs, Tabs.kept, State.putPkg_kept]

theorem putQueue_kept {s : State} (h : Kept z s) (pkg a i q) : Kept z (putQueue s pkg a i q) := by
  unfold putQueue
  grind [Kept.tabs, Tabs.kept, State.putCtx_kept, fwPut_kept]

theorem readQDesc_kept {s : State} (h : Kept z s) (pkg a i) : Kept z (readQDesc s pkg a i).1 := by
  unfold readQDesc
  grind [cpRead_kept]

theorem queueMsi_kept {s : State} (h : Kept z s) (pkg a i) : Kept z (queueMsi s pkg a i) := by
  unfold queueMsi
  grind [Kept.tabs, Tabs.kept, readQDesc_kept]

theorem queueError_kept {s : State} (h : Kept z s) (pkg a i code) : Kept z (queueError s pkg a i code) := by
  unfold queueError
  grind [Kept.tabs, Tabs.kept, queueMsi_kept, putQueue_kept]

theorem readWidx_kept {s : State} (h : Kept z s) (pkg a i) : Kept z (readWidx s pkg a i) := by
  unfold readWidx
  split
  · refine ite_kept ?_ h
    have hnum : ∀ r, Kept z (cpNum s r 4).1 := fun _ => cpNum_kept h ..
    split
    next he => exact queueError_kept ((hnum _).of_eq he) ..
    next s1 w he =>
      have hdesc := readQDesc_kept ((hnum _).of_eq he) pkg a i
      split
      next hd => exact queueError_kept (hdesc.of_eq hd) ..
      next hd => exact ite_kept (queueError_kept (hdesc.of_eq hd) ..) (ite_kept (hdesc.of_eq hd) (putQueue_kept (hdesc.of_eq hd) ..))
  · exact h

theorem startQueue_kept {s : State} (h : Kept z s) (pkg a i) : Kept z (startQueue s pkg a i) := by
  unfold startQueue
  grind [Kept.tabs, Tabs.kept, readWidx_kept, putQueue_kept]

theorem putStatus_kept {s : State} (h : Kept z s) (id code cause sub) : Kept z (putStatus s id code cause sub) := by
  unfold putStatus
  grind [fwPut_kept]

theorem takeHandle_kept {s : State} (h : Kept z s) (pkg id) : Kept z (takeHandle s pkg id).1 := by
  unfold takeHandle
  grind [cpUpdate_kept]

theorem cpBar_kept {s : State} (h : Kept z s) (r) : Kept z (cpBar s r).1 := by
  unfold cpBar
  grind [cpRead_kept]

theorem cpBarDo_kept {s : State} (h : Kept z s) (r f) : Kept z (cpBarDo s r f).1 := by
  unfold cpBarDo
  grind [Kept.tabs, Tabs.kept, cpBar_kept, cpWrite_kept, wakeBar_kept]

theorem cpArrive_kept {s : State} (h : Kept z s) (r) : Kept z (cpArrive s r).1 := by
  unfold cpArrive
  grind [cpBarDo_kept]

theorem putHub_kept {s : State} (h : Kept z s) (pkg n c) : Kept z (putHub s pkg n c) := by
  unfold putHub
  grind [Kept.tabs, Tabs.kept, State.putPkg_kept]

theorem dropHub_kept {s : State} (h : Kept z s) (pkg n) : Kept z (dropHub s pkg n) := by
  unfold dropHub
  grind [Kept.tabs, Tabs.kept, State.putPkg_kept]

theorem hubEnd_kept {s : State} (h : Kept z s) (pkg n) : Kept z (hubEnd s pkg n) := by
  unfold hubEnd
  split
  · exact h
  next c _ =>
    split
    · exact dropHub_kept h ..
    · refine cpDo_kept h _ _ fun s hs => ?_
      have hbar : ∀ r f, Kept z (cpBarDo (dropHub s pkg n) r f).1 := fun _ _ => cpBarDo_kept (dropHub_kept hs ..) ..
      grind [dropHub_kept, putQueue_kept]

theorem hubLand_kept {s : State} (h : Kept z s) (pkg c n) : Kept z (hubLand s pkg c n).1 := by
  unfold hubLand
  split
  · exact h
  · have hread : ∀ r, Kept z (pocRead s r 16).1 := fun _ => pocRead_kept h ..
    dsimp only
    split
    next he => exact (hread _).of_eq he
    next s1 bs he =>
      have hwrite : ∀ r l, Kept z (pocWrite s1 r l).1 := fun _ _ => pocWrite_kept ((hread _).of_eq he) ..
      split
      next hw => exact (hwrite _ _).of_eq hw
      next hw => exact ite_kept (wakeBar_kept ((hwrite _ _).of_eq hw) _) ((hwrite _ _).of_eq hw)

theorem putHubFlow_kept {s : State} (h : Kept z s) (pkg n f) : Kept z (putHubFlow s pkg n f) := by
  unfold putHubFlow
  grind [Kept.tabs, Tabs.kept, putHub_kept]

/-- The streams of the hub dies. -/
theorem HubCopy.stream_keeps (pkg n c) : Stream.Keeps z (HubCopy.stream pkg n c) where
  carrier := ⟨fun h _ => h, fun h _ => pocRead_kept h .., fun h _ _ => pocWrite_kept h ..⟩
  put h _ := putHubFlow_kept h ..
  refused h := h
  failed h _ _ := h
  land h _ := hubLand_kept h ..
  count h _ := h
  peer h _ _ := hubEnd_kept (putHubFlow_kept h ..) ..
  finish h := hubEnd_kept h ..

theorem onHub_kept {s : State} (h : Kept z s) (pkg n f) (hf : ∀ x s, Stream.Keeps z x → Kept z s → Kept z (f x s)) :
    Kept z (onHub s pkg n f) := by
  unfold onHub
  split
  · exact hf _ _ (HubCopy.stream_keeps ..) h
  · exact h

theorem hubStart_kept {s : State} (h : Kept z s) (pkg a i eidx dst src n bar) : Kept z (hubStart s pkg a i eidx dst src n bar) := by
  unfold hubStart
  grind [Kept.tabs, Tabs.kept, putHub_kept, State.putPkg_kept, onHub_kept, Stream.Keeps.peer]

theorem wakeHeld_kept {s : State} (h : Kept z s) (gk deny) : Kept z (wakeHeld s gk deny) := by
  unfold wakeHeld
  grind [Kept.tabs, Tabs.kept, Tabs.put]

theorem retryWaiter_kept {s : State} (h : Kept z s) (w) : Kept z (retryWaiter s w) := by
  unfold retryWaiter
  grind [retryLoad_kept, retryBurrow_kept, wakeHeld_kept, copyResend_kept, retryTile_kept, retrySolver_kept, confRun_kept, retryColl_kept,
    ratomRetry_kept, onHub_kept, Stream.again_kept]

theorem denyWaiter_kept {s : State} (h : Kept z s) (granule w) : Kept z (denyWaiter s granule w) := by
  unfold denyWaiter
  grind [denyLoad_kept, denyBurrow_kept, wakeHeld_kept, denyCopy_kept, denyTile_kept, denySolver_kept, denyConf_kept, denyColl_kept,
    denyRatom_kept, onHub_kept, Stream.deny_kept]

end Sys2Proof.Machine
end

section
/-!
PROOFS. The translation engine, PCLASS and the instructions of the collective engine keep the tables.
-/

namespace Sys2Proof.Machine

set_option Elab.async false

variable {z : State}

theorem replayDie_kept {s : State} (h : Kept z s) (dk) : Kept z (replayDie s dk) := by
  unfold replayDie
  grind [Kept.tabs, Tabs.kept, foldl_kept, retryWaiter_kept, State.putDie_kept]

theorem denyEntry_kept {s : State} (h : Kept z s) (dk e) : Kept z (denyEntry s dk e) := by
  unfold denyEntry
  grind [Kept.tabs, Tabs.kept, foldl_kept, State.putDie_kept, denyWaiter_kept]

theorem dropWaiters_kept {s : State} (h : Kept z s) (p) : Kept z (dropWaiters s p) := by
  unfold dropWaiters
  grind [Kept.tabs, Tabs.kept]

theorem resend_kept {s : State} (h : Kept z s) (n) : Kept z (resend s n) := by
  unfold resend
  grind [Kept.tabs, Tabs.kept, uncount_kept, retryWaiter_kept]

theorem mtlbRequest_kept {s : State} (h : Kept z s) (dk r) : Kept z (mtlbRequest s dk r) := by
  unfold mtlbRequest
  grind [Kept.tabs, Tabs.kept, xlate_kept, specDrop_kept, recordFault_kept, State.putDie_kept]

theorem walkComplete_kept {s : State} (h : Kept z s) (dk r) : Kept z (walkComplete s dk r) := by
  unfold walkComplete
  grind [Kept.tabs, Tabs.kept, State.putDie_kept, leafAt_kept, xlate_kept, specDrop_kept, recordFault_kept]

theorem tlbMap_kept {s : State} (h : Kept z s) (pkg asid va entry tier back bdie) : Kept z (tlbMap s pkg asid va entry tier back bdie).1 := by
  have hinv : ∀ n, Kept z (invSpan s pkg asid va n) := fun _ => invSpan_kept h ..
  unfold tlbMap
  extract_lets ctl e root
  clear_value ctl root
  split
  · exact h
  · split
    · exact h
    · split
      · exact h
      · split
        · exact h
        · exact State.wr64_kept (ite_kept (hinv _) h) ..

theorem tlbInv_kept {s : State} (h : Kept z s) (pkg asid va) : Kept z (tlbInv s pkg asid va) := by
  unfold tlbInv
  grind [invSpan_kept]

theorem tlbInvAsid_kept {s : State} (h : Kept z s) (pkg asid) : Kept z (tlbInvAsid s pkg asid) := by
  unfold tlbInvAsid
  grind [foldl_kept, removeLines_kept, State.putDie_kept]

theorem tlbAll_kept {s : State} (h : Kept z s) (pkg) : Kept z (tlbAll s pkg) := by
  unfold tlbAll
  grind [Kept.tabs, Tabs.kept, foldl_kept, removeLines_kept, State.putDie_kept]

theorem tlbMove_kept {s : State} (h : Kept z s) (pkg asid va) : Kept z (tlbMove s pkg asid va) := by
  unfold tlbMove
  grind [invSpan_kept, State.wr64_kept]

theorem tlbNewgen_kept {s : State} (h : Kept z s) (pkg asid) : Kept z (tlbNewgen s pkg asid).1 := by
  unfold tlbNewgen
  grind [Kept.tabs, Tabs.kept, foldl_kept, foldl_pair_kept, stashEvent_kept, wbLine_kept, State.putAsid_kept]

theorem mscRequest_kept {s : State} (h : Kept z s) (dk gk i) : Kept z (mscRequest s dk gk i) := by
  unfold mscRequest
  grind [ratomPerform_kept]

theorem classLeaf_kept {s : State} (h : Kept z s) (gk va wr) : Kept z (classLeaf s gk va wr).1 := by
  unfold classLeaf
  grind [Kept.tabs, Tabs.kept, leafAt_kept]

theorem pclass_kept {s : State} (h : Kept z s) (wr waits run ck sh o) (hrun : ∀ s x1 x2 x3, Kept z s → Kept z (run s x1 x2 x3).1) :
    OutKept z (pclass wr waits run ck sh o s) := by
  unfold pclass
  grind [Kept.tabs, Tabs.kept, ResKept.ok, ResKept.trap, ResKept.hold, OutKept.next, OutKept.fault, trapOf, issueC_kept, State.putG_kept,
    classLeaf_kept, holdFault_kept, State.refuse_kept, okPend_kept]

theorem classWord_kept {s : State} (h : Kept z s) (_g va e) : Kept z (classWord s _g va e).1 := by
  unfold classWord
  grind []

theorem classSet_kept {s : State} (h : Kept z s) (cls g va e) : Kept z (classSet cls s g va e).1 := by
  unfold classSet
  grind [setClass_kept]

theorem classHint_kept {s : State} (h : Kept z s) (cls g va e) : Kept z (classHint cls s g va e).1 := by
  unfold classHint
  grind [classSet_kept]

theorem lineWord_kept {s : State} (h : Kept z s) (g va e) : Kept z (lineWord s g va e).1 := by
  unfold lineWord
  grind []

theorem lineClear_kept {s : State} (h : Kept z s) (g va e) : Kept z (lineClear s g va e).1 := by
  unfold lineClear
  grind [Kept.tabs, Tabs.kept, setAD_kept, pocLine_kept, physWrite_kept, State.putHome_kept]

theorem pclassClear_kept {s : State} (h : Kept z s) (ck sh o) : OutKept z (pclassClear ck sh o s) := by
  unfold pclassClear
  grind [Kept.tabs, Tabs.kept, ResKept.ok, ResKept.trap, ResKept.hold, OutKept.next, OutKept.fault, trapOf, pclass_kept, lineClear_kept]

theorem pclassSet_kept {s : State} (h : Kept z s) (ck sh o) : OutKept z (pclassSet ck sh o s) := by
  unfold pclassSet
  grind [ResKept.ok, ResKept.trap, ResKept.hold, OutKept.next, OutKept.fault, trapOf, pclass_kept, classSet_kept]

theorem pclassHint_kept {s : State} (h : Kept z s) (ck sh o) : OutKept z (pclassHint ck sh o s) := by
  unfold pclassHint
  grind [ResKept.ok, ResKept.trap, ResKept.hold, OutKept.next, OutKept.fault, trapOf, pclass_kept, classHint_kept]

theorem coll_kept {s : State} (h : Kept z s) (ck sh o) : OutKept z (coll ck sh o s) := by
  refine issueC_kept h _ _ _ _ fun s g hs => ?_
  dsimp only
  split
  · exact ResKept.trap _
  · refine relReady_kept hs _ _ _ fun s g hs => ?_
    refine ResKept.ite (okOuts_kept hs _ _) ?_
    have hopen : ∀ r, Kept z (pocOpen (s.putG g) r).1 := fun _ => pocOpen_kept (State.putG_kept hs _) ..
    split
    · exact ResKept.trap _
    next he => exact ResKept.ok (holdFault_kept ((hopen _).of_eq he) ..)
    next he => exact ResKept.ok (State.refuse_kept ((hopen _).of_eq he) ..)
    · exact ResKept.hold _
    next he =>
      split
      · exact ResKept.hold _
      · exact okOuts_kept (State.putColl_kept (State.putDie_kept (wbTensor_kept ((hopen _).of_eq he) _) ..) ..) _ _

theorem collw_kept {s : State} (h : Kept z s) (test ck sh o) : OutKept z (collw test ck sh o s) := by
  unfold collw
  grind [Kept.tabs, Tabs.kept, ResKept.ok, ResKept.trap, ResKept.hold, OutKept.next, OutKept.fault, trapOf, issueC_kept, okPend_kept,
    State.putDie_kept]

theorem carbSet_kept {s : State} (h : Kept z s) (ck sh o) : OutKept z (carbSet ck sh o s) := by
  unfold carbSet
  grind [Kept.tabs, Tabs.kept, foldl_kept, ResKept.ok, ResKept.trap, ResKept.hold, OutKept.next, OutKept.fault, trapOf, issueC_kept,
    okOuts_kept]

theorem carbGet_kept {s : State} (h : Kept z s) (ck sh o) : OutKept z (carbGet ck sh o s) := by
  unfold carbGet
  grind [ResKept.ok, ResKept.trap, ResKept.hold, OutKept.next, OutKept.fault, trapOf, issueC_kept, okOuts_kept]

end Sys2Proof.Machine
end

section
/-!
PROOFS. The dispatcher keeps the tables.
-/

namespace Sys2Proof.Machine

set_option Elab.async false

variable {z : State}

theorem bumpCp_kept {s : State} (h : Kept z s) (pkg n) : Kept z (bumpCp s pkg n) := by
  unfold bumpCp
  grind [State.bump_kept]

theorem arriveDone_kept {s : State} (h : Kept z s) (id done) : Kept z (arriveDone s id done).1 := by
  unfold arriveDone
  grind [cpArrive_kept]

theorem rejectLaunch_kept {s : State} (h : Kept z s) (pkg id done) : Kept z (rejectLaunch s pkg id done) := by
  unfold rejectLaunch
  grind [bumpCp_kept, putStatus_kept, arriveDone_kept]

theorem acceptLaunch_kept {s : State} (h : Kept z s) (pkg addr id parent seen) : Kept z (acceptLaunch s pkg addr id parent seen).1 := by
  unfold acceptLaunch
  split
  · exact h
  · have hread : ∀ r, Kept z (cpRead s r 256).1 := fun _ => cpRead_kept h ..
    split
    next he => exact rejectLaunch_kept ((hread _).of_eq he) ..
    next s1 bs he =>
      have hput : ∀ l n, Kept z { s1 with launches := l, nextKey := n } := fun _ _ => Tabs.kept ((hread _).of_eq he) ..
      extract_lets n r members takers
      clear_value n r
      split
      · exact bumpCp_kept (putStatus_kept (hput _ _) ..) ..
      · exact rejectLaunch_kept ((hread _).of_eq he) ..

theorem freeColls_kept {s : State} (h : Kept z s) (gk) : Kept z (freeColls s gk) := by
  unfold freeColls
  grind [Kept.tabs, Tabs.kept]

theorem freeSlot_kept {s : State} (h : Kept z s) (g) : Kept z (freeSlot s g) := by
  unfold freeSlot
  grind [Kept.tabs, Tabs.kept, State.putQuarter_kept]

theorem removeGroup_kept {s : State} (h : Kept z s) (gk) : Kept z (removeGroup s gk) := by
  have hfree : ∀ (p : Prop) [Decidable p] g, Kept z (dropWaiters (freeColls (if p then freeSlot s g else s) gk) (fun w => w.ofGroup gk)) :=
    fun p _ g => dropWaiters_kept (freeColls_kept (ite_kept (freeSlot_kept h g) h) gk) _
  unfold removeGroup
  split
  · exact h
  · exact Tabs.kept (Tabs.del (State.putCohort_kept (Tabs.kept (hfree _ _) ..) ..) gk) ..

theorem dropStash_kept {s : State} (h : Kept z s) (c) : Kept z (dropStash s c) := by
  unfold dropStash
  grind [foldl_kept, stashDrop_kept]

theorem endCohort_kept {s : State} (h : Kept z s) (ck) : Kept z (endCohort s ck) := by
  unfold endCohort
  grind [Kept.tabs, Tabs.kept, bumpCp_kept, dropStash_kept]

theorem settleEngines_kept {s : State} (h : Kept z s) (id) : Kept z (settleEngines s id) := by
  unfold settleEngines
  grind [foldl_kept, solvStopLaunch_kept, collAbort_kept]

theorem dropTile_kept {s : State} (h : Kept z s) (core gk) : Kept z (dropTile s core gk) := by
  unfold dropTile
  grind [Kept.tabs, Tabs.kept, foldl_kept, powerWithdraw_kept, dropWaiters_kept, State.putTile_kept]

theorem dropCopies_kept {s : State} (h : Kept z s) (core gk) : Kept z (dropCopies s core gk) := by
  unfold dropCopies
  grind [Kept.tabs, Tabs.kept, foldl_kept, dropWaiters_kept, powerWithdraw_kept, startHead_kept, State.putChan_kept]

theorem discardCohort_kept {s : State} (h : Kept z s) (ck) : Kept z (discardCohort s ck) := by
  unfold discardCohort
  grind [Kept.tabs, Tabs.kept, foldl_kept, dropTile_kept, State.putCore_kept, removeGroup_kept, dropCopies_kept, endCohort_kept]

theorem finishLaunch_kept {s : State} (h : Kept z s) (lk l code cause sub) : Kept z (finishLaunch s lk l code cause sub) := by
  unfold finishLaunch
  grind [Kept.tabs, Tabs.kept, putStatus_kept, arriveDone_kept]

theorem launchCheck_kept {s : State} (h : Kept z s) (lk) : Kept z (launchCheck s lk) := by
  unfold launchCheck
  grind [Kept.tabs, Tabs.kept, foldl_kept, Tabs.del, cpDo_kept, finishLaunch_kept, discardCohort_kept]

theorem launchFail_kept {s : State} (h : Kept z s) (lk cause sub) : Kept z (launchFail s lk cause sub) := by
  unfold launchFail
  grind [Kept.tabs, Tabs.kept, launchCheck_kept, settleEngines_kept]

theorem reap_kept {s : State} (h : Kept z s) (gk) : Kept z (reap s gk) := by
  unfold reap
  split
  · exact h
  next g _ =>
    have hrel := plRelease_kept h g.core
    have hlaunch : ∀ l, Kept z { plRelease s g.core with launches := l } := fun _ => Tabs.kept hrel ..
    dsimp only
    refine ite_kept h ?_
    split
    · exact ite_kept (launchCheck_kept (endCohort_kept (removeGroup_kept (hlaunch _) gk) _) _) (removeGroup_kept (hlaunch _) gk)
    · exact ite_kept (launchCheck_kept (endCohort_kept (removeGroup_kept hrel gk) _) _) (removeGroup_kept hrel gk)

theorem seat_kept {s : State} (h : Kept z s) (core gk g) : Kept z (seat s core gk g) := by
  unfold seat
  grind [Kept.tabs, Tabs.kept, Tabs.put]

theorem clearBlock_kept {s : State} (h : Kept z s) (gk) : Kept z (clearBlock s gk) := by
  unfold clearBlock
  grind [Kept.tabs, Tabs.kept, foldl_kept, clearPriv_kept]

theorem install_kept {s : State} (h : Kept z s) (lk l k unit ck core mates cores) : Kept z (install s lk l k unit ck core mates cores) :=
    by
  unfold install
  grind [Kept.tabs, Tabs.kept, foldl_kept, Tabs.put, Tabs.map, State.putTile_kept, State.putChan_kept, clearBlock_kept, seat_kept]

theorem countStart_kept {s : State} (h : Kept z s) (dk n) : Kept z (countStart s dk n) := by
  unfold countStart
  grind [Kept.tabs, Tabs.kept, foldl_kept, State.putPkg_kept, bumpCp_kept]

theorem beginCohort_kept {s : State} (h : Kept z s) (ck) : Kept z (beginCohort s ck) := by
  unfold beginCohort
  grind [Kept.tabs, Tabs.kept, foldl_kept, countStart_kept]

theorem startUnit_kept {s : State} (h : Kept z s) (lk l pkg k cores) : Kept z (startUnit s lk l pkg k cores) := by
  unfold startUnit
  grind [Kept.tabs, Tabs.kept, foldl_kept, install_kept]

theorem placeNext_kept {s t : State} (h : Kept z s) {lk pkg shut} (he : placeNext s lk pkg shut = some t) : Kept z t := by
  unfold placeNext at he
  split at he
  · cases he
  · dsimp only at he
    split at he
    · cases he
    · split at he
      · cases he
      · split at he
        · cases he
        · cases he
          exact startUnit_kept h ..

theorem placeAll_kept {s : State} (h : Kept z s) (lk pkg shut n) : Kept z (placeAll lk pkg shut n s) := by
  induction n generalizing s with
  | zero => exact h
  | succ n ih =>
    unfold placeAll
    split
    · exact h
    next he => exact ih (placeNext_kept h he)

theorem stopChans_kept {s : State} (h : Kept z s) (c) : Kept z (stopChans s c) := by
  unfold stopChans
  grind [Kept.tabs, Tabs.kept, foldl_kept, powerWithdraw_kept, State.putChan_kept]

theorem withdrawTile_kept {s : State} (h : Kept z s) (core) : Kept z (withdrawTile s core) := by
  unfold withdrawTile
  grind [foldl_kept, powerWithdraw_kept]

theorem saveGroup_kept {s : State} (h : Kept z s) (gk) : Kept z (saveGroup s gk) := by
  unfold saveGroup
  grind [Kept.tabs, Tabs.kept, Tabs.put, freeSlot_kept, dropWaiters_kept]

theorem saveWrite_kept {s : State} (h : Kept z s) (c va bs) : Kept z (saveWrite s c va bs) := by
  unfold saveWrite
  grind [pocWrite_kept]

theorem saveImage_kept {s : State} (h : Kept z s) (c ck) : Kept z (saveImage s c ck) := by
  unfold saveImage
  grind [foldl_kept, Tabs.map, saveWrite_kept]

theorem saveCohort_kept {s : State} (h : Kept z s) (ck why) : Kept z (saveCohort s ck why) := by
  unfold saveCohort
  split
  · exact h
  next c _ =>
    have himage : Kept z (saveImage (invTensor (wbTensor (dropStash (c.groups.foldl saveGroup (plRelease s c.core)) c) (clusterOf c.core))
        (clusterOf c.core)) c ck) :=
      saveImage_kept (invTensor_kept (wbTensor_kept (dropStash_kept (foldl_kept (fun _ _ hs => saveGroup_kept hs _) _ (plRelease_kept h _)) _) _)
        _) ..
    dsimp only
    generalize saveImage _ c ck = t at himage ⊢
    have htile : ∀ (p : Prop) [Decidable p] (l : List TileJob) y, Kept z (if p then t else
        (l.foldl (fun s j => powerWithdraw s (dieOfCore c.core) (.tile c.core j.num)) t).putTile c.core y) :=
      fun p _ l y => ite_kept himage (State.putTile_kept (foldl_kept (fun _ _ hs => powerWithdraw_kept hs ..) _ himage) ..)
    have hchans : ∀ {u}, Kept z u → Kept z (c.chans.foldl (fun s i =>
        (powerWithdraw s (dieOfCore c.core) (.copy c.core i)).putChan c.core i {}) u) :=
      fun hu => foldl_kept (fun _ _ hs => State.putChan_kept (powerWithdraw_kept hs ..) ..) _ hu
    have hu := hchans (htile (c.macros.isEmpty = true) (t.tile c.core).jobs { next := (t.tile c.core).next })
    generalize c.chans.foldl _ _ = u at hu ⊢
    have hout : ∀ co sa, Kept z { u with cohorts := co, saved := sa } := fun _ _ => Tabs.kept hu ..
    exact ite_kept (bumpCp_kept (hout _ _) ..) (bumpCp_kept (bumpCp_kept (hout _ _) ..) ..)

theorem stopCohort_kept {s : State} (h : Kept z s) (ck) : Kept z (stopCohort s ck) := by
  unfold stopCohort
  grind [Kept.tabs, Tabs.kept, withdrawTile_kept, stopChans_kept]

theorem preempt_kept {s : State} (h : Kept z s) (ck why) : Kept z (preempt s ck why) := by
  unfold preempt
  split
  · exact h
  next c _ =>
    split
    · exact h
    · have hstop : Kept z (c.groups.foldl commAll (stopCohort s ck)) := foldl_kept (fun _ _ hs => commAll_kept hs _) _ (stopCohort_kept h _)
      refine ite_kept h ?_
      dsimp only
      split
      · exact hstop
      · exact ite_kept (saveCohort_kept hstop ..) hstop

theorem wakes_kept {s : State} (h : Kept z s) (x) : Kept z (wakes s x).1 := by
  unfold wakes
  grind [foldl_kept, foldl_pair_kept, cpBar_kept]

theorem restoreOne_kept {s : State} (h : Kept z s) (ck core cores) : Kept z (restoreOne s ck core cores) := by
  unfold restoreOne
  split
  · exact h
  next x _ =>
    have hput : ∀ sa co n, Kept z { s with saved := sa, cohorts := co, nextKey := n } := fun _ _ _ => Tabs.kept h ..
    have hseat : ∀ {t : State} (l : List Nat), Kept z t → Kept z (l.foldl (fun s gk => seat s core gk (s.grp gk)) t) :=
      fun l ht => foldl_kept (fun _ _ hs => seat_kept hs ..) l ht
    have hchan : ∀ {t : State} (l : List (Nat × Chan)), Kept z t → Kept z (l.foldl (fun s e => startHead (s.putChan core e.1 e.2) core e.1) t) :=
      fun l ht => foldl_kept (fun _ _ hs => startHead_kept (State.putChan_kept hs ..) ..) l ht
    have hload : ∀ {t : State} (l : List Nat), Kept z t → Kept z (l.foldl (fun s gk =>
        ((s.grp gk).pend.filter (fun p => p.mop.isSome)).foldl (fun s p => retryLoad s gk p.id) s) t) :=
      fun l ht => foldl_kept (fun _ _ hs => foldl_kept (fun _ _ hu => retryLoad_kept hu ..) _ hs) l ht
    dsimp only
    refine hload _ (hchan _ (hseat _ ?_))
    split
    · exact hput _ _ _
    · exact foldl_kept (fun _ _ hs => ite_kept hs (powerAsk_kept hs ..)) _ (State.putTile_kept (hput _ _ _) ..)

theorem restore_kept {s : State} (h : Kept z s) (ck core) : Kept z (restore s ck core) := by
  unfold restore
  grind [foldl_kept, foldl_pair_kept, Tabs.map, wakes_kept, restoreOne_kept]

theorem swapOut_kept {s : State} (h : Kept z s) (pkg) : Kept z (swapOut s pkg) := by
  unfold swapOut
  grind [foldl_kept, preempt_kept]

theorem without_kept {s : State} (h : Kept z s) (ks) : Kept z (without s ks) := h

theorem makeRoom_kept {s : State} (h : Kept z s) (pkg lk) : Kept z (makeRoom s pkg lk) := by
  unfold makeRoom
  grind [foldl_kept, stopCohort_kept]

theorem serveLaunch_kept {s : State} (h : Kept z s) (pkg before e) : Kept z (serveLaunch pkg before e s) := by
  unfold serveLaunch
  grind [Kept.tabs, Tabs.kept, placeAll_kept, makeRoom_kept]

theorem serveAll_kept {s : State} (h : Kept z s) (pkg before l) : Kept z (serveAll pkg before l s) := by
  induction l generalizing s before with
  | nil =>
    unfold serveAll
    exact h
  | cons e l ih =>
    unfold serveAll
    exact ih (serveLaunch_kept h ..) _

theorem rampStep_kept {s : State} (h : Kept z s) (pkg) : Kept z (rampStep s pkg) := by
  unfold rampStep
  grind [Kept.tabs, Tabs.kept, foldl_kept, State.putPkg_kept, swapOut_kept, launchCheck_kept, serveAll_kept]

end Sys2Proof.Machine
end

section
/-!
PROOFS. What the command processor serves keeps the tables.
-/

namespace Sys2Proof.Machine

set_option Elab.async false

variable {z : State}

theorem sendGang_kept {s : State} (h : Kept z s) (src dest w) : Kept z (sendGang s src dest w) := by
  unfold sendGang
  grind [Kept.tabs, Tabs.kept, transmit_kept]

theorem proposeAll_kept {s : State} (h : Kept z s) (pkg slice again queue) : Kept z (proposeAll s pkg slice again queue) := by
  unfold proposeAll
  grind [Kept.tabs, Tabs.kept, foldl_kept, foldl_pair_kept, State.putPkg_kept, sendGang_kept]

theorem gangPropose_kept {s : State} (h : Kept z s) (n) : Kept z (gangPropose s n) := by
  have herase : ∀ l, Kept z { s with gmsgs := l } := fun _ => Tabs.kept h ..
  unfold gangPropose
  split
  · exact h
  · split
    · dsimp only
      split
      · exact ite_kept (sendGang_kept (herase _) ..) (foldl_kept (fun _ _ hs => stopCohort_kept hs _) _ (State.putPkg_kept (herase _) ..))
      · exact herase _
      · exact sendGang_kept (herase _) ..
    · exact h

theorem gangSaved_kept {s : State} (h : Kept z s) (pkg) : Kept z (gangSaved s pkg) := by
  unfold gangSaved
  grind [Kept.tabs, Tabs.kept, sendGang_kept, State.putPkg_kept]

theorem gangCommit_kept {s : State} (h : Kept z s) (n) : Kept z (gangCommit s n) := by
  have herase : ∀ l, Kept z { s with gmsgs := l } := fun _ => Tabs.kept h ..
  unfold gangCommit
  split
  · exact h
  · split
    · dsimp only
      split
      · exact ite_kept (State.putPkg_kept (herase _) ..) (herase _)
      · exact herase _
    · exact h

theorem beginReset_kept {s : State} (h : Kept z s) (pkg a i w) : Kept z (beginReset s pkg a i w) := by
  unfold beginReset
  grind [Kept.tabs, Tabs.kept, putQueue_kept]

theorem pktSignal_kept {s : State} (h : Kept z s) (pkg a i n) : Kept z (pktSignal s pkg a i n).1 := by
  unfold pktSignal
  grind [cpUpdate_kept, cpWrite_kept]

theorem pktWait_kept {s : State} (h : Kept z s) (pkg a i n) : Kept z (pktWait s pkg a i n).1 := by
  unfold pktWait
  grind [cpNum_kept]

theorem pktBarrier_kept {s : State} (h : Kept z s) (pkg a i n) : Kept z (pktBarrier s pkg a i n).1 := by
  unfold pktBarrier
  grind [foldl_kept, foldl_pair_kept, cpBar_kept]

theorem pktLaunch_kept {s : State} (h : Kept z s) (pkg a i n) : Kept z (pktLaunch s pkg a i n).1 := by
  unfold pktLaunch
  grind [Kept.tabs, Tabs.kept, takeHandle_kept, acceptLaunch_kept, putStatus_kept]

theorem packetDo_kept {s : State} (h : Kept z s) (pkg a i n) : Kept z (packetDo s pkg a i n).1 := by
  unfold packetDo
  grind [pktLaunch_kept, hubStart_kept, pktSignal_kept, pktWait_kept, pktBarrier_kept, beginReset_kept, owlTrigger_kept, proposeAll_kept]

theorem headPacket_kept {s : State} (h : Kept z s) (pkg a i q) : Kept z (headPacket s pkg a i q).1 := by
  unfold headPacket
  grind [readQDesc_kept, cpNum_kept]

theorem consume_kept {s : State} (h : Kept z s) (pkg a i at_ n result) : Kept z (consume s pkg a i at_ n result) := by
  unfold consume
  grind [Kept.tabs, Tabs.kept, cpWrite_kept, queueError_kept, putQueue_kept, bumpCp_kept, queueMsi_kept]

theorem packetEnd_kept {s : State} (h : Kept z s) (pkg a i at_ n r) : Kept z (packetEnd s pkg a i at_ n r) := by
  unfold packetEnd
  grind [Kept.tabs, Tabs.kept, consume_kept, putQueue_kept, cpWrite_kept, queueError_kept]

theorem packetEvent_kept {s : State} (h : Kept z s) (pkg a i kind) : Kept z (packetEvent s pkg a i kind) := by
  unfold packetEvent
  grind [headPacket_kept, queueError_kept, packetDo_kept, packetEnd_kept]

theorem consumeHead_kept {s : State} (h : Kept z s) (pkg a i) : Kept z (consumeHead s pkg a i) := by
  unfold consumeHead
  grind [headPacket_kept, queueError_kept, consume_kept]

theorem switchEnd_kept {s : State} (h : Kept z s) (pkg a i) : Kept z (switchEnd s pkg a i) := by
  unfold switchEnd
  grind [Kept.tabs, Tabs.kept, consumeHead_kept, State.putPkg_kept]

theorem waitMet_kept {s : State} (h : Kept z s) (pkg a i) : Kept z (waitMet s pkg a i) := by
  unfold waitMet
  grind [switchEnd_kept, headPacket_kept, queueError_kept, packetDo_kept, packetEnd_kept]

theorem gangReady_kept {s : State} (h : Kept z s) (pkg) : Kept z (gangReady s pkg) := by
  have hsend : ∀ w (l : List Nat), Kept z (l.foldl (fun s m => sendGang s pkg m w) s) := fun w l =>
    foldl_kept (fun _ _ hs => sendGang_kept hs ..) l h
  unfold gangReady
  split
  · exact h
  · refine ite_kept ?_ h
    dsimp only
    split
    · exact cpDo_kept (State.putPkg_kept (hsend _ _) ..) _ _ fun _ hs => switchEnd_kept hs ..
    · exact State.putPkg_kept (hsend _ _) ..

theorem gangAck_kept {s : State} (h : Kept z s) (n) : Kept z (gangAck s n) := by
  have herase : ∀ l, Kept z { s with gmsgs := l } := fun _ => Tabs.kept h ..
  unfold gangAck
  split
  · exact h
  · split
    · dsimp only
      split
      · exact ite_kept (gangReady_kept (State.putPkg_kept (herase _) ..) _) (herase _)
      · exact herase _
    · exact h

theorem State.putSlotReq_kept {s : State} (h : Kept z s) (pkg n r begun) : Kept z (s.putSlotReq pkg n r begun) := by
  unfold State.putSlotReq
  grind [Kept.tabs, Tabs.kept, State.putPkg_kept]

theorem ticket_kept {s : State} (h : Kept z s) (pkg n) : Kept z (ticket s pkg n) := by
  have hnum : ∀ r, Kept z (cpNum s r 0x84).1 := fun _ => cpNum_kept h ..
  unfold ticket
  refine ite_kept h ?_
  split
  next he => exact (hnum _).of_eq he
  next he => exact ite_kept ((hnum _).of_eq he) (State.putSlotReq_kept ((hnum _).of_eq he) ..)

theorem answer_kept {s : State} (h : Kept z s) (pkg n status result) : Kept z (answer s pkg n status result) := by
  unfold answer
  grind [fwPut_kept, State.putSlotReq_kept]

theorem winCmd_kept {s : State} (h : Kept z s) (pkg n opc f) (hf : ∀ x0, Kept z (f x0)) : Kept z (winCmd s pkg n opc f) := by
  unfold winCmd
  grind []

theorem openQueues_kept {s : State} (h : Kept z s) (pkg a c n) : Kept z (openQueues pkg a c n s).1 := by
  induction n with
  | zero => exact h
  | succ n ih =>
    unfold openQueues
    split
    next he => exact ih.of_eq he
    next s1 he =>
      have hnum : ∀ r, Kept z (cpNum s1 r 4).1 := fun _ => cpNum_kept (ih.of_eq he) ..
      split
      next hn => exact (hnum _).of_eq hn
      next hn => exact putQueue_kept ((hnum _).of_eq hn) ..

theorem ctxReg_kept {s : State} (h : Kept z s) (pkg slot r) : Kept z (ctxReg s pkg slot r) := by
  unfold ctxReg
  grind [Kept.tabs, Tabs.kept, answer_kept, cpNum_kept, openQueues_kept, State.putCtx_kept, State.putPkg_kept]

theorem ctxDereg_kept {s : State} (h : Kept z s) (pkg slot r) : Kept z (ctxDereg s pkg slot r) := by
  unfold ctxDereg
  grind [Kept.tabs, Tabs.kept, answer_kept, State.putPkg_kept]

theorem queueCmd_kept {s : State} (h : Kept z s) (pkg slot r f) (hf : ∀ x0 x1, Kept z (f x0 x1)) : Kept z (queueCmd s pkg slot r f) := by
  unfold queueCmd
  grind [answer_kept]

theorem qstart_kept {s : State} (h : Kept z s) (pkg slot r) : Kept z (qstart s pkg slot r) := by
  unfold qstart
  grind [queueCmd_kept, answer_kept, startQueue_kept]

theorem qresetCmd_kept {s : State} (h : Kept z s) (pkg slot r) : Kept z (qresetCmd s pkg slot r) := by
  unfold qresetCmd
  grind [queueCmd_kept, State.putSlotReq_kept, beginReset_kept]

theorem queueLaunch_kept {s : State} (h : Kept z s) (gk va) : Kept z (queueLaunch s gk va).1 := by
  have htake : ∀ pkg id, Kept z (takeHandle s pkg id).1 := fun _ _ => takeHandle_kept h ..
  unfold queueLaunch
  dsimp only
  split
  next he => exact (htake _ _).of_eq he
  next s1 w he =>
    have h1 : Kept z s1 := (htake _ _).of_eq he
    split
    · exact putStatus_kept (State.putCore_kept h1 ..) ..
    · split
      · exact h1
      · have hnum : ∀ r, Kept z (cpNum s1 r 8).1 := fun _ => cpNum_kept h1 ..
        split
        next hn => exact (hnum _).of_eq hn
        next s2 v hn =>
          split
          · exact (hnum _).of_eq hn
          · have hwrite : ∀ r l, Kept z (cpWrite s2 r l).1 := fun _ _ => cpWrite_kept ((hnum _).of_eq hn) ..
            split
            next hw => exact (hwrite _ _).of_eq hw
            next hw => exact putStatus_kept (State.putPkg_kept (fwPut_kept ((hwrite _ _).of_eq hw) ..) ..) ..

theorem oridx_kept {s : State} (h : Kept z s) (id) : Kept z (oridx s id) := by
  unfold oridx
  grind [cpUpdate_kept]

theorem pendingTake_kept {s : State} (h : Kept z s) (core) : Kept z (pendingTake s core) := by
  unfold pendingTake
  grind [Kept.tabs, Tabs.kept, foldl_kept, State.putCore_kept, State.putPkg_kept, oridx_kept]

theorem launchAccept_kept {s : State} (h : Kept z s) (pkg n) : Kept z (launchAccept s pkg n) := by
  unfold launchAccept
  split
  · exact h
  next e _ =>
    refine ite_kept h ?_
    have hacc : ∀ p id, Kept z (acceptLaunch (s.putPkg pkg p) pkg e.addr id e.parent.handle e.seen).1 := fun _ _ =>
      acceptLaunch_kept (State.putPkg_kept h ..) ..
    dsimp only
    split
    next he => exact (hacc _ _).of_eq he
    next he =>
      split
      · exact ite_kept (Tabs.kept (Tabs.put ((hacc _ _).of_eq he) _ _) ..) ((hacc _ _).of_eq he)
      · exact (hacc _ _).of_eq he

theorem abortRecords_kept {s : State} (h : Kept z s) (pkg a i) : Kept z (abortRecords s pkg a i) := by
  unfold abortRecords
  grind [Kept.tabs, Tabs.kept, foldl_kept, foldl_pair_kept, oridx_kept, putStatus_kept]

theorem abandon_kept {s : State} (h : Kept z s) (gk) : Kept z (abandon s gk) := by
  have htile : ∀ (p : Prop) [Decidable p] core, Kept z (if p then dropTile (dropWaiters s (fun w => w.ofGroup gk)) core gk
      else dropWaiters s (fun w => w.ofGroup gk)) :=
    fun p _ core => ite_kept (dropTile_kept (dropWaiters_kept h _) ..) (dropWaiters_kept h _)
  unfold abandon
  split
  · exact h
  · exact Tabs.kept (Tabs.put (dropCopies_kept (State.putCore_kept (htile _ _) ..) ..) _ _) ..

theorem settleStores_kept {s : State} (h : Kept z s) : Kept z (settleStores s) := by
  unfold settleStores
  grind [foldl_kept, wbTensor_kept, stashEvent_kept]

theorem queueReset_kept {s : State} (h : Kept z s) (pkg a i) : Kept z (queueReset s pkg a i) := by
  unfold queueReset
  split
  · exact h
  · refine ite_kept h ?_
    have hstart : ∀ q, Kept z (abortRecords (putQueue (settleStores s) pkg a i q) pkg a i) := fun _ =>
      abortRecords_kept (putQueue_kept (settleStores_kept h) ..) ..
    have hlaunches : ∀ {t : State} (l : List (Nat × Launch)), Kept z t → Kept z (l.foldl (fun s e =>
        let s := putStatus { s with launches := s.launches.put e.1 { e.2 with st := .aborted } } e.2.id stAborted 0 0
        let s := { s with cohorts := s.cohorts.map (fun (c : Nat × Cohort) => if c.2.launch = e.1 then (c.1, { c.2 with stop := true }) else c) }
        let s := settleEngines s e.2.id
        ((cohortsOf s e.1).flatMap (fun ck => (s.cohort ck).groups)).foldl abandon s) t) := fun l ht => foldl_kept (fun s e hs =>
          foldl_kept (fun _ _ hu => abandon_kept hu _) _ (settleEngines_kept (Tabs.kept (putStatus_kept (Tabs.kept hs ..) ..) ..) _)) l ht
    exact foldl_kept (fun _ _ hs => ite_kept (dropHub_kept (dropWaiters_kept hs _) ..) hs) _ (hlaunches _ (hstart _))

theorem resetDone_kept {s : State} (h : Kept z s) (pkg a i) : Kept z (resetDone s pkg a i) := by
  unfold resetDone
  split
  · exact h
  · refine ite_kept h ?_
    have hcheck : ∀ (l : List (Nat × Launch)), Kept z (l.foldl (fun s e => launchCheck s e.1) s) := fun l =>
      foldl_kept (fun _ _ hs => launchCheck_kept hs _) l h
    refine ite_kept (hcheck _) ?_
    split
    next q c _ _ =>
      have hwait : ∀ {t : State} (l : List ResetWaiter), Kept z t → Kept z (l.foldl (fun s x => match x with
          | .packet j => consumeHead s pkg a j
          | .slot n => answer s pkg n 0 0) t) := fun l ht =>
        foldl_kept (fun s x hs => by
          split
          · exact consumeHead_kept hs ..
          · exact answer_kept hs ..) l ht
      have hdone := fun q' => hwait q.waiters (putQueue_kept (cpNum_kept (hcheck (s.launches.filter (fun e => e.2.id.rooted pkg a i)))
        (fwReq ((s.launches.filter (fun e => e.2.id.rooted pkg a i)).foldl (fun s e => launchCheck s e.1) s) pkg
          (Dword.plus (c.qdesc i) 0x80)) 4) pkg a i q')
      exact ite_kept (startQueue_kept (hdone _) ..) (hdone _)
    · exact hcheck _

end Sys2Proof.Machine
end

section
/-!
PROOFS. The command processor's events, bring-up, EXIT and LAUNCH keep the tables.
-/

namespace Sys2Proof.Machine

set_option Elab.async false

variable {z : State}

theorem State.putKey_kept {s : State} (h : Kept z s) (pkg k x) : Kept z (s.putKey pkg k x) := h

theorem keyWrite_kept {s : State} (h : Kept z s) (pkg k w v) : Kept z (keyWrite s pkg k w v) := by
  unfold keyWrite
  grind [Kept.tabs, Tabs.kept, State.putKey_kept]

theorem rearm_kept {s : State} (h : Kept z s) (pkg) : Kept z (rearm s pkg) := by
  unfold rearm
  grind [Kept.tabs, Tabs.kept, State.putSnap_kept]

theorem snapWrite_kept {s : State} (h : Kept z s) (pkg v) : Kept z (snapWrite s pkg v) := by
  unfold snapWrite
  grind [Kept.tabs, Tabs.kept, rearm_kept, State.putSnap_kept]

theorem ctnClear_kept {s : State} (h : Kept z s) (core) : Kept z (ctnClear s core) := by
  unfold ctnClear
  grind [Kept.tabs, Tabs.kept, State.putCore_kept]

theorem Reg.write_kept {s : State} (h : Kept z s) (r pkg v) : Kept z (Reg.write r s pkg v) := by
  unfold Reg.write
  grind [Kept.tabs, Tabs.kept, State.putDie_kept, State.putPkg_kept, State.putKey_kept, keyWrite_kept, snapWrite_kept, State.putCore_kept,
    ctnClear_kept, State.putAsid_kept]

theorem regWrite_kept {s : State} (h : Kept z s) (pkg den off width v) : Kept z (regWrite s pkg den off width v) := by
  unfold regWrite
  grind [Reg.write_kept]

theorem pinTrigger_kept {s : State} (h : Kept z s) (pkg) : Kept z (pinTrigger s pkg) := by
  unfold pinTrigger
  grind [owlTrigger_kept]

theorem forwardReceive_kept {s : State} (h : Kept z s) (n) : Kept z (forwardReceive s n) := by
  unfold forwardReceive
  grind [Kept.tabs, Tabs.kept, owlTrigger_kept]

theorem writeDib_kept {s : State} (h : Kept z s) (pkg) : Kept z (writeDib s pkg) := by
  unfold writeDib
  grind [foldl_kept, State.wrB_kept]

theorem clearPkg_kept {s : State} (h : Kept z s) (pkg) : Kept z (clearPkg s pkg) :=
  ⟨h.1, fun hz => ⟨Tab.rising_filter (h.2 hz).1 _, Tab.rising_filter (h.2 hz).2.1 _, Tab.rising_filter (h.2 hz).2.2 _⟩⟩

theorem bringFail_kept {s : State} (h : Kept z s) (pkg step) : Kept z (bringFail s pkg step) := by
  unfold bringFail
  grind [Kept.tabs, Tabs.kept, State.putPkg_kept]

theorem bringMemory_kept {s : State} (h : Kept z s) (pkg b) : Kept z (bringMemory s pkg b) := by
  unfold bringMemory
  grind [Kept.tabs, Tabs.kept, foldl_kept, foldl_pair_kept, State.wr64_kept, State.putAsid_kept]

theorem openBlocks_kept {s : State} (h : Kept z s) (pkg blocks) : Kept z (openBlocks s pkg blocks) := h

theorem bringPorts_kept {s : State} (h : Kept z s) (pkg b) : Kept z (bringPorts s pkg b) := by
  unfold bringPorts
  grind [Kept.tabs, Tabs.kept, foldl_kept, foldl_pair_kept, State.putPkg_kept]

theorem packageReset_kept {s : State} (h : Kept z s) (pkg b) : Kept z (packageReset s pkg b) := by
  unfold packageReset
  extract_lets old p good p1 p2 t
  have ht : Kept z t := State.putPkg_kept (clearPkg_kept h _) ..
  clear_value t
  refine ite_kept (bringFail_kept ht ..) (ite_kept (bringFail_kept ht ..) ?_)
  have hmem := bringMemory_kept ht pkg b
  exact ite_kept (writeDib_kept (bringFail_kept hmem ..) _) (ite_kept (writeDib_kept (bringFail_kept (State.putPkg_kept hmem ..) ..) _)
    (State.putPkg_kept (writeDib_kept (openBlocks_kept (bringPorts_kept (State.putPkg_kept hmem ..) ..) ..) _) ..))

theorem liveUpdate_kept {s : State} (h : Kept z s) (pkg img) : Kept z (liveUpdate s pkg img) := by
  unfold liveUpdate
  grind [Kept.tabs, Tabs.kept, State.putPkg_kept, owlError_kept, writeDib_kept]

theorem resumeQueue_kept {s : State} (h : Kept z s) (pkg a i) : Kept z (resumeQueue s pkg a i) := by
  unfold resumeQueue
  grind [Kept.tabs, Tabs.kept, cpNum_kept, putQueue_kept]

theorem takeover_kept {s : State} (h : Kept z s) (pkg) : Kept z (takeover s pkg) := by
  unfold takeover
  grind [Kept.tabs, Tabs.kept, foldl_kept, foldl_pair_kept, State.putPkg_kept, resumeQueue_kept, writeDib_kept]

theorem attest_kept {s : State} (h : Kept z s) (pkg nonce) : Kept z (attest s pkg nonce) := by
  unfold attest
  grind [Kept.tabs, Tabs.kept, State.putPkg_kept]

theorem tlpIn_kept {s : State} (h : Kept z s) (pkg) : Kept z (tlpIn s pkg) := by
  unfold tlpIn
  grind [State.bump_kept]

theorem pcieWrite_kept {s : State} (h : Kept z s) (pkg bar off data) : Kept z (pcieWrite s pkg bar off data) := by
  unfold pcieWrite
  grind [cpWrite_kept, tlpIn_kept]

theorem pcieRead_kept {s : State} (h : Kept z s) (pkg bar off n) : Kept z (pcieRead s pkg bar off n) := by
  unfold pcieRead
  grind [Kept.tabs, Tabs.kept, cpRead_kept, State.bump_kept, tlpIn_kept, State.putPkg_kept]

theorem pcieDown_kept {s : State} (h : Kept z s) (pkg) : Kept z (pcieDown s pkg) := by
  unfold pcieDown
  grind [Kept.tabs, Tabs.kept, State.bump_kept, State.putPkg_kept]

theorem pcieUp_kept {s : State} (h : Kept z s) (pkg rate width) : Kept z (pcieUp s pkg rate width) := by
  unfold pcieUp
  grind [Kept.tabs, Tabs.kept, State.putPkg_kept]

theorem commandDo_kept {s : State} (h : Kept z s) (pkg kind slot) : Kept z (commandDo s pkg kind slot) := by
  unfold commandDo
  grind [winCmd_kept, ctxReg_kept, ctxDereg_kept, qstart_kept, qresetCmd_kept, answer_kept]

theorem cpWork_kept {s : State} (h : Kept z s) (pkg w) : Kept z (cpWork s pkg w) := by
  unfold cpWork
  grind [packetEvent_kept, readWidx_kept, waitMet_kept, ticket_kept, commandDo_kept, queueReset_kept, resetDone_kept, pendingTake_kept,
    launchAccept_kept, restore_kept, takeover_kept, pcieWrite_kept, pcieRead_kept]

theorem cpRun_kept {s : State} (h : Kept z s) (pkg w) : Kept z (cpRun s pkg w) := by
  unfold cpRun
  grind [cpDo_kept, cpWork_kept]

theorem exitGroup_kept {s : State} (h : Kept z s) (ck sh o) : OutKept z (exitGroup ck sh o s) := by
  have hissue := issueC_kept h ck.closing sh o (fun s g =>
    let s := commAll (s.putG g) s.cur
    let g := s.grp s.cur
    if exitBusy s g then heldWith s
    else if !g.trap.h && !g.trap.pending.isEmpty then .ok { s := s, g := g.deliver, done := true }
    else .ok { s := s, g := { g with run := .exited, wait := .none }, done := true }) fun s g hs =>
      have hcomm := commAll_kept (State.putG_kept hs g) s.cur
      ResKept.ite (heldWith_kept hcomm) (ResKept.ite (ResKept.ok hcomm) (ResKept.ok hcomm))
  unfold exitGroup
  split
  next t ht => exact OutKept.next (reap_kept (hissue t ht) _)
  next x hx => exact hissue

theorem cpHold_kept {s : State} (h : Kept z s) (r) : ResKept z (cpHold s r) := by
  unfold cpHold
  grind [Kept.tabs, Tabs.kept, ResKept.ok, ResKept.trap, ResKept.hold, OutKept.next, OutKept.fault, trapOf, State.refuse_kept, cpWalk_kept]

theorem launchI_kept {s : State} (h : Kept z s) (go ck sh o) : OutKept z (launchI go ck sh o s) := by
  refine issueC_kept h _ _ _ _ fun s g hs => ?_
  extract_lets va p cause
  clear_value cause
  split
  · exact ResKept.trap _
  · refine relReady_kept hs _ _ _ fun s g hs => ResKept.ite (okPend_kept hs _ _) ?_
    have hx : ∀ r, Kept z (xlate (s.putG g) r).1 := fun _ => xlate_kept (State.putG_kept hs _) ..
    dsimp only
    split
    · exact ResKept.trap _
    next he => exact ResKept.ok (holdFault_kept ((hx _).of_eq he) ..)
    next he => exact ResKept.ok (State.refuse_kept ((hx _).of_eq he) ..)
    next s1 _ _ he =>
      have hqueue := queueLaunch_kept (wbTensor_kept ((hx _).of_eq he) (clusterOf g.core)) s1.cur va
      dsimp only at hqueue
      generalize queueLaunch (wbTensor s1 (clusterOf g.core)) s1.cur va = x at hqueue ⊢
      have hgo : Kept z (if go then plRelease x.1 g.core else x.1) := ite_kept (plRelease_kept hqueue _) hqueue
      split
      · exact cpHold_kept ((hx _).of_eq he) _
      · exact okPend_kept hgo _ _

theorem lstatWord_kept {s : State} (h : Kept z s) (g h') : Kept z (lstatWord s g h').1 := by
  unfold lstatWord
  grind [cpNum_kept]

theorem lstatState_kept {s : State} (h : Kept z s) (ck sh o) : OutKept z (lstatState ck sh o s) := by
  unfold lstatState
  grind [ResKept.ok, ResKept.trap, ResKept.hold, OutKept.next, OutKept.fault, trapOf, issueC_kept, lstatWord_kept, State.putG_kept,
    cpHold_kept, okOuts_kept]

theorem lstatSelf_kept {s : State} (h : Kept z s) (ck sh o) : OutKept z (lstatSelf ck sh o s) := by
  unfold lstatSelf
  grind [ResKept.ok, ResKept.trap, ResKept.hold, OutKept.next, OutKept.fault, trapOf, issueC_kept, okOuts_kept]

end Sys2Proof.Machine
end

section
/-!
PROOFS. Completion, errors, copies, ports and the loss of a package keep the tables.
-/

namespace Sys2Proof.Machine

set_option Elab.async false

variable {z : State}

theorem complete_kept {s : State} (h : Kept z s) (gk n) : Kept z (complete s gk n) := by
  unfold complete
  grind [State.putGrp_kept]

theorem eccData_kept {s : State} (h : Kept z s) (gk n bad) : Kept z (eccData s gk n bad) := by
  unfold eccData
  split
  · exact h
  next g _ =>
    split
    · exact h
    next p _ =>
      extract_lets both hit log swap q
      have hlog : ∀ o, Kept z (log o) := fun _ => State.ctnLog_kept (State.uecnt_kept h ..) ..
      clear_value log
      refine ite_kept h ?_
      split
      · exact ite_kept (ite_kept (State.putGrp_kept (ite_kept (hlog _) (State.rollcnt_kept (hlog _) ..)) ..)
          (State.putGrp_kept (State.esccnt_kept (hlog _) ..) ..)) (State.putGrp_kept (hlog _) ..)
      · exact State.putGrp_kept (hlog _) ..

theorem eccEvent_kept {s : State} (h : Kept z s) (gk bad) : Kept z (eccEvent s gk bad) := by
  unfold eccEvent
  grind [State.putGrp_kept, eccData_kept]

theorem dropEntry_kept {s t : State} (h : Kept z s) {core e i} (he : dropEntry s core e = some (t, i)) : Kept z t := by
  have hstash : ∀ l : List Nat, Kept z (l.foldl (fun s i => stashDrop s core i) s) := fun l => foldl_kept (fun _ _ hs => stashDrop_kept hs ..) l h
  unfold dropEntry at he
  cases e with
  | burrow n =>
    dsimp only at he
    split at he
    · cases he
      exact State.putCore_kept h ..
    · cases he
  | write =>
    cases he
    exact h
  | launch n =>
    dsimp only at he
    split at he
    · cases he
      exact State.putCore_kept h ..
    · cases he
  | stash n =>
    dsimp only at he
    split at he
    · cases he
    · cases he
      exact State.putCohort_kept (hstash _) ..

theorem coreEntryError_kept {s : State} (h : Kept z s) (core e) : Kept z (coreEntryError s core e) := by
  unfold coreEntryError
  split
  · exact h
  next s1 i he =>
    have hlog : ∀ o, Kept z ((s1.uecnt core 1).ctnLog core 3 o 0 3 i) := fun _ =>
      State.ctnLog_kept (State.uecnt_kept (dropEntry_kept h he) ..) ..
    have hhalt : ∀ {t : State} (l : List Nat), Kept z t → Kept z (l.foldl (fun s gk => match (s.grp gk).run with
        | .running => s.putGrp gk ((s.grp gk).halt causeEcc 3)
        | _ => s) t) := fun l ht => foldl_kept (fun s gk hs => by
          split
          · exact State.putGrp_kept hs ..
          · exact hs) l ht
    exact ite_kept (hlog _) (ite_kept (foldl_kept (fun _ _ hs => strikeGroup_kept hs ..) _ (hlog _)) (hhalt _ (State.esccnt_kept (hlog _) ..)))

theorem launchFaultEnd_kept {s : State} (h : Kept z s) (gk) : Kept z (launchFaultEnd s gk) := by
  have hhalt : ∀ {t : State} (l : List Nat), Kept z t → Kept z (l.foldl (fun (s : State) k => match (s.grp k).run with
      | .running => s.putGrp k ((s.grp k).halt 0 0)
      | _ => s) t) := fun l ht => foldl_kept (fun s gk hs => by
        split
        · exact State.putGrp_kept hs ..
        · exact hs) l ht
  have howl : ∀ (p q : Prop) [Decidable p] [Decidable q] pkg, Kept z (if p then owlError s pkg 8 else if q then owlError s pkg 9 else s) :=
    fun p q _ _ pkg => ite_kept (owlError_kept h ..) (ite_kept (owlError_kept h ..) h)
  unfold launchFaultEnd
  split
  · exact h
  · split
    · dsimp only
      split
      · exact h
      · exact ite_kept (launchFail_kept (hhalt _ (howl _ _ _)) ..) (launchCheck_kept h _)
    · exact h

theorem copyI_kept {s : State} (h : Kept z s) (k ck sh o) : OutKept z (copyI k ck sh o s) := by
  unfold copyI
  grind [Kept.tabs, Tabs.kept, ResKept.ok, ResKept.trap, ResKept.hold, OutKept.next, OutKept.fault, trapOf, issueC_kept, commAll_kept,
    State.putG_kept, heldWith_kept, copyAccept_kept]

theorem cseal_kept {s : State} (h : Kept z s) (ck sh o) : OutKept z (cseal ck sh o s) := by
  unfold cseal
  grind [Kept.tabs, Tabs.kept, ResKept.ok, ResKept.trap, ResKept.hold, OutKept.next, OutKept.fault, trapOf, issueC_kept, okOuts_kept]

theorem seeCopies_kept {s : State} (h : Kept z s) (g) : Kept z (seeCopies s g) := by
  unfold seeCopies
  grind [invTensor_kept, stashEvent_kept]

theorem cwaitDone_kept {s : State} (h : Kept z s) (g target) : ResKept z (cwaitDone s g target) := by
  unfold cwaitDone
  grind [Kept.tabs, Tabs.kept, ResKept.ok, ResKept.trap, ResKept.hold, OutKept.next, OutKept.fault, trapOf, okOuts_kept]

theorem cwait_kept {s : State} (h : Kept z s) (ck sh o) : OutKept z (cwait ck sh o s) := by
  unfold cwait
  grind [Kept.tabs, Tabs.kept, ResKept.ok, ResKept.trap, ResKept.hold, OutKept.next, OutKept.fault, trapOf, issueC_kept, cwaitDone_kept,
    seeCopies_kept, plRelease_kept]

theorem cwaitTest_kept {s : State} (h : Kept z s) (ck sh o) : OutKept z (cwaitTest ck sh o s) := by
  unfold cwaitTest
  grind [ResKept.ok, ResKept.trap, ResKept.hold, OutKept.next, OutKept.fault, trapOf, issueC_kept, okOuts_kept, seeCopies_kept]

theorem cwptr_kept {s : State} (h : Kept z s) (see f ck sh o) : OutKept z (cwptr see f ck sh o s) := by
  unfold cwptr
  grind [ResKept.ok, ResKept.trap, ResKept.hold, OutKept.next, OutKept.fault, trapOf, issueC_kept, okOuts_kept, seeCopies_kept]

theorem ratom_kept {s : State} (h : Kept z s) (ret op n ck sh o) : OutKept z (ratom ret op n ck sh o s) := by
  unfold ratom
  grind [Kept.tabs, Tabs.kept, foldl_kept, ResKept.ok, ResKept.trap, ResKept.hold, OutKept.next, OutKept.fault, trapOf, laneAccess_kept,
    commBefore_kept, State.putG_kept, heldWith_kept, transmit_kept]

theorem tfence_kept {s : State} (h : Kept z s) (ck sh o) : OutKept z (tfence ck sh o s) := by
  unfold tfence
  grind [ResKept.ok, ResKept.trap, ResKept.hold, OutKept.next, OutKept.fault, trapOf, issueC_kept, fenceStart_kept]

theorem pieceDo_kept {s : State} (h : Kept z s) (ch f) (hf : ∀ x s, Stream.Keeps z x → Kept z s → Kept z (f x s)) : Kept z (pieceDo s ch
    f) := by
  unfold pieceDo
  grind [onHead_kept, onHub_kept]

theorem loadLoss_kept {s : State} (h : Kept z s) (q gk n) : Kept z (loadLoss s q gk n) := by
  unfold loadLoss
  grind [Kept.tabs, Tabs.kept, State.putGrp_kept, dropWaiters_kept]

theorem chanLoss_kept {s : State} (h : Kept z s) (core chan) : Kept z (chanLoss s core chan) := by
  unfold chanLoss
  extract_lets pkg c
  clear_value c
  split
  · exact h
  next j rest _ =>
    have hgone : ∀ (l : List CopyJob) c', Kept z (l.foldl (fun (s : State) x =>
        fenceCheck (batchDone (batchErr (fenceLost s x ((x.lost s pkg).getD 0)) x.grp x.batch 0 x.dst) x.grp x.batch) x.grp)
        (s.putChan core chan c')) := fun l c' => foldl_kept (fun _ _ hs =>
          fenceCheck_kept (batchDone_kept (batchErr_kept (fenceLost_kept hs ..) ..) ..) _) l (State.putChan_kept h ..)
    dsimp only
    split
    · exact hgone _ _
    · exact copyPeer_kept (dropWaiters_kept (ite_kept (powerWithdraw_kept (hgone _ _) ..) (hgone _ _)) _) ..

theorem ratomLoss_kept {s : State} (h : Kept z s) (q gk n) : Kept z (ratomLoss q gk n s) := by
  induction n generalizing s with
  | zero => exact h
  | succ n ih =>
    unfold ratomLoss
    dsimp only
    split
    · exact h
    · split
      · exact h
      · exact ih (ratomEnd_kept (dropWaiters_kept (setRatom_kept h ..) _) ..)

theorem hubLoss_kept {s : State} (h : Kept z s) (pkg n c) : Kept z (hubLoss s pkg n c) := by
  unfold hubLoss
  grind [onHub_kept, dropWaiters_kept, Stream.Keeps.peer]

theorem gangLoss_kept {s : State} (h : Kept z s) (pkg q led) : Kept z (gangLoss s pkg q led) := by
  unfold gangLoss
  grind [Kept.tabs, Tabs.kept, gangReady_kept, State.putPkg_kept, proposeAll_kept]

theorem settleLoss_kept {s : State} (h : Kept z s) (pkg q led) : Kept z (settleLoss s pkg q led) := by
  have hchans : ∀ {t : State} (l : List (Nat × Nat)), Kept z t → Kept z (l.foldl (fun s c => chanLoss s c.1 c.2) t) := fun l ht =>
    foldl_kept (fun _ _ hs => chanLoss_kept hs ..) l ht
  have hratoms : ∀ {t : State} (l : List Nat), Kept z t → Kept z (l.foldl (fun s gk => ratomLoss q gk (s.grp gk).ratoms.length s) t) :=
    fun l ht => foldl_kept (fun _ _ hs => ratomLoss_kept hs ..) l ht
  have hhubs : ∀ {t : State} (l : Tab HubCopy), Kept z t → Kept z (l.foldl (fun s h => hubLoss s pkg h.1 h.2) t) := fun l ht =>
    foldl_kept (fun _ _ hs => hubLoss_kept hs ..) l ht
  have hcolls : ∀ {t : State} (l : List (Nat × Nat)), Kept z t → Kept z (l.foldl (fun s c => collAbortEvent s c.1 c.2 1) t) := fun l ht =>
    foldl_kept (fun _ _ hs => collAbortEvent_kept hs ..) l ht
  have hloads : ∀ {t : State} (l : List Nat), Kept z t →
      Kept z (l.foldl (fun s gk => (s.grp gk).pend.foldl (fun s p => loadLoss s q gk p.id) s) t) := fun l ht =>
    foldl_kept (fun _ _ hs => foldl_kept (fun _ _ hu => loadLoss_kept hu ..) _ hs) l ht
  have hlaunches : ∀ {t : State} (l : List (Nat × Launch)), Kept z t → Kept z (l.foldl (fun s e => launchFail s e.1 causePeer 0) t) :=
    fun l ht => foldl_kept (fun _ _ hs => launchFail_kept hs ..) l ht
  exact hlaunches _ (gangLoss_kept (cohLoss_kept (giveLoss_kept (counterLoss_kept (hloads _ (hcolls _ (hhubs _ (hratoms _ (hchans _ h))))) ..)
    ..) ..) ..)

theorem markLost_kept {s : State} (h : Kept z s) (pkg qs) : Kept z (markLost s pkg qs) := h

theorem selfLoss_kept {s : State} (h : Kept z s) (pkg) : Kept z (selfLoss s pkg) := by
  unfold selfLoss
  grind [foldl_kept, markLost_kept, launchFail_kept, settleLoss_kept]

theorem applyLoss_kept {s : State} (h : Kept z s) (pkg q) : Kept z (applyLoss s pkg q) := by
  unfold applyLoss
  grind [Kept.tabs, Tabs.kept, owlError_kept, selfLoss_kept, settleLoss_kept, markLost_kept]

theorem declare_kept {s : State} (h : Kept z s) (pkg q part) : Kept z (declare s pkg q part) := by
  unfold declare
  grind [Kept.tabs, Tabs.kept, foldl_kept, transmit_kept]

theorem heartbeatTimeout_kept {s : State} (h : Kept z s) (pkg peer) : Kept z (heartbeatTimeout s pkg peer) := by
  unfold heartbeatTimeout
  grind [foldl_kept, applyLoss_kept, declare_kept]

theorem admitBlade_kept {s : State} (h : Kept z s) (pkg port peer partner) : Kept z (admitBlade s pkg port peer partner) := by
  unfold admitBlade
  grind [Kept.tabs, Tabs.kept, State.putPort_kept]

end Sys2Proof.Machine
end

section
/-!
PROOFS. The precision, solver, tile and translation instructions keep the tables; with them every instruction and every event.
-/

namespace Sys2Proof.Machine

set_option Elab.async false

variable {z : State}

theorem vprec_kept {s : State} (h : Kept z s) (setP setMode ck sh o) : OutKept z (vprec setP setMode ck sh o s) := by
  unfold vprec
  grind [foldl_kept, ResKept.ok, ResKept.trap, ResKept.hold, OutKept.next, OutKept.fault, trapOf, issueC_kept, okOuts_kept]

theorem vpgetHead_kept {s : State} (h : Kept z s) (ck sh o) : OutKept z (vpgetHead ck sh o s) := by
  unfold vpgetHead
  grind [ResKept.ok, ResKept.trap, ResKept.hold, OutKept.next, OutKept.fault, trapOf, issueC_kept, okOuts_kept]

theorem vpgetSlice_kept {s : State} (h : Kept z s) (_ck sh o) : OutKept z (vpgetSlice _ck sh o s) := by
  unfold vpgetSlice
  grind [ResKept.ok, ResKept.trap, ResKept.hold, OutKept.next, OutKept.fault, trapOf, issueC_kept, okOuts_kept]

theorem vpIssue_kept {s : State} (h : Kept z s) (srcs vpDst f ck sh o) : OutKept z (vpIssue srcs vpDst f ck sh o s) := by
  unfold vpIssue
  grind [Kept.tabs, Tabs.kept, ResKept.ok, ResKept.trap, ResKept.hold, OutKept.next, OutKept.fault, trapOf, issueC_kept, okPend_kept]

theorem vpadd_kept {s : State} (h : Kept z s) (sub ck sh o) : OutKept z (vpadd sub ck sh o s) := by
  unfold vpadd
  grind [Kept.tabs, Tabs.kept, ResKept.ok, ResKept.trap, ResKept.hold, OutKept.next, OutKept.fault, trapOf, vpIssue_kept]

theorem vpmul_kept {s : State} (h : Kept z s) (ck sh o) : OutKept z (vpmul ck sh o s) := by
  unfold vpmul
  grind [ResKept.ok, ResKept.trap, ResKept.hold, OutKept.next, OutKept.fault, trapOf, vpIssue_kept]

theorem vpfma_kept {s : State} (h : Kept z s) (neg ck sh o) : OutKept z (vpfma neg ck sh o s) := by
  unfold vpfma
  grind [Kept.tabs, Tabs.kept, ResKept.ok, ResKept.trap, ResKept.hold, OutKept.next, OutKept.fault, trapOf, vpIssue_kept]

theorem vpdiv_kept {s : State} (h : Kept z s) (ck sh o) : OutKept z (vpdiv ck sh o s) := by
  unfold vpdiv
  grind [ResKept.ok, ResKept.trap, ResKept.hold, OutKept.next, OutKept.fault, trapOf, vpIssue_kept]

theorem vpsqrt_kept {s : State} (h : Kept z s) (ck sh o) : OutKept z (vpsqrt ck sh o s) := by
  unfold vpsqrt
  grind [ResKept.ok, ResKept.trap, ResKept.hold, OutKept.next, OutKept.fault, trapOf, vpIssue_kept]

theorem vpcmp_kept {s : State} (h : Kept z s) (cc ck sh o) : OutKept z (vpcmp cc ck sh o s) := by
  unfold vpcmp
  grind [Kept.tabs, Tabs.kept, ResKept.ok, ResKept.trap, ResKept.hold, OutKept.next, OutKept.fault, trapOf, vpIssue_kept]

theorem vprndInt_kept {s : State} (h : Kept z s) (ck sh o) : OutKept z (vprndInt ck sh o s) := by
  unfold vprndInt
  grind [Kept.tabs, Tabs.kept, ResKept.ok, ResKept.trap, ResKept.hold, OutKept.next, OutKept.fault, trapOf, vpIssue_kept]

theorem vprndLen_kept {s : State} (h : Kept z s) (ck sh o) : OutKept z (vprndLen ck sh o s) := by
  unfold vprndLen
  grind [Kept.tabs, Tabs.kept, ResKept.ok, ResKept.trap, ResKept.hold, OutKept.next, OutKept.fault, trapOf, vpIssue_kept]

theorem vpFrom_kept {s : State} (h : Kept z s) (f ck sh o) : OutKept z (vpFrom f ck sh o s) := by
  unfold vpFrom
  grind [ResKept.ok, ResKept.trap, ResKept.hold, OutKept.next, OutKept.fault, trapOf, vpIssue_kept]

theorem vpTo_kept {s : State} (h : Kept z s) (f ck sh o) : OutKept z (vpTo f ck sh o s) := by
  unfold vpTo
  grind [Kept.tabs, Tabs.kept, ResKept.ok, ResKept.trap, ResKept.hold, OutKept.next, OutKept.fault, trapOf, vpIssue_kept]

theorem vpmov_kept {s : State} (h : Kept z s) (f ck sh o) : OutKept z (vpmov f ck sh o s) := by
  unfold vpmov
  grind [Kept.tabs, Tabs.kept, ResKept.ok, ResKept.trap, ResKept.hold, OutKept.next, OutKept.fault, trapOf, vpIssue_kept]

theorem vpld_kept {s : State} (h : Kept z s) (k ck sh o) : OutKept z (vpld k ck sh o s) := by
  unfold vpld
  grind [Kept.tabs, Tabs.kept, ResKept.ok, ResKept.trap, ResKept.hold, OutKept.next, OutKept.fault, trapOf, issueC_kept, shadowHit_kept,
    vpldHeads_kept, State.putG_kept]

theorem vpst_kept {s : State} (h : Kept z s) (k ck sh o) : OutKept z (vpst k ck sh o s) := by
  unfold vpst
  grind [Kept.tabs, Tabs.kept, foldl_kept, foldl_pair_kept, ResKept.ok, ResKept.trap, ResKept.hold, OutKept.next, OutKept.fault, trapOf,
    issueC_kept, shadowHit_kept, storeLike_kept]

theorem sconf_kept {s : State} (h : Kept z s) (ck sh o) : OutKept z (sconf ck sh o s) := by
  refine issueC_kept h _ _ _ _ fun s g hs => ?_
  dsimp only
  split
  · exact ResKept.trap _
  · refine relReady_kept hs _ _ _ fun s g hs => ?_
    refine ResKept.ite (ResKept.ok hs) ?_
    have hopen : ∀ r, Kept z (pocOpen (s.putG g) r).1 := fun _ => pocOpen_kept (State.putG_kept hs _) ..
    split
    · exact ResKept.trap _
    next he => exact ResKept.ok (holdFault_kept ((hopen _).of_eq he) ..)
    next he => exact ResKept.ok (State.refuse_kept ((hopen _).of_eq he) ..)
    · exact ResKept.hold _
    next s1 _ he =>
      split
      · exact ResKept.ok ((hopen _).of_eq he)
      · have hwb := wbTensor_kept ((hopen _).of_eq he) (clusterOf g.core)
        dsimp only at hwb
        generalize wbTensor s1 (clusterOf g.core) = t at hwb ⊢
        exact ResKept.ok (confRun_kept (applyEff_kept _ _ _ hwb) ..)

theorem solverCmd_kept {s : State} (h : Kept z s) (c ck sh o) : OutKept z (solverCmd c ck sh o s) := by
  unfold solverCmd
  grind [Kept.tabs, Tabs.kept, ResKept.ok, ResKept.trap, ResKept.hold, OutKept.next, OutKept.fault, trapOf, issueC_kept, relReady_kept,
    solvSend_kept, wbTensor_kept]

theorem sstatSamp_kept {s : State} (h : Kept z s) (ck sh o) : OutKept z (sstatSamp ck sh o s) := by
  unfold sstatSamp
  grind [Kept.tabs, Tabs.kept, ResKept.ok, ResKept.trap, ResKept.hold, OutKept.next, OutKept.fault, trapOf, issueC_kept, okPend_kept]

theorem sstatBatch_kept {s : State} (h : Kept z s) (ck sh o) : OutKept z (sstatBatch ck sh o s) := by
  unfold sstatBatch
  grind [Kept.tabs, Tabs.kept, ResKept.ok, ResKept.trap, ResKept.hold, OutKept.next, OutKept.fault, trapOf, issueC_kept, okPend_kept]

theorem tileAccept_kept {s : State} (h : Kept z s) (g op f) : ResKept z (tileAccept s g op f) := by
  unfold tileAccept
  grind [Kept.tabs, Tabs.kept, ResKept.ok, ResKept.trap, ResKept.hold, OutKept.next, OutKept.fault, trapOf, commAll_kept, State.putG_kept,
    heldWith_kept, State.putTile_kept]

theorem Res.writing_kept {r : Res Eff} (hr : ResKept z r) (dests m) : ResKept z (r.writing dests m) := by
  cases r with
  | ok e => exact ResKept.ok hr.eff
  | trap t => exact ResKept.trap t
  | hold w => exact ResKept.hold w

theorem tileCheckThen_kept (c g k) (hk : ResKept z k) : ResKept z (tileCheckThen c g k) := by
  unfold tileCheckThen
  grind [ResKept.ok, ResKept.trap, ResKept.hold, OutKept.next, OutKept.fault, trapOf]

theorem tldb_kept {s : State} (h : Kept z s) (ck sh o) : OutKept z (tldb ck sh o s) := by
  unfold tldb
  grind [ResKept.ok, ResKept.trap, ResKept.hold, OutKept.next, OutKept.fault, trapOf, issueC_kept, tileCheckThen_kept, tileAccept_kept]

theorem tlda_kept {s : State} (h : Kept z s) (ck sh o) : OutKept z (tlda ck sh o s) := by
  unfold tlda
  grind [ResKept.ok, ResKept.trap, ResKept.hold, OutKept.next, OutKept.fault, trapOf, issueC_kept, tileCheckThen_kept, tileAccept_kept]

theorem tmma_kept {s : State} (h : Kept z s) (block tri ck sh o) : OutKept z (tmma block tri ck sh o s) := by
  unfold tmma
  grind [ResKept.ok, ResKept.trap, ResKept.hold, OutKept.next, OutKept.fault, trapOf, issueC_kept, tileAccept_kept]

theorem tsca_kept {s : State} (h : Kept z s) (tri ck sh o) : OutKept z (tsca tri ck sh o s) := by
  unfold tsca
  grind [ResKept.ok, ResKept.trap, ResKept.hold, OutKept.next, OutKept.fault, trapOf, issueC_kept, tileAccept_kept]

theorem taccZero_kept {s : State} (h : Kept z s) (ck sh o) : OutKept z (taccZero ck sh o s) := by
  unfold taccZero
  grind [ResKept.ok, ResKept.trap, ResKept.hold, OutKept.next, OutKept.fault, trapOf, issueC_kept, tileAccept_kept]

theorem taccRd_kept {s : State} (h : Kept z s) (val ck sh o) : OutKept z (taccRd val ck sh o s) := by
  unfold taccRd
  grind [ResKept.ok, ResKept.trap, ResKept.hold, OutKept.next, OutKept.fault, trapOf, issueC_kept, Res.writing_kept, tileAccept_kept]

theorem taccSt_kept {s : State} (h : Kept z s) (ck sh o) : OutKept z (taccSt ck sh o s) := by
  unfold taccSt
  grind [ResKept.ok, ResKept.trap, ResKept.hold, OutKept.next, OutKept.fault, trapOf, issueC_kept, tileCheckThen_kept, tileAccept_kept]

theorem taccMode_kept {s : State} (h : Kept z s) (ck sh o) : OutKept z (taccMode ck sh o s) := by
  unfold taccMode
  grind [Kept.tabs, Tabs.kept, ResKept.ok, ResKept.trap, ResKept.hold, OutKept.next, OutKept.fault, trapOf, issueC_kept, tileAccept_kept]

theorem taccTri_kept {s : State} (h : Kept z s) (ck sh o) : OutKept z (taccTri ck sh o s) := by
  unfold taccTri
  grind [Kept.tabs, Tabs.kept, ResKept.ok, ResKept.trap, ResKept.hold, OutKept.next, OutKept.fault, trapOf, issueC_kept, tileAccept_kept]

theorem tgemm_kept {s : State} (h : Kept z s) (ck sh o) : OutKept z (tgemm ck sh o s) := by
  unfold tgemm
  grind [foldl_kept, ResKept.ok, ResKept.trap, ResKept.hold, OutKept.next, OutKept.fault, trapOf, issueC_kept, tileCheckThen_kept,
    tileAccept_kept]

theorem tctx_kept {s : State} (h : Kept z s) (save ck sh o) : OutKept z (tctx save ck sh o s) := by
  unfold tctx
  grind [ResKept.ok, ResKept.trap, ResKept.hold, OutKept.next, OutKept.fault, trapOf, issueC_kept, tileCheckThen_kept, tileAccept_kept]

theorem tprog_kept {s : State} (h : Kept z s) (f ck sh o) : OutKept z (tprog f ck sh o s) := by
  unfold tprog
  grind [ResKept.ok, ResKept.trap, ResKept.hold, OutKept.next, OutKept.fault, trapOf, issueC_kept, okOuts_kept]

theorem tileError_kept {s : State} (h : Kept z s) (core) : Kept z (tileError s core) := by
  unfold tileError
  grind [Kept.tabs, Tabs.kept, foldl_kept, powerCease_kept, unhold_kept, finishPend_kept, State.putTile_kept, State.uecnt_kept,
    strikeGroup_kept, State.ctnLog_kept]

theorem tlbOp_kept {s : State} (h : Kept z s) (early run ck sh o) (hrun : ∀ s x1, Kept z s → Kept z (run s x1).1) : OutKept z (tlbOp early
    run ck sh o s) := by
  unfold tlbOp
  grind [ResKept.ok, ResKept.trap, ResKept.hold, OutKept.next, OutKept.fault, trapOf, issueC_kept, State.putG_kept, okPend_kept]

theorem tlbopMap_kept {s : State} (h : Kept z s) (ck sh o) : OutKept z (tlbopMap ck sh o s) := by
  unfold tlbopMap
  grind [ResKept.ok, ResKept.trap, ResKept.hold, OutKept.next, OutKept.fault, trapOf, tlbOp_kept, tlbMap_kept]

theorem tlbopVa_kept {s : State} (h : Kept z s) (tensorOnly run ck sh o) (hrun : ∀ s x1 x2 x3, Kept z s → Kept z (run s x1 x2 x3)) :
    OutKept z (tlbopVa tensorOnly run ck sh o s) := by
  unfold tlbopVa
  grind [ResKept.ok, ResKept.trap, ResKept.hold, OutKept.next, OutKept.fault, trapOf, tlbOp_kept]

theorem tlbopInvAsid_kept {s : State} (h : Kept z s) (ck sh o) : OutKept z (tlbopInvAsid ck sh o s) := by
  unfold tlbopInvAsid
  grind [ResKept.ok, ResKept.trap, ResKept.hold, OutKept.next, OutKept.fault, trapOf, tlbOp_kept, tlbInvAsid_kept]

theorem tlbopAll_kept {s : State} (h : Kept z s) (ck sh o) : OutKept z (tlbopAll ck sh o s) := by
  unfold tlbopAll
  grind [ResKept.ok, ResKept.trap, ResKept.hold, OutKept.next, OutKept.fault, trapOf, tlbOp_kept, tlbAll_kept]

theorem tlbopReplay_kept {s : State} (h : Kept z s) (ck sh o) : OutKept z (tlbopReplay ck sh o s) := by
  unfold tlbopReplay
  grind [ResKept.ok, ResKept.trap, ResKept.hold, OutKept.next, OutKept.fault, trapOf, tlbOp_kept, replayDie_kept]

theorem tlbopReplayAll_kept {s : State} (h : Kept z s) (ck sh o) : OutKept z (tlbopReplayAll ck sh o s) := by
  unfold tlbopReplayAll
  grind [foldl_kept, ResKept.ok, ResKept.trap, ResKept.hold, OutKept.next, OutKept.fault, trapOf, tlbOp_kept, replayDie_kept]

theorem tlbopDeny_kept {s : State} (h : Kept z s) (ck sh o) : OutKept z (tlbopDeny ck sh o s) := by
  unfold tlbopDeny
  grind [ResKept.ok, ResKept.trap, ResKept.hold, OutKept.next, OutKept.fault, trapOf, tlbOp_kept, denyEntry_kept]

theorem tlbopFread_kept {s : State} (h : Kept z s) (ck sh o) : OutKept z (tlbopFread ck sh o s) := by
  unfold tlbopFread
  grind [ResKept.ok, ResKept.trap, ResKept.hold, OutKept.next, OutKept.fault, trapOf, tlbOp_kept]

theorem tlbopFstat_kept {s : State} (h : Kept z s) (ck sh o) : OutKept z (tlbopFstat ck sh o s) := by
  unfold tlbopFstat
  grind [ResKept.ok, ResKept.trap, ResKept.hold, OutKept.next, OutKept.fault, trapOf, tlbOp_kept]

theorem tlbopNewgen_kept {s : State} (h : Kept z s) (ck sh o) : OutKept z (tlbopNewgen ck sh o s) := by
  unfold tlbopNewgen
  grind [ResKept.ok, ResKept.trap, ResKept.hold, OutKept.next, OutKept.fault, trapOf, tlbOp_kept, tlbNewgen_kept]

theorem mscServe_kept {s : State} (h : Kept z s) (die n) : Kept z (mscServe s die n) := by
  unfold mscServe
  grind [mscRequest_kept]

theorem retryExpiry_kept {s : State} (h : Kept z s) (n) : Kept z (retryExpiry s n) := by
  unfold retryExpiry
  grind [Kept.tabs, Tabs.kept, launchCheck_kept, resend_kept, cpRun_kept]

/-- Every instruction and every event. -/
theorem exec_kept {s : State} (h : Kept z s) (i : Instr) : OutKept z (exec i s) := by
  unfold exec
  cases i with
  | clause | clauseTmask | clauseExtended => exact clauseStart_kept h _ _ _ _ _ _ _
  | braBj | braBjLiteral => exact bj_kept h _ _ _ _ _ (fun _ g a hs => jumpTo_kept hs g a)
  | bra => exact bra_kept h _ _ _
  | callBj | callBjLiteral => exact bj_kept h _ _ _ _ _ (fun _ g a hs => callTo_kept hs g a)
  | call => exact call_kept h _ _ _
  | brx => exact brx_kept h _ _ _
  | brxIdx => exact brxIdx_kept h _ _ _
  | retB3 | ret => exact ret_kept h _ _ _
  | exitB3 | exit => exact exitGroup_kept h _ _ _
  | yieldB3 | yield => exact yieldG_kept h _ _ _
  | trap => exact trapI_kept h _ _ _
  | tretB3 | tret => exact tretI_kept h _ _ _
  | maskSet => exact maskSet_kept h _ _ _
  | maskGet => exact maskGet_kept h _ _ _
  | maskIf => exact maskIf_kept h _ _ _
  | maskElse => exact maskElse_kept h _ _ _
  | maskEnd => exact maskEnd_kept h _ _ _
  | voteAny => exact voteAny_kept h _ _ _
  | voteAll => exact voteAll_kept h _ _ _
  | voteBal => exact voteBal_kept h _ _ _
  | voteCnt => exact voteCnt_kept h _ _ _
  | voteUni => exact voteUni_kept h _ _ _
  | sysr => exact sysr_kept h _ _ _
  | sysw => exact sysw_kept h _ _ _
  | roleCnt => exact roleCnt_kept h _ _ _
  | rolePhys => exact rolePhys_kept h _ _ _
  | roleTest => exact roleTest_kept h _ _ _
  | regnB => exact regnB_kept h _ _ _
  | regnE => exact regnE_kept h _ _ _
  | regnStat => exact regnStat_kept h _ _ _
  | snap | snapGang => exact snapI_kept h _ _ _ _
  | uaddB3 | uaddSubB3 | uadd | uaddSub | uaddSat | uaddSubSat | umulLoB3 | umulHiB3 | umulHiuB3 | umulLo | umulHi | umulHiu | ulogAndB3 |
      ulogOrB3 | ulogXorB3 | ulogAndnB3 | ulogAnd | ulogOr | ulogXor | ulogAndn | ushfShlB3 | ushfShrB3 | ushfSarB3 | ushfRotB3 | ushfShl
      | ushfShr | ushfSar | ushfRot | uminmaxMin | uminmaxMax | uminmaxMinu | uminmaxMaxu | ubitPopc | ubitClz | ubitCtz | ubitBrev |
      ubitExtr | ubitExtrs =>
    exact uni32_kept h _ _ _ _
  | uadd64 | uaddSub64 => exact uni64_kept h _ _ _ _
  | ulogKand | ulogKor | ulogKxor | ulogKandn => exact uniK_kept h _ _ _ _
  | ucmp => exact uniCmp_kept h _ _ _ _
  | umovB3 | umov => exact uniMov_kept h _ _ _
  | umov64 | usel => exact issueC_kept h _ _ _ _ (fun _ _ hs => okOuts_kept hs _ _)
  | umovFirst => exact umovFirst_kept h _ _ _
  | ulea | uleaS => exact uniLea_kept h _ _ _ _
  | iaddB3 | iaddSubB3 | iaddSatB3 | iaddSubSatB3 | iadd | iaddSub | iaddSat | iaddSubSat | iaddSatu | iaddSubSatu | imulLoB3 | imulHiB3 |
      imulHiuB3 | imulLo | imulHi | imulHiu | imadLo | ilogAndB3 | ilogOrB3 | ilogXorB3 | ilogAndnB3 | ilogAnd | ilogOr | ilogXor |
      ilogAndn | ilogLut | ishfShlB3 | ishfShrB3 | ishfSarB3 | ishfRotB3 | ishfShl | ishfShr | ishfSar | ishfRot | iminmaxMin | iminmaxMax
      | iminmaxMinu | iminmaxMaxu | ibitExtr | ibitExtrs | ibitIns =>
    exact lane1_kept h _ _ _ _
  | iadd64 | iaddSub64 => exact lane2_kept h _ _ _ _
  | imulWide | imulWideu | imadWide | imadWideu => exact laneWide_kept h _ _ _ _
  | ishfShl64 | ishfShr64 | ishfSar64 | lea | leaS => exact lanePW_kept h _ _ _ _
  | iminmaxAbs | iminmaxAbsSat | ibitPopc | ibitClz | ibitCtz | ibitBrev | icvtSext | icvtZext | icvtSatS | icvtSatU =>
    exact laneA_kept h _ _ _ _
  | icmp | icmp64 | fclassPred => exact laneQ_kept h _ _ _ _
  | isel | isel64 | icvtSext64 | icvtZext64 | icvtSatS32 | icvtSatU32 | movB3 | mov | mov64 | xget | fclass =>
    exact laneG_kept h _ _ _ _
  | movxLd | movxSt => exact movx_kept h _ _ _ _
  | xset | xsetAdd => exact xset_kept h _ _ _ _
  | shflIdx | shflUp | shflDown | shflXor => exact shfl_kept h _ _ _ _
  | faddF32B3 | faddSubF32B3 | faddF16x2B3 | faddSubF16x2B3 | fadd | faddSub | fmulF32B3 | fmulF16x2B3 | fmul | ffmaF32B3 | ffmaF16x2B3 |
      ffma | fminmaxMin | fminmaxMax =>
    exact laneE_kept h _ _ _ _ _
  | fcmp => exact laneFcmp_kept h _ _ _ _ _
  | frnd | fscale | fdp2 | fcvtF32F16 | fcvtF32Bf16 | fcvtF16x2F32 | fcvtBf16x2F32 | fcvtF32Tp => exact laneF_kept h _ _ _ _
  | fcvtF16F32 | fcvtBf16F32 | fcvtS32F32 | fcvtU32F32 | fcvtF32S32 | fcvtF32U32 | fcvtTpF32 => exact laneCvt_kept h _ _ _ _
  | fspecRcp | fspecRsq | fspecSqrt | fspecExp2 | fspecLog2 | fspecSin | fspecCos | fspecTanh => exact fspec_kept h _ _ _ _
  | longLatencyCompletion => exact OutKept.next (complete_kept h _ _)
  | vprecSet | vprecP | vprecMode => exact vprec_kept h _ _ _ _ _
  | vpgetHead => exact vpgetHead_kept h _ _ _
  | vpgetSlice => exact vpgetSlice_kept h _ _ _
  | vpadd | vpaddSub => exact vpadd_kept h _ _ _ _
  | vpmul => exact vpmul_kept h _ _ _
  | vpfma | vpfmaNeg => exact vpfma_kept h _ _ _ _
  | vpdiv => exact vpdiv_kept h _ _ _
  | vpsqrt => exact vpsqrt_kept h _ _ _
  | vpcmp => exact vpcmp_kept h _ _ _ _
  | vprndInt => exact vprndInt_kept h _ _ _
  | vprndLen => exact vprndLen_kept h _ _ _
  | vpcvtVpF32 | vpcvtVpF64 | vpcvtVpS64 | vpcvtVpT16 => exact vpFrom_kept h _ _ _ _
  | vpcvtF32Vp | vpcvtF64Vp | vpcvtS64Vp | vpcvtT16Vp => exact vpTo_kept h _ _ _ _
  | vpmov | vpmovNeg | vpmovAbs => exact vpmov_kept h _ _ _ _
  | vpld | vpldStr | vpldIdx | vpldPack => exact vpld_kept h _ _ _ _
  | vpst | vpstStr | vpstIdx | vpstPack => exact vpst_kept h _ _ _ _
  | uld => exact uld_kept h _ _ _ _
  | ld32B3 | ld64B3 | ld128B3 | ld => exact ld_kept h _ _ _ _
  | st32B3 | st64B3 | st128B3 | st => exact st_kept h _ _ _ _
  | atomAdd | atomMin | atomMax | atomMinu | atomMaxu | atomAnd | atomOr | atomXor | atomExch | atomCas | atomFadd | atomFmin | atomFmax
      =>
    exact atom_kept h _ _ _ _ _
  | redAdd | redMin | redMax | redMinu | redMaxu | redAnd | redOr | redXor | redFadd | redFmin | redFmax =>
    exact red_kept h _ _ _ _ _
  | ldx => exact ldx_kept h _ _ _ _
  | stx => exact stx_kept h _ _ _ _
  | fenceAcq | fenceRel | fenceAr => exact fence_kept h _ _ _ _
  | cmaintWb | cmaintInv | cmaintDemote => exact cmaint_kept h _ _ _ _
  | prefL1 | prefClc => exact pref_kept h _ _ _ _
  | stashMap => exact stashMap_kept h _ _ _
  | stashUnmap | stashFlush => exact stashEnd_kept h _ _ _ _
  | barInit => exact barInit_kept h _ _ _
  | barArrive => exact barArrive_kept h _ _ _
  | barExpect => exact barExpect_kept h _ _ _
  | barWait => exact barWait_kept h _ _ _
  | barTest => exact barTest_kept h _ _ _
  | mscRequest => exact OutKept.next (mscServe_kept h _ _)
  | retryHintExpiry => exact OutKept.next (retryExpiry_kept h _)
  | tldb => exact tldb_kept h _ _ _
  | tlda => exact tlda_kept h _ _ _
  | tmma | tmmaBlock | tmmaTri | tmmaBlockTri => exact tmma_kept h _ _ _ _ _
  | tsca | tscaTri => exact tsca_kept h _ _ _ _
  | taccZero => exact taccZero_kept h _ _ _
  | taccRdPair | taccRdVal => exact taccRd_kept h _ _ _ _
  | taccSt => exact taccSt_kept h _ _ _
  | taccMode => exact taccMode_kept h _ _ _
  | taccTri => exact taccTri_kept h _ _ _
  | tgemm => exact tgemm_kept h _ _ _
  | tgemmStep => exact OutKept.next (gemmStep_kept h _)
  | tctxSave | tctxRestore => exact tctx_kept h _ _ _ _
  | tprogStep | tprogTotal => exact tprog_kept h _ _ _ _
  | tileInstructionStart => exact OutKept.next (tileStart_kept h _ _)
  | powerGrant => exact OutKept.next (copyGranted_kept (powerServe_kept h _) _)
  | powerRelease => exact OutKept.next (powerReturn_kept h _ _)
  | budgetWrite => exact OutKept.next (State.putDie_kept h _ _)
  | cpy | cpy2 | cpygGather | cpygScatter => exact copyI_kept h _ _ _ _
  | copyPieceLand => exact OutKept.next (pieceDo_kept h _ _ (fun x _ hx hs => Stream.landHead_kept hs x hx))
  | copyPieceRefused => exact OutKept.next (pieceDo_kept h _ _ (fun x _ hx hs => Stream.refuseHead_kept hs x _ hx))
  | copyErrorAnswer => exact OutKept.next (pieceDo_kept h _ _ (fun x _ hx hs => Stream.failHead_kept hs x _ hx))
  | cseal => exact cseal_kept h _ _ _
  | cwait => exact cwait_kept h _ _ _
  | cwaitTest => exact cwaitTest_kept h _ _ _
  | cwptrAddr | cwptrCnt | cwptrProg | cwptrRef => exact cwptr_kept h _ _ _ _ _
  | ratom | ratomRet => exact ratom_kept h _ _ _ _ _ _
  | ratomAck => exact OutKept.next (ratomEnd_kept h _ _)
  | tfence => exact tfence_kept h _ _ _
  | acrtNew => exact acrtNew_kept h _ _ _
  | acrtFree => exact acrtFree_kept h _ _ _
  | atake => exact atake_kept h _ _ _
  | agive => exact agive_kept h _ _ _
  | areadExact => exact areadExact_kept h _ _ _
  | areadApprox => exact areadApprox_kept h _ _ _
  | allowanceServe => exact OutKept.next (serveHead_kept h _)
  | allowanceGrant | allowanceRefusal | exactReadReply | allowanceRecall | recallAnswer | allowanceReturn | giveUp =>
    exact OutKept.next (deliverAllow_kept h _ _)
  | sconf => exact sconf_kept h _ _ _
  | sstart | sctlPause | sctlResume | sctlStop | sctlFree => exact solverCmd_kept h _ _ _ _
  | sstatSamp => exact sstatSamp_kept h _ _ _
  | sstatBatch => exact sstatBatch_kept h _ _ _
  | solverStageInput | solverStageCollect | solverDecide | solverEnd => exact OutKept.next (solvAction_kept h _ _ _)
  | solverAccessFault => exact OutKept.next (solvFault_kept h _ _ _)
  | coll => exact coll_kept h _ _ _
  | collw | collwTest => exact collw_kept h _ _ _ _
  | carbSet => exact carbSet_kept h _ _ _
  | carbGet => exact carbGet_kept h _ _ _
  | collJoin => exact OutKept.next (collJoin_kept h _ _)
  | bucketReady => exact OutKept.next (bucketReady_kept h _ _)
  | segmentReceive => exact OutKept.next (segmentReceive_kept h _ _ _ _)
  | collComplete => exact OutKept.next (collComplete_kept h _ _)
  | collAbort => exact OutKept.next (collAbortEvent_kept h _ _ _)
  | launch | launchGo => exact launchI_kept h _ _ _ _
  | lstatState => exact lstatState_kept h _ _ _
  | lstatSelf => exact lstatSelf_kept h _ _ _
  | pendingQueueTake | launchAccept | widxAdvance | packetNop | packetLaunch | packetCopy | packetSignal | packetWait | packetBarrierAnd |
      packetQreset | gangctlSwitch | gangctlSnap | waitConditionMet | registrationTicket | ctxreg | ctxdereg | qstart | qresetCommand |
      invalidCommand | queueReset | queueResetComplete | cohortRestore | heartbeatTakeover | pcieInboundWrite | pcieInboundRead =>
    exact OutKept.next (cpRun_kept h _ _)
  | rampStep => exact OutKept.next (rampStep_kept h _)
  | preempt => exact OutKept.next (preempt_kept h _ _)
  | launchFaultEnd => exact OutKept.next (launchFaultEnd_kept h _)
  | gangPropose => exact OutKept.next (gangPropose_kept h _)
  | gangSliceSaved => exact OutKept.next (gangSaved_kept h _)
  | gangAck => exact OutKept.next (gangAck_kept h _)
  | gangCommit => exact OutKept.next (gangCommit_kept h _)
  | liveUpdate => exact OutKept.next (liveUpdate_kept h _ _)
  | packageReset => exact OutKept.next (packageReset_kept h _ _)
  | tlbopMap => exact tlbopMap_kept h _ _ _
  | tlbopInv => exact tlbopVa_kept h _ _ _ _ _ (fun _ _ _ _ hs => tlbInv_kept hs _ _ _)
  | tlbopInvAsid => exact tlbopInvAsid_kept h _ _ _
  | tlbopAll => exact tlbopAll_kept h _ _ _
  | tlbopReplay => exact tlbopReplay_kept h _ _ _
  | tlbopReplayAll => exact tlbopReplayAll_kept h _ _ _
  | tlbopDeny => exact tlbopDeny_kept h _ _ _
  | tlbopFread => exact tlbopFread_kept h _ _ _
  | tlbopFstat => exact tlbopFstat_kept h _ _ _
  | tlbopMove => exact tlbopVa_kept h _ _ _ _ _ (fun _ _ _ _ hs => tlbMove_kept hs _ _ _)
  | tlbopNewgen => exact tlbopNewgen_kept h _ _ _
  | mtlbRequest => exact OutKept.next (mtlbRequest_kept h _ _)
  | walkComplete => exact OutKept.next (walkComplete_kept h _ _)
  | pclassQuery => exact pclass_kept h _ _ _ _ _ _ (fun _ _ _ _ hs => classWord_kept hs _ _ _)
  | pclassSet => exact pclassSet_kept h _ _ _
  | pclassHint => exact pclassHint_kept h _ _ _
  | pclassLine => exact pclass_kept h _ _ _ _ _ _ (fun _ _ _ _ hs => lineWord_kept hs _ _ _)
  | pclassClear => exact pclassClear_kept h _ _ _
  | cohReadRequest => exact OutKept.next (cohRead_kept h _ _)
  | cohWriteRequest => exact OutKept.next (cohWrite_kept h _ _)
  | cohRecall => exact OutKept.next (cohRecall_kept h _ _)
  | cohTokenAnswer => exact OutKept.next (tokenAnswer_kept h _)
  | cohEviction => exact OutKept.next (cohEvict_kept h _ _)
  | dirtyNotice => exact OutKept.next (dirtyNotice_kept h _ _)
  | pdirtyNotice => exact OutKept.next (pdirtyNotice_kept h _ _)
  | dirtyWriteback => exact OutKept.next (dirtyWriteback_kept h _ _)
  | persistentRequest => exact OutKept.next (persistentRequest_kept h _ _ _)
  | classConflict => exact OutKept.next (classConflict_kept h _ _ _)
  | censusReport => exact OutKept.next (censusReport_kept h _)
  | eccUncorrectedConsume => exact OutKept.next (eccEvent_kept h _ _)
  | tileEngineError => exact OutKept.next (tileError_kept h _)
  | coreEntryError => exact OutKept.next (coreEntryError_kept h _ _)
  | flitReceive => exact OutKept.next (flitReceive_kept h _ _ _)
  | nakReceive => exact OutKept.next (State.putPort_kept h _ _ _)
  | nakBurst => exact OutKept.next (nakBurst_kept h _ _)
  | laneFail => exact OutKept.next (laneFail_kept h _ _ _)
  | trainingComplete => exact OutKept.next (trained_kept h _ _)
  | retrainTimeout => exact OutKept.next (retrainTimeout_kept h _ _)
  | presentFall => exact OutKept.next (presentFall_kept h _ _)
  | presentRise => exact OutKept.next (presentRise_kept h _ _)
  | peerHeartbeatTimeout => exact OutKept.next (heartbeatTimeout_kept h _ _)
  | lossDeclaration => exact OutKept.next (applyLoss_kept h _ _)
  | owlPinTrigger => exact OutKept.next (pinTrigger_kept h _)
  | owlForwardReceive => exact OutKept.next (forwardReceive_kept h _)
  | snapshotRearm => exact OutKept.next (rearm_kept h _)
  | keyMaterialWrite => exact OutKept.next (keyWrite_kept h _ _ _ _)
  | ctnlogClear => exact OutKept.next (ctnClear_kept h _)
  | pcieLinkDown => exact OutKept.next (pcieDown_kept h _)
  | registerWrite => exact OutKept.next (regWrite_kept h _ _ _ _ _)
  | attestationRequest => exact OutKept.next (attest_kept h _ _)
  | bladeAdmission => exact OutKept.next (admitBlade_kept h _ _ _ _)
  | pcieLinkUp => exact OutKept.next (pcieUp_kept h _ _ _)

end Sys2Proof.Machine
end

section
/-!
PROOFS. What comes before and after a quarter's turn keeps the tables.
-/

namespace Sys2Proof.Machine

set_option Elab.async false

variable {z : State}

theorem tick_kept {s : State} (h : Kept z s) : Kept z (tick s) := by
  unfold tick
  grind [Kept.tabs, Tabs.kept]

theorem countTally_kept {s : State} (h : Kept z s) (g) : Kept z (countTally s g) := by
  unfold countTally
  grind [State.celane_kept, State.ceother_kept, State.uecnt_kept]

theorem stirAll_kept {s : State} (h : Kept z s) : Kept z (stirAll s) := by
  have hcopies : ∀ {t : State} (l : Tab Core), Kept z t →
      Kept z (l.foldl (fun s c => c.2.chans.foldl (fun s x => copyStir s c.1 x.1) s) t) := fun l ht =>
    foldl_kept (fun _ _ hs => foldl_kept (fun _ _ hu => copyStir_kept hu ..) _ hs) l ht
  have hhubs : ∀ {t : State} (l : Tab Pkg), Kept z t →
      Kept z (l.foldl (fun s p => p.2.hub.foldl (fun s h => onHub s p.1 h.1 Stream.stir) s) t) := fun l ht =>
    foldl_kept (fun _ _ hs => foldl_kept (fun _ _ hu => onHub_kept hu _ _ _ fun x _ hx hv => Stream.stir_kept hv x hx) _ hs) l ht
  have hcomm : ∀ {t : State} (l : Tab Group), Kept z t → Kept z (l.foldl (fun s e => commStir s e.1) t) := fun l ht =>
    foldl_kept (fun _ _ hs => commStir_kept hs _) l ht
  have hfence : ∀ {t : State} (l : Tab Group), Kept z t → Kept z (l.foldl (fun s e => fenceCheck s e.1) t) := fun l ht =>
    foldl_kept (fun _ _ hs => fenceCheck_kept hs _) l ht
  exact hfence _ (sendAll_kept (hcomm _ (drainQueues_kept (hhubs _ (hcopies _ h)))))

theorem settleAll_kept {s : State} (h : Kept z s) : Kept z (settleAll s) := by
  have htally : ∀ {t : State} (l : Tab Group), Kept z t → Kept z (l.foldl (fun s e => countTally s e.2) t) := fun l ht =>
    foldl_kept (fun _ _ hs => countTally_kept hs _) l ht
  exact Tabs.kept (Tabs.map (htally (stirAll s).groups (stirAll_kept h)).tabs (f := settleGroup _) fun _ => rfl) ..

theorem afterTurn_kept {t : State} (h : Kept z t) (core q i gk before) : Kept z (afterTurn core q i gk before t) := by
  unfold afterTurn
  grind [Kept.tabs, Tabs.kept, State.putQuarter_kept, State.bump_kept]

theorem thenState_kept {o : Out} (ho : OutKept z o) {f : State → State} (hf : ∀ t, Kept z t → Kept z (f t)) : OutKept z (thenState o f) := by
  cases o with
  | next t => exact OutKept.next (hf _ (ho t rfl))
  | fault e => exact OutKept.fault e
  | refused r => exact OutKept.refused r

theorem quarterFetch_kept {s : State} (h : Kept z s) (core q) : Kept z (quarterFetch s core q) := by
  unfold quarterFetch
  grind [foldl_kept, fetchAhead_kept]

end Sys2Proof.Machine
end

section
/-!
PROOFS. A fetch, and the choice of a group, leave every group in its place.
-/

namespace Sys2Proof.Machine

set_option Elab.async false

/-- A table of groups lists the group `k`. -/
def Holds (k : Nat) (groups : Tab Group) : Prop := (groups.get? k).isSome = true

/-- The group `k` is there. -/
def Has (k : Nat) (s : State) : Prop := Holds k s.groups

theorem Holds.map {k : Nat} {groups : Tab Group} (h : Holds k groups) {f : Nat × Group → Nat × Group} (hf : ∀ e, (f e).1 = e.1) :
    Holds k (groups.map f) := by
  unfold Holds at h ⊢
  induction groups with
  | nil => exact h
  | cons e t ih =>
    obtain ⟨j, g⟩ := e
    obtain ⟨j', g'⟩ : Nat × Group := f (j, g)
    grind [Tab.get?]

theorem Has.of_eq {α : Type} {k : Nat} {p q : State × α} (h : Has k p.1) (he : p = q) : Has k q.1 := he ▸ h

theorem foldl_has {α : Type} {k : Nat} {f : State → α → State} (hf : ∀ s x, Has k s → Has k (f s x)) (l : List α) {s : State} (h : Has k s) :
    Has k (l.foldl f s) := by
  induction l generalizing s with
  | nil => exact h
  | cons x l ih => exact ih (hf s x h)

theorem foldl_pair_has {α β : Type} {k : Nat} {f : State × β → α → State × β} (hf : ∀ p x, Has k p.1 → Has k (f p x).1) (l : List α)
    {p : State × β} (h : Has k p.1) : Has k (l.foldl f p).1 := by
  induction l generalizing p with
  | nil => exact h
  | cons x l ih => exact ih (hf p x h)

theorem Has.holds {k : Nat} {s : State} (h : Has k s) : Holds k s.groups := h

/-- The rule of a change of other fields, in any way. -/
theorem Holds.has {k : Nat} {groups : Tab Group} (h : Holds k groups) (cur : Nat) (mem : Tab Byte) (seals : Tab Nat)
    (cores : Tab Core) (cohorts : Tab Cohort) (clusters : Tab Cluster) (dies : Tab Die) (homes : Tab HomeLine) (flight : List TokMsg)
    (attempts : List Attempt) (owners : Tab PageOwner) (asids : Tab AsidEnt) (descs : Tab RegionDesc) (slots : Tab KeySlot) (ctrs :
    Tab Counter) (amsgs : List AMsg) (colldirs : List CollDir) (carb : Tab Word) (ports : Tab Port) (flowcfg : Tab Word) (worlds : Tab
    Bool) (order : Nat) (refused : List Refused) (refusals : List (Initiator × Nat)) (cpStop : Option (TransReq × Nat × Nat)) (msis :
    List Msi) (snaps : Tab Snap) (counters : Tab Dword) (records : Tab Dword) (owlOut : List OwlMsg) (pkgs : Tab Pkg) (launches : Tab
    Launch) (saved : Tab Saved) (gmsgs : List GangMsg) (nextKey : Nat) (domain : Nat) (lost : Tab Word) (decls : List (Nat × Nat))
    (partner : Tab Nat) (clock : Dword) (agenda : List Turn) (turn : Nat) (free : Nat) :
    Has k {
      groups := groups, cores := cores, mem := mem, seals := seals, cohorts := cohorts, clusters := clusters, dies := dies, homes := homes, flight := flight, attempts := attempts, owners := owners, asids := asids,
      descs := descs, slots := slots, ctrs := ctrs, amsgs := amsgs, colldirs := colldirs, carb := carb, ports := ports, flowcfg := flowcfg, worlds := worlds, order := order, refused := refused, refusals := refusals,
      cpStop := cpStop, msis := msis, snaps := snaps, counters := counters, records := records, owlOut := owlOut, pkgs := pkgs, launches := launches, saved := saved, gmsgs := gmsgs, nextKey := nextKey, domain := domain,
      lost := lost, decls := decls, partner := partner, clock := clock, cur := cur, agenda := agenda, turn := turn, free := free } := h

variable {z : Nat}

theorem State.putCore_has {s : State} (h : Has z s) (k c) : Has z (s.putCore k c) := h

theorem State.bump_has {s : State} (h : Has z s) (pkg b n by_) : Has z (s.bump pkg b n by_) := h

theorem State.putDie_has {s : State} (h : Has z s) (k d) : Has z (s.putDie k d) := h

theorem State.putCluster_has {s : State} (h : Has z s) (k c) : Has z (s.putCluster k c) := h

theorem State.putPkg_has {s : State} (h : Has z s) (p x) : Has z (s.putPkg p x) := h

theorem State.rawPut_has {s : State} (h : Has z s) (a b) : Has z (s.rawPut a b) := h

theorem State.reseal_has {s : State} (h : Has z s) (kid line) : Has z (s.reseal kid line) := by
  rw [Has, reseal_keeps State.groups (fun _ _ _ => rfl) s kid line]
  exact h

theorem State.wrB_has {s : State} (h : Has z s) (kid a b) : Has z (s.wrB kid a b) := by
  unfold State.wrB
  grind [State.rawPut_has, State.reseal_has]

theorem State.wr64_has {s : State} (h : Has z s) (kid a d) : Has z (s.wr64 kid a d) := by
  unfold State.wr64
  grind [foldl_has, State.wrB_has]

theorem touchMsc_has {s : State} (h : Has z s) (line hint write) : Has z (touchMsc s line hint write) := by
  unfold touchMsc
  grind [Has.holds, Holds.has, State.bump_has, State.putDie_has]

theorem mscWrite_has {s : State} (h : Has z s) (line hint) : Has z (mscWrite s line hint) := by
  unfold mscWrite
  grind [State.bump_has, State.putDie_has, touchMsc_has]

theorem leafAt_has {s : State} (h : Has z s) (dk asid back va) : Has z (leafAt s dk asid back va).1 := by
  unfold leafAt
  grind [foldl_has, foldl_pair_has, State.putDie_has, touchMsc_has]

theorem setAD_has {s : State} (h : Has z s) (dk r e) : Has z (setAD s dk r e).1 := by
  unfold setAD
  grind [Has.holds, Holds.has, State.wr64_has, State.putDie_has]

theorem xlLeaf_has {s : State} (h : Has z s) (dk r e) : Has z (xlLeaf s dk r e).1 := by
  unfold xlLeaf
  grind [setAD_has]

theorem xlate_has {s : State} (h : Has z s) (r) : Has z (xlate s r).1 := by
  unfold xlate
  grind [leafAt_has, xlLeaf_has]

theorem State.putPort_has {s : State} (h : Has z s) (pkg p x) : Has z (s.putPort pkg p x) := h

theorem transmit_has {s : State} (h : Has z s) (p q vc n) : Has z (transmit s p q vc n) := by
  unfold transmit
  grind [State.putPort_has]

theorem storeMask_has {s : State} (h : Has z s) (phys leaf data mask) : Has z (storeMask s phys leaf data mask) := by
  unfold storeMask
  grind [foldl_has, State.wrB_has]

theorem stashOut_has {s : State} (h : Has z s) (core idx) : Has z (stashOut s core idx) := by
  unfold stashOut
  grind [Has.holds, Holds.has, foldl_has, State.putCore_has, State.putCluster_has, mscWrite_has, storeMask_has]

theorem lineOut_has {s : State} (h : Has z s) (cl tag) : Has z (lineOut s cl tag) := by
  unfold lineOut
  grind [Has.holds, Holds.has, mscWrite_has, storeMask_has, State.putCluster_has]

theorem wbAll_has {s : State} (h : Has z s) (cl l) : Has z (wbAll s cl l) := by
  unfold wbAll
  grind [foldl_has, stashOut_has, lineOut_has]

theorem wbLine_has {s : State} (h : Has z s) (cl tag) : Has z (wbLine s cl tag) := by
  unfold wbLine
  grind [Has.holds, Holds.has, wbAll_has]

theorem stashWb_has {s : State} (h : Has z s) (core idx) : Has z (stashWb s core idx) := by
  unfold stashWb
  grind [Has.holds, Holds.has, stashOut_has, wbAll_has]

theorem stashDrop_has {s : State} (h : Has z s) (core idx) : Has z (stashDrop s core idx) := by
  unfold stashDrop
  grind [Has.holds, Holds.has, stashWb_has, State.putCore_has]

theorem stashEvent_has {s : State} (h : Has z s) (cl p drop) : Has z (stashEvent s cl p drop) := by
  unfold stashEvent
  grind [foldl_has, stashDrop_has, stashWb_has]

theorem dropLine_has {s : State} (h : Has z s) (cl tag) : Has z (dropLine s cl tag) := by
  unfold dropLine
  grind [Has.holds, Holds.has, foldl_has, wbLine_has, State.putCluster_has, State.putCore_has]

theorem loseResv_has {s : State} (h : Has z s) (line lost) : Has z (loseResv s line lost) := Holds.map h fun _ => rfl

theorem writeResv_has {s : State} (h : Has z s) (line by_) : Has z (writeResv s line by_) := by
  unfold writeResv
  grind [loseResv_has]

theorem State.putHome_has {s : State} (h : Has z s) (line h') : Has z (s.putHome line h') := h

theorem State.putTok_has {s : State} (h : Has z s) (cl line t) : Has z (s.putTok cl line t) := by
  unfold State.putTok
  grind [Has.holds, Holds.has, State.putCluster_has]

theorem dirSet_has {s : State} (h : Has z s) (cl line) : Has z (dirSet s cl line) := by
  unfold dirSet
  grind [Has.holds, Holds.has, State.putDie_has]

theorem dirClear_has {s : State} (h : Has z s) (cl line) : Has z (dirClear s cl line) := by
  unfold dirClear
  grind [Has.holds, Holds.has, State.putDie_has]

theorem vecClear_has {s : State} (h : Has z s) (pkg line) : Has z (vecClear s pkg line) := by
  unfold vecClear
  grind [Has.holds, Holds.has, State.putHome_has]

theorem giveHome_has {s : State} (h : Has z s) (line t) : Has z (giveHome s line t) := by
  unfold giveHome
  grind [Has.holds, Holds.has, State.putHome_has]

theorem surrender_has {s : State} (h : Has z s) (cl line) : Has z (surrender s cl line).1 := by
  unfold surrender
  grind [foldl_has, foldl_pair_has, stashEvent_has, dropLine_has, loseResv_has, dirClear_has, State.putTok_has]

theorem dirRoom_has {s : State} (h : Has z s) (cl line) : Has z (dirRoom s cl line) := by
  unfold dirRoom
  grind [Has.holds, Holds.has, foldl_has, surrender_has, vecClear_has, giveHome_has, State.putDie_has]

theorem giveCluster_has {s : State} (h : Has z s) (cl line t) : Has z (giveCluster s cl line t) := by
  unfold giveCluster
  grind [Has.holds, Holds.has, dirRoom_has, dirSet_has, State.putTok_has, State.putHome_has]

theorem deliverTok_has {s : State} (h : Has z s) (m) : Has z (deliverTok s m) := by
  unfold deliverTok
  grind [giveCluster_has, giveHome_has]

theorem settle_has {s : State} (h : Has z s) (line) : Has z (settle s line) := by
  unfold settle
  grind [Has.holds, Holds.has, foldl_has, deliverTok_has]

theorem answerRead_has {s : State} (h : Has z s) (line) : Has z (answerRead s line).1 := by
  unfold answerRead
  grind [State.putHome_has, surrender_has, stashEvent_has, loseResv_has, State.putTok_has]

theorem answerWrite_has {s : State} (h : Has z s) (cl line) : Has z (answerWrite s cl line).1 := by
  unfold answerWrite
  grind [Has.holds, Holds.has, foldl_has, foldl_pair_has, State.putHome_has, surrender_has, transmit_has, vecClear_has]

theorem censusLine_has {s : State} (h : Has z s) (line) : Has z (censusLine s line) := by
  unfold censusLine
  grind [Has.holds, Holds.has, foldl_has, settle_has, surrender_has, State.putHome_has]

theorem satisfy_has {s : State} (h : Has z s) (a) : Has z (satisfy s a) := by
  unfold satisfy
  grind [Has.holds, Holds.has, answerWrite_has, giveCluster_has, answerRead_has]

theorem quiet_has {s : State} (h : Has z s) (line) : Has z (quiet s line) := by
  unfold quiet
  grind [foldl_has, settle_has, censusLine_has, satisfy_has]

theorem gatherHome_has {s : State} (h : Has z s) (line) : Has z (gatherHome s line) := by
  unfold gatherHome
  grind [quiet_has, answerWrite_has, giveHome_has]

theorem pocLine_has {s : State} (h : Has z s) (line write) : Has z (pocLine s line write) := by
  unfold pocLine
  grind [foldl_has, stashEvent_has, gatherHome_has, dropLine_has, writeResv_has]

theorem State.putQuarter_has {s : State} (h : Has z s) (core q x) : Has z (s.putQuarter core q x) := by
  unfold State.putQuarter
  grind [Has.holds, Holds.has, State.putCore_has]

theorem fetchLine_has {s : State} (h : Has z s) (gk a) : Has z (fetchLine s gk a).1 := by
  unfold fetchLine
  grind [Has.holds, Holds.has, xlate_has, pocLine_has, State.putQuarter_has]

theorem fetchWord_has {s : State} (h : Has z s) (gk a) : Has z (fetchWord s gk a).1 := by
  unfold fetchWord
  grind [fetchLine_has]

theorem fetchWords_has {s : State} (h : Has z s) (gk n a) : Has z (fetchWords gk n a s).1 := by
  induction n generalizing s a with
  | zero => exact h
  | succ n ih =>
    have hone := fetchWord_has h gk a
    unfold fetchWords
    split
    next s1 w he =>
      have hrest : Has z (fetchWords gk n (a + 4) s1).1 := ih (hone.of_eq he) (a + 4)
      split
      next hr => rw [hr] at hrest; exact hrest
      · exact hrest
    next he => exact hone.of_eq he
    next he => exact hone.of_eq he

theorem fetchInstr_has {s : State} (h : Has z s) (gk a) : Has z (fetchInstr gk a s).1 := by
  unfold fetchInstr
  grind [fetchWord_has, fetchWords_has]

theorem bumpCp_has {s : State} (h : Has z s) (pkg n) : Has z (bumpCp s pkg n) := by
  unfold bumpCp
  grind [State.bump_has]

theorem countStart_has {s : State} (h : Has z s) (dk n) : Has z (countStart s dk n) := by
  unfold countStart
  grind [Has.holds, Holds.has, foldl_has, State.putPkg_has, bumpCp_has]

theorem beginCohort_has {s : State} (h : Has z s) (ck) : Has z (beginCohort s ck) := by
  unfold beginCohort
  grind [Has.holds, Holds.has, foldl_has, countStart_has]

end Sys2Proof.Machine
end

section
/-!
PROOFS. A step of the machine: an instruction answers wherever its group is there, a step acts on groups that are there, and what the
quarter that is due does (R85, R100, R212 to R216). With it what every step keeps.
-/

namespace Sys2Proof.Machine

set_option Elab.async false

/-! ### An answer wherever the group is there -/


/-- How an instruction answers: a next state where its group is there, and no group's fault where it is not. -/
def Answers (s : State) (o : Out) : Prop :=
  (∀ g, s.groups.get? s.cur = some g → ∃ t, o = .next t) ∧ (s.groups.get? s.cur = none → o = .fault .noGroup)

theorem issueC_answers (s : State) (ck sh o body) : Answers s (issueC ck sh o body s) := by
  unfold issueC
  constructor
  · intro g hg
    rw [hg]
    exact ⟨_, rfl⟩
  · intro hg
    rw [hg]

theorem clauseStart_answers (s : State) (wait seta setb n tmask len bad) : Answers s (clauseStart wait seta setb n tmask len bad s) := by
  unfold clauseStart
  constructor
  · intro g hg
    rw [hg]
    dsimp only
    split
    · exact ⟨_, rfl⟩
    · exact ⟨_, rfl⟩
  · intro hg
    rw [hg]

theorem exitGroup_answers (s : State) (ck sh o) : Answers s (exitGroup ck sh o s) := by
  have hissue := issueC_answers s ck.closing sh o (fun s g =>
    let s := commAll (s.putG g) s.cur
    let g := s.grp s.cur
    if exitBusy s g then heldWith s
    else if !g.trap.h && !g.trap.pending.isEmpty then .ok { s := s, g := g.deliver, done := true }
    else .ok { s := s, g := { g with run := .exited, wait := .none }, done := true })
  constructor
  · intro g hg
    obtain ⟨t, ht⟩ := hissue.1 g hg
    exact ⟨_, by unfold exitGroup; rw [ht]⟩
  · intro hg
    unfold exitGroup
    rw [hissue.2 hg]

/-- Every event answers a next state, and every instruction answers as `issueC` does. -/
theorem exec_answers (s : State) (i : Instr) : if isEvent i then ∃ t, exec i s = .next t else Answers s (exec i s) := by
  unfold exec
  cases i with
  | clause | clauseTmask | clauseExtended => exact clauseStart_answers ..
  | exitB3 | exit => exact exitGroup_answers ..
  | longLatencyCompletion | mscRequest | retryHintExpiry | tgemmStep | tileInstructionStart | powerGrant | powerRelease | budgetWrite |
      copyPieceLand | copyPieceRefused | copyErrorAnswer | ratomAck | allowanceServe | allowanceGrant | allowanceRefusal | exactReadReply
      | allowanceRecall | recallAnswer | allowanceReturn | giveUp | solverStageInput | solverStageCollect | solverDecide | solverEnd |
      solverAccessFault | collJoin | bucketReady | segmentReceive | collComplete | collAbort | pendingQueueTake | launchAccept |
      widxAdvance | packetNop | packetLaunch | packetCopy | packetSignal | packetWait | packetBarrierAnd | packetQreset | gangctlSwitch |
      gangctlSnap | waitConditionMet | registrationTicket | ctxreg | ctxdereg | qstart | qresetCommand | invalidCommand | queueReset |
      queueResetComplete | rampStep | preempt | cohortRestore | launchFaultEnd | gangPropose | gangSliceSaved | gangAck | gangCommit |
      liveUpdate | heartbeatTakeover | packageReset | mtlbRequest | walkComplete | cohReadRequest | cohWriteRequest | cohRecall |
      cohTokenAnswer | cohEviction | dirtyNotice | pdirtyNotice | dirtyWriteback | persistentRequest | classConflict | censusReport |
      eccUncorrectedConsume | tileEngineError | coreEntryError | flitReceive | nakReceive | nakBurst | laneFail | trainingComplete |
      retrainTimeout | presentFall | presentRise | peerHeartbeatTimeout | lossDeclaration | owlPinTrigger | owlForwardReceive |
      snapshotRearm | keyMaterialWrite | ctnlogClear | pcieInboundWrite | pcieInboundRead | pcieLinkDown | registerWrite |
      attestationRequest | bladeAdmission | pcieLinkUp =>
    exact ⟨_, rfl⟩
  | _ => exact issueC_answers ..

theorem event_answers {i : Instr} (hi : isEvent i = true) (s : State) : ∃ t, exec i s = .next t := by
  simpa [hi] using exec_answers s i

theorem instr_answers {i : Instr} (hi : isEvent i = false) (s : State) : Answers s (exec i s) := by
  simpa [hi] using exec_answers s i

/-! ### The events that the state holds work for -/

/-- A list of events. -/
def AllEvents (l : List Instr) : Prop := ∀ i ∈ l, isEvent i = true

theorem AllEvents.append {a b : List Instr} (ha : AllEvents a) (hb : AllEvents b) : AllEvents (a ++ b) := List.forall_mem_append.2 ⟨ha, hb⟩

theorem AllEvents.flatMap {α : Type} {l : List α} {f : α → List Instr} (hf : ∀ x, AllEvents (f x)) : AllEvents (l.flatMap f) := fun i hi => by
  obtain ⟨x, _, hx⟩ := List.mem_flatMap.1 hi
  exact hf x i hx

theorem AllEvents.map {α : Type} {l : List α} {f : α → Instr} (hf : ∀ x, isEvent (f x) = true) : AllEvents (l.map f) :=
  List.forall_mem_map.2 fun x _ => hf x

theorem AllEvents.nil : AllEvents [] := List.forall_mem_nil _
theorem AllEvents.cons {i : Instr} {l : List Instr} (hi : isEvent i = true) (hl : AllEvents l) : AllEvents (i :: l) := List.forall_mem_cons.2 ⟨hi, hl⟩

theorem AllEvents.ite {p : Prop} [Decidable p] {a b : List Instr} (ha : AllEvents a) (hb : AllEvents b) : AllEvents (if p then a else b) := by
  split <;> assumption

theorem groupEvents_allEvents (s : State) : AllEvents (groupEvents s) := .flatMap fun e => by
  refine .append (.append (.map fun _ => rfl) (.map fun _ => rfl)) ?_
  cases e.2.run with
  | halted => exact .cons rfl .nil
  | _ => exact .nil

theorem coreEvents_allEvents (s : State) : AllEvents (coreEvents s) := .flatMap fun _ =>
  .append (.append (.append (.map fun _ => rfl) (.ite .nil (.cons rfl .nil))) (.map fun _ => rfl)) (.ite (.cons rfl .nil) .nil)

theorem solverEvents_allEvents (die : Nat) (e : Nat × SolverBatch) : AllEvents (solverEvents die e) := by
  unfold solverEvents
  cases e.2.act with
  | idle => exact .nil
  | _ => exact .cons rfl .nil

theorem dieEvents_allEvents (s : State) : AllEvents (dieEvents s) := .flatMap fun d =>
  .append (.append (.append (.append (.ite .nil (.cons rfl .nil)) (.map fun _ => rfl)) (.map fun _ => rfl))
    (.flatMap fun e => solverEvents_allEvents d.1 e))
    (.flatMap fun _ => .cons rfl (.cons rfl (.cons rfl (.cons rfl (.cons rfl .nil)))))

theorem allowEvents_allEvents (s : State) : AllEvents (allowEvents s) := .append (.map fun _ => rfl) (.map fun m => by
  cases m.1.word <;> rfl)

theorem queueEvents_allEvents (pkg a i : Nat) (q : Queue) : AllEvents (queueEvents pkg a i q) := by
  unfold queueEvents
  cases q.st with
  | stopped | error => exact .nil
  | idle | blocked => exact .cons rfl .nil
  | resetting => exact .cons rfl (.cons rfl .nil)
  | run =>
    exact .cons rfl (.cons rfl (.cons rfl (.cons rfl (.cons rfl (.cons rfl (.cons rfl (.cons rfl (.cons rfl (.cons rfl .nil)))))))))

theorem slotEvents_allEvents (pkg n : Nat) (w : WinSlot) : AllEvents (slotEvents pkg n w) := by
  unfold slotEvents
  split
  · exact .cons rfl .nil
  · split
    all_goals exact .cons rfl .nil

theorem pkgEvents_allEvents (s : State) : AllEvents (pkgEvents s) := .flatMap fun p =>
  .append (.append (.append (.append (.cons rfl (.cons rfl .nil)) (.ite .nil (.cons rfl .nil)))
    (.flatMap fun w => slotEvents_allEvents p.1 w.1 w.2))
    (.flatMap fun c => .flatMap fun q => queueEvents_allEvents p.1 c.1 q.1 q.2)) (.map fun _ => rfl)

theorem cohortEvents_allEvents (s : State) : AllEvents (cohortEvents s) :=
  .append (.map fun _ => rfl) (.flatMap fun _ => .map fun _ => rfl)

theorem linkEvents_allEvents (s : State) : AllEvents (linkEvents s) :=
  .append (.append (.append (.append (.append (.map fun _ => rfl) (.map fun _ => rfl)) (.map fun _ => rfl))
    (.map fun m => by cases m.1.word <;> rfl)) (.map fun _ => rfl)) (.map fun _ => rfl)

theorem inner_allEvents (s : State) : AllEvents (inner s) :=
  .append (.append (.append (.append (.append (.append (.append (groupEvents_allEvents s) (coreEvents_allEvents s)) (dieEvents_allEvents s))
    (.map fun _ => rfl)) (allowEvents_allEvents s)) (pkgEvents_allEvents s)) (cohortEvents_allEvents s)) (linkEvents_allEvents s)

/-! ### A group in its place -/

theorem lt_of_above {α : Type} {lo : Nat} {t : Tab α} (h : Tab.above lo t = true) {e : Nat × α} (he : e ∈ t) : lo < e.1 := by
  induction t generalizing lo with
  | nil => cases he
  | cons x t ih =>
    simp only [Tab.above, Bool.and_eq_true, decide_eq_true_eq] at h
    rcases List.mem_cons.1 he with rfl | he
    · exact h.1
    · exact Nat.lt_trans h.1 (ih h.2 he)

theorem get?_of_mem {α : Type} {t : Tab α} (ht : t.rising = true) {e : Nat × α} (he : e ∈ t) : t.get? e.1 = some e.2 := by
  induction t with
  | nil => cases he
  | cons x t ih =>
    rcases List.mem_cons.1 he with rfl | he
    · simp [Tab.get?]
    · have hlt : x.1 < e.1 := lt_of_above ht he
      rw [Tab.get?, if_neg (by omega), if_neg (by omega)]
      exact ih (Tab.rising_of_above ht) he

theorem has_of_placeOf {s : State} (hs : s.tablesOk = true) {core q i gk : Nat} (h : placeOf s core q i = some gk) : Has gk s := by
  obtain ⟨e, he, rfl⟩ := Option.map_eq_some_iff.1 h
  exact Option.isSome_iff_exists.2 ⟨_, get?_of_mem (State.tablesOk_iff.1 hs).2.2 (List.mem_of_find?_eq_some he)⟩

theorem has_of_clause {s : State} {gk : Nat} (h : (s.grp gk).clause.isSome = true) : Has gk s := by
  unfold Has Holds
  cases hg : s.groups.get? gk with
  | some g => rfl
  | none => simp [State.grp, Tab.getD, hg] at h

/-! ### What a step answers, and that it keeps the form of the tables -/

/-- An outcome is a next state whose tables are in their form. -/
def GoesOn (o : Out) : Prop := ∃ t, o = .next t ∧ t.tablesOk = true

theorem GoesOn.next {t : State} (h : t.tablesOk = true) : GoesOn (.next t) := ⟨t, rfl, h⟩

theorem GoesOn.of_kept {z : State} (hz : z.tablesOk = true) {o : Out} (ho : OutKept z o) (hn : ∃ t, o = .next t) : GoesOn o := by
  obtain ⟨t, rfl⟩ := hn
  exact ⟨t, rfl, (ho t rfl).tables hz⟩

theorem GoesOn.thenState {o : Out} (ho : GoesOn o) {f : State → State} (hf : ∀ t, Kept t (f t)) : GoesOn (thenState o f) := by
  obtain ⟨t, rfl, ht⟩ := ho
  exact .next ((hf t).tables ht)

theorem event_goesOn {s : State} (hs : s.tablesOk = true) {i : Instr} (hi : isEvent i = true) : GoesOn (exec i s) :=
  .of_kept hs (exec_kept (Kept.refl s) i) (event_answers hi s)

theorem exec_goesOn {s : State} (hs : s.tablesOk = true) (hg : Has s.cur s) (i : Instr) : GoesOn (exec i s) := by
  cases hi : isEvent i with
  | true => exact event_goesOn hs hi
  | false =>
    obtain ⟨g, hg⟩ := Option.isSome_iff_exists.1 hg
    exact .of_kept hs (exec_kept (Kept.refl s) i) ((instr_answers hi s).1 g hg)

theorem issueNext_goesOn {s : State} (hs : s.tablesOk = true) {gk : Nat} (hg : Has gk s) : GoesOn (issueNext s gk) := by
  have hz : ({ s with cur := gk } : State).tablesOk = true := hs
  have hput : ∀ g, ({ s with cur := gk }.putGrp gk g).tablesOk = true := fun g => (State.putGrp_kept (Kept.refl _) gk g).tables hz
  unfold issueNext
  dsimp only
  split
  · exact .next (hput _)
  · split
    · exact exec_goesOn hz hg _
    · exact .next (hput _)

theorem startNext_goesOn {s : State} (hs : s.tablesOk = true) {gk : Nat} (hg : Has gk s) : GoesOn (startNext s gk) := by
  have hz : ({ s with cur := gk } : State).tablesOk = true := hs
  have hfetch := fun a => fetchInstr_kept (Kept.refl { s with cur := gk }) gk a
  have hhas := fun a => fetchInstr_has (s := { s with cur := gk }) hg gk a
  unfold startNext
  dsimp only
  split
  next he => exact .next ((fetchStop_kept ((hfetch _).of_eq he) ..).tables hz)
  next he => exact .next ((fetchStop_kept ((hfetch _).of_eq he) ..).tables hz)
  next s1 ws he =>
    have h1 : Kept { s with cur := gk } s1 := (hfetch _).of_eq he
    have hput : ∀ g, (s1.putGrp gk g).tablesOk = true := fun g => (State.putGrp_kept h1 gk g).tables hz
    split
    · split
      · refine exec_goesOn (h1.tables hz) ?_ _
        rw [show s1.cur = gk from h1.cur]
        exact (hhas _).of_eq he
      · exact .next (hput _)
    · split
      · exact .next ((startClause_kept h1 ..).tables hz)
      · exact .next (hput _)

theorem actNext_goesOn {s : State} (hs : s.tablesOk = true) {gk : Nat} (hg : Has gk s) : GoesOn (actNext s gk) := by
  unfold actNext
  split
  · exact issueNext_goesOn hs hg
  · exact startNext_goesOn hs hg

theorem runPlace_goesOn {s : State} {core q i gk : Nat} {act : State → Nat → Out} (h : GoesOn (act s gk)) :
    GoesOn (runPlace s core q i gk act) :=
  h.thenState fun t => afterTurn_kept (Kept.refl t) ..

theorem quarterPick_goesOn {s : State} (hs : s.tablesOk = true) (core q : Nat) : GoesOn (quarterPick s core q) := by
  unfold quarterPick
  dsimp only
  split
  · exact .next hs
  next i _ =>
    split
    · exact .next hs
    next gk hp =>
      have hg := has_of_placeOf hs hp
      have hq : ∀ x, (s.putQuarter core q x).tablesOk = true := fun x => (State.putQuarter_kept (Kept.refl s) core q x).tables hs
      have hstay : ∀ x, GoesOn (runPlace (s.putQuarter core q x) core q i gk actNext) := fun x =>
        runPlace_goesOn (actNext_goesOn (hq x) (State.putQuarter_has hg core q x))
      have hbegin : ∀ x c, GoesOn (runPlace (beginCohort (s.putQuarter core q x) c) core q i gk actNext) := fun x c =>
        runPlace_goesOn (actNext_goesOn ((beginCohort_kept (Kept.refl _) c).tables (hq x)) (beginCohort_has (State.putQuarter_has hg core q x) c))
      split
      · exact hbegin _ _
      · exact hstay _

theorem quarterTurn_goesOn {s : State} (hs : s.tablesOk = true) (core q : Nat) : GoesOn (quarterTurn s core q) := by
  have hf := (quarterFetch_kept (Kept.refl s) core q).tables hs
  unfold quarterTurn
  dsimp only
  split
  · exact quarterPick_goesOn hf core q
  · split
    · exact quarterPick_goesOn hf core q
    next gk hp =>
      split
      · exact runPlace_goesOn (issueNext_goesOn hf (has_of_placeOf hf hp))
      · exact quarterPick_goesOn hf core q

theorem freeTurn_goesOn {s : State} (hs : s.tablesOk = true) (n : Nat) : GoesOn (freeTurn s n) := by
  unfold freeTurn
  dsimp only
  split
  · exact quarterTurn_goesOn hs _ _
  · split
    next i hi => exact event_goesOn hs (inner_allEvents s i (List.mem_of_getElem? hi))
    · exact .next hs

theorem step_goesOn {s : State} (hs : s.tablesOk = true) : GoesOn (step s) := by
  have ht := (settleAll_kept (tick_kept (Kept.refl s))).tables hs
  unfold step
  dsimp only
  split
  next i rest _ =>
    split
    next hi => exact event_goesOn (s := { settleAll (tick s) with agenda := rest }) ht hi
    · exact .next ht
  next q rest _ => exact quarterTurn_goesOn (s := { settleAll (tick s) with agenda := rest }) ht _ _
  · exact freeTurn_goesOn (s := { settleAll (tick s) with turn := (settleAll (tick s)).turn + 1 }) ht _

/-- Settles O53: every operation keeps the form of the tables (`exec_kept` and the lemmas below it), and a step is made of them. -/
theorem stepKeepsTables : Obligations.StepKeepsTables := by
  unfold Obligations.StepKeepsTables
  intro s t hs ht
  obtain ⟨u, hu, hok⟩ := step_goesOn hs
  rw [ht] at hu
  cases hu
  exact hok

/-- Settles O54: an instruction answers where its group is there, and a step acts on groups that are there alone: those in a place of
a quarter, as the table of groups lists them in its form. -/
theorem stepAlwaysAnswers : Obligations.StepAlwaysAnswers := by
  unfold Obligations.StepAlwaysAnswers
  refine ⟨fun s hs => ?_, fun i s hi => event_answers hi s, fun i s g hg => ?_, fun i s hi hg => (instr_answers hi s).2 hg⟩
  · obtain ⟨t, ht, _⟩ := step_goesOn hs
    exact ⟨t, ht⟩
  · cases hi : isEvent i with
    | true => exact event_answers hi s
    | false => exact (instr_answers hi s).1 g hg

/-! ### The step of a quarter that has its turn -/

theorem step_of_quarterDue {s s1 : State} {k : Nat} (h : QuarterDue s k s1) :
    ∃ s0, s1 = quarterFetch s0 (k / 4) (k % 4) ∧ step s = quarterTurn s0 (k / 4) (k % 4) := by
  unfold QuarterDue at h
  unfold step
  generalize settleAll (tick s) = t at h ⊢
  dsimp only
  rcases h with ⟨rest, ha, hs⟩ | ⟨ha, s0, h0, hs, hq⟩
  · exact ⟨_, hs, by rw [ha]⟩
  · refine ⟨s0, hs, ?_⟩
    have hfree : freeTurn s0 t.turn = quarterTurn s0 (k / 4) (k % 4) := by
      unfold freeTurn
      dsimp only
      rw [hq]
    split
    next he => exact absurd (he.symm.trans ha) (List.cons_ne_nil _ _)
    next he => exact absurd (he.symm.trans ha) (List.cons_ne_nil _ _)
    · rw [← hfree, h0]

/-- The step of a quarter whose running clause goes on. -/
theorem step_of_runsClause {s s1 : State} {k p gk : Nat} {ws : List Word} (hd : QuarterDue s k s1) (hr : RunsClause s1 k p gk ws) :
    step s = runPlace s1 (k / 4) (k % 4) p gk issueNext := by
  obtain ⟨s0, h0, hs⟩ := step_of_quarterDue hd
  obtain ⟨hrun, hplace, hissue, _⟩ := hr
  rw [hs]
  unfold quarterTurn
  dsimp only
  rw [← h0]
  rw [hrun]
  dsimp only
  rw [hplace]
  exact if_pos hissue

theorem issueNext_words {s : State} {k p gk : Nat} {ws : List Word} (hr : RunsClause s k p gk ws) :
    issueNext s gk = match decodeWords ws with
      | .ok (i, _) => exec i { s with cur := gk }
      | .error _ => .next ({ s with cur := gk }.putGrp gk ({ s.grp gk with wait := .none }.trapEm causeIllegal)) := by
  obtain ⟨_, _, _, hws⟩ := hr
  obtain ⟨it, hit, rfl⟩ := Option.map_eq_some_iff.1 hws
  have hgrp : (({ s with cur := gk } : State).grp gk).clause.bind (·.item) = some it := hit
  simp only [issueNext, hgrp]
  rfl

/-- The step of a quarter that chooses a group: its first outcome where a clause has started, and else that of a turn without the choice. -/
theorem step_of_startsClause {s s1 : State} {k p gk : Nat} (hd : QuarterDue s k s1) (hc : StartsClause s1 k p gk) :
    step s =
      (let o := runPlace (beginCohort (s1.putQuarter (k / 4) (k % 4)
          { (s1.quarter (k / 4) (k % 4)).chosen (readyPlaces s1 (k / 4) (k % 4)) p with running := none }) (s1.grp gk).cohort)
          (k / 4) (k % 4) p gk actNext
        if started (s1.grp gk) gk o then o
        else runPlace (s1.putQuarter (k / 4) (k % 4) { s1.quarter (k / 4) (k % 4) with running := none }) (k / 4) (k % 4) p gk actNext) := by
  obtain ⟨s0, h0, hs⟩ := step_of_quarterDue hd
  obtain ⟨hrun, hchoose, hplace, _⟩ := hc
  rw [hs]
  unfold quarterTurn
  dsimp only
  rw [← h0]
  rw [hrun]
  unfold quarterPick
  dsimp only
  rw [hchoose]
  dsimp only
  rw [hplace]

/-! ### The groups of the state in which a chosen group acts -/

theorem foldl_groups {α : Type} {f : State → α → State} (hf : ∀ s x, (f s x).groups = s.groups) (l : List α) (s : State) :
    (l.foldl f s).groups = s.groups := foldl_state_keeps State.groups hf l s

theorem countStart_groups (s : State) (dk n : Nat) : (countStart s dk n).groups = s.groups :=
  foldl_groups (f := fun s _ => bumpCp s (dk / 4) 3) (fun _ _ => rfl) (List.range n) _

theorem beginCohort_groups (s : State) (ck : Nat) : (beginCohort s ck).groups = s.groups := by
  unfold beginCohort
  split
  · rfl
  · exact (countStart_groups ..).trans
      (foldl_groups (f := fun s k => { s with cohorts := s.cohorts.put k { s.cohort k with begun := true } }) (fun _ _ => rfl) _ s)

theorem beginCohort_grp (s : State) (core q ck gk : Nat) (x : Quarter) : (beginCohort (s.putQuarter core q x) ck).grp gk = s.grp gk := by
  unfold State.grp
  rw [beginCohort_groups]
  rfl

theorem afterTurn_grp (core q i gk : Nat) (before : Group) (t : State) (k : Nat) : (afterTurn core q i gk before t).grp k = t.grp k := by
  unfold afterTurn
  dsimp only
  split
  · rfl
  · rfl

theorem startNext_of_fetch {s t : State} {gk : Nat} {ws : List Word} {a : Dword} (ha : (s.grp gk).pc = a)
    (hf : fetchInstr gk a { s with cur := gk } = (t, .ok ws)) :
    startNext s gk = match decodeWords ws with
      | .ok (i, _) => if isHeader i then exec i t else .next (t.putGrp gk ((t.grp gk).trapEm causeClause))
      | .error _ =>
        if opOf ws = 0 then
          let h := headerOf (ws.headD 0)
          .next (startClause t gk h.wait.toNat h.seta.toNat h.setb.toNat h.n.toNat 0 ws.length true)
        else .next (t.putGrp gk ((t.grp gk).trapEm causeClause)) := by
  subst ha
  unfold startNext
  dsimp only
  rw [show (({ s with cur := gk } : State).grp gk).pc = (s.grp gk).pc from rfl, hf] <;> rfl

theorem actNext_of_boundary {s : State} {gk : Nat} (h : (s.grp gk).clause = none) : actNext s gk = startNext s gk := by
  simp [actNext, h]

/-! ### Words that are no header -/

theorem opOf_header {i : Instr} (hi : isHeader i = true) (rest : List Word) : opOf (encode i ++ rest) = 0 := by
  unfold isHeader at hi
  unfold encode
  cases hf : form i with
  | clause h => exact congrArg BitVec.toNat (op_headerWord _ _)
  | clauseLit h lit => exact congrArg BitVec.toNat (op_headerWord _ _)
  | clauseExt h w1 w2 => exact congrArg BitVec.toNat (op_headerWord _ _)
  | _ => simp [hf] at hi

theorem isHeader_of_decodeWords {ws rest : List Word} {i : Instr} (h : decodeWords ws = .ok (i, rest)) (hop : opOf ws ≠ 0) :
    isHeader i = false := by
  obtain ⟨_, _, rfl⟩ := encode_decodeWords h
  exact Bool.eq_false_iff.2 fun hi => hop (opOf_header hi rest)

/-- The start of a clause at a word that is no header. -/
theorem startNext_noHeader {s t : State} {gk : Nat} {ws : List Word} {a : Dword} (ha : (s.grp gk).pc = a)
    (hf : fetchInstr gk a { s with cur := gk } = (t, .ok ws)) (hop : opOf ws ≠ 0) :
    startNext s gk = .next (t.putGrp gk ((t.grp gk).trapEm causeClause)) := by
  rw [startNext_of_fetch ha hf]
  cases hd : decodeWords ws with
  | error e => simp only [if_neg hop]
  | ok r => simp only [isHeader_of_decodeWords hd hop, Bool.false_eq_true, if_false]

theorem Group.trapEm_clause {g : Group} (h : g.clause = none) (cause sub : Nat) (addr : Dword) : (g.trapEm cause sub addr).clause = none := by
  simp only [Group.trapEm, Group.trapHere, h, Group.trapEntry]
  split
  · exact h
  · split
    · exact h
    · rfl

/-- A clause that has not started at a word that is no header: the choice leaves no trace. -/
theorem not_started {before : Group} {gk core q i : Nat} {t : State} (hb : before.clause = none) (g : Group) (ht : (t.grp gk).clause = none) :
    started before gk (.next (afterTurn core q i gk g t)) = false := by
  simp [started, hb, afterTurn_grp, ht]

/-- Settles O52: what the due quarter does, by the four ways in which its group goes on. -/
theorem stepRunsDecoded : Obligations.StepRunsDecoded := by
  unfold Obligations.StepRunsDecoded
  refine ⟨?_, ?_, ?_, ?_, ?_⟩
  · intro s k s1 p gk ws i rest hd hr hw
    rw [step_of_runsClause hd hr, runPlace, issueNext_words hr, hw]
  · intro s k s1 p gk ws e hd hr hw
    rw [step_of_runsClause hd hr, runPlace, issueNext_words hr, hw]
    rfl
  · intro s k s1 p gk ws s2 i rest hd hc hf hw hi t ht _ hopen
    rw [step_of_startsClause hd hc]
    have hgrp := beginCohort_grp s1 (k / 4) (k % 4) (s1.grp gk).cohort gk
      { (s1.quarter (k / 4) (k % 4)).chosen (readyPlaces s1 (k / 4) (k % 4)) p with running := none }
    have hact : actNext (beginCohort (s1.putQuarter (k / 4) (k % 4)
        { (s1.quarter (k / 4) (k % 4)).chosen (readyPlaces s1 (k / 4) (k % 4)) p with running := none }) (s1.grp gk).cohort) gk = .next t := by
      rw [actNext_of_boundary (hgrp.symm ▸ hc.2.2.2), startNext_of_fetch (congrArg Machine.Group.pc hgrp) hf, hw]
      simpa [hi] using ht
    have hstart : started (s1.grp gk) gk (.next (afterTurn (k / 4) (k % 4) p gk (s1.grp gk) t)) = true := by
      simp [started, afterTurn_grp, hopen]
    simp only [runPlace, hact, hgrp, thenState, hstart, if_true]
  · intro s k s1 p gk ws s2 s3 hd hc hf3 hopen hf2 hop
    rw [step_of_startsClause hd hc]
    have hgrp := beginCohort_grp s1 (k / 4) (k % 4) (s1.grp gk).cohort gk
      { (s1.quarter (k / 4) (k % 4)).chosen (readyPlaces s1 (k / 4) (k % 4)) p with running := none }
    have hact : actNext (beginCohort (s1.putQuarter (k / 4) (k % 4)
        { (s1.quarter (k / 4) (k % 4)).chosen (readyPlaces s1 (k / 4) (k % 4)) p with running := none }) (s1.grp gk).cohort) gk =
        .next (s3.putGrp gk ((s3.grp gk).trapEm causeClause)) := by
      rw [actNext_of_boundary (hgrp.symm ▸ hc.2.2.2), startNext_noHeader (congrArg Machine.Group.pc hgrp) hf3 hop]
    have hact2 : actNext (s1.putQuarter (k / 4) (k % 4) { s1.quarter (k / 4) (k % 4) with running := none }) gk =
        .next (s2.putGrp gk ((s2.grp gk).trapEm causeClause)) := by
      exact (actNext_of_boundary (s := s1.putQuarter _ _ _) hc.2.2.2).trans (startNext_noHeader rfl hf2 hop)
    have hclause : ((s3.putGrp gk ((s3.grp gk).trapEm causeClause)).grp gk).clause = none := by
      rw [show (s3.putGrp gk ((s3.grp gk).trapEm causeClause)).grp gk = (s3.grp gk).trapEm causeClause from
        State.grp_of_get? (Tab.get?_put_self _ _ _)]
      exact Group.trapEm_clause hopen ..
    simp only [runPlace, hact, hact2, hgrp, thenState, not_started hc.2.2.2 _ hclause, Bool.false_eq_true, if_false]
    rfl
  · intro s i rest ha
    unfold step
    generalize settleAll (tick s) = t at ha ⊢
    dsimp only
    rw [ha]

end Sys2Proof.Machine
end

section
/-!
PROOFS. The order of the checks (R98, R100, R101, R106): where an instruction's predicate does not let it act, a pending write to the
predicate still raises RACE in a group that takes race traps, so such an instruction does not only move on.
-/

namespace Sys2Proof.Machine

/-- The clause that the group has open. -/
def racingClause : Clause :=
  { head := 0x1000, seta := 15, setb := 15, tmask := 0, body := [{ addr := 0x1004, words := [], ll := false }], idx := 0, after := 0x1008 }

/-- A group that takes race traps; a load of lane predicate 1 is pending in every lane, and its old and new value are 0. -/
def racingGroup : Group := { placedGroup 0 with
  pc := 0x1004
  clause := some racingClause
  trap := { trapen := 1 }
  pend := [{ id := 0, dests := [.q 1], lanes := 0xFFFF, wait := .allowance }] }

def racingState : State := { groups := [(1, racingGroup)], cur := 1 }

/-- IADD under lane predicate 1. -/
def racingAdd : EOps := { d := 8, a := 16, b := 8, qs := 1 }

/-- Group 1 still runs after an event. -/
def goesOn : Out → Bool
  | .next t => (t.grp 1).run == .running
  | _ => false

/-- Refutes O57: IADD under lane predicate 1 in `racingState` acts in no lane, and takes a RACE trap. -/
theorem not_trapOrder : ¬ Obligations.TrapOrder := by
  intro h
  obtain ⟨-, -, -, -, hmoves, -, -⟩ := h (.iadd racingAdd) 0x20 0 racingAdd _ racingState racingGroup racingClause rfl
  have hnext := hmoves ⟨rfl, rfl, rfl, .inl rfl, rfl⟩ (.inl (.inr (by decide))) (by decide +kernel) (by decide +kernel) (by decide +kernel)
  have hgoes : goesOn (.next (racingState.with (racingGroup.wrote racingClause []))) = true := by decide +kernel
  have htraps : goesOn (exec (.iadd racingAdd) racingState) = false := by decide +kernel
  rw [hnext, hgoes] at htraps
  exact absurd htraps (by decide)

end Sys2Proof.Machine
end

section
/-!
PROOFS. The frame of the arithmetic instructions: MOVX.ST with an index of 2048 or more, in a group whose record says that it has as many
lane registers, writes at a place that is a lane predicate's.
-/

namespace Sys2Proof.Machine

/-- MOVX.ST of lane register 8, by index register 0 and base 0. -/
def farMove : EOps := { a := 8 }

/-- A group of 3000 lane registers (R253 bounds an index by N32 alone); in lane 0, its one active lane, index register 0 is 2048 and lane
register 8 is 5. -/
def farGroup : Group := { placedGroup 0 with
  info := { placedRecord with n32 := 3000 }
  pc := 0x1004
  em := 1
  clause := some { head := 0x1000, seta := 15, setb := 15, tmask := 0, body := [{ addr := 0x1004, words := [], ll := false }], idx := 0, after := 0x1008 }
  regs := [(vKey 8 0, 5)]
  x := [(0, 2048)] }

def farState : State := { groups := [(1, farGroup)], cur := 1 }

/-- Group 1 has taken no trap after an event, and its lane predicate 0 is another than it was. -/
def movesPredicate : Out → Bool
  | .next t => match t.groups.get? 1 with
    | some h => decide (h.trap = farGroup.trap ∧ h.run = farGroup.run ∧ h.q.get? 0 ≠ farGroup.q.get? 0)
    | none => false
  | _ => false

/-- Refutes O56: MOVX.ST in `farState` changes lane predicate 0, which is no destination of it. -/
theorem not_arithmeticFrame : ¬ Obligations.ArithmeticFrame := by
  rintro ⟨-, hint⟩
  obtain ⟨t, ht⟩ := (instr_answers (i := .movxSt farMove) rfl farState).1 farGroup rfl
  have hmoves : movesPredicate (exec (.movxSt farMove) farState) = true := by decide +kernel
  rw [ht, movesPredicate] at hmoves
  split at hmoves
  next h hh =>
    obtain ⟨htrap, hrun, hq⟩ := of_decide_eq_true hmoves
    obtain ⟨-, -, hq', -⟩ := hint _ _ _ _ farState t farGroup h rfl (.inr (by decide)) rfl rfl ht hh htrap hrun
    exact absurd (hq' 0 hq) (by decide +kernel)
  next => exact absurd hmoves (by decide)

end Sys2Proof.Machine
end

section
/-!
PROOFS. EXIT, LAUNCH and LSTAT; with them what waits for earlier stores before it reaches an engine.
-/

namespace Sys2Proof.Machine

/-! ### Translations that answer -/

theorem TranslatesTo.xlate {s t : State} {r : TransReq} {pa : Nat} {e : TlbEnt} (h : TranslatesTo s r t pa e) : xlate s r = (t, .ok pa e) := by
  rcases h with h | ⟨h, rfl, rfl⟩
  · exact h
  · exact xlate_mapped h

theorem OpensAt.pocOpen {s t : State} {r : TransReq} {x : Nat × Dword} (h : OpensAt s r t x) : pocOpen s r = (t, .ok x) := by
  rcases h with h | ⟨e, h, rfl, rfl⟩
  · exact h
  · exact pocOpen_mappedControl h

theorem LeafAt.classLeaf {s t : State} {gk : Nat} {va : Dword} {wr : Bool} {e : TlbEnt} (h : LeafAt s gk va wr t e) :
    classLeaf s gk va wr = (t, .ok e) := by
  rcases h with h | ⟨h, hc, rfl⟩
  · exact h
  · exact classLeaf_mapped h hc

/-! ### The state in which an instruction has its effect -/

theorem issuing_eq_putG (s : State) (g : Group) : issuing s g = s.putG { g with wait := .none } := rfl

theorem issuing_grp (s : State) (g : Group) : (issuing s g).grp s.cur = { g with wait := .none } := State.grp_putG s _

theorem issuing_putG (s : State) (g : Group) : (issuing s g).putG { g with wait := .none } = issuing s g := by
  simp [issuing, State.with, State.putG]

theorem put_issuing (s : State) (g h : Group) : (issuing s g).putG h = s.with h := by
  simp [issuing, State.with, State.putG]

theorem issuing_commAll (s : State) {g : Group} (hcomm : g.comm = []) : commAll (issuing s g) s.cur = issuing s g :=
  commAll_none (by rw [issuing_grp]; exact hcomm)

theorem hasBurrow_issuing {s : State} {g : Group} (here : s.groups.get? s.cur = some g) (hb : burrowOf s s.cur = []) :
    hasBurrow (issuing s g) s.cur = false := by
  unfold hasBurrow
  have : burrowOf (issuing s g) s.cur = burrowOf s s.cur := by
    unfold burrowOf
    rw [issuing_grp, State.grp_of_get? here]
    rfl
  rw [this, hb]
  rfl

/-- A release whose group has no earlier stores under way does what it is for. -/
theorem relReady_ready {s : State} {g : Group} (here : s.groups.get? s.cur = some g) {scope : Nat} (hb : burrowOf s s.cur = [])
    (hcomm : g.comm = []) (hfence : fenceWait (issuing s g) { g with wait := .none } { rel := true, scope := scope } = false)
    (body : State → Group → Res Eff) :
    relReady scope s { g with wait := .none } body = body (issuing s g) { g with wait := .none } := by
  unfold relReady
  rw [← issuing_eq_putG, issuing_commAll s hcomm]
  dsimp only
  rw [show (issuing s g).cur = s.cur from rfl, issuing_grp, hasBurrow_issuing here hb, hfence]
  simp [hcomm]

/-! ### EXIT (R225, R232) -/

section Exit

variable {ck : Checks} {o : EOps} {s : State} {g : Group} {c : Clause}

/-- EXIT of a group with nothing under way. -/
theorem exitGroup_idle (h : Runs ck.closing shRet o s g c) (hpend : g.pend = []) (hcomm : g.comm = []) (hratoms : g.ratoms = [])
    (hgives : g.gives = 0) (hburrow : burrowOf s s.cur = []) (hcopy : copyOf s g.core s.cur = false) :
    exitGroup ck shRet o s = .next (reap (s.with
      (if !g.trap.h && !g.trap.pending.isEmpty then ({ g with wait := .none } : Group).deliver
       else { g with run := .exited, wait := .none })) s.cur) := by
  have hbusy : exitBusy (issuing s g) { g with wait := .none } = false := by
    unfold exitBusy
    rw [show (issuing s g).cur = s.cur from rfl, hasBurrow_issuing h.here hburrow,
      show copyOf (issuing s g) g.core s.cur = copyOf s g.core s.cur from rfl, hcopy]
    simp [hpend, hcomm, hratoms, hgives]
  unfold exitGroup
  rw [issueC_applies h (e := { s := issuing s g, done := true, g :=
      if !g.trap.h && !g.trap.pending.isEmpty then ({ g with wait := .none } : Group).deliver else { g with run := .exited, wait := .none } })]
  · dsimp only
    refine congrArg (fun t : State => Host.Outcome.next (reap t s.cur)) ?_
    exact put_issuing s g _
  · dsimp only
    rw [← issuing_eq_putG, issuing_commAll s hcomm]
    rw [show (issuing s g).cur = s.cur from rfl, issuing_grp, hbusy]
    cases hd : (!g.trap.h && !g.trap.pending.isEmpty) <;> rfl

theorem reap_running {s : State} {gk : Nat} {g : Group} (h : s.groups.get? gk = some g) (hr : g.run ≠ .exited) : reap s gk = s := by
  simp [reap, h, hr]

end Exit

theorem Group.trapHere_run {g : Group} (hh : g.trap.h = false) (ht : g.trap.tba ≠ 0) (t : Trap) : (g.trapHere t).run = g.run := by
  obtain ⟨point, saved, h⟩ := g.trapHere_eq t
  rw [h, Group.trapEntry_taken (by simp [hh]) ht]

theorem Group.trapHere_ne_exited {g : Group} (hh : g.trap.h = false) (ht : g.trap.tba ≠ 0) (hr : g.run = .running) {t : Trap} :
    (g.trapHere t).run ≠ .exited := by
  rw [Group.trapHere_run hh ht, hr]
  decide

/-! ### The end of a group -/

theorem plRelease_keeps {α : Type} (f : State → α) (hf : ∀ s cores pkgs, f { s with cores := cores, pkgs := pkgs } = f s) (s : State) (core : Nat) :
    f (plRelease s core) = f s := by
  have hpkg : ∀ (s : State) pk p, f (s.putPkg pk p) = f s := fun s pk p => hf s s.cores _
  have hcore : ∀ (s : State) k c, f (s.putCore k c) = f s := fun s k c => hf s _ s.pkgs
  unfold plRelease
  dsimp only
  split
  · split
    · exact hpkg ..
    · rfl
  · split
    · exact (hpkg ..).trans (hcore ..)
    · exact hcore ..

theorem freeSlot_keeps {α : Type} (f : State → α) (hf : ∀ s cores, f { s with cores := cores } = f s) (s : State) (g : Group) :
    f (freeSlot s g) = f s := hf s _

theorem State.putCohort_present {s : State} {k : Nat} (h : s.saved.get? k = none) (c : Cohort) :
    s.putCohort k c = { s with cohorts := s.cohorts.put k c } := by
  unfold State.putCohort
  rw [h]

/-- A group that is taken away is in no table, and not in its cohort; no other cohort or group changes. -/
theorem removeGroup_tables {s : State} {gk : Nat} {g : Group} {k : Cohort} (hg : s.groups.get? gk = some g)
    (hk : s.cohorts.get? g.cohort = some k) (hsaved : s.saved.get? g.cohort = none) :
    (removeGroup s gk).groups = s.groups.del gk ∧
    (removeGroup s gk).cohorts = s.cohorts.put g.cohort { k with groups := k.groups.filter (· != gk) } := by
  unfold removeGroup
  rw [hg]
  dsimp only
  rw [if_pos (by rw [hk]; rfl)]
  generalize ht : ({ dropWaiters (freeColls (freeSlot s g) gk) (fun w => w.ofGroup gk) with
    refusals := (dropWaiters (freeColls (freeSlot s g) gk) (fun w => w.ofGroup gk)).refusals.filter (fun e => e.1 != Initiator.group gk) } : State) = t
  have hgroups : t.groups = s.groups := by rw [← ht]; rfl
  have hcohorts : t.cohorts = s.cohorts := by rw [← ht]; rfl
  have hsav : t.saved = s.saved := by rw [← ht]; rfl
  rw [State.putCohort_present (hsav ▸ hsaved), State.cohort_of_get? (hcohorts ▸ hk)]
  exact ⟨congrArg (Tab.del · gk) hgroups, congrArg (Tab.put · g.cohort _) hcohorts⟩

/-- The group is gone from its cohort and from the table of groups. -/
theorem reap_exited {s : State} {gk : Nat} {g : Group} {k : Cohort} (hs : s.groups.rising = true) (hg : s.groups.get? gk = some g)
    (hrun : g.run = .exited) (hk : s.cohorts.get? g.cohort = some k) (hsaved : s.saved.get? g.cohort = none) (hpend : g.trap.pending = [])
    (hne : k.groups.filter (fun x => x != gk) ≠ []) :
    (reap s gk).groups.get? gk = none ∧ ((reap s gk).cohort g.cohort).groups = k.groups.filter (fun x => x != gk) := by
  have hgroups : (plRelease s g.core).groups = s.groups := plRelease_keeps State.groups (fun _ _ _ => rfl) s g.core
  have hcohorts : (plRelease s g.core).cohorts = s.cohorts := plRelease_keeps State.cohorts (fun _ _ _ => rfl) s g.core
  have hsav : (plRelease s g.core).saved = s.saved := plRelease_keeps State.saved (fun _ _ _ => rfl) s g.core
  obtain ⟨hdel, hput⟩ := removeGroup_tables (s := plRelease s g.core) (hgroups.symm ▸ hg) (hcohorts ▸ hk) (hsav ▸ hsaved)
  have hleft : ((removeGroup (plRelease s g.core) gk).cohort g.cohort).groups = k.groups.filter (fun x => x != gk) := by
    rw [State.cohort_of_get? (by rw [hput]; exact Tab.get?_put_self ..)]
  have hreap : reap s gk = removeGroup (plRelease s g.core) gk := by
    unfold reap
    rw [hg]
    dsimp only
    rw [if_neg (by simp [hrun]), show g.firstPending = none by simp [Machine.Group.firstPending, hpend]]
    cases hl : (plRelease s g.core).launches.get? ((plRelease s g.core).cohort g.cohort).launch with
    | none => exact if_neg (by rw [hleft]; simpa using hne)
    | some l => exact if_neg (by rw [hleft]; simpa using hne)
  rw [hreap]
  exact ⟨by rw [hdel, hgroups]; exact Tab.get?_del_self hs gk, hleft⟩

theorem groupsExit : Parts.GroupsExit := by
  have hexit : ∀ {i ck o s}, ((i = .exit o ∧ ck = {}) ∨ ∃ b : B3Ops, i = .exitB3 b ∧ o = b3AsE 0x05 shRet b ∧ ck = b3Checks 0x05 shRet b) →
      exec i s = exitGroup ck shRet o s := by
    rintro i ck o s (⟨rfl, rfl⟩ | ⟨b, rfl, rfl, rfl⟩)
    · rfl
    · rfl
  refine ⟨fun i ck o s g c hi h hpend hcomm hratoms hgives hburrow hcopy => ?_, fun s gk g k hs hg hrun hk hsaved hne hp => reap_exited hs hg hrun hk hsaved hp hne⟩
  dsimp only
  rw [hexit hi, exitGroup_idle h hpend hcomm hratoms hgives hburrow hcopy]
  refine ⟨fun hno => ?_, fun hh k t rest hpd htba => ?_⟩
  · rw [if_neg (by rcases hno with hh | hp <;> simp [*])]
  · rw [if_pos (by simp [hh, hpd])]
    have hdel : ({ g with wait := .none } : Machine.Group).deliver =
        ({ g with wait := .none, trap := { g.trap with pending := g.trap.pending.del k } } : Machine.Group).trapHere t := by
      simp [Machine.Group.deliver, Machine.Group.firstPending, hpd]
    rw [hdel]
    refine congrArg Host.Outcome.next (reap_running (State.get?_with ..) ?_)
    exact Group.trapHere_ne_exited (g := { g with wait := .none, trap := { g.trap with pending := g.trap.pending.del k } }) hh htba h.running

/-! ### LAUNCH and LSTAT (R457 to R460) -/

theorem recordOk_cause {s : State} {va : Dword} (h : recordOk s va) :
    (if va.toNat % 256 ≠ 0 then some causeAlign
      else if spaceOf va = .reserved then some causeAccess
      else if spaceOf va ≠ .control then some causeSpace
      else if s.domain ≤ vaPkg va then some causeAccess
      else none) = none := by
  obtain ⟨halign, hspace, hpkg⟩ := h
  rw [if_neg (not_not.2 halign), hspace, if_neg (by decide), if_neg (not_not.2 rfl), if_neg (Nat.not_le.2 hpkg)]

theorem launchI_queues {go : Bool} {o : EOps} {s s1 t : State} {g : Group} {c : Clause} {pa : Nat} {e : TlbEnt}
    (h : Runs ({} : Checks).closing shAreadExact o s g c) (hok : recordOk s (g.s2 s.free o.a.toNat)) (hb : burrowOf s s.cur = [])
    (hcomm : g.comm = []) (hfence : fenceWait (issuing s g) { g with wait := .none } { rel := true, scope := 6 } = false) (hdeny : g.deny = [])
    (hx : TranslatesTo (issuing s g) (g.req 0 (g.s2 s.free o.a.toNat)) s1 pa e)
    {q : State × Word × Nat} (hq : queueLaunch (wbTensor s1 (clusterOf g.core)) s1.cur (g.s2 s.free o.a.toNat) = q)
    (hstop : q.1.cpStop = none) (ht : (if go then plRelease q.1 g.core else q.1) = t) :
    launchI go {} shAreadExact o s = .next (broughtBy c true t (t.grp t.cur).fenceErr (writesOf shAreadExact o)
      [(sKey o.d.toNat, q.2.1), (sKey (o.d.toNat + 1), BitVec.ofNat 32 q.2.2)]) := by
  subst ht
  refine issueC_applies h ?_
  dsimp only
  rw [show ({ g with wait := .none } : Machine.Group).s2 s.free o.a.toNat = g.s2 s.free o.a.toNat from rfl, recordOk_cause hok]
  dsimp only
  rw [relReady_ready h.here hb hcomm hfence]
  dsimp only
  rw [if_neg (by simp [hdeny]), issuing_putG s g, show ({ g with wait := .none } : Machine.Group).req 0 _ = g.req 0 _ from rfl, TranslatesTo.xlate hx]
  dsimp only
  rw [hq, hstop]
  rfl

/-- A record takes one of the four places of its core's queue. -/
theorem queueLaunch_room {s s1 : State} {gk : Nat} {va : Dword} {h : Word} (ht : takeHandle s (pkgOfCore (s.grp gk).core) (s.grp gk).id = (s1, some h))
    (hroom : (s1.core (s.grp gk).core).plq.length < 4) :
    queueLaunch s gk va =
      (putStatus (s1.putCore (s.grp gk).core { (s1.core (s.grp gk).core) with
          plq := (s1.core (s.grp gk).core).plq ++ [{ addr := va, handle := h, parent := (s.grp gk).id, grp := gk, num := (s.grp gk).num, seen := recordSeen s1 (s.grp gk).id va }] })
        { (s.grp gk).id with handle := h } stPending 0 0, h, 0) := by
  unfold queueLaunch
  dsimp only
  rw [ht]
  exact if_pos hroom

/-- The entry of a handle: its status where the entry is the handle's, and 7 otherwise (R460). -/
theorem lstatWord_read {s t : State} {g : Group} {x : CtxReg} {h : Word} {v : Nat} (hx : s.ctx? g.id.pkg g.id.ctx = some x) (hh : h ≠ 0)
    (hr : cpNum s (cpReq s g.id (x.statusAddr h)) 8 = (t, some v)) :
    lstatWord s g h = (t, if bits v 0 32 = h.toNat then BitVec.ofNat 32 (bits v 32 32) else 7) := by
  unfold lstatWord
  rw [hx]
  dsimp only
  rw [if_neg hh, hr]

theorem lstatWord_zero (s : State) (g : Group) : lstatWord s g 0 = (s, 7) := by
  unfold lstatWord
  cases s.ctx? g.id.pkg g.id.ctx with
  | none => rfl
  | some x => exact if_pos rfl

theorem lstatState_reads {o : EOps} {s t : State} {g : Group} {c : Clause} {x : CtxReg} {v : Nat} (h : Runs {} shLstatState o s g c)
    (hx : s.ctx? g.id.pkg g.id.ctx = some x) (hh : g.uB32 s.free o ≠ 0)
    (hr : cpNum (issuing s g) (cpReq (issuing s g) g.id (x.statusAddr (g.uB32 s.free o))) 8 = (t, some v)) (hstop : t.cpStop = none) :
    lstatState {} shLstatState o s = .next (applyEff c false { s := t, g := t.grp t.cur, outs := [(sKey o.d.toNat,
      if bits v 0 32 = (g.uB32 s.free o).toNat then BitVec.ofNat 32 (bits v 32 32) else 7)] }) := by
  have hcur := (cpNum_kept (Kept.refl (issuing s g)) (cpReq (issuing s g) g.id (x.statusAddr (g.uB32 s.free o))) 8).cur
  rw [hr] at hcur
  refine issueC_applies h ?_
  dsimp only
  rw [← issuing_eq_putG,
    show lstatWord (issuing s g) { g with wait := .none } (({ g with wait := .none } : Machine.Group).uB32 s.free o) = _ from lstatWord_read hx hh hr]
  dsimp only
  rw [hstop, hcur]
  rfl

theorem lstatState_zero {o : EOps} {s : State} {g : Group} {c : Clause} (h : Runs {} shLstatState o s g c) (hh : g.uB32 s.free o = 0)
    (hstop : s.cpStop = none) : lstatState {} shLstatState o s = .next (s.with (g.wrote c [(sKey o.d.toNat, 7)])) := by
  refine (issueC_effect (s' := issuing s g) (g' := g) (outs := [(sKey o.d.toNat, 7)]) h rfl ?_ rfl rfl).trans
    (congrArg Host.Outcome.next (put_issuing s g _))
  dsimp only
  rw [show ({ g with wait := .none } : Machine.Group).uB32 s.free o = 0 from hh, lstatWord_zero, ← issuing_eq_putG]
  dsimp only
  rw [show (issuing s g).cpStop = none from hstop, issuing_grp]

theorem deviceLaunches : Parts.DeviceLaunches := by
  refine ⟨fun o s g c s1 pa e h => ?_, fun s gk va s1 h ht hroom => queueLaunch_room ht hroom, fun o s g c x t v h hx => ?_,
    fun o s g c h hh hstop => lstatState_zero h hh hstop, fun o s g c h => issueC_writes h rfl rfl⟩
  · intro g0 va hok hb hcomm hfence hdeny hx q hstop end_
    have hq : ∀ go t, (if go then plRelease q.1 g.core else q.1) = t → launchI go {} shAreadExact o s = .next (end_ t) :=
      fun go t ht => launchI_queues h hok hb hcomm hfence hdeny hx (q := q) rfl hstop ht
    exact ⟨hq false q.1 (if_neg Bool.false_ne_true), hq true (plRelease q.1 g.core) (if_pos rfl)⟩
  · intro g0 w hh hr hstop
    have h1 : cpNum (issuing s g) (cpReq (issuing s g) g.id (x.statusAddr (g.uB32 s.free o))) 8 = (t, some v) := hr
    have := lstatState_reads h hx hh h1 hstop
    exact this

/-- Settles O29: EXIT by the cases of a pending cause, and the launch instructions by the rule of a completed effect. -/
theorem exitAndDeviceLaunches : Obligations.ExitAndDeviceLaunches := ⟨groupsExit, deviceLaunches⟩

end Sys2Proof.Machine
end

section
/-!
PROOFS. The memory port: per-lane accesses, loads, atomics, locked accesses, stores and reductions.
-/

namespace Sys2Proof.Machine

/-! ### Per-lane accesses -/

section Access

variable {s : State} {g : Group}

@[simp] theorem issuing_cur (s : State) (g : Group) : (issuing s g).cur = s.cur := rfl

theorem tileOpen_issuing (here : s.groups.get? s.cur = some g) (n : Nat) : tileOpen (issuing s g) s.cur n = tileOpen s s.cur n := by
  unfold tileOpen
  rw [issuing_grp, State.grp_of_get? here]
  rfl

theorem fenceWait_issuing (here : s.groups.get? s.cur = some g) (h : Group) (x : Later) : fenceWait (issuing s g) h x = fenceWait s h x := by
  unfold fenceWait
  rw [show (issuing s g).cur = s.cur from rfl, tileOpen_issuing here]

theorem relAfter_ready {rel : Bool} {scope : Nat} (h : rel = true → g.comm = []) (body : State → Group → Res Eff) :
    relAfter rel scope s g body = relDone rel scope (body s g) := by
  unfold relAfter
  exact if_neg (by cases rel <;> simp_all)

theorem commBefore_none {gk : Nat} (h : (s.grp gk).comm = []) (accs : List (Nat × Dword × Nat)) : commBefore s gk accs = s := by
  unfold commBefore
  exact if_pos (by rw [h]; rfl)

/-- A per-lane access that nothing holds does what it is for. -/
theorem laneAccess_runs {ck : Checks} {sh : Shape} {o : EOps} {c : Clause} {rd wr after : Bool} {kind : AccKind} {n align : Nat} {differ : Nat → Bool}
    {diff : Group → Nat → Nat → Bool} {body : State → Group → Half → List Nat → Res Eff} {e : Eff} (h : Runs ck sh o s g c)
    (hd : diff { g with wait := .none } s.free = differ)
    (ok : LaneAccessOk s g o (g.active sh o s.free) differ rd wr after kind n align)
    (hb : relDone (isRel o) (scopeOf g o) (body s { g with wait := .none } (g.active sh o s.free) (accLanes g (g.active sh o s.free))) = .ok e) :
    laneAccess rd wr diff ck sh o body s = .next (applyEff c ck.closes e) := by
  refine issueC_applies h ?_
  have hfree := ok.free
  rw [fenceWait_issuing h.here] at hfree
  dsimp only
  rw [hd]
  refine (if_neg (not_not.2 ok.agree)).trans ((if_neg (Bool.not_eq_true _ ▸ hfree)).trans ?_)
  exact (relAfter_ready (g := { g with wait := .none }) (fun hr => ok.order (.inl hr)) _).trans hb

/-! ### Loads, atomics and locked accesses (R299 to R307) -/

theorem forwardOf_dry {gk : Nat} (h : burrowOf s gk = []) (lane : Nat) (va : Dword) (n : Nat) : forwardOf s gk lane va n = .free := by
  unfold forwardOf loggedBytes
  rw [h]
  rfl

/-- What a load-like instruction with nothing in its way has run to. -/
def loadEff (s : State) (g : Group) (op : MemOp) (dests : List RegId) (m : Half) (domRel : Bool) : Eff :=
  let x := opRun (issuing s g) s.cur g.seq op
  let g1 := x.s.grp s.cur
  let g2 := if x.left.isEmpty then g1 else { g1 with wait := .held x.die }
  { s := x.s
    g := if domRel then g2.fenceErr else g2
    pend := some {
      id := g.seq, dests := dests, lanes := m, outs := x.outs, vpbits := x.vpbits, cause := deniedTrap g1 x.causes g.seq, denied := x.causes
      wait := if x.left.isEmpty then .ready else .fault x.die
      mop := if x.left.isEmpty then none else some { op with accs := x.left }
      vas := op.accs.map (fun a => (a.lane, a.va)) } }

theorem opIssue_issuing (op : MemOp) (dests : List RegId) (m : Half) :
    opIssue (issuing s g) s.cur op dests m false [] [] [] (op.accs.map (fun a => (a.lane, a.va))) = .ok (loadEff s g op dests m false) := by
  unfold opIssue loadEff
  rw [issuing_grp, ite_self]
  rfl

theorem relDone_loadEff (rel : Bool) (scope : Nat) (op : MemOp) (dests : List RegId) (m : Half) :
    relDone rel scope (.ok (loadEff s g op dests m false)) = .ok (loadEff s g op dests m (rel && decide (scope = 6))) := by
  unfold relDone
  cases rel && decide (scope = 6) <;> rfl

/-- A load-like instruction whose group has nothing in the burrow and meets nothing that it waits for runs its lanes. -/
theorem loadLike_dry {kind : AccKind} {waits : Bool} {align n : Nat} {op : MemOp} {dests : List RegId} {m : Half}
    (hchecks : laneChecks s g kind align n (op.accs.map (fun a => (a.lane, a.va))) = none) (here : s.groups.get? s.cur = some g)
    (hdry : burrowOf s s.cur = []) (hcomm : op.act.writes = true → g.comm = []) (hloads : loadsHeld (issuing s g) s.cur (decide (m = 0)) (op.reach n) = false)
    (hstores : op.act.writes = true → storesHeld (issuing s g) s.cur false (op.reach n) = false) :
    loadLike kind waits align n op dests m s { g with wait := .none } = .ok (loadEff s g op dests m false) := by
  have hdry' : burrowOf (issuing s g) s.cur = [] := by simpa [hasBurrow] using hasBurrow_issuing here hdry
  unfold loadLike
  rw [show laneChecks s { g with wait := .none } kind align n _ = none from hchecks]
  dsimp only
  rw [← issuing_eq_putG, issuing_cur]
  have hbefore : (if op.act.writes then commBefore (issuing s g) s.cur (op.reach n) else issuing s g) = issuing s g := by
    cases hw : op.act.writes with
    | true => exact commBefore_none (by rw [issuing_grp]; exact hcomm hw) _
    | false => rfl
  have hheld : (op.act.writes && storesHeld (issuing s g) s.cur false (op.reach n)) = false := by
    cases hw : op.act.writes with
    | true => exact hstores hw
    | false => rfl
  have hfree : ∀ a : LaneAcc, (if waits then Fwd.free else forwardOf (issuing s g) s.cur a.lane a.va n) = .free := fun a => by
    rw [forwardOf_dry hdry', ite_self]
  rw [hbefore, issuing_cur, hasBurrow_issuing here hdry, hloads, hheld]
  simp only [hfree]
  rw [← opIssue_issuing op dests m]
  have hnone : op.accs.flatMap (fun _ => ([] : List (Nat × Word))) = [] := List.flatMap_eq_nil_iff.2 fun _ _ => rfl
  simp [List.filter_map, Function.comp_def, List.flatMap_map, hnone]

end Access

/-- The checks and the bytes of a per-lane operation's lanes. -/
structure LanesOf (s : State) (g : Group) (o : EOps) (m : Half) (n : Nat) (op : MemOp) : Prop where
  lanes : op.accs.map (fun a => (a.lane, a.va)) = (accLanes g m).map (fun l => (l, laneVa g s.free o l))
  reach : op.reach n = laneReach s g o m n

theorem laneAccs_lanesOf (s : State) (g : Group) (o : EOps) (m : Half) (n : Nat) (b c : Nat → BitVec 128) {op : MemOp}
    (h : op.accs = laneAccs s g o m b c) : LanesOf s g o m n op := by
  constructor
  · rw [h]; simp [laneAccs, Function.comp_def]
  · unfold MemOp.reach; rw [h]; simp [laneAccs, laneReach, Function.comp_def]

/-- A per-lane load-like instruction that meets nothing issues. -/
theorem laneAccess_loads {ck : Checks} {sh : Shape} {o : EOps} {s : State} {g : Group} {c : Clause} {wr after waits : Bool} {kind : AccKind}
    {n align : Nat} {differ : Nat → Bool} {diff : Group → Nat → Nat → Bool} {body : State → Group → Half → List Nat → Res Eff} {op : MemOp}
    {b d : Nat → BitVec 128} (h : Runs ck sh o s g c) (ok : LaneAccessOk s g o (g.active sh o s.free) differ true wr after kind n align)
    (hd : diff { g with wait := .none } s.free = differ)
    (hw : op.act.writes = true → wr = true ∧ after = true) (ha : op.accs = laneAccs s g o (g.active sh o s.free) b d)
    (hb : body s { g with wait := .none } (g.active sh o s.free) (accLanes g (g.active sh o s.free)) =
      loadLike kind waits align n op (writesOf sh o) (g.active sh o s.free) s { g with wait := .none }) :
    laneAccess true wr diff ck sh o body s =
      .next (loadIssued s g c ck.closes op (writesOf sh o) (g.active sh o s.free) (domRelease g o)) := by
  obtain ⟨hlanes, hreach⟩ := laneAccs_lanesOf s g o (g.active sh o s.free) n b d ha
  refine (laneAccess_runs h hd ok (e := loadEff s g op (writesOf sh o) (g.active sh o s.free) (domRelease g o)) ?_).trans rfl
  rw [hb, loadLike_dry (by rw [hlanes]; exact ok.checks) h.here ok.dry (fun w => ok.order (.inr (hw w).2)) (by rw [hreach]; exact ok.loads rfl)
    (fun w => by rw [hreach]; exact ok.stores (hw w).1)]
  exact relDone_loadEff ..

/-- LD in every size, in its own form and in the base forms (R301). -/
theorem ld_starts {sz : LdSz} {ck : Checks} {o : EOps} {s : State} {g : Group} {c : Clause} (hk : ck.closes = false) (h : Runs ck (shLd sz) o s g c)
    (ok : LaneAccessOk s g o (g.active (shLd sz) o s.free) (vaDiffer g s.free o) true false false .ldst sz.bytes.1 (alignOf sz.bytes.1)) :
    ld sz ck (shLd sz) o s = .next (loadIssued s g c false
      { act := .load sz.bytes.1 sz.bytes.2, dst := o.d.toNat, hint := o.hint.toNat % 4
        accs := laneAccs s g o (g.active (shLd sz) o s.free) (fun _ => 0) (fun _ => 0) }
      (writesOf (shLd sz) o) (g.active (shLd sz) o s.free) (domRelease g o)) := by
  rw [← hk]
  exact laneAccess_loads h ok rfl (fun w => nomatch w) rfl rfl

theorem uld_starts {sz : LdSz} {o : EOps} {s : State} {g : Group} {c : Clause} (h : Runs {} (shUld sz) o s g c) (hdry : burrowOf s s.cur = [])
    (hfence : fenceWait (issuing s g) { g with wait := .none } { loads := true } = false)
    (hloads : loadsHeld (issuing s g) s.cur true [(0, g.s2 s.free o.a.toNat + memOff o, sz.bytes.1)] = false)
    (hchecks : laneChecks s g .uld (alignOf sz.bytes.1) sz.bytes.1 [(0, g.s2 s.free o.a.toNat + memOff o)] = none) :
    uld sz {} (shUld sz) o s = .next (loadIssued s g c false
      { act := .uload sz.bytes.1 sz.bytes.2, dst := o.d.toNat, hint := o.hint.toNat % 4
        accs := [{ lane := 0, va := g.s2 s.free o.a.toNat + memOff o }] } (writesOf (shUld sz) o) 0 false) := by
  rw [fenceWait_issuing h.here] at hfence
  refine (issueC_applies h ?_).trans rfl
  refine (if_neg (Bool.not_eq_true _ ▸ hfence)).trans ?_
  exact loadLike_dry hchecks h.here hdry (fun w => nomatch w) hloads (fun w => nomatch w)

theorem loadsStart : Parts.LoadsStart := by
  refine ⟨fun sz o s g c h ok => ld_starts rfl h ok, ?_, fun sz o s g c h hdry hfence hloads hchecks => uld_starts h hdry hfence hloads hchecks⟩
  intro mk sz hmem o3 s g c o h ok
  have hld := ld_starts (ck := b3Checks 0x50 (shLd sz) o3) rfl h ok
  simp only [List.mem_cons, Prod.mk.injEq, List.not_mem_nil, or_false] at hmem
  rcases hmem with ⟨rfl, rfl⟩ | ⟨rfl, rfl⟩ | ⟨rfl, rfl⟩
  · exact hld
  · exact hld
  · exact hld

theorem atom_starts {mk : EOps → Instr} {sh : Shape} {op : AtomOp} {n : Nat} (hmk : ∀ o s, exec (mk o) s = atom op n {} sh o s) :
    AtomicStarts mk sh op n := fun o s _ _ h ok =>
  (hmk o s).trans (laneAccess_loads (ck := ({} : Checks).closing) h ok rfl (fun _ => ⟨rfl, rfl⟩) rfl rfl)

theorem atomicsStart : Parts.AtomicsStart :=
  ⟨fun _ => ⟨atom_starts fun _ _ => rfl, atom_starts fun _ _ => rfl, atom_starts fun _ _ => rfl, atom_starts fun _ _ => rfl, atom_starts fun _ _ => rfl,
    atom_starts fun _ _ => rfl, atom_starts fun _ _ => rfl, atom_starts fun _ _ => rfl, atom_starts fun _ _ => rfl⟩,
    fun _ => atom_starts fun _ _ => rfl, atom_starts fun _ _ => rfl, atom_starts fun _ _ => rfl, atom_starts fun _ _ => rfl⟩

/-- A minimum that prefers the first operand at equality is the one that prefers the second. -/
theorem ite_le_eq_ite_lt {α : Type} {x y : Int} {a b : α} (h : x = y → a = b) : (if x ≤ y then a else b) = if x < y then a else b := by
  rcases lt_trichotomy x y with hlt | heq | hgt
  · rw [if_pos hlt.le, if_pos hlt]
  · rw [if_pos heq.le, if_neg heq.not_lt, h heq]
  · rw [if_neg (not_le.2 hgt), if_neg (not_lt.2 hgt.le)]

theorem atomicResults : Parts.AtomicResults := by
  intro w a b c
  refine ⟨?_, ?_, ?_, ?_, ?_, ?_, ?_, ?_, ?_, ?_⟩
  case _ => exact BitVec.eq_of_toNat_eq (by simp [atomNew])
  case _ =>
    simp only [atomNew, BitVec.ofNat_toNat, BitVec.setWidth_eq, BitVec.slt, decide_eq_true_eq]
    rw [apply_ite (BitVec.ofNat w), BitVec.ofNat_toNat, BitVec.ofNat_toNat, BitVec.setWidth_eq, BitVec.setWidth_eq]
    exact ite_le_eq_ite_lt BitVec.eq_of_toInt_eq
  case _ =>
    simp only [atomNew, BitVec.ofNat_toNat, BitVec.setWidth_eq, BitVec.slt, decide_eq_true_eq]
    rw [apply_ite (BitVec.ofNat w), BitVec.ofNat_toNat, BitVec.ofNat_toNat, BitVec.setWidth_eq, BitVec.setWidth_eq, ← ite_not]
    simp only [not_le]
  case _ =>
    simp only [atomNew, BitVec.ult, decide_eq_true_eq]
    split <;> rename_i hlt
    · rw [min_eq_left hlt.le, BitVec.ofNat_toNat, BitVec.setWidth_eq]
    · rw [min_eq_right (not_lt.1 hlt), BitVec.ofNat_toNat, BitVec.setWidth_eq]
  case _ =>
    simp only [atomNew, BitVec.ult, decide_eq_true_eq]
    split <;> rename_i hlt
    · rw [max_eq_right hlt.le, BitVec.ofNat_toNat, BitVec.setWidth_eq]
    · rw [max_eq_left (not_lt.1 hlt), BitVec.ofNat_toNat, BitVec.setWidth_eq]
  case _ => simp [atomNew]
  case _ => simp [atomNew]
  case _ => simp [atomNew]
  case _ => simp [atomNew]
  case _ =>
    simp only [atomNew, BitVec.toNat_inj]
    rw [apply_ite (BitVec.ofNat w), BitVec.ofNat_toNat, BitVec.ofNat_toNat, BitVec.setWidth_eq, BitVec.setWidth_eq]

/-- Settles O15: an access that meets nothing runs its lanes; the atomic operations by those of bit vectors. -/
theorem loadsAndAtomics : Obligations.LoadsAndAtomics := ⟨loadsStart, atomicsStart, atomicResults⟩

/-- STX in a lane that holds no reservation. -/
theorem laneDo_unreserved {s : State} {gk pid n : Nat} {op : MemOp} {a : LaneAcc} (hprot : (s.grp gk).info.prot = false)
    (hresv : (s.grp gk).resv.get? a.lane = none) (hact : op.act = .storeCond n) :
    laneDo s gk pid op a = (s, .ok { outs := [(vKey op.dst a.lane, 1)] }) := by
  have hvis : (s.grp gk).vis a.lane = a.lane := by simp [Machine.Group.vis, hprot]
  unfold laneDo
  rw [hact]
  dsimp only
  rw [hvis, hresv]
  simp [loadOuts, hprot]

theorem ldx_starts {sz : XSz} {o : EOps} {s : State} {g : Group} {c : Clause} (h : Runs { closes := true } (shLdx sz) o s g c)
    (ok : LaneAccessOk s g o (g.active (shLdx sz) o s.free) (vaDiffer g s.free o) true false false .locked sz.bytes sz.bytes) :
    ldx sz {} (shLdx sz) o s = .next (loadIssued s g c true
      { act := .loadLocked sz.bytes, dst := o.d.toNat, hint := o.hint.toNat % 4
        accs := laneAccs s g o (g.active (shLdx sz) o s.free) (fun _ => 0) (fun _ => 0) }
      (writesOf (shLdx sz) o) (g.active (shLdx sz) o s.free) (domRelease g o)) :=
  laneAccess_loads (ck := ({} : Checks).closing) h ok rfl (fun w => nomatch w) rfl rfl

theorem stx_starts {sz : XSz} {o : EOps} {s : State} {g : Group} {c : Clause} (h : Runs { closes := true } (shStx sz) o s g c)
    (ok : LaneAccessOk s g o (g.active (shStx sz) o s.free)
      (fun v => vaDiffer g s.free o v || dataB g s.free o sz.bytes (2 * v) != dataB g s.free o sz.bytes (2 * v + 1)) true true true .locked sz.bytes sz.bytes) :
    stx sz {} (shStx sz) o s = .next (loadIssued s g c true
      { act := .storeCond sz.bytes, dst := o.d.toNat, hint := o.hint.toNat % 4
        accs := laneAccs s g o (g.active (shStx sz) o s.free) (fun l => BitVec.ofNat 128 (dataB g s.free o sz.bytes l)) (fun _ => 0) }
      (writesOf (shStx sz) o) (g.active (shStx sz) o s.free) (domRelease g o)) :=
  laneAccess_loads (ck := ({} : Checks).closing) h ok rfl (fun _ => ⟨rfl, rfl⟩) rfl rfl

/-- Settles O16: locked accesses are per-lane accesses that close a region. -/
theorem lockedAccesses : Obligations.LockedAccesses :=
  ⟨fun _ _ _ _ _ h ok => ldx_starts h ok, fun _ _ _ _ _ h ok => stx_starts h ok,
    fun _ _ _ _ _ _ hprot hresv hact => ⟨_, laneDo_unreserved hprot hresv hact, rfl⟩⟩

end Sys2Proof.Machine
end

section
/-!
PROOFS. Stores and reductions; the scratchpad.
-/

namespace Sys2Proof.Machine

/-! ### Bytes and numbers -/

theorem foldl_zipIdx_bytes (l : List Byte) (k a : Nat) :
    (l.zipIdx k).foldl (fun n p => n + p.1.toNat * 2 ^ (8 * p.2)) a = a + 2 ^ (8 * k) * Nat.ofDigits 256 (l.map BitVec.toNat) := by
  induction l generalizing k a with
  | nil => simp
  | cons b l ih =>
    rw [List.zipIdx_cons, List.foldl_cons, ih, List.map_cons, Nat.ofDigits_cons, Nat.mul_add 8 k 1, Nat.pow_add]
    ring

/-- Bytes are the digits of a number, the lowest first. -/
theorem bytesNat_eq_ofDigits (l : List Byte) : bytesNat l = Nat.ofDigits 256 (l.map BitVec.toNat) := by
  unfold bytesNat
  rw [foldl_zipIdx_bytes]
  simp

theorem bytesNat_cons (b : Byte) (l : List Byte) : bytesNat (b :: l) = b.toNat + 256 * bytesNat l := by
  rw [bytesNat_eq_ofDigits, bytesNat_eq_ofDigits, List.map_cons, Nat.ofDigits_cons]

theorem bytesNat_lt (l : List Byte) : bytesNat l < 2 ^ (8 * l.length) := by
  rw [Nat.pow_mul, bytesNat_eq_ofDigits, ← List.length_map (f := BitVec.toNat) (as := l)]
  refine Nat.ofDigits_lt_base_pow_length (by decide) fun x hx => ?_
  obtain ⟨b, _, rfl⟩ := List.mem_map.1 hx
  exact b.isLt

@[simp] theorem length_natBytes (n v : Nat) : (natBytes n v).length = n := by simp [natBytes]

theorem natBytes_succ (n v : Nat) : natBytes (n + 1) v = BitVec.ofNat 8 v :: natBytes n (v / 256) := by
  unfold natBytes
  rw [List.range_succ_eq_map, List.map_cons, List.map_map]
  refine congrArg₂ List.cons (by simp) (List.map_congr_left fun i _ => ?_)
  rw [Function.comp_apply, Nat.div_div_eq_div_mul, Nat.succ_eq_add_one, Nat.mul_add, Nat.pow_add, Nat.mul_comm]

theorem bytesNat_natBytes (n v : Nat) : bytesNat (natBytes n v) = v % 2 ^ (8 * n) := by
  induction n generalizing v with
  | zero => simp [natBytes, bytesNat, Nat.mod_one]
  | succ n ih =>
    rw [natBytes_succ, bytesNat_cons, ih, BitVec.toNat_ofNat, Nat.mul_add, Nat.add_comm (8 * n), Nat.pow_add, Nat.mod_mul]

/-! ### Stores that issue (R300, R301, R304) -/

theorem laneChecks_eq_none {s : State} {g : Group} {kind : AccKind} {align n : Nat} {accs : List (Nat × Dword)} :
    laneChecks s g kind align n accs = none ↔ ∀ a ∈ accs, accCheck s g kind a.2 n align = none := by
  unfold laneChecks
  dsimp only
  rw [show (∀ a ∈ accs, accCheck s g kind a.2 n align = none) ↔
    accs.filterMap (fun a => (accCheck s g kind a.2 n align).map (fun c => (a.1, c))) = [] by simp [List.filterMap_eq_nil_iff]]
  generalize accs.filterMap (fun a => (accCheck s g kind a.2 n align).map (fun c => (a.1, c))) = fails
  cases fails with
  | nil => simp
  | cons f fs => simp

section Stores

variable {s : State} {g : Group}

/-- What a store-like instruction with nothing in its way has run to. -/
def storeEff (s : State) (g : Group) (hint : Nat) (act : StoreAct) (ls : List BurrowLane) (domRel : Bool) : Eff :=
  let x := storeRun (issuing s g) s.cur g.seq act hint ls
  let s1 := postCauses x.s s.cur x.causes g.seq
  let g1 := if domRel then (s1.grp s.cur).fenceErr else s1.grp s.cur
  { s := if x.lanes.all (·.done) then s1 else s1.putCore g.core { (s1.core g.core) with
      burrow := (s1.core g.core).burrow ++ [{ grp := s.cur, act := act, hint := hint, seq := g.seq, lanes := x.lanes }] }
    g := g1 }

theorem relDone_storeEff (rel : Bool) (scope hint : Nat) (act : StoreAct) (ls : List BurrowLane) :
    relDone rel scope (.ok (storeEff s g hint act ls false)) = .ok (storeEff s g hint act ls (rel && decide (scope = 6))) := by
  unfold relDone
  cases rel && decide (scope = 6) <;> rfl

/-- A store-like instruction whose group has nothing in the burrow and meets nothing that it waits for runs its lanes; `f` is what it
changes of its group as it issues. -/
theorem storeLike_changes {kind : AccKind} {align hint : Nat} {act : StoreAct} {ls : List BurrowLane} {f : Group → Group} {g' : Group}
    (here : s.groups.get? s.cur = some g) (hf : f { g with wait := .none } = { g' with wait := .none }) (hcore : g'.core = g.core) (hseq : g'.seq = g.seq)
    (hchecks : ∀ l ∈ ls, accCheck s g kind l.va l.bytes.length align = none) (hcomm : inOrder act = true → g.comm = [])
    (hstores : storesHeld (issuing s g) s.cur false (ls.map (fun l => (l.lane, l.va, l.bytes.length))) = false)
    (hdry : burrowOf s s.cur = []) (hroom : (s.core g.core).burrow.length < 64) :
    storeLike kind align hint act ls f s { g with wait := .none } = .ok (storeEff s g' hint act ls false) := by
  have hfails : ls.filterMap (fun l => (accCheck s { g with wait := .none } kind l.va l.bytes.length align).map (fun c => (l.lane, c))) = [] :=
    List.filterMap_eq_nil_iff.2 fun l hl => by
      rw [show accCheck s { g with wait := .none } kind l.va l.bytes.length align = none from hchecks l hl]; rfl
  have hbefore : ∀ comm : Bool, (comm = false → g.comm = []) →
      (if comm then issuing s g else commBefore (issuing s g) s.cur (ls.map (fun l => (l.lane, l.va, l.bytes.length)))) = issuing s g := by
    intro comm h
    cases comm with
    | true => rfl
    | false => exact commBefore_none (by rw [issuing_grp]; exact h rfl) _
  have hput : ({ issuing s g with groups := (issuing s g).groups.put s.cur (f ((issuing s g).grp s.cur)) } : State) = issuing s g' := by
    rw [issuing_grp, hf]; exact put_issuing s g _
  have hburrow : hasBurrow (issuing s g') s.cur = false := by
    have : burrowOf (issuing s g') s.cur = burrowOf s s.cur := by
      unfold burrowOf
      rw [issuing_grp, State.grp_of_get? here, ← hcore]
      rfl
    simp [hasBurrow, this, hdry]
  unfold storeLike
  rw [hfails]
  dsimp only
  rw [← issuing_eq_putG, hbefore _ (fun h => hcomm (by cases act <;> simp_all [inOrder])), hstores]
  simp only [Bool.false_eq_true, if_false]
  rw [hput, hburrow]
  simp only [Bool.false_eq_true, if_false, show (issuing s g').core g.core = s.core g.core from rfl, decide_eq_true_eq, Nat.not_le.2 hroom]
  unfold storeEff
  rw [hcore, hseq]
  cases hdone : (storeRun (issuing s g') s.cur g.seq act hint ls).lanes.all (·.done) <;> simp [hdone]

theorem storeLike_dry {kind : AccKind} {align hint : Nat} {act : StoreAct} {ls : List BurrowLane} (here : s.groups.get? s.cur = some g)
    (hchecks : ∀ l ∈ ls, accCheck s g kind l.va l.bytes.length align = none) (hcomm : inOrder act = true → g.comm = [])
    (hstores : storesHeld (issuing s g) s.cur false (ls.map (fun l => (l.lane, l.va, l.bytes.length))) = false)
    (hdry : burrowOf s s.cur = []) (hroom : (s.core g.core).burrow.length < 64) :
    storeLike kind align hint act ls id s { g with wait := .none } = .ok (storeEff s g hint act ls false) :=
  storeLike_changes here rfl rfl rfl hchecks hcomm hstores hdry hroom

end Stores

theorem storeLanes_reach (s : State) (g : Group) (o : EOps) (m : Half) (n : Nat) :
    (storeLanes s g o m n).map (fun l => (l.lane, l.va, l.bytes.length)) = laneReach s g o m n := by
  simp [storeLanes, laneReach, Function.comp_def]

/-- A per-lane store-like instruction that meets nothing issues. -/
theorem laneAccess_stores {ck : Checks} {sh : Shape} {o : EOps} {s : State} {g : Group} {c : Clause} {kind : AccKind} {n align : Nat} {act : StoreAct}
    {diff : Group → Nat → Nat → Bool} {body : State → Group → Half → List Nat → Res Eff} (h : Runs ck sh o s g c)
    (hroom : (s.core g.core).burrow.length < 64)
    (ok : LaneAccessOk s g o (g.active sh o s.free)
      (fun v => vaDiffer g s.free o v || dataB g s.free o n (2 * v) != dataB g s.free o n (2 * v + 1)) false true (inOrder act) kind n align)
    (hd : diff { g with wait := .none } s.free = fun v => vaDiffer g s.free o v || dataB g s.free o n (2 * v) != dataB g s.free o n (2 * v + 1))
    (hb : body s { g with wait := .none } (g.active sh o s.free) (accLanes g (g.active sh o s.free)) =
      storeLike kind align (o.hint.toNat % 4) act (storeLanes s g o (g.active sh o s.free) n) id s { g with wait := .none }) :
    laneAccess false true diff ck sh o body s =
      .next (storeIssued s g c ck.closes (o.hint.toNat % 4) act (storeLanes s g o (g.active sh o s.free) n) (domRelease g o)) := by
  have hchecks : ∀ l ∈ storeLanes s g o (g.active sh o s.free) n, accCheck s g kind l.va l.bytes.length align = none := by
    intro l hl
    obtain ⟨i, hi, rfl⟩ := List.mem_map.1 hl
    rw [length_natBytes]
    exact laneChecks_eq_none.1 ok.checks _ (List.mem_map.2 ⟨i, hi, rfl⟩)
  refine (laneAccess_runs h hd ok (e := storeEff s g (o.hint.toNat % 4) act (storeLanes s g o (g.active sh o s.free) n) (domRelease g o)) ?_).trans rfl
  rw [hb, storeLike_dry h.here hchecks (fun ha => ok.order (.inr ha)) (by rw [storeLanes_reach]; exact ok.stores rfl) ok.dry hroom]
  exact relDone_storeEff ..

theorem st_starts {i : Instr} {sz : StSz} {ck : Checks} {o : EOps} (hi : ∀ s, exec i s = st sz ck (shSt sz) o s) :
    StoreStarts i ck (shSt sz) o .ldst sz.bytes (alignOf sz.bytes) .bytes := fun s _ _ h hroom ok =>
  (hi s).trans (laneAccess_stores h hroom ok rfl rfl)

theorem storesStart : Parts.StoresStart :=
  ⟨fun _ _ => st_starts fun _ => rfl, fun _ => st_starts (sz := .b32) fun _ => rfl, fun _ => st_starts (sz := .b64) fun _ => rfl,
    fun _ => st_starts (sz := .b128) fun _ => rfl⟩

theorem red_starts {i : Instr} {op : AtomOp} {n : Nat} {sh : Shape} {o : EOps} (hi : ∀ s, exec i s = red op n {} sh o s) :
    StoreStarts i { closes := true } sh o .atom n n (redAct op n o) := fun s _ _ h hroom ok =>
  (hi s).trans (laneAccess_stores (ck := ({} : Checks).closing) h hroom ok rfl rfl)

theorem reductionsStart : Parts.ReductionsStart :=
  ⟨fun _ _ => ⟨red_starts fun _ => rfl, red_starts fun _ => rfl, red_starts fun _ => rfl, red_starts fun _ => rfl, red_starts fun _ => rfl,
    red_starts fun _ => rfl, red_starts fun _ => rfl, red_starts fun _ => rfl⟩,
    fun _ => ⟨red_starts fun _ => rfl, red_starts fun _ => rfl, red_starts fun _ => rfl⟩⟩

/-! ### .comm reductions (R179) -/

theorem storeDo_comm (s : State) (gk seq : Nat) (op : AtomOp) (n hint : Nat) (l : BurrowLane) :
    storeDo s gk seq (.comm op n) hint l = storeDo s gk seq (.reduce op n) hint l ∨
    ((storeDo s gk seq (.reduce op n) hint l).2 = .ok () ∧ storeDo s gk seq (.comm op n) hint l =
      (s.noteComm gk { lane := l.lane, va := l.va, op := op, n := n, val := bytesNat l.bytes, hint := hint, seq := seq }, .ok ())) := by
  unfold storeDo
  dsimp only
  generalize ownAtomic s gk seq _ l.va n _ _ = x
  obtain ⟨t, _ | _⟩ := x
  · dsimp only
    split
    · exact .inr ⟨rfl, rfl⟩
    · exact .inl rfl
  · exact .inl rfl

theorem postCauses_none (s : State) (gk seq : Nat) : postCauses s gk [] seq = s := rfl

/-- A reduction that waits and meets no fault is applied. -/
theorem commOne_applies {s t : State} {gk i : Nat} {x : CommRed} (hx : (s.grp gk).comm[i]? = some x)
    (hdo : storeDo s gk x.seq (.reduce x.op x.n) x.hint { lane := x.lane, va := x.va, bytes := natBytes x.n x.val } = (t, .ok ())) :
    commOne s gk i = { t with groups := t.groups.put gk { t.grp gk with comm := (t.grp gk).comm.eraseIdx i } } := by
  have hrun : storeRun s gk x.seq (.reduce x.op x.n) x.hint [{ lane := x.lane, va := x.va, bytes := natBytes x.n x.val }] =
      { s := t, lanes := [{ lane := x.lane, va := x.va, bytes := natBytes x.n x.val, done := true }] } := by
    unfold storeRun
    rw [List.foldl_cons, List.foldl_nil]
    unfold storeStep
    rw [if_neg Bool.false_ne_true]
    dsimp only
    rw [hdo]
    rfl
  unfold commOne
  rw [hx]
  dsimp only
  rw [hrun]
  exact if_pos rfl

/-- An operation on numbers below 2^w that stays there, and may be applied in either order. -/
def Commutes (op : AtomOp) : Prop :=
  ∀ w old a b, old < 2 ^ w → a < 2 ^ w → b < 2 ^ w → atomNew op w old a 0 < 2 ^ w ∧
    atomNew op w (atomNew op w old b 0) a 0 = atomNew op w (atomNew op w old a 0) b 0

theorem commutes_of_eq {op : AtomOp} (f : Nat → Nat → Nat → Nat) (h : ∀ w old a, atomNew op w old a 0 = f w old a)
    (hlt : ∀ w old a, old < 2 ^ w → a < 2 ^ w → f w old a < 2 ^ w)
    (hc : ∀ w old a b, a < 2 ^ w → b < 2 ^ w → f w (f w old b) a = f w (f w old a) b) : Commutes op := by
  intro w old a b ho ha hb
  simp only [h]
  exact ⟨hlt w old a ho ha, hc w old a b ha hb⟩

/-- The one of two numbers that a measure puts first, the left one where they are even. -/
def pick (t : Nat → Int) (x y : Nat) : Nat := if t x ≤ t y then x else y

theorem pick_cases (t : Nat → Int) (x y : Nat) : pick t x y = x ∨ pick t x y = y := by
  unfold pick
  split
  · exact .inl rfl
  · exact .inr rfl

theorem pick_pick (t : Nat → Int) (x a b : Nat) (h : t a = t b → a = b) : pick t (pick t x b) a = pick t (pick t x a) b := by
  unfold pick
  by_cases hb : t x ≤ t b
  · by_cases ha : t x ≤ t a
    · simp only [hb, ha, if_true]
    · simp only [hb, ha, if_true, if_false]
      rw [if_pos (by omega)]
  · by_cases ha : t x ≤ t a
    · simp only [hb, ha, if_true, if_false]
      rw [if_pos (by omega)]
    · simp only [hb, ha, if_false]
      rcases lt_trichotomy (t a) (t b) with hlt | heq | hgt
      · rw [if_neg (by omega), if_pos hlt.le]
      · rw [if_pos heq.ge, if_pos heq.le, h heq]
      · rw [if_pos hgt.le, if_neg (by omega)]

theorem commutes_of_pick {op : AtomOp} (t : Nat → Nat → Int) (h : ∀ w old a, atomNew op w old a 0 = pick (t w) old a)
    (hinj : ∀ w a b, a < 2 ^ w → b < 2 ^ w → t w a = t w b → a = b) : Commutes op :=
  commutes_of_eq (fun w => pick (t w)) h (fun w old a ho ha => by rcases pick_cases (t w) old a with h | h <;> rw [h] <;> assumption)
    (fun w old a b ha hb => pick_pick (t w) old a b (hinj w a b ha hb))

theorem toInt_ofNat_inj {w a b : Nat} (ha : a < 2 ^ w) (hb : b < 2 ^ w) (h : (BitVec.ofNat w a).toInt = (BitVec.ofNat w b).toInt) : a = b := by
  simpa [Nat.mod_eq_of_lt, ha, hb] using congrArg BitVec.toNat (BitVec.eq_of_toInt_eq h)

theorem commutes {op : AtomOp} (h : op ∈ ([.add, .min, .max, .minu, .maxu, .band, .bor, .bxor] : List AtomOp)) : Commutes op := by
  simp only [List.mem_cons, List.not_mem_nil, or_false] at h
  rcases h with rfl | rfl | rfl | rfl | rfl | rfl | rfl | rfl
  · refine commutes_of_eq (fun w x y => (x + y) % 2 ^ w) (fun _ _ _ => rfl) (fun w _ _ _ _ => Nat.mod_lt _ (Nat.two_pow_pos w)) fun w x a b _ _ => ?_
    simp only [Nat.mod_add_mod, Nat.add_right_comm]
  · exact commutes_of_pick (fun w x => (BitVec.ofNat w x).toInt) (fun _ _ _ => rfl) fun w a b => toInt_ofNat_inj
  · exact commutes_of_pick (fun w x => -(BitVec.ofNat w x).toInt) (fun _ _ _ => by simp [atomNew, pick]) fun w a b ha hb h =>
      toInt_ofNat_inj ha hb (neg_inj.1 h)
  · exact commutes_of_eq (fun _ => min) (fun _ _ _ => rfl) (fun _ _ _ _ ha => (min_le_right _ _).trans_lt ha) fun _ _ _ _ _ _ => min_right_comm ..
  · exact commutes_of_eq (fun _ => max) (fun _ _ _ => rfl) (fun _ _ _ => max_lt) fun _ _ _ _ _ _ => max_right_comm ..
  · exact commutes_of_eq (fun _ => (· &&& ·)) (fun _ _ _ => rfl) (fun _ _ _ _ ha => Nat.and_lt_two_pow _ ha) fun _ _ _ _ _ _ => Nat.and_right_comm ..
  · exact commutes_of_eq (fun _ => (· ||| ·)) (fun _ _ _ => rfl) (fun _ _ _ => Nat.or_lt_two_pow) fun _ _ _ _ _ _ => Nat.or_right_comm ..
  · exact commutes_of_eq (fun _ => (· ^^^ ·)) (fun _ _ _ => rfl) (fun _ _ _ => Nat.xor_lt_two_pow) fun _ _ _ _ _ _ => Nat.xor_right_comm ..

theorem atomBytes_comm {op : AtomOp} (h : Commutes op) (n a b : Nat) (old : List Byte) (hn : old.length = n) :
    atomBytes op n a 0 (atomBytes op n b 0 old) = atomBytes op n b 0 (atomBytes op n a 0 old) := by
  have hold : bytesNat old < 2 ^ (8 * n) := hn ▸ bytesNat_lt old
  have hpos : 0 < 2 ^ (8 * n) := Nat.two_pow_pos _
  have hlt := fun x => (h (8 * n) (bytesNat old) (x % 2 ^ (8 * n)) 0 hold (Nat.mod_lt _ hpos) hpos).1
  unfold atomBytes
  rw [bytesNat_natBytes, bytesNat_natBytes, Nat.zero_mod, Nat.mod_eq_of_lt (hlt a), Nat.mod_eq_of_lt (hlt b),
    (h (8 * n) (bytesNat old) _ _ hold (Nat.mod_lt a hpos) (Nat.mod_lt b hpos)).2]

theorem commutativeReductions : Parts.CommutativeReductions :=
  ⟨storeDo_comm, fun _ _ _ _ _ => commOne_applies, fun _ _ => commAll_none, fun _ h n a b old => atomBytes_comm (commutes h) n a b old⟩

/-- Settles O17: a store that meets nothing runs its lanes; reductions of .comm commute as their operations do. -/
theorem storesAndReductions : Obligations.StoresAndReductions := ⟨storesStart, reductionsStart, commutativeReductions⟩

end Sys2Proof.Machine
end

section
/-!
PROOFS. The scratchpad; fences, cache maintenance and prefetches.
-/

namespace Sys2Proof.Machine

/-! ### The scratchpad (R38, R55, R301) -/

theorem vaOff_eq (va : Dword) : vaOff va = va.toNat % 2 ^ 60 := by simp [vaOff, bits]

theorem scrPlace_own (s : State) (g : Group) (o : Nat) : scrPlace s g .scratch o = (g.cohort, o) := rfl

theorem scrSecure_own {s : State} {g : Group} {o n : Nat} (h : g.id.world = true ∨ (s.cohort g.cohort).id.world = false) :
    scrSecure s g .scratch o n = false := by
  unfold scrSecure
  simp only [scrPlace_own]
  rcases h with h | h <;> simp [h]

theorem scrSecure_refused {s : State} {g : Group} {o n : Nat} (hn : 0 < n) (hg : g.id.world = false) (hc : (s.cohort g.cohort).id.world = true) :
    scrSecure s g .scratch o n = true := by
  unfold scrSecure
  simp only [scrPlace_own, hg, hc, Bool.not_false, Bool.true_and]
  exact List.any_eq_true.2 ⟨0, List.mem_range.2 hn, rfl⟩

/-- A load from the group's own scratchpad. -/
theorem laneRead_scratch {s : State} {gk : Nat} {r : TransReq} {lane hint n : Nat} (hsp : spaceOf r.va = .scratch)
    (hw : (s.grp gk).id.world = true ∨ (s.cohort (s.grp gk).cohort).id.world = false) :
    laneRead s gk r lane hint n =
      (s, .ok ((List.range n).map (fun i => (s.cohort (s.grp gk).cohort).scr.getD (r.va.toNat % 2 ^ 60 + i) 0))) := by
  unfold laneRead
  rw [hsp]
  dsimp only
  rw [scrSecure_own hw, vaOff_eq]
  rfl

/-- Four bytes, the lowest first, as a word. -/
theorem word_of_bytes (b0 b1 b2 b3 : Byte) : BitVec.ofNat 32 (bytesNat [b0, b1, b2, b3]) = b3 ++ b2 ++ b1 ++ b0 := by
  refine BitVec.eq_of_toNat_eq ?_
  simp only [bytesNat_cons, BitVec.toNat_ofNat, BitVec.toNat_append, show bytesNat [] = 0 from rfl]
  rw [← Nat.shiftLeft_add_eq_or_of_lt b2.isLt, ← Nat.shiftLeft_add_eq_or_of_lt b1.isLt, ← Nat.shiftLeft_add_eq_or_of_lt b0.isLt]
  simp only [Nat.shiftLeft_eq]
  omega

theorem scratchpadLoads : Parts.ScratchpadLoads := by
  intro s gk pid hint dst a g hsp hprot hw byte
  refine ⟨{ outs := [(vKey dst a.lane, byte 3 ++ byte 2 ++ byte 1 ++ byte 0)] }, ?_, rfl⟩
  unfold laneDo
  dsimp only
  rw [laneRead_scratch (r := (s.grp gk).req _ a.va) hsp hw]
  dsimp only
  have hbytes : (List.range 4).map (fun i => (s.cohort (s.grp gk).cohort).scr.getD (a.va.toNat % 2 ^ 60 + i) 0) =
      [byte 0, byte 1, byte 2, byte 3] := rfl
  rw [show ((s.grp gk).req _ a.va).va = a.va from rfl, hbytes]
  have hone : loadOuts (s.grp gk) dst a.lane (wordsOf 4 (bytesNat [byte 0, byte 1, byte 2, byte 3]) false) =
      [(vKey dst a.lane, BitVec.ofNat 32 (bytesNat [byte 0, byte 1, byte 2, byte 3]))] := by
    simp [loadOuts, wordsOf, show (s.grp gk).info.prot = false from hprot]
  rw [hone, word_of_bytes]

/-- One byte of a store to a cohort's scratchpad. -/
def scrByte (ck o : Nat) (s : State) (b : Byte × Nat) : State :=
  joinCore (s.putCohort ck { s.cohort ck with scr := (s.cohort ck).scr.store 0 (o + b.2) b.1 }) (s.cohort ck).core (scrLine ck (o + b.2))

theorem scrWrite_own (s : State) (g : Group) (o : Nat) (bs : List Byte) :
    scrWrite s g .scratch o bs = bs.zipIdx.foldl (scrByte g.cohort o) s := rfl

/-- What a store to a cohort's scratchpad leaves: its own bytes there, and all else as it was. -/
structure ScrStored (ck : Nat) (c : Cohort) (m : Tab Byte) (s t : State) : Prop where
  mem : t.mem = s.mem
  groups : t.groups = s.groups
  saved : t.saved = s.saved
  others : ∀ k, k ≠ ck → t.cohorts.get? k = s.cohorts.get? k
  own : t.cohorts.get? ck = some { c with scr := m }

theorem scrByte_stored {ck o : Nat} {s : State} {c : Cohort} {b : Byte × Nat} (hs : s.saved.get? ck = none) (hc : s.cohorts.get? ck = some c) :
    ScrStored ck c (c.scr.store 0 (o + b.2) b.1) s (scrByte ck o s b) := by
  unfold scrByte
  rw [State.cohort_of_get? hc, State.putCohort_present hs]
  exact ⟨rfl, rfl, rfl, fun k hk => Tab.get?_put_ne _ _ hk, Tab.get?_put_self ..⟩

theorem foldl_scrByte_stored (ck o : Nat) (bs : List (Byte × Nat)) {s : State} {c : Cohort} (hs : s.saved.get? ck = none)
    (hc : s.cohorts.get? ck = some c) :
    ScrStored ck c (bs.foldl (fun m b => m.store 0 (o + b.2) b.1) c.scr) s (bs.foldl (scrByte ck o) s) := by
  induction bs generalizing s c with
  | nil => exact ⟨rfl, rfl, rfl, fun _ _ => rfl, hc⟩
  | cons b bs ih =>
    obtain ⟨hmem, hgroups, hsaved, hothers, hown⟩ := scrByte_stored (o := o) (b := b) hs hc
    obtain ⟨hmem', hgroups', hsaved', hothers', hown'⟩ := ih (hsaved ▸ hs) hown
    exact ⟨hmem'.trans hmem, hgroups'.trans hgroups, hsaved'.trans hsaved, fun k hk => (hothers' k hk).trans (hothers k hk), hown'⟩

theorem zipIdx_eq_map_range (bs : List Byte) : bs.zipIdx = (List.range bs.length).map (fun i => (bs.getD i 0, i)) := by
  refine List.ext_getElem (by simp) fun i h _ => ?_
  simp at h
  simp [h]

theorem storedBytes_eq (m : Tab Byte) (a : Nat) (bs : List Byte) : storedBytes m a bs = bs.zipIdx.foldl (fun m b => m.store 0 (a + b.2) b.1) m := by
  rw [zipIdx_eq_map_range, List.foldl_map]
  rfl

/-- A store to the group's own scratchpad where nothing races. -/
theorem storeDo_scratch {s : State} {gk seq hint : Nat} {l : BurrowLane} (hcalm : s.calm gk = true) (hsp : spaceOf l.va = .scratch) :
    storeDo s gk seq .bytes hint l =
      if scrSecure s (s.grp gk) .scratch (vaOff l.va) l.bytes.length then (s, .stop (.cause causeSecurity))
      else (scrWrite s (s.grp gk) .scratch (vaOff l.va) l.bytes, .ok ()) := by
  unfold storeDo ownWrite
  dsimp only
  rw [if_pos hcalm]
  unfold laneWrite
  dsimp only
  rw [show ((s.grp gk).req 1 l.va).va = l.va from rfl, hsp]

theorem scratchpadStores : Parts.ScratchpadStores := by
  intro s gk seq hint l c g hcalm hsp hsaved hc hne
  have hk : s.cohort g.cohort = c := State.cohort_of_get? hc
  rw [storeDo_scratch hcalm hsp]
  refine ⟨fun hw => ⟨scrWrite s g .scratch (vaOff l.va) l.bytes, if_neg ?_, ?_⟩, fun hg hcw => if_pos ?_⟩
  · rw [scrSecure_own (hk.symm ▸ hw)]
    exact Bool.false_ne_true
  · obtain ⟨hmem, hgroups, _, hothers, hown⟩ := foldl_scrByte_stored g.cohort (vaOff l.va) l.bytes.zipIdx hsaved hc
    rw [scrWrite_own]
    refine ⟨hmem, hgroups, hothers, ?_⟩
    rw [hown, vaOff_eq, storedBytes_eq]
  · exact scrSecure_refused (List.length_pos_iff.2 hne) hg (hk.symm ▸ hcw)

/-- Settles O18: the scratchpad's bytes one by one. -/
theorem scratchpadAccesses : Obligations.ScratchpadAccesses := ⟨scratchpadLoads, scratchpadStores⟩

/-! ### Fences (R163, R170, R308) -/

section Fences

variable {s : State} {g : Group} {o : EOps} {c : Clause} {k : FenceKind}

theorem fenceOpen_iff (here : s.groups.get? s.cur = some g) (hk : k ≠ .tfence) (dom : Bool) :
    fenceOpen (issuing s g) s.cur k dom g.seq = true ↔ fenceCovers s g k dom := by
  unfold fenceOpen fenceCovers
  rw [tileOpen_issuing here, issuing_grp]
  unfold tileOpen
  rw [State.grp_of_get? here]
  simp only [decide_eq_false hk, Bool.false_and, Bool.or_false, Bool.or_eq_true, List.any_eq_true, List.mem_filter, Bool.and_eq_true, beq_iff_eq,
    decide_eq_true_eq, Bool.not_eq_true', Option.isSome_iff_ne_none, and_assoc]

theorem fenceCache_eq (hk : k ≠ .tfence) (wide : Bool) (s : State) (cl : Nat) :
    (if wide then fenceCache k s cl else s) = fenceCaches (k.acquires && wide) (decide (k ≠ .acq) && wide) s cl := by
  cases wide with
  | false => simp [fenceCaches]
  | true =>
    cases k with
    | acq => simp [fenceCache, fenceCaches, FenceKind.acquires]
    | rel => simp [fenceCache, fenceCaches, FenceKind.acquires]
    | full => simp [fenceCache, fenceCaches, FenceKind.acquires]
    | tfence => exact absurd rfl hk

theorem fenceStart_ready (here : s.groups.get? s.cur = some g) (hdry : burrowOf s s.cur = []) (hcomm : g.comm = [])
    (hrel : k ≠ .acq → g.gives = 0 ∧ g.fenced g.seq { rel := true } = false) (dom wide : Bool) :
    fenceStart k dom wide s { g with wait := .none } =
      if fenceOpen (issuing s g) s.cur k dom g.seq then
        .ok { s := issuing s g, g := { g with wait := .none }, pend := some { id := 0, wait := .fence k dom wide g.seq } }
      else
        let t := if wide then fenceCache k (issuing s g) (clusterOf g.core) else issuing s g
        .ok { s := t, g := if dom && decide (k ≠ .acq) then (t.grp t.cur).fenceErr else t.grp t.cur, pend := some { id := 0 } } := by
  unfold fenceStart
  rw [← issuing_eq_putG, issuing_commAll s hcomm]
  dsimp only
  rw [issuing_cur, issuing_grp, hasBurrow_issuing here hdry]
  refine if_neg ?_
  by_cases hk : k = .acq
  · simp [hk, hcomm]
  · obtain ⟨hgives, hfenced⟩ := hrel hk
    rw [show ({ g with wait := .none } : Machine.Group).fenced g.seq { rel := true } = false from hfenced]
    simp [hcomm, hgives]

theorem fence_starts (hk : k ≠ .tfence) (h : Runs {} shFenceAcq o s g c) (hdry : burrowOf s s.cur = []) (hcomm : g.comm = [])
    (hrel : k ≠ .acq → g.gives = 0 ∧ g.fenced g.seq { rel := true } = false) :
    let dom := decide (k ≠ .acq) && decide (scopeOf g o = 6)
    let wide := memFlag o && decide (3 ≤ scopeOf g o)
    let t := fenceCaches (k.acquires && wide) (decide (k ≠ .acq) && wide) (issuing s g) (clusterOf g.core)
    (fenceCovers s g k dom → fence k {} shFenceAcq o s = .next (s.with (g.started c { id := 0, wait := .fence k dom wide g.seq }))) ∧
    (¬ fenceCovers s g k dom → fence k {} shFenceAcq o s = .next (applyEff c false
      { s := t, g := if dom then (t.grp s.cur).fenceErr else t.grp s.cur, pend := some { id := 0 } })) := by
  intro dom wide t
  have hstart := fenceStart_ready (k := k) h.here hdry hcomm hrel dom wide
  have ht : (if wide then fenceCache k (issuing s g) (clusterOf g.core) else issuing s g) = t := fenceCache_eq hk wide _ _
  have hcur : t.cur = s.cur := by
    rw [← ht]
    cases wide with
    | true => exact (fenceCache_kept (Kept.refl (issuing s g)) k (clusterOf g.core)).cur
    | false => rfl
  have hdom : (dom && decide (k ≠ .acq)) = dom := by simp only [dom]; cases decide (k ≠ .acq) <;> simp
  dsimp only at hstart
  rw [ht, hcur, hdom] at hstart
  refine ⟨fun hc => ?_, fun hc => ?_⟩
  · refine (issueC_starts (s' := issuing s g) (g' := g) h rfl (p := { id := 0, wait := .fence k dom wide g.seq }) ?_ rfl rfl).trans
      (congrArg Host.Outcome.next (put_issuing s g _))
    exact hstart.trans (if_pos ((fenceOpen_iff h.here hk dom).2 hc))
  · refine issueC_applies h ?_
    exact hstart.trans (if_neg (mt (fenceOpen_iff h.here hk dom).1 hc))

end Fences

theorem fencesStart : Parts.FencesStart := by
  intro mk k hmem o s g c h hdry hcomm hrel
  simp only [List.mem_cons, Prod.mk.injEq, List.not_mem_nil, or_false] at hmem
  rcases hmem with ⟨rfl, rfl⟩ | ⟨rfl, rfl⟩ | ⟨rfl, rfl⟩
  · exact fence_starts (by decide) h hdry hcomm hrel
  · exact fence_starts (by decide) h hdry hcomm hrel
  · exact fence_starts (by decide) h hdry hcomm hrel

/-! ### CMAINT and PREF (R309, R310) -/

theorem s2_resumed (g : Group) (free r : Nat) : ({ g with wait := .none } : Group).s2 free r = g.s2 free r := rfl

theorem uB32_resumed (g : Group) (free : Nat) (o : EOps) : ({ g with wait := .none } : Group).uB32 free o = g.uB32 free o := rfl

theorem cmaintCheck_resumed (s : State) (g : Group) (va : Dword) (len : Nat) : cmaintCheck s { g with wait := .none } va len = cmaintCheck s g va len :=
  rfl

theorem cmaint_runs {k : Maint} {o : EOps} {s : State} {g : Group} {c : Clause} (h : Runs {} shCmaintWb o s g c) :
    let va := g.s2 s.free o.a.toNat
    let len := (g.uB32 s.free o).toNat
    (len = 0 → cmaint k {} shCmaintWb o s = .next (s.with (g.started c { id := 0 }))) ∧
    (len ≠ 0 → cmaintCheck s g va len = none → burrowOf s s.cur = [] → g.fenced g.seq { loads := decide (k = .inv) } = false →
      cmaint k {} shCmaintWb o s = .next ((cmaintDo k s g va len).with (g.started c { id := 0 }))) ∧
    (∀ cause a, len ≠ 0 → cmaintCheck s g va len = some (cause, a) →
      cmaint k {} shCmaintWb o s = .next (s.with (({ g with wait := .none } : Machine.Group).trapHere { cause := cause, addr := a, lanes := g.em }))) := by
  refine ⟨fun hlen => ?_, fun hlen hcheck hdry hfence => ?_, fun cause a hlen hcheck => ?_⟩
  · exact issueC_starts (g' := g) (p := { id := 0 }) h rfl (if_pos hlen) rfl rfl
  · refine issueC_starts (s' := cmaintDo k s g (g.s2 s.free o.a.toNat) (g.uB32 s.free o).toNat) (g' := g) (p := { id := 0 }) h rfl ?_ rfl rfl
    refine (if_neg hlen).trans ?_
    rw [s2_resumed g, uB32_resumed g, cmaintCheck_resumed s g, hcheck]
    dsimp only
    rw [← issuing_eq_putG, hasBurrow_issuing h.here hdry]
    exact if_neg (by rw [show ({ g with wait := .none } : Machine.Group).fenced g.seq _ = false from hfence]; simp)
  · refine issueC_traps h (t := { cause := cause, addr := a, lanes := g.em }) ?_
    refine (if_neg hlen).trans ?_
    rw [s2_resumed g, uB32_resumed g, cmaintCheck_resumed s g, hcheck]
    rfl

theorem cacheMaintenance : Parts.CacheMaintenance := by
  intro mk k hmem o s g c h
  simp only [List.mem_cons, Prod.mk.injEq, List.not_mem_nil, or_false] at hmem
  rcases hmem with ⟨rfl, rfl⟩ | ⟨rfl, rfl⟩ | ⟨rfl, rfl⟩
  · exact cmaint_runs h
  · exact cmaint_runs h
  · exact cmaint_runs h

/-- No fence holds what neither loads, stores nor releases. -/
theorem fenceWait_nothing (s : State) (g : Group) (scope : Nat) : fenceWait s g { scope := scope } = false := by
  have hholds : ∀ k : FenceKind, k.holds { scope := scope } = false := fun k => by cases k <;> rfl
  simp only [fenceWait, Group.fenced, hholds, Bool.and_false, Bool.false_and, Bool.or_false]
  refine List.any_eq_false.2 fun p _ => ?_
  split <;> simp

theorem pref_runs {l1 : Bool} {o : EOps} {s : State} {g : Group} {c : Clause} (h : Runs {} shPrefL1 o s g c)
    (hagree : g.mismatch (g.fold (g.active shPrefL1 o s.free)) (vaDiffer g s.free o) = 0) (hrel : isRel o = false) :
    let t := (accLanes g (g.active shPrefL1 o s.free)).foldl (fun st l => prefLane l1 (o.hint.toNat % 4) s.cur st (laneVa g s.free o l)) (issuing s g)
    pref l1 {} shPrefL1 o s = .next (applyEff c false { s := t, g := t.grp s.cur }) := by
  intro t
  have hcur : t.cur = s.cur := (foldl_kept (fun _ _ hk => prefLane_kept hk ..) _ (Kept.refl (issuing s g))).cur
  refine issueC_applies h ?_
  dsimp only
  refine (if_neg (not_not.2 hagree)).trans ((if_neg ?_).trans ?_)
  · rw [hrel]
    exact Bool.not_eq_true _ ▸ fenceWait_nothing s _ _
  · rw [hrel]
    refine (relAfter_ready (rel := false) (g := { g with wait := .none }) (fun hr => absurd hr Bool.false_ne_true) _).trans ?_
    exact congrArg (fun gk => Res.ok ({ s := t, g := t.grp gk } : Eff)) hcur

theorem prefetchesRun : Parts.PrefetchesRun := fun o s _ _ h hagree hrel =>
  ⟨(exec_prefL1 o s).trans (pref_runs h hagree hrel), (exec_prefClc o s).trans (pref_runs h hagree hrel)⟩

/-- Settles O19: a fence by whether it covers what is open, CMAINT by its check, PREF lane by lane. -/
theorem fencesAndCaches : Obligations.FencesAndCaches := ⟨fencesStart, cacheMaintenance, prefetchesRun⟩

end Sys2Proof.Machine
end

section
/-!
PROOFS. Barrier objects.
-/

namespace Sys2Proof.Machine

/-! ### BAR instructions (R312 to R315) -/

/-- The state in which a BAR operation ends: its object is written back and its waiters are woken. -/
def barState (s1 : State) (gk : Nat) (g : Group) (va : Dword) (r : TransReq) (write : Bool) (bs : List Byte) (e : BarEnd) : State :=
  let s2 := if !write && e.bar = Bar.ofBytes bs then s1 else (laneWrite s1 gk g.seq { r with write := true } 16 0 e.bar.bytes).1
  if e.wake then wakeBar s2 (bytePlace s2 g 0 va) else s2

/-- The group after a BAR operation that does not block. -/
def barGroup (g : Group) (va : Dword) (e : BarEnd) : Group :=
  let g4 := match e.k with
    | some (n, b) => g.putK n b
    | none => g
  match e.error with
  | some n => g4.post { cause := causeBar, sub := n, addr := va, lanes := g4.em, seq := g4.seq }
  | none => g4

def barEff (s : State) (gk : Nat) (va : Dword) (e : BarEnd) : Eff :=
  match e.block with
  | some w => { s := plRelease s (s.grp gk).core, g := { s.grp gk with wait := w }, done := true }
  | none => { s := s, g := barGroup (s.grp gk) va e }

theorem barDone_eq (s1 : State) (gk : Nat) (g : Group) (c : Clause) (va : Dword) (r : TransReq) (write : Bool) (bs : List Byte) (e : BarEnd) (domRel : Bool) :
    barDone s1 gk g c va r write bs e domRel =
      applyEff c true (if domRel then
        { barEff (barState s1 gk g va r write bs e) gk va e with g := (barEff (barState s1 gk g va r write bs e) gk va e).g.fenceErr }
        else barEff (barState s1 gk g va r write bs e) gk va e) := by
  unfold barDone
  dsimp only
  rw [show (if e.wake then wakeBar _ _ else _ : State) = barState s1 gk g va r write bs e from rfl]
  cases hb : e.block with
  | none => cases domRel <;> simp only [barEff, hb] <;> rfl
  | some w => cases domRel <;> simp only [barEff, hb] <;> rfl

theorem barAccess_reads {s s1 : State} {va : Dword} {write : Bool} {op : State → Group → Bar → BarEnd} {bs : List Byte} {e : BarEnd}
    (hdeny : (s.grp s.cur).deny = []) (hr : laneRead s s.cur { (s.grp s.cur).req 2 va with write := write } 0 0 16 = (s1, .ok bs))
    (he : op s1 (s1.grp s.cur) (Bar.ofBytes bs) = e) :
    barAccess s va write op =
      .ok (barEff (barState s1 s.cur (s.grp s.cur) va { (s.grp s.cur).req 2 va with write := write } write bs e) s.cur va e) := by
  unfold barAccess
  dsimp only
  refine (if_neg (by rw [hdeny]; simp)).trans ?_
  rw [hr]
  dsimp only
  rw [he]
  unfold barEff
  cases hb : e.block with
  | none => rfl
  | some w => rfl

theorem relDone_ok (rel : Bool) (scope : Nat) (e : Eff) :
    relDone rel scope (.ok e) = .ok (if rel && decide (scope = 6) then { e with g := e.g.fenceErr } else e) := by
  unfold relDone
  cases rel && decide (scope = 6) <;> rfl

/-- A BAR instruction that meets nothing acts on the object that it reads. -/
theorem barIssue_acts {early : Word → Option Trap} {write rel : Bool} {op : Word → Dword → State → Group → Bar → BarEnd} {sh : Shape} {o : EOps}
    {s s1 : State} {g : Group} {c : Clause} {bs : List Byte} {e : BarEnd} (h : Runs { closes := true } sh o s g c)
    (hearly : early (g.uB32 s.free o) = none) (hcheck : accCheck s g .bar (g.s2 s.free o.a.toNat) 16 16 = none)
    (hdry : burrowOf s s.cur = []) (hdeny : g.deny = []) (hcomm : write = true ∨ rel = true → g.comm = [])
    (hloads : loadsHeld (issuing s g) s.cur true [(0, g.s2 s.free o.a.toNat, 16)] = false)
    (hstores : write = true → storesHeld (issuing s g) s.cur true [(0, g.s2 s.free o.a.toNat, 16)] = false)
    (hfence : fenceWait (issuing s g) { g with wait := .none }
      { loads := true, stores := write, ctl := write && decide (spaceOf (g.s2 s.free o.a.toNat) = .control), rel := rel, scope := scopeOf g o } = false)
    (hr : laneRead (issuing s g) s.cur { g.req 2 (g.s2 s.free o.a.toNat) with write := write } 0 0 16 = (s1, .ok bs))
    (he : op (g.uB32 s.free o) (g.s2 s.free o.a.toNat) s1 (s1.grp s.cur) (Bar.ofBytes bs) = e) :
    barIssue early write rel op {} sh o s =
      .next (barDone s1 s.cur g c (g.s2 s.free o.a.toNat) { g.req 2 (g.s2 s.free o.a.toNat) with write := write } write bs e
        (rel && decide (scopeOf g o = 6))) := by
  generalize hva : g.s2 s.free o.a.toNat = va at *
  rw [barDone_eq]
  refine issueC_applies (ck := ({} : Checks).closing) h ?_
  have hbefore : (if write then commBefore (issuing s g) s.cur [(0, va, 16)] else issuing s g) = issuing s g := by
    cases hw : write with
    | true => exact commBefore_none (by rw [issuing_grp]; exact hcomm (.inl hw)) _
    | false => rfl
  have hheld : (write && storesHeld (issuing s g) s.cur true [(0, va, 16)]) = false := by
    cases hw : write with
    | true => exact hstores hw
    | false => rfl
  dsimp only
  rw [uB32_resumed g, hearly, s2_resumed g, hva]
  dsimp only
  rw [show accCheck s { g with wait := .none } .bar va 16 16 = none from hcheck]
  dsimp only
  rw [← issuing_eq_putG, hbefore, issuing_cur, hasBurrow_issuing h.here hdry, hloads, hheld]
  refine (if_neg ?_).trans ?_
  · rw [Bool.not_eq_true]
    exact hfence
  rw [issuing_grp]
  refine (relAfter_ready (g := { g with wait := .none }) (fun hrel => hcomm (.inr hrel)) _).trans ?_
  rw [issuing_putG s g, barAccess_reads (s := issuing s g) (e := e) ?_ ?_ he, relDone_ok]
  · rw [issuing_cur, issuing_grp]
    rfl
  · rw [issuing_cur, issuing_grp]; exact hdeny
  · rw [issuing_cur, issuing_grp]; exact hr

theorem barCount_none {b : Word} (h1 : 1 ≤ b.toNat) (h2 : b.toNat ≤ 0xFFFF) : barCount b = none := by
  unfold barCount
  refine if_neg ?_
  rintro (rfl | h)
  · exact absurd h1 (by decide)
  · omega

theorem Bar.checked_eq (x : Bar) :
    x.checked = (if x.expa = 0 ∨ x.expa < x.arr then { x with err := true } else x, decide (x.expa = 0 ∨ x.expa < x.arr)) := by
  unfold Bar.checked Bar.outOfRange
  by_cases h : x.expa = 0 ∨ x.expa < x.arr
  · rw [if_pos (by simpa using h), if_pos h, decide_eq_true h]
  · rw [if_neg (by simpa using h), if_neg h, decide_eq_false h]

theorem barWait_eq (o : EOps) (s : State) : exec (.barWait o) s =
    barIssue (fun _ => none) false false (fun b va _ _ x => barWaitEnd x va (b.toNat % 65536) (o.hint.getLsbD 2)) {} shBarWait o s := by
  change barWait {} shBarWait o s = _
  unfold barWait barWaitEnd
  simp only [Bar.checked_eq]

theorem barTest_eq (o : EOps) (s : State) : exec (.barTest o) s =
    barIssue (fun _ => none) false false (fun b _ _ _ x => barTestEnd x (b.toNat % 65536) o.d.toNat) {} shBarTest o s := by
  change barTest {} shBarTest o s = _
  unfold barTest barTestEnd
  simp only [Bar.checked_eq]

theorem readsScratch_laneRead {s t : State} {g : Group} {va : Dword} {r : TransReq} {bs : List Byte} (h : ReadsScratch s g va 16 t bs)
    (hr : r.va = va) : laneRead (issuing s g) s.cur r 0 0 16 = (t, .ok bs) := by
  obtain ⟨hsp, hw, rfl, rfl⟩ := h
  subst hr
  rw [laneRead_scratch hsp (by rw [issuing_grp]; exact hw), issuing_grp]
  rfl

theorem barrierInstructions : Parts.BarrierInstructions := by
  intro i sh o s g c s1 bs write e va n r acc rel h hcheck hdry hdeny hcomm hloads hstores later hfence hread hcases
  have hcheck' : accCheck s g .bar va 16 16 = none := hcheck.elim id fun hp => accCheck_passes hp.1 hp.2
  have hr : laneRead (issuing s g) s.cur r 0 0 16 = (s1, .ok bs) := hread.elim id fun hs => readsScratch_laneRead hs rfl
  rcases hcases with ⟨rfl, rfl, rfl, h1, h2, rfl⟩ | ⟨rfl, rfl, rfl, h1, h2, rfl⟩ | ⟨rfl, rfl, rfl, rfl⟩ | ⟨rfl, rfl, rfl, rfl⟩ | ⟨rfl, rfl, rfl, rfl⟩
  · have hx : exec (.barInit o) s = barIssue barCount true false (fun b _ _ _ _ => { bar := Bar.init b.toNat }) {} shBarInit o s := rfl
    exact hx.trans (barIssue_acts h (barCount_none h1 h2) hcheck' hdry hdeny (fun _ => hcomm rfl) hloads hstores hfence hr rfl)
  · have hx : exec (.barArrive o) s = barIssue barCount true true (fun b _ _ _ x => (x.arrive b.toNat).toEnd) {} shBarArrive o s := rfl
    exact hx.trans (barIssue_acts h (barCount_none h1 h2) hcheck' hdry hdeny (fun _ => hcomm rfl) hloads hstores hfence hr rfl)
  · have hx : exec (.barExpect o) s = barIssue (fun _ => none) true false (fun b _ _ _ x => (x.expect b.toNat).toEnd) {} shBarInit o s := rfl
    exact hx.trans (barIssue_acts h rfl hcheck' hdry hdeny (fun _ => hcomm rfl) hloads hstores hfence hr rfl)
  · have hend : (fun (b : Word) (va : Dword) (_ : State) (_ : Group) (x : Bar) => barWaitEnd x va (b.toNat % 65536) (o.hint.getLsbD 2)) (g.uB32 s.free o) va s1
        (s1.grp s.cur) (Bar.ofBytes bs) = barWaitEnd (Bar.ofBytes bs) va (n % 65536) (o.hint.getLsbD 2) := rfl
    exact (barWait_eq o s).trans (barIssue_acts h rfl hcheck' hdry hdeny (fun hw => absurd hw (by decide)) hloads hstores hfence hr hend)
  · have hend : (fun (b : Word) (_ : Dword) (_ : State) (_ : Group) (x : Bar) => barTestEnd x (b.toNat % 65536) o.d.toNat) (g.uB32 s.free o) va s1
        (s1.grp s.cur) (Bar.ofBytes bs) = barTestEnd (Bar.ofBytes bs) (n % 65536) o.d.toNat := rfl
    exact (barTest_eq o s).trans (barIssue_acts h rfl hcheck' hdry hdeny (fun hw => absurd hw (by decide)) hloads hstores hfence hr hend)

/-! ### The phases of an object (R313) -/

theorem Bar.checked_inRange {x : Bar} (h : x.expa ≠ 0) (ha : x.arr ≤ x.expa) : x.checked = (x, false) := by
  rw [Bar.checked_eq, if_neg (by omega), decide_eq_false (by omega)]

theorem Bar.passed_self (x : Bar) : x.passed x.phase = false := by
  unfold Bar.passed
  rw [Nat.add_sub_cancel_left]
  rfl

theorem Bar.passed_next {x : Bar} {p : Nat} (hp : p < 65536) (h : x.phase = (p + 1) % 65536) : x.passed p = true := by
  unfold Bar.passed
  rw [h, show ((p + 1) % 65536 + 65536 - p) % 65536 = 1 by omega]
  rfl

/-- Arrivals at an object that is in its range and in no error. -/
theorem Bar.arrive_eq {x : Bar} (n : Nat) (h : x.expa ≠ 0) (ha : x.arr ≤ x.expa) (he : x.err = false) :
    x.arrive n = if x.expa < x.arr + n then { bar := x, error := some 1 }
      else { bar := (Bar.check { x with arr := x.arr + n }).1, wake := (Bar.check { x with arr := x.arr + n }).2,
             error := if (Bar.check { x with arr := x.arr + n }).1.err then some 3 else none } := by
  unfold Bar.arrive
  rw [Bar.checked_inRange h ha]
  dsimp only
  rw [he]
  rfl

theorem Bar.ofBytes_bytes {x : Bar} (hp : x.phase < 65536) (he : x.expa < 65536) (ha : x.arr < 65536) (hb : x.expb < 2 ^ 32)
    (hl : x.landed < 2 ^ 32) : Bar.ofBytes x.bytes = x := by
  have herr : x.err.toNat < 2 := Bool.toNat_lt x.err
  have hnum : bytesNat x.bytes =
      x.phase + x.expa * 2 ^ 16 + x.arr * 2 ^ 32 + x.err.toNat * 2 ^ 48 + x.expb * 2 ^ 64 + x.landed * 2 ^ 96 := by
    unfold Bar.bytes
    rw [bytesNat_natBytes, Nat.mod_eq_of_lt (by omega)]
  obtain ⟨phase, expa, arr, err, expb, landed⟩ := x
  simp only [Bar.ofBytes, hnum, bits, Nat.testBit_eq_decide_div_mod_eq, Bar.mk.injEq]
  dsimp only at hp he ha hb hl herr
  refine ⟨by omega, by omega, by omega, ?_, by omega, by omega⟩
  cases err with
  | true => exact decide_eq_true (by simp only [Bool.toNat_true]; omega)
  | false => exact decide_eq_false (by simp only [Bool.toNat_false]; omega)

theorem barrierPhases : Parts.BarrierPhases := by
  refine ⟨fun x n hx ha he hp => ⟨fun h => ?_, fun h => ?_, fun h hl => ?_, fun h hl => ?_, fun h hl => ?_⟩, fun x _ => x.passed_self, fun x => Bar.ofBytes_bytes⟩
  · rw [Bar.arrive_eq n hx ha he, if_pos h]
  · rw [Bar.arrive_eq n hx ha he, if_neg (by omega)]
    simp [Bar.check, h.ne, he]
  · rw [Bar.arrive_eq n hx ha he, if_neg (by omega)]
    simp only [Bar.check, h, hl, if_true, he, Bool.false_eq_true, if_false]
    exact ⟨trivial, Bar.passed_next hp rfl⟩
  · rw [Bar.arrive_eq n hx ha he, if_neg (by omega)]
    simp [Bar.check, h, hl.ne, hl.not_gt, he]
  · rw [Bar.arrive_eq n hx ha he, if_neg (by omega)]
    simp [Bar.check, h, hl.ne', hl]

/-- Settles O21: a BAR instruction acts on the object that it reads; the object's phases by its fields. -/
theorem barriers : Obligations.Barriers := ⟨barrierInstructions, barrierPhases⟩

end Sys2Proof.Machine
end

section
/-!
PROOFS. VPLD and VPST.
-/

namespace Sys2Proof.Machine

/-! ### VPST (R284, R286) -/

theorem xField_low (o : EOps) (len : Nat) : xField o 0 len = o.x.toNat % 2 ^ len := by simp [xField]

/-- The addresses that VPST forms: packed, each where the element before it ended. -/
def vpstAddrs (k : VpAddr) (s : State) (g : Group) (o : EOps) (m : Half) : List (Nat × Dword) :=
  (accLanes g m).foldl (fun (a : List (Nat × Dword)) l =>
    match k, a.getLast? with
    | .packed, some (p, va) => a ++ [(l, va + BitVec.ofNat 64 ((vpStored s g o p).1.bytes.length))]
    | _, _ => a ++ [(l, vpAddrOf k g s.free o l)]) []

/-- What VPST marks in %vpstat as it issues. -/
def vpstMarks (s : State) (g : Group) (o : EOps) (m : Half) (g' : Group) : Group :=
  (lanesOf m).foldl (fun g' l => if (vpStored s g o l).2.any then g'.setVpstat l (vpBits (vpStored s g o l).2 false) else g') g'

/-- VPST at its issue. -/
def vpstRun (k : VpAddr) (sh : Shape) (o : EOps) (s : State) (g : Group) : Res Eff :=
  let m := g.active sh o s.free
  let bad := maskOf (fun l => m.getLsbD l && VpElt.badHead (g.vpWord s.free o.c.toNat 0 l))
  let addrs := vpstAddrs k s g o m
  let diff := g.mismatch (g.fold m) (fun v =>
    vpAddrOf k g s.free o (2 * v) != vpAddrOf k g s.free o (2 * v + 1) || (vpStored s g o (2 * v)).1.bytes != (vpStored s g o (2 * v + 1)).1.bytes)
  if bad ≠ 0 then .trap { cause := causeIllegal, lanes := g.fold bad }
  else if diff ≠ 0 then shadowHit s g diff (fun v => ((addrs.find? (fun p => p.1 == 2 * v)).map (·.2)).getD 0)
  else if vpFull s || g.pend.any (·.vp) || fenceWait s g { stores := true, ctl := addrs.any (fun a => ctlPlace s g a.2) } then .hold .suspended
  else
    storeLike .ldst 1 (o.hint.toNat % 4) .bytes
      (addrs.map (fun p => { lane := p.1, va := p.2, bytes := (vpStored s g o p.1).1.bytes })) (vpstMarks s g o m) s g

theorem vpst_eq (k : VpAddr) (ck : Checks) (sh : Shape) (o : EOps) (s : State) : vpst k ck sh o s = issueC ck sh o (vpstRun k sh o) s := by
  unfold vpst vpstRun vpstAddrs vpstMarks vpStored
  simp only [xField_low]
  rfl

/-- The addresses, each with its element, are the lanes of the store. -/
theorem vpstAddrs_lanes (k : VpAddr) (s : State) (g : Group) (o : EOps) (ls : List Nat) (acc : List (Nat × Dword)) :
    (ls.foldl (fun (a : List (Nat × Dword)) l =>
      match k, a.getLast? with
      | .packed, some (p, va) => a ++ [(l, va + BitVec.ofNat 64 ((vpStored s g o p).1.bytes.length))]
      | _, _ => a ++ [(l, vpAddrOf k g s.free o l)]) acc).map
        (fun p => ({ lane := p.1, va := p.2, bytes := (vpStored s g o p.1).1.bytes } : BurrowLane)) =
    acc.map (fun p => { lane := p.1, va := p.2, bytes := (vpStored s g o p.1).1.bytes }) ++
      vpStoreLanes k s g o ls (acc.getLast?.map (fun p => p.2 + BitVec.ofNat 64 (vpStored s g o p.1).1.bytes.length)) := by
  induction ls generalizing acc with
  | nil => simp [vpStoreLanes]
  | cons l ls ih =>
    rw [List.foldl_cons, ih]
    cases k with
    | packed => cases hl : acc.getLast? <;> simp [vpStoreLanes]
    | plain => simp [vpStoreLanes]
    | strided => simp [vpStoreLanes]
    | indexed => simp [vpStoreLanes]

theorem vpstAddrs_map (k : VpAddr) (s : State) (g : Group) (o : EOps) (m : Half) :
    (vpstAddrs k s g o m).map (fun p => ({ lane := p.1, va := p.2, bytes := (vpStored s g o p.1).1.bytes } : BurrowLane)) =
      vpStoreLanes k s g o (accLanes g m) none :=
  vpstAddrs_lanes k s g o (accLanes g m) []

theorem foldl_marks (s : State) (g : Group) (o : EOps) (ls : List Nat) (g' : Group) (w : Wait) :
    ls.foldl (fun g' l => if (vpStored s g o l).2.any then g'.setVpstat l (vpBits (vpStored s g o l).2 false) else g') { g' with wait := w } =
      { ls.foldl (fun g' l => if (vpStored s g o l).2.any then g'.setVpstat l (vpBits (vpStored s g o l).2 false) else g') g' with wait := w } := by
  induction ls generalizing g' with
  | nil => rfl
  | cons l ls ih =>
    rw [List.foldl_cons, List.foldl_cons, ← ih]
    refine congrArg (fun x => ls.foldl _ x) ?_
    split <;> rfl

/-- The marks are in %vpstat alone. -/
theorem vpstMarks_keeps {α : Type} (f : Group → α) (hf : ∀ g v, f { g with vpstat := v } = f g) (s : State) (g : Group) (o : EOps) (m : Half) (g' : Group) :
    f (vpstMarks s g o m g') = f g' := by
  unfold vpstMarks
  generalize lanesOf m = ls
  induction ls generalizing g' with
  | nil => rfl
  | cons l ls ih =>
    rw [List.foldl_cons, ih]
    split
    · exact hf ..
    · rfl

theorem vpst_starts {k : VpAddr} {sh : Shape} {o : EOps} {s : State} {g : Group} {c : Clause} (h : Runs {} sh o s g c) (hdry : burrowOf s s.cur = [])
    (hroom : (s.core g.core).burrow.length < 64) (hcomm : g.comm = []) (hfull : vpFull s = false) (hpend : ∀ p ∈ g.pend, p.vp = false)
    (hprot : g.info.prot = false) :
    let m := g.active sh o s.free
    let ls := vpStoreLanes k s g o (accLanes g m) none
    fenceWait (issuing s g) { g with wait := .none } { stores := true, ctl := ls.any (fun l => ctlPlace (issuing s g) g l.va) } = false →
    storesHeld (issuing s g) s.cur false (ls.map (fun l => (l.lane, l.va, l.bytes.length))) = false →
    maskOf (fun l => m.getLsbD l && VpElt.badHead (g.vpWord s.free o.c.toNat 0 l)) = 0 →
    (∀ l ∈ ls, accCheck s g .ldst l.va l.bytes.length 1 = none) →
    vpst k {} sh o s = .next (storeIssued s (vpstMarks s g o m g) c false (o.hint.toNat % 4) .bytes ls false) := by
  intro m ls hfence hstores hbad hchecks
  rw [fenceWait_issuing h.here] at hfence
  have hls : (vpstAddrs k s g o m).map (fun p => ({ lane := p.1, va := p.2, bytes := (vpStored s g o p.1).1.bytes } : BurrowLane)) = ls :=
    vpstAddrs_map k s g o m
  have hctl : (vpstAddrs k s g o m).any (fun a => ctlPlace s g a.2) = ls.any (fun l => ctlPlace (issuing s g) g l.va) := by
    rw [← hls, List.any_map]; rfl
  have hvp : g.pend.any (·.vp) = false := List.any_eq_false.2 fun p hp => by simp [hpend p hp]
  rw [vpst_eq]
  refine (issueC_applies h (e := storeEff s (vpstMarks s g o m g) (o.hint.toNat % 4) .bytes ls false) ?_).trans rfl
  unfold vpstRun
  dsimp only
  refine (if_neg (not_not.2 hbad)).trans ((if_neg (not_not.2 ?_)).trans ((if_neg ?_).trans ?_))
  · exact if_neg (by rw [show ({ g with wait := .none } : Machine.Group).info.prot = false from hprot]; decide)
  · change ¬(vpFull s || g.pend.any (·.vp) || fenceWait s { g with wait := .none }
      { stores := true, ctl := (vpstAddrs k s g o m).any (fun a => ctlPlace s g a.2) }) = true
    rw [hfull, hvp, hctl, Bool.not_eq_true]
    exact hfence
  · change storeLike .ldst 1 (o.hint.toNat % 4) .bytes
      ((vpstAddrs k s g o m).map (fun p => ({ lane := p.1, va := p.2, bytes := (vpStored s g o p.1).1.bytes } : BurrowLane)))
      (vpstMarks s g o m) s { g with wait := .none } = _
    rw [hls]
    exact storeLike_changes h.here (foldl_marks s g o (lanesOf m) g .none) (vpstMarks_keeps Group.core (fun _ _ => rfl) ..)
      (vpstMarks_keeps Group.seq (fun _ _ => rfl) ..) hchecks (fun _ => hcomm) hstores hdry hroom

theorem precisionStores : Parts.PrecisionStores := by
  intro f hf o s g c h hdry hroom hcomm hfull hpend hprot
  have hst := fun k => vpst_starts (k := k) h hdry hroom hcomm hfull hpend hprot
  simp only [List.mem_cons, List.not_mem_nil, or_false] at hf
  rcases hf with rfl | rfl | rfl | rfl
  · exact hst .plain
  · exact hst .strided
  · exact hst .indexed
  · exact hst .packed

/-! ### VPLD (R284, R285) -/

/-- Where every head is read and valid and none waits, the elements are loaded. -/
theorem vpldHeads_reads {s t : State} {packed : Bool} {addrs : List (Nat × Dword)} {o : EOps} {sh : Shape} {m : Half} {accs : List LaneAcc}
    (hp : headLoop packed (o.hint.toNat % 4) addrs none s = (t, accs.map (fun a => HeadRes.ok a none))) :
    vpldHeads s packed addrs o sh m =
      opIssue { t with groups := t.groups.put s.cur { t.grp s.cur with deny := [] } } s.cur
        { act := .vpLoad, dst := o.d.toNat, accs := accs, hint := o.hint.toNat % 4 } (writesOf sh o) m true [] [] [] := by
  have hwait : (accs.map (fun a => HeadRes.ok a none)).contains .wait = false := by simp
  have hnone : accs.findSome? (fun _ => (none : Option (LaneAcc × Xl))) = none := List.findSome?_eq_none_iff.2 fun _ _ => rfl
  unfold vpldHeads
  dsimp only
  rw [hp]
  dsimp only
  rw [hwait]
  simp [List.filterMap_map, Function.comp_def, List.findSome?_map, hnone]

/-- What a VPLD with its heads read has run to. -/
def vpldEff (t : State) (gk : Nat) (sh : Shape) (o : EOps) (m : Half) (accs : List LaneAcc) : Eff :=
  let x := opRun t gk (t.grp gk).seq { act := .vpLoad, dst := o.d.toNat, accs := accs, hint := o.hint.toNat % 4 }
  { s := x.s
    g := x.s.grp gk
    pend := some {
      id := (t.grp gk).seq, dests := writesOf sh o, lanes := m, vp := true, outs := x.outs, vpbits := x.vpbits
      cause := deniedTrap (x.s.grp gk) x.causes (t.grp gk).seq, denied := x.causes
      vas := accs.map (fun a => (a.lane, a.va)) } }

theorem opIssue_vpLoad {t : State} {gk : Nat} {sh : Shape} {o : EOps} {m : Half} {accs : List LaneAcc}
    (hleft : (opRun t gk (t.grp gk).seq { act := .vpLoad, dst := o.d.toNat, accs := accs, hint := o.hint.toNat % 4 }).left = []) :
    opIssue t gk { act := .vpLoad, dst := o.d.toNat, accs := accs, hint := o.hint.toNat % 4 } (writesOf sh o) m true [] [] [] =
      .ok (vpldEff t gk sh o m accs) := by
  unfold opIssue vpldEff
  simp only [hleft]
  rfl

/-- VPLD at its issue. -/
def vpldRun (k : VpAddr) (sh : Shape) (o : EOps) (s : State) (g : Group) : Res Eff :=
  let m := g.active sh o s.free
  let diff := g.mismatch (g.fold m) (fun v => vpAddrOf k g s.free o (2 * v) != vpAddrOf k g s.free o (2 * v + 1))
  if diff ≠ 0 then shadowHit s g diff (fun v => vpAddrOf k g s.free o (2 * v))
  else if vpFull s || fenceWait s g { loads := true } then .hold .suspended
  else vpldHeads (s.putG g) (decide (k = .packed)) ((accLanes g m).map (fun l => (l, vpAddrOf k g s.free o l))) o sh m

theorem vpld_eq (k : VpAddr) (ck : Checks) (sh : Shape) (o : EOps) (s : State) : vpld k ck sh o s = issueC ck sh o (vpldRun k sh o) s := rfl

theorem vpldRun_ready {k : VpAddr} {sh : Shape} {o : EOps} {s : State} {g : Group} (here : s.groups.get? s.cur = some g) (hfull : vpFull s = false)
    (hfence : fenceWait (issuing s g) { g with wait := .none } { loads := true } = false)
    (hagree : g.mismatch (g.fold (g.active sh o s.free)) (fun v => vpAddrOf k g s.free o (2 * v) != vpAddrOf k g s.free o (2 * v + 1)) = 0) :
    vpldRun k sh o s { g with wait := .none } =
      vpldHeads (issuing s g) (decide (k = .packed)) ((accLanes g (g.active sh o s.free)).map (fun l => (l, vpAddrOf k g s.free o l))) o sh
        (g.active sh o s.free) := by
  rw [fenceWait_issuing here] at hfence
  refine (if_neg (not_not.2 hagree)).trans (if_neg ?_)
  rw [hfull, hfence]
  decide

theorem vpld_starts {k : VpAddr} {sh : Shape} {o : EOps} {s : State} {g : Group} {c : Clause} (h : Runs {} sh o s g c) (hfull : vpFull s = false) :
    let m := g.active sh o s.free
    fenceWait (issuing s g) { g with wait := .none } { loads := true } = false →
    g.mismatch (g.fold m) (fun v => vpAddrOf k g s.free o (2 * v) != vpAddrOf k g s.free o (2 * v + 1)) = 0 →
    let p := headLoop (decide (k = .packed)) (o.hint.toNat % 4) ((accLanes g m).map (fun l => (l, vpAddrOf k g s.free o l))) none (issuing s g)
    ∀ accs, p.2 = accs.map (fun a => HeadRes.ok a none) → p.1.cur = s.cur →
      let t := p.1.with { p.1.grp s.cur with deny := [] }
      (opRun t s.cur (t.grp s.cur).seq { act := .vpLoad, dst := o.d.toNat, accs := accs, hint := o.hint.toNat % 4 }).left = [] →
      vpld k {} sh o s = .next (applyEff c false (vpldEff t s.cur sh o m accs)) := by
  intro m hfence hagree p accs hp hcur t hleft
  have ht : ({ p.1 with groups := p.1.groups.put s.cur { p.1.grp s.cur with deny := [] } } : State) = t :=
    congrArg (fun gk => ({ p.1 with groups := p.1.groups.put gk { p.1.grp s.cur with deny := [] } } : State)) hcur.symm
  rw [vpld_eq]
  refine issueC_applies h ((vpldRun_ready h.here hfull hfence hagree).trans ?_)
  rw [vpldHeads_reads (t := p.1) (accs := accs) (by rw [← hp]), issuing_cur, ht]
  exact opIssue_vpLoad hleft

theorem precisionLoads : Parts.PrecisionLoads := by
  intro f hf o s g c h hfull m g0 hfence hagree p accs hp hcur t x hleft
  have hst := fun k => vpld_starts (k := k) h hfull hfence
  simp only [List.mem_cons, List.not_mem_nil, or_false] at hf
  rcases hf with rfl | rfl | rfl | rfl
  · exact hst .plain hagree accs hp hcur hleft
  · exact hst .strided hagree accs hp hcur hleft
  · exact hst .indexed hagree accs hp hcur hleft
  · exact hst .packed hagree accs hp hcur hleft

/-! ### VPLD from the scratchpad -/

/-- What VPLD asks of a group for its elements to be read at once: no RATOM, no tile instruction and no burrow entry is in the way, no
denial waits, and its world may read the scratchpad. -/
structure ReadsAtOnce (s : State) (gk : Nat) : Prop where
  ratoms : (s.grp gk).ratoms = []
  tile : (s.core (s.grp gk).core).tile.jobs = []
  burrow : burrowOf s gk = []
  deny : (s.grp gk).deny = []
  world : (s.grp gk).id.world = true ∨ (s.cohort (s.grp gk).cohort).id.world = false

theorem loadsHeld_free {s : State} {gk : Nat} (h : ReadsAtOnce s gk) (every : Bool) (accs : List (Nat × Dword × Nat)) : loadsHeld s gk every accs = false := by
  have htile : tileDests s gk = [] := by simp [tileDests, tileOpen, h.tile]
  simp [loadsHeld, loadWaitsTile, htile, ratomMeets, h.ratoms]

/-- An element of the scratchpad that VPLD may load into lane `e.1`. -/
structure EltOk (s : State) (g : Group) (e : Nat × Dword) : Prop where
  space : spaceOf e.2 = .scratch
  head : accCheck s g .ldst e.2 4 1 = none
  whole : accCheck s g .ldst e.2 (4 + (scrBody s g e.2).length) 1 = none
  valid : VpElt.badHead (scrHead s g e.2) = false
  fits : (scrHead s g e.2).toNat % 256 ≤ g.lmax ∨ g.precSat e.1 = true

/-- The access of a lane whose head has been read. -/
def eltAcc (s : State) (g : Group) (e : Nat × Dword) : LaneAcc :=
  { lane := e.1, va := e.2, b := (g.precOf e.1).setWidth 128, c := (scrHead s g e.2).setWidth 128 }

theorem length_scrBody (s : State) (g : Group) (va : Dword) : (scrBody s g va).length = ((scrHead s g va).toNat % 256 + 7) / 8 := by
  simp [scrBody]

theorem headRead_scratch {s : State} {gk : Nat} {l hint : Nat} {va : Dword} (h : ReadsAtOnce s gk) (hsp : spaceOf va = .scratch) :
    ∃ bs, headRead s gk (s.grp gk) l va hint = (s, some (.ok bs)) ∧ BitVec.ofNat 32 (bytesNat bs) = scrHead s (s.grp gk) va := by
  let byte := fun i : Nat => (s.cohort (s.grp gk).cohort).scr.getD (va.toNat % 2 ^ 60 + i) 0
  refine ⟨[byte 0, byte 1, byte 2, byte 3], ?_, word_of_bytes ..⟩
  unfold headRead
  rw [loadsHeld_free h, forwardOf_dry h.burrow, laneRead_scratch hsp h.world]
  rfl

theorem headOne_scratch {s : State} {l hint : Nat} {va : Dword} (h : ReadsAtOnce s s.cur) (he : EltOk s (s.grp s.cur) (l, va)) :
    headOne s l va hint = (s, .ok (eltAcc s (s.grp s.cur) (l, va)) none, 4 + (scrBody s (s.grp s.cur) va).length) := by
  obtain ⟨hsp, hhead, hwhole, hvalid, hfits⟩ := he
  obtain ⟨bs, hread, hbs⟩ := headRead_scratch (l := l) (hint := hint) h hsp
  unfold headOne
  dsimp only at *
  rw [hhead]
  dsimp only
  rw [h.deny, if_neg (by simp), hread]
  dsimp only
  rw [hbs, ← length_scrBody, hvalid, hwhole, if_neg Bool.false_ne_true, if_neg (by rintro ⟨h1, h2⟩; rcases hfits with h3 | h3 <;> simp_all; omega)]
  dsimp only
  rw [loadsHeld_free h, forwardOf_dry h.burrow]
  rfl

/-- The address of an element: its own, or, packed, where the one before it ended. -/
def eltAddr (k : VpAddr) (next : Option Dword) (own : Dword) : Dword := if decide (k = .packed) then next.getD own else own

theorem scrElts_cons (k : VpAddr) (s : State) (g : Group) (o : EOps) (l : Nat) (ls : List Nat) (next : Option Dword) :
    scrElts k s g o (l :: ls) next =
      (l, eltAddr k next (vpAddrOf k g s.free o l)) ::
        scrElts k s g o ls (some (eltAddr k next (vpAddrOf k g s.free o l) +
          BitVec.ofNat 64 (4 + (scrBody s g (eltAddr k next (vpAddrOf k g s.free o l))).length))) := by
  cases k <;> cases next <;> rfl

theorem headLoop_scratch {k : VpAddr} {s : State} {o : EOps} {hint : Nat} (h : ReadsAtOnce s s.cur) (ls : List Nat) (next : Option Dword)
    (hes : ∀ e ∈ scrElts k s (s.grp s.cur) o ls next, EltOk s (s.grp s.cur) e) :
    headLoop (decide (k = .packed)) hint (ls.map (fun l => (l, vpAddrOf k (s.grp s.cur) s.free o l))) next s =
      (s, (scrElts k s (s.grp s.cur) o ls next).map (fun e => .ok (eltAcc s (s.grp s.cur) e) none)) := by
  induction ls generalizing next with
  | nil => rfl
  | cons l ls ih =>
    rw [scrElts_cons] at hes ⊢
    rw [List.map_cons, headLoop]
    dsimp only
    rw [show (if decide (k = .packed) then next.getD _ else _ : Dword) = eltAddr k next (vpAddrOf k (s.grp s.cur) s.free o l) from rfl,
      headOne_scratch h (hes _ List.mem_cons_self)]
    dsimp only
    rw [if_neg (by simp), ih _ fun e he => hes e (List.mem_cons_of_mem _ he), List.map_cons]

theorem spaceOf_scratch_iff (va : Dword) : spaceOf va = .scratch ↔ va.toNat / 2 ^ 60 = 8 := by
  have := va.isLt
  unfold spaceOf bits
  generalize va.toNat = n at *
  have h62 : n / 2 ^ 62 % 2 ^ 2 = n / 2 ^ 60 / 4 := by omega
  have h60 : n / 2 ^ 60 % 2 ^ 2 = n / 2 ^ 60 % 4 := rfl
  rw [h62, h60]
  have hlt : n / 2 ^ 60 < 16 := by omega
  generalize n / 2 ^ 60 = k at *
  interval_cases k <;> decide

/-- The keys of the regions above 2^63: the windows' own, and that of the reserved ones. -/
theorem regionKey_window {va : Dword} (hlow : 2 ^ 63 ≤ va.toNat) : regionKey va = if va.toNat / 2 ^ 60 < 12 then va.toNat / 2 ^ 60 else 3 := by
  have := va.isLt
  unfold regionKey spaceOf bits
  generalize va.toNat = n at *
  have h62 : n / 2 ^ 62 % 2 ^ 2 = n / 2 ^ 60 / 4 := by omega
  have h60 : n / 2 ^ 60 % 2 ^ 2 = n / 2 ^ 60 % 4 := rfl
  rw [h62, h60]
  have hlt : n / 2 ^ 60 < 16 := by omega
  have hge : 8 ≤ n / 2 ^ 60 := by omega
  generalize n / 2 ^ 60 = k at *
  interval_cases k <;> rfl

/-- An element's body lies in its own region, behind its head. -/
theorem body_in_region {s : State} {g : Group} {va : Dword} {n : Nat} (hn : 0 < n) (hsp : spaceOf va = .scratch)
    (h : accCheck s g .ldst va (4 + n) 1 = none) :
    spaceOf (va + 4) = .scratch ∧ (va + 4).toNat % 2 ^ 60 = va.toNat % 2 ^ 60 + 4 := by
  have hva := (spaceOf_scratch_iff va).1 hsp
  have hrange : ¬(regionKey va ≠ regionKey (va + BitVec.ofNat 64 (4 + n - 1)) || decide (2 ^ 64 ≤ va.toNat + (4 + n - 1))) = true := by
    intro hbad
    unfold accCheck rangeCheck at h
    rw [if_neg (by simp [Nat.mod_one])] at h
    dsimp only at h
    rw [if_neg (by rw [hsp]; decide), if_pos hbad] at h
    exact nomatch h
  simp only [ne_eq, Bool.or_eq_true, decide_eq_true_eq, not_or, not_not, not_le] at hrange
  obtain ⟨hkey, hlt⟩ := hrange
  have hlast : (va + BitVec.ofNat 64 (4 + n - 1)).toNat = va.toNat + (4 + n - 1) := by
    rw [BitVec.toNat_add, BitVec.toNat_ofNat]; omega
  rw [regionKey_window (by omega), regionKey_window (by omega), hlast] at hkey
  have hend : (va.toNat + (4 + n - 1)) / 2 ^ 60 = 8 := by
    rw [hva, if_pos (by decide)] at hkey
    split at hkey <;> omega
  have hfour : (va + 4).toNat = va.toNat + 4 := by
    rw [BitVec.toNat_add, show (4 : Dword).toNat = 4 from rfl]
    omega
  exact ⟨(spaceOf_scratch_iff _).2 (by omega), by omega⟩

theorem laneDo_vpLoad {s : State} {gk pid : Nat} {op : MemOp} {e : Nat × Dword} (h : ReadsAtOnce s gk) (he : EltOk s (s.grp gk) e)
    (hact : op.act = .vpLoad) :
    laneDo s gk pid op (eltAcc s (s.grp gk) e) =
      (s, .ok (vpLoadOuts (s.grp gk) op.dst e.1 ((s.grp gk).precOf e.1) (VpElt.ofBytes (scrHead s (s.grp gk) e.2) (scrBody s (s.grp gk) e.2)))) := by
  have hpos : 0 < (scrBody s (s.grp gk) e.2).length := by
    have hv := he.valid
    rw [length_scrBody]
    simp [VpElt.badHead] at hv
    omega
  obtain ⟨hsp, hoff⟩ := body_in_region hpos he.space he.whole
  have hhead : ((scrHead s (s.grp gk) e.2).setWidth 128).setWidth 32 = scrHead s (s.grp gk) e.2 := by simp
  have hprec : (((s.grp gk).precOf e.1).setWidth 128).setWidth 32 = (s.grp gk).precOf e.1 := by simp
  unfold laneDo
  rw [hact]
  dsimp only [eltAcc]
  rw [hhead, hprec, laneRead_scratch hsp h.world]
  dsimp only
  rw [hoff]
  rfl

/-- The lanes of a VPLD from the scratchpad, each with its element. -/
theorem opRun_scratch {s : State} {gk pid : Nat} {op : MemOp} (h : ReadsAtOnce s gk) (hact : op.act = .vpLoad) (es : List (Nat × Dword))
    (hes : ∀ e ∈ es, EltOk s (s.grp gk) e) (hop : op.accs = es.map (eltAcc s (s.grp gk))) :
    let r := fun e => vpLoadOuts (s.grp gk) op.dst e.1 ((s.grp gk).precOf e.1) (VpElt.ofBytes (scrHead s (s.grp gk) e.2) (scrBody s (s.grp gk) e.2))
    opRun s gk pid op = { s := s, outs := es.flatMap (fun e => (r e).outs), vpbits := es.flatMap (fun e => (r e).vpbits) } := by
  intro r
  have hstep : ∀ (es : List (Nat × Dword)) (x : OpRun), x.s = s → (∀ e ∈ es, EltOk s (s.grp gk) e) →
      (es.map (eltAcc s (s.grp gk))).foldl (opStep gk pid op) x =
        { x with outs := x.outs ++ es.flatMap (fun e => (r e).outs), vpbits := x.vpbits ++ es.flatMap (fun e => (r e).vpbits) } := by
    intro es
    induction es with
    | nil => intro x _ _; simp
    | cons e es ih =>
      intro x hx hes
      have hone : opStep gk pid op x (eltAcc s (s.grp gk) e) = { x with outs := x.outs ++ (r e).outs, vpbits := x.vpbits ++ (r e).vpbits } := by
        unfold opStep
        rw [hx, laneDo_vpLoad h (hes e List.mem_cons_self) hact]
      rw [List.map_cons, List.foldl_cons, hone,
        ih { x with outs := x.outs ++ (r e).outs, vpbits := x.vpbits ++ (r e).vpbits } hx fun e he => hes e (List.mem_cons_of_mem _ he)]
      simp
  unfold opRun
  rw [hop, hstep es _ rfl hes]
  simp

theorem scrElts_resumed (k : VpAddr) (s : State) (g : Group) (o : EOps) (ls : List Nat) (next : Option Dword) :
    scrElts k (issuing s g) { g with wait := .none } o ls next = scrElts k s g o ls next := by
  induction ls generalizing next with
  | nil => rfl
  | cons l ls ih =>
    rw [scrElts_cons, scrElts_cons, ih]
    rfl

theorem Group.deny_nil {g : Group} (h : g.deny = []) : ({ g with deny := [] } : Group) = g := by rw [← h]

/-- VPLD of elements that all lie in the group's scratchpad starts with them as its results. -/
theorem vpld_completes {k : VpAddr} {sh : Shape} {o : EOps} {s : State} {g : Group} {c : Clause} (h : Runs {} sh o s g c) (hfull : vpFull s = false)
    (hfence : fenceWait (issuing s g) { g with wait := .none } { loads := true } = false) (hdry : burrowOf s s.cur = []) (hratoms : g.ratoms = [])
    (htile : (s.core g.core).tile.jobs = []) (hdeny : g.deny = []) (hprot : g.info.prot = false)
    (hw : g.id.world = true ∨ (s.cohort g.cohort).id.world = false) :
    let m := g.active sh o s.free
    let es := scrElts k s g o (lanesOf m) none
    (∀ e ∈ es, EltOk (issuing s g) { g with wait := .none } e) →
    let r := fun (e : Nat × Dword) => vpLoadOuts g o.d.toNat e.1 (g.precOf e.1) (VpElt.ofBytes (scrHead s g e.2) (scrBody s g e.2))
    vpld k {} sh o s = .next (s.with (g.started c { id := 0, dests := writesOf sh o, lanes := m, vp := true, outs := es.flatMap (fun e => (r e).outs)
                                                    vpbits := es.flatMap (fun e => (r e).vpbits), vas := es })) := by
  intro m es hes r
  have hgrp : (issuing s g).grp (issuing s g).cur = { g with wait := .none } := issuing_grp s g
  have hat : ReadsAtOnce (issuing s g) (issuing s g).cur := by
    constructor
    · rw [hgrp]; exact hratoms
    · rw [hgrp]; exact htile
    · simpa [hasBurrow] using hasBurrow_issuing h.here hdry
    · rw [hgrp]; exact hdeny
    · rw [hgrp]; exact hw
  have hlanes : accLanes g m = lanesOf m := by simp [accLanes, hprot]
  have hes' : ∀ e ∈ scrElts k (issuing s g) { g with wait := .none } o (lanesOf m) none, EltOk (issuing s g) { g with wait := .none } e := by
    rw [scrElts_resumed]; exact hes
  have hloop := headLoop_scratch (k := k) (o := o) (hint := o.hint.toNat % 4) hat (lanesOf m) none (by rw [hgrp]; exact hes')
  rw [hgrp, scrElts_resumed] at hloop
  have hop := opRun_scratch (pid := g.seq) (op := { act := .vpLoad, dst := o.d.toNat, accs := es.map (eltAcc (issuing s g) { g with wait := .none }), hint := o.hint.toNat % 4 })
    hat rfl es (by rw [hgrp]; exact hes) (by rw [hgrp])
  have hstate : ({ issuing s g with groups := (issuing s g).groups.put (issuing s g).cur { (issuing s g).grp (issuing s g).cur with deny := [] } } : State) =
      issuing s g := by
    rw [hgrp, Group.deny_nil (g := { g with wait := .none }) hdeny]
    exact issuing_putG s g
  have hheads := vpldHeads_reads (o := o) (sh := sh) (m := m) (accs := es.map (eltAcc (issuing s g) { g with wait := .none }))
    (hloop.trans (by rw [List.map_map]; rfl))
  rw [hstate, opIssue_vpLoad (by rw [hgrp, show ({ g with wait := .none } : Machine.Group).seq = g.seq from rfl, hop])] at hheads
  have hready := vpldRun_ready (k := k) (sh := sh) (o := o) h.here hfull hfence (if_neg (by rw [hprot]; decide))
  rw [hlanes] at hready
  rw [vpld_eq]
  let p : Pend := { id := g.seq, dests := writesOf sh o, lanes := m, vp := true, outs := es.flatMap (fun e => (r e).outs)
                    vpbits := es.flatMap (fun e => (r e).vpbits), vas := es }
  refine (issueC_starts (s' := issuing s g) (g' := g) (p := p) h rfl (hready.trans (hheads.trans ?_)) rfl rfl).trans
    (congrArg Host.Outcome.next (put_issuing s g _))
  have hvas : (es.map (eltAcc (issuing s g) { g with wait := .none })).map (fun a => (a.lane, a.va)) = es := by
    rw [List.map_map]; exact List.map_id es
  unfold vpldEff
  dsimp only
  rw [hvas]
  dsimp only at hop
  rw [hgrp] at hop ⊢
  rw [show ({ g with wait := .none } : Machine.Group).seq = g.seq from rfl, hop]
  dsimp only
  rw [hgrp]
  rfl

theorem precisionLoadsComplete : Parts.PrecisionLoadsComplete := by
  intro f hf o s g c h hfull g0 hfence hdry hratoms htile hdeny hprot hw m es hes r
  have hst := fun k => vpld_completes (k := k) h hfull hfence hdry hratoms htile hdeny hprot hw
  have hok : ∀ e ∈ es, EltOk (issuing s g) g0 e := fun e he =>
    have ⟨hsp, hhead, hwhole, hvalid, hfits⟩ := hes e he
    ⟨hsp, hhead, hwhole, hvalid, hfits⟩
  simp only [List.mem_cons, List.not_mem_nil, or_false] at hf
  rcases hf with rfl | rfl | rfl | rfl
  · exact hst .plain hok
  · exact hst .strided hok
  · exact hst .indexed hok
  · exact hst .packed hok

/-- Settles O28: VPLD by its heads and then its elements, lane by lane; VPST as a store of its elements. -/
theorem precisionMemory : Obligations.PrecisionMemory := ⟨precisionLoadsComplete, precisionLoads, precisionStores⟩

end Sys2Proof.Machine
end

section
/-!
PROOFS. PCLASS, and the events of the coherence engine.
-/

namespace Sys2Proof.Machine

/-! ### PCLASS (R511 to R514) -/

section Class

variable {wr : Bool} {waits : State → Group → Bool} {run : State → Group → Dword → TlbEnt → State × Nat} {ck : Checks} {sh : Shape} {o : EOps}
  {s s1 : State} {g : Group} {c : Clause} {e : TlbEnt}

theorem pclass_brings (h : Runs ck sh o s g c) (hsp : spaceOf (g.s2 s.free o.a.toNat) = .control) (hpkg : vaPkg (g.s2 s.free o.a.toNat) < s.domain)
    (hdeny : g.deny = []) (hwait : waits (issuing s g) { g with wait := .none } = false) (hleaf : LeafAt (issuing s g) s.cur (g.s2 s.free o.a.toNat) wr s1 e)
    (hcur : ∀ g va e, (run s1 g va e).1.cur = s1.cur) :
    let r := run s1 { g with wait := .none } (g.s2 s.free o.a.toNat) e
    pclass wr waits run ck sh o s =
      .next (broughtBy c ck.closes r.1 (r.1.grp r.1.cur) (writesOf sh o) [(sKey o.d.toNat, BitVec.ofNat 32 r.2)]) := by
  intro r
  refine issueC_applies h ?_
  dsimp only
  rw [s2_resumed g, hsp]
  refine (if_neg (by decide)).trans ((if_neg (not_not.2 rfl)).trans ((if_neg (Nat.not_le.2 hpkg)).trans ?_))
  rw [← issuing_eq_putG, hwait]
  refine (if_neg Bool.false_ne_true).trans ((if_neg (by rw [show ({ g with wait := .none } : Machine.Group).deny = [] from hdeny]; simp)).trans ?_)
  rw [LeafAt.classLeaf hleaf]
  dsimp only
  rw [← hcur { g with wait := .none } (g.s2 s.free o.a.toNat) e]
  rfl

end Class

theorem pageClasses : Parts.PageClasses := by
  refine ⟨fun o => ⟨?_, ?_, ?_, ?_, ?_⟩, fun s g va e cls => ⟨fun h => if_pos h, fun h => if_neg h⟩, fun s g va e h => if_pos (by rw [h]; rfl)⟩
  · intro s g c s1 e h g0 va hsp hpkg hdeny _ hleaf
    have hx : exec (.pclassQuery o) s = pclass false noWait classWord {} shAcrtFree o s := rfl
    exact hx.trans (pclass_brings h hsp hpkg hdeny rfl hleaf fun g va e => (classWord_kept (Kept.refl s1) g va e).cur)
  · intro s g c s1 e h g0 va hsp hpkg hdeny _ hleaf
    have hx : exec (.pclassSet o) s = pclass true noWait (classSet (xField o 0 2)) {} shPclassSet o s := rfl
    exact hx.trans (pclass_brings h hsp hpkg hdeny rfl hleaf fun g va e => (classSet_kept (Kept.refl s1) _ g va e).cur)
  · intro s g c s1 e h g0 va hsp hpkg hdeny _ hleaf
    have hx : exec (.pclassHint o) s = pclass false noWait (classHint (xField o 0 2)) {} shPclassHint o s := rfl
    exact hx.trans (pclass_brings h hsp hpkg hdeny rfl hleaf fun g va e => (classHint_kept (Kept.refl s1) _ g va e).cur)
  · intro s g c s1 e h g0 va hsp hpkg hdeny _ hleaf
    have hx : exec (.pclassLine o) s = pclass false noWait lineWord {} shAcrtFree o s := rfl
    exact hx.trans (pclass_brings h hsp hpkg hdeny rfl hleaf fun g va e => (lineWord_kept (Kept.refl s1) g va e).cur)
  · intro s g c s1 e h g0 va hsp hpkg hdeny hwait hleaf
    obtain ⟨hdry, hfence⟩ := hwait rfl
    have hx : exec (.pclassClear o) s =
      pclass true (fun s g => hasBurrow s s.cur || g.fenced g.seq { ctl := true, stores := true }) lineClear ({} : Checks).closing shPclassClear o s := rfl
    refine hx.trans (pclass_brings h hsp hpkg hdeny ?_ hleaf fun g va e => (lineClear_kept (Kept.refl s1) g va e).cur)
    rw [issuing_cur, hasBurrow_issuing h.here hdry]
    exact hfence

/-! ### Events of the coherence engine (R496, R499 to R510) -/

theorem cohRead_answers {s : State} {cl line : Nat} (hcensus : (s.home line).census = false) (hcount : (s.tok cl line).count = 0)
    (hflight : inFlight s cl line = false) :
    cohRead s cl line = cohServed (sendTok (askFor (answerRead s line).1 cl line false) line (some cl) (answerRead s line).2) line 0 :=
  if_neg (by simp [hcensus, hcount, hflight])

theorem passOn_idle {s : State} (h : s.attempts = []) (cl line : Nat) : passOn s cl line = s := by simp [passOn, h]

theorem tokenAnswer_home {s : State} {n : Nat} {m : TokMsg} (hm : s.flight[n]? = some m) (hd : m.dest = none) :
    tokenAnswer s n = deliverTok { s with flight := s.flight.eraseIdx n } m := by
  simp [tokenAnswer, hm, hd]

/-- A token message to a cluster where nobody waits. -/
theorem tokenAnswer_cluster {s t : State} {n : Nat} {m : TokMsg} {cl : Nat} (hm : s.flight[n]? = some m) (hd : m.dest = some cl)
    (ht : deliverTok { s with flight := s.flight.eraseIdx n } m = t) (hnone : t.attempts = []) : tokenAnswer s n = t := by
  unfold tokenAnswer
  rw [hm]
  dsimp only
  rw [ht, hd]
  dsimp only
  have hsame : ({ t with attempts := [] } : State) = t := by rw [← hnone]
  rw [hnone, List.filter_nil, hsame, List.map_nil, hsame, ite_self]
  exact passOn_idle hnone cl m.line

theorem persistentRequest_first {s : State} {cl line : Nat} (hcensus : (s.home line).census = false) (hnone : s.attempts = []) :
    let t := cohServed { s with attempts := [{ cluster := cl, line := line, write := true, persistent := true }] } line 1
    persistentRequest s cl line true = sendTok (answerWrite t (some cl) line).1 line (some cl) (answerWrite t (some cl) line).2 := by
  intro t
  unfold persistentRequest
  simp [hcensus, hnone, askFor, t]

theorem home_putTok (s : State) (cl line : Nat) (t : Tok) : (s.putTok cl line t).home line = s.home line := rfl

theorem dirtyWriteback_owner {s : State} {cl line : Nat} (howner : (s.tok cl line).owner = true) (hdirty : (s.tok cl line).dirty = true) :
    let t := stashEvent s cl (fun e => e.phys == line && tagCtl e.tag) false
    dirtyWriteback s cl line = (t.putTok cl line { (s.tok cl line) with dirty := false }).putHome line
      { ((t.putTok cl line { (s.tok cl line) with dirty := false }).home line) with dirty := false } := by
  intro t
  rw [home_putTok]
  exact if_pos (show ((s.tok cl line).owner && (s.tok cl line).dirty) = true by rw [howner, hdirty]; rfl)

theorem coherenceEvents : Parts.CoherenceEvents := by
  refine ⟨fun s cl line hcensus => ⟨fun hcount hflight => ?_, fun hcount => ?_, fun hcount => ?_⟩, fun s cl line hcount => ?_, fun s n m hm hd => ?_,
    fun s n m cl hm hd _ hnone => ?_, fun s cl tag l hl htag => ?_, fun s cl line hcount => ?_, fun s cl frame x hx hcl => ?_,
    fun s cl line howner hdirty => ?_, fun s cl line hcensus hnone => ?_, fun s cl va wr t e hsp hleaf => ⟨fun hc => ?_, fun hc => ?_⟩, fun s line hcensus => ?_⟩
  · exact congrArg Host.Outcome.next (cohRead_answers hcensus hcount hflight)
  · exact congrArg Host.Outcome.next (if_pos (.inl hcount))
  · exact congrArg Host.Outcome.next (if_neg (by simp [hcensus, hcount]))
  · exact congrArg Host.Outcome.next (if_neg hcount)
  · exact congrArg Host.Outcome.next (tokenAnswer_home hm hd)
  · exact congrArg Host.Outcome.next (tokenAnswer_cluster hm hd rfl hnone)
  · refine congrArg Host.Outcome.next ?_
    unfold cohEvict evictLine
    rw [hl]
    exact if_pos htag
  · exact congrArg Host.Outcome.next (if_pos hcount)
  · refine congrArg Host.Outcome.next ?_
    unfold pdirtyNotice
    rw [hx]
    exact if_pos hcl
  · exact congrArg Host.Outcome.next (dirtyWriteback_owner howner hdirty)
  · exact congrArg Host.Outcome.next (persistentRequest_first hcensus hnone)
  · refine congrArg Host.Outcome.next ((if_neg (not_not.2 hsp)).trans ?_)
    rw [hleaf]
    exact if_pos hc
  · refine congrArg Host.Outcome.next ((if_neg (not_not.2 hsp)).trans ?_)
    rw [hleaf]
    exact if_neg (by rw [hc]; decide)
  · exact congrArg Host.Outcome.next (if_pos hcensus)

/-- Settles O41: PCLASS by the rule of a leaf that is found, and each event by its own cases. -/
theorem pageClassesAndCoherence : Obligations.PageClassesAndCoherence := ⟨pageClasses, coherenceEvents⟩

end Sys2Proof.Machine
end

section
/-!
PROOFS. Collectives: COLL, COLLW and CARB, and the events of a collective.
-/

namespace Sys2Proof.Machine

/-! ### COLL, COLLW and CARB (R425 to R437) -/

section Instructions

variable {s : State} {g : Group} {o : EOps} {c : Clause}

theorem coll_issues {s1 : State} {x : Nat × Dword} {i : Nat} (h : Runs ({} : Checks).closing shColl o s g c)
    (hdesc : descCheck s (g.s2 s.free o.a.toNat) 64 = none) (hpub : Published s g 4) (hdeny : g.deny = [])
    (hopen : OpensAt (issuing s g) (g.req 0 (g.s2 s.free o.a.toNat)) s1 x) (hfree : freeColl s1 (dieOfCore g.core) = some i) :
    let die := dieOfCore g.core
    let t := wbTensor s1 (clusterOf g.core)
    let r : CollRec := { grp := t.cur, seq := (t.die die).collSeq, id := g.id, addr := g.s2 s.free o.a.toNat }
    let u := (t.putDie die { (t.die die) with collSeq := ((t.die die).collSeq + 1) % 2 ^ 24 }).putColl die i r
    coll {} shColl o s = .next (applyEff c true { s := u, g := u.grp u.cur, outs := [(sKey o.d.toNat, collHandle die i r)] }) := by
  obtain ⟨hdry, hcomm, hfence⟩ := hpub
  intro die t r u
  refine issueC_applies h ?_
  dsimp only
  rw [s2_resumed g, hdesc]
  dsimp only
  rw [relReady_ready h.here hdry hcomm hfence]
  refine (if_neg (by rw [show ({ g with wait := .none } : Machine.Group).deny = [] from hdeny]; simp)).trans ?_
  rw [issuing_putG s g, show ({ g with wait := .none } : Machine.Group).req 0 _ = g.req 0 _ from rfl, OpensAt.pocOpen hopen]
  dsimp only
  rw [show freeColl s1 (dieOfCore ({ g with wait := .none } : Machine.Group).core) = some i from hfree]
  rfl

theorem collOf_resumed (s : State) (g : Group) (h : Word) : collOf s { g with wait := .none } h = collOf s g h := rfl

/-- COLLW and COLLW.TEST of a handle that names no record (R433). -/
theorem collw_unknown {test : Bool} (h : Runs {} shCollw o s g c) (hof : collOf s g (g.uB32 s.free o) = none) :
    collw test {} shCollw o s =
      .next (s.with (g.started c { id := 0, dests := writesOf shCollw o, outs := [(sKey o.d.toNat, BitVec.ofNat 32 5)] })) := by
  refine issueC_starts (g' := g) h rfl ?_ rfl rfl
  dsimp only
  rw [uB32_resumed g, collOf_resumed s g, hof]

theorem collw_done {die r : Nat} {x : CollRec} (h : Runs {} shCollw o s g c) (hof : collOf s g (g.uB32 s.free o) = some (die, r, x)) (hst : x.st = .done)
    (hstatus : x.status ≠ 1) :
    collw false {} shCollw o s = .next ((s.putDie die { (s.die die) with colls := (s.die die).colls.del r }).with
      (g.started c { id := 0, dests := writesOf shCollw o, outs := [(sKey o.d.toNat, BitVec.ofNat 32 x.status)] })) := by
  refine issueC_starts (g' := g) h rfl ?_ rfl rfl
  dsimp only
  rw [uB32_resumed g, collOf_resumed s g, hof]
  exact (if_neg Bool.false_ne_true).trans ((if_pos hst).trans (if_neg hstatus))

theorem collw_waits {die r : Nat} {x : CollRec} (h : Runs {} shCollw o s g c) (hof : collOf s g (g.uB32 s.free o) = some (die, r, x)) (hst : x.st ≠ .done) :
    collw false {} shCollw o s = .next (s.with (g.started c { id := 0, dests := writesOf shCollw o, wait := .coll (g.uB32 s.free o) })) := by
  refine issueC_starts (g' := g) h rfl ?_ rfl rfl
  dsimp only
  rw [uB32_resumed g, collOf_resumed s g, hof]
  exact (if_neg Bool.false_ne_true).trans (if_neg hst)

theorem collw_tests {die r : Nat} {x : CollRec} (h : Runs {} shCollw o s g c) (hof : collOf s g (g.uB32 s.free o) = some (die, r, x)) :
    collw true {} shCollw o s = .next (s.with (g.started c
      { id := 0, dests := writesOf shCollw o, outs := [(sKey o.d.toNat, BitVec.ofNat 32 (if x.st = .done then x.status else 2 ^ 32 - 1))] })) := by
  refine issueC_starts (g' := g) h rfl ?_ rfl rfl
  dsimp only
  rw [uB32_resumed g, collOf_resumed s g, hof]
  exact if_pos rfl

theorem carbSet_runs (h : Runs ({} : Checks).closing shCarbSet o s g c) :
    let w := BitVec.ofNat 32 (xField o 8 8 * 256)
    let ports := if xField o 0 5 = 31 then List.range 24 else [xField o 0 5]
    carbSet {} shCarbSet o s =
      .next ({ s with carb := ports.foldl (fun t p => t.store 0x8800#32 (pkgOfCore g.core * 24 + p) w) s.carb }.with
        (({ g with region := { g.region with opened := false } } : Machine.Group).wrote c [])) := by
  intro w ports
  have hret := retire_wrote (g := { g with wait := .none, region := { g.region with opened := false } }) h.opened h.clean rfl []
  refine (issueC_applies h rfl).trans ?_
  simp only [applyEff, Checks.closing, Bool.false_eq_true, if_false, if_true, hret]
  rfl

end Instructions

/-! ### Events of a collective -/

section Events

variable {s s1 : State} {die r : Nat} {x : CollRec} {bs : List Byte}

/-- The descriptor of a collective that joins, in its record. -/
def collDescribed (x : CollRec) (bs : List Byte) : CollRec :=
  { x with words := (List.range 16).map (fun i => BitVec.ofNat 32 (bytesNat ((bs.drop (4 * i)).take 4))) }

theorem collJoin_reads (hx : s.coll die r = some x) (hst : x.st = .issued) (hheld : x.held = false) (hact : collActive s die r = true)
    (hread : collRead s die r x x.addr 64 = (s1, .ok bs)) :
    collJoin s die r =
      if (collDescribed x bs).invalid die then collFinish s1 die r 4
      else
        collSoft (collRead s1 die r (collDescribed x bs) (collDescribed x bs).members (4 * (collDescribed x bs).nm)) die r (fun s ms =>
          let own := bytesNat ((ms.drop (4 * (collDescribed x bs).rank)).take 4)
          let pkgs := ((List.range (collDescribed x bs).nm).map (fun k => bytesNat ((ms.drop (4 * k)).take 4) / 256)).eraseDups
          if own ≠ die / 4 * 256 + die % 4 then collFinish s die r 4
          else if pkgs.any (s.lostTo (die / 4)) then collFinish s die r 1
          else collEnter s die r { collDescribed x bs with pkgs := pkgs }) := by
  unfold collJoin
  rw [hx]
  dsimp only
  rw [if_neg (by simp [hst, hheld, hact]), hread]
  rfl

theorem bucketReady_reads (hx : s.coll die r = some x) (hheld : x.held = false) (hnb : x.nb ≠ 0) (hst : x.st = .running ∨ x.st = .joined)
    (hread : collRead s die r x x.signal 4 = (s1, .ok bs)) :
    bucketReady s die r = collPower (collReady s1 die r (min (bytesNat bs) x.nb)) die r := by
  unfold bucketReady
  rw [hx]
  dsimp only
  rw [if_neg (by rcases hst with hst | hst <;> simp [hst, hheld, hnb]), hread]
  rfl

theorem segmentReceive_sends {n : Nat} {seg : CollSeg} (hx : s.coll die r = some x) (hheld : x.held = false) (hst : x.st = .running)
    (hpower : x.nm = 1 ∨ (s.die die).powerHeld (.seg r) = true) (hseg : x.sendq[n]? = some seg)
    (hpath : ∀ m ∈ collDests x seg, pathUp s (die / 4) (m.1 / 4) = true) (hfree : segHeld s die n x seg = false)
    (hread : collRead s die r x (x.src + BitVec.ofNat 64 ((seg.block * x.count + seg.lo) * x.z)) (seg.n * x.z) = (s1, .ok bs)) :
    let data := (List.range seg.n).map (fun i => bytesNat ((bs.drop (i * x.z)).take x.z))
    let t := (s1.putColl die r { x with sendq := x.sendq.eraseIdx n }).bump (die / 4) (396 + die % 4) 0
    let u := if 1 < x.nm then powerEnd t die (.seg r) else t
    segmentReceive s pathUp die r n = collPower ((collDests x seg).foldl (fun s m =>
      collLand (transmit s (die / 4) (m.1 / 4) vcColl (seg.n * x.z)) x.rank seg data m) u) die r := by
  intro data t u
  have hup : (collDests x seg).all (fun m => pathUp s (die / 4) (m.1 / 4)) = true := List.all_eq_true.2 hpath
  unfold segmentReceive
  rw [hx]
  dsimp only
  rw [if_neg (by rcases hpower with h | h <;> simp [hst, hheld, h]), hseg]
  dsimp only
  rw [hup, hfree, if_neg (by decide), hread]
  rfl

theorem collComplete_finishes (hx : s.coll die r = some x) (hheld : x.held = false) (hst : x.st = .running) (hleft : x.left = 0) (hsent : x.sendq = [])
    (hready : (if x.nb = 0 then 1 else x.nb) ≤ x.ready ∨ x.count = 0) (hbar : x.bar = 0) : collComplete s die r = collFinish s die r 0 := by
  unfold collComplete
  rw [hx]
  dsimp only
  rw [if_neg, if_pos hbar]
  rintro (h | h | h | h | ⟨h1, h2⟩)
  · exact h hst
  · simp [hheld] at h
  · exact h hleft
  · simp [hsent] at h
  · rcases hready with h | h
    · omega
    · exact h2 h

theorem collAbortEvent_aborts (hx : s.coll die r = some x) (hdone : x.st ≠ .done) (hissued : x.st ≠ .issued) (status : Nat) :
    collAbortEvent s die r status =
      if status = 2 then collAbort s die r 2 else if status = 1 ∧ x.pkgs.any (s.lostTo (die / 4)) then collAbort s die r 1 else s := by
  unfold collAbortEvent
  rw [hx]
  exact if_neg (by simp [hdone, hissued])

end Events

/-- Settles O40: each instruction by the record it finds, each event by the state of its record. -/
theorem collectives : Obligations.Collectives := by
  refine ⟨fun o s g c s1 x i h => ?_, fun o s g c => ⟨fun h => ⟨fun hof => ?_, fun die r x hof => ⟨fun hst hstatus => ?_, fun hst => ?_⟩⟩,
    fun h => ⟨fun hof => ?_, fun die r x hof => ?_⟩⟩, fun o s g c h => ?_, fun o s g c h => ?_, fun s die r x s1 bs hx hst hheld hact hread => ?_,
    fun s die r x hx hheld => ⟨fun s1 bs hnb hst hread => ?_, fun n seg s1 bs hst hpower hseg hpath hfree hread => ?_,
      fun hst hleft hsent hready hbar => ?_⟩, fun s die r x hx hdone hissued => ⟨?_, fun hlost => ?_⟩⟩
  · intro g0 va die hdesc hpub hdeny hopen hfree
    exact coll_issues h hdesc hpub hdeny hopen hfree
  · exact collw_unknown h hof
  · exact collw_done h hof hst hstatus
  · exact collw_waits h hof hst
  · exact collw_unknown h hof
  · exact collw_tests h hof
  · exact carbSet_runs h
  · exact issueC_closes h rfl rfl
  · intro y
    have hjoin := collJoin_reads hx hst hheld hact hread
    refine ⟨fun hbad => congrArg Host.Outcome.next (hjoin.trans (if_pos hbad)), fun s2 ms hok hread2 hown => ?_⟩
    intro pkgs hlost
    refine congrArg Host.Outcome.next (?_ : collJoin s die r = _)
    rw [hjoin, if_neg (by rw [show (collDescribed x bs).invalid die = false from hok]; decide),
      show collRead s1 die r (collDescribed x bs) (collDescribed x bs).members (4 * (collDescribed x bs).nm) = (s2, .ok ms) from hread2]
    exact (if_neg (not_not.2 hown)).trans (if_neg (ne_of_eq_of_ne hlost Bool.false_ne_true))
  · exact congrArg Host.Outcome.next (bucketReady_reads hx hheld hnb hst hread)
  · exact congrArg Host.Outcome.next (segmentReceive_sends hx hheld hst hpower hseg hpath hfree hread)
  · exact congrArg Host.Outcome.next (collComplete_finishes hx hheld hst hleft hsent hready hbar)
  · exact congrArg Host.Outcome.next ((collAbortEvent_aborts hx hdone hissued 2).trans (if_pos rfl))
  · exact congrArg Host.Outcome.next ((collAbortEvent_aborts hx hdone hissued 1).trans ((if_neg (by decide)).trans (if_pos ⟨rfl, hlost⟩)))

end Sys2Proof.Machine
end

section
/-!
PROOFS. The solver engine: SCONF, the controls, SSTAT, and the actions of a batch.
-/

namespace Sys2Proof.Machine

theorem State.solver_putSolver (s : State) (die b : Nat) (x : SolverBatch) : (s.putSolver die b x).solver die b = x := by
  simp [State.solver, State.putSolver]

/-! ### SCONF, the controls and SSTAT (R412, R413, R417 to R421) -/

section Instructions

variable {s : State} {g : Group} {o : EOps} {c : Clause}

theorem sconf_runs {s1 : State} {x : Nat × Dword} (h : Runs ({} : Checks).closing shSconf o s g c)
    (hcheck : sconfCheck s { g with wait := .none } (g.s2 s.free o.a.toNat) = none) (hpub : Published s g 5) (hdeny : g.deny = [])
    (hopen : OpensAt (issuing s g) (g.req 0 (g.s2 s.free o.a.toNat)) s1 x) :
    let va := g.s2 s.free o.a.toNat
    let die := dieOfCore g.core
    let t := wbTensor s1 (clusterOf g.core)
    let u := applyEff c true { s := t, g := t.grp t.cur, pend := some { id := 0, dests := writesOf shSconf o, wait := .solver die (xField o 0 3) va va } }
    let v := confRun u u.cur g.seq
    sconf {} shSconf o s = .next (v.putG (v.grp v.cur)) := by
  obtain ⟨hdry, hcomm, hfence⟩ := hpub
  intro va die t u v
  refine issueC_done h ?_
  dsimp only
  rw [s2_resumed g, hcheck]
  dsimp only
  rw [relReady_ready h.here hdry hcomm hfence]
  refine (if_neg (by rw [show ({ g with wait := .none } : Machine.Group).deny = [] from hdeny]; simp)).trans ?_
  rw [issuing_putG s g, show ({ g with wait := .none } : Machine.Group).req 0 _ = g.req 0 _ from rfl, OpensAt.pocOpen hopen]
  dsimp only
  rw [show ({ g with wait := .none } : Machine.Group).clause = some c from h.opened]
  rfl

theorem solverCmd_sends (k : SolvCtl) (h : Runs ({} : Checks).closing shSstart o s g c) (hpub : Published s g 5) :
    let t := solvSend (wbTensor (issuing s g) (clusterOf g.core)) (dieOfCore g.core) (xField o 0 3) k (some s.cur)
    solverCmd k {} shSstart o s = .next (applyEff c true { s := t, g := t.grp t.cur }) := by
  obtain ⟨hdry, hcomm, hfence⟩ := hpub
  intro t
  refine issueC_applies h ?_
  dsimp only
  rw [relReady_ready h.here hdry hcomm hfence]
  rfl

theorem sstatBatch_runs (h : Runs {} shSstatBatch o s g c) :
    let x := s.solver (dieOfCore g.core) (xField o 0 3)
    let ws : List Word := if batchSeen g x then
        [BitVec.ofNat 32 ((x.samples.filter (fun e => e.2.status == 2)).length * 1024 + x.ecode * 16 + x.st.code), BitVec.ofNat 32 x.r]
      else [0, 0]
    sstatBatch {} shSstatBatch o s = .next (s.with (g.started c { id := 0, dests := writesOf shSstatBatch o
                                                                  outs := [(sKey o.d.toNat, ws.getD 0 0), (sKey (o.d.toNat + 1), ws.getD 1 0)] })) := by
  intro x ws
  have hws : ws = [ws.getD 0 0, ws.getD 1 0] := by
    unfold ws
    split <;> rfl
  rw [← show ws.zipIdx.map (fun p => (sKey (o.d.toNat + p.2), p.1)) = [(sKey o.d.toNat, ws.getD 0 0), (sKey (o.d.toNat + 1), ws.getD 1 0)] by
    unfold ws
    split <;> rfl]
  exact issueC_starts (g' := g) h rfl rfl rfl rfl

theorem sstatSamp_runs (h : Runs {} shSstatSamp o s g c) :
    let n := (g.uB32 s.free o).toNat
    let found := (s.die (dieOfCore g.core)).solver.findSome? (fun e => if batchSeen g e.2 then e.2.samples.get? n else none)
    let ws := match found with
      | some p => p.words.take 4
      | none => [0, 0, 0, 0]
    sstatSamp {} shSstatSamp o s = .next (s.with (g.started c { id := 0, dests := writesOf shSstatSamp o
                                                                outs := ws.zipIdx.map (fun p => (sKey (o.d.toNat + p.2), p.1)) })) := by
  intro n found ws
  refine issueC_starts (g' := g) h rfl ?_ rfl rfl
  dsimp only
  rw [uB32_resumed g]
  rfl

end Instructions

/-! ### What a control does to a batch (R412, R413, R415) -/

section Controls

variable {s : State} {die b gk : Nat}

/-- The batch of a number is owned by a group's context. -/
def ownsBatch (s : State) (die b gk : Nat) : Prop :=
  (s.solver die b).id.asid = (s.grp gk).id.asid ∧ (s.solver die b).id.world = (s.grp gk).id.world

theorem solvCtl_notMine (h : ¬ ownsBatch s die b gk) (hst : (s.solver die b).st ≠ .free) (k : SolvCtl) :
    solvCtl s die b k (some gk) = solvError s (some gk) b :=
  if_pos ⟨hst, by simpa using not_and_or.1 h⟩

theorem ownsBatch.mine (h : ownsBatch s die b gk) :
    ¬ ((s.solver die b).st ≠ .free ∧
      (!((s.solver die b).id.asid == (s.grp gk).id.asid && (s.solver die b).id.world == (s.grp gk).id.world)) = true) := by
  obtain ⟨ha, hw⟩ := h
  simp [ha, hw]

theorem solvCtl_start (h : ownsBatch s die b gk) (hst : (s.solver die b).st = .conf) :
    let x := s.solver die b
    solvCtl s die b .start (some gk) =
      s.putSolver die b { x with st := .run, act := .start, samples := x.samples.map (fun e => (e.1, startSample x e.2)) } := by
  refine (if_neg h.mine).trans ?_
  rw [hst]

theorem solvCtl_pause (h : ownsBatch s die b gk) (hst : (s.solver die b).st = .run) :
    solvCtl s die b .pause (some gk) = s.putSolver die b { (s.solver die b) with st := .paused } := by
  refine (if_neg h.mine).trans ?_
  rw [hst]

theorem solvCtl_resume (h : ownsBatch s die b gk) (hst : (s.solver die b).st = .paused) :
    solvCtl s die b .resume (some gk) = s.putSolver die b { (s.solver die b) with st := .run } := by
  refine (if_neg h.mine).trans ?_
  rw [hst]

theorem solvCtl_stop (h : ownsBatch s die b gk) (hst : (s.solver die b).st = .run ∨ (s.solver die b).st = .paused ∨ (s.solver die b).st = .conf)
    (hact : (s.solver die b).act ≠ .finish) : solvCtl s die b .stop (some gk) = solvEnd s die b 3 none := by
  refine (if_neg h.mine).trans ?_
  rcases hst with hst | hst | hst <;>
    · rw [hst]
      exact if_neg hact

theorem solvCtl_free (h : ownsBatch s die b gk) (hst : (s.solver die b).st = .conf ∨ (s.solver die b).st = .ended) :
    solvCtl s die b .free (some gk) = s.putSolver die b {} := by
  refine (if_neg h.mine).trans ?_
  rcases hst with hst | hst <;> rw [hst]

end Controls

/-! ### Actions (R408, R409, R413, R414) -/

section Actions

variable {s t : State} {die b : Nat}

/-- An action that ends with no control waiting leaves its state, in which nothing of the action's hold is kept. -/
theorem solvAfter_ended (hctls : (t.solver die b).ctls = []) :
    solvAfter die b (t, .ok ()) = t.putSolver die b { (t.solver die b) with ctls := [], deny := [] } := by
  unfold solvAfter
  dsimp only
  rw [hctls]
  rfl

theorem solvAction_runs {a : SolvAct} (hheld : (s.solver die b).held = false) (hact : (s.solver die b).act = a)
    (hst : (s.solver die b).st = .run ∨ ((s.solver die b).st = .paused ∧ a ≠ .input)) : solvAction s die b a = solvRun s die b :=
  if_pos ⟨hact, by simp [hheld], hst⟩

theorem solverAt_act : ((solverAt s die b).solver die b).act = (s.solver die b).act := by
  rw [solverAt, State.solver_putSolver]

theorem solvRun_input (hact : (s.solver die b).act = .input) : solvRun s die b = solvAfter die b (doInput (solverAt s die b) die b) := by
  have hat := solverAt_act.trans hact
  unfold solverAt at hat ⊢
  unfold solvRun
  dsimp only
  rw [hat]

theorem solvRun_collect (hact : (s.solver die b).act = .collect) : solvRun s die b = solvAfter die b (doCollect (solverAt s die b) die b) := by
  have hat := solverAt_act.trans hact
  unfold solverAt at hat ⊢
  unfold solvRun
  dsimp only
  rw [hat]

theorem solvRun_decide (hact : (s.solver die b).act = .decide) : solvRun s die b = solvAfter die b (doDecide (solverAt s die b) die b) := by
  have hat := solverAt_act.trans hact
  unfold solverAt at hat ⊢
  unfold solvRun
  dsimp only
  rw [hat]

theorem solvRun_finish (hact : (s.solver die b).act = .finish) : solvRun s die b = solvAfter die b (doFinish (solverAt s die b) die b) := by
  have hat := solverAt_act.trans hact
  unfold solverAt at hat ⊢
  unfold solvRun
  dsimp only
  rw [hat]

theorem solvAction_pausedInput (hst : (s.solver die b).st = .paused) : solvAction s die b .input = s := by
  refine if_neg ?_
  simp [hst]

theorem solvFault_marks {n : Nat} {p : Sample} (hst : (s.solver die b).st = .run ∨ (s.solver die b).st = .paused)
    (hidle : (s.solver die b).act ≠ .idle) (hfinish : (s.solver die b).act ≠ .finish) (hn : n < 1024)
    (hp : (s.solver die b).samples.get? n = some p) (hactive : p.status = 2) :
    solvFault s die b n = putSample s die b n { p with faulted := true } := by
  refine (if_pos ⟨hst, hidle, hfinish⟩).trans ((if_pos hn).trans ?_)
  rw [hp]
  exact if_pos hactive

end Actions

/-- Settles O39: each instruction from the rule of its issue, each control from the batch's state, each action from its end. -/
theorem solverEngine : Obligations.SolverEngine := by
  have hsent : ∀ {i : Instr} {k : SolvCtl} {o : EOps}, (∀ s, exec i s = solverCmd k {} shSstart o s) → ControlSent i k o :=
    fun hx s g c h hpub => (hx s).trans (solverCmd_sends _ h hpub)
  refine ⟨⟨fun o s g c s1 x h => ?_, fun o => ⟨hsent fun _ => rfl, hsent fun _ => rfl, hsent fun _ => rfl, hsent fun _ => rfl, hsent fun _ => rfl⟩,
    fun s die b gk => ?_, fun o s g c h => sstatBatch_runs h, fun o s g c h => sstatSamp_runs h⟩, fun s die b t => ?_, fun s die b _ hst => ?_,
    fun s die b n p => ?_⟩
  · intro g0 va die hcheck hpub hdeny hopen
    exact sconf_runs h hcheck hpub hdeny hopen
  · exact ⟨solvCtl_start, solvCtl_pause, solvCtl_resume, solvCtl_stop, solvCtl_free, fun h hst k => solvCtl_notMine h hst k⟩
  · intro x u done hheld hctls
    refine ⟨fun hst hact hdo => congrArg Host.Outcome.next ?_, fun hst hact hdo => congrArg Host.Outcome.next ?_,
      fun hst hact hdo => congrArg Host.Outcome.next ?_, fun hst hact hdo => congrArg Host.Outcome.next ?_⟩
    · exact (solvAction_runs hheld hact (.inl hst)).trans
        ((solvRun_input hact).trans ((congrArg (solvAfter die b) hdo).trans (solvAfter_ended hctls)))
    · exact (solvAction_runs hheld hact (hst.imp_right fun h => ⟨h, by decide⟩)).trans
        ((solvRun_collect hact).trans ((congrArg (solvAfter die b) hdo).trans (solvAfter_ended hctls)))
    · exact (solvAction_runs hheld hact (hst.imp_right fun h => ⟨h, by decide⟩)).trans
        ((solvRun_decide hact).trans ((congrArg (solvAfter die b) hdo).trans (solvAfter_ended hctls)))
    · exact (solvAction_runs hheld hact (hst.imp_right fun h => ⟨h, by decide⟩)).trans
        ((solvRun_finish hact).trans ((congrArg (solvAfter die b) hdo).trans (solvAfter_ended hctls)))
  · exact congrArg Host.Outcome.next (solvAction_pausedInput hst)
  · exact fun hst hidle hfinish hn hp hactive => congrArg Host.Outcome.next (solvFault_marks hst hidle hfinish hn hp hactive)

end Sys2Proof.Machine
end

section
/-!
PROOFS. Allowances: the instructions of chapter 14, the head of a counter's queue, and the messages between slots and homes.
-/

namespace Sys2Proof.Machine

/-! ### The instructions (R390, R393, R395 to R399) -/

section Instructions

variable {s : State} {g : Group} {o : EOps} {c : Clause}

theorem objectCheck_passes {va : Dword} (halign : va.toNat % 64 = 0) (hspace : spaceOf va = .control) (hpkg : vaPkg va < s.domain) :
    objectCheck s va = none := by
  unfold objectCheck
  rw [if_neg (not_not.2 halign), hspace, if_neg (by decide), if_neg (by decide), if_neg (Nat.not_le.2 hpkg)]

/-- An allowance instruction that raises nothing and that nothing holds does its operation at once. -/
theorem allowI_runs {early : Group → Option Trap} {ll : Bool} {op : Group → AOp} {ready : State → Nat → AOp → Bool} {run : State → Nat → AOp → State}
    {sh : Shape} {a : AOp} (h : Runs ({} : Checks).closing sh o s g c) (hearly : early { g with wait := .none } = none)
    (hop : { op { g with wait := .none } with grp := s.cur, core := g.core, pend := g.seq, id := g.id } = a) (hdry : burrowOf s s.cur = [])
    (hidle : g.allowBusy = false) (halign : (g.s2 s.free o.a.toNat).toNat % 64 = 0) (hspace : spaceOf (g.s2 s.free o.a.toNat) = .control)
    (hpkg : vaPkg (g.s2 s.free o.a.toNat) < s.domain) (hready : ready s (g.s2 s.free o.a.toNat).toNat a = true) :
    let t := run (applyEff c true { s := s, g := { g with wait := .none }
                                    pend := if ll then some { id := 0, dests := writesOf sh o, wait := .allowance } else none })
      (g.s2 s.free o.a.toNat).toNat a
    allowI early ll op ready run {} sh o s = .next (t.putG (t.grp s.cur)) := by
  intro t
  refine issueC_done h ?_
  dsimp only
  rw [hearly, s2_resumed g, objectCheck_passes halign hspace hpkg]
  dsimp only
  rw [hop, hready, show s.putG { g with wait := .none } = issuing s g from rfl, hasBurrow_issuing h.here hdry,
    show ({ g with wait := .none } : Group).allowBusy = false from hidle, if_neg (by decide)]
  split
  · exact absurd (h.opened.symm.trans ‹_›) (Option.some_ne_none c)
  · cases Option.some.inj (h.opened.symm.trans ‹_›)
    rfl

theorem allowI_starts {i : Instr} {sh : Shape} {ll : Bool} {op : State → Group → AOp} {ready : State → Nat → AOp → Bool} {run : State → Nat → AOp → State}
    (hx : ∀ s, exec i s = allowI (fun _ => none) ll (op s) ready run {} sh o s) (hop : ∀ s (g : Group), op s { g with wait := .none } = op s g) :
    AllowanceStarts i sh o ll op ready run := by
  intro s g c h hdry hidle va a halign hspace hpkg hready
  have ha : { op s { g with wait := .none } with grp := s.cur, core := g.core, pend := g.seq, id := g.id } = a := by rw [hop]
  exact (hx s).trans (allowI_runs h rfl ha hdry hidle halign hspace hpkg hready)

/-- The values of ACRT.NEW that R396 refuses. -/
def AcrtOutOfRange (g : Group) (free : Nat) (o : EOps) : Prop :=
  (g.s1 free (o.b.toNat + 2)).toNat = 0 ∨ (g.s1 free (o.b.toNat + 3)).toNat < (g.s1 free (o.b.toNat + 2)).toNat ∨
    2 ^ 48 - 1 < (g.s1 free (o.b.toNat + 1) ++ g.s1 free o.b.toNat).toNat

theorem acrtBad_outOfRange {free : Nat} (h : AcrtOutOfRange g free o) :
    acrtBad g free o = some { cause := causeAllowance, sub := 1, addr := g.s2 free o.a.toNat } :=
  if_pos h

theorem acrtBad_inRange {free : Nat} (h : ¬ AcrtOutOfRange g free o) : acrtBad g free o = none := if_neg h

theorem acrtNew_outOfRange (h : Runs ({} : Checks).closing shAcrtNew o s g c) (hbad : AcrtOutOfRange g s.free o) :
    acrtNew {} shAcrtNew o s = .next (s.with (({ g with wait := .none } : Group).trapHere
      { cause := causeAllowance, sub := 1, addr := g.s2 s.free o.a.toNat, lanes := g.em })) := by
  refine issueC_traps h ?_
  dsimp only
  rw [acrtBad_outOfRange (g := { g with wait := .none }) hbad]
  rfl

theorem acrtNew_inRange (h : Runs ({} : Checks).closing shAcrtNew o s g c) (hgood : ¬ AcrtOutOfRange g s.free o) (hdry : burrowOf s s.cur = [])
    (hidle : g.allowBusy = false) (halign : (g.s2 s.free o.a.toNat).toNat % 64 = 0) (hspace : spaceOf (g.s2 s.free o.a.toNat) = .control)
    (hpkg : vaPkg (g.s2 s.free o.a.toNat) < s.domain) :
    let t := acrtRun (applyEff c true { s := s, g := { g with wait := .none }
                                        pend := some { id := 0, dests := writesOf shAcrtNew o, wait := .allowance } }) (g.s2 s.free o.a.toNat).toNat
      { kind := .create (g.s1 s.free (o.b.toNat + 2)).toNat (g.s1 s.free (o.b.toNat + 3)).toNat
        n := (g.s1 s.free (o.b.toNat + 1) ++ g.s1 s.free o.b.toNat).toNat, grp := s.cur, core := g.core, pend := g.seq, id := g.id }
    acrtNew {} shAcrtNew o s = .next (t.putG (t.grp s.cur)) := by
  unfold acrtNew
  exact allowI_runs (ll := true) h (acrtBad_inRange (g := { g with wait := .none }) hgood) rfl hdry hidle halign hspace hpkg rfl

end Instructions

/-! ### Slots (R385, R397, R398) -/

section Slots

variable {s : State} {cl va home : Nat} {x : Slot} {op : AOp}

theorem slotApply_take (hst : x.st = .held) (hkind : op.kind = .take) (hn : op.n ≤ x.a) :
    slotApply s cl va home x op = allowStatus (s.putSlot cl va { x with a := x.a - op.n }) op 0 := by
  unfold slotApply
  rw [hkind]
  exact if_pos ⟨hst, hn⟩

theorem slotApply_give (hst : x.st = .held) (hkind : op.kind = .give) (hn : x.a + op.n ≤ (s.ctrs.getD va {}).m) :
    slotApply s cl va home x op = giveDone (s.putSlot cl va { x with a := x.a + op.n }) op := by
  unfold slotApply
  rw [hkind]
  refine (if_pos hst).trans ((if_pos hn).trans ?_)
  rw [Nat.min_eq_left hn]

end Slots

/-! ### The head of a counter's queue (R386, R387) -/

section Home

variable {s s1 : State} {va phys : Nat} {leaf : Dword} {x : Counter} {r : AReq} {rest : List AReq}

/-- A take at the head of the queue of a counter that can answer it is served. -/
theorem serveFirst_take (hctr : s.ctrs.get? va = some x) (hawaited : x.awaited = 0) (hqueue : x.queue = r :: rest) (hlive : x.live = true)
    (hbroken : x.broken = false) (hkind : r.op.kind = .take) (hcheck : homeCheck s r.op va = (s1, some (.ok (phys, leaf)))) :
    serveFirst s va = serveTake s1 va { x with phys := phys, leaf := leaf } r := by
  unfold serveFirst
  rw [hctr]
  dsimp only
  rw [hawaited, if_neg (Nat.lt_irrefl 0), hqueue]
  dsimp only
  rw [hcheck]
  dsimp only
  rw [hkind]
  dsimp only
  rw [hlive, hbroken]
  rfl

theorem serveHead_eq (hctr : s.ctrs.get? va = some x) (t : State) (ht : serveFirst s va = t) :
    serveHead s va = if queuedAt t va < x.queue.length then t.bump x.home 430 0 else t := by
  subst ht
  unfold serveHead
  rw [hctr]

theorem serveTake_grants {j : Nat} (hcl : r.cl = some j) (hreserve : r.op.n - r.loc ≤ x.reserve) (hqueue : x.queue = r :: rest) :
    let q := max (r.op.n - r.loc) (min x.q x.reserve)
    serveTake s va x r = (putCtr s va { x with
      reserve := x.reserve - q, hold := setBit x.hold (holdBit j) true, queue := rest, round := false }).send
        { va := va, cl := some j, word := .grant r.op.n r.loc q } := by
  intro q
  refine (if_neg (Nat.not_lt.2 hreserve)).trans ?_
  rw [hcl]
  dsimp only [popReq]
  rw [hqueue]
  rfl

theorem serveTake_remote (hcl : r.cl = none) (hreserve : r.op.n - r.loc ≤ x.reserve) (hqueue : x.queue = r :: rest) :
    serveTake s va x r =
      allowStatus (putCtr s va { x with reserve := x.reserve - (r.op.n - r.loc), queue := rest, round := false }) r.op 0 := by
  refine (if_neg (Nat.not_lt.2 hreserve)).trans ?_
  rw [hcl]
  dsimp only [popReq]
  rw [hqueue]
  rfl

theorem serveTake_recalls (hreserve : x.reserve < r.op.n - r.loc) (hround : x.round = false) : serveTake s va x r = recallRound s va x r.cl :=
  (if_pos hreserve).trans (if_neg (by simp [hround]))

end Home

/-! ### Messages (R384, R385, R387, R388) -/

section Messages

variable {s t : State} {n va cl : Nat} {x : Slot} {op : AOp} {m : AMsg}

/-- A message that arrives leaves the messages under way. -/
theorem deliverAllow_arrives (h : MsgIs s n m) (ht : { s with amsgs := s.amsgs.eraseIdx n } = t) {ok : AWord → Bool} (hok : ok m.word = true) :
    deliverAllow s n ok = if m.homeward then arriveHome t m else arriveSlot t m (m.cl.bind (fun cl => (t.slotOf cl m.va).bind (·.op))) := by
  obtain ⟨hm, hfirst⟩ := h
  subst ht
  unfold deliverAllow
  rw [hm]
  dsimp only
  rw [hok, if_neg]
  simpa using hfirst

theorem arriveSlot_grant {k loc q : Nat} (hx : t.slotOf cl va = some x) (hop : x.op = some op) :
    arriveSlot t { va := va, cl := some cl, word := .grant k loc q } (x.op) =
      allowStatus (slotFree t cl va { x with st := .held, a := loc + q - k, loc := 0, op := none }) op 0 := by
  unfold arriveSlot
  dsimp only
  rw [hx, hop]

theorem arriveSlot_refusal {held : Bool} (hx : t.slotOf cl va = some x) (hop : x.op = some op) :
    arriveSlot t { va := va, cl := some cl, word := .refusal held } (x.op) =
      allowStatus (slotFree t cl va { x with st := if held then .held else .bound, a := x.loc, loc := 0, op := none }) op 1 := by
  unfold arriveSlot
  dsimp only
  rw [hx, hop]

theorem arriveSlot_reply {v : Nat} (hx : t.slotOf cl va = some x) (hop : x.op = some op) (hv : v ≤ 2 ^ 48 - 1) :
    arriveSlot t { va := va, cl := some cl, word := .reply v } (x.op) =
      allowValue (slotFree t cl va { x with st := .bound, a := 0, loc := 0, op := none }) op v := by
  unfold arriveSlot
  dsimp only
  rw [hx, hop]
  exact if_neg (by omega)

theorem arriveSlot_recall_waits {r : Option AOp} (hx : t.slotOf cl va = some x) (hst : x.st = .wait) :
    arriveSlot t { va := va, cl := some cl, word := .recall } r =
      (t.putSlot cl va { x with loc := 0 }).send { va := va, cl := some cl, word := .answer x.loc } := by
  unfold arriveSlot
  dsimp only
  rw [hx]
  dsimp only
  rw [hst]

theorem arriveSlot_recall {r : Option AOp} (hx : t.slotOf cl va = some x) (hst : x.st ≠ .wait) :
    arriveSlot t { va := va, cl := some cl, word := .recall } r =
      (t.putSlot cl va { x with a := 0, st := .bound }).send { va := va, cl := some cl, word := .answer x.a } := by
  unfold arriveSlot
  dsimp only
  rw [hx]
  dsimp only
  split
  · exact absurd ‹_› hst
  · rfl

variable {k : Counter}

theorem Counter.add_fits {v : Nat} (hfits : k.reserve + v ≤ 2 ^ 48 - 1) : k.add v = { k with reserve := k.reserve + v } :=
  if_neg (Nat.not_lt.2 hfits)

/-- A return that its counter can hold is added to its reserve. -/
theorem homeAdd_return {v : Nat} (hctr : t.ctrs.get? va = some k) (hfits : k.reserve + v ≤ 2 ^ 48 - 1) :
    homeAdd t va v none op = putCtr t va { k with reserve := k.reserve + v } := by
  unfold homeAdd
  rw [hctr]
  dsimp only
  rw [Counter.add_fits hfits]
  simp

/-- A give-up that its counter can hold is added to its reserve, and the cluster holds nothing of it any more. -/
theorem homeAdd_giveUp {v : Nat} (hctr : t.ctrs.get? va = some k) (hfits : k.reserve + v ≤ 2 ^ 48 - 1) :
    homeAdd t va v (some cl) op = putCtr t va { k with reserve := k.reserve + v, hold := setBit k.hold (holdBit cl) false } := by
  unfold homeAdd
  rw [hctr]
  dsimp only
  rw [Counter.add_fits (k := { k with hold := setBit k.hold (holdBit cl) false }) hfits]
  simp

theorem answerArrives_adds {v : Nat} (hctr : t.ctrs.get? va = some k) :
    answerArrives t va cl v = putCtr t va { k with
      reserve := min (k.reserve + v) (2 ^ 48 - 1), hold := setBit k.hold (holdBit cl) false, awaited := k.awaited - 1
      queue := k.queue.map (fun r => if r.cl = some cl then { r with loc := 0 } else r) } := by
  unfold answerArrives
  rw [hctr]
  rfl

theorem returnArrives_adds {v : Nat} {from_ : Option Nat} {t1 : State} {pl : Nat × Dword} (hctr : t.ctrs.get? va = some k) (hlive : k.live = true)
    (hbroken : k.broken = false) (hcheck : homeCheck t op va = (t1, some (.ok pl))) (hctr1 : t1.ctrs.get? va = some k)
    (hfits : k.reserve + v ≤ 2 ^ 48 - 1) :
    returnArrives t va v from_ op = giveDone (putCtr t1 va { k with reserve := k.reserve + v }) op := by
  unfold returnArrives
  rw [hctr]
  dsimp only
  refine (if_neg (by simp [hlive])).trans ((if_neg (by simp [hbroken])).trans ?_)
  rw [hcheck]
  dsimp only
  rw [homeAdd_return hctr1 hfits]

theorem returnArrives_broken {v : Nat} (hctr : t.ctrs.get? va = some k) (hlive : k.live = true) (hbroken : k.broken = true) :
    returnArrives t va v none op = allowErr t op va causeAllowance 3 := by
  unfold returnArrives
  rw [hctr]
  dsimp only
  rw [hlive, if_neg (by decide), hbroken, if_pos (by rfl)]

end Messages

/-- Settles O38: each instruction from the shell it shares, the head of a queue by what it asks for, each message by where it arrives. -/
theorem allowanceEngine : Obligations.AllowanceEngine := by
  refine ⟨⟨fun o => ⟨allowI_starts (fun _ => rfl) fun _ _ => rfl, allowI_starts (fun _ => rfl) fun _ _ => rfl, allowI_starts (fun _ => rfl) fun _ _ => rfl,
      allowI_starts (fun _ => rfl) fun _ _ => rfl, allowI_starts (fun _ => rfl) fun _ _ => rfl⟩, fun o s g c h => ?_, fun s cl va home x op hst => ⟨slotApply_take hst, slotApply_give hst⟩⟩,
    fun s va x r rest s1 phys leaf hctr hawaited hqueue hlive hbroken hkind hcheck => ?_, fun s n va cl x op hx hop => ?_,
    fun s n va cl x hx hm => ?_, fun s n va x hctr => ?_⟩
  · intro q m v va g0
    refine ⟨fun hbad => acrtNew_outOfRange h hbad, fun hq hqm hv hdry hidle halign hspace hpkg => ?_⟩
    have hgood : ¬ AcrtOutOfRange g s.free o := by
      rintro (h | h | h)
      · exact absurd h (Nat.ne_of_gt hq)
      · exact absurd hqm (Nat.not_le.2 h)
      · exact absurd hv (Nat.not_le.2 h)
    exact acrtNew_inRange h hgood hdry hidle halign hspace hpkg
  · intro y d count
    have hfirst := serveFirst_take hctr hawaited hqueue hlive hbroken hkind hcheck
    refine ⟨fun j hcl hd => ?_, fun hcl hd => ?_, fun hd hround => ?_⟩
    · exact congrArg Host.Outcome.next (serveHead_eq hctr _ (hfirst.trans (serveTake_grants (x := y) hcl hd hqueue)))
    · exact congrArg Host.Outcome.next (serveHead_eq hctr _ (hfirst.trans (serveTake_remote (x := y) hcl hd hqueue)))
    · exact congrArg Host.Outcome.next (serveHead_eq hctr _ (hfirst.trans (serveTake_recalls (x := y) hd hround)))
  · intro t
    have hbind : (some cl).bind (fun cl => (t.slotOf cl va).bind (·.op)) = x.op := congrArg (Option.bind · Slot.op) hx
    refine ⟨fun m loc q hm => congrArg Host.Outcome.next ?_, fun held hm => congrArg Host.Outcome.next ?_,
      fun v hv hm => congrArg Host.Outcome.next ?_⟩
    · exact (deliverAllow_arrives hm rfl rfl).trans ((congrArg (arriveSlot t _) hbind).trans (arriveSlot_grant hx hop))
    · exact (deliverAllow_arrives hm rfl rfl).trans ((congrArg (arriveSlot t _) hbind).trans (arriveSlot_refusal hx hop))
    · exact (deliverAllow_arrives hm rfl rfl).trans ((congrArg (arriveSlot t _) hbind).trans (arriveSlot_reply hx hop hv))
  · intro t
    refine ⟨fun hst => congrArg Host.Outcome.next ?_, fun hst => congrArg Host.Outcome.next ?_⟩
    · exact (deliverAllow_arrives hm rfl rfl).trans (arriveSlot_recall_waits (t := t) hx hst)
    · exact (deliverAllow_arrives hm rfl rfl).trans (arriveSlot_recall (t := t) hx hst)
  · intro t
    refine ⟨fun cl v hm => congrArg Host.Outcome.next ?_, fun cl v op hm hfits => congrArg Host.Outcome.next ?_,
      fun cl v op t1 pl hm hlive hbroken hcheck hctr1 hfits => congrArg Host.Outcome.next ?_,
      fun v op hm hlive hbroken => congrArg Host.Outcome.next ?_⟩
    · exact (deliverAllow_arrives hm rfl rfl).trans (answerArrives_adds (t := t) hctr)
    · exact (deliverAllow_arrives hm rfl rfl).trans (homeAdd_giveUp (t := t) hctr hfits)
    · exact (deliverAllow_arrives hm rfl rfl).trans (returnArrives_adds hctr hlive hbroken hcheck hctr1 hfits)
    · exact (deliverAllow_arrives hm rfl rfl).trans (returnArrives_broken (t := t) hctr hlive hbroken)

end Sys2Proof.Machine
end

section
/-!
PROOFS. RATOM at a memory side: O37 speaks of every state, also of one whose table of groups holds a key twice. The requests that wait at a
die are collected from every entry of the table, while a request is performed for the group that the key finds, whose request may be
another die's.
-/

namespace Sys2Proof.Machine

/-- A request of no lanes, which is die 0's. -/
def emptyRequest : RatomReq := { num := 0, seq := 0, op := .add, n := 4, accs := [], batch := 0 }

/-- A request of one lane to package 1, which is die 4's. -/
def remoteRequest : RatomReq := { emptyRequest with accs := [{ lane := 0, va := 0x200000000000000 }] }

/-- Key 0 stands twice in the table of groups: the first entry, which the key finds, has die 0's request, and the second die 4's. -/
def doubledKey : State := { groups := [(0, { ratoms := [emptyRequest] }), (0, { ratoms := [remoteRequest] })] }

/-- The requests of group 0 that a memory side has performed, after an event. -/
def performed : Out → List Bool
  | .next t => (t.grp 0).ratoms.map (·.done)
  | _ => []

/-- Refutes O37: die 4's request of `doubledKey` waits at its memory side, but `mscRequest` leaves group 0's request, which is die 0's,
undone, where the statement has it performed. -/
theorem not_remoteAtomics : ¬ Obligations.RemoteAtomics := by
  rintro ⟨⟨-, hserve, -⟩, -⟩
  have hnext : exec (.mscRequest 4 0) doubledKey = .next (ratomPerform doubledKey 0 0) :=
    (hserve doubledKey 4 0 0 0 emptyRequest (by decide +kernel) rfl).1
  have hperforms : performed (.next (ratomPerform doubledKey 0 0)) = [true] := by decide +kernel
  have hleaves : performed (exec (.mscRequest 4 0) doubledKey) = [false] := by decide +kernel
  rw [hnext, hperforms] at hleaves
  exact absurd hleaves (by decide)

end Sys2Proof.Machine
end

section
/-!
PROOFS. Copies: their acceptance (R367), and what the answers to the first piece in flight do on a core's channel and on a hub die's (R354,
R359, R360, R365, R444).
-/

namespace Sys2Proof.Machine

/-! ### Channels and hub copies in their tables -/

theorem State.chan_putChan_self (s : State) (core c : Nat) (x : Chan) : (s.putChan core c x).chan core c = x := by
  rw [State.chan_putChan, if_pos ⟨rfl, rfl⟩]

theorem State.putChan_putChan (s : State) (core c : Nat) (x y : Chan) : (s.putChan core c x).putChan core c y = s.putChan core c y := by
  simp [State.putChan, State.putCore, State.core]

theorem hub_putHub (s : State) (pkg k : Nat) (x : HubCopy) : ((putHub s pkg k x).pkg pkg).hub.get? k = some x := by
  simp [putHub]

theorem putHub_putHub (s : State) (pkg k : Nat) (x y : HubCopy) : putHub (putHub s pkg k x) pkg k y = putHub s pkg k y := by
  simp [putHub]

/-! ### Pieces in flight -/

section Pieces

variable {f : Flow} {p : Piece} {more : List Piece} {dst src : Dword}

theorem Flow.put_head (hfly : f.fly = p :: more) (hothers : ∀ q ∈ more, q.lo ≠ p.lo) : f.put p = f := by
  have hmap : f.fly.map (fun x => if x.lo = p.lo then p else x) = f.fly := by
    rw [hfly, List.map_cons, if_pos rfl, (List.map_congr_left fun q hq => if_neg (hothers q hq)).trans (List.map_id' more)]
  exact congrArg (fun l => ({ f with fly := l } : Flow)) hmap

theorem Flow.landed_head (hfly : f.fly = p :: more) (hprog : p.lo = f.prog) : f.landed = { f with fly := more, prog := p.hi } := by
  unfold Flow.landed
  rw [hfly]
  exact congrArg (fun n => ({ f with fly := more, prog := n } : Flow)) (if_pos hprog)

theorem Moved.performed (h : Moved p dst src) : p.performed = true := by
  obtain ⟨hends, hunread, hgot⟩ := h
  simp [Piece.performed, hends, hunread, hgot]

theorem Moved.at_ (h : Moved p dst src) (near : Dword) : p.at_ near = dst := by
  obtain ⟨hends, hunread, hgot⟩ := h
  simp [Piece.at_, hends, hunread, hgot]

/-- A piece whose bytes have all been moved moves no more. -/
theorem Moved.move (h : Moved p dst src) (c : Carrier) (rd wr : Nat → Bool) (s : State) : c.move rd wr s p = { s := s, p := p } := by
  obtain ⟨hends, hunread, hgot⟩ := h
  have hopen : c.open_ { s := s, p := p } = { s := s, p := p } := by
    unfold Carrier.open_
    dsimp only
    rw [hends]
  unfold Carrier.move
  rw [hopen]
  dsimp only
  simp only [hunread, hgot, List.filter_nil, List.map_nil, List.foldl_nil, ite_self]

end Pieces

/-! ### Copies that run -/

section Streams

variable {x : Stream} {s t u : State} {f f' : Flow} {p : Piece} {more : List Piece} {dst src : Dword}

theorem Stream.head_flies (hget : x.get s = some f) (hfly : f.fly = p :: more) : x.head s = (s, some p) := by
  unfold Stream.head
  rw [hget]
  dsimp only
  rw [hfly, if_neg (by simp), hget]
  simp [hfly]

theorem Stream.set_eq (hget : x.get s = some f) (q : Piece) : x.set s q = x.put s (f.put q) := by
  unfold Stream.set
  rw [hget]

theorem Stream.check_eq (hget : x.get s = some f) : x.check s = if f.over x.carrier.last then x.finish s else s := by
  unfold Stream.check
  rw [hget]

/-- The answer to a piece of an address of the sending package needs no message. -/
theorem Stream.tell_home {va : Dword} (h : Home x.pkg va) (n : Nat) : x.tell s va true n = s := by
  unfold Stream.tell
  rcases h with h | h
  · exact if_pos (by rw [h]; rfl)
  · rw [h]
    cases (spaceOf va).global with
    | false => rfl
    | true => exact if_pos rfl

/-- The first piece in flight lands, its bytes moved. -/
theorem Stream.landHead_moved (hget : x.get s = some f) (hfly : f.fly = p :: more) (hothers : ∀ q ∈ more, q.lo ≠ p.lo) (hgo : p.st = .go)
    (hmoved : Moved p dst src) (hput : x.put s f = t) (hland : x.land t p = (t, .ok ())) (hcount : x.count t p = u)
    (hhome : Home x.pkg (x.carrier.near p.lo)) (hget' : x.get u = some f') : x.landHead s = x.check (x.put u f'.landed) := by
  unfold Stream.landHead
  rw [Stream.head_flies hget hfly]
  dsimp only
  rw [if_neg (by simp [hgo]), Moved.move hmoved ..]
  dsimp only
  rw [Moved.performed hmoved, if_neg (by decide), Stream.set_eq hget, Flow.put_head hfly hothers, hput, hland]
  dsimp only
  rw [hcount, Stream.tell_home hhome, hget']

/-- The first piece in flight, which is not held, is refused. -/
theorem Stream.refuseHead_refuses (hget : x.get s = some f) (hfly : f.fly = p :: more) (hst : ∀ va, p.st ≠ .held va) (hint : Nat) :
    x.refuseHead s hint = x.turnAway s p hint none := by
  unfold Stream.refuseHead
  rw [Stream.head_flies hget hfly]
  dsimp only
  split
  · exact absurd ‹_› (hst _)
  · rfl

theorem Stream.failHead_moved (hget : x.get s = some f) (hfly : f.fly = p :: more) (hmoved : Moved p dst src) {n : Nat} (hn : n ≠ 0) :
    x.failHead s n = x.check (x.failed (x.put s (f.fail p n dst)) n dst) := by
  unfold Stream.failHead
  rw [Stream.head_flies hget hfly]
  dsimp only
  rw [show x.stirPiece s p = { s := s, p := p } from Moved.move hmoved ..]
  dsimp only
  rw [Moved.at_ hmoved, if_neg hn]
  unfold Stream.fail
  rw [hget]

end Streams

theorem Flow.over_iff (f : Flow) (last : Nat) : f.over last = true ↔ f.fly = [] ∧ (f.err ≠ none ∨ last ≤ f.sent) := by
  simp [Flow.over, Option.isSome_iff_ne_none]

/-! ### A core's channel -/

section Channels

variable {s : State} {core chan : Nat} {j : CopyJob} {rest : List CopyJob}

theorem CopyJob.stream_get {j' : CopyJob} (hq : (s.chan core chan).queue = j' :: rest) (hgrp : j'.grp = j.grp) (hseq : j'.seq = j.seq) :
    (j.stream core chan).get s = some j'.flow := by
  unfold CopyJob.stream
  dsimp only
  rw [hq]
  exact if_pos ⟨hgrp, hseq⟩

/-- The pieces of the head copy of a channel that is not in HOLD change, and nothing else of the channel. -/
theorem putFlow_eq (hq : (s.chan core chan).queue = j :: rest) (hst : (s.chan core chan).st ≠ .hold) (f : Flow) :
    putFlow s core chan f = s.putChan core chan { (s.chan core chan) with queue := { j with flow := f } :: rest } := by
  unfold putFlow
  dsimp only
  rw [hq]
  dsimp only
  rw [if_neg (by simp [hst])]

theorem chan_putFlow (hq : (s.chan core chan).queue = j :: rest) (hst : (s.chan core chan).st ≠ .hold) (f : Flow) :
    (putFlow s core chan f).chan core chan = { (s.chan core chan) with queue := { j with flow := f } :: rest } := by
  rw [putFlow_eq hq hst, State.chan_putChan_self]

theorem copyCount_counts {p : Piece} {dst src : Dword} (hq : (s.chan core chan).queue = j :: rest) (hends : p.ends = some (dst, src))
    (hprog : p.lo = j.flow.prog) :
    copyCount s core chan p = s.putChan core chan { (s.chan core chan) with
      wptr := dst + BitVec.ofNat 64 p.n, lcnt := (s.chan core chan).lcnt + BitVec.ofNat 64 p.n } := by
  unfold copyCount
  dsimp only
  rw [hq, hends]
  exact if_pos hprog

/-- A copy whose pieces have changed goes on, or completes. -/
theorem CopyJob.stream_check {j' : CopyJob} (hq : (s.chan core chan).queue = j' :: rest) (hgrp : j'.grp = j.grp) (hseq : j'.seq = j.seq) :
    (j.stream core chan).check s = copyGoesOn s core chan j'.flow j.last := by
  rw [Stream.check_eq (CopyJob.stream_get hq hgrp hseq)]
  exact if_congr (Flow.over_iff ..) rfl rfl

theorem onHead_head (hq : (s.chan core chan).queue = j :: rest) (f : Stream → State → State) : onHead s core chan f = f (j.stream core chan) s := by
  unfold onHead
  rw [hq]

/-- R354, R355: the first piece in flight of a core's copy lands. -/
theorem landHead_core {p : Piece} {more : List Piece} {dst src : Dword} (hq : (s.chan core chan).queue = j :: rest) (hfly : j.flow.fly = p :: more)
    (hothers : ∀ q ∈ more, q.lo ≠ p.lo) (hgo : p.st = .go) (hmoved : Moved p dst src) (hprog : p.lo = j.flow.prog) (hbar : j.bar = none)
    (hhome : Home (pkgOfCore core) (j.near p.lo)) (hst : (s.chan core chan).st ≠ .hold) :
    let f : Flow := { j.flow with fly := more, prog := p.hi }
    (j.stream core chan).landHead s = copyGoesOn (s.putChan core chan { (s.chan core chan) with
      wptr := dst + BitVec.ofNat 64 p.n, lcnt := (s.chan core chan).lcnt + BitVec.ofNat 64 p.n, queue := { j with flow := f } :: rest }) core chan f j.last := by
  intro f
  let x := s.chan core chan
  let y : Chan := { x with wptr := dst + BitVec.ofNat 64 p.n, lcnt := x.lcnt + BitVec.ofNat 64 p.n, queue := j :: rest }
  have hput : putFlow s core chan j.flow = s.putChan core chan { x with queue := j :: rest } := putFlow_eq hq hst _
  have hcount : copyCount (s.putChan core chan { x with queue := j :: rest }) core chan p = s.putChan core chan y := by
    rw [copyCount_counts (j := j) (rest := rest) (by rw [State.chan_putChan_self]) hmoved.1 hprog, State.chan_putChan_self, State.putChan_putChan]
  have hy : (s.putChan core chan y).chan core chan = y := State.chan_putChan_self ..
  have hland := Stream.landHead_moved (x := j.stream core chan) (CopyJob.stream_get hq rfl rfl) hfly hothers hgo hmoved hput
    (by unfold CopyJob.stream copyLand; dsimp only; rw [hbar]) hcount hhome (CopyJob.stream_get (rest := rest) (j' := j) (by rw [hy]) rfl rfl)
  rw [hland, Flow.landed_head hfly hprog]
  have hput2 : putFlow (s.putChan core chan y) core chan f = s.putChan core chan { y with queue := { j with flow := f } :: rest } := by
    rw [putFlow_eq (j := j) (rest := rest) (by rw [hy]) (by rw [hy]; exact hst), hy, State.putChan_putChan]
  refine (congrArg (j.stream core chan).check hput2).trans ?_
  exact CopyJob.stream_check (j' := { j with flow := f }) (rest := rest) (by rw [State.chan_putChan_self]) rfl rfl

/-- R360: the first piece in flight of a core's copy is refused. -/
theorem refuseHead_core {p : Piece} {more : List Piece} (hq : (s.chan core chan).queue = j :: rest) (hfly : j.flow.fly = p :: more)
    (hheld : ∀ va, p.st ≠ .held va) (hst : (s.chan core chan).st = .run) (hint : Nat) :
    let x := s.chan core chan
    let t := s.putChan core chan { x with
      ref := if x.ref = 0xFFFFFFFF#32 then x.ref else x.ref + 1, st := .hold, queue := { j with flow := j.flow.put { p with st := .refused none } } :: rest }
    (j.stream core chan).refuseHead s hint =
      ({ t with refused := s.refused.filter (fun r => r.who != .copy core chan) } : State).refuse (.copy core chan) hint := by
  intro x t
  have hset : (j.stream core chan).set s { p with st := .refused none } = s.putChan core chan { x with
      queue := { j with flow := j.flow.put { p with st := .refused none } } :: rest } :=
    (Stream.set_eq (CopyJob.stream_get hq rfl rfl) _).trans (putFlow_eq hq (by rw [hst]; decide) _)
  have hcount : copyRefused ((j.stream core chan).set s { p with st := .refused none }) core chan = t := by
    unfold copyRefused
    rw [hset, State.chan_putChan_self]
    dsimp only
    rw [State.putChan_putChan, if_neg (by rw [hst]; decide)]
  rw [Stream.refuseHead_refuses (CopyJob.stream_get hq rfl rfl) hfly hheld]
  exact congrArg (fun u : State => ({ u with refused := u.refused.filter (fun r => r.who != .copy core chan) } : State).refuse (.copy core chan) hint) hcount

theorem chan_batchErr (s : State) (gk num sub : Nat) (dst : Dword) (core chan : Nat) : (batchErr s gk num sub dst).chan core chan = s.chan core chan := by
  unfold batchErr batchMap
  split <;> rfl

/-- R359: the first piece in flight of a core's copy, its bytes moved, is answered with an error. -/
theorem failHead_core {p : Piece} {more : List Piece} {dst src : Dword} {n : Nat} (hq : (s.chan core chan).queue = j :: rest) (hfly : j.flow.fly = p :: more)
    (hmoved : Moved p dst src) (hst : (s.chan core chan).st ≠ .hold) (hn : n ≠ 0) :
    let f : Flow := { j.flow with fly := j.flow.fly.filter (fun q => q.lo != p.lo), err := some (j.flow.err.getD (n, dst)) }
    (j.stream core chan).failHead s n =
      copyGoesOn (batchErr (s.putChan core chan { (s.chan core chan) with queue := { j with flow := f } :: rest }) j.grp j.batch n dst) core chan f j.last := by
  intro f
  rw [Stream.failHead_moved (CopyJob.stream_get hq rfl rfl) hfly hmoved hn]
  have hput : (j.stream core chan).put s (j.flow.fail p n dst) = s.putChan core chan { (s.chan core chan) with queue := { j with flow := f } :: rest } :=
    putFlow_eq hq hst _
  rw [hput]
  exact CopyJob.stream_check (j' := { j with flow := f }) (rest := rest)
    (by
      unfold CopyJob.stream
      dsimp only
      rw [chan_batchErr, State.chan_putChan_self]) rfl rfl

end Channels

/-! ### A hub die's channel -/

section Hub

variable {s : State} {pkg k : Nat} {x : HubCopy} {p : Piece} {more : List Piece} {dst src : Dword}

theorem onHub_present (hx : (s.pkg pkg).hub.get? k = some x) (f : Stream → State → State) : onHub s pkg k f = f (x.stream pkg k) s := by
  unfold onHub
  rw [hx]

theorem HubCopy.stream_get {y : HubCopy} (hx : (s.pkg pkg).hub.get? k = some y) : (x.stream pkg k).get s = some y.flow :=
  congrArg (Option.map HubCopy.flow) hx

theorem putHubFlow_eq (hx : (s.pkg pkg).hub.get? k = some x) (f : Flow) : putHubFlow s pkg k f = putHub s pkg k { x with flow := f } := by
  unfold putHubFlow
  rw [hx]

theorem landHead_hub (hx : (s.pkg pkg).hub.get? k = some x) (hfly : x.flow.fly = p :: more) (hothers : ∀ q ∈ more, q.lo ≠ p.lo)
    (hprog : p.lo = x.flow.prog) (hgo : p.st = .go) (hmoved : Moved p dst src) (hbar : x.bar = none) (hhome : Home pkg (Dword.plus x.dst p.lo))
    (herr : x.flow.err = none) (hsent : x.flow.sent < x.n) :
    (x.stream pkg k).landHead s = putHub s pkg k { x with flow := { x.flow with fly := more, prog := p.hi } } := by
  have hy := hub_putHub s pkg k { x with flow := x.flow }
  rw [Stream.landHead_moved (x := x.stream pkg k) (HubCopy.stream_get hx) hfly hothers hgo hmoved (putHubFlow_eq hx x.flow)
    (by unfold HubCopy.stream hubLand; dsimp only; rw [hbar]) rfl hhome (HubCopy.stream_get hy), Flow.landed_head hfly hprog]
  refine (congrArg (x.stream pkg k).check ((putHubFlow_eq hy _).trans (putHub_putHub ..))).trans ?_
  rw [Stream.check_eq (HubCopy.stream_get (hub_putHub ..)), if_neg]
  rw [Flow.over_iff]
  rintro ⟨-, h | h⟩
  · exact h herr
  · exact absurd hsent (Nat.not_lt.2 h)

theorem refuseHead_hub (hx : (s.pkg pkg).hub.get? k = some x) (hfly : x.flow.fly = p :: more) (hheld : ∀ va, p.st ≠ .held va) (hint : Nat) :
    (x.stream pkg k).refuseHead s hint = ({ putHub s pkg k { x with flow := x.flow.put { p with st := .refused none } } with
      refused := s.refused.filter (fun r => r.who != .hub pkg k) } : State).refuse (.hub pkg k) hint := by
  have hset := (Stream.set_eq (x := x.stream pkg k) (HubCopy.stream_get hx) { p with st := .refused none }).trans (putHubFlow_eq hx _)
  rw [Stream.refuseHead_refuses (HubCopy.stream_get hx) hfly hheld]
  exact congrArg (fun u : State => ({ u with refused := u.refused.filter (fun r => r.who != .hub pkg k) } : State).refuse (.hub pkg k) hint) hset

end Hub

/-! ### Acceptance (R351, R367, R369) -/

theorem copyI_accepts {k : CopyKind} {sh : Shape} {o : EOps} {s : State} {g : Group} {c : Clause} {j : CopyJob}
    (hj : { copyJobOf k { g with wait := .none } s.free o with grp := s.cur } = j)
    (h : Runs { roleChan ({} : Checks).closing o with illegal := fun s g => g.regsIn sh o && (copyJobOf k g s.free o).bad } sh o s g c)
    (hcheck : copyCheck s { g with wait := .none } j = none ∨ CopyPasses s { g with wait := .none } j) (hcomm : g.comm = [])
    (hfree : copyHeld (issuing s g) { g with wait := .none } = false) (hroom : j.bytes = 0 ∨ (s.chan g.core (chanOf s g o)).queue.length < 16) :
    let t := copyAccept (issuing s g) s.cur g.core (chanOf s g o) j
    copyI k {} sh o s = .next (applyEff c true { s := t, g := t.grp t.cur }) := by
  intro t
  refine issueC_applies h ?_
  dsimp only
  rw [hj, hcheck.elim id copyCheck_passes]
  dsimp only
  rw [← issuing_eq_putG, issuing_commAll s hcomm]
  rw [issuing_cur, issuing_grp, hfree]
  refine if_neg ?_
  rw [show (issuing s g).chan ({ g with wait := .none } : Group).core (chanOf s { g with wait := .none } o) = s.chan g.core (chanOf s g o) from rfl]
  rcases hroom with h0 | hlt
  · simp [h0]
  · simp [Nat.not_le.2 hlt]

theorem CopyJob.lost_none {s : State} {pkg : Nat} (h : ∀ q, s.lostTo pkg q = false) (j : CopyJob) : j.lost s pkg = none :=
  List.findSome?_eq_none_iff.2 fun va _ => if_neg fun hva => by simp [h] at hva

/-- R357, R365: a copy of up to 64 KiB on an idle channel joins the open batch and runs. -/
theorem copyAccept_idle {s : State} {gk core chan : Nat} {g : Group} {j : CopyJob} (hg : s.groups.get? gk = some g) (hbytes : j.bytes ≠ 0)
    (hlight : j.bytes ≤ 0x10000) (hq : (s.chan core chan).queue = []) (hst : (s.chan core chan).st = .idle) (hlost : ∀ q, s.lostTo (pkgOfCore core) q = false) :
    copyAccept s gk core chan j =
      ({ s with groups := s.groups.put gk { g with batches := { g.batches with cur := g.batches.cur.join } }.wakeCopy } : State).putChan core chan
        { (s.chan core chan) with queue := [{ j with batch := g.batches.openNum }], st := .run } := by
  have hjoin : batchMap s gk g.batches.openNum Batch.join =
      { s with groups := s.groups.put gk { g with batches := { g.batches with cur := g.batches.cur.join } }.wakeCopy } := by
    unfold batchMap
    rw [hg]
    dsimp only
    rw [show g.batches.update g.batches.openNum Batch.join = { g.batches with cur := g.batches.cur.join } from if_pos rfl]
  generalize ht : ({ s with groups := s.groups.put gk { g with batches := { g.batches with cur := g.batches.cur.join } }.wakeCopy } : State) = t at hjoin ⊢
  have hchan : t.chan core chan = s.chan core chan := by rw [← ht]; rfl
  have hlost' : ∀ q, t.lostTo (pkgOfCore core) q = false := by rw [← ht]; exact hlost
  have hheavy : ({ j with batch := g.batches.openNum } : CopyJob).heavy = false := decide_eq_false (Nat.not_lt.2 hlight)
  unfold copyAccept
  dsimp only
  rw [State.grp_of_get? hg, hjoin, hchan, hq]
  refine (if_neg hbytes).trans ?_
  rw [CopyJob.lost_none hlost']
  refine (if_pos rfl).trans ?_
  unfold startHead
  dsimp only
  rw [State.chan_putChan_self]
  dsimp only [List.nil_append]
  rw [if_neg (by rw [hst]; decide), if_neg (ne_true_of_eq_false hheavy), State.putChan_putChan]

theorem copyStarts {i : Instr} {k : CopyKind} {sh : Shape} {o : EOps} (hx : ∀ s, exec i s = copyI k {} sh o s) : CopyStarts i k sh o := by
  intro s g c g0 j chan h hcheck hcomm hfree hroom
  exact (hx s).trans (copyI_accepts rfl h hcheck hcomm hfree hroom)

theorem Group.wakeCopy_batches (g : Group) : g.wakeCopy.batches = g.batches := by
  unfold Group.wakeCopy
  split <;> rfl

theorem copiesRun : Parts.CopiesRun := by
  refine ⟨fun o => ⟨copyStarts fun _ => rfl, copyStarts fun _ => rfl, copyStarts fun _ => rfl, copyStarts fun _ => rfl⟩,
    fun s gk g core chan j hg => ?_, fun s core chan j rest p more dst src => ?_, fun s core chan hint j rest p more hq hfly hheld hst => ?_,
    fun s core chan sub j rest p more dst src => ?_, fun s pkg k x p more dst src hint hx hfly hothers hprog => ⟨?_, fun hheld => ?_⟩⟩
  · intro t b num hbytes hlight hq hst hlost
    have ht : t = _ := copyAccept_idle hg hbytes hlight hq hst hlost
    rw [ht]
    refine ⟨?_, State.chan_putChan_self ..⟩
    have hgrp : ((({ s with groups := s.groups.put gk { g with batches := { g.batches with cur := g.batches.cur.join } }.wakeCopy } : State).putChan
        core chan { (s.chan core chan) with queue := [{ j with batch := g.batches.openNum }], st := .run }).grp gk) =
        ({ g with batches := { g.batches with cur := g.batches.cur.join } } : Group).wakeCopy := State.grp_of_get? (Tab.get?_put_self ..)
    rw [hgrp, Group.wakeCopy_batches]
    rfl
  · intro x hq hfly hothers hgo hmoved hprog hbar hhome hst f
    exact congrArg Host.Outcome.next ((onHead_head hq Stream.landHead).trans (landHead_core hq hfly hothers hgo hmoved hprog hbar hhome hst))
  · intro x t
    exact congrArg Host.Outcome.next ((onHead_head hq fun x s => x.refuseHead s hint.toNat).trans (refuseHead_core hq hfly hheld hst hint.toNat))
  · intro x hq hfly hmoved hst hsub n f
    have hn : min sub.toNat 5 ≠ 0 := by
      have : sub.toNat ≠ 0 := fun h => hsub (BitVec.eq_of_toNat_eq h)
      omega
    exact congrArg Host.Outcome.next ((onHead_head hq fun x s => x.failHead s (min sub.toNat 5)).trans (failHead_core hq hfly hmoved hst hn))
  · intro hgo hmoved hbar hhome _ herr _ hsent
    exact congrArg Host.Outcome.next ((onHub_present hx Stream.landHead).trans (landHead_hub hx hfly hothers hprog hgo hmoved hbar hhome herr hsent))
  · exact congrArg Host.Outcome.next ((onHub_present hx fun x s => x.refuseHead s hint.toNat).trans (refuseHead_hub hx hfly hheld hint.toNat))

end Sys2Proof.Machine
end

section
/-!
PROOFS. The pieces of a copy (R353, R354, R356), own races (R173, R337, R356), and the batch instructions (R357, R358, R370 to R372).
-/

namespace Sys2Proof.Machine

/-! ### Pieces -/

section Pieces

variable {c : Carrier} {f : Flow} {w : Went} {p : Piece} {dst src : Dword} {i : Nat} {b : Byte}

theorem Flow.send_over (order : Nat) (h : f.err ≠ none ∨ c.last ≤ f.sent) : f.send c order = f :=
  if_pos (by simpa [Option.isSome_iff_ne_none] using h)

theorem Flow.send_next (order : Nat) (herr : f.err = none) (hsent : f.sent < c.last) :
    f.send c order = { f with
      sent := (c.cut f.sent).2
      fly := f.fly ++ [{ lo := f.sent, hi := (c.cut f.sent).2, n := (c.cut f.sent).1, unread := List.range (c.cut f.sent).1, order := order }] } :=
  if_neg (by simp [herr, Nat.not_le.2 hsent])

/-- A piece of a linear copy ends at a page of its destination, or at the end of the copy. -/
theorem CopyJob.cut_line (core chan : Nat) {j : CopyJob} {off : Nat} (hk : j.kind = .line) :
    (j.carrier core chan).cut off =
      (min (4096 - (j.dst + BitVec.ofNat 64 off).toNat % 4096) (j.n - off), off + min (4096 - (j.dst + BitVec.ofNat 64 off).toNat % 4096) (j.n - off)) := by
  unfold CopyJob.carrier CopyJob.cut CopyJob.near
  dsimp only
  rw [hk]

theorem CopyJob.ends_line (core chan : Nat) {j : CopyJob} {off : Nat} (hk : j.kind = .line) (s : State) :
    (j.carrier core chan).ends s off = (s, .ok (j.dst + BitVec.ofNat 64 off, j.src + BitVec.ofNat 64 off)) := by
  unfold CopyJob.carrier CopyJob.ends CopyJob.near
  dsimp only
  rw [hk]

theorem Carrier.readOne_reads {s t : State} (hends : p.ends = some (dst, src)) (hread : c.read s (src + BitVec.ofNat 64 i) = (t, .ok [b])) :
    c.readOne { s := s, p := p } i = { s := t, p := { p with unread := p.unread.erase i, got := p.got.put i b } } := by
  unfold Carrier.readOne
  dsimp only
  rw [hends]
  dsimp only
  rw [hread]
  rfl

theorem Carrier.writeOne_writes {s t : State} (hends : p.ends = some (dst, src)) (hgot : p.got.get? i = some b)
    (hwrite : c.write s (dst + BitVec.ofNat 64 i) [b] = (t, .ok ())) :
    c.writeOne { s := s, p := p } i = { s := t, p := { p with got := p.got.del i } } := by
  unfold Carrier.writeOne
  dsimp only
  rw [hends, hgot]
  dsimp only
  rw [hwrite]

theorem Carrier.readOne_unread (c : Carrier) (w : Went) (i : Nat) : (c.readOne w i).p.unread ⊆ w.p.unread := by
  unfold Carrier.readOne
  split
  · split
    · exact List.erase_subset
    · exact List.Subset.refl _
  · exact List.Subset.refl _

theorem Carrier.writeOne_unread (c : Carrier) (w : Went) (i : Nat) : (c.writeOne w i).p.unread = w.p.unread := by
  unfold Carrier.writeOne
  split
  · split <;> rfl
  · rfl

theorem Carrier.open_unread (c : Carrier) (w : Went) : (c.open_ w).p.unread = w.p.unread := by
  unfold Carrier.open_
  dsimp only
  split
  · rfl
  · rfl
  · split
    · rfl
    · split
      · rfl
      · split <;> rfl

theorem Carrier.foldl_readOne_unread (c : Carrier) (l : List Nat) (w : Went) : (l.foldl c.readOne w).p.unread ⊆ w.p.unread := by
  induction l generalizing w with
  | nil => exact List.Subset.refl _
  | cons i l ih => exact List.Subset.trans (ih _) (c.readOne_unread w i)

theorem Carrier.foldl_writeOne_unread (c : Carrier) (l : List Nat) (w : Went) : (l.foldl c.writeOne w).p.unread = w.p.unread := by
  induction l generalizing w with
  | nil => rfl
  | cons i l ih => exact (ih _).trans (c.writeOne_unread w i)

theorem Carrier.move_still (rd wr : Nat → Bool) (s : State) (h : c.moves (c.open_ { s := s, p := p }) = false) :
    c.move rd wr s p = c.open_ { s := s, p := p } :=
  if_pos (by rw [h]; rfl)

theorem Carrier.move_unread (c : Carrier) (rd wr : Nat → Bool) (s : State) (p : Piece) : (c.move rd wr s p).p.unread ⊆ p.unread := by
  have hopen : (c.open_ { s := s, p := p }).p.unread = p.unread := c.open_unread _
  cases hm : c.moves (c.open_ { s := s, p := p }) with
  | false => rw [Carrier.move_still rd wr s hm, hopen]; exact List.Subset.refl _
  | true =>
    have hmove : c.move rd wr s p = _ := if_neg (by rw [hm]; decide)
    rw [hmove, c.foldl_writeOne_unread, ← hopen]
    exact c.foldl_readOne_unread _ _

end Pieces

theorem copyPieces : Parts.CopyPieces := by
  refine ⟨fun c order f h => Flow.send_over order h, fun c order f herr hsent => Flow.send_next order herr hsent, fun core chan j off hk hoff => ?_,
    fun core chan j s p dst src i b t hends hread => Carrier.readOne_reads hends hread,
    fun core chan j s p dst src i b t hends hgot hwrite => Carrier.writeOne_writes hends hgot hwrite,
    fun c rd wr s p => ⟨fun h => Carrier.move_still rd wr s h, fun i hi => c.move_unread rd wr s p hi⟩⟩
  intro x
  have hx : x = _ := CopyJob.cut_line core chan hk
  refine ⟨congrArg Prod.fst hx, (congrArg Prod.snd hx).trans (congrArg (off + ·) (congrArg Prod.fst hx).symm), ?_, fun s => CopyJob.ends_line core chan hk s⟩
  rw [hx]
  dsimp only
  omega

/-! ### Own races (R173, R337, R356) -/

section Races

theorem eitherBytes_length {q : Nat × Nat → Bool} {free k : Nat} {at_ : List (Nat × Nat)} {old new : List Byte} (hold : old.length = new.length)
    (hat : at_.length = new.length) : (eitherBytes q free k at_ old new).length = new.length := by
  simp [eitherBytes, hold, hat]

theorem eitherBytes_either {q : Nat × Nat → Bool} {free k : Nat} {at_ : List (Nat × Nat)} {old new : List Byte} {i : Nat}
    (hold : old.length = new.length) (hat : at_.length = new.length) (hi : i < new.length) :
    (eitherBytes q free k at_ old new)[i]? = new[i]? ∨ (∃ p, at_[i]? = some p ∧ q p = true) ∧ (eitherBytes q free k at_ old new)[i]? = old[i]? := by
  have hio : i < old.length := hold ▸ hi
  have hia : i < at_.length := hat ▸ hi
  have hout : (eitherBytes q free k at_ old new)[i]? =
      some (if q at_[i] && Config.raceBytes free (raceKey k at_[i]) then old[i] else new[i]) := by
    unfold eitherBytes
    rw [List.getElem?_map, List.getElem?_eq_getElem (by simp [hi, hio, hia])]
    simp
  rw [hout, List.getElem?_eq_getElem hi, List.getElem?_eq_getElem hio, List.getElem?_eq_getElem hia]
  cases hq : q at_[i] with
  | false => exact .inl rfl
  | true =>
    cases Config.raceBytes free (raceKey k at_[i]) with
    | false => exact .inl rfl
    | true => exact .inr ⟨⟨_, rfl, hq⟩, rfl⟩

theorem Group.seenBytes_length (g : Group) (free seq : Nat) {at_ : List (Nat × Nat)} {bs : List Byte} (hat : at_.length = bs.length) :
    (g.seenBytes free seq at_ bs).length = bs.length := by
  unfold Group.seenBytes
  split
  · rfl
  · simp [hat]

/-- A byte that is chosen from one value and those of a list is one of them. -/
theorem getD_cons_or (a : Byte) (l : List Byte) (k : Nat) : (a :: l).getD k a = a ∨ (a :: l).getD k a ∈ l := by
  cases k with
  | zero => exact .inl rfl
  | succ k =>
    rw [List.getD_cons_succ]
    by_cases hk : k < l.length
    · exact .inr (by rw [List.getD_eq_getElem _ _ hk]; exact List.getElem_mem hk)
    · exact .inl (List.getD_eq_default _ _ (Nat.not_lt.1 hk))

theorem Group.seenBytes_seen (g : Group) (free seq : Nat) {at_ : List (Nat × Nat)} {bs : List Byte} {i : Nat} (hat : at_.length = bs.length)
    (hi : i < bs.length) : (g.seenBytes free seq at_ bs)[i]? = bs[i]? ∨
      ∃ w ∈ g.stores, at_[i]? = some w.place ∧ seq < w.seq ∧ (g.seenBytes free seq at_ bs)[i]? = some w.old := by
  have hia : i < at_.length := hat ▸ hi
  unfold Group.seenBytes
  split
  · exact .inl rfl
  · rw [List.getElem?_map, List.getElem?_eq_getElem (l := bs.zip at_) (by simp [hi, hia]), List.getElem?_eq_getElem hi, List.getElem?_eq_getElem hia]
    simp only [Option.map_some, List.getElem_zip]
    rcases getD_cons_or bs[i] ((g.stores.filter (fun w => w.place == at_[i] && decide (seq < w.seq))).map (·.old)) _ with h | h
    · exact .inl (congrArg some h)
    · obtain ⟨w, hw, hold⟩ := List.mem_map.1 h
      obtain ⟨hw, hwhere⟩ := List.mem_filter.1 hw
      simp only [Bool.and_eq_true, beq_iff_eq, decide_eq_true_eq] at hwhere
      exact .inr ⟨w, hw, congrArg some hwhere.1.symm, hwhere.2, congrArg some hold.symm⟩

theorem State.calm_iff (s : State) (gk : Nat) : s.calm gk = true ↔ (s.grp gk).landed = [] ∧ s.racing gk none = false := by
  simp [State.calm]

variable {s u : State} {gk seq lane hint : Nat} {r : TransReq} {bs old : List Byte}

theorem ownWrite_calm (h : s.calm gk = true) : ownWrite s gk seq r lane hint bs = laneWrite s gk seq r lane hint bs := if_pos h

theorem ownWrite_races (h : s.calm gk = false) (hread : (laneRead s gk { r with read := true, write := false } lane hint bs.length).2 = .ok old)
    (hwrite : laneWrite s gk seq r lane hint (eitherBytes ((s.grp gk).landedBy (fun _ => true)) s.free 0 (placesOf s gk lane r.va bs.length) old bs) =
      (u, .ok ())) : ownWrite s gk seq r lane hint bs = (u.noteStore gk seq none (placesOf s gk lane r.va bs.length) old, .ok ()) := by
  refine (if_neg (ne_true_of_eq_false h)).trans ?_
  rw [hread]
  dsimp only
  rw [hwrite]

theorem copyPut_alone {core chan : Nat} {j : CopyJob} (hstores : (s.grp j.grp).stores = []) (hlanded : (s.grp j.grp).landed = [])
    (hwrite : copyWrite s core j.grp j.seq r j.hint bs = (u, .ok ())) :
    copyPut s core chan j r bs = (u.noteLanded j.grp (.copy j.batch chan) (placesOf s j.grp 0 r.va bs.length), .ok ()) := by
  unfold copyPut
  dsimp only
  rw [hstores, hlanded, if_pos (show (([] : List Wrote).isEmpty && ([] : List Landed).isEmpty) = true from rfl), hwrite]

theorem Group.mem_waited (g : Group) (n : Nat) (l : Landed) :
    l ∈ (g.waited n).landed ↔ l ∈ g.landed ∧ ¬(n ≠ 0 ∧ ∃ m c, l.by_ = .copy m c ∧ g.batches.covers n m = true) := by
  unfold Group.waited
  split
  · next h0 => simp [h0]
  · next hne =>
    rw [List.mem_filter]
    refine and_congr_right fun _ => ?_
    cases hby : l.by_ with
    | copy m c => simp [hne]
    | tile k => simp

end Races

theorem ownRaces : Parts.OwnRaces :=
  ⟨fun _ _ _ _ _ _ _ hold hat hi => ⟨eitherBytes_length hold hat, eitherBytes_either hold hat hi⟩,
    fun g free seq _ _ _ hat hi => ⟨g.seenBytes_length free seq hat, g.seenBytes_seen free seq hat hi⟩, State.calm_iff,
    fun _ _ _ _ _ _ _ h => ownWrite_calm h, fun _ _ _ _ _ _ _ _ _ h hread hwrite => ownWrite_races h hread hwrite,
    fun _ _ _ _ _ _ _ hstores hlanded hwrite => copyPut_alone hstores hlanded hwrite, Group.mem_waited⟩

/-! ### CSEAL, CWAIT and CWPTR (R357, R358, R370 to R372) -/

section Batches

variable {s : State} {g : Group} {o : EOps} {c : Clause}

theorem cseal_seals (h : Runs {} shCseal o s g c) (hroom : g.batches.recs.length < 16) :
    cseal {} shCseal o s = .next (s.with (({ g with batches :=
      { cur := { num := 0 }, newest := g.batches.openNum, recs := g.batches.recs ++ [{ g.batches.cur with num := g.batches.openNum }] } } : Group).wrote c
        [(sKey o.d.toNat, BitVec.ofNat 32 g.batches.openNum)])) :=
  issueC_changes h rfl (if_pos hroom) rfl rfl

theorem Group.waited_eq (g : Group) (n : Nat) : g.waited n = { g with landed := (g.waited n).landed } := by
  unfold Group.waited
  split <;> rfl

theorem Group.waited_resumed (g : Group) (n : Nat) : ({ g with wait := .none } : Group).waited n = { g.waited n with wait := .none } := by
  unfold Group.waited
  split <;> rfl

/-- CWAIT of complete batches with no error frees their records. -/
theorem cwaitDone_clean {target : List Batch} (h : ∀ r ∈ target, r.peer = false ∧ r.other = false) :
    cwaitDone s g target =
      okOuts s { g with batches := { g.batches with recs := g.batches.recs.filter (fun r => !(target.map (·.num)).contains r.num) } } [] := by
  have hpeer : target.find? (·.peer) = none := List.find?_eq_none.2 fun r hr => ne_true_of_eq_false (h r hr).1
  have hother : target.find? (·.other) = none := List.find?_eq_none.2 fun r hr => ne_true_of_eq_false (h r hr).2
  unfold cwaitDone
  dsimp only
  rw [hpeer, hother]

theorem cwait_goes_on (h : Runs {} shCwait o s g c)
    (hdone : ∀ r ∈ cwaitTarget g.batches (g.uB32 s.free o).toNat, r.left = 0 ∧ r.peer = false ∧ r.other = false) :
    let n := (g.uB32 s.free o).toNat
    cwait {} shCwait o s = .next ((seeCopies s g).with (({ g.waited n with batches := { g.batches with
      recs := g.batches.recs.filter (fun r => !((cwaitTarget g.batches n).map (fun r => r.num)).contains r.num) } } : Group).wrote c [])) := by
  intro n
  have hbatches : (g.waited n).batches = g.batches := by rw [Group.waited_eq]
  have hcomplete : (cwaitTarget g.batches n).all (·.complete) = true :=
    List.all_eq_true.2 fun r hr => by simp [Batch.complete, (hdone r hr).1]
  refine issueC_effect (g' := { g.waited n with batches := _ }) h rfl ?_ (by rw [Group.waited_eq]) (by rw [Group.waited_eq])
  refine (if_pos hcomplete).trans ?_
  rw [show ({ g with wait := .none } : Group).uB32 s.free o = g.uB32 s.free o from rfl, Group.waited_resumed,
    cwaitDone_clean fun r hr => (hdone r hr).2]
  dsimp only
  rw [hbatches]
  rfl

theorem cwait_blocks (h : Runs {} shCwait o s g c) (hopen : ∃ r ∈ cwaitTarget g.batches (g.uB32 s.free o).toNat, r.left ≠ 0) :
    cwait {} shCwait o s = .next ((plRelease s g.core).with { g with wait := .cwait (g.uB32 s.free o).toNat }) := by
  obtain ⟨r, hr, hleft⟩ := hopen
  refine issueC_done h (if_neg fun hall => hleft ?_)
  simpa [Batch.complete] using List.all_eq_true.1 hall r hr

theorem cwaitTest_tests (h : Runs {} shCwaitTest o s g c) :
    let n := (g.uB32 s.free o).toNat
    let ok := (cwaitTarget g.batches n).all (fun r => r.left == 0)
    cwaitTest {} shCwaitTest o s = .next ((if ok then seeCopies s g else s).with (((if ok then g.waited n else g).putK o.d.toNat ok).wrote c [])) := by
  intro n ok
  have hseen : (if ok then ({ g with wait := .none } : Group).waited n else { g with wait := .none }) =
      { (if ok then g.waited n else g) with wait := .none } := by
    cases ok with
    | false => rfl
    | true => exact Group.waited_resumed g n
  have hk : ∀ g : Group, (g.putK o.d.toNat ok).clause = g.clause ∧ (g.putK o.d.toNat ok).ecc = g.ecc := fun g => by
    rw [Group.putK_eq]
    exact ⟨rfl, rfl⟩
  have hw : (if ok then g.waited n else g).clause = g.clause ∧ (if ok then g.waited n else g).ecc = g.ecc := by
    cases ok with
    | false => exact ⟨rfl, rfl⟩
    | true =>
      rw [if_pos rfl, Group.waited_eq]
      exact ⟨rfl, rfl⟩
  refine issueC_effect h rfl ?_ ((hk _).1.trans hw.1) ((hk _).2.trans hw.2)
  refine (congrArg (fun x : Group => okOuts (if ok then seeCopies s g else s) (x.putK o.d.toNat ok) []) hseen).trans ?_
  rw [Group.putK_eq, Group.putK_eq]

theorem cwptr_reads {see : Bool} {f : Chan → List Word} {sh : Shape} (h : Runs (roleChan {} o) sh o s g c) :
    cwptr see f {} sh o s = .next ((if see then seeCopies s g else s).with (g.wrote c
      ((f (s.chan g.core (chanOf s g o))).zipIdx.map (fun p => (sKey (o.d.toNat + p.2), p.1))))) :=
  issueC_effect h rfl rfl rfl rfl

end Batches

theorem cwptrAddr_reads {o : EOps} {s : State} {g : Group} {c : Clause} (h : Runs (roleChan {} o) shCwptrAddr o s g c) (f : Chan → Dword) :
    cwptr true (fun x => twoWords (f x)) {} shCwptrAddr o s =
      .next ((seeCopies s g).with (g.wrote c (uniPair o (f (s.chan g.core (chanOf s g o)))))) :=
  cwptr_reads h

theorem cwptrProg_reads {o : EOps} {s : State} {g : Group} {c : Clause} (h : Runs (roleChan {} o) shCwptrProg o s g c) (f : Chan → Word) :
    cwptr false (fun x => [f x]) {} shCwptrProg o s = .next (s.with (g.wrote c [(sKey o.d.toNat, f (s.chan g.core (chanOf s g o)))])) :=
  cwptr_reads h

theorem batchInstructions : Parts.BatchInstructions := by
  refine ⟨fun o s g c h hroom => cseal_seals h hroom, fun o s g c h => ⟨cwait_goes_on h, cwait_blocks h⟩, fun o s g c h => cwaitTest_tests h,
    fun o s g c h => ⟨?_, ?_⟩, fun o s g c h => ⟨?_, ?_⟩⟩
  · exact cwptrAddr_reads h Chan.writePtr
  · exact cwptrAddr_reads h Chan.lcnt
  · exact cwptrProg_reads h fun x => BitVec.ofNat 32 x.progress
  · exact cwptrProg_reads h Chan.ref

/-- Settles O36: a copy's acceptance and the answers to its pieces, the bytes of a piece, races, and batches. -/
theorem copiesAndBatches : Obligations.CopiesAndBatches := ⟨copiesRun, copyPieces, ownRaces, batchInstructions⟩

end Sys2Proof.Machine
end
